-- ==== Sys2Proof/Word.lean ====
section
/-! DEFINITION. The machine's words and their plainest arithmetic (00 R6: bit 0 is least significant, multi-byte values are little-endian). -/

namespace Sys2Proof

/-- A byte, the smallest addressable unit. -/
abbrev Byte := BitVec 8
/-- A word is 32 bits (00 R6). -/
abbrev Word := BitVec 32
/-- A register pair, even register low (00 R6). -/
abbrev Dword := BitVec 64
/-- A set of lanes of one group, bit l for lane l. -/
abbrev Mask := BitVec 32

/-- Little-endian bytes of a natural number, `n` of them. -/
def bytesLE : Nat → Nat → List Byte
  | 0, _ => []
  | n + 1, x => BitVec.ofNat 8 x :: bytesLE n (x / 256)

/-- The natural number whose little-endian bytes are given. -/
def natLE : List Byte → Nat
  | [] => 0
  | b :: bs => b.toNat + 256 * natLE bs

/-- The word as an n32 value. -/
abbrev Word.n (w : Word) : Nat := w.toNat
/-- The word as an i32 value. -/
abbrev Word.i (w : Word) : Int := w.toInt

/-- The 64-bit value of a pair, `lo` the even register (00 R6). -/
def pairVal (lo hi : Word) : Nat := lo.toNat + 2 ^ 32 * hi.toNat

/-- Bits h down to l of a number (00 R8). -/
def bits (x h l : Nat) : Nat := (x / 2 ^ l) % 2 ^ (h + 1 - l)

/-- `SignExtend(x, n)` of 00 R8 as an exact integer. -/
def sext (n x : Nat) : Int := if x % 2 ^ n < 2 ^ (n - 1) then (x % 2 ^ n : Nat) else ((x % 2 ^ n : Nat) : Int) - (2 ^ n : Nat)

/-- The low 32 bits of an exact integer. -/
def wordOfInt (x : Int) : Word := BitVec.ofInt 32 x

/-- One when the condition holds, else zero (PRED of 01 R33). -/
def wordOfBool (b : Bool) : Word := if b then 1 else 0

/-- Lanes in a mask, ascending. -/
def lanesOf (m : Mask) : List Nat := (List.range 32).filter (fun l => m.getLsbD l)

/-- The mask holding exactly the lanes of a list. -/
def maskOf (ls : List Nat) : Mask := ls.foldl (fun m l => m ||| (1#32 <<< l)) 0

/-- Number of lanes of a mask. -/
def popMask (m : Mask) : Nat := (lanesOf m).length

/-- Set bits of a word. -/
def popCount (w : Word) : Nat := ((List.range 32).filter (fun i => w.getLsbD i)).length

end Sys2Proof
end

