-- ==== Sys2Proof/Config.lean ====
section
/-! DEFINITION. What the spec leaves open, as constants with no body, and the fixed capacities of 00 R1. -/

namespace Sys2Proof.Config

/-- DEDUCED, log entry 4. An undefined word (00 R5): the free value numbered by a stamp, a place and a lane. Nothing constrains it. -/
opaque free : Nat → Nat → Nat → BitVec 32
/-- DESIGN CHOICE, log entry 5. The bits of FRCP, FRSQ, FEXP2, FLOG2, FSIN and FCOS that 04 R109 does not fix: a free value for each function and operand, used where it lies inside the bound. -/
opaque approx : Nat → BitVec 32 → BitVec 32
/-- DEDUCED, log entry 4. The offset of a core's clock count from the chip's (05 R150: unspecified). -/
opaque coreClockOffset : Nat → Nat
/-- DESIGN CHOICE, log entry 12. The phase of a channel's first refresh in clocks (10 R287: unspecified, within 4,096). -/
opaque refreshPhase : Nat → Nat
/-- DESIGN CHOICE, log entry 30. The R_Key the firmware issues for a queue pair (17 R408). -/
opaque rkey : Nat → Nat → BitVec 32
/-- DESIGN CHOICE, log entry 30. Host address in the signed firmware header (17 R412), version word, stepping and fused data of the discovery registers (17 R406). -/
opaque hostAddr : BitVec 128
/-- DESIGN CHOICE, log entry 30. What picks the two of the 42 built clusters that are disabled (00 R1, 17 R405, R406). -/
opaque disabled : Nat × Nat
/-- DESIGN CHOICE, log entry 30. PART's stepping, at offset 0 of the discovery registers, and the length of the identity certificate, at its offset. -/
opaque discovery : Nat → BitVec 32
/-- DESIGN CHOICE, log entry 30. The bytes of the identity certificate (17 R407), by offset. -/
opaque certByte : Nat → BitVec 8
/-- DESIGN CHOICE, log entry 30. The chip serial number and the hash of the firmware image, by their offsets in a QUOTE (17 R413). -/
opaque identityByte : Nat → BitVec 8
/-- DESIGN CHOICE, log entry 30. The signature bytes of a QUOTE over the 96 bytes before them (17 R413). -/
opaque quoteByte : List (BitVec 8) → Nat → BitVec 8
/-- DESIGN CHOICE, log entry 30. SHA-256 of the key that signs the firmware image in place at a reset, and the hash fused at manufacture (17 R412). -/
opaque firmwareKey : Nat → BitVec 256
opaque fusedKey : BitVec 256
/-- DESIGN CHOICE, log entry 30. Whether the signature of that image verifies (17 R412). -/
opaque firmwareSigned : Nat → Bool
/-- DESIGN CHOICE, log entry 30. The version of that image, and the fused rollback counter (17 R412). -/
opaque firmwareVersion : Nat → BitVec 32
opaque rollback : BitVec 32
/-- DESIGN CHOICE, log entry 30. The SPARES words of the discovery registers after a reset, by byte offset: the repairs that the firmware then applied (17 R405, R406). -/
opaque spares : Nat → Nat → BitVec 32

/-- The boot ROM accepts the firmware image in place at a reset (17 R412). -/
def firmwareGood (n : Nat) : Bool := firmwareKey n == fusedKey && firmwareSigned n && decide (rollback.toNat ≤ (firmwareVersion n).toNat)

/-- DESIGN CHOICE, log entry 25. Flit buffers of a port beyond the 65 of a whole packet, for each virtual channel and lane (16 R380). -/
opaque portBuffer : Nat → Nat → Nat

/-- Capacities of 00 R1 and of the chapters named. -/
def cores : Nat := 160
def clusters : Nat := 40
def groupsPerCore : Nat := 64
def activeSet : Nat := 8
def slotResidents : Nat := 16
def txnPerCore : Nat := 512
def txnPerGroup : Nat := 64
def channels : Nat := 768
def slices : Nat := 96
def regionSlots : Nat := 256
/-- Lines of 128 bytes in the 256 KiB of a core's L1 (00 R1). -/
def l1Lines : Nat := 2048
def monitorsPerSlice : Nat := 256
def monitorsPerEngine : Nat := 16
def nbxContexts : Nat := 4
def candidateBuffer : Nat := 512
def holdQueue : Nat := 4096
def stubs : Nat := 65536
def serials : Nat := 262143
def eventQueue : Nat := 4096
def userEventLimit : Nat := 3072
def landingBuffers : Nat := 8192
def requestSlots : Nat := 8
def bulkSlots : Nat := 2
/-- 64 KiB frames in the chip's 576 GiB (00 R1, 09 R253). -/
def frames : Nat := 9437184

end Sys2Proof.Config
end

