-- ==== Sys2Proof/Syntax.lean ====
section
/-! DEFINITION. The instruction syntax: one constructor of `Instr` for each row of spec/opcode_table.json (03 R74, R75; 95). -/

namespace Sys2Proof

/-- A format tag (01 R33). -/
inductive Tag
  | raw
  | i32
  | f32
  | f16x2
  | bf16x2
  | e4m3x4
  | e5m2x4
  | dt8x4
  | e2m1x8
  | i8x4
  | f64
  | f64hi
  | pred
  | e8m0x4
  | f32p
  | poison
  deriving DecidableEq, Repr

/-- The code of a Tag in its field. -/
def Tag.code : Tag → BitVec 4
  | .raw => 0
  | .i32 => 1
  | .f32 => 2
  | .f16x2 => 3
  | .bf16x2 => 4
  | .e4m3x4 => 5
  | .e5m2x4 => 6
  | .dt8x4 => 7
  | .e2m1x8 => 8
  | .i8x4 => 9
  | .f64 => 10
  | .f64hi => 11
  | .pred => 12
  | .e8m0x4 => 13
  | .f32p => 14
  | .poison => 15

/-- The Tag a code names; every code has one. -/
def Tag.ofCode (c : BitVec 4) : Tag :=
  match c.toNat with
  | 0 => .raw
  | 1 => .i32
  | 2 => .f32
  | 3 => .f16x2
  | 4 => .bf16x2
  | 5 => .e4m3x4
  | 6 => .e5m2x4
  | 7 => .dt8x4
  | 8 => .e2m1x8
  | 9 => .i8x4
  | 10 => .f64
  | 11 => .f64hi
  | 12 => .pred
  | 13 => .e8m0x4
  | 14 => .f32p
  | _ => .poison

/-- Rounding codes (01 R15): nearest-even, toward zero, down, up. -/
inductive Rounding
  | rn
  | rz
  | rd
  | ru
  deriving DecidableEq, Repr

/-- The code of a Rounding in its field. -/
def Rounding.code : Rounding → BitVec 2
  | .rn => 0
  | .rz => 1
  | .rd => 2
  | .ru => 3

/-- The Rounding a code names; every code has one. -/
def Rounding.ofCode (c : BitVec 2) : Rounding :=
  match c.toNat with
  | 0 => .rn
  | 1 => .rz
  | 2 => .rd
  | _ => .ru

/-- Condition codes (03 R70). -/
inductive Cond
  | eq
  | ne
  | lt
  | le
  | gt
  | ge
  | ord
  | unord
  deriving DecidableEq, Repr

/-- The code of a Cond in its field. -/
def Cond.code : Cond → BitVec 4
  | .eq => 0
  | .ne => 1
  | .lt => 2
  | .le => 3
  | .gt => 4
  | .ge => 5
  | .ord => 6
  | .unord => 7

/-- The Cond a code names; a reserved code names none. -/
def Cond.ofCode? (c : BitVec 4) : Option Cond :=
  match c.toNat with
  | 0 => some .eq
  | 1 => some .ne
  | 2 => some .lt
  | 3 => some .le
  | 4 => some .gt
  | 5 => some .ge
  | 6 => some .ord
  | 7 => some .unord
  | _ => none

/-- Codes 0 to 5, the ones an integer compare accepts (03 R70). -/
def Cond.isInt : Cond → Bool
  | .ord | .unord => false
  | _ => true

/-- Scopes (03 R65, 09 R262). -/
inductive Scope
  | group
  | block
  | cohort
  | chip
  | pod
  deriving DecidableEq, Repr

/-- The code of a Scope in its field. -/
def Scope.code : Scope → BitVec 3
  | .group => 0
  | .block => 1
  | .cohort => 2
  | .chip => 3
  | .pod => 4

/-- The Scope a code names; a reserved code names none. -/
def Scope.ofCode? (c : BitVec 3) : Option Scope :=
  match c.toNat with
  | 0 => some .group
  | 1 => some .block
  | 2 => some .cohort
  | 3 => some .chip
  | 4 => some .pod
  | _ => none

/-- Scratchpad accesses take group and block scope only (06 R169). -/
def Scope.local : Scope → Bool
  | .group | .block => true
  | _ => false

/-- Cache hints (03 R65). -/
inductive Hint
  | normal
  | keep
  | stream
  | nol1
  deriving DecidableEq, Repr

/-- The code of a Hint in its field. -/
def Hint.code : Hint → BitVec 3
  | .normal => 0
  | .keep => 1
  | .stream => 2
  | .nol1 => 3

/-- The Hint a code names; a reserved code names none. -/
def Hint.ofCode? (c : BitVec 3) : Option Hint :=
  match c.toNat with
  | 0 => some .normal
  | 1 => some .keep
  | 2 => some .stream
  | 3 => some .nol1
  | _ => none

/-- Access sizes (03 R65). -/
inductive Size
  | i8
  | n8
  | i16
  | n16
  | w32
  | w64
  | w128
  deriving DecidableEq, Repr

/-- The code of a Size in its field. -/
def Size.code : Size → BitVec 4
  | .i8 => 0
  | .n8 => 1
  | .i16 => 2
  | .n16 => 3
  | .w32 => 4
  | .w64 => 5
  | .w128 => 6

/-- The Size a code names; a reserved code names none. -/
def Size.ofCode? (c : BitVec 4) : Option Size :=
  match c.toNat with
  | 0 => some .i8
  | 1 => some .n8
  | 2 => some .i16
  | 3 => some .n16
  | 4 => some .w32
  | 5 => some .w64
  | 6 => some .w128
  | _ => none

/-- FENCE kinds (05 R140). -/
inductive FenceKind
  | ar
  | acq
  | rel
  | cmp
  deriving DecidableEq, Repr

/-- The code of a FenceKind in its field. -/
def FenceKind.code : FenceKind → BitVec 6
  | .ar => 0
  | .acq => 1
  | .rel => 2
  | .cmp => 3

/-- The FenceKind a code names; a reserved code names none. -/
def FenceKind.ofCode? (c : BitVec 6) : Option FenceKind :=
  match c.toNat with
  | 0 => some .ar
  | 1 => some .acq
  | 2 => some .rel
  | 3 => some .cmp
  | _ => none

/-- Shuffle segment widths (04 R118). -/
inductive SegWidth
  | w32
  | w16
  | w8
  | w4
  | w2
  deriving DecidableEq, Repr

/-- The code of a SegWidth in its field. -/
def SegWidth.code : SegWidth → BitVec 4
  | .w32 => 0
  | .w16 => 1
  | .w8 => 2
  | .w4 => 3
  | .w2 => 4

/-- The SegWidth a code names; a reserved code names none. -/
def SegWidth.ofCode? (c : BitVec 4) : Option SegWidth :=
  match c.toNat with
  | 0 => some .w32
  | 1 => some .w16
  | 2 => some .w8
  | 3 => some .w4
  | 4 => some .w2
  | _ => none

/-- READSR sources (04 R123). -/
inductive LaneSr
  | slot
  | below
  | upTo
  | laneMask
  | segId
  | clock
  deriving DecidableEq, Repr

/-- The code of a LaneSr in its field. -/
def LaneSr.code : LaneSr → BitVec 4
  | .slot => 0
  | .below => 1
  | .upTo => 2
  | .laneMask => 3
  | .segId => 4
  | .clock => 5

/-- The LaneSr a code names; a reserved code names none. -/
def LaneSr.ofCode? (c : BitVec 4) : Option LaneSr :=
  match c.toNat with
  | 0 => some .slot
  | 1 => some .below
  | 2 => some .upTo
  | 3 => some .laneMask
  | 4 => some .segId
  | 5 => some .clock
  | _ => none

/-- REDUX operations, with the LA op codes (04 R122, 03 R66). -/
inductive ReduxOp
  | add
  | min
  | max
  | nmin
  | nmax
  | and
  | or
  | xor
  | fadd
  | fmin
  | fmax
  deriving DecidableEq, Repr

/-- The code of a ReduxOp in its field. -/
def ReduxOp.code : ReduxOp → BitVec 4
  | .add => 0
  | .min => 1
  | .max => 2
  | .nmin => 3
  | .nmax => 4
  | .and => 5
  | .or => 6
  | .xor => 7
  | .fadd => 11
  | .fmin => 12
  | .fmax => 13

/-- The ReduxOp a code names; a reserved code names none. -/
def ReduxOp.ofCode? (c : BitVec 4) : Option ReduxOp :=
  match c.toNat with
  | 0 => some .add
  | 1 => some .min
  | 2 => some .max
  | 3 => some .nmin
  | 4 => some .nmax
  | 5 => some .and
  | 6 => some .or
  | 7 => some .xor
  | 11 => some .fadd
  | 12 => some .fmin
  | 13 => some .fmax
  | _ => none

/-- Atomic operations other than CAS, with their LA op codes (03 R66). -/
inductive AtomOp
  | add
  | min
  | max
  | nmin
  | nmax
  | and
  | or
  | xor
  | xchg
  | inc
  | fadd
  | fmin
  | fmax
  deriving DecidableEq, Repr

/-- The code of a AtomOp in its field. -/
def AtomOp.code : AtomOp → BitVec 4
  | .add => 0
  | .min => 1
  | .max => 2
  | .nmin => 3
  | .nmax => 4
  | .and => 5
  | .or => 6
  | .xor => 7
  | .xchg => 8
  | .inc => 10
  | .fadd => 11
  | .fmin => 12
  | .fmax => 13

/-- The AtomOp a code names; a reserved code names none. -/
def AtomOp.ofCode? (c : BitVec 4) : Option AtomOp :=
  match c.toNat with
  | 0 => some .add
  | 1 => some .min
  | 2 => some .max
  | 3 => some .nmin
  | 4 => some .nmax
  | 5 => some .and
  | 6 => some .or
  | 7 => some .xor
  | 8 => some .xchg
  | 10 => some .inc
  | 11 => some .fadd
  | 12 => some .fmin
  | 13 => some .fmax
  | _ => none

/-- Atomic types (03 R66). -/
inductive AtomType
  | i32
  | n32
  | i64
  | n64
  | f16x2
  | bf16x2
  | f32
  | f64
  deriving DecidableEq, Repr

/-- The code of a AtomType in its field. -/
def AtomType.code : AtomType → BitVec 3
  | .i32 => 0
  | .n32 => 1
  | .i64 => 2
  | .n64 => 3
  | .f16x2 => 4
  | .bf16x2 => 5
  | .f32 => 6
  | .f64 => 7

/-- The AtomType a code names; every code has one. -/
def AtomType.ofCode (c : BitVec 3) : AtomType :=
  match c.toNat with
  | 0 => .i32
  | 1 => .n32
  | 2 => .i64
  | 3 => .n64
  | 4 => .f16x2
  | 5 => .bf16x2
  | 6 => .f32
  | _ => .f64

/-- CAS types (03 R66). -/
inductive CasType
  | b32
  | b64
  | b128
  deriving DecidableEq, Repr

/-- The code of a CasType in its field. -/
def CasType.code : CasType → BitVec 3
  | .b32 => 0
  | .b64 => 1
  | .b128 => 2

/-- The CasType a code names; a reserved code names none. -/
def CasType.ofCode? (c : BitVec 3) : Option CasType :=
  match c.toNat with
  | 0 => some .b32
  | 1 => some .b64
  | 2 => some .b128
  | _ => none

/-- The CSRs of 02 R44 by number. -/
inductive Csr
  | quantum
  | lease
  | trapvec
  | faultrec0
  | faultrec1
  | faultrec2
  | faultrec3
  | outs
  | lanemask
  | blockid
  | groupid
  | segid
  | taskid
  | feat0
  | feat1
  | feat2
  | feat3
  | chipid
  | ptimeLo
  | ptimeHi
  | gwctLo
  | gwctHi
  | migratePolicy
  | stubIdle
  | pinGrace
  deriving DecidableEq, Repr

/-- The code of a Csr in its field. -/
def Csr.code : Csr → BitVec 9
  | .quantum => 0
  | .lease => 1
  | .trapvec => 2
  | .faultrec0 => 4
  | .faultrec1 => 5
  | .faultrec2 => 6
  | .faultrec3 => 7
  | .outs => 8
  | .lanemask => 9
  | .blockid => 10
  | .groupid => 11
  | .segid => 12
  | .taskid => 13
  | .feat0 => 16
  | .feat1 => 17
  | .feat2 => 18
  | .feat3 => 19
  | .chipid => 20
  | .ptimeLo => 24
  | .ptimeHi => 25
  | .gwctLo => 26
  | .gwctHi => 27
  | .migratePolicy => 32
  | .stubIdle => 33
  | .pinGrace => 34

/-- The Csr a code names; a reserved code names none. -/
def Csr.ofCode? (c : BitVec 9) : Option Csr :=
  match c.toNat with
  | 0 => some .quantum
  | 1 => some .lease
  | 2 => some .trapvec
  | 4 => some .faultrec0
  | 5 => some .faultrec1
  | 6 => some .faultrec2
  | 7 => some .faultrec3
  | 8 => some .outs
  | 9 => some .lanemask
  | 10 => some .blockid
  | 11 => some .groupid
  | 12 => some .segid
  | 13 => some .taskid
  | 16 => some .feat0
  | 17 => some .feat1
  | 18 => some .feat2
  | 19 => some .feat3
  | 20 => some .chipid
  | 24 => some .ptimeLo
  | 25 => some .ptimeHi
  | 26 => some .gwctLo
  | 27 => some .gwctHi
  | 32 => some .migratePolicy
  | 33 => some .stubIdle
  | 34 => some .pinGrace
  | _ => none

/-- A spec9 operand (03 R63): a v register, or one of g0-g255. -/
inductive Src
  | v (r : BitVec 8)
  | g (r : BitVec 8)
  deriving DecidableEq, Repr

/-- The 9-bit field of a spec9 operand. -/
def Src.code : Src → BitVec 9
  | .v r => (0#1 ++ r : BitVec 9)
  | .g r => (1#1 ++ r : BitVec 9)

/-- The spec9 operand a field names. -/
def Src.ofCode (c : BitVec 9) : Src :=
  if c.extractLsb' 8 1 = 0#1 then .v (c.extractLsb' 0 8) else .g (c.extractLsb' 0 8)

/-- The lane offset of an LM access (03 R65): none, or a v register scaled by 2^scale, scale 0 to 4. -/
inductive LaneOffset
  | none
  | scaled (vo : BitVec 8) (scale : BitVec 3)
  deriving DecidableEq, Repr

/-- Order and scope of a load or store (03 R65). A relaxed access has no scope. -/
inductive Sync
  | relaxed
  | acquire (s : Scope)
  | release (s : Scope)
  deriving DecidableEq, Repr

/-- Loads take no release (06 R169). -/
def Sync.loadOk : Sync → Bool
  | .release _ => false
  | _ => true
/-- Stores take no acquire (06 R169). -/
def Sync.storeOk : Sync → Bool
  | .acquire _ => false
  | _ => true
/-- Scratchpad accesses take group and block scope only (06 R169). -/
def Sync.local : Sync → Bool
  | .relaxed => true
  | .acquire s | .release s => s.local

/-- A read-modify-write: an operation on a type, or a CAS (03 R66). -/
inductive Rmw
  | op (o : AtomOp) (t : AtomType)
  | cas (t : CasType)
  deriving DecidableEq, Repr

/-- The combinations of op and type that exist (03 R66). -/
def Rmw.ok : Rmw → Bool
  | .cas _ => true
  | .op o t =>
    match o with
    | .add | .and | .or | .xor | .xchg | .inc => t == .i32 || t == .n32 || t == .i64 || t == .n64
    | .min | .max => t == .i32 || t == .i64
    | .nmin | .nmax => t == .n32 || t == .n64
    | .fadd | .fmin | .fmax => t == .f16x2 || t == .bf16x2 || t == .f32 || t == .f64

/-- Bytes of the location (06 R173). -/
def Rmw.bytes : Rmw → Nat
  | .op _ t => if t == .i64 || t == .n64 || t == .f64 then 8 else 4
  | .cas .b32 => 4
  | .cas .b64 => 8
  | .cas .b128 => 16

/-- Registers of the value read. -/
def Rmw.words (r : Rmw) : Nat := r.bytes / 4
/-- Registers of the operand: a CAS takes the compare value and the new value (06 R175). -/
def Rmw.operandWords : Rmw → Nat
  | .op o t => (Rmw.op o t).words
  | .cas t => 2 * (Rmw.cas t).words

/-- The register limits of ATOM and ATOMS (03 R66). -/
def Rmw.aligned (r : Rmw) (vs : BitVec 8) (dst : Option (BitVec 8)) : Bool :=
  vs.toNat % r.operandWords == 0 &&
    (match dst with
     | none => true
     | some d => d.toNat % r.words == 0)

/-- The register limits of GATOM (06 R177). -/
def Rmw.gAligned (r : Rmw) (gd gc : BitVec 9) : Bool :=
  gd.toNat % r.words == 0 && gc.toNat % r.operandWords == 0

/-- Bytes of an access size. -/
def Size.bytes : Size → Nat
  | .i8 | .n8 => 1
  | .i16 | .n16 => 2
  | .w32 => 4
  | .w64 => 8
  | .w128 => 16

/-- Data registers of an access size (06 R166). -/
def Size.regs : Size → Nat
  | .w64 => 2
  | .w128 => 4
  | _ => 1

/-- The data register of an access is aligned to its register count (06 R166, R171). -/
def Size.aligned {n : Nat} (s : Size) (r : BitVec n) : Bool := r.toNat % s.regs == 0

/-- The ltag values a load of a size accepts (06 R166). -/
def Size.loadTag (s : Size) (t : Tag) : Bool :=
  match s with
  | .i8 | .n8 | .i16 | .n16 => t == .raw || t == .i32
  | .w32 => !(t == .f32p || t == .poison)
  | .w64 | .w128 => !(t == .f64hi || t == .f32p || t == .poison)

/-- A tile specifier (07 R195): a tile number, or a stream whose next tile is popped. -/
inductive TileSpec
  | tile (n : BitVec 8)
  | stream (k : BitVec 3)
  deriving DecidableEq, Repr

/-- Tags TDEF accepts (07 R196). -/
def Tag.tileTag : Tag → Bool
  | .f64hi | .pred | .f32p | .poison => false
  | _ => true
/-- Destination tags of MDRAIN (07 R212). -/
def Tag.drainTag : Tag → Bool
  | .f32 | .f16x2 | .bf16x2 | .e4m3x4 | .e5m2x4 | .dt8x4 => true
  | _ => false

/-- A register field holds an even number. -/
def evenB {n : Nat} (r : BitVec n) : Bool := r.toNat % 2 == 0

/-- Extension majors of either set (03 R74, R75). -/
def isExtMajor (m : Nat) : Bool := (decide (0x28 <= m) && decide (m <= 0x2F)) || (decide (0x3D <= m) && decide (m <= 0x3F))

/-- Names a resident group: the block's residency number and GROUPID. -/
structure GKey where
  blk : Nat
  gid : Nat
  deriving DecidableEq, Repr

/-- Names a block segment: the block's residency number and SEGID. -/
structure SKey where
  blk : Nat
  seg : Nat
  deriving DecidableEq, Repr

/-- The two sequencers of a segment (03 R92). -/
inductive SeqKind
  | msq
  | cst
  deriving DecidableEq, Repr

/-- Names a sequencer. -/
structure QKey where
  sg : SKey
  kind : SeqKind
  deriving DecidableEq, Repr

/-- What can wait: a group or a sequencer. -/
inductive Agent
  | grp (g : GKey)
  | sqr (q : QKey)
  deriving DecidableEq, Repr

/-- Where a soft error strikes (17 R402). `mem` is a sector of L2 or DRAM as it is met; `dram` a sector of DRAM that the scrubber will come to (R404); `spawn` a record of spawn memory, with the registers that the sectors hold and whether they hold its program counter or return stack (the format is private, 14 R321); `control` and `locator` name the error-log unit that holds the state (R403 gives none: DESIGN CHOICE, log entry 14); `unit` is an error that an error-log unit counts and that touches no state of the machine, as one that a link's code corrects (R398). -/
inductive ErrorSite
  | l1 (core sector : Nat)
  | mem (sector : Nat)
  | scratch (sg : SKey) (sector : Nat)
  | dram (sector : Nat)
  | spawn (sg : SKey) (record : Nat) (regs : List Nat) (state : Bool)
  | vreg (g : GKey) (r : Nat)
  | tileReg (sg : SKey) (t : Nat)
  | greg (g : GKey) (r : Nat)
  | ereg (q : QKey) (r : Nat)
  | control (task unit : Nat)
  | locator (id unit : Nat)
  | unit (u : Nat)
  deriving DecidableEq, Repr

/-- An address of the Internet protocol: of version 4 or 6. -/
inductive IpAddr
  | v4 (a : BitVec 32)
  | v6 (a : BitVec 128)
  deriving DecidableEq, Repr

/-- The form in which an address is compared: one of version 4 as ::ffff: followed by it (17 R410). -/
def IpAddr.mapped : IpAddr → BitVec 128
  | .v4 a => 0xFFFF#96 ++ a
  | .v6 a => a

/-- The sender of one of the KL9's own messages (17 R410). -/
structure Sender where
  addr : IpAddr
  port : BitVec 16
  deriving DecidableEq, Repr

/-- What an access of a request is: of data by a core; of code (03 R62); an element that a copy writes, whose frame may not have X (07 R200); an element of RED or the maximum of MDRAIN, whose frame must have M (07 R212, R220); or no access of bytes but the question what stands at an address (06 R161). MODEL: 16 R378 names the field and not its values (log entry 49). -/
inductive AccessKind
  | data | code | copy | red | probe
  deriving DecidableEq, Repr

/-- The access kind, order and scope that a request carries (16 R378, words 4-7). -/
structure Access where
  kind : AccessKind
  order : Sync
  deriving DecidableEq, Repr

/-- An access of a kind, relaxed. -/
def Access.plain (k : AccessKind) : Access := { kind := k, order := .relaxed }

/-- Packet types of 16 R379. -/
inductive PacketType
  | read | write | atomic | fetch | object | response | bulk | bulkAck | credit | marker | sync
  deriving DecidableEq, Repr

/-- Object commands carried by OBJECT packets (15 R348, R353, R356; 16 R379). MODEL: `enter` tells the chip of a frame that an operation of another chip runs on it, and has the range that a scan reads there checked, `depart` that it has ended (10 R292), `visit` has the winnower of the channel read a part of a row for a scan (R295), `lease` brings leases of an object's lines ahead of `activate`, `revoke` and `revoked` tell the other chips that a pinned object is being invalidated and that it has been (15 R363), `program` runs a channel program at the channel that holds its frame, and `stop` asks such a program to stop (07 R215 to R218; 10 R299; DESIGN CHOICE, log entry 32). -/
inductive ObjCmd
  | pin | unpin | free | attr (a : Word) | split (boundary : Word) | group (other : Nat) | move (chip : Word)
  | loc | inval | confirmStub (epoch : Nat) | takeSerial | splitAt (boundary upper : Nat) | freed
  | migrating (on : Bool) | cutOver (chip epoch : Nat)
  | enter (op bytes : Nat) | depart (op : Nat) | visit (bytes fmt : Nat) (topk : Bool) (op1 : Nat) (op2 : Option Nat) (args : List Word)
  | program (op rows : Nat) (ops : List (BitVec 16)) (lc : Word) (scalars : List Word) | stop (op : Nat)
  | reserve (length : Nat) (attrs : Word) (epoch : Nat) (group : Option Nat) (split : Option (Nat × Nat)) | release
  | lease (lx : List (Nat × Nat)) | activate (epoch count : Nat) (lx : List (Nat × Nat))
  | revoke (deadline : Nat) | revoked
  deriving DecidableEq, Repr

/-- The part of a packet that its type fixes (16 R378, words 4-7 and 12-13). MODEL: `index` of a migration's row counts its packets (R374), `confirms` tells a CREDIT for a packet from a port's first credits (R380; 17 R401), and a SYNC says whether its port holds no credits and the chips whose pod times its own covers and that have stepped to the largest (R391; log entries 22, 25). -/
inductive PBody
  | read (ptr : Dword) (bytes : Nat) (acc : Access)
  | write (ptr : Dword) (mask : BitVec 128) (acc : Access)
  | atomic (ptr : Dword) (rmw : Rmw) (kind : AccessKind) (scope : Scope) (operand : List Word)
  | monitor (ptr : Dword) (cond : Cond) (n32 : Bool) (value : Word) (scope : Scope)
  | fetch (ptr : Dword) (bytes task block seg ac offset : Nat)
  | object (ptr : Dword) (cmd : ObjCmd)
  | response (status : Word) (id chip epoch : Nat) (values : List Word)
  | bulk (fetched : Bool) (task block seg ac offset : Nat)
  | migration (id offset index : Nat) (poison : BitVec 64)
  | ack (status : Word)
  | credit (vc lane count : Nat) (confirms : Bool)
  | marker (returned : Bool)
  | sync (plan : BitVec 16) (ptime : Dword) (fresh : Bool) (known moved : BitVec 4096)
  deriving DecidableEq, Repr

/-- A fabric packet (16 R377, R378) with its payload before coding. `reporter` is the reporting chip of an orphan; `onward` marks a request that a chip other than its source sent here, whose ORD belongs to another pair of chips, and `resent` one of this chip's own that has left once by a port that failed since, and keeps its slot and its number (DESIGN CHOICE, log entry 17); `coded` says that every byte of the payload came from a frame with Z or from a scratchpad (R384), from which the codes of R383 follow; `link` is its number on the port it leaves by, by which the next chip tells a replay and a gap (17 R401; log entry 25). -/
structure Packet where
  type : PacketType
  lane : Bool
  dst : BitVec 12
  src : BitVec 12
  plan : BitVec 16
  hops : BitVec 3
  g : Bool
  o : Bool
  reporter : BitVec 12
  onward : Bool
  resent : Bool
  coded : Bool
  tag : BitVec 24
  epoch : Word
  ord : BitVec 16
  link : Nat
  body : PBody
  payload : List Byte
  deriving DecidableEq, Repr

/-- A packet as it comes from a fibre (16 R377, R378): the 16 words of its header flit and the bytes of its data flits. What words 4-7 and 12-13 say, which R378 leaves to the type without their layout, comes beside them, with what `onward` and `link` of Packet say (DESIGN CHOICE, log entry 49). -/
structure Wire where
  words : List Word
  data : List Byte
  body : PBody
  reporter : BitVec 12
  onward : Bool
  link : Nat
  deriving DecidableEq, Repr

/-- Messages from the host and RoCEv2 requests (17 R409, R410). -/
inductive HostMsg
  | taskPost (sender : Sender) (seq : Word) (index : Word) (p : List Word)
  | eventAck (sender : Sender) (upto : Dword)
  | mgmtRead (sender : Sender) (seq : Word) (off count : Nat)
  | mgmtWrite (sender : Sender) (seq : Word) (off : Nat) (data : List Byte)
  | attest (sender : Sender) (seq : Word) (nonce : List Byte)
  | reset (sender : Sender)
  | rdmaWrite (q : BitVec 6) (rkey : Word) (psn : BitVec 24) (ptr : Dword) (data : List Byte)
  | rdmaRead (q : BitVec 6) (rkey : Word) (psn : BitVec 24) (ptr : Dword) (bytes : Nat)
  | otherRoce (q : BitVec 6) (psn : BitVec 24)
  | transportError (q : BitVec 6)
  deriving DecidableEq, Repr

/-- What a step of an engine, of the scheduler, of the fabric or of the host port acts on. Such a row of the table is no instruction word and has no operand fields: the agenda entry that names it gives this argument (DESIGN CHOICE, log entry 1). -/
inductive StepArg
  | none
  | agent (w : Agent)
  | num (n : Nat)
  | pair (a b : Nat)
  | seg (sg : SKey)
  | word (v : Word)
  | reg (gd : BitVec 9)
  | sensor (stack : Nat) (temp : Word)
  | site (at_ : ErrorSite) (place : Word) (correctable : Bool)
  | packet (port : BitVec 6) (p : Packet)
  | wire (port : BitVec 6) (w : Wire)
  | again (p : Packet)
  | circuit (port : BitVec 6) (peer : Option (BitVec 12 × BitVec 16))
  | host (msg : HostMsg)
  | udp (sender : Sender) (bytes : List Byte)
  deriving DecidableEq, Repr

/-- The instructions of the two sets and the steps of engines, scheduler, fabric and host port: one constructor a row of spec/opcode_table.json.
The constructors after rgstat are those steps; what each acts on is State.arg. The first argument `m` of an instruction word is its switch marker (02 R54). -/
inductive Instr
  /-- IADD (R105). -/
  | iadd (m : Bool) (vd : BitVec 8) (va : BitVec 8) (vb : BitVec 8)
  /-- ISUB (R105). -/
  | isub (m : Bool) (vd : BitVec 8) (va : BitVec 8) (vb : BitVec 8)
  /-- IMUL (R105). -/
  | imul (m : Bool) (vd : BitVec 8) (va : BitVec 8) (vb : BitVec 8)
  /-- IMULHI (R105). -/
  | imulhi (m : Bool) (vd : BitVec 8) (va : BitVec 8) (vb : BitVec 8)
  /-- NMULHI (R105). -/
  | nmulhi (m : Bool) (vd : BitVec 8) (va : BitVec 8) (vb : BitVec 8)
  /-- IMIN (R105). -/
  | imin (m : Bool) (vd : BitVec 8) (va : BitVec 8) (vb : BitVec 8)
  /-- IMAX (R105). -/
  | imax (m : Bool) (vd : BitVec 8) (va : BitVec 8) (vb : BitVec 8)
  /-- NMIN (R105). -/
  | nmin (m : Bool) (vd : BitVec 8) (va : BitVec 8) (vb : BitVec 8)
  /-- NMAX (R105). -/
  | nmax (m : Bool) (vd : BitVec 8) (va : BitVec 8) (vb : BitVec 8)
  /-- AND (R105). -/
  | vand (m : Bool) (vd : BitVec 8) (va : BitVec 8) (vb : BitVec 8)
  /-- OR (R105). -/
  | vor (m : Bool) (vd : BitVec 8) (va : BitVec 8) (vb : BitVec 8)
  /-- XOR (R105). -/
  | vxor (m : Bool) (vd : BitVec 8) (va : BitVec 8) (vb : BitVec 8)
  /-- SHL (R105). -/
  | shl (m : Bool) (vd : BitVec 8) (va : BitVec 8) (vb : BitVec 8)
  /-- SHR (R105). -/
  | shr (m : Bool) (vd : BitVec 8) (va : BitVec 8) (vb : BitVec 8)
  /-- SAR (R105). -/
  | sar (m : Bool) (vd : BitVec 8) (va : BitVec 8) (vb : BitVec 8)
  /-- FADD (R107). -/
  | fadd (m : Bool) (vd : BitVec 8) (va : BitVec 8) (vb : BitVec 8)
  /-- FSUB (R107). -/
  | fsub (m : Bool) (vd : BitVec 8) (va : BitVec 8) (vb : BitVec 8)
  /-- FMUL (R107). -/
  | fmul (m : Bool) (vd : BitVec 8) (va : BitVec 8) (vb : BitVec 8)
  /-- FMIN (R107). -/
  | fmin (m : Bool) (vd : BitVec 8) (va : BitVec 8) (vb : BitVec 8)
  /-- FMAX (R107). -/
  | fmax (m : Bool) (vd : BitVec 8) (va : BitVec 8) (vb : BitVec 8)
  /-- MOV (R105). -/
  | mov (m : Bool) (vd : BitVec 8) (va : BitVec 8)
  /-- IADDI (R105). -/
  | iaddi (m : Bool) (vd : BitVec 8) (va : BitVec 8) (imm : BitVec 8)
  /-- ANDI (R105). -/
  | andi (m : Bool) (vd : BitVec 8) (va : BitVec 8) (imm : BitVec 8)
  /-- ORI (R105). -/
  | ori (m : Bool) (vd : BitVec 8) (va : BitVec 8) (imm : BitVec 8)
  /-- XORI (R105). -/
  | xori (m : Bool) (vd : BitVec 8) (va : BitVec 8) (imm : BitVec 8)
  /-- SHLI (R105). -/
  | shli (m : Bool) (vd : BitVec 8) (va : BitVec 8) (sh : BitVec 5)
  /-- SHRI (R105). -/
  | shri (m : Bool) (vd : BitVec 8) (va : BitVec 8) (sh : BitVec 5)
  /-- SARI (R105). -/
  | sari (m : Bool) (vd : BitVec 8) (va : BitVec 8) (sh : BitVec 5)
  /-- MOVI (R105). -/
  | movi (m : Bool) (vd : BitVec 8) (imm : BitVec 8)
  /-- FFMA (R108). -/
  | ffma (m : Bool) (vd : BitVec 8) (va : BitVec 8) (vb : BitVec 8) (c : Src) (rm : Rounding)
  /-- IMAD (R106). -/
  | imad (m : Bool) (vd : BitVec 8) (va : BitVec 8) (vb : BitVec 8) (c : Src)
  /-- FRCP (R109). -/
  | frcp (m : Bool) (vd : BitVec 8) (va : BitVec 8)
  /-- FRSQ (R109). -/
  | frsq (m : Bool) (vd : BitVec 8) (va : BitVec 8)
  /-- FSQRT (R108). -/
  | fsqrt (m : Bool) (vd : BitVec 8) (va : BitVec 8) (rm : Rounding)
  /-- FEXP2 (R109). -/
  | fexp2 (m : Bool) (vd : BitVec 8) (va : BitVec 8)
  /-- FLOG2 (R109). -/
  | flog2 (m : Bool) (vd : BitVec 8) (va : BitVec 8)
  /-- FSIN (R109). -/
  | fsin (m : Bool) (vd : BitVec 8) (va : BitVec 8)
  /-- FCOS (R109). -/
  | fcos (m : Bool) (vd : BitVec 8) (va : BitVec 8)
  /-- FABS (R108). -/
  | fabs (m : Bool) (vd : BitVec 8) (va : BitVec 8)
  /-- FNEG (R108). -/
  | fneg (m : Bool) (vd : BitVec 8) (va : BitVec 8)
  /-- FFLOOR (R108). -/
  | ffloor (m : Bool) (vd : BitVec 8) (va : BitVec 8)
  /-- FCEIL (R108). -/
  | fceil (m : Bool) (vd : BitVec 8) (va : BitVec 8)
  /-- FTRUNC (R108). -/
  | ftrunc (m : Bool) (vd : BitVec 8) (va : BitVec 8)
  /-- FRINT (R108). -/
  | frint (m : Bool) (vd : BitVec 8) (va : BitVec 8) (rm : Rounding)
  /-- FTWOSUM (R110). -/
  | ftwosum (m : Bool) (vd : BitVec 8) (va : BitVec 8) (vb : BitVec 8)
  /-- POPC (R106). -/
  | popc (m : Bool) (vd : BitVec 8) (va : BitVec 8)
  /-- CLZ (R106). -/
  | clz (m : Bool) (vd : BitVec 8) (va : BitVec 8)
  /-- BREV (R106). -/
  | brev (m : Bool) (vd : BitVec 8) (va : BitVec 8)
  /-- BFE (R106). -/
  | bfe (m : Bool) (vd : BitVec 8) (va : BitVec 8) (vb : BitVec 8) (c : Src) (sgn : Bool)
  /-- BFI (R106). -/
  | bfi (m : Bool) (vd : BitVec 8) (va : BitVec 8) (vb : BitVec 8) (c : Src) (e : Src)
  /-- PRMT (R106). -/
  | prmt (m : Bool) (vd : BitVec 8) (va : BitVec 8) (vb : BitVec 8) (c : Src)
  /-- SEL (R106). -/
  | sel (m : Bool) (vd : BitVec 8) (va : BitVec 8) (vb : BitVec 8) (c : Src)
  /-- IABS (R106). -/
  | iabs (m : Bool) (vd : BitVec 8) (va : BitVec 8) (sat : Bool)
  /-- INEG (R106). -/
  | ineg (m : Bool) (vd : BitVec 8) (va : BitVec 8) (sat : Bool)
  /-- IADD3 (R106). -/
  | iadd3 (m : Bool) (vd : BitVec 8) (va : BitVec 8) (vb : BitVec 8) (c : Src)
  /-- MOVG (R106). -/
  | movg (m : Bool) (vd : BitVec 8) (gc : BitVec 8)
  /-- ISET (R111). -/
  | iset (m : Bool) (vd : BitVec 8) (va : BitVec 8) (vb : BitVec 8) (cond : Cond)
  /-- NSET (R111). -/
  | nset (m : Bool) (vd : BitVec 8) (va : BitVec 8) (vb : BitVec 8) (cond : Cond)
  /-- FSET (R111). -/
  | fset (m : Bool) (vd : BitVec 8) (va : BitVec 8) (vb : BitVec 8) (cond : Cond)
  /-- CVT (R112). -/
  | cvt (m : Bool) (vd : BitVec 8) (va : BitVec 8) (dtag : Tag) (u : Bool) (el : BitVec 3) (rm : Rounding) (sat : Bool)
  /-- CVTSC (R115). -/
  | cvtsc (m : Bool) (vd : BitVec 8) (va : BitVec 8) (dtag : Tag) (el : Bool)
  /-- PACK2 (R113). -/
  | pack2 (m : Bool) (vd : BitVec 8) (va : BitVec 8) (vb : BitVec 8) (dtag : Tag) (u : Bool) (rm : Rounding) (sat : Bool)
  /-- PACK4 (R113). -/
  | pack4 (m : Bool) (vd : BitVec 8) (va : BitVec 8) (dtag : Tag) (u : Bool) (rm : Rounding) (sat : Bool)
  /-- UNPACK (R114). -/
  | unpack (m : Bool) (vd : BitVec 8) (va : BitVec 8) (dtag : Tag) (u : Bool) (rm : Rounding)
  /-- TAGSET (R116). -/
  | tagset (m : Bool) (vd : BitVec 8) (va : BitVec 8) (dtag : Tag)
  /-- TAGGET (R116). -/
  | tagget (m : Bool) (vd : BitVec 8) (va : BitVec 8)
  /-- SHFL (R118). -/
  | shfl (m : Bool) (vd : BitVec 8) (va : BitVec 8) (c : Src) (w : SegWidth)
  /-- SHFLUP (R118). -/
  | shflup (m : Bool) (vd : BitVec 8) (va : BitVec 8) (c : Src) (w : SegWidth)
  /-- SHFLDN (R118). -/
  | shfldn (m : Bool) (vd : BitVec 8) (va : BitVec 8) (c : Src) (w : SegWidth)
  /-- SHFLX (R118). -/
  | shflx (m : Bool) (vd : BitVec 8) (va : BitVec 8) (c : Src) (w : SegWidth)
  /-- QSWAPH (R119). -/
  | qswaph (m : Bool) (vd : BitVec 8) (va : BitVec 8)
  /-- QSWAPV (R119). -/
  | qswapv (m : Bool) (vd : BitVec 8) (va : BitVec 8)
  /-- QSWAPD (R119). -/
  | qswapd (m : Bool) (vd : BitVec 8) (va : BitVec 8)
  /-- QBCAST (R119). -/
  | qbcast (m : Bool) (vd : BitVec 8) (va : BitVec 8) (k : BitVec 2)
  /-- VOTEALL (R120). -/
  | voteall (m : Bool) (ge : BitVec 8) (va : BitVec 8)
  /-- VOTEANY (R120). -/
  | voteany (m : Bool) (ge : BitVec 8) (va : BitVec 8)
  /-- BALLOT (R120). -/
  | ballot (m : Bool) (ge : BitVec 8) (va : BitVec 8)
  /-- BALLOT_SCRATCHPAD (R121). -/
  | ballotScratchpad (m : Bool) (ge : BitVec 8) (va : BitVec 8)
  /-- BPLANE (R120). -/
  | bplane (m : Bool) (ge : BitVec 8) (va : BitVec 8) (vb : BitVec 8) (c : Src)
  /-- MATCH (R120). -/
  | matchLanes (m : Bool) (ge : BitVec 8) (va : BitVec 8)
  /-- REDUX (R122). -/
  | redux (m : Bool) (ge : BitVec 8) (va : BitVec 8) (op : ReduxOp)
  /-- LANEID (R123). -/
  | laneid (m : Bool) (vd : BitVec 8)
  /-- READSR (R123). -/
  | readsr (m : Bool) (vd : BitVec 8) (k : LaneSr)
  /-- LD (R167). -/
  | ld (m : Bool) (data : BitVec 8) (off : LaneOffset) (sync : Sync) (hint : Hint) (base : BitVec 9) (size : Size) (ltag : Tag) (imm : BitVec 12)
  /-- ST (R168). -/
  | st (m : Bool) (data : BitVec 8) (off : LaneOffset) (sync : Sync) (hint : Hint) (base : BitVec 9) (size : Size) (imm : BitVec 12)
  /-- LDS (R167). -/
  | lds (m : Bool) (data : BitVec 8) (off : LaneOffset) (sync : Sync) (base : BitVec 9) (size : Size) (ltag : Tag) (imm : BitVec 12)
  /-- STS (R168). -/
  | sts (m : Bool) (data : BitVec 8) (off : LaneOffset) (sync : Sync) (base : BitVec 9) (size : Size) (imm : BitVec 12)
  /-- ATOM (R173). -/
  | atom (m : Bool) (dst : Option (BitVec 8)) (vo : BitVec 8) (vs : BitVec 8) (rmw : Rmw) (scope : Scope) (base : BitVec 9) (imm : BitVec 12)
  /-- ATOMS (R176). -/
  | atoms (m : Bool) (dst : Option (BitVec 8)) (vo : BitVec 8) (vs : BitVec 8) (rmw : Rmw) (scope : Scope) (base : BitVec 9) (imm : BitVec 12)
  /-- TRX (R179). -/
  | trx (m : Bool) (vd : BitVec 8) (va : BitVec 8) (vb : BitVec 8) (gc : BitVec 8) (ge : BitVec 8)
  /-- BRZ (R132). -/
  | brz (m : Bool) (va : BitVec 8) (off : BitVec 32)
  /-- BRNZ (R132). -/
  | brnz (m : Bool) (va : BitVec 8) (off : BitVec 32)
  /-- BRX (R134). -/
  | brx (m : Bool) (va : BitVec 8)
  /-- BSPILLZ (R136). -/
  | bspillz (m : Bool) (va : BitVec 8) (gp : BitVec 8) (off : BitVec 32)
  /-- BSPILLNZ (R136). -/
  | bspillnz (m : Bool) (va : BitVec 8) (gp : BitVec 8) (off : BitVec 32)
  /-- CALLX (R133). -/
  | callx (m : Bool) (va : BitVec 8)
  /-- CALL (R133). -/
  | call (m : Bool) (off : BitVec 32)
  /-- RET (R133). -/
  | ret (m : Bool)
  /-- EXTENSION_WORD (R77). -/
  | extensionWord (m : Bool) (set : Bool) (maj : BitVec 6) (rest : BitVec 24) (w1 : Word)
  /-- GMOVI (R125). -/
  | gmovi (m : Bool) (gd : BitVec 9) (imm : BitVec 15)
  /-- GADDI (R125). -/
  | gaddi (m : Bool) (gd : BitVec 9) (imm : BitVec 15)
  /-- GLUI (R125). -/
  | glui (m : Bool) (gd : BitVec 9) (imm : BitVec 15)
  /-- GORI (R125). -/
  | gori (m : Bool) (gd : BitVec 9) (imm : BitVec 15)
  /-- GSHLI (R125). -/
  | gshli (m : Bool) (gd : BitVec 9) (ga : BitVec 9) (sh : BitVec 5)
  /-- GSHRI (R125). -/
  | gshri (m : Bool) (gd : BitVec 9) (ga : BitVec 9) (sh : BitVec 5)
  /-- GSARI (R125). -/
  | gsari (m : Bool) (gd : BitVec 9) (ga : BitVec 9) (sh : BitVec 5)
  /-- GMOV (R125). -/
  | gmov (m : Bool) (gd : BitVec 9) (ga : BitVec 9)
  /-- GADDI6 (R125). -/
  | gaddi6 (m : Bool) (gd : BitVec 9) (ga : BitVec 9) (imm : BitVec 6)
  /-- JMP (R128). -/
  | jmp (m : Bool) (off : BitVec 24)
  /-- LAND (R129). -/
  | land (m : Bool)
  /-- NOP (R129). -/
  | nop (m : Bool)
  /-- EXIT (R130). -/
  | exit (m : Bool)
  /-- YIELD (R238). -/
  | yield (m : Bool)
  /-- BRK (R151). -/
  | brk (m : Bool) (code : BitVec 24)
  /-- ERET (R156). -/
  | eret (m : Bool)
  /-- END (R131). -/
  | endSeq (m : Bool)
  /-- GMOVL (R126). -/
  | gmovl (m : Bool) (gd : BitVec 9) (imm : Word)
  /-- GADD (R127). -/
  | gadd (m : Bool) (gd : BitVec 9) (ga : BitVec 9) (gb : BitVec 9)
  /-- GSUB (R127). -/
  | gsub (m : Bool) (gd : BitVec 9) (ga : BitVec 9) (gb : BitVec 9)
  /-- GMUL (R127). -/
  | gmul (m : Bool) (gd : BitVec 9) (ga : BitVec 9) (gb : BitVec 9)
  /-- GMULHI (R127). -/
  | gmulhi (m : Bool) (gd : BitVec 9) (ga : BitVec 9) (gb : BitVec 9)
  /-- GNMULHI (R127). -/
  | gnmulhi (m : Bool) (gd : BitVec 9) (ga : BitVec 9) (gb : BitVec 9)
  /-- GAND (R127). -/
  | gand (m : Bool) (gd : BitVec 9) (ga : BitVec 9) (gb : BitVec 9)
  /-- GOR (R127). -/
  | gor (m : Bool) (gd : BitVec 9) (ga : BitVec 9) (gb : BitVec 9)
  /-- GXOR (R127). -/
  | gxor (m : Bool) (gd : BitVec 9) (ga : BitVec 9) (gb : BitVec 9)
  /-- GSHL (R127). -/
  | gshl (m : Bool) (gd : BitVec 9) (ga : BitVec 9) (gb : BitVec 9)
  /-- GSHR (R127). -/
  | gshr (m : Bool) (gd : BitVec 9) (ga : BitVec 9) (gb : BitVec 9)
  /-- GSAR (R127). -/
  | gsar (m : Bool) (gd : BitVec 9) (ga : BitVec 9) (gb : BitVec 9)
  /-- GMIN (R127). -/
  | gmin (m : Bool) (gd : BitVec 9) (ga : BitVec 9) (gb : BitVec 9)
  /-- GMAX (R127). -/
  | gmax (m : Bool) (gd : BitVec 9) (ga : BitVec 9) (gb : BitVec 9)
  /-- GNMIN (R127). -/
  | gnmin (m : Bool) (gd : BitVec 9) (ga : BitVec 9) (gb : BitVec 9)
  /-- GNMAX (R127). -/
  | gnmax (m : Bool) (gd : BitVec 9) (ga : BitVec 9) (gb : BitVec 9)
  /-- GPOPC (R127). -/
  | gpopc (m : Bool) (gd : BitVec 9) (ga : BitVec 9)
  /-- GCLZ (R127). -/
  | gclz (m : Bool) (gd : BitVec 9) (ga : BitVec 9)
  /-- GSEL (R127). -/
  | gsel (m : Bool) (gd : BitVec 9) (ga : BitVec 9) (gb : BitVec 9) (gc : BitVec 9)
  /-- GDIVN (R127). -/
  | gdivn (m : Bool) (gd : BitVec 9) (ga : BitVec 9) (gb : BitVec 9)
  /-- GREMN (R127). -/
  | gremn (m : Bool) (gd : BitVec 9) (ga : BitVec 9) (gb : BitVec 9)
  /-- GMAD (R127). -/
  | gmad (m : Bool) (gd : BitVec 9) (ga : BitVec 9) (gb : BitVec 9) (gc : BitVec 9)
  /-- GADD64 (R127). -/
  | gadd64 (m : Bool) (gd : BitVec 9) (ga : BitVec 9) (gb : BitVec 9)
  /-- GBFE (R127). -/
  | gbfe (m : Bool) (gd : BitVec 9) (ga : BitVec 9) (gb : BitVec 9) (gc : BitVec 9) (sgn : Bool)
  /-- GBFI (R127). -/
  | gbfi (m : Bool) (gd : BitVec 9) (ga : BitVec 9) (gb : BitVec 9) (gc : BitVec 9)
  /-- GFADD (R127). -/
  | gfadd (m : Bool) (gd : BitVec 9) (ga : BitVec 9) (gb : BitVec 9) (rm : Rounding)
  /-- GFMUL (R127). -/
  | gfmul (m : Bool) (gd : BitVec 9) (ga : BitVec 9) (gb : BitVec 9) (rm : Rounding)
  /-- GFMAX (R127). -/
  | gfmax (m : Bool) (gd : BitVec 9) (ga : BitVec 9) (gb : BitVec 9)
  /-- GSET (R127). -/
  | gset (m : Bool) (gd : BitVec 9) (ga : BitVec 9) (gb : BitVec 9) (cond : Cond)
  /-- GNSET (R127). -/
  | gnset (m : Bool) (gd : BitVec 9) (ga : BitVec 9) (gb : BitVec 9) (cond : Cond)
  /-- GFSET (R127). -/
  | gfset (m : Bool) (gd : BitVec 9) (ga : BitVec 9) (gb : BitVec 9) (cond : Cond)
  /-- GFFMA (R127). -/
  | gffma (m : Bool) (gd : BitVec 9) (ga : BitVec 9) (gb : BitVec 9) (gc : BitVec 9) (rm : Rounding)
  /-- GBR (R128). -/
  | gbr (m : Bool) (ga : BitVec 9) (gb : BitVec 9) (cond : Cond) (off : BitVec 32)
  /-- GBRN (R128). -/
  | gbrn (m : Bool) (ga : BitVec 9) (gb : BitVec 9) (cond : Cond) (off : BitVec 32)
  /-- GBRZ (R128). -/
  | gbrz (m : Bool) (ga : BitVec 9) (cond : Cond) (off : BitVec 32)
  /-- LOOP (R128). -/
  | loop (m : Bool) (ga : BitVec 9) (off : BitVec 32)
  /-- CSRR (R150). -/
  | csrr (m : Bool) (gd : BitVec 9) (csr : Csr)
  /-- CSRW (R150). -/
  | csrw (m : Bool) (csr : Csr) (ga : BitVec 9)
  /-- CSRX (R150). -/
  | csrx (m : Bool) (gd : BitVec 9) (csr : Csr) (ga : BitVec 9)
  /-- TRAP (R151). -/
  | trap (m : Bool) (ga : BitVec 9) (gb : BitVec 9) (cond : Cond) (code : BitVec 6)
  /-- EVENT (R152). -/
  | event (m : Bool) (ga : BitVec 9) (n : BitVec 6)
  /-- CLKR (R150). -/
  | clkr (m : Bool) (gd : BitVec 9)
  /-- BARINIT (R138). -/
  | barinit (m : Bool) (k : BitVec 4) (ga : BitVec 9)
  /-- BARARV (R138). -/
  | bararv (m : Bool) (k : BitVec 4) (gb : BitVec 9)
  /-- BARWAIT (R138). -/
  | barwait (m : Bool) (k : BitVec 4)
  /-- BARSYNC (R138). -/
  | barsync (m : Bool) (k : BitVec 4) (gb : BitVec 9)
  /-- GSYNC (R139). -/
  | gsync (m : Bool) (gb : BitVec 9)
  /-- FENCE (R140). -/
  | fence (m : Bool) (kind : FenceKind) (scope : Scope)
  /-- MRDY (R141). -/
  | mrdy (m : Bool)
  /-- WAITC (R142). -/
  | waitc (m : Bool) (gd : BitVec 9) (ga : BitVec 9) (gb : BitVec 9) (gc : BitVec 9) (cond : Cond) (n32 : Bool) (scope : Scope)
  /-- HWAIT (R144). -/
  | hwait (m : Bool) (gd : BitVec 9) (k : BitVec 4)
  /-- HTEST (R144). -/
  | htest (m : Bool) (gd : BitVec 9) (k : BitVec 4)
  /-- HCANCEL (R145). -/
  | hcancel (m : Bool) (k : BitVec 4)
  /-- HMOV (R146). -/
  | hmov (m : Bool) (gd : BitVec 9) (k : BitVec 4)
  /-- HADOPT (R146). -/
  | hadopt (m : Bool) (k : BitVec 4) (ga : BitVec 9)
  /-- ACSET (R148). -/
  | acset (m : Bool) (k : BitVec 4) (ga : BitVec 9) (clr : Bool)
  /-- AWAIT (R148). -/
  | await (m : Bool) (k : BitVec 4)
  /-- RDV (R149). -/
  | rdv (m : Bool)
  /-- GLD (R171). -/
  | gld (m : Bool) (gd : BitVec 9) (ga : BitVec 9) (gb : BitVec 9) (disp : BitVec 9) (size : Size) (sync : Sync) (hint : Hint)
  /-- GST (R171). -/
  | gst (m : Bool) (gd : BitVec 9) (ga : BitVec 9) (gb : BitVec 9) (disp : BitVec 9) (size : Size) (sync : Sync) (hint : Hint)
  /-- GLDS (R171). -/
  | glds (m : Bool) (gd : BitVec 9) (ga : BitVec 9) (gb : BitVec 9) (disp : BitVec 9) (size : Size) (sync : Sync)
  /-- GSTS (R171). -/
  | gsts (m : Bool) (gd : BitVec 9) (ga : BitVec 9) (gb : BitVec 9) (disp : BitVec 9) (size : Size) (sync : Sync)
  /-- GATOM (R177). -/
  | gatom (m : Bool) (gd : BitVec 9) (ga : BitVec 9) (gb : BitVec 9) (gc : BitVec 9) (rmw : Rmw) (scope : Scope)
  /-- CPY (R198). -/
  | cpy (m : Bool) (k : BitVec 4) (ga : BitVec 9) (gb : BitVec 9)
  /-- CPYC (R198). -/
  | cpyc (m : Bool) (gd : BitVec 9) (ga : BitVec 9) (gb : BitVec 9)
  /-- LAYOUT (R203). -/
  | layout (m : Bool) (n : BitVec 3) (ga : BitVec 9)
  /-- TDEF (R196). -/
  | tdef (m : Bool) (tile : BitVec 8) (ga : BitVec 9) (gc : BitVec 9) (tag : Tag)
  /-- TREL (R197). -/
  | trel (m : Bool) (tile : BitVec 8)
  /-- TSTAT (R196). -/
  | tstat (m : Bool) (gd : BitVec 9) (spec : TileSpec)
  /-- SBIND (R196). -/
  | sbind (m : Bool) (k : BitVec 3) (first : BitVec 8) (count : BitVec 9)
  /-- MCAST (R204). -/
  | mcast (m : Bool) (k : BitVec 4) (ga : BitVec 9) (gb : BitVec 9)
  /-- MZERO (R208). -/
  | mzero (m : Bool) (t : BitVec 2)
  /-- MMA (R208). -/
  | mma (m : Bool) (t : BitVec 2) (ga : BitVec 9) (a : TileSpec) (b : TileSpec)
  /-- MMAG (R208). -/
  | mmag (m : Bool) (t : BitVec 2) (gd : BitVec 9) (ga : BitVec 9) (a : TileSpec) (b : TileSpec)
  /-- MMASP (R209). -/
  | mmasp (m : Bool) (t : BitVec 2) (ga : BitVec 9) (a : TileSpec) (b : TileSpec)
  /-- MSOFT (R210). -/
  | msoft (m : Bool) (t : BitVec 2) (gd : BitVec 9) (ga : BitVec 9) (o : BitVec 8)
  /-- MSCALE (R211). -/
  | mscale (m : Bool) (t : BitVec 2) (ga : BitVec 9) (stride : BitVec 4)
  /-- MDRAIN (R212). -/
  | mdrain (m : Bool) (t : BitVec 2) (sat : Bool) (gd : BitVec 9) (ga : BitVec 9) (o : BitVec 8) (tag : Tag)
  /-- MWAIT (R213). -/
  | mwait (m : Bool) (one : Bool) (t : BitVec 2)
  /-- MLDT (R213). -/
  | mldt (m : Bool) (t : BitVec 2) (a : TileSpec)
  /-- MCMERGE (R214). -/
  | mcmerge (m : Bool) (t : BitVec 2) (ga : BitVec 9) (cores : BitVec 4)
  /-- WNSCAN (R216). -/
  | wnscan (m : Bool) (k : BitVec 4) (ga : BitVec 9)
  /-- WNTOPK (R217). -/
  | wntopk (m : Bool) (k : BitVec 4) (ga : BitVec 9)
  /-- NBX (R218). -/
  | nbx (m : Bool) (k : BitVec 4) (ga : BitVec 9)
  /-- KVSEAL (R219). -/
  | kvseal (m : Bool) (k : BitVec 4) (ga : BitVec 9)
  /-- RED (R220). -/
  | red (m : Bool) (k : BitVec 4) (ga : BitVec 9)
  /-- RSEND (R385). -/
  | rsend (m : Bool) (k : BitVec 4) (ga : BitVec 9)
  /-- RFETCH (R386). -/
  | rfetch (m : Bool) (k : BitVec 4) (ga : BitVec 9)
  /-- FBDRAIN (R389). -/
  | fbdrain (m : Bool) (k : BitVec 4)
  /-- FBDARK (R390). -/
  | fbdark (m : Bool) (k : BitVec 4) (ga : BitVec 9)
  /-- FBRELOCK (R391). -/
  | fbrelock (m : Bool) (k : BitVec 4) (ga : BitVec 9)
  /-- FBOPEN (R392). -/
  | fbopen (m : Bool) (k : BitVec 4)
  /-- FBSTAT (R394). -/
  | fbstat (m : Bool) (gd : BitVec 9)
  /-- FBPLAN (R388). -/
  | fbplan (m : Bool) (gd : BitVec 9) (ga : BitVec 9)
  /-- OALLOC (R223). -/
  | oalloc (m : Bool) (gd : BitVec 9) (ga : BitVec 9) (gb : BitVec 9)
  /-- OFREE (R365). -/
  | ofree (m : Bool) (gd : BitVec 9) (ga : BitVec 9)
  /-- OPIN (R362). -/
  | opin (m : Bool) (gd : BitVec 9) (ga : BitVec 9)
  /-- OUNPIN (R362). -/
  | ounpin (m : Bool) (gd : BitVec 9) (ga : BitVec 9)
  /-- OGROUP (R361). -/
  | ogroup (m : Bool) (gd : BitVec 9) (ga : BitVec 9) (gb : BitVec 9)
  /-- OMOVE (R355). -/
  | omove (m : Bool) (k : BitVec 4) (ga : BitVec 9) (gb : BitVec 9)
  /-- OLOC (R367). -/
  | oloc (m : Bool) (gd : BitVec 9) (ga : BitVec 9)
  /-- OINV (R363). -/
  | oinv (m : Bool) (k : BitVec 4) (ga : BitVec 9)
  /-- OSPLIT (R360). -/
  | osplit (m : Bool) (gd : BitVec 9) (ga : BitVec 9) (gb : BitVec 9)
  /-- OATTR (R366). -/
  | oattr (m : Bool) (gd : BitVec 9) (ga : BitVec 9) (gb : BitVec 9)
  /-- LAUNCH (R324). -/
  | launch (m : Bool) (gd : BitVec 9) (ga : BitVec 9)
  /-- LAUNCHB (R325). -/
  | launchb (m : Bool) (gd : BitVec 9) (ga : BitVec 9) (gb : BitVec 9)
  /-- PATCH (R329). -/
  | patch (m : Bool) (gd : BitVec 9) (ga : BitVec 9) (gb : BitVec 9) (slot : BitVec 3)
  /-- TDEC (R326). -/
  | tdec (m : Bool) (gd : BitVec 9) (ga : BitVec 9) (gb : BitVec 9)
  /-- FORK (R226). -/
  | fork (m : Bool) (ga : BitVec 9)
  /-- REGROUP (R227). -/
  | regroup (m : Bool) (dsp : Bool) (gd : BitVec 9) (ga : BitVec 9) (key : BitVec 8)
  /-- SPAWNQ (R224). -/
  | spawnq (m : Bool) (gd : BitVec 9)
  /-- TKILL (R327). -/
  | tkill (m : Bool) (gd : BitVec 9) (ga : BitVec 9)
  /-- RGBEGIN (R181). -/
  | rgbegin (m : Bool) (gd : BitVec 9) (ga : BitVec 9)
  /-- RGEND (R183). -/
  | rgend (m : Bool)
  /-- RGABORT (R184). -/
  | rgabort (m : Bool) (ga : BitVec 9)
  /-- RGSTAT (R187). -/
  | rgstat (m : Bool) (gd : BitVec 9)
  /-- QUANTUM_WRITE (R46). -/
  | quantumWrite
  /-- LEASE_WRITE (R257). -/
  | leaseWrite
  /-- PTIME_LO_READ (R45). -/
  | ptimeLoRead
  /-- GWCT_LO_READ (R45). -/
  | gwctLoRead
  /-- BARRIER_WAIT_END (R246). -/
  | barrierWaitEnd
  /-- FENCE_COMPLETE (R140). -/
  | fenceComplete
  /-- MRDY_COMPLETE (R141). -/
  | mrdyComplete
  /-- MONITOR_WAKE (R143). -/
  | monitorWake
  /-- WAITC_TIMEOUT (R142). -/
  | waitcTimeout
  /-- WAITC_POLL (R143). -/
  | waitcPoll
  /-- HANDLE_WAIT_END (R144). -/
  | handleWaitEnd
  /-- CANCEL_BOUNDARY (R192). -/
  | cancelBoundary
  /-- AWAIT_COMPLETE (R274). -/
  | awaitComplete
  /-- RDV_COMPLETE (R149). -/
  | rdvComplete
  /-- TILE_WAIT_END (R194). -/
  | tileWaitEnd
  /-- COPY_COMPLETE (R201). -/
  | copyComplete
  /-- MATRIX_COMMAND_COMPLETE (R205). -/
  | matrixCommandComplete
  /-- SEQUENCER_FAULT_DELIVERY (R158). -/
  | sequencerFaultDelivery
  /-- THRESHER_RESULT (R297). -/
  | thresherResult
  /-- NBX_CONTEXT_START (R299). -/
  | nbxContextStart
  /-- KVSEAL_COMPLETE (R219). -/
  | kvsealComplete
  /-- RED_COMPLETE (R220). -/
  | redComplete
  /-- FBDRAIN_DONE (R389). -/
  | fbdrainDone
  /-- RELOCK_COMPLETE (R391). -/
  | relockComplete
  /-- LOCK_TIMEOUT (R391). -/
  | lockTimeout
  /-- REGROUP_MOVE_COMPLETE (R244). -/
  | regroupMoveComplete
  /-- REGION_SLOT_FREE_RESUME (R181). -/
  | regionSlotFreeResume
  /-- REGION_COMMIT (R281). -/
  | regionCommit
  /-- REGION_ABORT_TAKE (R185). -/
  | regionAbortTake
  /-- HELD_WRITE_APPLY (R280). -/
  | heldWriteApply
  /-- PARK_COMPLETE (R54). -/
  | parkComplete
  /-- RESPONSE_RETURN (R53). -/
  | responseReturn
  /-- GROUP_EXCHANGE (R236). -/
  | groupExchange
  /-- PENDING_PROMOTION (R237). -/
  | pendingPromotion
  /-- SHEAF_START (R241). -/
  | sheafStart
  /-- LEASE_EXPIRY (R256). -/
  | leaseExpiry
  /-- DEMAND_ACCESS (R289). -/
  | demandAccess
  /-- CHANNEL_BURST_SELECT (R288). -/
  | channelBurstSelect
  /-- ROW_SWITCH_COMPLETE (R288). -/
  | rowSwitchComplete
  /-- REFRESH_DUE (R287). -/
  | refreshDue
  /-- DRAM_TEMP_HIGH (R414). -/
  | dramTempHigh
  /-- DRAM_TEMP_NORMAL (R414). -/
  | dramTempNormal
  /-- THERMAL_TRIP (R415). -/
  | thermalTrip
  /-- SOFT_ERROR (R402). -/
  | softError
  /-- READ (R379). -/
  | readPacket
  /-- WRITE (R379). -/
  | writePacket
  /-- ATOMIC (R379). -/
  | atomicPacket
  /-- FETCH (R386). -/
  | fetchPacket
  /-- OBJECT (R379). -/
  | objectPacket
  /-- RESPONSE (R379). -/
  | responsePacket
  /-- BULK (R385). -/
  | bulkPacket
  /-- BULK_ACK (R385). -/
  | bulkAck
  /-- CREDIT (R380). -/
  | credit
  /-- MARKER (R389). -/
  | marker
  /-- SYNC (R391). -/
  | syncFlit
  /-- GLEANER_VISIT (R353). -/
  | gleanerVisit
  /-- AFFINITY_HALVING (R354). -/
  | affinityHalving
  /-- MIGRATION_PASS_END (R356). -/
  | migrationPassEnd
  /-- CUT_OVER_DRAINED (R357). -/
  | cutOverDrained
  /-- PIN_GRACE_EXPIRY (R363). -/
  | pinGraceExpiry
  /-- OINV_COMPLETE (R363). -/
  | oinvComplete
  /-- INVALIDATION_COMPLETE (R364). -/
  | invalidationComplete
  /-- BLOCK_PLACEMENT (R330). -/
  | blockPlacement
  /-- TASK_ENDING_COMPLETE (R317). -/
  | taskEndingComplete
  /-- PREEMPTION (R333). -/
  | preemption
  /-- SAVE_COMPLETE (R334). -/
  | saveComplete
  /-- BLOCK_SWAP_OUT (R249). -/
  | blockSwapOut
  /-- SWAPPED_BLOCK_POLL (R249). -/
  | swappedBlockPoll
  /-- BLOCK_RESTORE (R335). -/
  | blockRestore
  /-- WATCHDOG (R339). -/
  | watchdog
  /-- EVENT_SEND (R410). -/
  | eventSend
  /-- EVENT_RESEND (R410). -/
  | eventResend
  /-- TASK_POST (R328). -/
  | taskPost
  /-- EVENT_ACK (R410). -/
  | eventAck
  /-- MGMT_READ (R407). -/
  | mgmtRead
  /-- MGMT_WRITE (R407). -/
  | mgmtWrite
  /-- PLANCTL_GO (R411). -/
  | planctlGo
  /-- QP_CONNECT (R408). -/
  | qpConnect
  /-- QP_END (R408). -/
  | qpEnd
  /-- ATTEST (R413). -/
  | attest
  /-- RDMA_WRITE (R409). -/
  | rdmaWrite
  /-- RDMA_READ (R409). -/
  | rdmaRead
  /-- RESET (R411). -/
  | reset
  /-- COLD_RESET (R411). -/
  | coldReset
  /-- REPLAY_REQUEST (R401). -/
  | replayRequest
  /-- ROCE_SEND_OR_ATOMIC (R409). -/
  | roceSendOrAtomic
  /-- CIRCUIT_SWITCH_CHANGE (R393). -/
  | circuitSwitchChange
  deriving DecidableEq, Repr

end Sys2Proof
end

