-- ==== Sys2Proof/WellFormed.lean ====
section
/-! DEFINITION. What a well-formed instruction is: the limits of 03 R64 to R72 and of each chapter that the instruction word alone decides. A word that breaks one traps with ILLEGAL (03 R78). -/

namespace Sys2Proof

/-- Scales 0 to 4 exist (03 R65). -/
def LaneOffset.ok : LaneOffset → Bool
  | .none => true
  | .scaled _ k => decide (k.toNat <= 4)

/-- The static limits of each instruction; a step that is no instruction word has none and no encoding. -/
def Instr.wellFormed : Instr → Bool
  | Instr.iadd _ _ _ _ => true
  | Instr.isub _ _ _ _ => true
  | Instr.imul _ _ _ _ => true
  | Instr.imulhi _ _ _ _ => true
  | Instr.nmulhi _ _ _ _ => true
  | Instr.imin _ _ _ _ => true
  | Instr.imax _ _ _ _ => true
  | Instr.nmin _ _ _ _ => true
  | Instr.nmax _ _ _ _ => true
  | Instr.vand _ _ _ _ => true
  | Instr.vor _ _ _ _ => true
  | Instr.vxor _ _ _ _ => true
  | Instr.shl _ _ _ _ => true
  | Instr.shr _ _ _ _ => true
  | Instr.sar _ _ _ _ => true
  | Instr.fadd _ _ _ _ => true
  | Instr.fsub _ _ _ _ => true
  | Instr.fmul _ _ _ _ => true
  | Instr.fmin _ _ _ _ => true
  | Instr.fmax _ _ _ _ => true
  | Instr.mov _ _ _ => true
  | Instr.iaddi _ _ _ _ => true
  | Instr.andi _ _ _ _ => true
  | Instr.ori _ _ _ _ => true
  | Instr.xori _ _ _ _ => true
  | Instr.shli _ _ _ _ => true
  | Instr.shri _ _ _ _ => true
  | Instr.sari _ _ _ _ => true
  | Instr.movi _ _ _ => true
  | Instr.ffma _ _ _ _ _ _ => true
  | Instr.imad _ _ _ _ _ => true
  | Instr.frcp _ _ _ => true
  | Instr.frsq _ _ _ => true
  | Instr.fsqrt _ _ _ _ => true
  | Instr.fexp2 _ _ _ => true
  | Instr.flog2 _ _ _ => true
  | Instr.fsin _ _ _ => true
  | Instr.fcos _ _ _ => true
  | Instr.fabs _ _ _ => true
  | Instr.fneg _ _ _ => true
  | Instr.ffloor _ _ _ => true
  | Instr.fceil _ _ _ => true
  | Instr.ftrunc _ _ _ => true
  | Instr.frint _ _ _ _ => true
  | Instr.ftwosum _ _ _ _ => true
  | Instr.popc _ _ _ => true
  | Instr.clz _ _ _ => true
  | Instr.brev _ _ _ => true
  | Instr.bfe _ _ _ _ _ _ => true
  | Instr.bfi _ _ _ _ _ _ => true
  | Instr.prmt _ _ _ _ _ => true
  | Instr.sel _ _ _ _ _ => true
  | Instr.iabs _ _ _ _ => true
  | Instr.ineg _ _ _ _ => true
  | Instr.iadd3 _ _ _ _ _ => true
  | Instr.movg _ _ _ => true
  | Instr.iset _ _ _ _ cond => cond.isInt
  | Instr.nset _ _ _ _ cond => cond.isInt
  | Instr.fset _ _ _ _ _ => true
  | Instr.cvt _ vd _ dtag _ _ _ _ => (dtag == .i32 || dtag == .f32 || dtag == .f64 && evenB vd)
  | Instr.cvtsc _ vd _ dtag _ => ((dtag == .e2m1x8 || dtag == .e4m3x4 || dtag == .e5m2x4) && evenB vd)
  | Instr.pack2 _ _ _ _ dtag _ _ _ => (dtag == .f16x2 || dtag == .bf16x2)
  | Instr.pack4 _ _ va dtag _ rm _ => ((dtag == .e4m3x4 || dtag == .e5m2x4 || dtag == .i8x4 || (dtag == .dt8x4 || dtag == .e8m0x4) && rm == .rn) && va.toNat % 4 == 0)
  | Instr.unpack _ _ _ dtag _ _ => (dtag == .f32 || dtag == .i32)
  | Instr.tagset _ _ _ dtag => (dtag != .f32p)
  | Instr.tagget _ _ _ => true
  | Instr.shfl _ _ _ _ _ => true
  | Instr.shflup _ _ _ _ _ => true
  | Instr.shfldn _ _ _ _ _ => true
  | Instr.shflx _ _ _ _ _ => true
  | Instr.qswaph _ _ _ => true
  | Instr.qswapv _ _ _ => true
  | Instr.qswapd _ _ _ => true
  | Instr.qbcast _ _ _ _ => true
  | Instr.voteall _ _ _ => true
  | Instr.voteany _ _ _ => true
  | Instr.ballot _ _ _ => true
  | Instr.ballotScratchpad _ _ _ => true
  | Instr.bplane _ _ _ _ _ => true
  | Instr.matchLanes _ _ _ => true
  | Instr.redux _ _ _ _ => true
  | Instr.laneid _ _ => true
  | Instr.readsr _ _ _ => true
  | Instr.ld _ data off sync _ base size ltag _ => ((size.aligned data && size.loadTag ltag && evenB base && sync.loadOk) && off.ok)
  | Instr.st _ data off sync _ base size _ => ((size.aligned data && evenB base && sync.storeOk) && off.ok)
  | Instr.lds _ data off sync _ size ltag _ => ((size.aligned data && size.loadTag ltag && sync.loadOk && sync.local) && off.ok)
  | Instr.sts _ data off sync _ size _ => ((size.aligned data && sync.storeOk && sync.local) && off.ok)
  | Instr.atom _ dst _ vs rmw _ base _ => (rmw.ok && rmw.aligned vs dst && evenB base)
  | Instr.atoms _ dst _ vs rmw scope _ _ => (rmw.ok && rmw.aligned vs dst && scope.local)
  | Instr.trx _ vd _ _ gc _ => (vd.toNat % 4 == 0 && evenB gc)
  | Instr.brz _ _ off => (off.toNat % 4 == 0)
  | Instr.brnz _ _ off => (off.toNat % 4 == 0)
  | Instr.brx _ _ => true
  | Instr.bspillz _ _ _ off => (off.toNat % 4 == 0)
  | Instr.bspillnz _ _ _ off => (off.toNat % 4 == 0)
  | Instr.callx _ _ => true
  | Instr.call _ off => (off.toNat % 4 == 0)
  | Instr.ret _ => true
  | Instr.extensionWord _ _ maj _ w1 => (isExtMajor maj.toNat && (!(maj.toNat < 0x30) || w1 == 0))
  | Instr.gmovi _ _ _ => true
  | Instr.gaddi _ _ _ => true
  | Instr.glui _ _ _ => true
  | Instr.gori _ _ _ => true
  | Instr.gshli _ _ _ _ => true
  | Instr.gshri _ _ _ _ => true
  | Instr.gsari _ _ _ _ => true
  | Instr.gmov _ _ _ => true
  | Instr.gaddi6 _ _ _ _ => true
  | Instr.jmp _ _ => true
  | Instr.land _ => true
  | Instr.nop _ => true
  | Instr.exit _ => true
  | Instr.yield _ => true
  | Instr.brk _ _ => true
  | Instr.eret _ => true
  | Instr.endSeq _ => true
  | Instr.gmovl _ _ _ => true
  | Instr.gadd _ _ _ _ => true
  | Instr.gsub _ _ _ _ => true
  | Instr.gmul _ _ _ _ => true
  | Instr.gmulhi _ _ _ _ => true
  | Instr.gnmulhi _ _ _ _ => true
  | Instr.gand _ _ _ _ => true
  | Instr.gor _ _ _ _ => true
  | Instr.gxor _ _ _ _ => true
  | Instr.gshl _ _ _ _ => true
  | Instr.gshr _ _ _ _ => true
  | Instr.gsar _ _ _ _ => true
  | Instr.gmin _ _ _ _ => true
  | Instr.gmax _ _ _ _ => true
  | Instr.gnmin _ _ _ _ => true
  | Instr.gnmax _ _ _ _ => true
  | Instr.gpopc _ _ _ => true
  | Instr.gclz _ _ _ => true
  | Instr.gsel _ _ _ _ _ => true
  | Instr.gdivn _ _ _ _ => true
  | Instr.gremn _ _ _ _ => true
  | Instr.gmad _ _ _ _ _ => true
  | Instr.gadd64 _ gd ga gb => (evenB gd && evenB ga && evenB gb)
  | Instr.gbfe _ _ _ _ _ _ => true
  | Instr.gbfi _ _ _ _ _ => true
  | Instr.gfadd _ _ _ _ _ => true
  | Instr.gfmul _ _ _ _ _ => true
  | Instr.gfmax _ _ _ _ => true
  | Instr.gset _ _ _ _ cond => cond.isInt
  | Instr.gnset _ _ _ _ cond => cond.isInt
  | Instr.gfset _ _ _ _ _ => true
  | Instr.gffma _ _ _ _ _ _ => true
  | Instr.gbr _ _ _ cond off => (cond.isInt && off.toNat % 4 == 0)
  | Instr.gbrn _ _ _ cond off => (cond.isInt && off.toNat % 4 == 0)
  | Instr.gbrz _ _ cond off => (cond.isInt && off.toNat % 4 == 0)
  | Instr.loop _ _ off => (off.toNat % 4 == 0)
  | Instr.csrr _ _ _ => true
  | Instr.csrw _ _ _ => true
  | Instr.csrx _ _ _ _ => true
  | Instr.trap _ _ _ cond _ => cond.isInt
  | Instr.event _ _ _ => true
  | Instr.clkr _ gd => evenB gd
  | Instr.barinit _ _ _ => true
  | Instr.bararv _ _ _ => true
  | Instr.barwait _ _ => true
  | Instr.barsync _ _ _ => true
  | Instr.gsync _ _ => true
  | Instr.fence _ _ _ => true
  | Instr.mrdy _ => true
  | Instr.waitc _ _ ga _ _ cond _ _ => (cond.isInt && evenB ga)
  | Instr.hwait _ _ _ => true
  | Instr.htest _ _ _ => true
  | Instr.hcancel _ _ => true
  | Instr.hmov _ _ _ => true
  | Instr.hadopt _ _ _ => true
  | Instr.acset _ _ _ _ => true
  | Instr.await _ _ => true
  | Instr.rdv _ => true
  | Instr.gld _ gd ga _ _ size sync _ => (size.aligned gd && evenB ga && sync.loadOk)
  | Instr.gst _ gd ga _ _ size sync _ => (size.aligned gd && evenB ga && sync.storeOk)
  | Instr.glds _ gd _ _ _ size sync => (size.aligned gd && sync.loadOk && sync.local)
  | Instr.gsts _ gd _ _ _ size sync => (size.aligned gd && sync.storeOk && sync.local)
  | Instr.gatom _ gd ga _ gc rmw _ => (rmw.ok && rmw.gAligned gd gc && evenB ga)
  | Instr.cpy _ _ ga gb => (evenB ga && ga.toNat <= 496 && evenB gb && gb.toNat <= 496)
  | Instr.cpyc _ _ ga gb => (evenB ga && ga.toNat <= 496 && evenB gb && gb.toNat <= 496)
  | Instr.layout _ _ ga => (evenB ga && ga.toNat <= 496)
  | Instr.tdef _ _ _ _ tag => tag.tileTag
  | Instr.trel _ _ => true
  | Instr.tstat _ gd _ => evenB gd
  | Instr.sbind _ _ first count => (decide (1 <= count.toNat) && decide (count.toNat <= 16) && decide (first.toNat + count.toNat <= 256))
  | Instr.mcast _ _ ga gb => (evenB ga && ga.toNat <= 496 && evenB gb && gb.toNat <= 496)
  | Instr.mzero _ _ => true
  | Instr.mma _ _ _ _ _ => true
  | Instr.mmag _ _ _ _ _ _ => true
  | Instr.mmasp _ _ _ _ _ => true
  | Instr.msoft _ _ _ _ _ => true
  | Instr.mscale _ _ _ stride => (decide (2 <= stride.toNat) && decide (stride.toNat <= 5))
  | Instr.mdrain _ _ _ _ ga _ tag => (tag.drainTag && evenB ga)
  | Instr.mwait _ _ _ => true
  | Instr.mldt _ _ _ => true
  | Instr.mcmerge _ _ _ _ => true
  | Instr.wnscan _ _ ga => (evenB ga && ga.toNat <= 496)
  | Instr.wntopk _ _ ga => (evenB ga && ga.toNat <= 496)
  | Instr.nbx _ _ ga => (evenB ga && ga.toNat <= 496)
  | Instr.kvseal _ _ ga => (evenB ga && ga.toNat <= 496)
  | Instr.red _ _ ga => (evenB ga && ga.toNat <= 496)
  | Instr.rsend _ _ ga => (evenB ga && ga.toNat <= 496)
  | Instr.rfetch _ _ ga => (evenB ga && ga.toNat <= 496)
  | Instr.fbdrain _ _ => true
  | Instr.fbdark _ _ ga => (evenB ga && ga.toNat <= 496)
  | Instr.fbrelock _ _ ga => (evenB ga && ga.toNat <= 496)
  | Instr.fbopen _ _ => true
  | Instr.fbstat _ gd => (gd.toNat % 4 == 0)
  | Instr.fbplan _ _ ga => (evenB ga && ga.toNat <= 496)
  | Instr.oalloc _ gd ga _ => (gd.toNat % 4 == 0 && evenB ga)
  | Instr.ofree _ gd ga => (gd.toNat % 4 == 0 && evenB ga)
  | Instr.opin _ gd ga => (gd.toNat % 4 == 0 && evenB ga)
  | Instr.ounpin _ gd ga => (gd.toNat % 4 == 0 && evenB ga)
  | Instr.ogroup _ gd ga gb => (gd.toNat % 4 == 0 && evenB ga && evenB gb)
  | Instr.omove _ _ ga _ => evenB ga
  | Instr.oloc _ gd ga => (gd.toNat % 4 == 0 && evenB ga)
  | Instr.oinv _ _ ga => evenB ga
  | Instr.osplit _ gd ga _ => (gd.toNat % 4 == 0 && evenB ga)
  | Instr.oattr _ gd ga _ => (gd.toNat % 4 == 0 && evenB ga)
  | Instr.launch _ gd ga => (evenB gd && evenB ga && ga.toNat <= 496)
  | Instr.launchb _ gd ga _ => (evenB gd && evenB ga && ga.toNat <= 496)
  | Instr.patch _ _ _ _ _ => true
  | Instr.tdec _ _ _ _ => true
  | Instr.fork _ ga => (evenB ga && ga.toNat <= 496)
  | Instr.regroup _ dsp gd ga _ => (evenB ga && (dsp || gd == 0))
  | Instr.spawnq _ _ => true
  | Instr.tkill _ _ _ => true
  | Instr.rgbegin _ _ _ => true
  | Instr.rgend _ => true
  | Instr.rgabort _ _ => true
  | Instr.rgstat _ _ => true
  | Instr.quantumWrite => true
  | Instr.leaseWrite => true
  | Instr.ptimeLoRead => true
  | Instr.gwctLoRead => true
  | Instr.barrierWaitEnd => true
  | Instr.fenceComplete => true
  | Instr.mrdyComplete => true
  | Instr.monitorWake => true
  | Instr.waitcTimeout => true
  | Instr.waitcPoll => true
  | Instr.handleWaitEnd => true
  | Instr.cancelBoundary => true
  | Instr.awaitComplete => true
  | Instr.rdvComplete => true
  | Instr.tileWaitEnd => true
  | Instr.copyComplete => true
  | Instr.matrixCommandComplete => true
  | Instr.sequencerFaultDelivery => true
  | Instr.thresherResult => true
  | Instr.nbxContextStart => true
  | Instr.kvsealComplete => true
  | Instr.redComplete => true
  | Instr.fbdrainDone => true
  | Instr.relockComplete => true
  | Instr.lockTimeout => true
  | Instr.regroupMoveComplete => true
  | Instr.regionSlotFreeResume => true
  | Instr.regionCommit => true
  | Instr.regionAbortTake => true
  | Instr.heldWriteApply => true
  | Instr.parkComplete => true
  | Instr.responseReturn => true
  | Instr.groupExchange => true
  | Instr.pendingPromotion => true
  | Instr.sheafStart => true
  | Instr.leaseExpiry => true
  | Instr.demandAccess => true
  | Instr.channelBurstSelect => true
  | Instr.rowSwitchComplete => true
  | Instr.refreshDue => true
  | Instr.dramTempHigh => true
  | Instr.dramTempNormal => true
  | Instr.thermalTrip => true
  | Instr.softError => true
  | Instr.readPacket => true
  | Instr.writePacket => true
  | Instr.atomicPacket => true
  | Instr.fetchPacket => true
  | Instr.objectPacket => true
  | Instr.responsePacket => true
  | Instr.bulkPacket => true
  | Instr.bulkAck => true
  | Instr.credit => true
  | Instr.marker => true
  | Instr.syncFlit => true
  | Instr.gleanerVisit => true
  | Instr.affinityHalving => true
  | Instr.migrationPassEnd => true
  | Instr.cutOverDrained => true
  | Instr.pinGraceExpiry => true
  | Instr.oinvComplete => true
  | Instr.invalidationComplete => true
  | Instr.blockPlacement => true
  | Instr.taskEndingComplete => true
  | Instr.preemption => true
  | Instr.saveComplete => true
  | Instr.blockSwapOut => true
  | Instr.swappedBlockPoll => true
  | Instr.blockRestore => true
  | Instr.watchdog => true
  | Instr.eventSend => true
  | Instr.eventResend => true
  | Instr.taskPost => true
  | Instr.eventAck => true
  | Instr.mgmtRead => true
  | Instr.mgmtWrite => true
  | Instr.planctlGo => true
  | Instr.qpConnect => true
  | Instr.qpEnd => true
  | Instr.attest => true
  | Instr.rdmaWrite => true
  | Instr.rdmaRead => true
  | Instr.reset => true
  | Instr.coldReset => true
  | Instr.replayRequest => true
  | Instr.roceSendOrAtomic => true
  | Instr.circuitSwitchChange => true

end Sys2Proof
end

