-- ==== Sys2Proof/Decode.lean ====
section
/-! DEFINITION. Decoding of instruction words, total on any bytes, and the encoder written from the same tables (03 R60 to R78). -/

namespace Sys2Proof

/-- Why a word is no instruction (03 R78): every one of these traps with ILLEGAL. -/
inductive DecodeError
  | reservedMajor
  | reservedXop
  | reservedField
  | badCode
  | illFormed
  | truncated
  deriving DecidableEq, Repr

/-- The fields of a word by format (03 R63, R68). `s` is the switch marker. -/
inductive Raw
  | l3 (s : Bool) (maj : BitVec 6) (d a b : BitVec 8)
  | lx (s : Bool) (maj : BitVec 6) (d a b : BitVec 8) (c e : BitVec 9) (m4 : BitVec 4) (xop : BitVec 10)
  | lxv (s : Bool) (d a b : BitVec 8) (c : BitVec 9) (dtag : BitVec 4) (rm2 : BitVec 2) (sat : BitVec 1) (elem : BitVec 4) (res : BitVec 2) (xop : BitVec 10)
  | lm (s : Bool) (maj : BitVec 6) (d o : BitVec 8) (ord : BitVec 2) (scp hint : BitVec 3) (base : BitVec 9) (lsc : BitVec 3) (size ltag : BitVec 4) (imm : BitVec 12)
  | la (s : Bool) (maj : BitVec 6) (d o vs : BitVec 8) (base : BitVec 9) (op : BitVec 4) (ty : BitVec 3) (ret : BitVec 1) (scp : BitVec 3) (imm : BitVec 12)
  | lcf (s : Bool) (a gp xop : BitVec 8) (simm : BitVec 32)
  | gi (s : Bool) (maj : BitVec 6) (gd : BitVec 9) (imm : BitVec 15)
  | gs (s : Bool) (maj : BitVec 6) (gd ga : BitVec 9) (imm : BitVec 6)
  | gb (s : Bool) (maj : BitVec 6) (imm : BitVec 24)
  | gx (s : Bool) (maj : BitVec 6) (gd ga : BitVec 9) (m6 : BitVec 6) (gb gc : BitVec 9) (m4 : BitVec 4) (xop : BitVec 10)
  | gbc (s : Bool) (ga gb : BitVec 9) (cond : BitVec 4) (kind : BitVec 2) (simm : BitVec 32)
  | gmovl (s : Bool) (gd : BitVec 9) (res : BitVec 15) (imm : BitVec 32)
  | ext (s : Bool) (set : Bool) (maj : BitVec 6) (rest : BitVec 24) (w1 : BitVec 32)
  | reserved
  deriving DecidableEq, Repr

/-- One bit from a Bool. -/
def bit1 (b : Bool) : BitVec 1 := BitVec.ofBool b
/-- A Bool from one bit. -/
def bool1 (b : BitVec 1) : Bool := b == 1#1

/-- Two-word instructions have majors 0x30 to 0x3F (03 R61). -/
def twoWords (w0 : Word) : Bool := decide (0x30 <= (w0.extractLsb' 24 6).toNat)

/-- Splits the words by the format their set and major select (03 R74, R75). -/
def Raw.ofWords (w0 w1 : Word) : Raw :=
  let set := bool1 (w0.extractLsb' 31 1)
  let s := bool1 (w0.extractLsb' 30 1)
  let maj := w0.extractLsb' 24 6
  let m := maj.toNat
  if isExtMajor m then .ext s set maj (w0.extractLsb' 0 24) (if m < 0x30 then 0 else w1)
  else if set then
    if m <= 0x03 then .gi s maj (w0.extractLsb' 15 9) (w0.extractLsb' 0 15)
    else if m <= 0x08 then .gs s maj (w0.extractLsb' 15 9) (w0.extractLsb' 6 9) (w0.extractLsb' 0 6)
    else if m <= 0x10 then .gb s maj (w0.extractLsb' 0 24)
    else if m < 0x30 then .reserved
    else if m == 0x31 then .gbc s (w0.extractLsb' 15 9) (w0.extractLsb' 6 9) (w0.extractLsb' 2 4) (w0.extractLsb' 0 2) w1
    else if m == 0x3C then .gmovl s (w0.extractLsb' 15 9) (w0.extractLsb' 0 15) w1
    else .gx s maj (w0.extractLsb' 15 9) (w0.extractLsb' 6 9) (w0.extractLsb' 0 6) (w1.extractLsb' 23 9) (w1.extractLsb' 14 9) (w1.extractLsb' 10 4) (w1.extractLsb' 0 10)
  else
    if m <= 0x1C then .l3 s maj (w0.extractLsb' 16 8) (w0.extractLsb' 8 8) (w0.extractLsb' 0 8)
    else if m < 0x30 then .reserved
    else if m == 0x32 then .lxv s (w0.extractLsb' 16 8) (w0.extractLsb' 8 8) (w0.extractLsb' 0 8) (w1.extractLsb' 23 9) (w1.extractLsb' 19 4) (w1.extractLsb' 17 2) (w1.extractLsb' 16 1) (w1.extractLsb' 12 4) (w1.extractLsb' 10 2) (w1.extractLsb' 0 10)
    else if m <= 0x33 || m == 0x3A then .lx s maj (w0.extractLsb' 16 8) (w0.extractLsb' 8 8) (w0.extractLsb' 0 8) (w1.extractLsb' 23 9) (w1.extractLsb' 14 9) (w1.extractLsb' 10 4) (w1.extractLsb' 0 10)
    else if m <= 0x37 then .lm s maj (w0.extractLsb' 16 8) (w0.extractLsb' 8 8) (w0.extractLsb' 6 2) (w0.extractLsb' 3 3) (w0.extractLsb' 0 3) (w1.extractLsb' 23 9) (w1.extractLsb' 20 3) (w1.extractLsb' 16 4) (w1.extractLsb' 12 4) (w1.extractLsb' 0 12)
    else if m <= 0x39 then .la s maj (w0.extractLsb' 16 8) (w0.extractLsb' 8 8) (w0.extractLsb' 0 8) (w1.extractLsb' 23 9) (w1.extractLsb' 19 4) (w1.extractLsb' 16 3) (w1.extractLsb' 15 1) (w1.extractLsb' 12 3) (w1.extractLsb' 0 12)
    else if m == 0x3B then .lcf s (w0.extractLsb' 16 8) (w0.extractLsb' 8 8) (w0.extractLsb' 0 8) w1
    else .reserved

/-- The words of the fields; the second word of a one-word format is 0 and is not part of the instruction. -/
def Raw.toWords : Raw → Word × Word
  | Raw.l3 s maj d a b => ((0#1 ++ bit1 s ++ maj ++ d ++ a ++ b : BitVec 32), 0)
  | Raw.lx s maj d a b c e m4 xop => ((0#1 ++ bit1 s ++ maj ++ d ++ a ++ b : BitVec 32), (c ++ e ++ m4 ++ xop : BitVec 32))
  | Raw.lxv s d a b c dtag rm2 sat elem res xop => ((0#1 ++ bit1 s ++ 0x32#6 ++ d ++ a ++ b : BitVec 32), (c ++ dtag ++ rm2 ++ sat ++ elem ++ res ++ xop : BitVec 32))
  | Raw.lm s maj d o ord scp hint base lsc size ltag imm => ((0#1 ++ bit1 s ++ maj ++ d ++ o ++ ord ++ scp ++ hint : BitVec 32), (base ++ lsc ++ size ++ ltag ++ imm : BitVec 32))
  | Raw.la s maj d o vs base op ty ret scp imm => ((0#1 ++ bit1 s ++ maj ++ d ++ o ++ vs : BitVec 32), (base ++ op ++ ty ++ ret ++ scp ++ imm : BitVec 32))
  | Raw.lcf s a gp xop simm => ((0#1 ++ bit1 s ++ 0x3B#6 ++ a ++ gp ++ xop : BitVec 32), simm)
  | Raw.gi s maj gd imm => ((1#1 ++ bit1 s ++ maj ++ gd ++ imm : BitVec 32), 0)
  | Raw.gs s maj gd ga imm => ((1#1 ++ bit1 s ++ maj ++ gd ++ ga ++ imm : BitVec 32), 0)
  | Raw.gb s maj imm => ((1#1 ++ bit1 s ++ maj ++ imm : BitVec 32), 0)
  | Raw.gx s maj gd ga m6 gbf gc m4 xop => ((1#1 ++ bit1 s ++ maj ++ gd ++ ga ++ m6 : BitVec 32), (gbf ++ gc ++ m4 ++ xop : BitVec 32))
  | Raw.gbc s ga gbf cond kind simm => ((1#1 ++ bit1 s ++ 0x31#6 ++ ga ++ gbf ++ cond ++ kind : BitVec 32), simm)
  | Raw.gmovl s gd res imm => ((1#1 ++ bit1 s ++ 0x3C#6 ++ gd ++ res : BitVec 32), imm)
  | Raw.ext s set maj rest w1 => ((bit1 set ++ bit1 s ++ maj ++ rest : BitVec 32), w1)
  | Raw.reserved => (0xFFFFFFFF, 0)

/-- A field value that fits in fewer bits; the bits above it are reserved (03 R64). -/
def narrow {n : Nat} (k : Nat) (x : BitVec n) : Option (BitVec k) := if x.toNat < 2 ^ k then some (x.setWidth k) else none

/-- A spec9 field that must name a g register (04 R102). -/
def gSpec? (c : BitVec 9) : Option (BitVec 8) :=
  if c.extractLsb' 8 1 = 1#1 then some (c.extractLsb' 0 8) else none
/-- The spec9 field of a g register. -/
def gSpec (g : BitVec 8) : BitVec 9 := (1#1 ++ g : BitVec 9)

/-- The tile specifier a literal field names (07 R195). -/
def TileSpec.ofCode? (c : BitVec 9) : Option TileSpec :=
  if c.extractLsb' 8 1 = 0#1 then some (.tile (c.extractLsb' 0 8))
  else if c.extractLsb' 3 6 = 0x20#6 then some (.stream (c.extractLsb' 0 3))
  else none
/-- The literal field of a tile specifier. -/
def TileSpec.code : TileSpec → BitVec 9
  | .tile n => (0#1 ++ n : BitVec 9)
  | .stream k => (0x20#6 ++ k : BitVec 9)

/-- Offset register and scale fields of LM (03 R65). -/
def LaneOffset.ofCodes? (o : BitVec 8) (lsc : BitVec 3) : Option LaneOffset :=
  if lsc = 7#3 then (if o = 0#8 then Option.some LaneOffset.none else Option.none)
  else if lsc.toNat <= 4 then Option.some (.scaled o lsc) else Option.none
/-- The offset register field. -/
def LaneOffset.reg : LaneOffset → BitVec 8
  | .none => 0
  | .scaled o _ => o
/-- The scale field. -/
def LaneOffset.lsc : LaneOffset → BitVec 3
  | .none => 7
  | .scaled _ k => k

/-- Order and scope fields (03 R65). -/
def Sync.ofCodes? (ord : BitVec 2) (scp : BitVec 3) : Option Sync :=
  match ord.toNat with
  | 0 => if scp = 0#3 then some .relaxed else none
  | 1 => (Scope.ofCode? scp).map .acquire
  | 2 => (Scope.ofCode? scp).map .release
  | _ => none
/-- The order field. -/
def Sync.ord : Sync → BitVec 2
  | .relaxed => 0
  | .acquire _ => 1
  | .release _ => 2
/-- The scope field. -/
def Sync.scp : Sync → BitVec 3
  | .relaxed => 0
  | .acquire s => s.code
  | .release s => s.code

/-- Op and type fields of an atomic (03 R66). -/
def Rmw.ofCodes? (op : BitVec 4) (ty : BitVec 3) : Option Rmw :=
  if op = 9#4 then (CasType.ofCode? ty).map .cas else (AtomOp.ofCode? op).map (fun o => .op o (AtomType.ofCode ty))
/-- The op field. -/
def Rmw.opCode : Rmw → BitVec 4
  | .op o _ => o.code
  | .cas _ => 9
/-- The type field. -/
def Rmw.tyCode : Rmw → BitVec 3
  | .op _ t => t.code
  | .cas t => t.code

/-- Destination field and return bit of ATOM and ATOMS (03 R66). -/
def dst? (d : BitVec 8) (ret : BitVec 1) : Option (Option (BitVec 8)) :=
  if ret = 1#1 then some (some d) else if d = 0#8 then some none else none
/-- The destination field. -/
def dstReg : Option (BitVec 8) → BitVec 8
  | none => 0
  | some d => d
/-- The return bit. -/
def dstRet : Option (BitVec 8) → BitVec 1
  | none => 0
  | some _ => 1

/-- A reserved field must be zero (00 R5, 03 R64). -/
def reserve (b : Bool) : Except DecodeError Unit := if b then .ok () else .error .reservedField
/-- A field value outside its codes is refused (03 R78). -/
def need {α : Type} : Option α → Except DecodeError α
  | some a => .ok a
  | none => .error .badCode

/-- The instructions of L3 (03 R74). -/
def Instr.ofL3 (s : Bool) (r_maj : Nat) (r_d : BitVec 8) (r_a : BitVec 8) (r_b : BitVec 8) : Except DecodeError Instr :=
  match r_maj with
  | 0 =>
    .ok (.iadd s r_d r_a r_b)
  | 1 =>
    .ok (.isub s r_d r_a r_b)
  | 2 =>
    .ok (.imul s r_d r_a r_b)
  | 3 =>
    .ok (.imulhi s r_d r_a r_b)
  | 4 =>
    .ok (.nmulhi s r_d r_a r_b)
  | 5 =>
    .ok (.imin s r_d r_a r_b)
  | 6 =>
    .ok (.imax s r_d r_a r_b)
  | 7 =>
    .ok (.nmin s r_d r_a r_b)
  | 8 =>
    .ok (.nmax s r_d r_a r_b)
  | 9 =>
    .ok (.vand s r_d r_a r_b)
  | 10 =>
    .ok (.vor s r_d r_a r_b)
  | 11 =>
    .ok (.vxor s r_d r_a r_b)
  | 12 =>
    .ok (.shl s r_d r_a r_b)
  | 13 =>
    .ok (.shr s r_d r_a r_b)
  | 14 =>
    .ok (.sar s r_d r_a r_b)
  | 15 =>
    .ok (.fadd s r_d r_a r_b)
  | 16 =>
    .ok (.fsub s r_d r_a r_b)
  | 17 =>
    .ok (.fmul s r_d r_a r_b)
  | 18 =>
    .ok (.fmin s r_d r_a r_b)
  | 19 =>
    .ok (.fmax s r_d r_a r_b)
  | 20 =>
    do
      reserve (r_b == 0)
      .ok (.mov s r_d r_a)
  | 21 =>
    .ok (.iaddi s r_d r_a r_b)
  | 22 =>
    .ok (.andi s r_d r_a r_b)
  | 23 =>
    .ok (.ori s r_d r_a r_b)
  | 24 =>
    .ok (.xori s r_d r_a r_b)
  | 25 =>
    do
      let x_sh ← need (narrow 5 r_b)
      .ok (.shli s r_d r_a x_sh)
  | 26 =>
    do
      let x_sh ← need (narrow 5 r_b)
      .ok (.shri s r_d r_a x_sh)
  | 27 =>
    do
      let x_sh ← need (narrow 5 r_b)
      .ok (.sari s r_d r_a x_sh)
  | 28 =>
    do
      reserve (r_a == 0)
      .ok (.movi s r_d r_b)
  | _ => .error .reservedMajor

/-- The instructions of LXA (03 R74). -/
def Instr.ofLxa (s : Bool) (r_xop : Nat) (r_d : BitVec 8) (r_a : BitVec 8) (r_b : BitVec 8) (r_c : BitVec 9) (r_e : BitVec 9) (r_m4 : BitVec 4) : Except DecodeError Instr :=
  match r_xop with
  | 0 =>
    do
      reserve (r_e == 0)
      let x_rm ← need ((narrow 2 r_m4).map Rounding.ofCode)
      .ok (.ffma s r_d r_a r_b (Src.ofCode r_c) x_rm)
  | 1 =>
    do
      reserve (r_e == 0 && r_m4 == 0)
      .ok (.imad s r_d r_a r_b (Src.ofCode r_c))
  | 2 =>
    do
      reserve (r_b == 0 && r_c == 0 && r_e == 0 && r_m4 == 0)
      .ok (.frcp s r_d r_a)
  | 3 =>
    do
      reserve (r_b == 0 && r_c == 0 && r_e == 0 && r_m4 == 0)
      .ok (.frsq s r_d r_a)
  | 4 =>
    do
      reserve (r_b == 0 && r_c == 0 && r_e == 0)
      let x_rm ← need ((narrow 2 r_m4).map Rounding.ofCode)
      .ok (.fsqrt s r_d r_a x_rm)
  | 5 =>
    do
      reserve (r_b == 0 && r_c == 0 && r_e == 0 && r_m4 == 0)
      .ok (.fexp2 s r_d r_a)
  | 6 =>
    do
      reserve (r_b == 0 && r_c == 0 && r_e == 0 && r_m4 == 0)
      .ok (.flog2 s r_d r_a)
  | 7 =>
    do
      reserve (r_b == 0 && r_c == 0 && r_e == 0 && r_m4 == 0)
      .ok (.fsin s r_d r_a)
  | 8 =>
    do
      reserve (r_b == 0 && r_c == 0 && r_e == 0 && r_m4 == 0)
      .ok (.fcos s r_d r_a)
  | 9 =>
    do
      reserve (r_b == 0 && r_c == 0 && r_e == 0 && r_m4 == 0)
      .ok (.fabs s r_d r_a)
  | 10 =>
    do
      reserve (r_b == 0 && r_c == 0 && r_e == 0 && r_m4 == 0)
      .ok (.fneg s r_d r_a)
  | 11 =>
    do
      reserve (r_b == 0 && r_c == 0 && r_e == 0 && r_m4 == 0)
      .ok (.ffloor s r_d r_a)
  | 12 =>
    do
      reserve (r_b == 0 && r_c == 0 && r_e == 0 && r_m4 == 0)
      .ok (.fceil s r_d r_a)
  | 13 =>
    do
      reserve (r_b == 0 && r_c == 0 && r_e == 0 && r_m4 == 0)
      .ok (.ftrunc s r_d r_a)
  | 14 =>
    do
      reserve (r_b == 0 && r_c == 0 && r_e == 0)
      let x_rm ← need ((narrow 2 r_m4).map Rounding.ofCode)
      .ok (.frint s r_d r_a x_rm)
  | 15 =>
    do
      reserve (r_c == 0 && r_e == 0 && r_m4 == 0)
      .ok (.ftwosum s r_d r_a r_b)
  | 16 =>
    do
      reserve (r_b == 0 && r_c == 0 && r_e == 0 && r_m4 == 0)
      .ok (.popc s r_d r_a)
  | 17 =>
    do
      reserve (r_b == 0 && r_c == 0 && r_e == 0 && r_m4 == 0)
      .ok (.clz s r_d r_a)
  | 18 =>
    do
      reserve (r_b == 0 && r_c == 0 && r_e == 0 && r_m4 == 0)
      .ok (.brev s r_d r_a)
  | 19 =>
    do
      reserve (r_e == 0)
      let x_sgn ← need ((narrow 1 r_m4).map bool1)
      .ok (.bfe s r_d r_a r_b (Src.ofCode r_c) x_sgn)
  | 20 =>
    do
      reserve (r_m4 == 0)
      .ok (.bfi s r_d r_a r_b (Src.ofCode r_c) (Src.ofCode r_e))
  | 21 =>
    do
      reserve (r_e == 0 && r_m4 == 0)
      .ok (.prmt s r_d r_a r_b (Src.ofCode r_c))
  | 22 =>
    do
      reserve (r_e == 0 && r_m4 == 0)
      .ok (.sel s r_d r_a r_b (Src.ofCode r_c))
  | 23 =>
    do
      reserve (r_b == 0 && r_c == 0 && r_e == 0)
      let x_sat ← need ((narrow 1 r_m4).map bool1)
      .ok (.iabs s r_d r_a x_sat)
  | 24 =>
    do
      reserve (r_b == 0 && r_c == 0 && r_e == 0)
      let x_sat ← need ((narrow 1 r_m4).map bool1)
      .ok (.ineg s r_d r_a x_sat)
  | 25 =>
    do
      reserve (r_e == 0 && r_m4 == 0)
      .ok (.iadd3 s r_d r_a r_b (Src.ofCode r_c))
  | 26 =>
    do
      reserve (r_a == 0 && r_b == 0 && r_e == 0 && r_m4 == 0)
      let x_gc ← need (gSpec? r_c)
      .ok (.movg s r_d x_gc)
  | _ => .error .reservedXop

/-- The instructions of LXC (03 R74). -/
def Instr.ofLxc (s : Bool) (r_xop : Nat) (r_d : BitVec 8) (r_a : BitVec 8) (r_b : BitVec 8) (r_c : BitVec 9) (r_e : BitVec 9) (r_m4 : BitVec 4) : Except DecodeError Instr :=
  match r_xop with
  | 0 =>
    do
      reserve (r_c == 0 && r_e == 0)
      let x_cond ← need (Cond.ofCode? r_m4)
      .ok (.iset s r_d r_a r_b x_cond)
  | 1 =>
    do
      reserve (r_c == 0 && r_e == 0)
      let x_cond ← need (Cond.ofCode? r_m4)
      .ok (.nset s r_d r_a r_b x_cond)
  | 2 =>
    do
      reserve (r_c == 0 && r_e == 0)
      let x_cond ← need (Cond.ofCode? r_m4)
      .ok (.fset s r_d r_a r_b x_cond)
  | _ => .error .reservedXop

/-- The instructions of LXV (03 R74). -/
def Instr.ofLxv (s : Bool) (r_xop : Nat) (r_d : BitVec 8) (r_a : BitVec 8) (r_b : BitVec 8) (r_c : BitVec 9) (r_dtag : BitVec 4) (r_rm2 : BitVec 2) (r_sat : BitVec 1) (r_elem : BitVec 4) (r_res : BitVec 2) : Except DecodeError Instr :=
  match r_xop with
  | 0 =>
    do
      reserve (r_b == 0 && r_c == 0 && r_res == 0)
      .ok (.cvt s r_d r_a (Tag.ofCode r_dtag) (bool1 (r_elem.extractLsb' 3 1)) (r_elem.extractLsb' 0 3) (Rounding.ofCode r_rm2) (bool1 r_sat))
  | 1 =>
    do
      reserve (r_b == 0 && r_c == 0 && r_rm2 == 0 && r_sat == 0 && r_res == 0)
      let x_el ← need ((narrow 1 r_elem).map bool1)
      .ok (.cvtsc s r_d r_a (Tag.ofCode r_dtag) x_el)
  | 2 =>
    do
      reserve (r_c == 0 && r_res == 0)
      reserve (r_elem.extractLsb' 0 3 == 0)
      .ok (.pack2 s r_d r_a r_b (Tag.ofCode r_dtag) (bool1 (r_elem.extractLsb' 3 1)) (Rounding.ofCode r_rm2) (bool1 r_sat))
  | 3 =>
    do
      reserve (r_b == 0 && r_c == 0 && r_res == 0)
      reserve (r_elem.extractLsb' 0 3 == 0)
      .ok (.pack4 s r_d r_a (Tag.ofCode r_dtag) (bool1 (r_elem.extractLsb' 3 1)) (Rounding.ofCode r_rm2) (bool1 r_sat))
  | 4 =>
    do
      reserve (r_b == 0 && r_c == 0 && r_sat == 0 && r_res == 0)
      reserve (r_elem.extractLsb' 0 3 == 0)
      .ok (.unpack s r_d r_a (Tag.ofCode r_dtag) (bool1 (r_elem.extractLsb' 3 1)) (Rounding.ofCode r_rm2))
  | 5 =>
    do
      reserve (r_b == 0 && r_c == 0 && r_rm2 == 0 && r_sat == 0 && r_elem == 0 && r_res == 0)
      .ok (.tagset s r_d r_a (Tag.ofCode r_dtag))
  | 6 =>
    do
      reserve (r_b == 0 && r_c == 0 && r_dtag == 0 && r_rm2 == 0 && r_sat == 0 && r_elem == 0 && r_res == 0)
      .ok (.tagget s r_d r_a)
  | _ => .error .reservedXop

/-- The instructions of LXX (03 R74). -/
def Instr.ofLxx (s : Bool) (r_xop : Nat) (r_d : BitVec 8) (r_a : BitVec 8) (r_b : BitVec 8) (r_c : BitVec 9) (r_e : BitVec 9) (r_m4 : BitVec 4) : Except DecodeError Instr :=
  match r_xop with
  | 0 =>
    do
      reserve (r_b == 0 && r_e == 0)
      let x_w ← need (SegWidth.ofCode? r_m4)
      .ok (.shfl s r_d r_a (Src.ofCode r_c) x_w)
  | 1 =>
    do
      reserve (r_b == 0 && r_e == 0)
      let x_w ← need (SegWidth.ofCode? r_m4)
      .ok (.shflup s r_d r_a (Src.ofCode r_c) x_w)
  | 2 =>
    do
      reserve (r_b == 0 && r_e == 0)
      let x_w ← need (SegWidth.ofCode? r_m4)
      .ok (.shfldn s r_d r_a (Src.ofCode r_c) x_w)
  | 3 =>
    do
      reserve (r_b == 0 && r_e == 0)
      let x_w ← need (SegWidth.ofCode? r_m4)
      .ok (.shflx s r_d r_a (Src.ofCode r_c) x_w)
  | 4 =>
    do
      reserve (r_b == 0 && r_c == 0 && r_e == 0 && r_m4 == 0)
      .ok (.qswaph s r_d r_a)
  | 5 =>
    do
      reserve (r_b == 0 && r_c == 0 && r_e == 0 && r_m4 == 0)
      .ok (.qswapv s r_d r_a)
  | 6 =>
    do
      reserve (r_b == 0 && r_c == 0 && r_e == 0 && r_m4 == 0)
      .ok (.qswapd s r_d r_a)
  | 7 =>
    do
      reserve (r_b == 0 && r_c == 0 && r_e == 0)
      let x_k ← need (narrow 2 r_m4)
      .ok (.qbcast s r_d r_a x_k)
  | 8 =>
    do
      reserve (r_d == 0 && r_b == 0 && r_c == 0 && r_m4 == 0)
      let x_ge ← need (gSpec? r_e)
      .ok (.voteall s x_ge r_a)
  | 9 =>
    do
      reserve (r_d == 0 && r_b == 0 && r_c == 0 && r_m4 == 0)
      let x_ge ← need (gSpec? r_e)
      .ok (.voteany s x_ge r_a)
  | 10 =>
    if r_m4 == 0 then
      do
        reserve (r_d == 0 && r_b == 0 && r_c == 0)
        let x_ge ← need (gSpec? r_e)
        .ok (.ballot s x_ge r_a)
    else if r_m4 == 1 then
      do
        reserve (r_d == 0 && r_b == 0 && r_c == 0)
        let x_ge ← need (gSpec? r_e)
        .ok (.ballotScratchpad s x_ge r_a)
    else .error .badCode
  | 11 =>
    do
      reserve (r_d == 0 && r_m4 == 0)
      let x_ge ← need (gSpec? r_e)
      .ok (.bplane s x_ge r_a r_b (Src.ofCode r_c))
  | 12 =>
    do
      reserve (r_d == 0 && r_b == 0 && r_c == 0 && r_m4 == 0)
      let x_ge ← need (gSpec? r_e)
      .ok (.matchLanes s x_ge r_a)
  | 13 =>
    do
      reserve (r_d == 0 && r_b == 0 && r_c == 0)
      let x_ge ← need (gSpec? r_e)
      let x_op ← need (ReduxOp.ofCode? r_m4)
      .ok (.redux s x_ge r_a x_op)
  | 14 =>
    do
      reserve (r_a == 0 && r_b == 0 && r_c == 0 && r_e == 0 && r_m4 == 0)
      .ok (.laneid s r_d)
  | 15 =>
    do
      reserve (r_a == 0 && r_b == 0 && r_c == 0 && r_e == 0)
      let x_k ← need (LaneSr.ofCode? r_m4)
      .ok (.readsr s r_d x_k)
  | _ => .error .reservedXop

/-- The instructions of LM (03 R74). -/
def Instr.ofLm (s : Bool) (r_maj : Nat) (r_d : BitVec 8) (r_o : BitVec 8) (r_ord : BitVec 2) (r_scp : BitVec 3) (r_hint : BitVec 3) (r_base : BitVec 9) (r_lsc : BitVec 3) (r_size : BitVec 4) (r_ltag : BitVec 4) (r_imm : BitVec 12) : Except DecodeError Instr :=
  match r_maj with
  | 52 =>
    do
      let x_off ← need (LaneOffset.ofCodes? r_o r_lsc)
      let x_sync ← need (Sync.ofCodes? r_ord r_scp)
      let x_hint ← need (Hint.ofCode? r_hint)
      let x_size ← need (Size.ofCode? r_size)
      .ok (.ld s r_d x_off x_sync x_hint r_base x_size (Tag.ofCode r_ltag) r_imm)
  | 53 =>
    do
      reserve (r_ltag == 0)
      let x_off ← need (LaneOffset.ofCodes? r_o r_lsc)
      let x_sync ← need (Sync.ofCodes? r_ord r_scp)
      let x_hint ← need (Hint.ofCode? r_hint)
      let x_size ← need (Size.ofCode? r_size)
      .ok (.st s r_d x_off x_sync x_hint r_base x_size r_imm)
  | 54 =>
    do
      reserve (r_hint == 0)
      let x_off ← need (LaneOffset.ofCodes? r_o r_lsc)
      let x_sync ← need (Sync.ofCodes? r_ord r_scp)
      let x_size ← need (Size.ofCode? r_size)
      .ok (.lds s r_d x_off x_sync r_base x_size (Tag.ofCode r_ltag) r_imm)
  | 55 =>
    do
      reserve (r_hint == 0 && r_ltag == 0)
      let x_off ← need (LaneOffset.ofCodes? r_o r_lsc)
      let x_sync ← need (Sync.ofCodes? r_ord r_scp)
      let x_size ← need (Size.ofCode? r_size)
      .ok (.sts s r_d x_off x_sync r_base x_size r_imm)
  | _ => .error .reservedMajor

/-- The instructions of LA (03 R74). -/
def Instr.ofLa (s : Bool) (r_maj : Nat) (r_d : BitVec 8) (r_o : BitVec 8) (r_vs : BitVec 8) (r_base : BitVec 9) (r_op : BitVec 4) (r_ty : BitVec 3) (r_ret : BitVec 1) (r_scp : BitVec 3) (r_imm : BitVec 12) : Except DecodeError Instr :=
  match r_maj with
  | 56 =>
    do
      let x_dst ← need (dst? r_d r_ret)
      let x_rmw ← need (Rmw.ofCodes? r_op r_ty)
      let x_scope ← need (Scope.ofCode? r_scp)
      .ok (.atom s x_dst r_o r_vs x_rmw x_scope r_base r_imm)
  | 57 =>
    do
      let x_dst ← need (dst? r_d r_ret)
      let x_rmw ← need (Rmw.ofCodes? r_op r_ty)
      let x_scope ← need (Scope.ofCode? r_scp)
      .ok (.atoms s x_dst r_o r_vs x_rmw x_scope r_base r_imm)
  | _ => .error .reservedMajor

/-- The instructions of TRX (03 R74). -/
def Instr.ofTrx (s : Bool) (r_xop : Nat) (r_d : BitVec 8) (r_a : BitVec 8) (r_b : BitVec 8) (r_c : BitVec 9) (r_e : BitVec 9) (r_m4 : BitVec 4) : Except DecodeError Instr :=
  match r_xop with
  | 0 =>
    do
      reserve (r_m4 == 0)
      let x_gc ← need (gSpec? r_c)
      let x_ge ← need (gSpec? r_e)
      .ok (.trx s r_d r_a r_b x_gc x_ge)
  | _ => .error .reservedXop

/-- The instructions of LCF (03 R74). -/
def Instr.ofLcf (s : Bool) (r_xop : Nat) (r_a : BitVec 8) (r_gp : BitVec 8) (r_simm : BitVec 32) : Except DecodeError Instr :=
  match r_xop with
  | 0 =>
    do
      reserve (r_gp == 0)
      .ok (.brz s r_a r_simm)
  | 1 =>
    do
      reserve (r_gp == 0)
      .ok (.brnz s r_a r_simm)
  | 2 =>
    do
      reserve (r_gp == 0 && r_simm == 0)
      .ok (.brx s r_a)
  | 3 =>
    .ok (.bspillz s r_a r_gp r_simm)
  | 4 =>
    .ok (.bspillnz s r_a r_gp r_simm)
  | 5 =>
    do
      reserve (r_gp == 0 && r_simm == 0)
      .ok (.callx s r_a)
  | 6 =>
    do
      reserve (r_a == 0 && r_gp == 0)
      .ok (.call s r_simm)
  | 7 =>
    do
      reserve (r_a == 0 && r_gp == 0 && r_simm == 0)
      .ok (.ret s)
  | _ => .error .reservedXop

/-- The instructions of GI (03 R75). -/
def Instr.ofGi (s : Bool) (r_maj : Nat) (r_gd : BitVec 9) (r_imm : BitVec 15) : Except DecodeError Instr :=
  match r_maj with
  | 0 =>
    .ok (.gmovi s r_gd r_imm)
  | 1 =>
    .ok (.gaddi s r_gd r_imm)
  | 2 =>
    .ok (.glui s r_gd r_imm)
  | 3 =>
    .ok (.gori s r_gd r_imm)
  | _ => .error .reservedMajor

/-- The instructions of GS (03 R75). -/
def Instr.ofGs (s : Bool) (r_maj : Nat) (r_gd : BitVec 9) (r_ga : BitVec 9) (r_imm : BitVec 6) : Except DecodeError Instr :=
  match r_maj with
  | 4 =>
    do
      let x_sh ← need (narrow 5 r_imm)
      .ok (.gshli s r_gd r_ga x_sh)
  | 5 =>
    do
      let x_sh ← need (narrow 5 r_imm)
      .ok (.gshri s r_gd r_ga x_sh)
  | 6 =>
    do
      let x_sh ← need (narrow 5 r_imm)
      .ok (.gsari s r_gd r_ga x_sh)
  | 7 =>
    do
      reserve (r_imm == 0)
      .ok (.gmov s r_gd r_ga)
  | 8 =>
    .ok (.gaddi6 s r_gd r_ga r_imm)
  | _ => .error .reservedMajor

/-- The instructions of GB (03 R75). -/
def Instr.ofGb (s : Bool) (r_maj : Nat) (r_imm : BitVec 24) : Except DecodeError Instr :=
  match r_maj with
  | 9 =>
    .ok (.jmp s r_imm)
  | 10 =>
    do
      reserve (r_imm == 0)
      .ok (.land s)
  | 11 =>
    do
      reserve (r_imm == 0)
      .ok (.nop s)
  | 12 =>
    do
      reserve (r_imm == 0)
      .ok (.exit s)
  | 13 =>
    do
      reserve (r_imm == 0)
      .ok (.yield s)
  | 14 =>
    .ok (.brk s r_imm)
  | 15 =>
    do
      reserve (r_imm == 0)
      .ok (.eret s)
  | 16 =>
    do
      reserve (r_imm == 0)
      .ok (.endSeq s)
  | _ => .error .reservedMajor

/-- The instructions of GMOVL (03 R75). -/
def Instr.ofGmovl (s : Bool) (r_gd : BitVec 9) (r_res : BitVec 15) (r_imm : BitVec 32) : Except DecodeError Instr :=
  do
    reserve (r_res == 0)
    .ok (.gmovl s r_gd r_imm)

/-- The instructions of GXA (03 R75). -/
def Instr.ofGxa (s : Bool) (r_xop : Nat) (r_gd : BitVec 9) (r_ga : BitVec 9) (r_m6 : BitVec 6) (r_gb : BitVec 9) (r_gc : BitVec 9) (r_m4 : BitVec 4) : Except DecodeError Instr :=
  match r_xop with
  | 0 =>
    do
      reserve (r_m6 == 0 && r_gc == 0 && r_m4 == 0)
      .ok (.gadd s r_gd r_ga r_gb)
  | 1 =>
    do
      reserve (r_m6 == 0 && r_gc == 0 && r_m4 == 0)
      .ok (.gsub s r_gd r_ga r_gb)
  | 2 =>
    do
      reserve (r_m6 == 0 && r_gc == 0 && r_m4 == 0)
      .ok (.gmul s r_gd r_ga r_gb)
  | 3 =>
    do
      reserve (r_m6 == 0 && r_gc == 0 && r_m4 == 0)
      .ok (.gmulhi s r_gd r_ga r_gb)
  | 4 =>
    do
      reserve (r_m6 == 0 && r_gc == 0 && r_m4 == 0)
      .ok (.gnmulhi s r_gd r_ga r_gb)
  | 5 =>
    do
      reserve (r_m6 == 0 && r_gc == 0 && r_m4 == 0)
      .ok (.gand s r_gd r_ga r_gb)
  | 6 =>
    do
      reserve (r_m6 == 0 && r_gc == 0 && r_m4 == 0)
      .ok (.gor s r_gd r_ga r_gb)
  | 7 =>
    do
      reserve (r_m6 == 0 && r_gc == 0 && r_m4 == 0)
      .ok (.gxor s r_gd r_ga r_gb)
  | 8 =>
    do
      reserve (r_m6 == 0 && r_gc == 0 && r_m4 == 0)
      .ok (.gshl s r_gd r_ga r_gb)
  | 9 =>
    do
      reserve (r_m6 == 0 && r_gc == 0 && r_m4 == 0)
      .ok (.gshr s r_gd r_ga r_gb)
  | 10 =>
    do
      reserve (r_m6 == 0 && r_gc == 0 && r_m4 == 0)
      .ok (.gsar s r_gd r_ga r_gb)
  | 11 =>
    do
      reserve (r_m6 == 0 && r_gc == 0 && r_m4 == 0)
      .ok (.gmin s r_gd r_ga r_gb)
  | 12 =>
    do
      reserve (r_m6 == 0 && r_gc == 0 && r_m4 == 0)
      .ok (.gmax s r_gd r_ga r_gb)
  | 13 =>
    do
      reserve (r_m6 == 0 && r_gc == 0 && r_m4 == 0)
      .ok (.gnmin s r_gd r_ga r_gb)
  | 14 =>
    do
      reserve (r_m6 == 0 && r_gc == 0 && r_m4 == 0)
      .ok (.gnmax s r_gd r_ga r_gb)
  | 15 =>
    do
      reserve (r_m6 == 0 && r_gb == 0 && r_gc == 0 && r_m4 == 0)
      .ok (.gpopc s r_gd r_ga)
  | 16 =>
    do
      reserve (r_m6 == 0 && r_gb == 0 && r_gc == 0 && r_m4 == 0)
      .ok (.gclz s r_gd r_ga)
  | 17 =>
    do
      reserve (r_m6 == 0 && r_m4 == 0)
      .ok (.gsel s r_gd r_ga r_gb r_gc)
  | 18 =>
    do
      reserve (r_m6 == 0 && r_gc == 0 && r_m4 == 0)
      .ok (.gdivn s r_gd r_ga r_gb)
  | 19 =>
    do
      reserve (r_m6 == 0 && r_gc == 0 && r_m4 == 0)
      .ok (.gremn s r_gd r_ga r_gb)
  | 20 =>
    do
      reserve (r_m6 == 0 && r_m4 == 0)
      .ok (.gmad s r_gd r_ga r_gb r_gc)
  | 21 =>
    do
      reserve (r_m6 == 0 && r_gc == 0 && r_m4 == 0)
      .ok (.gadd64 s r_gd r_ga r_gb)
  | 22 =>
    do
      reserve (r_m6 == 0)
      let x_sgn ← need ((narrow 1 r_m4).map bool1)
      .ok (.gbfe s r_gd r_ga r_gb r_gc x_sgn)
  | 23 =>
    do
      reserve (r_m6 == 0 && r_m4 == 0)
      .ok (.gbfi s r_gd r_ga r_gb r_gc)
  | 24 =>
    do
      reserve (r_m6 == 0 && r_gc == 0)
      let x_rm ← need ((narrow 2 r_m4).map Rounding.ofCode)
      .ok (.gfadd s r_gd r_ga r_gb x_rm)
  | 25 =>
    do
      reserve (r_m6 == 0 && r_gc == 0)
      let x_rm ← need ((narrow 2 r_m4).map Rounding.ofCode)
      .ok (.gfmul s r_gd r_ga r_gb x_rm)
  | 26 =>
    do
      reserve (r_m6 == 0 && r_gc == 0 && r_m4 == 0)
      .ok (.gfmax s r_gd r_ga r_gb)
  | 27 =>
    do
      reserve (r_m6 == 0 && r_gc == 0)
      let x_cond ← need (Cond.ofCode? r_m4)
      .ok (.gset s r_gd r_ga r_gb x_cond)
  | 28 =>
    do
      reserve (r_m6 == 0 && r_gc == 0)
      let x_cond ← need (Cond.ofCode? r_m4)
      .ok (.gnset s r_gd r_ga r_gb x_cond)
  | 29 =>
    do
      reserve (r_m6 == 0 && r_gc == 0)
      let x_cond ← need (Cond.ofCode? r_m4)
      .ok (.gfset s r_gd r_ga r_gb x_cond)
  | 30 =>
    do
      reserve (r_m6 == 0)
      let x_rm ← need ((narrow 2 r_m4).map Rounding.ofCode)
      .ok (.gffma s r_gd r_ga r_gb r_gc x_rm)
  | _ => .error .reservedXop

/-- The instructions of GBC (03 R75). -/
def Instr.ofGbc (s : Bool) (r_kind : Nat) (r_ga : BitVec 9) (r_gb : BitVec 9) (r_cond : BitVec 4) (r_simm : BitVec 32) : Except DecodeError Instr :=
  match r_kind with
  | 0 =>
    do
      let x_cond ← need (Cond.ofCode? r_cond)
      .ok (.gbr s r_ga r_gb x_cond r_simm)
  | 1 =>
    do
      let x_cond ← need (Cond.ofCode? r_cond)
      .ok (.gbrn s r_ga r_gb x_cond r_simm)
  | 2 =>
    do
      reserve (r_gb == 0)
      let x_cond ← need (Cond.ofCode? r_cond)
      .ok (.gbrz s r_ga x_cond r_simm)
  | 3 =>
    do
      reserve (r_gb == 0 && r_cond == 0)
      .ok (.loop s r_ga r_simm)
  | _ => .error .reservedXop

/-- The instructions of GSY (03 R75). -/
def Instr.ofGsy (s : Bool) (r_xop : Nat) (r_gd : BitVec 9) (r_ga : BitVec 9) (r_m6 : BitVec 6) (r_gb : BitVec 9) (r_gc : BitVec 9) (r_m4 : BitVec 4) : Except DecodeError Instr :=
  match r_xop with
  | 0 =>
    do
      reserve (r_ga == 0 && r_m6 == 0 && r_gb == 0 && r_m4 == 0)
      let x_csr ← need (Csr.ofCode? r_gc)
      .ok (.csrr s r_gd x_csr)
  | 1 =>
    do
      reserve (r_gd == 0 && r_m6 == 0 && r_gb == 0 && r_m4 == 0)
      let x_csr ← need (Csr.ofCode? r_gc)
      .ok (.csrw s x_csr r_ga)
  | 2 =>
    do
      reserve (r_m6 == 0 && r_gb == 0 && r_m4 == 0)
      let x_csr ← need (Csr.ofCode? r_gc)
      .ok (.csrx s r_gd x_csr r_ga)
  | 3 =>
    do
      reserve (r_gd == 0 && r_gc == 0)
      let x_cond ← need (Cond.ofCode? r_m4)
      .ok (.trap s r_ga r_gb x_cond r_m6)
  | 4 =>
    do
      reserve (r_gd == 0 && r_gb == 0 && r_gc == 0 && r_m4 == 0)
      .ok (.event s r_ga r_m6)
  | 5 =>
    do
      reserve (r_ga == 0 && r_m6 == 0 && r_gb == 0 && r_gc == 0 && r_m4 == 0)
      .ok (.clkr s r_gd)
  | _ => .error .reservedXop

/-- The instructions of GSN (03 R75). -/
def Instr.ofGsn (s : Bool) (r_xop : Nat) (r_gd : BitVec 9) (r_ga : BitVec 9) (r_m6 : BitVec 6) (r_gb : BitVec 9) (r_gc : BitVec 9) (r_m4 : BitVec 4) : Except DecodeError Instr :=
  match r_xop with
  | 0 =>
    do
      reserve (r_gd == 0 && r_gb == 0 && r_gc == 0 && r_m4 == 0)
      let x_k ← need (narrow 4 r_m6)
      .ok (.barinit s x_k r_ga)
  | 1 =>
    do
      reserve (r_gd == 0 && r_ga == 0 && r_gc == 0 && r_m4 == 0)
      let x_k ← need (narrow 4 r_m6)
      .ok (.bararv s x_k r_gb)
  | 2 =>
    do
      reserve (r_gd == 0 && r_ga == 0 && r_gb == 0 && r_gc == 0 && r_m4 == 0)
      let x_k ← need (narrow 4 r_m6)
      .ok (.barwait s x_k)
  | 3 =>
    do
      reserve (r_gd == 0 && r_ga == 0 && r_gc == 0 && r_m4 == 0)
      let x_k ← need (narrow 4 r_m6)
      .ok (.barsync s x_k r_gb)
  | 4 =>
    do
      reserve (r_gd == 0 && r_ga == 0 && r_m6 == 0 && r_gc == 0 && r_m4 == 0)
      .ok (.gsync s r_gb)
  | 5 =>
    do
      reserve (r_gd == 0 && r_ga == 0 && r_gb == 0 && r_gc == 0)
      let x_kind ← need (FenceKind.ofCode? r_m6)
      let x_scope ← need ((narrow 3 r_m4).bind Scope.ofCode?)
      .ok (.fence s x_kind x_scope)
  | 6 =>
    do
      reserve (r_gd == 0 && r_ga == 0 && r_m6 == 0 && r_gb == 0 && r_gc == 0 && r_m4 == 0)
      .ok (.mrdy s)
  | 7 =>
    do
      let x_cond ← need (Cond.ofCode? r_m4)
      reserve (r_m6.extractLsb' 4 2 == 0)
      let x_scope ← need (Scope.ofCode? (r_m6.extractLsb' 1 3))
      .ok (.waitc s r_gd r_ga r_gb r_gc x_cond (bool1 (r_m6.extractLsb' 0 1)) x_scope)
  | 8 =>
    do
      reserve (r_ga == 0 && r_gb == 0 && r_gc == 0 && r_m4 == 0)
      let x_k ← need (narrow 4 r_m6)
      .ok (.hwait s r_gd x_k)
  | 9 =>
    do
      reserve (r_ga == 0 && r_gb == 0 && r_gc == 0 && r_m4 == 0)
      let x_k ← need (narrow 4 r_m6)
      .ok (.htest s r_gd x_k)
  | 10 =>
    do
      reserve (r_gd == 0 && r_ga == 0 && r_gb == 0 && r_gc == 0 && r_m4 == 0)
      let x_k ← need (narrow 4 r_m6)
      .ok (.hcancel s x_k)
  | 11 =>
    do
      reserve (r_ga == 0 && r_gb == 0 && r_gc == 0 && r_m4 == 0)
      let x_k ← need (narrow 4 r_m6)
      .ok (.hmov s r_gd x_k)
  | 12 =>
    do
      reserve (r_gd == 0 && r_gb == 0 && r_gc == 0 && r_m4 == 0)
      let x_k ← need (narrow 4 r_m6)
      .ok (.hadopt s x_k r_ga)
  | 13 =>
    do
      reserve (r_gd == 0 && r_gb == 0 && r_gc == 0)
      let x_k ← need (narrow 4 r_m6)
      let x_clr ← need ((narrow 1 r_m4).map bool1)
      .ok (.acset s x_k r_ga x_clr)
  | 14 =>
    do
      reserve (r_gd == 0 && r_ga == 0 && r_gb == 0 && r_gc == 0 && r_m4 == 0)
      let x_k ← need (narrow 4 r_m6)
      .ok (.await s x_k)
  | 15 =>
    do
      reserve (r_gd == 0 && r_ga == 0 && r_m6 == 0 && r_gb == 0 && r_gc == 0 && r_m4 == 0)
      .ok (.rdv s)
  | _ => .error .reservedXop

/-- The instructions of GMM (03 R75). -/
def Instr.ofGmm (s : Bool) (r_xop : Nat) (r_gd : BitVec 9) (r_ga : BitVec 9) (r_m6 : BitVec 6) (r_gb : BitVec 9) (r_gc : BitVec 9) (r_m4 : BitVec 4) : Except DecodeError Instr :=
  match r_xop with
  | 0 =>
    do
      let x_size ← need (Size.ofCode? ((r_m6.extractLsb' 3 3).setWidth 4))
      let x_sync ← need (Sync.ofCodes? (r_m4.extractLsb' 2 2) (r_m6.extractLsb' 0 3))
      let x_hint ← need (Hint.ofCode? ((r_m4.extractLsb' 0 2).setWidth 3))
      .ok (.gld s r_gd r_ga r_gb r_gc x_size x_sync x_hint)
  | 1 =>
    do
      let x_size ← need (Size.ofCode? ((r_m6.extractLsb' 3 3).setWidth 4))
      let x_sync ← need (Sync.ofCodes? (r_m4.extractLsb' 2 2) (r_m6.extractLsb' 0 3))
      let x_hint ← need (Hint.ofCode? ((r_m4.extractLsb' 0 2).setWidth 3))
      .ok (.gst s r_gd r_ga r_gb r_gc x_size x_sync x_hint)
  | 2 =>
    do
      let x_size ← need (Size.ofCode? ((r_m6.extractLsb' 3 3).setWidth 4))
      let x_sync ← need (Sync.ofCodes? (r_m4.extractLsb' 2 2) (r_m6.extractLsb' 0 3))
      reserve (r_m4.extractLsb' 0 2 == 0)
      .ok (.glds s r_gd r_ga r_gb r_gc x_size x_sync)
  | 3 =>
    do
      let x_size ← need (Size.ofCode? ((r_m6.extractLsb' 3 3).setWidth 4))
      let x_sync ← need (Sync.ofCodes? (r_m4.extractLsb' 2 2) (r_m6.extractLsb' 0 3))
      reserve (r_m4.extractLsb' 0 2 == 0)
      .ok (.gsts s r_gd r_ga r_gb r_gc x_size x_sync)
  | 4 =>
    do
      let x_rmw ← need (Rmw.ofCodes? r_m4 (r_m6.extractLsb' 3 3))
      let x_scope ← need (Scope.ofCode? (r_m6.extractLsb' 0 3))
      .ok (.gatom s r_gd r_ga r_gb r_gc x_rmw x_scope)
  | _ => .error .reservedXop

/-- The instructions of GCP (03 R75). -/
def Instr.ofGcp (s : Bool) (r_xop : Nat) (r_gd : BitVec 9) (r_ga : BitVec 9) (r_m6 : BitVec 6) (r_gb : BitVec 9) (r_gc : BitVec 9) (r_m4 : BitVec 4) : Except DecodeError Instr :=
  match r_xop with
  | 0 =>
    do
      reserve (r_gd == 0 && r_m6 == 0 && r_gc == 0)
      .ok (.cpy s r_m4 r_ga r_gb)
  | 1 =>
    do
      reserve (r_m6 == 0 && r_gc == 0 && r_m4 == 0)
      .ok (.cpyc s r_gd r_ga r_gb)
  | 2 =>
    do
      reserve (r_gd == 0 && r_gb == 0 && r_gc == 0 && r_m4 == 0)
      let x_n ← need (narrow 3 r_m6)
      .ok (.layout s x_n r_ga)
  | 3 =>
    do
      reserve (r_gd == 0 && r_m6 == 0)
      let x_tile ← need (narrow 8 r_gb)
      .ok (.tdef s x_tile r_ga r_gc (Tag.ofCode r_m4))
  | 4 =>
    do
      reserve (r_gd == 0 && r_ga == 0 && r_m6 == 0 && r_gc == 0 && r_m4 == 0)
      let x_tile ← need (narrow 8 r_gb)
      .ok (.trel s x_tile)
  | 5 =>
    do
      reserve (r_ga == 0 && r_m6 == 0 && r_gc == 0 && r_m4 == 0)
      let x_spec ← need (TileSpec.ofCode? r_gb)
      .ok (.tstat s r_gd x_spec)
  | 6 =>
    do
      reserve (r_gd == 0 && r_ga == 0 && r_m4 == 0)
      let x_k ← need (narrow 3 r_m6)
      let x_first ← need (narrow 8 r_gb)
      .ok (.sbind s x_k x_first r_gc)
  | 7 =>
    do
      reserve (r_gd == 0 && r_m6 == 0 && r_gc == 0)
      .ok (.mcast s r_m4 r_ga r_gb)
  | _ => .error .reservedXop

/-- The instructions of GMX (03 R75). -/
def Instr.ofGmx (s : Bool) (r_xop : Nat) (r_gd : BitVec 9) (r_ga : BitVec 9) (r_m6 : BitVec 6) (r_gb : BitVec 9) (r_gc : BitVec 9) (r_m4 : BitVec 4) : Except DecodeError Instr :=
  match r_xop with
  | 0 =>
    do
      reserve (r_gd == 0 && r_ga == 0 && r_gb == 0 && r_gc == 0 && r_m4 == 0)
      let x_t ← need (narrow 2 r_m6)
      .ok (.mzero s x_t)
  | 1 =>
    do
      reserve (r_gd == 0 && r_m4 == 0)
      let x_t ← need (narrow 2 r_m6)
      let x_a ← need (TileSpec.ofCode? r_gb)
      let x_b ← need (TileSpec.ofCode? r_gc)
      .ok (.mma s x_t r_ga x_a x_b)
  | 2 =>
    do
      reserve (r_m4 == 0)
      let x_t ← need (narrow 2 r_m6)
      let x_a ← need (TileSpec.ofCode? r_gb)
      let x_b ← need (TileSpec.ofCode? r_gc)
      .ok (.mmag s x_t r_gd r_ga x_a x_b)
  | 3 =>
    do
      reserve (r_gd == 0 && r_m4 == 0)
      let x_t ← need (narrow 2 r_m6)
      let x_a ← need (TileSpec.ofCode? r_gb)
      let x_b ← need (TileSpec.ofCode? r_gc)
      .ok (.mmasp s x_t r_ga x_a x_b)
  | 4 =>
    do
      reserve (r_gc == 0 && r_m4 == 0)
      let x_t ← need (narrow 2 r_m6)
      let x_o ← need (narrow 8 r_gb)
      .ok (.msoft s x_t r_gd r_ga x_o)
  | 5 =>
    do
      reserve (r_gd == 0 && r_gb == 0 && r_gc == 0)
      let x_t ← need (narrow 2 r_m6)
      .ok (.mscale s x_t r_ga r_m4)
  | 6 =>
    do
      reserve (r_gc == 0)
      reserve (r_m6.extractLsb' 3 3 == 0)
      let x_o ← need (narrow 8 r_gb)
      .ok (.mdrain s (r_m6.extractLsb' 0 2) (bool1 (r_m6.extractLsb' 2 1)) r_gd r_ga x_o (Tag.ofCode r_m4))
  | 7 =>
    do
      reserve (r_gd == 0 && r_ga == 0 && r_gb == 0 && r_gc == 0 && r_m4 == 0)
      reserve (r_m6.extractLsb' 3 3 == 0)
      .ok (.mwait s (bool1 (r_m6.extractLsb' 2 1)) (r_m6.extractLsb' 0 2))
  | 8 =>
    do
      reserve (r_gd == 0 && r_ga == 0 && r_gc == 0 && r_m4 == 0)
      let x_t ← need (narrow 2 r_m6)
      let x_a ← need (TileSpec.ofCode? r_gb)
      .ok (.mldt s x_t x_a)
  | 9 =>
    do
      reserve (r_gd == 0 && r_gb == 0 && r_gc == 0)
      let x_t ← need (narrow 2 r_m6)
      .ok (.mcmerge s x_t r_ga r_m4)
  | _ => .error .reservedXop

/-- The instructions of GMS (03 R75). -/
def Instr.ofGms (s : Bool) (r_xop : Nat) (r_gd : BitVec 9) (r_ga : BitVec 9) (r_m6 : BitVec 6) (r_gb : BitVec 9) (r_gc : BitVec 9) (r_m4 : BitVec 4) : Except DecodeError Instr :=
  match r_xop with
  | 0 =>
    do
      reserve (r_gd == 0 && r_m6 == 0 && r_gb == 0 && r_gc == 0)
      .ok (.wnscan s r_m4 r_ga)
  | 1 =>
    do
      reserve (r_gd == 0 && r_m6 == 0 && r_gb == 0 && r_gc == 0)
      .ok (.wntopk s r_m4 r_ga)
  | 2 =>
    do
      reserve (r_gd == 0 && r_m6 == 0 && r_gb == 0 && r_gc == 0)
      .ok (.nbx s r_m4 r_ga)
  | 3 =>
    do
      reserve (r_gd == 0 && r_m6 == 0 && r_gb == 0 && r_gc == 0)
      .ok (.kvseal s r_m4 r_ga)
  | 4 =>
    do
      reserve (r_gd == 0 && r_m6 == 0 && r_gb == 0 && r_gc == 0)
      .ok (.red s r_m4 r_ga)
  | _ => .error .reservedXop

/-- The instructions of GFB (03 R75). -/
def Instr.ofGfb (s : Bool) (r_xop : Nat) (r_gd : BitVec 9) (r_ga : BitVec 9) (r_m6 : BitVec 6) (r_gb : BitVec 9) (r_gc : BitVec 9) (r_m4 : BitVec 4) : Except DecodeError Instr :=
  match r_xop with
  | 0 =>
    do
      reserve (r_gd == 0 && r_m6 == 0 && r_gb == 0 && r_gc == 0)
      .ok (.rsend s r_m4 r_ga)
  | 1 =>
    do
      reserve (r_gd == 0 && r_m6 == 0 && r_gb == 0 && r_gc == 0)
      .ok (.rfetch s r_m4 r_ga)
  | 2 =>
    do
      reserve (r_gd == 0 && r_ga == 0 && r_m6 == 0 && r_gb == 0 && r_gc == 0)
      .ok (.fbdrain s r_m4)
  | 3 =>
    do
      reserve (r_gd == 0 && r_m6 == 0 && r_gb == 0 && r_gc == 0)
      .ok (.fbdark s r_m4 r_ga)
  | 4 =>
    do
      reserve (r_gd == 0 && r_m6 == 0 && r_gb == 0 && r_gc == 0)
      .ok (.fbrelock s r_m4 r_ga)
  | 5 =>
    do
      reserve (r_gd == 0 && r_ga == 0 && r_m6 == 0 && r_gb == 0 && r_gc == 0)
      .ok (.fbopen s r_m4)
  | 6 =>
    do
      reserve (r_ga == 0 && r_m6 == 0 && r_gb == 0 && r_gc == 0 && r_m4 == 0)
      .ok (.fbstat s r_gd)
  | 7 =>
    do
      reserve (r_m6 == 0 && r_gb == 0 && r_gc == 0 && r_m4 == 0)
      .ok (.fbplan s r_gd r_ga)
  | _ => .error .reservedXop

/-- The instructions of GOB (03 R75). -/
def Instr.ofGob (s : Bool) (r_xop : Nat) (r_gd : BitVec 9) (r_ga : BitVec 9) (r_m6 : BitVec 6) (r_gb : BitVec 9) (r_gc : BitVec 9) (r_m4 : BitVec 4) : Except DecodeError Instr :=
  match r_xop with
  | 0 =>
    do
      reserve (r_m6 == 0 && r_gc == 0 && r_m4 == 0)
      .ok (.oalloc s r_gd r_ga r_gb)
  | 1 =>
    do
      reserve (r_m6 == 0 && r_gb == 0 && r_gc == 0 && r_m4 == 0)
      .ok (.ofree s r_gd r_ga)
  | 2 =>
    do
      reserve (r_m6 == 0 && r_gb == 0 && r_gc == 0 && r_m4 == 0)
      .ok (.opin s r_gd r_ga)
  | 3 =>
    do
      reserve (r_m6 == 0 && r_gb == 0 && r_gc == 0 && r_m4 == 0)
      .ok (.ounpin s r_gd r_ga)
  | 4 =>
    do
      reserve (r_m6 == 0 && r_gc == 0 && r_m4 == 0)
      .ok (.ogroup s r_gd r_ga r_gb)
  | 5 =>
    do
      reserve (r_gd == 0 && r_m6 == 0 && r_gc == 0)
      .ok (.omove s r_m4 r_ga r_gb)
  | 6 =>
    do
      reserve (r_m6 == 0 && r_gb == 0 && r_gc == 0 && r_m4 == 0)
      .ok (.oloc s r_gd r_ga)
  | 7 =>
    do
      reserve (r_gd == 0 && r_m6 == 0 && r_gb == 0 && r_gc == 0)
      .ok (.oinv s r_m4 r_ga)
  | 8 =>
    do
      reserve (r_m6 == 0 && r_gc == 0 && r_m4 == 0)
      .ok (.osplit s r_gd r_ga r_gb)
  | 9 =>
    do
      reserve (r_m6 == 0 && r_gc == 0 && r_m4 == 0)
      .ok (.oattr s r_gd r_ga r_gb)
  | _ => .error .reservedXop

/-- The instructions of GTK (03 R75). -/
def Instr.ofGtk (s : Bool) (r_xop : Nat) (r_gd : BitVec 9) (r_ga : BitVec 9) (r_m6 : BitVec 6) (r_gb : BitVec 9) (r_gc : BitVec 9) (r_m4 : BitVec 4) : Except DecodeError Instr :=
  match r_xop with
  | 0 =>
    do
      reserve (r_m6 == 0 && r_gb == 0 && r_gc == 0 && r_m4 == 0)
      .ok (.launch s r_gd r_ga)
  | 1 =>
    do
      reserve (r_m6 == 0 && r_gc == 0 && r_m4 == 0)
      .ok (.launchb s r_gd r_ga r_gb)
  | 2 =>
    do
      reserve (r_gc == 0 && r_m4 == 0)
      let x_slot ← need (narrow 3 r_m6)
      .ok (.patch s r_gd r_ga r_gb x_slot)
  | 3 =>
    do
      reserve (r_m6 == 0 && r_gc == 0 && r_m4 == 0)
      .ok (.tdec s r_gd r_ga r_gb)
  | 4 =>
    do
      reserve (r_gd == 0 && r_m6 == 0 && r_gb == 0 && r_gc == 0 && r_m4 == 0)
      .ok (.fork s r_ga)
  | 5 =>
    do
      reserve (r_gc == 0 && r_m4 == 0)
      let x_dsp ← need ((narrow 1 r_m6).map bool1)
      let x_key ← need (narrow 8 r_gb)
      .ok (.regroup s x_dsp r_gd r_ga x_key)
  | 6 =>
    do
      reserve (r_ga == 0 && r_m6 == 0 && r_gb == 0 && r_gc == 0 && r_m4 == 0)
      .ok (.spawnq s r_gd)
  | 7 =>
    do
      reserve (r_m6 == 0 && r_gb == 0 && r_gc == 0 && r_m4 == 0)
      .ok (.tkill s r_gd r_ga)
  | _ => .error .reservedXop

/-- The instructions of GFR (03 R75). -/
def Instr.ofGfr (s : Bool) (r_xop : Nat) (r_gd : BitVec 9) (r_ga : BitVec 9) (r_m6 : BitVec 6) (r_gb : BitVec 9) (r_gc : BitVec 9) (r_m4 : BitVec 4) : Except DecodeError Instr :=
  match r_xop with
  | 0 =>
    do
      reserve (r_m6 == 0 && r_gb == 0 && r_gc == 0 && r_m4 == 0)
      .ok (.rgbegin s r_gd r_ga)
  | 1 =>
    do
      reserve (r_gd == 0 && r_ga == 0 && r_m6 == 0 && r_gb == 0 && r_gc == 0 && r_m4 == 0)
      .ok (.rgend s)
  | 2 =>
    do
      reserve (r_gd == 0 && r_m6 == 0 && r_gb == 0 && r_gc == 0 && r_m4 == 0)
      .ok (.rgabort s r_ga)
  | 3 =>
    do
      reserve (r_ga == 0 && r_m6 == 0 && r_gb == 0 && r_gc == 0 && r_m4 == 0)
      .ok (.rgstat s r_gd)
  | _ => .error .reservedXop

/-- The instruction the fields of a word stand for, before its own limits are checked. -/
def Instr.ofRaw : Raw → Except DecodeError Instr
  | Raw.l3 s maj d a b =>
    Instr.ofL3 s maj.toNat d a b
  | Raw.lx s maj d a b c e m4 xop =>
    match maj.toNat with
    | 0x30 => Instr.ofLxa s xop.toNat d a b c e m4
    | 0x31 => Instr.ofLxc s xop.toNat d a b c e m4
    | 0x33 => Instr.ofLxx s xop.toNat d a b c e m4
    | 0x3a => Instr.ofTrx s xop.toNat d a b c e m4
    | _ => .error .reservedMajor
  | Raw.lxv s d a b c dtag rm2 sat elem res xop =>
    Instr.ofLxv s xop.toNat d a b c dtag rm2 sat elem res
  | Raw.lm s maj d o ord scp hint base lsc size ltag imm =>
    Instr.ofLm s maj.toNat d o ord scp hint base lsc size ltag imm
  | Raw.la s maj d o vs base op ty retb scp imm =>
    Instr.ofLa s maj.toNat d o vs base op ty retb scp imm
  | Raw.lcf s a gp xop simm =>
    Instr.ofLcf s xop.toNat a gp simm
  | Raw.gi s maj gd imm =>
    Instr.ofGi s maj.toNat gd imm
  | Raw.gs s maj gd ga imm =>
    Instr.ofGs s maj.toNat gd ga imm
  | Raw.gb s maj imm =>
    Instr.ofGb s maj.toNat imm
  | Raw.gx s maj gd ga m6 gb gc m4 xop =>
    match maj.toNat with
    | 0x30 => Instr.ofGxa s xop.toNat gd ga m6 gb gc m4
    | 0x32 => Instr.ofGsy s xop.toNat gd ga m6 gb gc m4
    | 0x33 => Instr.ofGsn s xop.toNat gd ga m6 gb gc m4
    | 0x34 => Instr.ofGmm s xop.toNat gd ga m6 gb gc m4
    | 0x35 => Instr.ofGcp s xop.toNat gd ga m6 gb gc m4
    | 0x36 => Instr.ofGmx s xop.toNat gd ga m6 gb gc m4
    | 0x37 => Instr.ofGms s xop.toNat gd ga m6 gb gc m4
    | 0x38 => Instr.ofGfb s xop.toNat gd ga m6 gb gc m4
    | 0x39 => Instr.ofGob s xop.toNat gd ga m6 gb gc m4
    | 0x3a => Instr.ofGtk s xop.toNat gd ga m6 gb gc m4
    | 0x3b => Instr.ofGfr s xop.toNat gd ga m6 gb gc m4
    | _ => .error .reservedMajor
  | Raw.gbc s ga gb cond kind simm =>
    Instr.ofGbc s kind.toNat ga gb cond simm
  | Raw.gmovl s gd res imm =>
    Instr.ofGmovl s gd res imm
  | Raw.ext s set maj rest w1 => .ok (.extensionWord s set maj rest w1)
  | Raw.reserved => .error .reservedMajor

/-- Decodes the two words at the program counter (03 R60 to R78); a one-word instruction does not look at the second. -/
def decodeWords (w0 w1 : Word) : Except DecodeError Instr :=
  match Instr.ofRaw (Raw.ofWords w0 w1) with
  | .ok i => if i.wellFormed then .ok i else .error .illFormed
  | .error e => .error e

/-- A word from its little-endian bytes. -/
def wordLE (bs : List Byte) : Word := BitVec.ofNat 32 (natLE bs)

/-- Decodes the instruction at the head of a list of bytes and gives the bytes after it. -/
def decode (bs : List Byte) : Except DecodeError (Instr × List Byte) :=
  match bs with
  | b0 :: b1 :: b2 :: b3 :: rest =>
    let w0 := wordLE [b0, b1, b2, b3]
    if twoWords w0 then
      match rest with
      | c0 :: c1 :: c2 :: c3 :: rest' =>
        match decodeWords w0 (wordLE [c0, c1, c2, c3]) with
        | .ok i => .ok (i, rest')
        | .error e => .error e
      | _ => .error .truncated
    else
      match decodeWords w0 0 with
      | .ok i => .ok (i, rest)
      | .error e => .error e
  | _ => .error .truncated

/-- The bytes of a word as the hardware stores them (00 R6). -/
def wordBytes (w : Word) : List Byte := bytesLE 4 w.toNat

/-- The fields of an instruction's words; a step that is no instruction word has none. -/
def Instr.toRaw : Instr → Option Raw
  | Instr.iadd m vd va vb => some (.l3 m 0x0 vd va vb)
  | Instr.isub m vd va vb => some (.l3 m 0x1 vd va vb)
  | Instr.imul m vd va vb => some (.l3 m 0x2 vd va vb)
  | Instr.imulhi m vd va vb => some (.l3 m 0x3 vd va vb)
  | Instr.nmulhi m vd va vb => some (.l3 m 0x4 vd va vb)
  | Instr.imin m vd va vb => some (.l3 m 0x5 vd va vb)
  | Instr.imax m vd va vb => some (.l3 m 0x6 vd va vb)
  | Instr.nmin m vd va vb => some (.l3 m 0x7 vd va vb)
  | Instr.nmax m vd va vb => some (.l3 m 0x8 vd va vb)
  | Instr.vand m vd va vb => some (.l3 m 0x9 vd va vb)
  | Instr.vor m vd va vb => some (.l3 m 0xa vd va vb)
  | Instr.vxor m vd va vb => some (.l3 m 0xb vd va vb)
  | Instr.shl m vd va vb => some (.l3 m 0xc vd va vb)
  | Instr.shr m vd va vb => some (.l3 m 0xd vd va vb)
  | Instr.sar m vd va vb => some (.l3 m 0xe vd va vb)
  | Instr.fadd m vd va vb => some (.l3 m 0xf vd va vb)
  | Instr.fsub m vd va vb => some (.l3 m 0x10 vd va vb)
  | Instr.fmul m vd va vb => some (.l3 m 0x11 vd va vb)
  | Instr.fmin m vd va vb => some (.l3 m 0x12 vd va vb)
  | Instr.fmax m vd va vb => some (.l3 m 0x13 vd va vb)
  | Instr.mov m vd va => some (.l3 m 0x14 vd va 0)
  | Instr.iaddi m vd va imm => some (.l3 m 0x15 vd va imm)
  | Instr.andi m vd va imm => some (.l3 m 0x16 vd va imm)
  | Instr.ori m vd va imm => some (.l3 m 0x17 vd va imm)
  | Instr.xori m vd va imm => some (.l3 m 0x18 vd va imm)
  | Instr.shli m vd va sh => some (.l3 m 0x19 vd va (sh.setWidth 8))
  | Instr.shri m vd va sh => some (.l3 m 0x1a vd va (sh.setWidth 8))
  | Instr.sari m vd va sh => some (.l3 m 0x1b vd va (sh.setWidth 8))
  | Instr.movi m vd imm => some (.l3 m 0x1c vd 0 imm)
  | Instr.ffma m vd va vb c rm => some (.lx m 0x30 vd va vb c.code 0 (rm.code.setWidth 4) 0)
  | Instr.imad m vd va vb c => some (.lx m 0x30 vd va vb c.code 0 0 1)
  | Instr.frcp m vd va => some (.lx m 0x30 vd va 0 0 0 0 2)
  | Instr.frsq m vd va => some (.lx m 0x30 vd va 0 0 0 0 3)
  | Instr.fsqrt m vd va rm => some (.lx m 0x30 vd va 0 0 0 (rm.code.setWidth 4) 4)
  | Instr.fexp2 m vd va => some (.lx m 0x30 vd va 0 0 0 0 5)
  | Instr.flog2 m vd va => some (.lx m 0x30 vd va 0 0 0 0 6)
  | Instr.fsin m vd va => some (.lx m 0x30 vd va 0 0 0 0 7)
  | Instr.fcos m vd va => some (.lx m 0x30 vd va 0 0 0 0 8)
  | Instr.fabs m vd va => some (.lx m 0x30 vd va 0 0 0 0 9)
  | Instr.fneg m vd va => some (.lx m 0x30 vd va 0 0 0 0 10)
  | Instr.ffloor m vd va => some (.lx m 0x30 vd va 0 0 0 0 11)
  | Instr.fceil m vd va => some (.lx m 0x30 vd va 0 0 0 0 12)
  | Instr.ftrunc m vd va => some (.lx m 0x30 vd va 0 0 0 0 13)
  | Instr.frint m vd va rm => some (.lx m 0x30 vd va 0 0 0 (rm.code.setWidth 4) 14)
  | Instr.ftwosum m vd va vb => some (.lx m 0x30 vd va vb 0 0 0 15)
  | Instr.popc m vd va => some (.lx m 0x30 vd va 0 0 0 0 16)
  | Instr.clz m vd va => some (.lx m 0x30 vd va 0 0 0 0 17)
  | Instr.brev m vd va => some (.lx m 0x30 vd va 0 0 0 0 18)
  | Instr.bfe m vd va vb c sgn => some (.lx m 0x30 vd va vb c.code 0 ((bit1 sgn).setWidth 4) 19)
  | Instr.bfi m vd va vb c e => some (.lx m 0x30 vd va vb c.code e.code 0 20)
  | Instr.prmt m vd va vb c => some (.lx m 0x30 vd va vb c.code 0 0 21)
  | Instr.sel m vd va vb c => some (.lx m 0x30 vd va vb c.code 0 0 22)
  | Instr.iabs m vd va sat => some (.lx m 0x30 vd va 0 0 0 ((bit1 sat).setWidth 4) 23)
  | Instr.ineg m vd va sat => some (.lx m 0x30 vd va 0 0 0 ((bit1 sat).setWidth 4) 24)
  | Instr.iadd3 m vd va vb c => some (.lx m 0x30 vd va vb c.code 0 0 25)
  | Instr.movg m vd gc => some (.lx m 0x30 vd 0 0 (gSpec gc) 0 0 26)
  | Instr.iset m vd va vb cond => some (.lx m 0x31 vd va vb 0 0 cond.code 0)
  | Instr.nset m vd va vb cond => some (.lx m 0x31 vd va vb 0 0 cond.code 1)
  | Instr.fset m vd va vb cond => some (.lx m 0x31 vd va vb 0 0 cond.code 2)
  | Instr.cvt m vd va dtag u el rm sat => some (.lxv m vd va 0 0 dtag.code rm.code (bit1 sat) (bit1 u ++ el : BitVec 4) 0 0)
  | Instr.cvtsc m vd va dtag el => some (.lxv m vd va 0 0 dtag.code 0 0 ((bit1 el).setWidth 4) 0 1)
  | Instr.pack2 m vd va vb dtag u rm sat => some (.lxv m vd va vb 0 dtag.code rm.code (bit1 sat) (bit1 u ++ 0#3 : BitVec 4) 0 2)
  | Instr.pack4 m vd va dtag u rm sat => some (.lxv m vd va 0 0 dtag.code rm.code (bit1 sat) (bit1 u ++ 0#3 : BitVec 4) 0 3)
  | Instr.unpack m vd va dtag u rm => some (.lxv m vd va 0 0 dtag.code rm.code 0 (bit1 u ++ 0#3 : BitVec 4) 0 4)
  | Instr.tagset m vd va dtag => some (.lxv m vd va 0 0 dtag.code 0 0 0 0 5)
  | Instr.tagget m vd va => some (.lxv m vd va 0 0 0 0 0 0 0 6)
  | Instr.shfl m vd va c w => some (.lx m 0x33 vd va 0 c.code 0 w.code 0)
  | Instr.shflup m vd va c w => some (.lx m 0x33 vd va 0 c.code 0 w.code 1)
  | Instr.shfldn m vd va c w => some (.lx m 0x33 vd va 0 c.code 0 w.code 2)
  | Instr.shflx m vd va c w => some (.lx m 0x33 vd va 0 c.code 0 w.code 3)
  | Instr.qswaph m vd va => some (.lx m 0x33 vd va 0 0 0 0 4)
  | Instr.qswapv m vd va => some (.lx m 0x33 vd va 0 0 0 0 5)
  | Instr.qswapd m vd va => some (.lx m 0x33 vd va 0 0 0 0 6)
  | Instr.qbcast m vd va k => some (.lx m 0x33 vd va 0 0 0 (k.setWidth 4) 7)
  | Instr.voteall m ge va => some (.lx m 0x33 0 va 0 0 (gSpec ge) 0 8)
  | Instr.voteany m ge va => some (.lx m 0x33 0 va 0 0 (gSpec ge) 0 9)
  | Instr.ballot m ge va => some (.lx m 0x33 0 va 0 0 (gSpec ge) 0 10)
  | Instr.ballotScratchpad m ge va => some (.lx m 0x33 0 va 0 0 (gSpec ge) 1 10)
  | Instr.bplane m ge va vb c => some (.lx m 0x33 0 va vb c.code (gSpec ge) 0 11)
  | Instr.matchLanes m ge va => some (.lx m 0x33 0 va 0 0 (gSpec ge) 0 12)
  | Instr.redux m ge va op => some (.lx m 0x33 0 va 0 0 (gSpec ge) op.code 13)
  | Instr.laneid m vd => some (.lx m 0x33 vd 0 0 0 0 0 14)
  | Instr.readsr m vd k => some (.lx m 0x33 vd 0 0 0 0 k.code 15)
  | Instr.ld m data off sync hint base size ltag imm => some (.lm m 0x34 data off.reg sync.ord sync.scp hint.code base off.lsc size.code ltag.code imm)
  | Instr.st m data off sync hint base size imm => some (.lm m 0x35 data off.reg sync.ord sync.scp hint.code base off.lsc size.code 0 imm)
  | Instr.lds m data off sync base size ltag imm => some (.lm m 0x36 data off.reg sync.ord sync.scp 0 base off.lsc size.code ltag.code imm)
  | Instr.sts m data off sync base size imm => some (.lm m 0x37 data off.reg sync.ord sync.scp 0 base off.lsc size.code 0 imm)
  | Instr.atom m dst vo vs rmw scope base imm => some (.la m 0x38 (dstReg dst) vo vs base rmw.opCode rmw.tyCode (dstRet dst) scope.code imm)
  | Instr.atoms m dst vo vs rmw scope base imm => some (.la m 0x39 (dstReg dst) vo vs base rmw.opCode rmw.tyCode (dstRet dst) scope.code imm)
  | Instr.trx m vd va vb gc ge => some (.lx m 0x3a vd va vb (gSpec gc) (gSpec ge) 0 0)
  | Instr.brz m va off => some (.lcf m va 0 0 off)
  | Instr.brnz m va off => some (.lcf m va 0 1 off)
  | Instr.brx m va => some (.lcf m va 0 2 0)
  | Instr.bspillz m va gp off => some (.lcf m va gp 3 off)
  | Instr.bspillnz m va gp off => some (.lcf m va gp 4 off)
  | Instr.callx m va => some (.lcf m va 0 5 0)
  | Instr.call m off => some (.lcf m 0 0 6 off)
  | Instr.ret m => some (.lcf m 0 0 7 0)
  | Instr.extensionWord m set maj rest w1 => some (.ext m set maj rest w1)
  | Instr.gmovi m gd imm => some (.gi m 0x0 gd imm)
  | Instr.gaddi m gd imm => some (.gi m 0x1 gd imm)
  | Instr.glui m gd imm => some (.gi m 0x2 gd imm)
  | Instr.gori m gd imm => some (.gi m 0x3 gd imm)
  | Instr.gshli m gd ga sh => some (.gs m 0x4 gd ga (sh.setWidth 6))
  | Instr.gshri m gd ga sh => some (.gs m 0x5 gd ga (sh.setWidth 6))
  | Instr.gsari m gd ga sh => some (.gs m 0x6 gd ga (sh.setWidth 6))
  | Instr.gmov m gd ga => some (.gs m 0x7 gd ga 0)
  | Instr.gaddi6 m gd ga imm => some (.gs m 0x8 gd ga imm)
  | Instr.jmp m off => some (.gb m 0x9 off)
  | Instr.land m => some (.gb m 0xa 0)
  | Instr.nop m => some (.gb m 0xb 0)
  | Instr.exit m => some (.gb m 0xc 0)
  | Instr.yield m => some (.gb m 0xd 0)
  | Instr.brk m code => some (.gb m 0xe code)
  | Instr.eret m => some (.gb m 0xf 0)
  | Instr.endSeq m => some (.gb m 0x10 0)
  | Instr.gmovl m gd imm => some (.gmovl m gd 0 imm)
  | Instr.gadd m gd ga gb => some (.gx m 0x30 gd ga 0 gb 0 0 0)
  | Instr.gsub m gd ga gb => some (.gx m 0x30 gd ga 0 gb 0 0 1)
  | Instr.gmul m gd ga gb => some (.gx m 0x30 gd ga 0 gb 0 0 2)
  | Instr.gmulhi m gd ga gb => some (.gx m 0x30 gd ga 0 gb 0 0 3)
  | Instr.gnmulhi m gd ga gb => some (.gx m 0x30 gd ga 0 gb 0 0 4)
  | Instr.gand m gd ga gb => some (.gx m 0x30 gd ga 0 gb 0 0 5)
  | Instr.gor m gd ga gb => some (.gx m 0x30 gd ga 0 gb 0 0 6)
  | Instr.gxor m gd ga gb => some (.gx m 0x30 gd ga 0 gb 0 0 7)
  | Instr.gshl m gd ga gb => some (.gx m 0x30 gd ga 0 gb 0 0 8)
  | Instr.gshr m gd ga gb => some (.gx m 0x30 gd ga 0 gb 0 0 9)
  | Instr.gsar m gd ga gb => some (.gx m 0x30 gd ga 0 gb 0 0 10)
  | Instr.gmin m gd ga gb => some (.gx m 0x30 gd ga 0 gb 0 0 11)
  | Instr.gmax m gd ga gb => some (.gx m 0x30 gd ga 0 gb 0 0 12)
  | Instr.gnmin m gd ga gb => some (.gx m 0x30 gd ga 0 gb 0 0 13)
  | Instr.gnmax m gd ga gb => some (.gx m 0x30 gd ga 0 gb 0 0 14)
  | Instr.gpopc m gd ga => some (.gx m 0x30 gd ga 0 0 0 0 15)
  | Instr.gclz m gd ga => some (.gx m 0x30 gd ga 0 0 0 0 16)
  | Instr.gsel m gd ga gb gc => some (.gx m 0x30 gd ga 0 gb gc 0 17)
  | Instr.gdivn m gd ga gb => some (.gx m 0x30 gd ga 0 gb 0 0 18)
  | Instr.gremn m gd ga gb => some (.gx m 0x30 gd ga 0 gb 0 0 19)
  | Instr.gmad m gd ga gb gc => some (.gx m 0x30 gd ga 0 gb gc 0 20)
  | Instr.gadd64 m gd ga gb => some (.gx m 0x30 gd ga 0 gb 0 0 21)
  | Instr.gbfe m gd ga gb gc sgn => some (.gx m 0x30 gd ga 0 gb gc ((bit1 sgn).setWidth 4) 22)
  | Instr.gbfi m gd ga gb gc => some (.gx m 0x30 gd ga 0 gb gc 0 23)
  | Instr.gfadd m gd ga gb rm => some (.gx m 0x30 gd ga 0 gb 0 (rm.code.setWidth 4) 24)
  | Instr.gfmul m gd ga gb rm => some (.gx m 0x30 gd ga 0 gb 0 (rm.code.setWidth 4) 25)
  | Instr.gfmax m gd ga gb => some (.gx m 0x30 gd ga 0 gb 0 0 26)
  | Instr.gset m gd ga gb cond => some (.gx m 0x30 gd ga 0 gb 0 cond.code 27)
  | Instr.gnset m gd ga gb cond => some (.gx m 0x30 gd ga 0 gb 0 cond.code 28)
  | Instr.gfset m gd ga gb cond => some (.gx m 0x30 gd ga 0 gb 0 cond.code 29)
  | Instr.gffma m gd ga gb gc rm => some (.gx m 0x30 gd ga 0 gb gc (rm.code.setWidth 4) 30)
  | Instr.gbr m ga gb cond off => some (.gbc m ga gb cond.code 0 off)
  | Instr.gbrn m ga gb cond off => some (.gbc m ga gb cond.code 1 off)
  | Instr.gbrz m ga cond off => some (.gbc m ga 0 cond.code 2 off)
  | Instr.loop m ga off => some (.gbc m ga 0 0 3 off)
  | Instr.csrr m gd csr => some (.gx m 0x32 gd 0 0 0 csr.code 0 0)
  | Instr.csrw m csr ga => some (.gx m 0x32 0 ga 0 0 csr.code 0 1)
  | Instr.csrx m gd csr ga => some (.gx m 0x32 gd ga 0 0 csr.code 0 2)
  | Instr.trap m ga gb cond code => some (.gx m 0x32 0 ga code gb 0 cond.code 3)
  | Instr.event m ga n => some (.gx m 0x32 0 ga n 0 0 0 4)
  | Instr.clkr m gd => some (.gx m 0x32 gd 0 0 0 0 0 5)
  | Instr.barinit m k ga => some (.gx m 0x33 0 ga (k.setWidth 6) 0 0 0 0)
  | Instr.bararv m k gb => some (.gx m 0x33 0 0 (k.setWidth 6) gb 0 0 1)
  | Instr.barwait m k => some (.gx m 0x33 0 0 (k.setWidth 6) 0 0 0 2)
  | Instr.barsync m k gb => some (.gx m 0x33 0 0 (k.setWidth 6) gb 0 0 3)
  | Instr.gsync m gb => some (.gx m 0x33 0 0 0 gb 0 0 4)
  | Instr.fence m kind scope => some (.gx m 0x33 0 0 kind.code 0 0 (scope.code.setWidth 4) 5)
  | Instr.mrdy m => some (.gx m 0x33 0 0 0 0 0 0 6)
  | Instr.waitc m gd ga gb gc cond n32 scope => some (.gx m 0x33 gd ga (0#2 ++ scope.code ++ bit1 n32 : BitVec 6) gb gc cond.code 7)
  | Instr.hwait m gd k => some (.gx m 0x33 gd 0 (k.setWidth 6) 0 0 0 8)
  | Instr.htest m gd k => some (.gx m 0x33 gd 0 (k.setWidth 6) 0 0 0 9)
  | Instr.hcancel m k => some (.gx m 0x33 0 0 (k.setWidth 6) 0 0 0 10)
  | Instr.hmov m gd k => some (.gx m 0x33 gd 0 (k.setWidth 6) 0 0 0 11)
  | Instr.hadopt m k ga => some (.gx m 0x33 0 ga (k.setWidth 6) 0 0 0 12)
  | Instr.acset m k ga clr => some (.gx m 0x33 0 ga (k.setWidth 6) 0 0 ((bit1 clr).setWidth 4) 13)
  | Instr.await m k => some (.gx m 0x33 0 0 (k.setWidth 6) 0 0 0 14)
  | Instr.rdv m => some (.gx m 0x33 0 0 0 0 0 0 15)
  | Instr.gld m gd ga gb disp size sync hint => some (.gx m 0x34 gd ga (size.code.setWidth 3 ++ sync.scp : BitVec 6) gb disp (sync.ord ++ hint.code.setWidth 2 : BitVec 4) 0)
  | Instr.gst m gd ga gb disp size sync hint => some (.gx m 0x34 gd ga (size.code.setWidth 3 ++ sync.scp : BitVec 6) gb disp (sync.ord ++ hint.code.setWidth 2 : BitVec 4) 1)
  | Instr.glds m gd ga gb disp size sync => some (.gx m 0x34 gd ga (size.code.setWidth 3 ++ sync.scp : BitVec 6) gb disp (sync.ord ++ 0#2 : BitVec 4) 2)
  | Instr.gsts m gd ga gb disp size sync => some (.gx m 0x34 gd ga (size.code.setWidth 3 ++ sync.scp : BitVec 6) gb disp (sync.ord ++ 0#2 : BitVec 4) 3)
  | Instr.gatom m gd ga gb gc rmw scope => some (.gx m 0x34 gd ga (rmw.tyCode ++ scope.code : BitVec 6) gb gc rmw.opCode 4)
  | Instr.cpy m k ga gb => some (.gx m 0x35 0 ga 0 gb 0 k 0)
  | Instr.cpyc m gd ga gb => some (.gx m 0x35 gd ga 0 gb 0 0 1)
  | Instr.layout m n ga => some (.gx m 0x35 0 ga (n.setWidth 6) 0 0 0 2)
  | Instr.tdef m tile ga gc tag => some (.gx m 0x35 0 ga 0 (tile.setWidth 9) gc tag.code 3)
  | Instr.trel m tile => some (.gx m 0x35 0 0 0 (tile.setWidth 9) 0 0 4)
  | Instr.tstat m gd spec => some (.gx m 0x35 gd 0 0 spec.code 0 0 5)
  | Instr.sbind m k first count => some (.gx m 0x35 0 0 (k.setWidth 6) (first.setWidth 9) count 0 6)
  | Instr.mcast m k ga gb => some (.gx m 0x35 0 ga 0 gb 0 k 7)
  | Instr.mzero m t => some (.gx m 0x36 0 0 (t.setWidth 6) 0 0 0 0)
  | Instr.mma m t ga a b => some (.gx m 0x36 0 ga (t.setWidth 6) a.code b.code 0 1)
  | Instr.mmag m t gd ga a b => some (.gx m 0x36 gd ga (t.setWidth 6) a.code b.code 0 2)
  | Instr.mmasp m t ga a b => some (.gx m 0x36 0 ga (t.setWidth 6) a.code b.code 0 3)
  | Instr.msoft m t gd ga o => some (.gx m 0x36 gd ga (t.setWidth 6) (o.setWidth 9) 0 0 4)
  | Instr.mscale m t ga stride => some (.gx m 0x36 0 ga (t.setWidth 6) 0 0 stride 5)
  | Instr.mdrain m t sat gd ga o tag => some (.gx m 0x36 gd ga (0#3 ++ bit1 sat ++ t : BitVec 6) (o.setWidth 9) 0 tag.code 6)
  | Instr.mwait m one t => some (.gx m 0x36 0 0 (0#3 ++ bit1 one ++ t : BitVec 6) 0 0 0 7)
  | Instr.mldt m t a => some (.gx m 0x36 0 0 (t.setWidth 6) a.code 0 0 8)
  | Instr.mcmerge m t ga cores => some (.gx m 0x36 0 ga (t.setWidth 6) 0 0 cores 9)
  | Instr.wnscan m k ga => some (.gx m 0x37 0 ga 0 0 0 k 0)
  | Instr.wntopk m k ga => some (.gx m 0x37 0 ga 0 0 0 k 1)
  | Instr.nbx m k ga => some (.gx m 0x37 0 ga 0 0 0 k 2)
  | Instr.kvseal m k ga => some (.gx m 0x37 0 ga 0 0 0 k 3)
  | Instr.red m k ga => some (.gx m 0x37 0 ga 0 0 0 k 4)
  | Instr.rsend m k ga => some (.gx m 0x38 0 ga 0 0 0 k 0)
  | Instr.rfetch m k ga => some (.gx m 0x38 0 ga 0 0 0 k 1)
  | Instr.fbdrain m k => some (.gx m 0x38 0 0 0 0 0 k 2)
  | Instr.fbdark m k ga => some (.gx m 0x38 0 ga 0 0 0 k 3)
  | Instr.fbrelock m k ga => some (.gx m 0x38 0 ga 0 0 0 k 4)
  | Instr.fbopen m k => some (.gx m 0x38 0 0 0 0 0 k 5)
  | Instr.fbstat m gd => some (.gx m 0x38 gd 0 0 0 0 0 6)
  | Instr.fbplan m gd ga => some (.gx m 0x38 gd ga 0 0 0 0 7)
  | Instr.oalloc m gd ga gb => some (.gx m 0x39 gd ga 0 gb 0 0 0)
  | Instr.ofree m gd ga => some (.gx m 0x39 gd ga 0 0 0 0 1)
  | Instr.opin m gd ga => some (.gx m 0x39 gd ga 0 0 0 0 2)
  | Instr.ounpin m gd ga => some (.gx m 0x39 gd ga 0 0 0 0 3)
  | Instr.ogroup m gd ga gb => some (.gx m 0x39 gd ga 0 gb 0 0 4)
  | Instr.omove m k ga gb => some (.gx m 0x39 0 ga 0 gb 0 k 5)
  | Instr.oloc m gd ga => some (.gx m 0x39 gd ga 0 0 0 0 6)
  | Instr.oinv m k ga => some (.gx m 0x39 0 ga 0 0 0 k 7)
  | Instr.osplit m gd ga gb => some (.gx m 0x39 gd ga 0 gb 0 0 8)
  | Instr.oattr m gd ga gb => some (.gx m 0x39 gd ga 0 gb 0 0 9)
  | Instr.launch m gd ga => some (.gx m 0x3a gd ga 0 0 0 0 0)
  | Instr.launchb m gd ga gb => some (.gx m 0x3a gd ga 0 gb 0 0 1)
  | Instr.patch m gd ga gb slot => some (.gx m 0x3a gd ga (slot.setWidth 6) gb 0 0 2)
  | Instr.tdec m gd ga gb => some (.gx m 0x3a gd ga 0 gb 0 0 3)
  | Instr.fork m ga => some (.gx m 0x3a 0 ga 0 0 0 0 4)
  | Instr.regroup m dsp gd ga key => some (.gx m 0x3a gd ga ((bit1 dsp).setWidth 6) (key.setWidth 9) 0 0 5)
  | Instr.spawnq m gd => some (.gx m 0x3a gd 0 0 0 0 0 6)
  | Instr.tkill m gd ga => some (.gx m 0x3a gd ga 0 0 0 0 7)
  | Instr.rgbegin m gd ga => some (.gx m 0x3b gd ga 0 0 0 0 0)
  | Instr.rgend m => some (.gx m 0x3b 0 0 0 0 0 0 1)
  | Instr.rgabort m ga => some (.gx m 0x3b 0 ga 0 0 0 0 2)
  | Instr.rgstat m gd => some (.gx m 0x3b gd 0 0 0 0 0 3)
  | Instr.quantumWrite => none
  | Instr.leaseWrite => none
  | Instr.ptimeLoRead => none
  | Instr.gwctLoRead => none
  | Instr.barrierWaitEnd => none
  | Instr.fenceComplete => none
  | Instr.mrdyComplete => none
  | Instr.monitorWake => none
  | Instr.waitcTimeout => none
  | Instr.waitcPoll => none
  | Instr.handleWaitEnd => none
  | Instr.cancelBoundary => none
  | Instr.awaitComplete => none
  | Instr.rdvComplete => none
  | Instr.tileWaitEnd => none
  | Instr.copyComplete => none
  | Instr.matrixCommandComplete => none
  | Instr.sequencerFaultDelivery => none
  | Instr.thresherResult => none
  | Instr.nbxContextStart => none
  | Instr.kvsealComplete => none
  | Instr.redComplete => none
  | Instr.fbdrainDone => none
  | Instr.relockComplete => none
  | Instr.lockTimeout => none
  | Instr.regroupMoveComplete => none
  | Instr.regionSlotFreeResume => none
  | Instr.regionCommit => none
  | Instr.regionAbortTake => none
  | Instr.heldWriteApply => none
  | Instr.parkComplete => none
  | Instr.responseReturn => none
  | Instr.groupExchange => none
  | Instr.pendingPromotion => none
  | Instr.sheafStart => none
  | Instr.leaseExpiry => none
  | Instr.demandAccess => none
  | Instr.channelBurstSelect => none
  | Instr.rowSwitchComplete => none
  | Instr.refreshDue => none
  | Instr.dramTempHigh => none
  | Instr.dramTempNormal => none
  | Instr.thermalTrip => none
  | Instr.softError => none
  | Instr.readPacket => none
  | Instr.writePacket => none
  | Instr.atomicPacket => none
  | Instr.fetchPacket => none
  | Instr.objectPacket => none
  | Instr.responsePacket => none
  | Instr.bulkPacket => none
  | Instr.bulkAck => none
  | Instr.credit => none
  | Instr.marker => none
  | Instr.syncFlit => none
  | Instr.gleanerVisit => none
  | Instr.affinityHalving => none
  | Instr.migrationPassEnd => none
  | Instr.cutOverDrained => none
  | Instr.pinGraceExpiry => none
  | Instr.oinvComplete => none
  | Instr.invalidationComplete => none
  | Instr.blockPlacement => none
  | Instr.taskEndingComplete => none
  | Instr.preemption => none
  | Instr.saveComplete => none
  | Instr.blockSwapOut => none
  | Instr.swappedBlockPoll => none
  | Instr.blockRestore => none
  | Instr.watchdog => none
  | Instr.eventSend => none
  | Instr.eventResend => none
  | Instr.taskPost => none
  | Instr.eventAck => none
  | Instr.mgmtRead => none
  | Instr.mgmtWrite => none
  | Instr.planctlGo => none
  | Instr.qpConnect => none
  | Instr.qpEnd => none
  | Instr.attest => none
  | Instr.rdmaWrite => none
  | Instr.rdmaRead => none
  | Instr.reset => none
  | Instr.coldReset => none
  | Instr.replayRequest => none
  | Instr.roceSendOrAtomic => none
  | Instr.circuitSwitchChange => none

/-- The words of an instruction (03 R63, R68), one or two; none for a step that is no instruction word. -/
def encode (i : Instr) : List Word :=
  match i.toRaw with
  | none => []
  | some r => if twoWords r.toWords.1 then [r.toWords.1, r.toWords.2] else [r.toWords.1]

/-- The bytes of an instruction as the hardware stores them. -/
def encodeBytes (i : Instr) : List Byte := ((encode i).map wordBytes).flatten

/-- The instruction the decoder reads from an instruction whose bits are `w`, numbered as spec/opcode_table.json numbers them; bits above `nbits` are zero. -/
def decodeTableWord (nbits w : Nat) : Option Instr :=
  match decode (bytesLE 8 (w % 2 ^ nbits)) with
  | .ok (i, _) => some i
  | .error _ => none

/-- The address step of an instruction in bytes (03 R61); 0 for a step that is no instruction word. -/
def Instr.length (i : Instr) : Nat :=
  match i.toRaw with
  | none => 0
  | some r => if twoWords r.toWords.1 then 8 else 4

end Sys2Proof
end

