-- ==== Sys2Proof/Machine/State.lean ====
section
/-! DEFINITION. The state of one KL9 chip as plain data, the reasons a step can stop, and the state after reset (17 R411). INVENTORY.md lists each piece with its rule. -/

namespace Sys2Proof.Machine

/-- Memory: pairs of address and byte, addresses strictly rising, no entry equal to what an unlisted address reads as (0: 15 R345, 17 R411). -/
abbrev Memory := List Host.Cell

/-- Fault codes of 05 R159. -/
inductive FaultCode
  | illegal | emu | priv | tag | align | mixedAttr | objNone | objBounds | objPerm | unreachable | pinRevoked | scrRange
  | copyRange | copyRights | syncMask | land | fetch | tileState | regionMisuse | context | poison | handle | coopFit
  | stack | barState | watchdog | brk
  deriving DecidableEq, Repr

/-- A v register of a group: one tag, one word a lane (02 R39, 01 R34). -/
structure VReg where
  tag : Tag
  lanes : List Word
  deriving DecidableEq, Repr

/-- Lane states of 02 R48. -/
inductive LaneState
  | live | frozen | exited | spilled
  deriving DecidableEq, Repr

/-- Path-level waits of 08 R235. MODEL: `code` is that of an indirect transfer whose target's words come from another chip (log entry 19). -/
inductive PathWait
  | none
  | bar (k : Nat) (phase : Option Bool)
  | gsync (mask : Mask)
  | await (k : Nat)
  | rdv
  | code
  deriving DecidableEq, Repr

/-- One lane: its state, program counter, return stack (top first, at most 16), path wait, age of its path, and the switch marker of the instruction it waits at. -/
structure Lane where
  st : LaneState
  pc : Word
  ras : List Word
  wait : PathWait
  age : Nat
  marked : Bool
  deriving DecidableEq, Repr

/-- A handle register: EMPTY, naming an operation, or FAILED with code 0x16 after a lost token (05 R146). -/
inductive Handle
  | empty
  | names (op : Nat)
  | lost
  deriving DecidableEq, Repr

/-- A deferred fault found since the last park (02 R57). -/
structure Deferred where
  code : FaultCode
  pc : Word
  lanes : Mask
  order : Nat
  deriving DecidableEq, Repr

/-- What TrapEntry writes (05 R153) and the path that traps. -/
structure TrapRec where
  code : FaultCode
  detail : Nat
  pc : Word
  lanes : Mask
  resume : Word
  deferred : Bool
  seq : Bool
  path : Mask
  deriving DecidableEq, Repr

/-- Tile states of 07 R194. -/
inductive TileState
  | empty | filling | ready | draining
  deriving DecidableEq, Repr

/-- A WAITC in progress (05 R142, R143). -/
structure Waitc where
  gd : Nat
  id : Nat
  off : Nat
  cond : Cond
  n32 : Bool
  value : Word
  scope : Scope
  deadline : Option Nat
  monitor : Bool
  hit : Bool
  polledAt : Nat
  path : Mask
  marked : Bool
  deriving DecidableEq, Repr

/-- Group-level and sequencer waits of 08 R235. `park` also covers the drains of EXIT, WAITC, RGBEGIN, RGEND, REGROUP and spill branches, which then issue again; in `hts` a launch holds its issue while the HTS reads (14 R324). -/
inductive Wait
  | none
  | park (lanes : Mask) (resume : Word)
  | trap (rec : TrapRec)
  | handle (op : Nat)
  | tile (sg : SKey) (n : Nat) (want : TileState)
  | stream (k : Nat)
  | readers (n : Nat)
  | fence (kind : FenceKind) (scope : Scope) (before : Nat) (path : Mask)
  | mrdy (before : Nat) (path : Mask)
  | waitc (w : Waitc)
  | regroup (path : Mask) (pc : Word) (mask : Nat) (key : Nat) (dsp : Bool) (gd : Nat) (marked : Bool)
  | moving
  | rgSlot
  | rgCommit (path : Mask) (resume : Word) (marked : Bool)
  | gmx (t : Option Nat)
  | merge (cores : Nat)
  | hts
  deriving DecidableEq, Repr

/-- A group's arrival at a numbered barrier: the mask its first path fixed and the lanes that have arrived (05 R138). -/
structure Arrival where
  gid : Nat
  mask : Mask
  lanes : Mask
  deriving DecidableEq, Repr

/-- Accesses that an arrival releases (05 R138, 09 R263): those of the agent's lanes that it issued before a transaction number. -/
structure Released where
  who : Agent
  lanes : Mask
  before : Nat
  deriving DecidableEq, Repr

/-- A numbered barrier (05 R138). `expected` is none while uninitialised; `last` holds the phase of each group's last complete arrival; `releasing` what the arrivals of this phase release, `released` what those of completed phases do. -/
structure Barrier where
  expected : Option Nat
  count : Nat
  phase : Bool
  arrivals : List Arrival
  done : List Nat
  seqs : List QKey
  last : List (Nat × Bool)
  lastSeq : List (QKey × Bool)
  releasing : List Released
  released : List Released
  deriving DecidableEq, Repr

/-- An arrival counter (05 R148). -/
structure Counter where
  count : Word
  target : Word
  deriving DecidableEq, Repr

/-- A stream register: its ring of tiles and next position (03 R94). -/
structure Stream where
  ring : List Nat
  pos : Nat
  deriving DecidableEq, Repr

/-- What the two instructions of a paired issue read: the registers as the pair began, with those that are pending or struck and the lanes that are Spilled; the barriers and arrival counters of the block and the stream registers of the segment (02 R51, R53, R59). MODEL. -/
structure View where
  v : List VReg
  g : List Word
  h : List Handle
  pendV : List (Nat × Mask)
  pendG : List Nat
  struckG : List Nat
  spilled : Mask
  gwct : Nat
  outs : Nat
  quantum : Nat
  lease : Nat
  ptimeHi : Word
  gwctHi : Word
  bars : List Barrier
  acs : List Counter
  streams : List Stream
  deriving DecidableEq, Repr

/-- A resident group (02 R39, R41). MODEL: `pendV` and `pendG` are the pending destinations, `pendV` with the lanes that load them, and `clobV` and `clobG` what the park leaves undefined (02 R53, R56); `syncs` are GSYNC's joins, each with its lanes and the next transaction's number (05 R139); `owedGwct` is what the park that completes a counted copy merges as its chip acquire (09 R267, R271); `owed` is a park that a marked instruction asked for while another wait of the group held; `owedTrap` a trap of one of a pair that follows the other's wait (02 R51); `heldBar` is the barrier wait, with its switch marker, that a WATCHDOG trap took the handler's path from. -/
structure Group where
  v : List VReg
  g : List Word
  h : List Handle
  lanes : List Lane
  outs : Nat
  quantum : Nat
  lease : Nat
  fr0 : Word
  fr1 : Word
  fr2 : Word
  fr3 : Word
  ptimeHi : Word
  gwctHi : Word
  gwct : Nat
  floor : Nat
  wait : Wait
  handler : Option Mask
  deferred : List Deferred
  pendV : List (Nat × Mask)
  clobV : List (Nat × Mask)
  pendG : List Nat
  clobG : List Nat
  struckG : List Nat
  syncs : List (Mask × Nat)
  owedGwct : Option Nat
  region : Option Nat
  abort : Option Nat
  view : Option View
  owed : Option Mask
  owedTrap : Option TrapRec
  heldBar : Option (PathWait × Bool)
  seg : Nat
  slot : Nat
  entered : Nat
  readySince : Nat
  lastIssue : Option Nat
  ended : Bool
  deriving DecidableEq, Repr

/-- A resident or saved block (08 R229 to R232). `span` holds every core on which blocks of its cohort have lain (09 R262). -/
structure Block where
  task : Nat
  bid : Nat
  cohort : Nat
  cluster : Nat
  cores : List Nat
  span : List Nat
  g0 : Nat
  gmax : Nat
  perSeg : Nat
  vregs : Nat
  gregs : Nat
  scr : Nat
  code : Nat
  entry : Word
  trapv : Option Word
  producer : Option Nat
  msq : Option Word
  cst : Option Word
  ginit : List (Nat × Word)
  bars : List Barrier
  acs : List Counter
  forked : Bool
  stopping : Bool
  saved : Bool
  swapped : Bool
  polledAt : Nat
  started : Nat
  prio : Nat
  deriving DecidableEq, Repr

/-- A tile-table entry (07 R194, R196; 08 R247). `origin` is the object that a copy or a scan fills it from (15 R363). -/
structure Tile where
  st : TileState
  origin : Option Nat
  err : Bool
  errCode : Nat
  tag : Tag
  off : Nat
  len : Nat
  taken : Bool
  drain : Option Nat
  deriving DecidableEq, Repr

/-- A tile register: its tag, and the pairs (s, c) of the elements that are not (+0, +0), by element number 128 i + j, rising (01 R30). -/
structure TileReg where
  tag : Tag
  elems : List (Nat × Word × Word)
  deriving DecidableEq, Repr

/-- A spilled thread's record (05 R136, 08 R240). `marked`: v0 comes back with tag POISON; `lost`: the program counter or the return stack is poisoned (17 R399, R402). -/
structure Spawn where
  thread : Word
  ras : List Word
  xpc : Word
  regs : List (Nat × Tag × Word)
  gwct : Nat
  marked : Bool
  lost : Bool
  deriving DecidableEq, Repr

/-- A GMX command with the values it read at issue (07 R205 to R214). `amax` is what is left of an MDRAIN once its tile is filled: the merge of its absolute maximum, its packet sent, its answer's code; `before` the number of the sequencer's next transaction at the MDRAIN's issue (09 R271). -/
inductive Gmx
  | mzero (t : Nat)
  | mma (t a b : Nat) (scales : Option (Nat × Nat))
  | mmag (t a b : Nat) (scales : Option (Nat × Nat)) (idx : Nat)
  | mmasp (t a b : Nat) (scales : Option (Nat × Nat))
  | msoft (t o : Nat) (k : Word) (rows : Nat)
  | mscale (t : Nat) (at_ : Nat) (log2 : Nat)
  | mdrain (t : Nat) (sat : Bool) (k : Word) (ptr : Nat) (o : Nat) (tag : Tag) (before : Nat)
  | mldt (t a : Nat)
  | mcmerge (t : Nat) (rows : Nat) (cores : Nat)
  | amax (ptr : Nat) (x : Word) (sent : Bool) (code : Option Nat) (before : Nat)
  deriving DecidableEq, Repr

/-- Scratchpad ranges of a GMX command that its groups may not rely on yet (07 R205): its operands and results, the tile register it writes, the tile it fills; whether an MWAIT has covered it, and the barriers its sequencer has arrived at since. -/
structure Unseen where
  reg : Option Nat
  tile : Option Nat
  spans : List (Nat × Nat)
  waited : Bool
  bars : List Nat
  deriving DecidableEq, Repr

/-- A block segment (08 R232). -/
structure Segment where
  scratch : Memory
  poison : List Nat
  tiles : List (Nat × Tile)
  streams : List Stream
  tregs : List TileReg
  layouts : List (List Word)
  spawn : List Spawn
  gmx : List (Word × Gmx)
  unseen : List Unseen
  deriving DecidableEq, Repr

/-- A matrix or copy sequencer (05 R131, R147, R158). -/
structure Sequencer where
  e : List Word
  h : List Handle
  pc : Word
  running : Bool
  halted : Bool
  fault : Option TrapRec
  wait : Wait
  pw : PathWait
  pwMarked : Bool
  owed : Bool
  outs : Nat
  deferred : List Deferred
  pend : List Nat
  clob : List Nat
  struck : List Nat
  gwct : Nat
  deriving DecidableEq, Repr

/-- Where a variable-latency instruction leaves its value. -/
inductive Dest
  | none
  | v (r : Nat)
  | g (r : Nat)
  deriving DecidableEq, Repr

/-- What one lane contributes to a sector part: `len` bytes from byte `idx` of its access, at flat address `addr` (identifier × 2^34 + offset, or scratchpad offset). -/
structure Piece where
  lane : Nat
  addr : Nat
  idx : Nat
  len : Nat
  deriving DecidableEq, Repr

/-- A part is not yet performed, waiting at its channel, sent to another chip, held for ENDED regions, or done. -/
inductive PartState
  | todo | queued | sent | held | done
  deriving DecidableEq, Repr

/-- One sector access of a variable-latency instruction (06 R163), or one lane's atomic. `fill` holds until a store of the core forbids the installing of what it fetches (09 R256). `probe` marks the question to another chip what stands at an address (06 R161). -/
structure Part where
  st : PartState
  pieces : List Piece
  fill : Bool := true
  probe : Bool := false
  deriving DecidableEq, Repr

/-- Task states of 14 R317 (FREE entries are not listed). -/
inductive TaskState
  | waiting | ready | running | ending
  deriving DecidableEq, Repr

/-- A kernel record with its initial-state list (14 R318, R319). -/
structure Kernel where
  entry : Nat
  trapv : Option Nat
  msq : Option Nat
  cst : Option Nat
  v : Nat
  m : Nat
  producer : Option Nat
  scr : Nat
  pslots : Nat
  pdest : List Nat
  tiles : List (Nat × Nat × Nat)
  streams : List (Nat × List Nat)
  bars : List (Nat × Nat)
  buckets : List (Nat × Nat × Nat)
  deriving DecidableEq, Repr

/-- A task-table entry (14 R317, R320). -/
structure Task where
  st : TaskState
  p : List Word
  kernel : Kernel
  counter : Nat
  slots : List (Option Word)
  g6 : Word
  g7 : Word
  next : Nat
  active : Nat
  ended : Nat
  readyAt : Nat
  lastProgress : Nat
  killer : Option (Nat × Nat × Nat)
  fault : Option (Nat × Nat × List Word)
  deriving DecidableEq, Repr

/-- Counted commands (07 R190), with their values read at issue; of a LAUNCH, the record it would write, none where a field lies outside its limits. -/
inductive Counted
  | copy (op : Nat)
  | fbstat
  | fbplan (plan : Word) (ptr op : Nat)
  | oalloc (size : Nat) (attrs : Word)
  | ofree (ptr : Nat)
  | opin (ptr : Nat)
  | ounpin (ptr : Nat)
  | ogroup (ptr leader : Nat)
  | oloc (ptr : Nat)
  | osplit (ptr : Nat) (boundary : Word)
  | oattr (ptr : Nat) (attrs : Word)
  | launch (t : Option Task)
  | patch (slot : Nat) (value task : Word)
  | tdec (task amount : Word)
  | tkill (task : Word)
  deriving DecidableEq, Repr

/-- What an outstanding transaction does when its parts perform. -/
inductive TxnKind
  | load (scratch : Bool) (dest : Dest) (size : Size) (sync : Sync) (hint : Hint)
  | store (scratch : Bool) (size : Nat) (sync : Sync) (data : List (Nat × Nat))
  | rmw (scratch : Bool) (dest : Dest) (op : Rmw) (scope : Scope) (data : List (Nat × List Word))
  | trx (vd ge : Nat) (table : Nat) (items : List (Nat × Word × Word)) (cells : List (Nat × Option Byte))
  | command (gd : Nat) (c : Counted)
  deriving DecidableEq, Repr

/-- An entry of a core's outstanding-transaction table (02 R52). `lease` is the LEASE of its group at issue (09 R257); `seen` what other chips have said of the halves of accesses that cross a sector boundary, by lane and first byte: none for an object that does not exist, else the bytes that exist from there on and the attributes (06 R161). -/
structure Txn where
  id : Nat
  who : Agent
  core : Nat
  pc : Word
  lanes : Mask
  kind : TxnKind
  parts : List Part
  faults : List (FaultCode × Nat)
  lease : Nat
  seen : List ((Nat × Nat) × Option (Nat × Word))
  deriving DecidableEq, Repr

/-- A dimension of a layout's list: size and destination byte pitch, 0 for dense (07 R203). -/
structure Dim where
  size : Nat
  pitch : Nat
  deriving DecidableEq, Repr

/-- A copy captured at issue (07 R198 to R204). Kinds 0 object, 1 scratchpad, 2 tile. -/
structure Copy where
  sg : SKey
  skind : Nat
  src : Nat
  dkind : Nat
  dst : Nat
  ndim : Nat
  stag : Tag
  dtag : Tag
  esz : Nat
  dsz : Nat
  sat : Bool
  rm : Rounding
  layout : Option (List Word)
  notify : Option Nat
  fill : Nat
  start : List Int
  box : List Nat
  extent : List Nat
  stride : List Int
  targets : List SKey
  mcast : Bool
  counted : Bool
  deriving DecidableEq, Repr

/-- A scan or top-k captured at issue (07 R215 to R217). `rows` is none until the winnowers start; then it lists the rows still to be visited, each with the flat address from which it is still to be read, and `away` those of the spans still to be read at other chips. `bufs` are the winnowers' candidate buffers, each entry with its channel; `cands` what the thresher has taken; `written` counts the pairs written (10 R295 to R297). -/
structure Scan where
  sg : SKey
  topk : Bool
  src : Nat
  count : Nat
  fmt : Nat
  op1 : Nat
  op2 : Option Nat
  a1 : Word
  b1 : Word
  a2 : Word
  b2 : Word
  cap : Nat
  k : Nat
  segs : Nat
  tile : Option Nat
  dest : Nat
  rows : Option (List (Nat × Nat))
  away : List Nat
  bufs : List (Nat × Nat × Word)
  cands : List (Nat × Word)
  nans : Nat
  written : Nat
  deriving DecidableEq, Repr

/-- An accumulator of a channel program: format 0 F32, 1 BF16, 2 FP16, 3 I32, and 64 bytes (10 R300). -/
structure Acc where
  fmt : Nat
  data : List Byte
  deriving DecidableEq, Repr

/-- A channel program (07 R218, 10 R300). -/
structure Nbx where
  base : Nat
  rows : Nat
  ops : List (BitVec 16)
  ch : Nat
  mpc : Nat
  lc : Word
  row : Nat
  accs : List Acc
  scalars : List Word
  placed : Bool
  deriving DecidableEq, Repr

/-- KVSEAL captured at issue (07 R219). -/
structure Kvseal where
  src : Nat
  elems : Nat
  heads : Nat
  dst : Nat
  scales : Nat
  absmax : Nat
  valid : Nat
  deriving DecidableEq, Repr

/-- RED captured at issue (07 R220), with the next element. -/
structure Red where
  sg : SKey
  scratch : Bool
  src : Nat
  op : AtomOp
  ty : AtomType
  count : Nat
  dst : Nat
  next : Nat
  deriving DecidableEq, Repr

/-- A remote transfer captured at issue (07 R222; 16 R385, R386): packets sent and not answered, and bytes handed to packets so far. -/
structure Transfer where
  fetch : Bool
  sg : SKey
  scratch : Bool
  addr : Nat
  bytes : Nat
  chip : Nat
  task : Nat
  block : Nat
  seg : Nat
  ac : Nat
  offset : Nat
  sentTo : Nat
  waiting : Nat
  deriving DecidableEq, Repr

/-- The operation behind a handle (07 R190). A guest is an operation of another chip that runs on frames of an object here (10 R292). -/
inductive OpKind
  | copy (c : Copy)
  | scan (s : Scan)
  | nbx (n : Nbx)
  | kvseal (k : Kvseal)
  | red (r : Red)
  | transfer (t : Transfer)
  | fabric
  | omove (id : Nat) (chip : Word)
  | oinv (id : Nat)
  | guest (id : Nat)
  deriving DecidableEq, Repr

/-- State of an operation (02 R42, 05 R144). -/
inductive OpState
  | pending | done | failed (code : Nat) (cancelled : Bool)
  deriving DecidableEq, Repr

/-- An entry of the chip's operation table (05 R146). `armed` holds a drain until TREL (07 R201). `got` holds bytes fetched from other chips with their fault code (0 none), `asked` the lines asked for, `acks` the remote writes not acknowledged, `outcome` the end that waits for them. Of a copy, `stage` counts the destination sectors (MCAST: target cores) written, `codes` holds the fault codes met, and `buf` the bytes that an MCAST has read (07 R192, R200, R204). `asker` is the request by which another chip sent a channel program here or said that an operation runs on an object here (10 R292, R299), `entered` the addresses at which other chips have been told the same of a scan or RED. -/
structure Op where
  who : Agent
  task : Nat
  kind : OpKind
  st : OpState
  armed : Bool
  cancel : Bool
  gwct : Nat
  got : List (Nat × Nat × Byte)
  asked : List Nat
  acks : Nat
  outcome : Option OpState
  stage : Nat
  codes : List Nat
  buf : List (Nat × Byte)
  plain : Bool
  asker : Option Packet
  entered : List Nat
  deriving DecidableEq, Repr

/-- A granary entry (15 R344); st 0 RESIDENT, 1 MIGRATING, 2 SPLIT, 3 FREED. -/
structure Granary where
  chip : Nat
  epoch : Nat
  st : Nat
  boundary : Nat
  upper : Nat
  deriving DecidableEq, Repr

/-- Who asked for an object command: a counted command or a future of this chip, or a request of another chip (or of this one, come back to it). -/
inductive Asker
  | txn (id : Nat)
  | op (o : Nat)
  | packet (p : Packet)
  deriving DecidableEq, Repr

/-- Stages of a migration (15 R356, R357): frames asked of the destination, bulk copy, cut-over waiting to drain, its last rows sent, the granary's change asked for, the stub waiting for room. -/
inductive MigStage
  | reserving
  | bulk
  | draining
  | finalCopy
  | granary
  | stub
  deriving DecidableEq, Repr

/-- A migration of a resident object (15 R356, R357). `lead` is the member that answers for its group; `rows` are the rows of the pass still to be read, `queue` the frames of the pass whose copy has not begun; `sent` counts its packets (16 R374). -/
structure Migration where
  lead : Nat
  dest : Nat
  asker : Option Asker
  stage : MigStage
  pass : Nat
  rows : List Nat
  queue : List Nat
  dirty : List Nat
  cutting : Bool
  sent : Nat
  deriving DecidableEq, Repr

/-- The invalidation of a pinned object (15 R363, R365): the end of its grace, who asked, whether OFREE did, the number of the next operation when it began, and the other chips that have not said that no tile of theirs uses the object. -/
structure Inval where
  deadline : Nat
  asker : Asker
  free : Bool
  before : Nat
  asked : Nat
  deriving DecidableEq, Repr

/-- The invalidation of a pinned object of another chip, as this chip has been told of it (15 R363): the end of its grace, the number of the next operation when it came, and the request while it is unanswered. MODEL. -/
structure Revoke where
  deadline : Nat
  before : Nat
  asker : Option Packet
  deriving DecidableEq, Repr

/-- A descriptor of an object resident here (15 R345) with its affinity counts (R354), suggestion (R355), migration (R356) and pending invalidation (R363). MODEL: `asked` a migration was asked for since the last halving, `busy` an OSPLIT is under way, `serial` its boundary, its upper part's identifier and who asked, once the granary has assigned that (R360), `left` forwarded requests that must perform first (R357). -/
structure Desc where
  len : Nat
  attrs : Word
  frame0 : Nat
  epoch : Nat
  pins : Nat
  group : Option Nat
  split : Option (Nat × Nat)
  localCount : Nat
  slots : List (Nat × Nat)
  suggestion : Option Nat
  mig : Option Migration
  inv : Option Inval
  asked : Bool
  busy : Bool
  serial : Option (Nat × Nat × Asker)
  left : Nat
  deriving DecidableEq, Repr

/-- A forwarding stub (15 R352). -/
structure Stub where
  next : Nat
  epoch : Nat
  used : Nat
  confirming : Bool
  deriving DecidableEq, Repr

/-- A region slot (09 R276 to R282); `ended` once RGEND has requested commit. -/
structure Region where
  owner : GKey
  ended : Bool
  target : Word
  reason : Nat
  reads : List Nat
  writes : List Nat
  preds : List Nat
  direct : List Nat
  deriving DecidableEq, Repr

/-- An uncommitted version of a line (09 R277): the bytes a slot wrote, by offset in the line. -/
structure Version where
  line : Nat
  slot : Nat
  bytes : List (Nat × Byte)
  deriving DecidableEq, Repr

/-- A write held for ENDED regions (09 R280): a part of a transaction of this chip, or a packet. -/
inductive Held
  | part (txn part : Nat)
  | packet (port : BitVec 6) (p : Packet)
  deriving DecidableEq, Repr

/-- A held write and the line it waits at. -/
structure HeldWrite where
  line : Nat
  what : Held
  deriving DecidableEq, Repr

/-- A sector in a core's L1 (09 R256); `stream` marks one that a load with the stream hint used last (03 R65). -/
structure L1Sector where
  core : Nat
  sector : Nat
  data : List Byte
  fill : Nat
  expiry : Nat
  stream : Bool
  deriving DecidableEq, Repr

/-- An event record (14 R341). -/
structure EventRec where
  kind : Nat
  chip : Nat
  task : Nat
  block : Nat
  group : Nat
  number : Nat
  p : List Word
  ptime : Nat
  seq : Nat
  sentAt : Option Nat
  deriving DecidableEq, Repr

/-- A USER event waiting for its group's earlier stores and atomics (05 R152). -/
structure PendingEvent where
  who : Agent
  before : Nat
  event : EventRec
  deriving DecidableEq, Repr

/-- Who reads words of an object at another chip outside the transaction table: the fetch path of a block (03 R62), the HTS for a launch of a group, for the sizes of a launch of a transaction number, or for a host post (14 R324, R328). MODEL. -/
inductive FarBy
  | code (blk : Nat)
  | launch (w : Agent)
  | size (txn : Nat)
  | post
  deriving DecidableEq, Repr

/-- Such a read: its flat address and bytes, whether its request has been made, and once its answer has come the fault code (0 none) and the bytes (log entry 19). MODEL. -/
structure FarRead where
  who : FarBy
  addr : Nat
  bytes : Nat
  sent : Bool
  got : Option (Nat × List Byte)
  deriving DecidableEq, Repr

/-- Fabric controller states of 16 R394. -/
inductive FabState
  | reset | opened | draining | drained | dark | locking | locked | lockfail
  deriving DecidableEq, Repr

/-- A routing table (16 R373): PORTS of each VALID chip. -/
structure Table where
  plan : BitVec 16
  self : Nat
  dateline : BitVec 64
  entries : List (Nat × BitVec 64)
  deriving DecidableEq, Repr

/-- What a request slot's answer completes (16 R381). `lapsed` is the answer to a WAITC whose group has resumed, which has given its landing buffer up: the wake of a monitor, or a polled word. -/
inductive Reply
  | part (txn part lo : Nat)
  | transfer (op : Nat)
  | wait (w : Agent)
  | lapsed (monitor : Bool)
  | object (a : Asker)
  | grouped (id : Nat) (a : Asker)
  | reserved (id dest : Nat)
  | serial (id boundary : Nat) (a : Asker)
  | splitDone (upper : Nat) (a : Asker)
  | freed (a : Asker)
  | revoked (id : Nat)
  | cutOver (id : Nat)
  | stub (id : Nat)
  | ignore
  | engineRead (op addr bytes : Nat)
  | engineWrite (op : Nat)
  | visit (op addr : Nat)
  | amax (sg : SKey)
  | migration (id : Nat)
  | far (w : FarBy) (addr : Nat)
  deriving DecidableEq, Repr

/-- An FBRELOCK under way (16 R391): the ports of its mask and those that have locked, its plan id, the time at which a port that has not locked fails, how far the largest pod time seen lies ahead of this chip's count, the chips whose pod times that one covers, and those known to have stepped to the largest of all. -/
structure Relock where
  mask : BitVec 64
  done : BitVec 64
  plan : BitVec 16
  deadline : Nat
  lead : Nat
  known : BitVec 4096
  moved : BitVec 4096
  deriving DecidableEq, Repr

/-- A command at the fabric controller that has not been applied (16 R388): FBSTAT or FBPLAN by its transaction, the others by their operations. -/
inductive FabCmd
  | counted (txn : Nat)
  | drain (op : Nat)
  | dark (op : Nat) (keep : BitVec 64)
  | relock (op : Nat) (mask : BitVec 64) (plan : BitVec 16)
  | opening (op : Nat)
  deriving DecidableEq, Repr

/-- The fabric port (16). `byCore` gives the core and the identifier of each request of a core, by its tag (15 R349). `unslotted` are the tags of requests whose slots FBDARK has given back (R390), `cmds` what the controller has still to apply (R388), `waiting` the requests of other chips that wait in the request channel, each with its port while it holds that port's buffers (15 R358); `linkOut` and `linkIn` number the packets of each port (17 R401), `asks` are the ports of which a replay has been asked for. -/
structure Fabric where
  st : FabState
  live : Option Table
  staged : Option Table
  locked : BitVec 64
  keep : BitVec 64
  failPorts : Nat
  relock : Option Relock
  markers : List Nat
  queue : List (Nat × Packet)
  sent : List (Nat × Packet)
  slots : List (Nat × Nat)
  bulk : List (Nat × Nat)
  landing : Nat
  nextTag : Nat
  replies : List (Nat × Nat × Reply)
  byCore : List (Nat × Nat × Nat)
  ordOut : List ((Nat × Nat) × Nat)
  ordIn : List ((Nat × Nat) × Nat)
  early : List Packet
  replay : List (Nat × Packet)
  fails : List (Nat × Nat)
  asks : List Nat
  linkOut : List (Nat × Nat)
  linkIn : List (Nat × Nat)
  unslotted : List Nat
  cmds : List FabCmd
  waiting : List (Option (BitVec 6) × Packet)
  credits : List ((Nat × Nat × Nat) × Nat)
  ops : List Nat
  monitors : List Packet
  discarded : Nat
  deriving DecidableEq, Repr

/-- What holds a channel (10 R287), with the chip-wide number of its row: a transaction's part, an element update of RED, a visit, a request that the fabric brought, the merge of an MDRAIN's absolute maximum. -/
inductive Activity
  | refresh
  | demand (txn part : Nat) (row : Nat)
  | atomic (txn part : Nat) (row : Nat)
  | red (op : Nat) (row : Nat)
  | winnow (op : Nat) (row : Nat)
  | program (op : Nat) (row : Nat)
  | migrate (id frame : Nat) (row : Nat)
  | scrub (row : Nat)
  | request (port : BitVec 6) (p : Packet) (row : Nat)
  | amax (sg : SKey) (row : Nat)
  deriving DecidableEq, Repr

/-- One channel (10 R284 to R291): open row, row switch under way, waiting activities in arrival order, refresh due, the row that the scrubber reads next. -/
structure Channel where
  openRow : Option Nat
  switching : Option Activity
  waiting : List Activity
  refreshDue : Bool
  lastRefresh : Nat
  nextRefresh : Nat
  scrubAt : Nat
  deriving DecidableEq, Repr

/-- A RoCEv2 queue pair (17 R408). -/
structure QueuePair where
  dqpn : Word
  rpsn : Word
  rkey : Word
  st : Nat
  issued : Nat
  deriving DecidableEq, Repr

/-- An error-log record (17 R403, R407). -/
structure ErrorLog where
  corr : Word
  pois : Word
  replay : Word
  lastAt : Word
  lastTime : Dword
  deriving DecidableEq, Repr

/-- Messages that leave the host port (17 R409, R410, R413). -/
inductive HostOut
  | postStatus (seq : Word) (index : Word) (status code : Nat)
  | events (seq : Word) (recs : List (List Word))
  | mgmtResp (seq : Word) (status : Nat) (data : List Byte)
  | quote (seq : Word) (body : List Byte)
  | rdmaAck (q : BitVec 6) (psn : BitVec 24)
  | rdmaData (q : BitVec 6) (psn : BitVec 24) (data : List Byte)
  | nakInvalidRequest (q : BitVec 6) (psn : BitVec 24)
  | nakRemoteAccess (q : BitVec 6) (psn : BitVec 24)
  deriving DecidableEq, Repr

/-- An RDMA request that has arrived (17 R409): its queue pair, the PSN of its last packet, its flat address and bytes, and the operation that carries it out once it has begun (MODEL). -/
structure Rdma where
  q : Nat
  psn : BitVec 24
  write : Bool
  addr : Nat
  bytes : Nat
  data : List Byte
  op : Option Nat
  deriving DecidableEq, Repr

/-- A sector of DRAM with an error that the scrubber has not come to (17 R404): its place as the error log names it, and whether it can be corrected. What reads the sector meanwhile has it corrected, or finds it poisoned (MODEL: log entry 14). -/
structure Flaw where
  sector : Nat
  place : Word
  correctable : Bool
  deriving DecidableEq, Repr

/-- The host port and the management space (17 R407), with the RDMA requests in progress. `posts` are task posts whose kernel the HTS reads at another chip (MODEL). -/
structure HostPort where
  hostctl : Word
  hostport : Word
  hostaddr : BitVec 128
  plan : BitVec 16
  planState : Nat
  planbuf : Memory
  qps : List QueuePair
  log : List (Nat × ErrorLog)
  rdma : List Rdma
  posts : List HostMsg
  out : List HostOut
  number : Word
  everOpen : Bool
  deriving DecidableEq, Repr

/-- Where the reset sequence of 17 R411 stands. -/
inductive Phase
  | up
  | tripped
  | imageRefused
  deriving DecidableEq, Repr

/-- The service core's registers g0 to g63 and its memory of 256 KiB (17 R412). Its firmware is not in the spec: what the rules say that the firmware does is done by the steps of the host port and of reset (DESIGN CHOICE, log entry 33). -/
structure Service where
  regs : List Word
  mem : Memory
  deriving DecidableEq, Repr

/-- An issue slot (08 R234): the active set in order of entry, and the pending set in order of entry. -/
structure Slot where
  active : List GKey
  pending : List GKey
  deriving DecidableEq, Repr

/-- Who issues the instruction that is run: a path of a group with its lanes and program counter, a sequencer, or no one (a step of an engine). -/
inductive Issuer
  | idle
  | path (k : GKey) (lanes : Mask) (pc : Word)
  | seq (q : QKey)
  deriving DecidableEq, Repr

/-- The whole chip. `stale` holds the frames of code objects written while a task runs code from them (03 R62), by flat address over 65,536; `blur` the ranges of flat addresses, first and past the last, whose bytes are unspecified, since a context image was written to them (14 R321); `far` the words read at other chips outside the transaction table. -/
structure State where
  cur : Issuer
  arg : StepArg
  agenda : List (Instr × StepArg)
  clock : Nat
  ptimeOff : Nat
  freeCtr : Nat
  resets : Nat
  phase : Phase
  chipId : Nat
  migratePolicy : Word
  stubIdle : Word
  pinGrace : Word
  nextUid : Nat
  nextTxn : Nat
  nextOp : Nat
  lastSlot : Nat
  groups : List (GKey × Group)
  blocks : List (Nat × Block)
  segs : List (SKey × Segment)
  seqs : List (QKey × Sequencer)
  slots : List (Nat × Slot)
  txns : List Txn
  ops : List (Nat × Op)
  mem : Memory
  poison : List Nat
  flaws : List Flaw
  stale : List Nat
  blur : List (Nat × Nat)
  far : List FarRead
  l1 : List L1Sector
  lx : List (Nat × Nat)
  regions : List (Nat × Region)
  versions : List Version
  held : List HeldWrite
  nextSerial : Nat
  nextFrame : Nat
  granary : List (Nat × Granary)
  objs : List (Nat × Desc)
  incoming : List (Nat × Desc)
  revokes : List (Nat × Revoke)
  locator : List (Nat × Nat × Nat)
  stubs : List (Nat × Stub)
  hold : List Packet
  halvedAt : Nat
  tasks : List (Nat × Task)
  events : List EventRec
  pendingEvents : List PendingEvent
  nextSeq : Nat
  dropped : Nat
  fab : Fabric
  channels : List (Nat × Channel)
  hot : List Nat
  host : HostPort
  svc : Service
  deriving DecidableEq, Repr

/-- Why the machine stops with a fault. -/
inductive Fault
  /-- Raised by no rule of the spec: kept for a state in which the current path names a group that is not resident, which no run reaches (Inv). Safe. -/
  | noSuchGroup
  deriving DecidableEq, Repr

/-- Why a step has no meaning. -/
inductive Refusal
  /-- The instruction is not modelled. Raised by Dispatch only. Safe. -/
  | notModelled (mnemonic : String)
  /-- An instruction word is run with no issuer: exec was asked to run an instruction word while `cur` is idle, which step never does. Safe. -/
  | noIssuer
  deriving DecidableEq, Repr

/-- The fabric after reset (16 R394, 17 R411). -/
def Fabric.reset : Fabric where
  st := .reset
  live := none
  staged := none
  locked := 0
  keep := 0
  failPorts := 0
  relock := none
  markers := []
  queue := []
  sent := []
  slots := []
  bulk := []
  landing := 0
  nextTag := 0
  replies := []
  byCore := []
  ordOut := []
  ordIn := []
  early := []
  replay := []
  fails := []
  asks := []
  linkOut := []
  linkIn := []
  unslotted := []
  cmds := []
  waiting := []
  credits := []
  ops := []
  monitors := []
  discarded := 0

/-- A queue pair after reset (17 R408). -/
def QueuePair.reset : QueuePair := { dqpn := 0, rpsn := 0, rkey := 0, st := 0, issued := 0 }

/-- The host port after reset (17 R407). HOSTADDR comes from the signed firmware header (DESIGN CHOICE, log entry 30). -/
def HostPort.reset : HostPort where
  hostctl := 2
  hostport := 0
  hostaddr := Config.hostAddr
  plan := 0
  planState := 0
  planbuf := []
  qps := List.replicate 64 QueuePair.reset
  log := []
  rdma := []
  posts := []
  out := []
  number := 0
  everOpen := false

/-- The machine right after reset (17 R411): no task, no object, the fabric in RESET. -/
def State.reset : State where
  cur := .idle
  arg := .none
  agenda := []
  clock := 0
  ptimeOff := 0
  freeCtr := 0
  resets := 0
  phase := .up
  chipId := 0
  migratePolicy := 0
  stubIdle := 100000
  pinGrace := 200
  nextUid := 0
  nextTxn := 0
  nextOp := 0
  lastSlot := 0
  groups := []
  blocks := []
  segs := []
  seqs := []
  slots := []
  txns := []
  ops := []
  mem := []
  poison := []
  flaws := []
  stale := []
  blur := []
  far := []
  l1 := []
  lx := []
  regions := []
  versions := []
  held := []
  nextSerial := 1
  nextFrame := 0
  granary := []
  objs := []
  incoming := []
  revokes := []
  locator := []
  stubs := []
  hold := []
  halvedAt := 0
  tasks := []
  events := []
  pendingEvents := []
  nextSeq := 0
  dropped := 0
  fab := Fabric.reset
  channels := []
  hot := []
  host := HostPort.reset
  svc := { regs := List.replicate 64 0, mem := [] }

end Sys2Proof.Machine
end

