-- ==== Sys2Proof/Machine/Ops.lean ====
section
/-! DEFINITION. The named operations over registers, memory, lanes and waits that every meaning shares: tables, the canonical memory, reading and writing v, g and e registers, regions' abort, taking a trap and returning from one, parking. -/

namespace Sys2Proof.Machine

/-- What a meaning answers. -/
abbrev Out := Host.Outcome State Fault Refusal

/-! ### Tables -/

/-- The entry of a key. -/
def look {κ α : Type} [DecidableEq κ] : List (κ × α) → κ → Option α
  | [], _ => none
  | (k, a) :: r, x => if k = x then some a else look r x

/-- Replaces the entry of a key where it stands, or adds it at the end. -/
def put {κ α : Type} [DecidableEq κ] : List (κ × α) → κ → α → List (κ × α)
  | [], x, a => [(x, a)]
  | (k, b) :: r, x, a => if k = x then (k, a) :: r else (k, b) :: put r x a

/-- Removes the entries of a key. -/
def del {κ α : Type} [DecidableEq κ] (l : List (κ × α)) (x : κ) : List (κ × α) := l.filter (fun e => !(e.1 == x))

/-- Applies f to the entry of a key, if there is one. -/
def upd {κ α : Type} [DecidableEq κ] (l : List (κ × α)) (x : κ) (f : α → α) : List (κ × α) :=
  match look l x with
  | none => l
  | some a => put l x (f a)

/-- The largest of a list of numbers, 0 for none. -/
def maxOf : List Nat → Nat
  | [] => 0
  | x :: r => max x (maxOf r)

/-- The least element under a measure. -/
def minBy {α : Type} (f : α → Nat) : List α → Option α
  | [] => none
  | x :: r =>
    match minBy f r with
    | none => some x
    | some y => if f y < f x then some y else some x

/-- The list without its first occurrence of a member, or unchanged. -/
def without {α : Type} [DecidableEq α] (l : List α) (x : α) : List α := l.filter (fun y => !(y == x))

/-! ### Memory (DESIGN CHOICE, log entry 7) -/

/-- Reads one byte; an unlisted address reads 0. -/
def Memory.read : Memory → Nat → Byte
  | [], _ => 0
  | (x, c) :: r, a => if x = a then c else if a < x then 0 else Memory.read r a

/-- Writes one byte, keeping addresses rising and no listed zero. -/
def Memory.write : Memory → Nat → Byte → Memory
  | [], a, b => if b = 0 then [] else [(a, b)]
  | (x, c) :: r, a, b =>
    if a < x then (if b = 0 then (x, c) :: r else (a, b) :: (x, c) :: r)
    else if a = x then (if b = 0 then r else (a, b) :: r)
    else (x, c) :: Memory.write r a b

/-- Every listed address is above a bound, addresses rise, and no byte is 0. -/
def Memory.above (lo : Nat) : Memory → Bool
  | [] => true
  | (x, c) :: r => decide (lo ≤ x) && c != 0 && Memory.above (x + 1) r

/-- The canonical form. -/
def Memory.wf (m : Memory) : Bool := Memory.above 0 m

/-- Reads n bytes upwards from an address. -/
def Memory.bytes (m : Memory) : Nat → Nat → List Byte
  | _, 0 => []
  | a, n + 1 => m.read a :: Memory.bytes m (a + 1) n

/-- Writes bytes upwards from an address. -/
def Memory.put (m : Memory) : Nat → List Byte → Memory
  | _, [] => m
  | a, b :: bs => Memory.put (m.write a b) (a + 1) bs

/-- Writes a list of cells in order. -/
def Memory.cells (m : Memory) : List (Nat × Byte) → Memory
  | [] => m
  | (a, b) :: r => Memory.cells (m.write a b) r

/-- The little-endian word at an address. -/
def Memory.word (m : Memory) (a : Nat) : Word := BitVec.ofNat 32 (natLE (m.bytes a 4))

/-! ### Time -/

/-- Pod time in ns (09 R268): the clock is 20/21 ns (00 R5). -/
def State.ptime (s : State) : Nat := s.ptimeOff + s.clock * 20 / 21

/-- An undefined word (00 R5): place tells apart the uses inside one step, lane the lanes. -/
def State.undef (s : State) (place lane : Nat) : Word := Config.free s.freeCtr place lane

/-! ### Lanes and paths -/

/-- A lane that holds no thread. -/
def Lane.gone : Lane := { st := .exited, pc := 0, ras := [], wait := .none, age := 0, marked := false }

/-- Lane l of a group. -/
def Group.lane (g : Group) (l : Nat) : Lane := g.lanes.getD l Lane.gone

/-- Applies f to the lanes of a mask. -/
def Group.mapLanes (g : Group) (m : Mask) (f : Nat → Lane → Lane) : Group :=
  { g with lanes := g.lanes.mapIdx (fun i x => if m.getLsbD i then f i x else x) }

/-- The mask of the lanes that satisfy a test. -/
def Group.lanesWhere (g : Group) (p : Nat → Lane → Bool) : Mask :=
  maskOf ((List.range 32).filter (fun l => p l (g.lane l)))

/-- Live lanes (02 R48). -/
def Group.live (g : Group) : Mask := g.lanesWhere (fun _ x => x.st == .live)

/-- Lanes in handler mode. -/
def Group.handling (g : Group) : Mask := g.handler.getD 0

/-- Moves the lanes of a mask on by a distance. -/
def Group.advance (g : Group) (m : Mask) (d : Word) : Group := g.mapLanes m (fun _ x => { x with pc := x.pc + d })

/-- The lowest lane of a mask, 32 for none. -/
def lowLane (m : Mask) : Nat := (lanesOf m).headD 32

/-! ### v registers -/

/-- A register never written (02 R41). -/
def VReg.zero : VReg := { tag := .raw, lanes := List.replicate 32 0 }

/-- The v registers an instruction reads: as the paired issue began (02 R51), else as they are. -/
def Group.vNow (g : Group) : List VReg :=
  match g.view with
  | some x => x.v
  | none => g.v

/-- The lanes whose words of a v register are pending destinations of variable-latency instructions (02 R53), as the paired issue began. -/
def Group.pendVNow (g : Group) (r : Nat) : Mask :=
  match g.view with
  | some x => (look x.pendV r).getD 0
  | none => (look g.pendV r).getD 0

/-- A lane is Spilled (02 R48), as the paired issue began. -/
def Group.spilledNow (g : Group) (l : Nat) : Bool :=
  match g.view with
  | some x => x.spilled.getLsbD l
  | none => (g.lane l).st == .spilled

/-- Tag of a v register (01 R34). -/
def Group.tag (g : Group) (r : Nat) : Tag := (g.vNow.getD r VReg.zero).tag

/-- One lane's word of a v register. A Spilled lane, and a lane whose word is pending, supply an undefined value (02 R53, R59; 04 R104). The words that are pending are those of the lanes that the instruction loads (DEDUCED, log entry 8). -/
def Group.vread (g : Group) (stamp pos r l : Nat) : Word :=
  if g.spilledNow l || (g.pendVNow r).getLsbD l then Config.free stamp (4 * r + pos) l
  else (g.vNow.getD r VReg.zero).lanes.getD l 0

/-- Adds lanes to a register's entry of the list of words that the park leaves undefined. -/
def addLanes (t : List (Nat × Mask)) (r : Nat) (m : Mask) : List (Nat × Mask) :=
  if m = 0 then t else put t r ((look t r).getD 0 ||| m)

/-- The words the park leaves undefined, once the lanes of a mask are written: the pending ones (02 R53). -/
def Group.clobbered (g : Group) (r : Nat) (m : Mask) : List (Nat × Mask) := addLanes g.clobV r (m &&& (look g.pendV r).getD 0)

/-- Writes the lanes of a mask and the whole register's tag (01 R34, 04 R101). Pending words are marked overwritten (02 R53). -/
def Group.vwrite (g : Group) (r : Nat) (t : Tag) (m : Mask) (f : Nat → Word) : Group :=
  { g with
    v := g.v.modify r (fun x => { tag := t, lanes := x.lanes.mapIdx (fun i w => if m.getLsbD i then f i else w) })
    clobV := g.clobbered r m }

/-- Changes a register's tag only. -/
def Group.vtag (g : Group) (r : Nat) (t : Tag) : Group := { g with v := g.v.modify r (fun x => { x with tag := t }) }

/-- Marks a register's words in the lanes of a mask the destination of a variable-latency instruction (02 R53). -/
def Group.vpend (g : Group) (r : Nat) (t : Tag) (m : Mask) : Group :=
  { g with
    v := g.v.modify r (fun x => { x with tag := t })
    clobV := g.clobbered r m
    pendV := addLanes g.pendV r m }

/-- Writes one lane's word when its data returns, the tag standing as it is. -/
def Group.vreturn (g : Group) (r l : Nat) (w : Word) : Group :=
  { g with v := g.v.modify r (fun x => { x with lanes := x.lanes.set l w }) }

/-! ### g and e registers -/

/-- The g registers an instruction reads. -/
def Group.gNow (g : Group) : List Word :=
  match g.view with
  | some x => x.g
  | none => g.g

/-- The g registers that are pending destinations, as the paired issue began. -/
def Group.pendGNow (g : Group) : List Nat :=
  match g.view with
  | some x => x.pendG
  | none => g.pendG

/-- The g registers with a soft error's mark (17 R402), as the paired issue began. -/
def Group.struckNow (g : Group) : List Nat :=
  match g.view with
  | some x => x.struckG
  | none => g.struckG

/-- Word of a g register; a pending one is undefined (02 R53). -/
def Group.gread (g : Group) (stamp pos r : Nat) : Word :=
  if r ∈ g.pendGNow then Config.free stamp (2048 + 4 * r + pos) 0 else g.gNow.getD r 0

/-- A fixed-latency write of a g register. It clears a soft error's mark (17 R402). -/
def Group.gwrite (g : Group) (r : Nat) (w : Word) : Group :=
  { g with
    g := g.g.set r w
    struckG := without g.struckG r
    clobG := if r ∈ g.pendG ∧ r ∉ g.clobG then g.clobG ++ [r] else g.clobG }

/-- Marks a g register the destination of a variable-latency instruction. -/
def Group.gpend (g : Group) (r : Nat) : Group :=
  { g with
    clobG := if r ∈ g.pendG ∧ r ∉ g.clobG then g.clobG ++ [r] else g.clobG
    pendG := if r ∈ g.pendG then g.pendG else g.pendG ++ [r]
    struckG := without g.struckG r }

/-- Writes a g register when its data returns. -/
def Group.greturn (g : Group) (r : Nat) (w : Word) : Group := { g with g := g.g.set r w }

/-- Word of an e register (05 R124, R147). -/
def Sequencer.eread (q : Sequencer) (stamp pos r : Nat) : Word :=
  if r ∈ q.pend then Config.free stamp (2048 + 4 * r + pos) 0 else q.e.getD r 0

/-- A fixed-latency write of an e register. -/
def Sequencer.ewrite (q : Sequencer) (r : Nat) (w : Word) : Sequencer :=
  { q with
    e := q.e.set r w
    struck := without q.struck r
    clob := if r ∈ q.pend ∧ r ∉ q.clob then q.clob ++ [r] else q.clob }

/-- Marks an e register the destination of a variable-latency instruction. -/
def Sequencer.epend (q : Sequencer) (r : Nat) : Sequencer :=
  { q with
    clob := if r ∈ q.pend ∧ r ∉ q.clob then q.clob ++ [r] else q.clob
    pend := if r ∈ q.pend then q.pend else q.pend ++ [r]
    struck := without q.struck r }

/-- Replaces a group. -/
def State.setGroup (s : State) (k : GKey) (g : Group) : State := { s with groups := put s.groups k g }
/-- Changes a group, if it is resident. -/
def State.onGroup (s : State) (k : GKey) (f : Group → Group) : State := { s with groups := upd s.groups k f }
/-- Changes a sequencer, if it exists. -/
def State.onSeq (s : State) (q : QKey) (f : Sequencer → Sequencer) : State := { s with seqs := upd s.seqs q f }
/-- Changes a block, if it exists. -/
def State.onBlock (s : State) (b : Nat) (f : Block → Block) : State := { s with blocks := upd s.blocks b f }
/-- Changes a segment, if it exists. -/
def State.onSeg (s : State) (k : SKey) (f : Segment → Segment) : State := { s with segs := upd s.segs k f }
/-- Changes an operation, if it exists. -/
def State.onOp (s : State) (o : Nat) (f : Op → Op) : State := { s with ops := upd s.ops o f }
/-- Changes a task-table entry, if it is not FREE. -/
def State.onTask (s : State) (t : Nat) (f : Task → Task) : State := { s with tasks := upd s.tasks t f }

/-- The current issuer's word of a g or e register; pos tells apart operand positions. -/
def State.readU (s : State) (pos r : Nat) : Word :=
  match s.cur with
  | .idle => 0
  | .path k _ _ =>
    match look s.groups k with
    | none => 0
    | some g => g.gread s.freeCtr pos r
  | .seq q =>
    match look s.seqs q with
    | none => 0
    | some e => e.eread s.freeCtr pos r

/-- The current issuer's fixed-latency write of a g or e register. -/
def State.writeU (s : State) (r : Nat) (w : Word) : State :=
  match s.cur with
  | .idle => s
  | .path k _ _ => s.onGroup k (fun g => g.gwrite r w)
  | .seq q => s.onSeq q (fun e => e.ewrite r w)

/-- A 64-bit value to the pair r:r+1 (00 R6). -/
def State.writePair (s : State) (r : Nat) (x : Nat) : State :=
  (s.writeU r (BitVec.ofNat 32 x)).writeU (r + 1) (BitVec.ofNat 32 (x / 2 ^ 32))

/-- The 64-bit value of the pair r:r+1. -/
def State.readPair (s : State) (pos r : Nat) : Nat := pairVal (s.readU pos r) (s.readU pos (r + 1))

/-! ### Handles (02 R42) -/

/-- The handles an instruction reads. -/
def Group.hNow (g : Group) : List Handle :=
  match g.view with
  | some x => x.h
  | none => g.h

/-- The current issuer's handle register. -/
def State.readH (s : State) (k : Nat) : Handle :=
  match s.cur with
  | .idle => .empty
  | .path x _ _ =>
    match look s.groups x with
    | none => .empty
    | some g => g.hNow.getD k .empty
  | .seq q =>
    match look s.seqs q with
    | none => .empty
    | some e => e.h.getD k .empty

/-- Writes the current issuer's handle register. -/
def State.writeH (s : State) (k : Nat) (h : Handle) : State :=
  match s.cur with
  | .idle => s
  | .path x _ _ => s.onGroup x (fun g => { g with h := g.h.set k h })
  | .seq q => s.onSeq q (fun e => { e with h := e.h.set k h })

/-- State of the operation a handle names (05 R144, R146): none for EMPTY. -/
def State.handleState (s : State) : Handle → Option OpState
  | .empty => none
  | .lost => some (.failed 0x16 false)
  | .names o =>
    match look s.ops o with
    | none => some (.failed 0x16 false)
    | some op => some op.st

/-! ### Where things run -/

/-- The block of a key. -/
def State.block? (s : State) (b : Nat) : Option Block := look s.blocks b

/-- The core of a segment (08 R231). -/
def State.coreOf (s : State) (k : SKey) : Nat :=
  match look s.blocks k.blk with
  | none => 0
  | some b => b.cores.getD k.seg 0

/-- The segment of a group. -/
def Group.skey (k : GKey) (g : Group) : SKey := ⟨k.blk, g.seg⟩

/-- The block of the current issuer. -/
def State.curBlk (s : State) : Nat :=
  match s.cur with
  | .idle => 0
  | .path k _ _ => k.blk
  | .seq q => q.sg.blk

/-- The segment of the current issuer. -/
def State.curSeg (s : State) : SKey :=
  match s.cur with
  | .idle => ⟨0, 0⟩
  | .path k _ _ =>
    match look s.groups k with
    | none => ⟨k.blk, 0⟩
    | some g => ⟨k.blk, g.seg⟩
  | .seq q => q.sg

/-- The current issuer as an agent. -/
def State.curAgent (s : State) : Agent :=
  match s.cur with
  | .idle => .grp ⟨0, 0⟩
  | .path k _ _ => .grp k
  | .seq q => .sqr q

/-- An agent's group-level wait. -/
def State.agentWait (s : State) (w : Agent) : Wait :=
  match w with
  | .grp k => (look s.groups k).elim .none (fun g => g.wait)
  | .sqr q => (look s.seqs q).elim .none (fun e => e.wait)

/-- Lanes of the issuing path; a sequencer has none. -/
def State.curLanes (s : State) : Mask :=
  match s.cur with
  | .path _ m _ => m
  | _ => 0

/-- Program counter of the instruction that issues. -/
def State.curPc (s : State) : Word :=
  match s.cur with
  | .idle => 0
  | .path _ _ pc => pc
  | .seq q =>
    match look s.seqs q with
    | none => 0
    | some e => e.pc

/-- Task of a block. -/
def State.taskOf (s : State) (b : Nat) : Nat :=
  match look s.blocks b with
  | none => 0
  | some x => x.task

/-- Scratchpad allocation of a block's segments (03 R90). -/
def State.scrSize (s : State) (b : Nat) : Nat :=
  match look s.blocks b with
  | none => 0
  | some x => x.scr

/-- Transaction-table entries held on a core, and by an agent (02 R52). -/
def State.coreTxns (s : State) (core : Nat) : Nat := (s.txns.filter (fun t => t.core == core)).length
/-- Entries an agent holds. -/
def State.agentTxns (s : State) (w : Agent) : Nat := (s.txns.filter (fun t => t.who == w)).length
/-- A variable-latency instruction of the current issuer can take an entry (02 R52). -/
def State.entryFree (s : State) : Bool :=
  decide (s.agentTxns s.curAgent < Config.txnPerGroup) && decide (s.coreTxns (s.coreOf s.curSeg) < Config.txnPerCore)

/-! ### Fault codes and trap records -/

/-- Codes of 05 R159. -/
def FaultCode.code : FaultCode → Nat
  | .illegal => 0x01
  | .emu => 0x02
  | .priv => 0x03
  | .tag => 0x04
  | .align => 0x05
  | .mixedAttr => 0x06
  | .objNone => 0x07
  | .objBounds => 0x08
  | .objPerm => 0x09
  | .unreachable => 0x0A
  | .pinRevoked => 0x0B
  | .scrRange => 0x0C
  | .copyRange => 0x0D
  | .copyRights => 0x0E
  | .syncMask => 0x0F
  | .land => 0x10
  | .fetch => 0x11
  | .tileState => 0x12
  | .regionMisuse => 0x13
  | .context => 0x14
  | .poison => 0x15
  | .handle => 0x16
  | .coopFit => 0x17
  | .stack => 0x18
  | .barState => 0x19
  | .watchdog => 0x1A
  | .brk => 0x1B

/-- A fault found before an instruction has any effect: its code, DETAIL (05 R157), the lanes it names (the issuing path's where none) and its resume address (the instruction's own where none). -/
structure Exc where
  code : FaultCode
  detail : Nat
  lanes : Option Mask
  resume : Option Word
  deriving DecidableEq, Repr

/-- A fault of the whole path with DETAIL 0. -/
def Exc.of (c : FaultCode) : Exc := { code := c, detail := 0, lanes := none, resume := none }
/-- A fault with DETAIL. -/
def Exc.det (c : FaultCode) (d : Nat) : Exc := { code := c, detail := d, lanes := none, resume := none }
/-- A fault of the lanes named. -/
def Exc.at_ (c : FaultCode) (m : Mask) : Exc := { code := c, detail := 0, lanes := some m, resume := none }

/-- The fault c where a condition holds. -/
def excIf (b : Bool) (e : Exc) : Option Exc := if b then some e else none

/-- The first fault in the order of 03 R79. -/
def firstExc : List (Option Exc) → Option Exc
  | [] => none
  | some e :: _ => some e
  | none :: r => firstExc r

/-- FAULTREC0 (05 R155). -/
def TrapRec.word0 (r : TrapRec) : Word := BitVec.ofNat 32 (r.code.code * 2 ^ 24 + r.detail % 2 ^ 24)
/-- FAULTREC1. -/
def TrapRec.word1 (r : TrapRec) : Word :=
  (r.pc &&& 0xFFFFFFFC) ||| (if r.deferred then 2 else 0) ||| (if r.seq then 1 else 0)
/-- FAULTREC2. -/
def TrapRec.word2 (r : TrapRec) : Word := r.lanes
/-- FAULTREC3. -/
def TrapRec.word3 (r : TrapRec) : Word := r.resume &&& 0xFFFFFFFC

/-! ### Regions: abort (06 R185; 09 R282) -/

/-- What aborts when the slots of a list abort, each for a reason of its own: they, and with CASCADE every other region whose predecessor set holds one of them (09 R282). -/
def State.abortSet (s : State) (own : List (Nat × Nat)) : List (Nat × Nat) :=
  own ++ (s.regions.filter (fun e => !own.any (fun x => x.1 == e.1) && own.any (fun x => e.2.preds.contains x.1))).map (fun e => (e.1, 3))

/-- An aborted slot is no longer ENDED and can never commit; it keeps its place in the table, with empty sets, until its group takes the abort (06 R183, R185; 09 R281). -/
def Region.clear (r : Region) : Region := { r with ended := false, reads := [], writes := [], preds := [], direct := [] }

/-- The group of an aborted slot notes the reason word, unless it already holds one of its own: of two RGABORT of one pair, that of the path run first (DESIGN CHOICE, log entry 28). -/
def Group.noteAbort (g : Group) (w : Nat) : Group :=
  { g with abort := if g.abort.isNone then some w else g.abort }

/-- One slot's part of an abort. -/
def State.abortOne (s : State) (slot w : Nat) : State :=
  match look s.regions slot with
  | none => s
  | some r =>
    { s with
      versions := s.versions.filter (fun v => !(v.slot == slot))
      regions := put s.regions slot r.clear
      groups := upd s.groups r.owner (fun g => g.noteAbort w) }

/-- Regions abort in one instant, each with its reason word; those that depend on them abort with CASCADE, but for one that aborts now for a reason of its own (09 R282). -/
def State.abortAll (s : State) (own : List (Nat × Nat)) : State := (s.abortSet own).foldl (fun t x => t.abortOne x.1 x.2) s

/-- A region aborts with a reason word. -/
def State.abortRegion (s : State) (slot w : Nat) : State := s.abortAll [(slot, w)]

/-- The group takes an abort (06 R185): every live lane goes to the target, the reason register gets the word, the slot is freed. -/
def State.takeAbort (s : State) (k : GKey) : State :=
  match look s.groups k with
  | none => s
  | some g =>
    match g.region, g.abort with
    | some slot, some w =>
      match look s.regions slot with
      | none => s
      | some r =>
        if r.owner = k then
          let g1 := g.mapLanes g.live (fun _ x => { x with pc := r.target, wait := .none, marked := false })
          { s with
            regions := del s.regions slot
            groups := put s.groups k { (g1.gwrite r.reason (BitVec.ofNat 32 w)) with
              region := none, abort := none, wait := .none, deferred := [], owedTrap := g.owedTrap.map (fun t => { t with resume := r.target }) } }
        else s
    | _, _ => s

/-! ### Ending a task (14 R327, R337) -/

/-- The task of a group's block. -/
def State.groupTask (s : State) (k : GKey) : Nat := s.taskOf k.blk

/-- Region slots whose groups belong to a task. -/
def State.taskRegions (s : State) (t : Nat) : List Nat :=
  (s.regions.filter (fun e => s.groupTask e.2.owner == t)).map Prod.fst

/-- An open region of a task that ends: it has aborted and its slot is freed. Its group, which issues nothing more, stays one whose region has aborted, so that what it has in flight changes no committed byte (09 R283). -/
def State.dropRegion (s : State) (slot : Nat) : State := { s with regions := del s.regions slot }

/-- The task goes to ENDING; the first cause is kept. -/
def State.endTask (s : State) (t : Nat) (killer : Option (Nat × Nat × Nat)) (fault : Option (Nat × Nat × List Word)) : State :=
  match look s.tasks t with
  | none => s
  | some x =>
    if x.st == .ending then s
    else
      (s.taskRegions t).foldl State.dropRegion
        ({ s with tasks := put s.tasks t { x with st := .ending, killer := killer, fault := fault } }.abortAll ((s.taskRegions t).map (fun n => (n, 7))))

/-! ### Taking a trap (05 R153) and returning (05 R156) -/

/-- The record goes to FAULTREC0 to FAULTREC3. -/
def Group.record (g : Group) (r : TrapRec) : Group :=
  { g with fr0 := r.word0, fr1 := r.word1, fr2 := r.word2, fr3 := r.word3 }

/-- A path's lanes enter handler mode at the trap vector. OUTS is zero, so a park that was owed is complete. -/
def Group.enterHandler (g : Group) (path : Mask) (vec : Word) : Group :=
  { (g.mapLanes path (fun _ x => { x with pc := vec, wait := .none, marked := false })) with
    handler := some path, wait := .none, owed := none, deferred := [] }

/-- A trap inside a region aborts it with TRAP first, and the resume address becomes the abort target (06 R186). -/
def State.trapRegion (s : State) (k : GKey) (r : TrapRec) : State × TrapRec :=
  match look s.groups k with
  | none => (s, r)
  | some g =>
    match g.region with
    | none => (s, r)
    | some slot =>
      match look s.regions slot with
      | none => (s, r)
      | some x => if x.owner = k then ((s.abortRegion slot 7).takeAbort k, { r with resume := x.target }) else (s, r)

/-- TrapEntry once OUTS is zero: the record is written, and the path enters handler mode, or the task ends (14 R337). -/
def State.enterTrap (s : State) (k : GKey) (r : TrapRec) : State :=
  let (t, r) := s.trapRegion k r
  match look t.groups k, look t.blocks k.blk with
  | some g, some b =>
    let g1 := g.record r
    if g.handler.isSome || b.trapv.isNone then
      (t.setGroup k { g1 with wait := .none, deferred := [] }).endTask b.task none
        (some (b.bid, k.gid, [r.word0, r.word1, r.word2, r.word3]))
    else t.setGroup k (g1.enterHandler r.path (b.trapv.getD 0xFFFFFFFF))
  | _, _ => t

/-- The record of a sequencer's fault (05 R158): LANES is 1 for the matrix sequencer and 2 for the copy sequencer. -/
def seqRec (q : QKey) (code : FaultCode) (detail : Nat) (pc : Word) (deferred : Bool) : TrapRec :=
  { code := code, detail := detail, pc := pc, lanes := if q.kind = .msq then 1 else 2, resume := 0, deferred := deferred, seq := true, path := 0 }

/-- A sequencer halts with its fault held for the producer group. -/
def Sequencer.halt (e : Sequencer) (r : TrapRec) : Sequencer :=
  { e with running := false, halted := true, fault := some r, wait := .none, pw := .none, deferred := [] }

/-- ERET: the lanes continue at RESUME, at a barrier where they waited in its wait; frozen ones become Live; handler mode ends with its last lane (DEDUCED, log entry 9). -/
def State.leaveTrap (s : State) (k : GKey) (lanes : Mask) : State :=
  s.onGroup k (fun g =>
    let rest := g.handling &&& ~~~lanes
    { (g.mapLanes lanes (fun _ x => { x with st := .live, pc := g.fr3, wait := g.heldBar.elim .none Prod.fst, marked := g.heldBar.elim false Prod.snd })) with
      handler := if rest = 0 then none else some rest
      heldBar := if rest = 0 then none else g.heldBar })

/-! ### Finishing an instruction and parking (02 R54) -/

/-- The switch marker: the group parks until OUTS is zero. The lanes kept are those of the path at one program counter, where a deferred fault of the park resumes (DEDUCED, log entry 10). Where both instructions of a pair are marked, the spec does not say which path a deferred fault of the park enters the handler on: the park keeps the mark of the one that the model runs first, the path that loses a clash of 02 R51 (DESIGN CHOICE, log entry 10). -/
def Group.mark (g : Group) (lanes : Mask) : Group :=
  match g.wait with
  | .none =>
    let alive := g.lanesWhere (fun l x => lanes.getLsbD l && (x.st == .live || (g.handling).getLsbD l))
    let resume := (g.lane (lowLane alive)).pc
    { g with wait := .park (g.lanesWhere (fun l x => alive.getLsbD l && x.pc == resume)) resume }
  | .park _ _ => g
  | _ => { g with owed := some lanes }

/-- Parks the issuer when the instruction carries the marker. -/
def State.mark (s : State) (m : Bool) : State :=
  if m then
    match s.cur with
    | .idle => s
    | .path k lanes _ => s.onGroup k (fun g => g.mark lanes)
    | .seq q => s.onSeq q (fun e => if e.wait = .none then { e with wait := .park 0 e.pc } else { e with owed := true })
  else s

/-- The issuer goes on to the instruction after. -/
def State.advance (s : State) (len : Nat) : State :=
  match s.cur with
  | .idle => s
  | .path k lanes _ => s.onGroup k (fun g => g.advance lanes (BitVec.ofNat 32 len))
  | .seq q => s.onSeq q (fun e => { e with pc := e.pc + BitVec.ofNat 32 len })

/-- The issuer goes to a program counter. -/
def State.jump (s : State) (pc : Word) : State :=
  match s.cur with
  | .idle => s
  | .path k lanes _ => s.onGroup k (fun g => g.mapLanes lanes (fun _ x => { x with pc := pc }))
  | .seq q => s.onSeq q (fun e => { e with pc := pc })

/-- The end of an ordinary instruction. -/
def State.finish (s : State) (m : Bool) (len : Nat) : State := (s.advance len).mark m

/-- The issuer drains OUTS before its instruction takes effect, and issues it again (02 R54, 05 R130, R142; 06 R181, R183; 09 R261). -/
def State.drain (s : State) : State :=
  match s.cur with
  | .idle => s
  | .path k lanes pc => s.onGroup k (fun g => { g with wait := .park lanes pc })
  | .seq q => s.onSeq q (fun e => { e with wait := .park 0 e.pc })

/-- The issuer's OUTS (02 R47). -/
def State.outs (s : State) : Nat :=
  match s.cur with
  | .idle => 0
  | .path k _ _ =>
    match look s.groups k with
    | none => 0
    | some g => g.outs
  | .seq q =>
    match look s.seqs q with
    | none => 0
    | some e => e.outs

/-- The issuer takes a group-level or sequencer wait and issues again when it ends. -/
def State.waitAt (s : State) (w : Wait) : State :=
  match s.cur with
  | .idle => s
  | .path k _ _ => s.onGroup k (fun g => { g with wait := w })
  | .seq q => s.onSeq q (fun e => { e with wait := w })

/-- The issuer takes a path-level wait at its instruction. -/
def State.pathWait (s : State) (w : PathWait) (m : Bool) : State :=
  match s.cur with
  | .idle => s
  | .path k lanes _ => s.onGroup k (fun g => g.mapLanes lanes (fun _ x => { x with wait := w, marked := m }))
  | .seq q => s.onSeq q (fun e => { e with pw := w, pwMarked := m })

/-! ### The completion of a park (02 R53, R57) -/

/-- The oldest deferred fault in issue order. -/
def oldest (l : List Deferred) : Option Deferred := minBy (fun d => d.order) l

/-- The words of v registers that the park leaves undefined take free values. -/
def undefineV (stamp : Nat) (clob : List (Nat × Mask)) (v : List VReg) : List VReg :=
  clob.foldl (fun v e => v.modify e.1 (fun x =>
    { x with lanes := x.lanes.mapIdx (fun i w => if e.2.getLsbD i then Config.free stamp (4096 + e.1) i else w) })) v

/-- The same of g or e registers. -/
def undefineG (stamp : Nat) (clob : List Nat) (g : List Word) : List Word := clob.foldl (fun w r => w.set r (Config.free stamp (8192 + r) 0)) g

/-- The pending destinations become defined, and the overwritten ones undefined (02 R53): for an instruction of a pair too. -/
def Group.settle (g : Group) (stamp : Nat) : Group :=
  { g with
    v := undefineV stamp g.clobV g.v, g := undefineG stamp g.clobG g.g, pendV := [], clobV := [], pendG := [], clobG := []
    view := g.view.map (fun x => { x with v := undefineV stamp g.clobV x.v, g := undefineG stamp g.clobG x.g, pendV := [], pendG := [] }) }

/-- The same for a sequencer. -/
def Sequencer.settle (e : Sequencer) (stamp : Nat) : Sequencer :=
  { e with e := undefineG stamp e.clob e.e, pend := [], clob := [] }

/-- The record of the oldest deferred fault, its DETAIL counting the others up to 63 (02 R57). -/
def deferredRec (ds : List Deferred) (path : Mask) (resume : Word) : Option TrapRec :=
  match oldest ds with
  | none => none
  | some d => some { code := d.code, detail := min (ds.length - 1) 63, pc := d.pc, lanes := d.lanes, resume := resume, deferred := true, seq := false, path := path }

/-- The park that completes a counted copy is its group's chip acquire, and merges the GWCT of its writes (09 R267, R271). -/
def Group.payAcquire (g : Group) (now : Nat) : Group :=
  match g.owedGwct with
  | none => g
  | some x => { g with owedGwct := none, gwct := max g.gwct x, floor := max g.floor now }

/-- The watchdog's interval restarts as its traps are delivered (14 R339). -/
def State.noteWatch (s : State) (k : GKey) (c : FaultCode) : State :=
  if c = .watchdog then s.onTask (s.groupTask k) (fun x => { x with lastProgress := s.ptime }) else s

/-- A group's park or trap drain is complete: OUTS is zero. Where the group's region has aborted in the wait, it takes the abort and the deferred faults of the wait are discarded (06 R185). -/
def State.unpark (s : State) (k : GKey) : State :=
  match look s.groups k with
  | none => s
  | some g =>
    if g.outs = 0 then
      let g1 := (g.settle s.freeCtr).payAcquire s.clock
      let aborts := g.region.isSome && g.abort.isSome
      match g.wait with
      | .park lanes resume =>
        let t := s.setGroup k { g1 with wait := .none }
        if aborts then t.takeAbort k
        else
          match deferredRec g.deferred lanes resume with
          | none => t
          | some r => t.enterTrap k r
      | .trap r =>
        let t := (s.setGroup k { g1 with wait := .none }).noteWatch k r.code
        match deferredRec (if aborts then [] else g.deferred) r.path r.pc with
        | none => t.enterTrap k r
        | some d => t.enterTrap k d
      | _ => s
    else s

/-- The instruction that issues traps: OUTS drains first (02 R57), at once when it is zero and no other instruction issues with it. A sequencer halts (05 R158). The lanes of a bad indirect target alone enter the handler (05 R134). -/
def State.raise (s : State) (e : Exc) : State :=
  match s.cur with
  | .idle => s
  | .path k lanes pc =>
    match look s.groups k with
    | none => s
    | some g =>
      let path := if e.code = .land ∨ e.code = .fetch then e.lanes.getD lanes else lanes
      let r : TrapRec := { code := e.code, detail := e.detail, pc := pc, lanes := e.lanes.getD lanes, resume := e.resume.getD pc, deferred := false, seq := false, path := path }
      let t := s.setGroup k { g with wait := .trap r }
      if g.view = none then t.unpark k else t
  | .seq q =>
    match look s.seqs q with
    | none => s
    | some x => s.onSeq q (fun y => y.halt (seqRec q e.code e.detail x.pc false))

/-- A sequencer's park is complete. -/
def State.unparkSeq (s : State) (q : QKey) : State :=
  match look s.seqs q with
  | none => s
  | some e =>
    if e.outs = 0 then
      match e.wait with
      | .park _ _ =>
        let e1 := { e.settle s.freeCtr with wait := .none }
        match oldest e.deferred with
        | none => { s with seqs := put s.seqs q e1 }
        | some d => { s with seqs := put s.seqs q (e1.halt (seqRec q d.code (min (e.deferred.length - 1) 63) d.pc true)) }
      | _ => s
    else s

/-! ### Issuing an instruction -/

/-- Rows of 03 R80: who may issue. -/
inductive Row
  | group | producer | gmx | copy | seqOnly | region | any
  deriving DecidableEq, Repr

/-- The issuing group is its block's producer group. -/
def State.isProducer (s : State) (k : GKey) : Bool :=
  match look s.blocks k.blk with
  | none => false
  | some b => b.producer == some k.gid

/-- The fault of 03 R80 for the current issuer. -/
def State.rowExc (s : State) (row : Row) : Option Exc :=
  match s.cur, row with
  | _, .any => none
  | .path _ _ _, .group => none
  | .path _ _ _, .region => none
  | .path k _ _, .producer => excIf (!(s.isProducer k)) (.of .context)
  | .path k _ _, .copy => excIf (!(s.isProducer k)) (.of .context)
  | .path _ _ _, _ => some (.of .context)
  | .seq q, .gmx => excIf (q.kind == .cst) (.of .context)
  | .seq q, .copy => excIf (q.kind == .msq) (.of .context)
  | .seq _, .seqOnly => none
  | .seq _, .region => some (.of .regionMisuse)
  | .seq _, _ => some (.of .context)
  | .idle, _ => none

/-- The group of the current issuer has an open region (06 R182). -/
def State.inRegion (s : State) : Bool :=
  match s.cur with
  | .path k _ _ =>
    match look s.groups k with
    | none => false
    | some g => g.region.isSome
  | _ => false

/-- Instructions that a group may not issue inside a region (06 R182). -/
def State.closedExc (s : State) (closed : Bool) : Option Exc := excIf (closed && s.inRegion) (.of .regionMisuse)

/-- g registers a group may name (03 R73), e registers a sequencer may name (R72). -/
def State.gLimit (s : State) : Nat :=
  match s.cur with
  | .idle => 512
  | .path k _ _ =>
    match look s.blocks k.blk with
    | none => 512
    | some b => b.gregs
  | .seq _ => 64

/-- v registers a group may name (02 R40). -/
def State.vLimit (s : State) : Nat :=
  match s.cur with
  | .path k _ _ =>
    match look s.blocks k.blk with
    | none => 256
    | some b => b.vregs
  | _ => 256

/-- A register past its allocation traps with ILLEGAL (03 R78). -/
def State.nameExc (s : State) (vs gs : List Nat) : Option Exc :=
  excIf (vs.any (fun r => decide (s.vLimit ≤ r)) || gs.any (fun r => decide (s.gLimit ≤ r))) (.of .illegal)

/-- A soft error's mark on a g or e register (17 R402). -/
def State.struckU (s : State) (r : Nat) : Bool :=
  match s.cur with
  | .idle => false
  | .path k _ _ =>
    match look s.groups k with
    | none => false
    | some g => g.struckNow.contains r
  | .seq q =>
    match look s.seqs q with
    | none => false
    | some e => e.struck.contains r

/-- POISON of a struck register that is read: DETAIL [23] = 1 and the register number (05 R157). -/
def State.struckExc (s : State) (reads : List Nat) : Option Exc :=
  match reads.filter s.struckU with
  | [] => none
  | r :: _ => some (.det .poison (2 ^ 23 + r))

/-- Runs an instruction of the current issuer: its first fault, or its effect. -/
def issue (s : State) (checks : List (Option Exc)) (eff : State → State) : Out :=
  match s.cur with
  | .idle => .refused .noIssuer
  | .path k _ _ =>
    match look s.groups k with
    | none => .fault .noSuchGroup
    | some _ =>
      match firstExc checks with
      | some e => .next (s.raise e)
      | none => .next (eff s)
  | .seq q =>
    match look s.seqs q with
    | none => .fault .noSuchGroup
    | some _ =>
      match firstExc checks with
      | some e => .next (s.raise e)
      | none => .next (eff s)

/-- A uniform instruction: the registers its fields name, those it reads, its own faults, its effect; then the issuer goes on (05 R124). -/
def uni (s : State) (m : Bool) (len : Nat) (row : Row) (closed : Bool) (names reads : List Nat) (own : List (Option Exc)) (eff : State → State) : Out :=
  issue s ([s.nameExc [] names, s.rowExc row, s.closedExc closed, s.struckExc reads] ++ own) (fun t => (eff t).finish m len)

/-- A uniform instruction that places the program counter itself. -/
def uniJump (s : State) (row : Row) (closed : Bool) (names reads : List Nat) (own : List (Option Exc)) (eff : State → State) : Out :=
  issue s ([s.nameExc [] names, s.rowExc row, s.closedExc closed, s.struckExc reads] ++ own) eff

end Sys2Proof.Machine
end

