-- ==== Sys2Proof/Machine/Num.lean ====
section
/-! DEFINITION. Number formats, rounding, conversions and the approximate functions (01 R12 to R29; 04 R107 to R111). Values are exact; every result is rounded once. -/

namespace Sys2Proof.Machine

/-- An exact value: NaN, an infinity, or a signed fraction (zero keeps its sign). The denominator is positive. -/
inductive Val
  | nan
  | inf (neg : Bool)
  | fin (neg : Bool) (num den : Nat)
  deriving DecidableEq, Repr

/-- A binary floating-point format of 01 R14: exponent and fraction widths, bias, the code of the largest finite magnitude, the code of infinity if there is one, and the canonical NaN. -/
structure Fmt where
  eb : Nat
  fb : Nat
  bias : Nat
  top : Nat
  inf : Option Nat
  nan : Nat
  deriving DecidableEq, Repr

/-- FP64. -/
def Fmt.fp64 : Fmt := { eb := 11, fb := 52, bias := 1023, top := 0x7FEFFFFFFFFFFFFF, inf := some 0x7FF0000000000000, nan := 0x7FF8000000000000 }
/-- FP32. -/
def Fmt.fp32 : Fmt := { eb := 8, fb := 23, bias := 127, top := 0x7F7FFFFF, inf := some 0x7F800000, nan := 0x7FC00000 }
/-- FP16. -/
def Fmt.fp16 : Fmt := { eb := 5, fb := 10, bias := 15, top := 0x7BFF, inf := some 0x7C00, nan := 0x7E00 }
/-- BF16. -/
def Fmt.bf16 : Fmt := { eb := 8, fb := 7, bias := 127, top := 0x7F7F, inf := some 0x7F80, nan := 0x7FC0 }
/-- E4M3: no infinity. -/
def Fmt.e4m3 : Fmt := { eb := 4, fb := 3, bias := 7, top := 0x7E, inf := none, nan := 0x7F }
/-- E5M2. -/
def Fmt.e5m2 : Fmt := { eb := 5, fb := 2, bias := 15, top := 0x7B, inf := some 0x7C, nan := 0x7E }
/-- E2M1: every code is finite. -/
def Fmt.e2m1 : Fmt := { eb := 2, fb := 1, bias := 1, top := 0x7, inf := none, nan := 0 }

/-- Bits of a format without its sign. -/
def Fmt.mag (f : Fmt) : Nat := f.eb + f.fb

/-- The fraction m × 2^(p − q). -/
def scaled (m p q : Nat) : Nat × Nat := if q ≤ p then (m * 2 ^ (p - q), 1) else (m, 2 ^ (q - p))

/-- The value of a code (01 R14). -/
def Fmt.value (f : Fmt) (code : Nat) : Val :=
  let neg := decide (code / 2 ^ f.mag % 2 = 1)
  let m := code % 2 ^ f.mag
  if f.inf = some m then .inf neg
  else if f.top < m then .nan
  else
    let e := m / 2 ^ f.fb
    let x := m % 2 ^ f.fb
    let r := if e = 0 then scaled x 1 (f.bias + f.fb) else scaled (2 ^ f.fb + x) e (f.bias + f.fb)
    .fin neg r.1 r.2

/-- Floor of the base-2 logarithm of num/den, both positive, plus a bias, cut below at 0. -/
def log2Floor (num den bias : Nat) : Nat :=
  let k := num.log2 + bias + 1
  let e := k - den.log2 - 1
  let r := scaled den e bias
  if r.1 ≤ num * r.2 then e else e - 1

/-- Whether a remainder rounds the magnitude up (01 R15): twice the remainder against the divisor, the parity of the quotient. -/
def roundsUp (rm : Rounding) (neg : Bool) (q rem d : Nat) : Bool :=
  match rm with
  | .rn => decide (d < 2 * rem) || (decide (2 * rem = d) && decide (q % 2 = 1))
  | .rz => false
  | .rd => neg && decide (0 < rem)
  | .ru => !neg && decide (0 < rem)

/-- The magnitude code of num/den rounded as if the exponent were unbounded above. -/
def Fmt.roundMag (f : Fmt) (rm : Rounding) (neg : Bool) (num den : Nat) : Nat :=
  if num = 0 then 0
  else
    let e := max 1 (log2Floor num den f.bias)
    -- quantum 2^(e - bias - fb)
    let r := if e ≤ f.bias + f.fb then (num * 2 ^ (f.bias + f.fb - e), den) else (num, den * 2 ^ (e - (f.bias + f.fb)))
    let q := r.1 / r.2
    let m := if roundsUp rm neg q (r.1 % r.2) r.2 then q + 1 else q
    (e - 1) * 2 ^ f.fb + m

/-- Puts the sign on a magnitude code. -/
def Fmt.signed (f : Fmt) (neg : Bool) (m : Nat) : Nat := if neg then 2 ^ f.mag + m else m

/-- The result of an overflow (01 R25). -/
def Fmt.overflow (f : Fmt) (rm : Rounding) (sat neg : Bool) : Nat :=
  let toTop := sat || rm = .rz || (rm = .rd && !neg) || (rm = .ru && neg)
  if toTop then f.signed neg f.top
  else
    match f.inf with
    | some i => f.signed neg i
    | none => f.nan

/-- Rounds an exact value once into a binary format (01 R24, R25; NaN R16). -/
def Fmt.round (f : Fmt) (rm : Rounding) (sat : Bool) (v : Val) : Nat :=
  match v with
  | .nan => f.nan
  | .inf neg =>
    match f.inf with
    | some i => f.signed neg i
    | none => if sat then f.signed neg f.top else f.nan
  | .fin neg num den =>
    let m := f.roundMag rm neg num den
    if f.top < m then f.overflow rm sat neg else f.signed neg m

/-- RoundNearestEven of 00 R8. -/
def Fmt.rn (f : Fmt) (v : Val) : Nat := f.round .rn false v

/-! ### Exact arithmetic -/

/-- Sign of a zero sum of opposite signs (IEEE 754): + except under rounding down. -/
def zeroSign (rm : Rounding) (a b : Bool) : Bool := if a = b then a else rm = .rd

/-- Exact sum; rm decides the sign of an exact zero. -/
def Val.add (rm : Rounding) : Val → Val → Val
  | .nan, _ => .nan
  | _, .nan => .nan
  | .inf a, .inf b => if a = b then .inf a else .nan
  | .inf a, _ => .inf a
  | _, .inf b => .inf b
  | .fin a n d, .fin b m e =>
    let x := n * e
    let y := m * d
    if a = b then .fin a (x + y) (d * e)
    else if x = y then .fin (zeroSign rm a b) 0 1
    else if y < x then .fin a (x - y) (d * e)
    else .fin b (y - x) (d * e)

/-- Negation. -/
def Val.neg : Val → Val
  | .nan => .nan
  | .inf a => .inf (!a)
  | .fin a n d => .fin (!a) n d

/-- Exact product. -/
def Val.mul : Val → Val → Val
  | .nan, _ => .nan
  | _, .nan => .nan
  | .inf a, .inf b => .inf (a != b)
  | .inf a, .fin b m _ => if m = 0 then .nan else .inf (a != b)
  | .fin a n _, .inf b => if n = 0 then .nan else .inf (a != b)
  | .fin a n d, .fin b m e => .fin (a != b) (n * m) (d * e)

/-- Signed numerator of a finite value over its denominator; 0 for the rest. -/
def Val.frac : Val → Int × Nat
  | .fin a n d => (if a then -(n : Int) else (n : Int), d)
  | _ => (0, 1)

/-- Order of the extended reals, −0 equal to +0: a < b. False with a NaN. -/
def Val.lt : Val → Val → Bool
  | .nan, _ => false
  | _, .nan => false
  | .inf a, .inf b => a && !b
  | .inf a, _ => a
  | _, .inf b => !b
  | .fin a n d, .fin b m e =>
    let x := Val.frac (.fin a n d)
    let y := Val.frac (.fin b m e)
    decide (x.1 * y.2 < y.1 * x.2)

/-- Equality of values, −0 equal to +0. False with a NaN. -/
def Val.eqv (a b : Val) : Bool :=
  match a, b with
  | .nan, _ => false
  | _, .nan => false
  | _, _ => !a.lt b && !b.lt a

/-- Is NaN. -/
def Val.isNan (v : Val) : Bool := v == .nan
/-- Sign, + for NaN. -/
def Val.sign : Val → Bool
  | .nan => false
  | .inf a => a
  | .fin a _ _ => a
/-- Is a zero. -/
def Val.isZero : Val → Bool
  | .fin _ n _ => n == 0
  | _ => false
/-- Is finite. -/
def Val.isFin : Val → Bool
  | .fin _ _ _ => true
  | _ => false

/-- minimumNumber of IEEE 754-2019: −0 below +0, a NaN loses (04 R107). -/
def Val.minNum (a b : Val) : Val :=
  if a.isNan then b else if b.isNan then a
  else if a.lt b then a else if b.lt a then b
  else if a.sign then a else b

/-- maximumNumber. -/
def Val.maxNum (a b : Val) : Val :=
  if a.isNan then b else if b.isNan then a
  else if a.lt b then b else if b.lt a then a
  else if a.sign then b else a

/-- Integer square root by bits, from 2^n down. -/
def isqrtFrom (x : Nat) : Nat → Nat → Nat
  | 0, r => if (r + 1) * (r + 1) ≤ x then r + 1 else r
  | n + 1, r => isqrtFrom x n (if (r + 2 ^ (n + 1)) * (r + 2 ^ (n + 1)) ≤ x then r + 2 ^ (n + 1) else r)

/-- Floor of the square root. -/
def isqrt (x : Nat) : Nat := isqrtFrom x (x.log2 / 2 + 1) 0

/-- The square root of num/den as a fraction correct to more than 2^-p relative, a last odd bit where it is inexact, so that it rounds as the exact root does. -/
def sqrtFrac (num den p : Nat) : Nat × Nat :=
  let k := p + 8 + den.log2
  let x := num * 2 ^ (2 * k) / den
  let r := isqrt x
  let exact := r * r == x && num * 2 ^ (2 * k) % den == 0
  (if exact then 2 * r else 2 * r + 1, 2 ^ (k + 1))

/-- Square root of a value for rounding into a format (04 R108). -/
def Val.sqrt (f : Fmt) : Val → Val
  | .nan => .nan
  | .inf a => if a then .nan else .inf false
  | .fin a n d => if n = 0 then .fin a 0 1 else if a then .nan else (let r := sqrtFrac n d f.fb; .fin false r.1 r.2)

/-- Rounds a value to an integer, keeping the sign of a zero result (04 R108). -/
def Val.roundInt (rm : Rounding) : Val → Val
  | .fin a n d => .fin a (let q := n / d; if roundsUp rm a q (n % d) d then q + 1 else q) 1
  | v => v

/-- An integer as a value. -/
def Val.ofInt (x : Int) : Val := .fin (decide (x < 0)) x.natAbs 1

/-- Float to integer: rounds by mode, clamps; NaN gives 0 (01 R27). -/
def Val.toIntClamp (rm : Rounding) (lo hi : Int) : Val → Int
  | .nan => 0
  | .inf a => if a then lo else hi
  | v => max lo (min hi (v.roundInt rm).frac.1)

/-- TwoSum of 00 R8: the rounded sum and its exact error; a zero error is +0. -/
def Fmt.twoSum (f : Fmt) (a b : Nat) : Nat × Nat :=
  let x := f.value a
  let y := f.value b
  let s := f.rn (x.add .rn y)
  let e := ((x.add .rn y).add .rn (f.value s).neg)
  (s, if e.isZero then 0 else f.rn e)

/-! ### E8M0 and DT8 -/

/-- Value of an E8M0 code (01 R18). -/
def e8m0Value (c : Nat) : Val := if c = 0xFF then .nan else (let r := scaled 1 c 127; .fin false r.1 r.2)

/-- Conversion to E8M0 (01 R29). -/
def toE8m0 : Val → Nat
  | .nan => 0xFF
  | .inf _ => 0xFF
  | .fin _ n d => if n = 0 then 0 else min 254 (log2Floor n d 127)

/-- Exponent of ten and fraction of a DT8 payload of 2 or more (01 R20): significand over 2^w, and the decade. -/
def dt8Parts (p : Nat) : Nat × Nat × Int :=
  if 0x40 ≤ p then (p % 32, 5, if p / 32 % 2 = 0 then 0 else -1)
  else if 0x20 ≤ p then (p % 8, 3, [1, 2, -2, -3].getD (p / 8 % 4) 0)
  else if 0x10 ≤ p then (p % 4, 2, [3, 4, -4, -5].getD (p / 4 % 4) 0)
  else if 0x08 ≤ p then (p % 2, 1, [5, 6, -6, -7].getD (p / 2 % 4) 0)
  else if 0x04 ≤ p then (0, 0, [7, 8, -8, -9].getD (p % 4) 0)
  else (0, 0, if p % 2 = 0 then 9 else -10)

/-- Magnitude of a DT8 payload of 2 or more as a fraction. -/
def dt8Mag (p : Nat) : Nat × Nat :=
  let r := dt8Parts p
  let sig := 2 ^ r.2.1 + 9 * r.1
  if 0 ≤ r.2.2 then (sig * 10 ^ r.2.2.toNat, 2 ^ r.2.1) else (sig, 2 ^ r.2.1 * 10 ^ (-r.2.2).toNat)

/-- Value of a DT8 code (01 R20). -/
def dt8Value (c : Nat) : Val :=
  let p := c % 128
  let s := decide (128 ≤ c % 256)
  if p = 0 then (if s then .nan else .fin false 0 1)
  else if p = 1 then .inf s
  else (let r := dt8Mag p; .fin s r.1 r.2)

/-- Distance of num/den from a payload's magnitude, as a numerator over den × its denominator. -/
def dt8Better (num den p q : Nat) : Bool :=
  let x := dt8Mag p
  let y := dt8Mag q
  let dx := (num * x.2 - x.1 * den) + (x.1 * den - num * x.2)
  let dy := (num * y.2 - y.1 * den) + (y.1 * den - num * y.2)
  let u := dx * y.2
  let v := dy * x.2
  decide (u < v) || (decide (u = v) && decide (p % 2 = 0) && decide (q % 2 = 1))

/-- The finite payload nearest to num/den; a tie goes to the payload that ends in 0 (01 R21; DEDUCED, log entry 11). -/
def dt8Nearest (num den : Nat) : Nat :=
  (List.range 126).foldl (fun best i => if dt8Better num den (i + 2) best then i + 2 else best) 2

/-- Conversion to DT8 (01 R21). -/
def toDt8 (sat : Bool) : Val → Nat
  | .nan => 0x80
  | .inf a => if a then 0x81 else 0x01
  | .fin a n d =>
    let s := if a then 128 else 0
    if n * (2 * 10 ^ 10) ≤ d then 0
    else if 145 * 10 ^ 7 * d ≤ n then s + (if sat then 2 else 1)
    else s + dt8Nearest n d

/-! ### Conversions between tagged formats (01 R23) -/

end Sys2Proof.Machine

namespace Sys2Proof
open Sys2Proof.Machine

/-- Bits of one element of a tag. -/
def Tag.width : Tag → Nat
  | .f16x2 | .bf16x2 => 16
  | .e4m3x4 | .e5m2x4 | .dt8x4 | .i8x4 | .e8m0x4 => 8
  | .e2m1x8 => 4
  | .f64 => 64
  | _ => 32

/-- Elements of a tag in one 32-bit register. -/
def Tag.count (t : Tag) : Nat := if t = .f64 then 1 else 32 / t.width

/-- The binary format of a tag's elements. -/
def Tag.fmt? : Tag → Option Fmt
  | .f32 => some .fp32
  | .f64 => some .fp64
  | .f16x2 => some .fp16
  | .bf16x2 => some .bf16
  | .e4m3x4 => some .e4m3
  | .e5m2x4 => some .e5m2
  | .e2m1x8 => some .e2m1
  | _ => none

/-- Kinds of source and destination in the table of 01 R23. -/
inductive NumKind
  | int | wide | fp8 | dt8 | e2m1 | e8m0 | other
  deriving DecidableEq, Repr

/-- The kind of a tag. -/
def Tag.kind : Tag → NumKind
  | .i32 | .pred | .i8x4 => .int
  | .f64 | .f32 | .f16x2 | .bf16x2 => .wide
  | .e4m3x4 | .e5m2x4 => .fp8
  | .dt8x4 => .dt8
  | .e2m1x8 => .e2m1
  | .e8m0x4 => .e8m0
  | _ => .other

end Sys2Proof

namespace Sys2Proof.Machine

/-- The pairs that the KL9 converts without a block scale (01 R23). -/
def convertible (src dst : Tag) : Bool :=
  match src.kind, dst.kind with
  | .int, .int | .int, .wide | .int, .fp8 | .int, .dt8 => true
  | .wide, .int | .wide, .wide | .wide, .fp8 | .wide, .dt8 | .wide, .e8m0 => true
  | .fp8, .int | .fp8, .wide | .fp8, .fp8 | .fp8, .dt8 => true
  | .dt8, .int | .dt8, .wide | .dt8, .fp8 | .dt8, .dt8 => true
  | .e2m1, .wide | .e2m1, .fp8 | .e2m1, .dt8 => true
  | .e8m0, .wide => true
  | _, _ => false

/-- An integer element as an exact integer, unsigned or two's complement. -/
def intValue (uns : Bool) (w code : Nat) : Int := if uns then ((code % 2 ^ w : Nat) : Int) else sext w code

end Sys2Proof.Machine

namespace Sys2Proof
open Sys2Proof.Machine

/-- Value of an element's code; integers by signedness. -/
def Tag.value (t : Tag) (uns : Bool) (code : Nat) : Val :=
  match t.fmt? with
  | some f => f.value code
  | none =>
    match t.kind with
    | .dt8 => dt8Value code
    | .e8m0 => e8m0Value code
    | _ => .ofInt (intValue (uns || t == .pred) t.width code)

end Sys2Proof

namespace Sys2Proof.Machine

/-- Smallest and largest integer of a width. -/
def intRange (uns : Bool) (w : Nat) : Int × Int :=
  if uns then (0, (2 ^ w : Nat) - 1) else (-((2 ^ (w - 1) : Nat) : Int), (2 ^ (w - 1) : Nat) - 1)

/-- The code of an exact integer in a width, wrapping. -/
def intCode (w : Nat) (x : Int) : Nat := (x % ((2 ^ w : Nat) : Int)).toNat

/-- Converts one element (01 R23 to R29): us and ud say whether an integer source or destination is unsigned. A PRED word counts as n32 even where it is neither 0 nor 1, of which 04 R112 says nothing (DESIGN CHOICE, log entry 52). -/
def convert (src : Tag) (us : Bool) (dst : Tag) (ud : Bool) (rm : Rounding) (sat : Bool) (code : Nat) : Nat :=
  if dst.kind = .int then
    let r := intRange ud dst.width
    if src.kind = .int then
      let x := intValue (us || src == .pred) src.width code
      intCode dst.width (if sat then max r.1 (min r.2 x) else x)
    else intCode dst.width ((src.value us code).toIntClamp rm r.1 r.2)
  else if src = .dt8x4 ∧ dst = .dt8x4 then code % 256
  else
    match dst.fmt? with
    | some f => f.round rm sat (src.value us code)
    | none => if dst.kind = .dt8 then toDt8 sat (src.value us code) else toE8m0 (src.value us code)

/-- Largest exponent of a scaled format (01 R28). -/
def emaxOf (t : Tag) : Nat := if t = .e2m1x8 then 2 else if t = .e4m3x4 then 8 else 15

/-- Multiplies a value by 2^(p − q). -/
def Val.scale (p q : Nat) : Val → Val
  | .fin a n d => if q ≤ p then .fin a (n * 2 ^ (p - q)) d else .fin a n (d * 2 ^ (q - p))
  | v => v

/-- ScaledConvert of 01 R28: the scale code and the element codes. -/
def scaledConvert (dst : Tag) (xs : List Val) : Nat × List Nat :=
  match dst.fmt? with
  | none => (0xFF, xs.map (fun _ => 0))
  | some f =>
    if xs.any (fun x => !x.isFin) then (0xFF, xs.map (fun _ => 0))
    else
      let amax := xs.foldl (fun m x => if (Val.fin false m.1 m.2).lt (match x with | .fin _ n d => .fin false n d | _ => .fin false 0 1) then (match x with | .fin _ n d => (n, d) | _ => m) else m) (0, 1)
      -- k + 127, clamped to 0..254
      let k := if amax.1 = 0 then 0 else min 254 (log2Floor amax.1 amax.2 (127 + 1000) - 1000 - emaxOf dst)
      (k, xs.map (fun x => f.round .rn true (x.scale 127 k)))

/-! ### Compares (03 R70, 04 R111) -/

/-- A float compare. -/
def fcompare (c : Cond) (a b : Val) : Bool :=
  match c with
  | .eq => a.eqv b
  | .ne => !a.eqv b
  | .lt => a.lt b
  | .le => a.lt b || a.eqv b
  | .gt => b.lt a
  | .ge => b.lt a || a.eqv b
  | .ord => !a.isNan && !b.isNan
  | .unord => a.isNan || b.isNan

/-! ### The approximate functions (04 R109; DESIGN CHOICE, log entry 5) -/

/-- Fixed-point ln 2 and 2π at 2^120. -/
def ln2Fix : Nat := 921350637599661305226344307672478454
/-- 2π at 2^120. -/
def twoPiFix : Nat := 8351785813007552717653752915327115494

/-- Taylor sum of e^u, u at 2^120, n terms from term number i. -/
def expSeries (u : Nat) : Nat → Nat → Nat → Nat
  | 0, _, _ => 0
  | n + 1, i, t => t + expSeries u n (i + 1) (t * u / ((i + 1) * 2 ^ 120))

/-- Taylor sum of sin or cos: terms of alternating sign, step two in the factorial. -/
def trigSeries (u : Int) : Nat → Nat → Int → Int
  | 0, _, _ => 0
  | n + 1, i, t => t + trigSeries u n (i + 2) (-(t * u * u / (((i + 1) * (i + 2) : Nat) * (2 ^ 240 : Nat) : Int)))

/-- Bits of log2 of m in [1, 2) at 2^200, by squaring: n bits as an integer. -/
def logBits : Nat → Nat → Nat → Nat
  | 0, _, acc => acc
  | n + 1, m, acc =>
    let q := m * m / 2 ^ 200
    if 2 ^ 201 ≤ q then logBits n (q / 2) (2 * acc + 1) else logBits n q (2 * acc)

/-- A finite FP32 value is within num/den of an exact one. -/
def within (v : Val) (y : Int × Nat) (b : Nat × Nat) : Bool :=
  match v with
  | .fin a n d =>
    let x := Val.frac (.fin a n d)
    decide (((x.1 * y.2 - y.1 * x.2).natAbs) * b.2 ≤ b.1 * (x.2 * y.2))
  | _ => false

/-- The spacing of FP32 at a magnitude, times n; `near` where the reference is not exact, whose error the bound then falls short by (log entry 5). -/
def ulps (near : Bool) (n : Nat) (y : Int × Nat) : Nat × Nat :=
  scaled (if near then n * 2 ^ 20 - 1 else n * 2 ^ 20) (if y.1 = 0 then 1 else max 1 (log2Floor y.1.natAbs y.2 127)) (150 + 20)

/-- The absolute bound of 2^-22, by the reference's own error short (04 R109). -/
def absBound : Nat × Nat := (2 ^ 30 - 1, 2 ^ 52)

/-- The free bits where they lie inside the bound, else the nearest FP32 value. -/
def pick (fn : Nat) (a : Nat) (y : Int × Nat) (bound : Nat × Nat) : Nat :=
  let w := (Config.approx fn (BitVec.ofNat 32 a)).toNat
  if within (Fmt.fp32.value w) y bound then w
  else Fmt.fp32.rn (.fin (decide (y.1 < 0)) y.1.natAbs y.2)

/-- 1 or 2^k for a fraction that is a power of two: numerator and denominator are powers of two after reduction. -/
def isPow2 (n d : Nat) : Bool := let g := Nat.gcd n d; (2 ^ (n / g).log2 == n / g) && (2 ^ (d / g).log2 == d / g)

/-- FRCP on FP32 bits. -/
def frcp32 (a : Nat) : Nat :=
  match Fmt.fp32.value a with
  | .nan => Fmt.fp32.nan
  | .inf s => Fmt.fp32.signed s 0
  | .fin s n d =>
    if n = 0 then Fmt.fp32.overflow .rn false s
    else
      let exact := Fmt.fp32.rn (.fin s d n)
      if isPow2 n d || !(Fmt.fp32.value exact).isFin then exact
      else pick 2 a (if s then -(d : Int) else (d : Int), n) (ulps false 1 ((d : Int), n))

/-- The reciprocal square root of a positive value, as a fraction: the reference of FRSQ. -/
def sqrtRef (n d : Nat) : Int × Nat := (((sqrtFrac d n 100).1 : Int), (sqrtFrac d n 100).2)

/-- FRSQ on FP32 bits. -/
def frsq32 (a : Nat) : Nat :=
  match Fmt.fp32.value a with
  | .nan => Fmt.fp32.nan
  | .inf s => if s then Fmt.fp32.nan else 0
  | .fin s n d =>
    if n = 0 then Fmt.fp32.overflow .rn false s
    else if s then Fmt.fp32.nan
    else
      pick 3 a (sqrtRef n d) (ulps true 2 (sqrtRef n d))

/-- The integer part, toward minus infinity, of a value. -/
def floorOf (s : Bool) (n d : Nat) : Int :=
  if s then -((n / d : Nat) : Int) - (if n % d = 0 then 0 else 1) else ((n / d : Nat) : Int)

/-- Two to the power of a value, as a fraction: the reference of FEXP2. -/
def exp2Ref (s : Bool) (n d : Nat) : Int × Nat :=
  let i := floorOf s n d
  if i < -200 then (0, 1)
  else
    let f := (n : Int) * (if s then -1 else 1) - i * d
    let e := expSeries (f.toNat * ln2Fix / d) 40 0 (2 ^ 120)
    let y := scaled e (i + 300).toNat (300 + 120)
    ((y.1 : Int), y.2)

/-- FEXP2 on FP32 bits. -/
def fexp232 (a : Nat) : Nat :=
  match Fmt.fp32.value a with
  | .nan => Fmt.fp32.nan
  | .inf s => if s then 0 else 0x7F800000
  | .fin s n d =>
    let i := floorOf s n d
    let y := exp2Ref s n d
    if 128 ≤ i then 0x7F800000
    else if n % d = 0 ∧ -149 ≤ i then Fmt.fp32.rn (.fin false y.1.natAbs y.2)
    else pick 5 a y (ulps true 2 y)

/-- The logarithm of a positive value to base 2, as a fraction: the reference of FLOG2. -/
def log2Ref (n d : Nat) : Int × Nat :=
  let e := log2Floor n d 300
  let m := scaled (n * 2 ^ 200) 300 e
  (((e : Int) - 300) * ((2 ^ 64 : Nat) : Int) + logBits 64 (m.1 / (d * m.2)) 0, 2 ^ 64)

/-- FLOG2 on FP32 bits. -/
def flog232 (a : Nat) : Nat :=
  match Fmt.fp32.value a with
  | .nan => Fmt.fp32.nan
  | .inf s => if s then Fmt.fp32.nan else 0x7F800000
  | .fin s n d =>
    if n = 0 then 0xFF800000
    else if s then Fmt.fp32.nan
    else if n = d then 0
    else
      let y := log2Ref n d
      let near := decide (d ≤ 2 * n) && decide (n ≤ 2 * d)
      pick 6 a y (if near then absBound else ulps true 2 y)

/-- Sine or cosine of a value in turns, as a fraction: the reference of FSIN and FCOS. -/
def trigRef (cos s : Bool) (n d : Nat) : Int × Nat :=
  let u : Int := ((n % d * twoPiFix / d : Nat) : Int)
  let t := if cos then trigSeries u 30 0 ((2 ^ 120 : Nat) : Int) else trigSeries u 30 1 u
  (if s && !cos then -t else t, 2 ^ 120)

/-- FSIN and FCOS on FP32 bits: the argument in turns, reduced exactly. -/
def ftrig32 (cos : Bool) (a : Nat) : Nat :=
  match Fmt.fp32.value a with
  | .nan => Fmt.fp32.nan
  | .inf _ => Fmt.fp32.nan
  | .fin s n d =>
    let r := n % d
    if (4 * r) % d = 0 then
      -- a multiple of a quarter turn
      let q := 4 * r / d
      let q := if s then (4 - q) % 4 else q
      let k := if cos then (q + 1) % 4 else q
      if k = 1 then 0x3F800000 else if k = 3 then 0xBF800000
      else if n = 0 ∧ s ∧ !cos then 0x80000000 else 0
    else
      pick (if cos then 8 else 7) a (trigRef cos s n d) absBound

end Sys2Proof.Machine
end

