-- ==== Sys2Proof/Machine/Flags.lean ====
section
/-! DEFINITION. Conditions and tag rules. The KL9 keeps no flags register (01 R16): what plays a flag's part is the condition code of 03 R70, the PRED result and the tag a result carries (01 R36, R37). -/

namespace Sys2Proof.Machine

/-- An integer compare (03 R70); codes 6 and 7 never reach it. -/
def icompare (c : Cond) (a b : Int) : Bool :=
  match c with
  | .eq => decide (a = b)
  | .ne => decide (a ≠ b)
  | .lt => decide (a < b)
  | .le => decide (a ≤ b)
  | .gt => decide (b < a)
  | .ge => decide (b ≤ a)
  | .ord | .unord => false

/-- Compare of two words as i32, or as n32 where u is set. -/
def wcompare (c : Cond) (u : Bool) (a b : Word) : Bool :=
  if u then icompare c (a.toNat : Int) (b.toNat : Int) else icompare c a.toInt b.toInt

/-- Tags that integer sources, offsets, conditions and selectors carry: RAW, I32, PRED (01 R37). -/
def intTag (t : Tag) : Bool := t == .raw || t == .i32 || t == .pred
/-- Tags that TRX and integer atomic operands carry. -/
def rawTag (t : Tag) : Bool := t == .raw || t == .i32
/-- Any tag but POISON, which 01 R36 has checked before. -/
def anyTag (_ : Tag) : Bool := true
/-- The float tags of 01 R37. -/
def floatTag (t : Tag) : Bool := t == .f32 || t == .f16x2 || t == .bf16x2 || t == .f64
/-- Float tags without F64 (04 R109). -/
def shortFloatTag (t : Tag) : Bool := t == .f32 || t == .f16x2 || t == .bf16x2
/-- Packed tags that UNPACK takes (04 R114). -/
def packedTag (t : Tag) : Bool :=
  t == .f16x2 || t == .bf16x2 || t == .e4m3x4 || t == .e5m2x4 || t == .dt8x4 || t == .e2m1x8 || t == .i8x4 || t == .e8m0x4

/-- Tag of AND, OR and XOR: PRED only from two PRED (01 R37). -/
def logicTag (a b : Tag) : Tag := if a = .pred ∧ b = .pred then .pred else .raw

/-- The tag of the second register of a pair written with a tag: F64HI after F64 (01 R34). -/
def hiTag (t : Tag) : Tag := if t = .f64 then .f64hi else t

/-- Tag of register number k of a load's destination (06 R166). -/
def loadTagAt (t : Tag) (k : Nat) : Tag := if k % 2 = 1 then hiTag t else t

end Sys2Proof.Machine
end

