-- ==== Sys2Proof/Machine/Operands.lean ====
section
/-! DEFINITION. Operand forms: v and spec9 sources with their tag checks, float operands by element, FP64 pairs, addresses, parameter blocks. -/

namespace Sys2Proof.Machine

/-- The group of the issuing path. -/
def State.curGroup (s : State) : Option Group :=
  match s.cur with
  | .path k _ _ => look s.groups k
  | _ => none

/-- Tag of a v register of the issuing group. -/
def State.tagOf (s : State) (r : Nat) : Tag :=
  match s.curGroup with
  | none => .raw
  | some g => g.tag r

/-- One lane's word of a v register of the issuing group; pos is the operand position. -/
def State.vread (s : State) (pos r l : Nat) : Word :=
  match s.curGroup with
  | none => 0
  | some g => g.vread s.freeCtr pos r l

/-- Writes the issuing path's lanes of a v register, and its tag. -/
def State.vwrite (s : State) (r : Nat) (t : Tag) (f : Nat → Word) : State :=
  match s.cur with
  | .path k lanes _ => s.onGroup k (fun g => g.vwrite r t lanes f)
  | _ => s

/-- One lane's word of a spec9 source: a v register, or a g register that gives every lane the same word (03 R63). -/
def State.sread (s : State) (pos : Nat) (x : Src) (l : Nat) : Word :=
  match x with
  | .v r => s.vread pos r.toNat l
  | .g r => s.readU pos r.toNat

/-- v registers a spec9 field names. -/
def srcV : Src → List Nat
  | .v r => [r.toNat]
  | .g _ => []
/-- g registers a spec9 field names. -/
def srcG : Src → List Nat
  | .v _ => []
  | .g r => [r.toNat]

/-- A source whose tag is checked (01 R36): a v register with its operand position and the tags accepted, or a g register. -/
inductive Opnd
  | v (pos r : Nat) (ok : Tag → Bool)
  | g (r : Nat)

/-- A spec9 source with the tags accepted. -/
def opnd (pos : Nat) (x : Src) (ok : Tag → Bool) : Opnd :=
  match x with
  | .v r => .v pos r.toNat ok
  | .g r => .g r.toNat

/-- POISON of one source. -/
def State.poisonExc (s : State) : Opnd → Option Exc
  | .v pos r _ => excIf (s.tagOf r == .poison) (.det .poison pos)
  | .g r => s.struckExc [r]

/-- TAG of one source. -/
def State.tagExc (s : State) : Opnd → Option Exc
  | .v pos r ok => excIf (!ok (s.tagOf r)) (.det .tag pos)
  | .g _ => none

/-- The source checks of 01 R36: POISON in operand order, then TAG in operand order. -/
def State.sourceExcs (s : State) (ops : List Opnd) : List (Option Exc) := ops.map s.poisonExc ++ ops.map s.tagExc

/-- A lane instruction: the v and g registers its fields name, its sources, its own faults, its effect; then the path goes on (04 R101). -/
def lan (s : State) (m : Bool) (len : Nat) (vs gs : List Nat) (ops : List Opnd) (own : List (Option Exc)) (eff : State → State) : Out :=
  issue s ([s.nameExc vs gs, s.rowExc .group] ++ s.sourceExcs ops ++ own) (fun t => (eff t).finish m len)

/-! ### Float operands -/

/-- Element k, of width w, of a register value. -/
def elem (w k x : Nat) : Nat := x / 2 ^ (w * k) % 2 ^ w

/-- Packs element codes, element 0 lowest. -/
def packElems (w : Nat) : List Nat → Nat
  | [] => 0
  | c :: r => c % 2 ^ w + 2 ^ w * packElems w r

/-- A float source's bits in one lane: 64 for an F64 pair, else 32 (04 R103). -/
def State.fbits (s : State) (t : Tag) (pos : Nat) (x : Src) (l : Nat) : Nat :=
  if t = .f64 then
    match x with
    | .v r => pairVal (s.vread pos r.toNat l) (s.vread pos (r.toNat + 1) l)
    | .g r => pairVal (s.readU pos r.toNat) (s.readU pos (r.toNat + 1))
  else (s.sread pos x l).toNat

/-- The checks of one float source under the chosen tag: F64 needs F64HI above it (01 R37). That the register above an odd F64 source is looked at, so that its POISON comes before the TAG of the odd number, is the model's (DESIGN CHOICE, log entry 57). -/
def fopnds (t : Tag) (pos : Nat) (x : Src) (ok : Tag → Bool) : List Opnd :=
  match x with
  | .v r => if t = .f64 then [.v pos r.toNat ok, .v pos (r.toNat + 1) (· == .f64hi)] else [.v pos r.toNat ok]
  | .g r => if t = .f64 then [.g r.toNat, .g (r.toNat + 1)] else [.g r.toNat]

/-- Register number of a spec9 source. -/
def srcNum : Src → Nat
  | .v r => r.toNat
  | .g r => r.toNat

/-- An odd register of an F64 source traps with TAG (04 R103). -/
def oddExc (t : Tag) (pos : Nat) (x : Src) : Option Exc :=
  excIf (t == .f64 && srcNum x % 2 == 1) (.det .tag pos)

/-- An F64 destination is an even register whose pair lies in the allocation, or TAG (04 R103). -/
def State.f64Dest (s : State) (t : Tag) (vd : Nat) : Option Exc :=
  excIf (t == .f64 && (vd % 2 == 1 || decide (s.vLimit ≤ vd + 1))) (.of .tag)

/-- Writes a float result: F64 and F64HI for a pair. -/
def State.fwrite (s : State) (vd : Nat) (t : Tag) (f : Nat → Nat) : State :=
  if t = .f64 then
    (s.vwrite vd .f64 (fun l => BitVec.ofNat 32 (f l))).vwrite (vd + 1) .f64hi (fun l => BitVec.ofNat 32 (f l / 2 ^ 32))
  else s.vwrite vd t (fun l => BitVec.ofNat 32 (f l))

/-- The format of a float tag. -/
def fmtOf (t : Tag) : Fmt := t.fmt?.getD .fp32

/-- Applies an element function to each element of the chosen tag. -/
def elems1 (t : Tag) (f : Fmt → Nat → Nat) (a : Nat) : Nat :=
  packElems t.width ((List.range t.count).map (fun k => f (fmtOf t) (elem t.width k a)))
/-- Two sources. -/
def elems2 (t : Tag) (f : Fmt → Nat → Nat → Nat) (a b : Nat) : Nat :=
  packElems t.width ((List.range t.count).map (fun k => f (fmtOf t) (elem t.width k a) (elem t.width k b)))
/-- Three sources. -/
def elems3 (t : Tag) (f : Fmt → Nat → Nat → Nat → Nat) (a b c : Nat) : Nat :=
  packElems t.width ((List.range t.count).map (fun k => f (fmtOf t) (elem t.width k a) (elem t.width k b) (elem t.width k c)))

/-! ### Addresses (06 R160, R162) -/

/-- Serial and resident chip fields make the identifier, bits [63:34] of a pointer; the offset is the rest (15 R343). -/
def ptrId (p : Nat) : Nat := p / 2 ^ 34 % 2 ^ 30
/-- Offset field of a pointer. -/
def ptrOff (p : Nat) : Nat := p % 2 ^ 34
/-- The flat address of a byte of object space. -/
def flat (id off : Nat) : Nat := id * 2 ^ 34 + off

/-- Sign extension of a displacement field. -/
def disp {n : Nat} (x : BitVec n) : Int := x.toInt

/-- A lane's index: its offset register as i32, scaled (06 R160). -/
def State.laneIdx (s : State) (off : LaneOffset) (l : Nat) : Int :=
  match off with
  | .none => 0
  | .scaled vo k => (s.vread 0 vo.toNat l).toInt * 2 ^ k.toNat

/-- Registers and checks of an offset operand. -/
def offV : LaneOffset → List Nat
  | .none => []
  | .scaled vo _ => [vo.toNat]
/-- Its source check: RAW, I32 or PRED. Its operand position in DETAIL is 0, where 05 R157 names none (DESIGN CHOICE, log entry 57). -/
def offOpnds : LaneOffset → List Opnd
  | .none => []
  | .scaled vo _ => [.v 0 vo.toNat intTag]

/-- Consecutive register numbers. -/
def regs (r n : Nat) : List Nat := (List.range n).map (r + ·)

/-- Word i of a parameter block or a task record. -/
def pw (b : List Word) (i : Nat) : Nat := (b.getD i 0).toNat
/-- 64-bit value of words i and i + 1. -/
def pd (b : List Word) (i : Nat) : Nat := pw b i + 2 ^ 32 * pw b (i + 1)
/-- Bits h to l of word i. -/
def pf (b : List Word) (i h l : Nat) : Nat := bits (pw b i) h l

/-- Word i of a parameter block at ga (03 R71). -/
def State.param (s : State) (ga i : Nat) : Word := s.readU 0 (ga + i)
/-- 64-bit value of words i and i + 1. -/
def State.param2 (s : State) (ga i : Nat) : Nat := pairVal (s.param ga i) (s.param ga (i + 1))

end Sys2Proof.Machine
end

