-- ==== Sys2Proof/Machine/LaneFloat.lean ====
section
/-! DEFINITION. Lane floating-point arithmetic and compares (04 R103, R107 to R111). -/

namespace Sys2Proof.Machine

/-- One float source: the tag of va chooses the arithmetic (01 R37). -/
def float1 (s : State) (m : Bool) (vd va : BitVec 8) (ok : Tag → Bool) (f : Fmt → Nat → Nat) : Out :=
  let t := s.tagOf va.toNat
  lan s m 8 [vd.toNat, va.toNat] [] (fopnds t 0 (.v va) ok) [oddExc t 0 (.v va), s.f64Dest t vd.toNat]
    (fun u => u.fwrite vd.toNat t (fun l => elems1 t f (s.fbits t 0 (.v va) l)))

/-- Two float sources of one tag. -/
def float2 (s : State) (m : Bool) (len : Nat) (vd va vb : BitVec 8) (f : Fmt → Nat → Nat → Nat) : Out :=
  let t := s.tagOf va.toNat
  lan s m len [vd.toNat, va.toNat, vb.toNat] [] (fopnds t 0 (.v va) floatTag ++ fopnds t 1 (.v vb) (· == t))
    [oddExc t 0 (.v va), oddExc t 1 (.v vb), s.f64Dest t vd.toNat]
    (fun u => u.fwrite vd.toNat t (fun l => elems2 t f (s.fbits t 0 (.v va) l) (s.fbits t 1 (.v vb) l)))

/-- Sum of two codes, rounded. -/
def fadd (rm : Rounding) (f : Fmt) (a b : Nat) : Nat := f.round rm false ((f.value a).add rm (f.value b))
/-- Difference. -/
def fsub (rm : Rounding) (f : Fmt) (a b : Nat) : Nat := f.round rm false ((f.value a).add rm (f.value b).neg)
/-- Product. -/
def fmul (rm : Rounding) (f : Fmt) (a b : Nat) : Nat := f.round rm false ((f.value a).mul (f.value b))
/-- a × b + x rounded once. -/
def ffma (rm : Rounding) (f : Fmt) (a b x : Nat) : Nat := f.round rm false (((f.value a).mul (f.value b)).add rm (f.value x))
/-- minimumNumber. -/
def fmin (f : Fmt) (a b : Nat) : Nat := f.rn ((f.value a).minNum (f.value b))
/-- maximumNumber. -/
def fmax (f : Fmt) (a b : Nat) : Nat := f.rn ((f.value a).maxNum (f.value b))
/-- Square root. -/
def fsqrt (rm : Rounding) (f : Fmt) (a : Nat) : Nat := f.round rm false ((f.value a).sqrt f)
/-- Sign 0; a NaN gives the canonical NaN. -/
def fabs (f : Fmt) (a : Nat) : Nat := if (f.value a).isNan then f.nan else a % 2 ^ f.mag
/-- Sign inverted; a NaN gives the canonical NaN. -/
def fneg (f : Fmt) (a : Nat) : Nat := if (f.value a).isNan then f.nan else if a / 2 ^ f.mag % 2 = 1 then a % 2 ^ f.mag else 2 ^ f.mag + a % 2 ^ f.mag
/-- Rounded to an integer by mode. -/
def frint (rm : Rounding) (f : Fmt) (a : Nat) : Nat := f.rn ((f.value a).roundInt rm)
/-- An approximate function: packed elements are widened, evaluated as FP32 and rounded (04 R109). -/
def viaFp32 (g : Nat → Nat) (f : Fmt) (a : Nat) : Nat :=
  if f = .fp32 then g a else f.rn (Fmt.fp32.value (g (Fmt.fp32.rn (f.value a))))

/-- FADD. -/
def execFadd (m : Bool) (vd va vb : BitVec 8) (s : State) : Out := float2 s m 4 vd va vb (fadd .rn)
/-- FSUB. -/
def execFsub (m : Bool) (vd va vb : BitVec 8) (s : State) : Out := float2 s m 4 vd va vb (fsub .rn)
/-- FMUL. -/
def execFmul (m : Bool) (vd va vb : BitVec 8) (s : State) : Out := float2 s m 4 vd va vb (fmul .rn)
/-- FMIN. -/
def execFmin (m : Bool) (vd va vb : BitVec 8) (s : State) : Out := float2 s m 4 vd va vb fmin
/-- FMAX. -/
def execFmax (m : Bool) (vd va vb : BitVec 8) (s : State) : Out := float2 s m 4 vd va vb fmax
/-- FFMA: c is a pair under F64. -/
def execFfma (m : Bool) (vd va vb : BitVec 8) (c : Src) (rm : Rounding) (s : State) : Out :=
  let t := s.tagOf va.toNat
  lan s m 8 ([vd.toNat, va.toNat, vb.toNat] ++ srcV c) (srcG c)
    (fopnds t 0 (.v va) floatTag ++ fopnds t 1 (.v vb) (· == t) ++ fopnds t 2 c (· == t))
    [oddExc t 0 (.v va), oddExc t 1 (.v vb), oddExc t 2 c, s.f64Dest t vd.toNat]
    (fun u => u.fwrite vd.toNat t (fun l => elems3 t (ffma rm) (s.fbits t 0 (.v va) l) (s.fbits t 1 (.v vb) l) (s.fbits t 2 c l)))
/-- FRCP. -/
def execFrcp (m : Bool) (vd va : BitVec 8) (s : State) : Out := float1 s m vd va shortFloatTag (viaFp32 frcp32)
/-- FRSQ. -/
def execFrsq (m : Bool) (vd va : BitVec 8) (s : State) : Out := float1 s m vd va shortFloatTag (viaFp32 frsq32)
/-- FSQRT. -/
def execFsqrt (m : Bool) (vd va : BitVec 8) (rm : Rounding) (s : State) : Out := float1 s m vd va floatTag (fsqrt rm)
/-- FEXP2. -/
def execFexp2 (m : Bool) (vd va : BitVec 8) (s : State) : Out := float1 s m vd va shortFloatTag (viaFp32 fexp232)
/-- FLOG2. -/
def execFlog2 (m : Bool) (vd va : BitVec 8) (s : State) : Out := float1 s m vd va shortFloatTag (viaFp32 flog232)
/-- FSIN. -/
def execFsin (m : Bool) (vd va : BitVec 8) (s : State) : Out := float1 s m vd va shortFloatTag (viaFp32 (ftrig32 false))
/-- FCOS. -/
def execFcos (m : Bool) (vd va : BitVec 8) (s : State) : Out := float1 s m vd va shortFloatTag (viaFp32 (ftrig32 true))
/-- FABS. -/
def execFabs (m : Bool) (vd va : BitVec 8) (s : State) : Out := float1 s m vd va floatTag fabs
/-- FNEG. -/
def execFneg (m : Bool) (vd va : BitVec 8) (s : State) : Out := float1 s m vd va floatTag fneg
/-- FFLOOR. -/
def execFfloor (m : Bool) (vd va : BitVec 8) (s : State) : Out := float1 s m vd va floatTag (frint .rd)
/-- FCEIL. -/
def execFceil (m : Bool) (vd va : BitVec 8) (s : State) : Out := float1 s m vd va floatTag (frint .ru)
/-- FTRUNC. -/
def execFtrunc (m : Bool) (vd va : BitVec 8) (s : State) : Out := float1 s m vd va floatTag (frint .rz)
/-- FRINT. -/
def execFrint (m : Bool) (vd va : BitVec 8) (rm : Rounding) (s : State) : Out := float1 s m vd va floatTag (frint rm)

/-- TwoSum of one element, the error +0 where the sum is not finite (04 R110). -/
def ftwosum (f : Fmt) (a b : Nat) : Nat × Nat :=
  let r := f.twoSum a b
  (r.1, if (f.value r.1).isFin then r.2 else 0)

/-- FTWOSUM: the sum to the first destination register, the error to the second. An odd vd traps with ILLEGAL unless the tag is F64 (04 R110). -/
def execFtwosum (m : Bool) (vd va vb : BitVec 8) (s : State) : Out :=
  let t := s.tagOf va.toNat
  let second := if t = .f64 then vd.toNat + 2 else vd.toNat + 1
  issue s ([s.nameExc [vd.toNat, va.toNat, vb.toNat] [], excIf (shortFloatTag t && vd.toNat % 2 == 1) (.of .illegal), s.rowExc .group]
      ++ s.sourceExcs (fopnds t 0 (.v va) floatTag ++ fopnds t 1 (.v vb) (· == t))
      ++ [oddExc t 0 (.v va), oddExc t 1 (.v vb), excIf (t == .f64 && (vd.toNat % 4 != 0 || decide (s.vLimit ≤ vd.toNat + 3))) (.of .tag)])
    (fun u =>
      ((u.fwrite vd.toNat t (fun l => elems2 t (fun f a b => (ftwosum f a b).1) (s.fbits t 0 (.v va) l) (s.fbits t 1 (.v vb) l))).fwrite second t
        (fun l => elems2 t (fun f a b => (ftwosum f a b).2) (s.fbits t 0 (.v va) l) (s.fbits t 1 (.v vb) l))).finish m 8)

/-- The shared form of the two integer compares: result PRED. -/
def laneCompare (s : State) (m : Bool) (vd va vb : BitVec 8) (f : Word → Word → Bool) : Out :=
  lan s m 8 [vd.toNat, va.toNat, vb.toNat] [] [.v 0 va.toNat intTag, .v 1 vb.toNat intTag] []
    (fun t => t.vwrite vd.toNat .pred (fun l => wordOfBool (f (s.vread 0 va.toNat l) (s.vread 1 vb.toNat l))))

/-- ISET: compare as i32. -/
def execIset (m : Bool) (vd va vb : BitVec 8) (cond : Cond) (s : State) : Out := laneCompare s m vd va vb (wcompare cond false)

/-- NSET: compare as n32. -/
def execNset (m : Bool) (vd va vb : BitVec 8) (cond : Cond) (s : State) : Out := laneCompare s m vd va vb (wcompare cond true)

/-- FSET: a packed tag needs the condition in both elements (04 R111). -/
def execFset (m : Bool) (vd va vb : BitVec 8) (cond : Cond) (s : State) : Out :=
  let t := s.tagOf va.toNat
  lan s m 8 [vd.toNat, va.toNat, vb.toNat] [] (fopnds t 0 (.v va) floatTag ++ fopnds t 1 (.v vb) (· == t))
    [oddExc t 0 (.v va), oddExc t 1 (.v vb)]
    (fun u => u.vwrite vd.toNat .pred (fun l => wordOfBool ((List.range t.count).all (fun k =>
      fcompare cond ((fmtOf t).value (elem t.width k (s.fbits t 0 (.v va) l))) ((fmtOf t).value (elem t.width k (s.fbits t 1 (.v vb) l)))))))

end Sys2Proof.Machine
end

