-- ==== Sys2Proof/Machine/LaneInt.lean ====
section
/-! DEFINITION. Lane integer arithmetic, logic and bit fields (04 R105, R106). -/

namespace Sys2Proof.Machine

/-- One source: result tag and word from va's. -/
def lane1 (s : State) (m : Bool) (len : Nat) (vd va : BitVec 8) (ok : Tag → Bool) (tag : Tag → Tag) (f : Word → Word) : Out :=
  lan s m len [vd.toNat, va.toNat] [] [.v 0 va.toNat ok] []
    (fun t => t.vwrite vd.toNat (tag (s.tagOf va.toNat)) (fun l => f (s.vread 0 va.toNat l)))

/-- Two v sources. -/
def lane2 (s : State) (m : Bool) (len : Nat) (vd va vb : BitVec 8) (ok : Tag → Bool) (tag : Tag → Tag → Tag) (f : Word → Word → Word) : Out :=
  lan s m len [vd.toNat, va.toNat, vb.toNat] [] [.v 0 va.toNat ok, .v 1 vb.toNat ok] []
    (fun t => t.vwrite vd.toNat (tag (s.tagOf va.toNat) (s.tagOf vb.toNat)) (fun l => f (s.vread 0 va.toNat l) (s.vread 1 vb.toNat l)))

/-- Two v sources and a spec9 source. -/
def lane3 (s : State) (m : Bool) (vd va vb : BitVec 8) (c : Src) (ok : Tag → Bool) (tag : Tag) (f : Word → Word → Word → Word) : Out :=
  lan s m 8 ([vd.toNat, va.toNat, vb.toNat] ++ srcV c) (srcG c) [.v 0 va.toNat ok, .v 1 vb.toNat ok, opnd 2 c ok] []
    (fun t => t.vwrite vd.toNat tag (fun l => f (s.vread 0 va.toNat l) (s.vread 1 vb.toNat l) (s.sread 2 c l)))

/-- Bits [63:32] of the signed product. -/
def mulHiI (a b : Word) : Word := wordOfInt (a.toInt * b.toInt / ((2 ^ 32 : Nat) : Int))
/-- Bits [63:32] of the unsigned product. -/
def mulHiN (a b : Word) : Word := BitVec.ofNat 32 (a.toNat * b.toNat / 2 ^ 32)
/-- Smaller as i32. -/
def minI (a b : Word) : Word := if a.toInt ≤ b.toInt then a else b
/-- Larger as i32. -/
def maxI (a b : Word) : Word := if a.toInt ≤ b.toInt then b else a
/-- Smaller as n32. -/
def minN (a b : Word) : Word := if a.toNat ≤ b.toNat then a else b
/-- Larger as n32. -/
def maxN (a b : Word) : Word := if a.toNat ≤ b.toNat then b else a
/-- SHL: 0 from a count of 32. -/
def shlW (a b : Word) : Word := if b.toNat < 32 then a <<< b.toNat else 0
/-- SHR: zero fill, 0 from a count of 32. -/
def shrW (a b : Word) : Word := if b.toNat < 32 then a >>> b.toNat else 0
/-- SAR: copies of bit 31, 32 of them from a count of 32. -/
def sarW (a b : Word) : Word := a.sshiftRight (min b.toNat 31)
/-- Leading zeros; 32 for 0 (04 R106). -/
def clzW (a : Word) : Word := BitVec.ofNat 32 (if a.toNat = 0 then 32 else 31 - a.toNat.log2)
/-- Bit j moved to bit 31 − j. -/
def brevW (a : Word) : Word := a.reverse
/-- BitExtract of 04 R106. -/
def bitExtract (a posw lenw : Word) (sgn : Bool) : Word :=
  let p := min (posw.toNat % 256) 32
  let n := min (lenw.toNat % 256) (32 - p)
  let x := a.toNat / 2 ^ p % 2 ^ n
  if sgn && decide (0 < n) then wordOfInt (sext n x) else BitVec.ofNat 32 x
/-- BitInsert of 04 R106. -/
def bitInsert (a base posw lenw : Word) : Word :=
  let p := min (posw.toNat % 256) 32
  let n := min (lenw.toNat % 256) (32 - p)
  let mask := BitVec.ofNat 32 ((2 ^ n - 1) * 2 ^ p)
  (base &&& ~~~mask) ||| (BitVec.ofNat 32 (a.toNat * 2 ^ p) &&& mask)
/-- One byte of ByteSelect: selector nibble k over the eight bytes of a and b. -/
def selectByte (a b : Word) (k : Nat) : Nat :=
  let y := (a.toNat + 2 ^ 32 * b.toNat) / 2 ^ (8 * (k % 8)) % 256
  if k / 8 % 2 = 1 then (if 128 ≤ y then 255 else 0) else y
/-- ByteSelect of 04 R106. -/
def byteSelect (a b sel : Word) : Word :=
  BitVec.ofNat 32 (packElems 8 ((List.range 4).map (fun i => selectByte a b (sel.toNat / 2 ^ (4 * i) % 16))))
/-- |a| as i32; −2^31 stays or saturates. -/
def absW (sat : Bool) (a : Word) : Word := if a = 0x80000000 then (if sat then 0x7FFFFFFF else a) else if a.toInt < 0 then -a else a
/-- −a as i32. -/
def negW (sat : Bool) (a : Word) : Word := if a = 0x80000000 ∧ sat then 0x7FFFFFFF else -a

/-- The result tag I32 of integer arithmetic (01 R37). -/
def toI32 (_ : Tag) : Tag := .i32
/-- The result tag RAW of shifts and bit fields. -/
def toRaw (_ : Tag) : Tag := .raw

/-- IADD. -/
def execIadd (m : Bool) (vd va vb : BitVec 8) (s : State) : Out := lane2 s m 4 vd va vb intTag (fun _ _ => .i32) (· + ·)
/-- ISUB. -/
def execIsub (m : Bool) (vd va vb : BitVec 8) (s : State) : Out := lane2 s m 4 vd va vb intTag (fun _ _ => .i32) (· - ·)
/-- IMUL. -/
def execImul (m : Bool) (vd va vb : BitVec 8) (s : State) : Out := lane2 s m 4 vd va vb intTag (fun _ _ => .i32) (· * ·)
/-- IMULHI. -/
def execImulhi (m : Bool) (vd va vb : BitVec 8) (s : State) : Out := lane2 s m 4 vd va vb intTag (fun _ _ => .i32) mulHiI
/-- NMULHI. -/
def execNmulhi (m : Bool) (vd va vb : BitVec 8) (s : State) : Out := lane2 s m 4 vd va vb intTag (fun _ _ => .i32) mulHiN
/-- IMIN. -/
def execImin (m : Bool) (vd va vb : BitVec 8) (s : State) : Out := lane2 s m 4 vd va vb intTag (fun _ _ => .i32) minI
/-- IMAX. -/
def execImax (m : Bool) (vd va vb : BitVec 8) (s : State) : Out := lane2 s m 4 vd va vb intTag (fun _ _ => .i32) maxI
/-- NMIN. -/
def execNmin (m : Bool) (vd va vb : BitVec 8) (s : State) : Out := lane2 s m 4 vd va vb intTag (fun _ _ => .i32) minN
/-- NMAX. -/
def execNmax (m : Bool) (vd va vb : BitVec 8) (s : State) : Out := lane2 s m 4 vd va vb intTag (fun _ _ => .i32) maxN
/-- AND. -/
def execVand (m : Bool) (vd va vb : BitVec 8) (s : State) : Out := lane2 s m 4 vd va vb anyTag logicTag (· &&& ·)
/-- OR. -/
def execVor (m : Bool) (vd va vb : BitVec 8) (s : State) : Out := lane2 s m 4 vd va vb anyTag logicTag (· ||| ·)
/-- XOR. -/
def execVxor (m : Bool) (vd va vb : BitVec 8) (s : State) : Out := lane2 s m 4 vd va vb anyTag logicTag (· ^^^ ·)
/-- SHL. -/
def execShl (m : Bool) (vd va vb : BitVec 8) (s : State) : Out := lane2 s m 4 vd va vb anyTag (fun _ _ => .raw) shlW
/-- SHR. -/
def execShr (m : Bool) (vd va vb : BitVec 8) (s : State) : Out := lane2 s m 4 vd va vb anyTag (fun _ _ => .raw) shrW
/-- SAR. -/
def execSar (m : Bool) (vd va vb : BitVec 8) (s : State) : Out := lane2 s m 4 vd va vb anyTag (fun _ _ => .raw) sarW
/-- MOV: with va's tag (04 R105, R117). -/
def execMov (m : Bool) (vd va : BitVec 8) (s : State) : Out := lane1 s m 4 vd va anyTag (fun t => t) (fun a => a)
/-- IADDI. -/
def execIaddi (m : Bool) (vd va imm : BitVec 8) (s : State) : Out := lane1 s m 4 vd va intTag toI32 (fun a => a + imm.signExtend 32)
/-- ANDI. -/
def execAndi (m : Bool) (vd va imm : BitVec 8) (s : State) : Out := lane1 s m 4 vd va anyTag toRaw (fun a => a &&& imm.setWidth 32)
/-- ORI. -/
def execOri (m : Bool) (vd va imm : BitVec 8) (s : State) : Out := lane1 s m 4 vd va anyTag toRaw (fun a => a ||| imm.setWidth 32)
/-- XORI. -/
def execXori (m : Bool) (vd va imm : BitVec 8) (s : State) : Out := lane1 s m 4 vd va anyTag toRaw (fun a => a ^^^ imm.setWidth 32)
/-- SHLI. -/
def execShli (m : Bool) (vd va : BitVec 8) (sh : BitVec 5) (s : State) : Out := lane1 s m 4 vd va anyTag toRaw (fun a => shlW a (sh.setWidth 32))
/-- SHRI. -/
def execShri (m : Bool) (vd va : BitVec 8) (sh : BitVec 5) (s : State) : Out := lane1 s m 4 vd va anyTag toRaw (fun a => shrW a (sh.setWidth 32))
/-- SARI. -/
def execSari (m : Bool) (vd va : BitVec 8) (sh : BitVec 5) (s : State) : Out := lane1 s m 4 vd va anyTag toRaw (fun a => sarW a (sh.setWidth 32))
/-- MOVI. -/
def execMovi (m : Bool) (vd imm : BitVec 8) (s : State) : Out :=
  lan s m 4 [vd.toNat] [] [] [] (fun t => t.vwrite vd.toNat .i32 (fun _ => imm.signExtend 32))
/-- IMAD. -/
def execImad (m : Bool) (vd va vb : BitVec 8) (c : Src) (s : State) : Out := lane3 s m vd va vb c intTag .i32 (fun a b x => a * b + x)
/-- POPC. -/
def execPopc (m : Bool) (vd va : BitVec 8) (s : State) : Out := lane1 s m 8 vd va anyTag toI32 (fun a => BitVec.ofNat 32 (popCount a))
/-- CLZ. -/
def execClz (m : Bool) (vd va : BitVec 8) (s : State) : Out := lane1 s m 8 vd va anyTag toI32 clzW
/-- BREV. -/
def execBrev (m : Bool) (vd va : BitVec 8) (s : State) : Out := lane1 s m 8 vd va anyTag toRaw brevW
/-- BFE. -/
def execBfe (m : Bool) (vd va vb : BitVec 8) (c : Src) (sgn : Bool) (s : State) : Out :=
  lane3 s m vd va vb c anyTag .raw (fun a p n => bitExtract a p n sgn)
/-- BFI: vb is the base, c the position, e the length. -/
def execBfi (m : Bool) (vd va vb : BitVec 8) (c e : Src) (s : State) : Out :=
  lan s m 8 ([vd.toNat, va.toNat, vb.toNat] ++ srcV c ++ srcV e) (srcG c ++ srcG e)
    [.v 0 va.toNat anyTag, .v 1 vb.toNat anyTag, opnd 2 c anyTag, opnd 3 e anyTag] []
    (fun t => t.vwrite vd.toNat .raw (fun l => bitInsert (s.vread 0 va.toNat l) (s.vread 1 vb.toNat l) (s.sread 2 c l) (s.sread 3 e l)))
/-- PRMT. -/
def execPrmt (m : Bool) (vd va vb : BitVec 8) (c : Src) (s : State) : Out := lane3 s m vd va vb c anyTag .raw byteSelect
/-- SEL: the data sources carry one tag, which the result takes (04 R106). -/
def execSel (m : Bool) (vd va vb : BitVec 8) (c : Src) (s : State) : Out :=
  lan s m 8 ([vd.toNat, va.toNat, vb.toNat] ++ srcV c) (srcG c)
    [.v 0 va.toNat anyTag, .v 1 vb.toNat (· == s.tagOf va.toNat), opnd 2 c intTag] []
    (fun t => t.vwrite vd.toNat (s.tagOf va.toNat) (fun l => if s.sread 2 c l ≠ 0 then s.vread 0 va.toNat l else s.vread 1 vb.toNat l))
/-- IABS. -/
def execIabs (m : Bool) (vd va : BitVec 8) (sat : Bool) (s : State) : Out := lane1 s m 8 vd va intTag toI32 (absW sat)
/-- INEG. -/
def execIneg (m : Bool) (vd va : BitVec 8) (sat : Bool) (s : State) : Out := lane1 s m 8 vd va intTag toI32 (negW sat)
/-- IADD3. -/
def execIadd3 (m : Bool) (vd va vb : BitVec 8) (c : Src) (s : State) : Out := lane3 s m vd va vb c intTag .i32 (fun a b x => a + b + x)
/-- MOVG. -/
def execMovg (m : Bool) (vd gc : BitVec 8) (s : State) : Out :=
  lan s m 8 [vd.toNat] [gc.toNat] [.g gc.toNat] [] (fun t => t.vwrite vd.toNat .raw (fun _ => s.readU 2 gc.toNat))

end Sys2Proof.Machine
end

