-- ==== Sys2Proof/Machine/LaneExchange.lean ====
section
/-! DEFINITION. Exchanges, votes, reductions and per-lane values (04 R118 to R123; 02 R59). -/

namespace Sys2Proof.Machine

/-- Lanes of a shuffle segment (04 R118). -/
def segLanes : SegWidth → Nat
  | .w32 => 32
  | .w16 => 16
  | .w8 => 8
  | .w4 => 4
  | .w2 => 2

/-- A shuffle: the source lane from the segment's base, the lane's place in it and its c word. -/
def shuffle (s : State) (m : Bool) (vd va : BitVec 8) (c : Src) (w : SegWidth) (from_ : Nat → Nat → Nat → Nat) : Out :=
  lan s m 8 ([vd.toNat, va.toNat] ++ srcV c) (srcG c) [.v 0 va.toNat anyTag, opnd 2 c anyTag] []
    (fun t => t.vwrite vd.toNat (s.tagOf va.toNat) (fun l =>
      let n := segLanes w
      s.vread 0 va.toNat (l - l % n + from_ n (l % n) (s.sread 2 c l).toNat)))

/-- SHFL. -/
def execShfl (m : Bool) (vd va : BitVec 8) (c : Src) (w : SegWidth) (s : State) : Out := shuffle s m vd va c w (fun n _ x => x % n)
/-- SHFLUP. -/
def execShflup (m : Bool) (vd va : BitVec 8) (c : Src) (w : SegWidth) (s : State) : Out :=
  shuffle s m vd va c w (fun _ i x => if x ≤ i then i - x else i)
/-- SHFLDN. The sum i + x is compared unbounded: whether it wraps modulo 2^32 first, 04 R118 does not say (DESIGN CHOICE, log entry 52). -/
def execShfldn (m : Bool) (vd va : BitVec 8) (c : Src) (w : SegWidth) (s : State) : Out :=
  shuffle s m vd va c w (fun n i x => if i + x < n then i + x else i)
/-- SHFLX. -/
def execShflx (m : Bool) (vd va : BitVec 8) (c : Src) (w : SegWidth) (s : State) : Out := shuffle s m vd va c w (fun n i x => Nat.xor i (x % n))

/-- A quad exchange: the source position from a lane's position in its quad (04 R119). -/
def quad (s : State) (m : Bool) (vd va : BitVec 8) (from_ : Nat → Nat) : Out :=
  lan s m 8 [vd.toNat, va.toNat] [] [.v 0 va.toNat anyTag] []
    (fun t => t.vwrite vd.toNat (s.tagOf va.toNat) (fun l => s.vread 0 va.toNat (l - l % 4 + from_ (l % 4))))

/-- QSWAPH. -/
def execQswaph (m : Bool) (vd va : BitVec 8) (s : State) : Out := quad s m vd va (fun p => Nat.xor p 1)
/-- QSWAPV. -/
def execQswapv (m : Bool) (vd va : BitVec 8) (s : State) : Out := quad s m vd va (fun p => Nat.xor p 2)
/-- QSWAPD. -/
def execQswapd (m : Bool) (vd va : BitVec 8) (s : State) : Out := quad s m vd va (fun p => Nat.xor p 3)
/-- QBCAST. -/
def execQbcast (m : Bool) (vd va : BitVec 8) (k : BitVec 2) (s : State) : Out := quad s m vd va (fun _ => k.toNat)

/-- va is pending in some active lane (02 R53): a vote's result is undefined (04 R120). -/
def State.pendingVote (s : State) (va : Nat) : Bool := s.curGroup.elim false (fun g => (g.pendVNow va &&& s.curLanes) != 0)

/-- Active lanes that satisfy a test. -/
def State.active (s : State) (p : Nat → Bool) : Mask := maskOf ((lanesOf s.curLanes).filter p)

/-- A vote: one word to a g register for the path. -/
def vote (s : State) (m : Bool) (ge va : BitVec 8) (vs : List Nat) (gs : List Nat) (ops : List Opnd) (r : Word) : Out :=
  lan s m 8 (va.toNat :: vs) (ge.toNat :: gs) ops []
    (fun t => t.writeU ge.toNat (if s.pendingVote va.toNat then s.undef 1 0 else r))

/-- The BALLOT mask (04 R120). -/
def State.ballotMask (s : State) (va : Nat) : Mask := s.active (fun l => s.vread 0 va l != 0)

/-- VOTEALL. -/
def execVoteall (m : Bool) (ge va : BitVec 8) (s : State) : Out :=
  vote s m ge va [] [] [.v 0 va.toNat intTag] (wordOfBool (s.ballotMask va.toNat == s.curLanes))
/-- VOTEANY. -/
def execVoteany (m : Bool) (ge va : BitVec 8) (s : State) : Out :=
  vote s m ge va [] [] [.v 0 va.toNat intTag] (wordOfBool (s.ballotMask va.toNat != 0))
/-- BALLOT. -/
def execBallot (m : Bool) (ge va : BitVec 8) (s : State) : Out :=
  vote s m ge va [] [] [.v 0 va.toNat intTag] (s.ballotMask va.toNat)
/-- BPLANE: how many qualified active lanes have the bit set. -/
def execBplane (m : Bool) (ge va vb : BitVec 8) (c : Src) (s : State) : Out :=
  vote s m ge va (vb.toNat :: srcV c) (srcG c) [.v 0 va.toNat anyTag, .v 1 vb.toNat anyTag, opnd 2 c anyTag]
    (BitVec.ofNat 32 (popMask (s.active (fun l => s.vread 1 vb.toNat l != 0 && (s.vread 0 va.toNat l).getLsbD ((s.sread 2 c l).toNat % 32)))))
/-- MATCH: active lanes equal to the lowest one. -/
def execMatchLanes (m : Bool) (ge va : BitVec 8) (s : State) : Out :=
  vote s m ge va [] [] [.v 0 va.toNat anyTag]
    (s.active (fun l => s.vread 0 va.toNat l == s.vread 0 va.toNat (lowLane s.curLanes)))

/-- The REDUX operations that take F32. -/
def reduxFloat : ReduxOp → Bool
  | .fadd | .fmin | .fmax => true
  | _ => false

/-- Identity of 04 R122. -/
def reduxIdentity : ReduxOp → Word
  | .add | .or | .xor | .nmax => 0
  | .and | .nmin => 0xFFFFFFFF
  | .min => 0x7FFFFFFF
  | .max => 0x80000000
  | .fadd => 0x80000000
  | .fmin => 0x7F800000
  | .fmax => 0xFF800000

/-- An FP32 operation on words. -/
def fword (f : Fmt → Nat → Nat → Nat) (a b : Word) : Word := BitVec.ofNat 32 (f .fp32 a.toNat b.toNat)

/-- Combine of 04 R122. -/
def reduxCombine (op : ReduxOp) (a b : Word) : Word :=
  match op with
  | .add => a + b
  | .min => minI a b
  | .max => maxI a b
  | .nmin => minN a b
  | .nmax => maxN a b
  | .and => a &&& b
  | .or => a ||| b
  | .xor => a ^^^ b
  | .fadd => fword (fadd .rn) a b
  | .fmin => fword fmin a b
  | .fmax => fword fmax a b

/-- Combines neighbours. -/
def pairUp (f : Word → Word → Word) : List Word → List Word
  | a :: b :: r => f a b :: pairUp f r
  | l => l

/-- The fixed tree over 32 leaves. -/
def tree32 (f : Word → Word → Word) (xs : List Word) : Word :=
  (pairUp f (pairUp f (pairUp f (pairUp f (pairUp f xs))))).headD 0

/-- REDUX. -/
def execRedux (m : Bool) (ge va : BitVec 8) (op : ReduxOp) (s : State) : Out :=
  lan s m 8 [va.toNat] [ge.toNat] [.v 0 va.toNat (fun t => if reduxFloat op then t == .f32 else intTag t)] []
    (fun t => t.writeU ge.toNat (tree32 (reduxCombine op)
      ((List.range 32).map (fun l => if s.curLanes.getLsbD l then s.vread 0 va.toNat l else reduxIdentity op))))

/-- LANEID. -/
def execLaneid (m : Bool) (vd : BitVec 8) (s : State) : Out :=
  lan s m 8 [vd.toNat] [] [] [] (fun t => t.vwrite vd.toNat .i32 (fun l => BitVec.ofNat 32 l))

/-- GROUPID of the issuing group. -/
def State.curGid (s : State) : Nat :=
  match s.cur with
  | .path k _ _ => k.gid
  | _ => 0

/-- The 64-bit clock count of a core (05 R150): the difference between cores is fixed and its size open. -/
def State.coreClock (s : State) (core : Nat) : Nat := s.clock + Config.coreClockOffset (256 * s.resets + core)

/-- READSR values of 04 R123. -/
def State.laneSr (s : State) (k : LaneSr) (l : Nat) : Word :=
  match k with
  | .slot => BitVec.ofNat 32 (s.curGid * 32 + l)
  | .below => BitVec.ofNat 32 (2 ^ l - 1)
  | .upTo => BitVec.ofNat 32 (2 ^ (l + 1) - 1)
  | .laneMask => s.curLanes
  | .segId => BitVec.ofNat 32 s.curSeg.seg
  | .clock => BitVec.ofNat 32 (s.coreClock (s.coreOf s.curSeg))

/-- READSR. -/
def execReadsr (m : Bool) (vd : BitVec 8) (k : LaneSr) (s : State) : Out :=
  lan s m 8 [vd.toNat] [] [] [] (fun t => t.vwrite vd.toNat .i32 (fun l => s.laneSr k l))

end Sys2Proof.Machine
end

