-- ==== Sys2Proof/Machine/Slots.lean ====
section
/-! DEFINITION. Fetching an instruction's words (03 R62), paths (02 R48, R49), readiness and the two-level scheduler's sets (08 R233 to R238). -/

namespace Sys2Proof.Machine

/-- The object that serves an offset of an identifier on this chip, a split rewriting the identifier (15 R345, R360): identifier, offset, descriptor. -/
def State.served (s : State) : Nat → Nat → Nat → Option (Nat × Nat × Desc)
  | 0, _, _ => none
  | n + 1, id, off =>
    match look s.objs id with
    | none => none
    | some d =>
      match d.split with
      | none => some (id, off, d)
      | some (b, up) => if off < b then some (id, off, d) else State.served s n up (off - b)

/-- Attribute bits of 07 R223. -/
def attrL (a : Word) : Bool := a.getLsbD 0
/-- M. -/
def attrM (a : Word) : Bool := a.getLsbD 1
/-- R. -/
def attrR (a : Word) : Bool := a.getLsbD 2
/-- W. -/
def attrW (a : Word) : Bool := a.getLsbD 3
/-- X. -/
def attrX (a : Word) : Bool := a.getLsbD 4
/-- Z. -/
def attrZ (a : Word) : Bool := a.getLsbD 5
/-- SPLIT. -/
def attrSplit (a : Word) : Bool := a.getLsbD 6

/-- Splits an object can have gone through: its serials bound them. -/
def splitFuel : Nat := 262144

/-- The flat address of a word of code that can be fetched: aligned, inside the code object, in a frame with X (03 R62). -/
def State.codeAt (s : State) (blk : Nat) (pc : Word) : Option Nat :=
  match look s.blocks blk with
  | none => none
  | some b =>
    if pc.toNat % 4 ≠ 0 then none
    else
      match s.served splitFuel (ptrId b.code) (ptrOff b.code + pc.toNat) with
      | none => none
      | some (id, off, d) => if off + 4 ≤ d.len ∧ attrX d.attrs then some (flat id off) else none

/-- A sector of object space holds poisoned data (17 R399), an error in DRAM that cannot be corrected among it. -/
def State.poisonedSector (s : State) (x : Nat) : Bool := s.poison.contains x || s.flaws.any (fun f => f.sector == x && !f.correctable)

/-- The sector of a flat address holds poisoned data. -/
def State.poisonedAt (s : State) (a : Nat) : Bool := s.poisonedSector (a / 64)

/-- The word of code at a flat address is not known: its frame was written while its task was in the table (03 R62), or it lies in a context area (14 R321). -/
def State.codeUnknown (s : State) (a : Nat) : Bool := s.stale.contains (a / 65536) || s.blur.any (fun r => decide (r.1 < a + 4) && decide (a < r.2))

/-- The word of code at a flat address: undefined where it is not known. -/
def State.codeWord (s : State) (a : Nat) : Word := if s.codeUnknown a then s.undef 30001 (a / 4) else s.mem.word a

/-- What the fetch path of a block has read of the sector of a flat address at another chip, with the code of a read that failed; none while it has not come. -/
def State.farSector (s : State) (blk a : Nat) : Option (Nat × List Byte) :=
  (s.far.find? (fun r => r.who == .code blk && r.addr == a / 64 * 64)).elim none (fun r => r.got)

/-- Bytes at another chip are to be read for the fetch path or the HTS, once. -/
def State.farWant (s : State) (w : FarBy) (a n : Nat) : State :=
  if s.far.any (fun r => r.who == w && r.addr == a) then s else { s with far := s.far ++ [{ who := w, addr := a, bytes := n, sent := false, got := none }] }

/-- A reader waits for an answer. -/
def State.farOpen (s : State) (w : FarBy) : Bool := s.far.any (fun r => r.who == w && r.got.isNone)

/-- What a reader has read at other chips is forgotten. -/
def State.farForget (s : State) (w : FarBy) : State := { s with far := s.far.filter (fun r => !(r.who == w)) }

/-- The word at a flat address from a sector that the fetch path has read at another chip. Whether its frame has X has been checked there. -/
def sectorWord (a : Nat) (x : Nat × List Byte) : Except FaultCode Word :=
  if x.1 = 0x15 then .error .poison
  else if x.1 ≠ 0 ∨ x.2.length < a % 64 + 4 then .error .fetch
  else .ok (wordLE ((x.2.drop (a % 64)).take 4))

/-- The word of code at a program counter, or the fault of its fetch: in this chip's memory, or as the fetch path has read it at another chip; none while it has not come (03 R62; 17 R400). -/
def State.codeRead (s : State) (blk : Nat) (pc : Word) : Option (Except FaultCode Word) :=
  match s.codeAt blk pc, look s.blocks blk with
  | some a, _ => some (if s.poisonedAt a then .error .poison else .ok (s.codeWord a))
  | none, none => some (.error .fetch)
  | none, some b =>
    let off := ptrOff b.code + pc.toNat
    if pc.toNat % 4 ≠ 0 ∨ 2 ^ 34 ≤ off ∨ (s.served splitFuel (ptrId b.code) off).isSome then some (.error .fetch)
    else (s.farSector blk (flat (ptrId b.code) off)).map (sectorWord off)

/-- The sector of a program counter's word is to be read at another chip where it has not come. -/
def State.codeWant (s : State) (blk : Nat) (pc : Word) : State :=
  match s.codeRead blk pc, look s.blocks blk with
  | none, some b => s.farWant (.code blk) (flat (ptrId b.code) (ptrOff b.code + pc.toNat) / 64 * 64) 64
  | _, _ => s

/-- The instruction of two words, or ILLEGAL (03 R78). -/
def decoded (w0 w1 : Word) : Except FaultCode Instr :=
  match decodeWords w0 w1 with
  | .ok i => .ok i
  | .error _ => .error .illegal

/-- The instruction at a program counter, or the fault of its fetch or its decoding; none while its words have not come from another chip (03 R62, R78; 17 R400). -/
def State.fetch? (s : State) (blk : Nat) (pc : Word) : Option (Except FaultCode Instr) :=
  match s.codeRead blk pc with
  | none => none
  | some (.error c) => some (.error c)
  | some (.ok w0) =>
    if twoWords w0 then
      (s.codeRead blk (pc + 4)).map (fun r => match r with
        | .error c => .error c
        | .ok w1 => decoded w0 w1)
    else some (decoded w0 0)

/-- The instruction at a program counter, or its fault. -/
def State.fetch (s : State) (blk : Nat) (pc : Word) : Except FaultCode Instr := (s.fetch? blk pc).getD (.error .fetch)

/-- An instruction has not come yet from the other chip that holds its code. -/
def State.fetchWaits (s : State) (blk : Nat) (pc : Word) : Bool := (s.fetch? blk pc).isNone

/-- Variable-latency instructions, which need a transaction-table entry to issue (02 R52). -/
def isVariable : Instr → Bool
  | .ld .. | .st .. | .lds .. | .sts .. | .atom .. | .atoms .. | .trx .. | .ballotScratchpad .. => true
  | .gld .. | .gst .. | .glds .. | .gsts .. | .gatom .. => true
  | .cpyc .. | .fbstat .. | .fbplan .. | .oalloc .. | .ofree .. | .opin .. | .ounpin .. | .ogroup .. => true
  | .oloc .. | .osplit .. | .oattr .. | .launch .. | .launchb .. | .patch .. | .tdec .. | .tkill .. => true
  | _ => false

/-- Lanes that may issue now: in handler mode only the handler path (05 R154), else live lanes in no path-level wait. -/
def Group.issuing (g : Group) : Mask :=
  g.lanesWhere (fun l x => x.wait == .none &&
    (match g.handler with
     | some h => h.getLsbD l && (x.st == .live || x.st == .frozen)
     | none => x.st == .live))

/-- A path: its lanes, program counter and age (02 R48, R49). -/
structure PathOf where
  lanes : Mask
  pc : Word
  age : Nat
  deriving DecidableEq, Repr

/-- The lanes of a mask that stand at a program counter. -/
def Group.atPc (g : Group) (m : Mask) (pc : Word) : Mask := g.lanesWhere (fun l x => m.getLsbD l && x.pc == pc)

/-- The path of lane l within a mask; its age is the largest of its lanes (02 R49). -/
def Group.pathAt (g : Group) (m : Mask) (l : Nat) : PathOf :=
  let pc := (g.lane l).pc
  let ls := g.atPc m pc
  { lanes := ls, pc := pc, age := maxOf ((lanesOf ls).map (fun i => (g.lane i).age)) }

/-- The paths that may issue, by lowest lane. -/
def Group.paths (g : Group) : List PathOf :=
  let m := g.issuing
  ((lanesOf m).filter (fun l => (g.pathAt m l).lanes.getLsbD l && lowLane (g.pathAt m l).lanes == l)).map (g.pathAt m)

/-- A path's next instruction takes a transaction-table entry (02 R52). -/
def State.needsEntry (s : State) (k : GKey) (p : PathOf) : Bool :=
  match s.fetch k.blk p.pc with
  | .ok i => isVariable i
  | .error _ => false

/-- A path that must wait for a transaction-table entry (02 R52). -/
def State.tableFull (s : State) (k : GKey) (p : PathOf) : Bool := s.needsEntry k p && !({ s with cur := .path k p.lanes p.pc }).entryFree

/-- A path that has its instruction, and the transaction-table entry that the instruction needs. -/
def State.canIssue (s : State) (k : GKey) (p : PathOf) : Bool := !s.fetchWaits k.blk p.pc && !s.tableFull k p

/-- One more entry fills the core's table, or the group's part of it (02 R52). -/
def State.lastEntry (s : State) (k : GKey) (p : PathOf) : Bool :=
  let t := { s with cur := .path k p.lanes p.pc }
  decide (Config.txnPerGroup ≤ t.agentTxns t.curAgent + 1) || decide (Config.txnPerCore ≤ t.coreTxns (t.coreOf t.curSeg) + 1)

/-- A group's task is not ENDING and its block is on its cores. -/
def State.blockRuns (s : State) (b : Nat) : Bool :=
  match look s.blocks b with
  | none => false
  | some x =>
    !x.stopping && !x.saved && !x.swapped &&
      (match look s.tasks x.task with
       | none => false
       | some t => t.st != .ending)

/-- A group in no group-level wait, with no abort to take, some path of which can issue (08 R235). -/
def State.groupReady (s : State) (k : GKey) : Bool :=
  match look s.groups k with
  | none => false
  | some g => g.wait == .none && !g.ended && g.abort.isNone && s.blockRuns k.blk && g.paths.any (s.canIssue k)

/-- A group is parked: every live path waits, or the group does (08 R235). A short wait never parks it. -/
def State.groupParked (s : State) (k : GKey) : Bool :=
  match look s.groups k with
  | none => false
  | some g => !g.ended && (g.wait != .none || g.abort.isSome || g.issuing == 0)

/-- Slot number of a group's core and issue slot: four slots a core. -/
def State.slotOf (s : State) (k : GKey) : Nat :=
  match look s.groups k with
  | none => 0
  | some g => 4 * s.coreOf ⟨k.blk, g.seg⟩ + g.slot

/-- The ready pending group that entered the pending set earliest (08 R236). -/
def State.readyPending (s : State) (x : Slot) : Option GKey := (x.pending.filter s.groupReady).head?

/-- Exchanges an active group with a pending one: the pending group takes a place in the active set, the other the pending tail (08 R236). -/
def Slot.exchange (x : Slot) (out into : GKey) : Slot :=
  { active := without x.active out ++ [into], pending := without x.pending into ++ [out] }

/-- Changes an issue slot. -/
def State.onSlot (s : State) (n : Nat) (f : Slot → Slot) : State := { s with slots := upd s.slots n f }

/-- Notes the instant at which a group entered the active or pending set. -/
def State.entered (s : State) (k : GKey) : State := s.onGroup k (fun g => { g with entered := s.clock, readySince := s.clock })

/-- Exchange of two groups of a slot. -/
def State.exchange (s : State) (n : Nat) (out into : GKey) : State :=
  ((s.onSlot n (fun x => x.exchange out into)).entered out).entered into

/-- A slot fills a free place with the earliest ready pending group, else with the earliest pending group (08 R234). -/
def State.fillSlot (s : State) (n : Nat) : State :=
  match look s.slots n with
  | none => s
  | some x =>
    if x.active.length < Config.activeSet then
      match (match s.readyPending x with
             | some k => some k
             | none => x.pending.head?) with
      | none => s
      | some k => (s.onSlot n (fun y => { active := y.active ++ [k], pending := without y.pending k })).entered k
    else s

/-- A group ends (02 R48): it leaves its slot, its handles name nothing, and its barrier arrivals of the past are forgotten. -/
def State.endGroup (s : State) (k : GKey) : State :=
  let n := s.slotOf k
  let t := s.onSlot n (fun x => { active := without x.active k, pending := without x.pending k })
  let t := t.onGroup k (fun g => { g with ended := true, h := g.h.map (fun _ => .empty), wait := .none })
  t.onBlock k.blk (fun b => { b with bars := b.bars.map (fun x => { x with done := without x.done k.gid, last := del x.last k.gid }) })

/-- Ends the group when no lane is live, none is in handler mode and OUTS is zero. -/
def State.checkEnd (s : State) (k : GKey) : State :=
  match look s.groups k with
  | none => s
  | some g => if g.live = 0 ∧ g.handler = none ∧ g.outs = 0 ∧ !g.ended then s.endGroup k else s

/-! ### Fields of the task record (14 R320) -/

/-- Bits h to l of word i of the record. -/
def Task.f (t : Task) (i h l : Nat) : Nat := pf t.p i h l
/-- CODE. -/
def Task.code (t : Task) : Nat := pd t.p 0
/-- GRIDX. -/
def Task.gridX (t : Task) : Nat := t.f 3 23 0
/-- Blocks of the task. -/
def Task.total (t : Task) : Nat := t.gridX * t.f 4 15 0
/-- G0. -/
def Task.g0 (t : Task) : Nat := t.f 5 6 0
/-- Gmax, of which a field of 0 means G0. -/
def Task.gmax (t : Task) : Nat := if t.f 5 14 8 = 0 then t.g0 else t.f 5 14 8
/-- Cohort size C. -/
def Task.cohortSize (t : Task) : Nat := t.f 5 22 18 + 1
/-- Priority. -/
def Task.prio (t : Task) : Nat := t.f 6 1 0
/-- COOP. -/
def Task.coop (t : Task) : Bool := t.f 6 2 2 == 1
/-- CTXSLOTS. -/
def Task.ctxSlots (t : Task) : Nat := t.f 7 11 0
/-- ARGS. -/
def Task.args (t : Task) : Nat := pd t.p 8
/-- CTX. -/
def Task.ctx (t : Task) : Nat := pd t.p 10
/-- PRIV. -/
def Task.priv (t : Task) : Nat := pd t.p 12
/-- PRIVB. -/
def Task.privBytes (t : Task) : Nat := pw t.p 14
/-- WDOG in ms. -/
def Task.wdog (t : Task) : Nat := t.f 15 15 0

/-- Division that rounds up. -/
def ceilDiv (a b : Nat) : Nat := (a + b - 1) / b

/-- Segments of a block (08 R231). -/
def Task.segCount (t : Task) : Nat := ((List.range 4).find? (fun i => decide (t.f 5 17 16 ≤ i) && decide (ceilDiv t.gmax (i + 1) * t.kernel.v ≤ 8192))).elim 4 (· + 1)
/-- Groups of a segment, k. -/
def Task.perSeg (t : Task) : Nat := ceilDiv t.gmax t.segCount

/-- Bytes of a context image (14 R321). -/
def Task.image (t : Task) : Nat := 4096 + t.gmax * (128 * t.kernel.v + 2048 + 2304 + 16384) + t.segCount * (t.kernel.scr + 524288 + 8192)

/-! ### Context areas (14 R321) -/

/-- A list of ranges without the addresses from lo to below hi. -/
def cutSpan (l : List (Nat × Nat)) (lo hi : Nat) : List (Nat × Nat) :=
  (l.map (fun r => [(r.1, min r.2 lo), (max r.1 hi, r.2)])).flatten.filter (fun r => decide (r.1 < r.2))

/-- Ranges of flat addresses at which n bytes of an object stand on this chip, from an offset on. -/
def State.rangesOf (s : State) : Nat → Nat → Nat → Nat → List (Nat × Nat)
  | 0, _, _, _ => []
  | k + 1, id, off, n =>
    match look s.objs id with
    | none => []
    | some d =>
      match d.split with
      | none => [(flat id off, flat id off + n)]
      | some (b, up) =>
        if off + n ≤ b then [(flat id off, flat id off + n)]
        else if off < b then (flat id off, flat id b) :: State.rangesOf s k up 0 (off + n - b)
        else State.rangesOf s k up (off - b) n

/-- The context area of a task holds unspecified bytes: from the arming of its record on, and again after every write of the KL9 to it, of spawn memory or of an image (14 R321; log entry 56). -/
def State.blurArea (s : State) (i : Nat) : State :=
  match look s.tasks i with
  | none => s
  | some t =>
    let rs := s.rangesOf splitFuel (ptrId t.ctx) (ptrOff t.ctx) (t.ctxSlots * t.image)
    { s with blur := rs.foldl (fun l r => cutSpan l r.1 r.2 ++ [r]) s.blur }

end Sys2Proof.Machine
end

