-- ==== Sys2Proof/Machine/Control.lean ====
section
/-! DEFINITION. Control flow: jumps, lane branches, calls, spill branches, EXIT, END, YIELD, BRK, TRAP, ERET, extension words (05 R128 to R136, R151, R156; 03 R77). -/

namespace Sys2Proof.Machine

/-! ### Uniform control -/

/-- A uniform branch moves the whole path (05 R128). -/
def uniGo (s : State) (m : Bool) (names reads : List Nat) (target : Word) : Out :=
  uniJump s .any false names reads [] (fun t => (t.jump target).mark m)

/-- JMP: a word offset. -/
def execJmp (m : Bool) (off : BitVec 24) (s : State) : Out := uniGo s m [] [] (s.curPc + (off.signExtend 32 <<< 2))
/-- GBR: as i32. -/
def execGbr (m : Bool) (ga gb : BitVec 9) (cond : Cond) (off : BitVec 32) (s : State) : Out :=
  uniGo s m [ga.toNat, gb.toNat] [ga.toNat, gb.toNat]
    (s.curPc + if wcompare cond false (s.readU 0 ga.toNat) (s.readU 1 gb.toNat) then off else 8)
/-- GBRN: as n32. -/
def execGbrn (m : Bool) (ga gb : BitVec 9) (cond : Cond) (off : BitVec 32) (s : State) : Out :=
  uniGo s m [ga.toNat, gb.toNat] [ga.toNat, gb.toNat]
    (s.curPc + if wcompare cond true (s.readU 0 ga.toNat) (s.readU 1 gb.toNat) then off else 8)
/-- GBRZ: against zero as i32. -/
def execGbrz (m : Bool) (ga : BitVec 9) (cond : Cond) (off : BitVec 32) (s : State) : Out :=
  uniGo s m [ga.toNat] [ga.toNat] (s.curPc + if wcompare cond false (s.readU 0 ga.toNat) 0 then off else 8)
/-- LOOP: counts down and branches while not zero. -/
def execLoop (m : Bool) (ga : BitVec 9) (off : BitVec 32) (s : State) : Out :=
  uniJump s .any false [ga.toNat] [ga.toNat] []
    (fun t => ((t.writeU ga.toNat (s.readU 0 ga.toNat - 1)).jump (s.curPc + if s.readU 0 ga.toNat - 1 ≠ 0 then off else 8)).mark m)

/-- LAND: no effect. -/
def execLand (m : Bool) (s : State) : Out := uni s m 4 .any false [] [] [] (fun t => t)
/-- NOP: no effect. -/
def execNop (m : Bool) (s : State) : Out := uni s m 4 .any false [] [] [] (fun t => t)

/-- The issuer's OUTS is zero and no deferred fault waits: a drain ends at once. -/
def State.drained (s : State) : Bool :=
  match s.cur with
  | .idle => true
  | .path k _ _ =>
    match look s.groups k with
    | none => true
    | some g => g.outs == 0 && g.deferred.isEmpty
  | .seq q =>
    match look s.seqs q with
    | none => true
    | some e => e.outs == 0 && e.deferred.isEmpty

/-- What the completion of a drain does to pending destinations (02 R53; DEDUCED, log entry 10). -/
def State.settleCur (s : State) : State :=
  match s.cur with
  | .idle => s
  | .path k _ _ => s.onGroup k (fun g => (g.settle s.freeCtr).payAcquire s.clock)
  | .seq q => s.onSeq q (fun e => e.settle s.freeCtr)

/-- Lanes of a group named by the mask of an incomplete barrier arrival or of a pending GSYNC (05 R138). -/
def State.pendingMask (s : State) (k : GKey) : Mask :=
  let bars := (look s.blocks k.blk).elim [] (fun b => (b.bars.map (fun x => x.arrivals)).flatten)
  let fromBars := (bars.filter (fun a => a.gid == k.gid)).foldl (fun m a => m ||| a.mask) 0
  match look s.groups k with
  | none => fromBars
  | some g => g.lanes.foldl (fun m x => match x.wait with | .gsync y => m ||| y | _ => m) fromBars

/-- The issuing group's pending mask. -/
def State.curPending (s : State) : Mask :=
  match s.cur with
  | .path k _ _ => s.pendingMask k
  | _ => 0

/-- The issuing group is a producer with sequencer programs that no RDV has joined (05 R130). -/
def State.unjoined (s : State) : Bool :=
  match s.cur with
  | .path k _ _ => s.isProducer k && (look s.blocks k.blk).elim false (fun b => b.forked)
  | _ => false

/-- EXIT's own effect: the path's lanes become Exited, handler mode ends with its last lane, the group may end (05 R130, R156). -/
def State.exitLanes (s : State) : State :=
  match s.cur with
  | .path k lanes _ =>
    (s.onGroup k (fun g =>
      let rest := g.handling &&& ~~~lanes
      { (g.mapLanes lanes (fun _ x => { x with st := .exited })) with
        handler := if g.handler.isNone || rest == 0 then none else some rest
        heldBar := if g.handler.isNone || rest == 0 then none else g.heldBar })).checkEnd k
  | _ => s

/-- EXIT. It drains first, marked or not (02 R54). -/
def execExit (_m : Bool) (s : State) : Out :=
  uniJump s .group true [] []
    [excIf s.unjoined (.of .context), excIf ((s.curPending &&& s.curLanes) != 0) (.of .syncMask)]
    (fun t => if s.drained then t.settleCur.exitLanes else t.drain)

/-- YIELD: exchanges the group with the earliest ready pending group (08 R238); none in a sequencer. -/
def execYield (m : Bool) (s : State) : Out :=
  uni s m 4 .any false [] [] [] (fun t =>
    match t.cur with
    | .path k _ _ =>
      match look t.slots (t.slotOf k) with
      | none => t
      | some x =>
        match t.readyPending x with
        | none => t
        | some p => if x.active.contains k then t.exchange (t.slotOf k) k p else t
    | _ => t)

/-- BRK: BREAK with the 24-bit code, resuming at the next instruction (05 R151). -/
def execBrk (_m : Bool) (code : BitVec 24) (s : State) : Out :=
  uniJump s .any false [] [] [some { code := .brk, detail := code.toNat, lanes := none, resume := some (s.curPc + 4) }] (fun t => t)

/-- TRAP: BREAK where the condition holds as i32, else nothing. -/
def execTrap (m : Bool) (ga gb : BitVec 9) (cond : Cond) (code : BitVec 6) (s : State) : Out :=
  uni s m 8 .group false [ga.toNat, gb.toNat] [ga.toNat, gb.toNat]
    [excIf (wcompare cond false (s.readU 0 ga.toNat) (s.readU 1 gb.toNat))
      { code := .brk, detail := code.toNat, lanes := none, resume := some (s.curPc + 8) }] (fun t => t)

/-- The issuing group is in handler mode. -/
def State.inHandler (s : State) : Bool :=
  match s.curGroup with
  | none => false
  | some g => g.handler.isSome

/-- ERET: leaves handler mode at RESUME; outside it, PRIV with DETAIL 0 (05 R156, R157). -/
def execEret (m : Bool) (s : State) : Out :=
  uniJump s .group false [] [] [excIf (!s.inHandler) (.of .priv)]
    (fun t =>
      match t.cur with
      | .path k lanes _ => (t.leaveTrap k lanes).mark m
      | _ => t)

/-- END: drains, then the sequencer program has ended (05 R131, R158). -/
def execEndSeq (_m : Bool) (s : State) : Out :=
  uniJump s .seqOnly false [] [] []
    (fun t => if s.drained then (match t.cur with | .seq q => t.settleCur.onSeq q (fun e => { e with running := false }) | _ => t) else t.drain)

/-- An extension word traps with EMU: every feature bit reads zero (03 R77). -/
def execExtensionWord (_m : Bool) (_set : Bool) (maj : BitVec 6) (_rest : BitVec 24) (_w1 : Word) (s : State) : Out :=
  issue s [some { code := .emu, detail := 0, lanes := none, resume := some (s.curPc + if maj.toNat < 0x30 then 4 else 8) }] (fun t => t)

/-! ### Lane branches -/

/-- Moves each active lane to its own program counter (05 R132). -/
def State.moveLanes (s : State) (f : Nat → Word) : State :=
  match s.cur with
  | .path k lanes _ => s.onGroup k (fun g => g.mapLanes lanes (fun l x => { x with pc := f l }))
  | _ => s

/-- The active lanes for which a per-lane branch is taken. -/
def State.taken (s : State) (va : BitVec 8) (z : Bool) : Mask := s.active (fun l => (s.vread 0 va.toNat l == 0) == z)

/-- The program counter of each lane after a branch. -/
def branchPc (pc : Word) (t : Mask) (off : Word) (l : Nat) : Word := pc + if t.getLsbD l then off else 8

/-- A branch that divides the path by a per-lane condition. -/
def laneBranch (s : State) (m : Bool) (va : BitVec 8) (off : BitVec 32) (z : Bool) : Out :=
  issue s ([s.nameExc [va.toNat] [], s.rowExc .group] ++ s.sourceExcs [.v 0 va.toNat intTag])
    (fun t => (t.moveLanes (branchPc s.curPc (s.taken va z) off)).mark m)

/-- BRZ. -/
def execBrz (m : Bool) (va : BitVec 8) (off : BitVec 32) (s : State) : Out := laneBranch s m va off true
/-- BRNZ. -/
def execBrnz (m : Bool) (va : BitVec 8) (off : BitVec 32) (s : State) : Out := laneBranch s m va off false

/-- Return-stack depth of a lane of the issuing group. -/
def State.rasDepth (s : State) (l : Nat) : Nat :=
  match s.curGroup with
  | none => 0
  | some g => (g.lane l).ras.length

/-- STACK of the active lanes that would push a seventeenth entry or pop an empty stack (05 R133). -/
def State.stackExc (s : State) (bad : Nat → Bool) : Option Exc :=
  let m := s.active (fun l => bad (s.rasDepth l))
  excIf (m != 0) (.at_ .stack m)

/-- Pushes a return address on the lanes of a mask. -/
def State.pushRas (s : State) (lanes : Mask) (pc : Word) : State :=
  match s.cur with
  | .path k _ _ => s.onGroup k (fun g => g.mapLanes lanes (fun _ x => { x with ras := pc :: x.ras }))
  | _ => s

/-- CALL. -/
def execCall (m : Bool) (off : BitVec 32) (s : State) : Out :=
  issue s [s.rowExc .group, s.stackExc (fun d => decide (16 ≤ d))]
    (fun t => ((t.pushRas s.curLanes (s.curPc + 8)).moveLanes (fun _ => s.curPc + off)).mark m)

/-- RET. -/
def execRet (m : Bool) (s : State) : Out :=
  issue s [s.rowExc .group, s.stackExc (fun d => d == 0)]
    (fun t =>
      (match t.cur with
       | .path k lanes _ => t.onGroup k (fun g => g.mapLanes lanes (fun _ x => { x with pc := x.ras.headD 0, ras := x.ras.tail }))
       | _ => t).mark m)

/-- How a lane's indirect target fares (05 R134). A poisoned word can be fetched, and the fetch then traps. -/
def State.targetFault (s : State) (pc : Word) : Option FaultCode :=
  match s.codeAt s.curBlk pc with
  | some a => if s.codeWord a = 0x8A000000 then none else some .land
  | none =>
    match s.codeRead s.curBlk pc with
    | none => none
    | some (.ok w) => if w = 0x8A000000 then none else some .land
    | some (.error .poison) => none
    | some (.error _) => some .fetch

/-- The word at an indirect target has not come yet from the other chip that holds the code. -/
def State.targetWaits (s : State) (pc : Word) : Bool := (s.codeRead s.curBlk pc).isNone

/-- Freezes lanes of the issuing group. -/
def State.freeze (s : State) (lanes : Mask) : State :=
  match s.cur with
  | .path k _ _ => s.onGroup k (fun g => g.mapLanes lanes (fun _ x => { x with st := .frozen }))
  | _ => s

/-- BRX and CALLX: good lanes move, the others freeze and trap (05 R134). A path whose targets stand at another chip waits until their words have come. -/
def indirect (s : State) (m : Bool) (va : BitVec 8) (push : Bool) : Out :=
  issue s ([s.nameExc [va.toNat] [], s.rowExc .group] ++ s.sourceExcs [.v 0 va.toNat intTag]
      ++ [if push then s.stackExc (fun d => decide (16 ≤ d)) else none])
    (fun t =>
      let target := fun l => s.vread 0 va.toNat l
      let bad := s.active (fun l => (s.targetFault (target l)).isSome)
      let fetch := (lanesOf bad).any (fun l => s.targetFault (target l) == some .fetch)
      let good := s.curLanes &&& ~~~bad
      let t1 := if push then t.pushRas good (s.curPc + 8) else t
      let t2 := t1.moveLanes (fun l => if bad.getLsbD l then s.curPc else target l)
      if (lanesOf s.curLanes).any (fun l => s.targetWaits (target l)) then ((lanesOf s.curLanes).foldl (fun u l => u.codeWant u.curBlk (target l)) t).pathWait .code m
      else if bad = 0 then t2.mark m
      else (t2.freeze bad).raise { code := if fetch then .fetch else .land, detail := 0, lanes := some bad, resume := none })

/-- BRX. -/
def execBrx (m : Bool) (va : BitVec 8) (s : State) : Out := indirect s m va false
/-- CALLX. -/
def execCallx (m : Bool) (va : BitVec 8) (s : State) : Out := indirect s m va true

/-! ### Spill branches (05 R136) -/

/-- The record of one spilled thread: v0 and the return stack, and the masked registers with their tags. -/
def State.spawnRec (s : State) (k : GKey) (mask : Nat) (xpc : Word) (l : Nat) : Spawn :=
  match look s.groups k with
  | none => { thread := 0, ras := [], xpc := xpc, regs := [], gwct := 0, marked := false, lost := false }
  | some g =>
    { thread := g.vread s.freeCtr 0 0 l, ras := (g.lane l).ras, xpc := xpc
      regs := ((List.range 64).filter (fun j => mask / 2 ^ j % 2 == 1)).map (fun j => (j, g.tag j, g.vread s.freeCtr 0 j l))
      gwct := g.gwct, marked := false, lost := false }

/-- The lanes that spill and their program counter: the smaller part, the taken one on a tie; none when a part is empty. -/
def spillPart (t n : Mask) (pc off : Word) : Mask × Word :=
  if t = 0 ∨ n = 0 then (0, 0) else if popMask t ≤ popMask n then (t, pc + off) else (n, pc + 8)

/-- Ends the threads of the lanes named: their records join the segment's spawn memory in lane order, which is kept in the task's context area (14 R321), and the lanes become Spilled, out of handler mode too. -/
def State.spill (s : State) (k : GKey) (x : Mask) (xpc : Word) (mask : Nat) : State :=
  let recs := (lanesOf x).map (s.spawnRec k mask xpc)
  let sk := s.curSeg
  let t := s.onSeg sk (fun g => { g with spawn := g.spawn ++ recs })
  (t.onGroup k (fun g => { (g.mapLanes x (fun _ y => { y with st := .spilled, ras := [] })) with handler := g.handler.map (fun h => h &&& ~~~x) })).blurArea (s.taskOf k.blk)

/-- BSPILLZ and BSPILLNZ. -/
def spillBranch (s : State) (m : Bool) (va gp : BitVec 8) (off : BitVec 32) (z : Bool) : Out :=
  let mask := s.readPair 1 (2 * gp.toNat)
  let tk := s.taken va z
  let nt := s.curLanes &&& ~~~tk
  let part := spillPart tk nt s.curPc off
  issue s ([s.nameExc [va.toNat] [2 * gp.toNat, 2 * gp.toNat + 1],
        excIf (decide (mask / 2 ^ s.vLimit ≠ 0)) (.of .illegal), s.rowExc .group, s.closedExc true,
        s.poisonExc (.v 0 va.toNat intTag), s.struckExc [2 * gp.toNat, 2 * gp.toNat + 1], s.tagExc (.v 0 va.toNat intTag),
        excIf ((s.curPending &&& part.1) != 0) (.of .syncMask)])
    (fun t =>
      if part.1 ≠ 0 ∧ !s.drained then t.drain
      else
        match t.cur with
        | .path k _ _ =>
          let t1 := if part.1 = 0 then t else t.settleCur.spill k part.1 part.2 mask
          ((t1.moveLanes (fun l => if part.1.getLsbD l then part.2 else branchPc s.curPc tk off l)).mark m).checkEnd k
        | _ => t)

/-- BSPILLZ. -/
def execBspillz (m : Bool) (va gp : BitVec 8) (off : BitVec 32) (s : State) : Out := spillBranch s m va gp off true
/-- BSPILLNZ. -/
def execBspillnz (m : Bool) (va gp : BitVec 8) (off : BitVec 32) (s : State) : Out := spillBranch s m va gp off false

end Sys2Proof.Machine
end

