-- ==== Sys2Proof/Machine/System.lean ====
section
/-! DEFINITION. Control and status registers and their one-step rows (02 R44 to R47; 05 R150; 09 R257), EVENT and the event arbiter's intake (05 R152; 14 R340 to R342), CLKR. -/

namespace Sys2Proof.Machine

/-- BLOCKID of the current issuer's block. -/
def State.curBid (s : State) : Nat := (look s.blocks s.curBlk).elim 0 (fun b => b.bid)

/-- TRAPVEC: the task's vector, all ones when it has none (05 R153). -/
def State.trapVec (s : State) : Word := ((look s.blocks s.curBlk).elim none (fun b => b.trapv)).getD 0xFFFFFFFF

/-- A group's own CSR words; the two instructions of a pair read them as the pair began. -/
def Group.csr (g : Group) (c : Csr) : Word :=
  match c with
  | .quantum => BitVec.ofNat 32 ((g.view.map (fun v => v.quantum)).getD g.quantum)
  | .lease => BitVec.ofNat 32 ((g.view.map (fun v => v.lease)).getD g.lease)
  | .faultrec0 => g.fr0
  | .faultrec1 => g.fr1
  | .faultrec2 => g.fr2
  | .faultrec3 => g.fr3
  | .outs => BitVec.ofNat 32 ((g.view.map (fun v => v.outs)).getD g.outs)
  | .ptimeHi => (g.view.map (fun v => v.ptimeHi)).getD g.ptimeHi
  | .gwctLo => BitVec.ofNat 32 ((g.view.map (fun v => v.gwct)).getD g.gwct)
  | .gwctHi => (g.view.map (fun v => v.gwctHi)).getD g.gwctHi
  | _ => 0

/-- A CSR as the issuing group reads it (02 R44). FEAT0 to FEAT3 read zero. -/
def State.readCsr (s : State) (c : Csr) : Word :=
  match c with
  | .trapvec => s.trapVec
  | .lanemask => s.curLanes
  | .blockid => BitVec.ofNat 32 s.curBid
  | .groupid => BitVec.ofNat 32 s.curGid
  | .segid => BitVec.ofNat 32 s.curSeg.seg
  | .taskid => BitVec.ofNat 32 (s.taskOf s.curBlk)
  | .feat0 | .feat1 | .feat2 | .feat3 => 0
  | .chipid => BitVec.ofNat 32 s.chipId
  | .ptimeLo => BitVec.ofNat 32 s.ptime
  | .migratePolicy => s.migratePolicy
  | .stubIdle => s.stubIdle
  | .pinGrace => s.pinGrace
  | _ => s.curGroup.elim 0 (fun g => g.csr c)

/-- Changes the issuing group. -/
def State.onCur (s : State) (f : Group → Group) : State :=
  match s.cur with
  | .path k _ _ => s.onGroup k f
  | _ => s

/-- The latch that a read of PTIME_LO or GWCT_LO makes (02 R45). -/
def State.latchCsr (s : State) (c : Csr) : State :=
  match c with
  | .ptimeLo => s.onCur (fun g => { g with ptimeHi := BitVec.ofNat 32 (s.ptime / 2 ^ 32) })
  | .gwctLo => s.onCur (fun g => { g with gwctHi := BitVec.ofNat 32 (((g.view.map (fun v => v.gwct)).getD g.gwct) / 2 ^ 32) })
  | _ => s

/-- QUANTUM's stored value: 0 stores 1, above 1,024 stores 1,024; reserved bits are ignored (02 R46). -/
def quantumOf (w : Word) : Nat := max 1 (min 1024 (w.toNat % 2 ^ 11))
/-- LEASE's stored value: below 128 stores 128, above 65,000 stores 65,000 (09 R257). -/
def leaseOf (w : Word) : Nat := max 128 (min 65000 (w.toNat % 2 ^ 17))

/-- A write of a CSR; writes to RO registers are ignored (00 R7). -/
def State.writeCsr (s : State) (c : Csr) (w : Word) : State :=
  match c with
  | .quantum => s.onCur (fun g => { g with quantum := quantumOf w })
  | .lease => s.onCur (fun g => { g with lease := leaseOf w })
  | _ => s

/-- The registers that only firmware writes (02 R44). -/
def firmwareCsr : Csr → Bool
  | .migratePolicy | .stubIdle | .pinGrace => true
  | _ => false

/-- PRIV of a kernel's write to a firmware register, with its number in DETAIL (05 R157). -/
def privExc (c : Csr) : Option Exc := excIf (firmwareCsr c) (.det .priv c.code.toNat)

/-- CSRR. -/
def execCsrr (m : Bool) (gd : BitVec 9) (csr : Csr) (s : State) : Out :=
  uni s m 8 .group false [gd.toNat] [] [] (fun t => (t.latchCsr csr).writeU gd.toNat (s.readCsr csr))
/-- CSRW. -/
def execCsrw (m : Bool) (csr : Csr) (ga : BitVec 9) (s : State) : Out :=
  issue s [s.nameExc [] [ga.toNat], s.rowExc .group, privExc csr, s.struckExc [ga.toNat]]
    (fun t => (t.writeCsr csr (s.readU 0 ga.toNat)).finish m 8)
/-- CSRX: gd takes the old value, then the CSR takes ga, in one step. -/
def execCsrx (m : Bool) (gd : BitVec 9) (csr : Csr) (ga : BitVec 9) (s : State) : Out :=
  issue s [s.nameExc [] [gd.toNat, ga.toNat], s.rowExc .group, privExc csr, s.struckExc [ga.toNat]]
    (fun t => (((t.latchCsr csr).writeU gd.toNat (s.readCsr csr)).writeCsr csr (s.readU 0 ga.toNat)).finish m 8)

/-- CLKR: the core's clock count to a pair. -/
def execClkr (m : Bool) (gd : BitVec 9) (s : State) : Out :=
  uni s m 8 .group false [gd.toNat, gd.toNat + 1] [] [] (fun t => t.writePair gd.toNat (s.coreClock (s.coreOf s.curSeg)))

/-! ### The one-step rows of CSR access: the value stands in State.arg, the group in State.cur -/

/-- QUANTUM_WRITE: one step of a CSRW or CSRX that names QUANTUM. -/
def execQuantumWrite (s : State) : Out :=
  .next (match s.arg with | .word w => s.writeCsr .quantum w | _ => s)
/-- LEASE_WRITE. -/
def execLeaseWrite (s : State) : Out :=
  .next (match s.arg with | .word w => s.writeCsr .lease w | _ => s)
/-- PTIME_LO_READ: the low half to gd, the high half to the latch. -/
def execPtimeLoRead (s : State) : Out :=
  .next (match s.arg with | .reg gd => (s.latchCsr .ptimeLo).writeU gd.toNat (s.readCsr .ptimeLo) | _ => s)
/-- GWCT_LO_READ. -/
def execGwctLoRead (s : State) : Out :=
  .next (match s.arg with | .reg gd => (s.latchCsr .gwctLo).writeU gd.toNat (s.readCsr .gwctLo) | _ => s)

/-! ### Events (14 R340 to R342) -/

/-- An event record before the arbiter takes it. -/
def eventOf (chip kind task block group number : Nat) (p : List Word) : EventRec :=
  { kind := kind, chip := chip, task := task, block := block, group := group, number := number, p := p, ptime := 0, seq := 0, sentAt := none }

/-- A record's 12 words, its reserved bits 0 (14 R341). -/
def EventRec.words (e : EventRec) : List Word :=
  let w := fun (x : Nat) => BitVec.ofNat 32 x
  [w (e.kind * 2 ^ 24 + e.task % 2 ^ 12 * 2 ^ 12 + e.chip % 2 ^ 12), w e.block, w (e.group % 64 * 2 ^ 8 + e.number % 64)]
    ++ (List.range 4).map (fun i => e.p.getD i 0) ++ [0, w e.ptime, w (e.ptime / 2 ^ 32), w e.seq, w (e.seq / 2 ^ 32)]

/-- The arbiter takes a record: it notes pod time and the next SEQ. -/
def State.takeEvent (s : State) (e : EventRec) : State :=
  { s with events := s.events ++ [{ e with ptime := s.ptime, seq := s.nextSeq }], nextSeq := s.nextSeq + 1 }

/-- A USER event enters only while fewer than 3,072 records are held; otherwise it is dropped and counted. -/
def State.takeUser (s : State) (e : EventRec) : State :=
  if s.events.length < Config.userEventLimit then s.takeEvent e else { s with dropped := s.dropped + 1 }

/-- Stores and atomics: what EVENT waits for. -/
def Txn.writes (t : Txn) : Bool :=
  match t.kind with
  | .store .. => true
  | .rmw .. => true
  | _ => false

/-- Every store and atomic of the agent issued before a transaction number has performed (05 R152). -/
def State.writesDone (s : State) (w : Agent) (before : Nat) : Bool :=
  !s.txns.any (fun t => t.who == w && decide (t.id < before) && t.writes)

/-- Waiting events whose earlier stores and atomics have performed enter the arbiter, in order; a later event of the same agent waits for an earlier one. -/
def State.flushEvents : Nat → State → State
  | 0, s => s
  | n + 1, s =>
    match s.pendingEvents.filter (fun p => s.writesDone p.who p.before) with
    | [] => s
    | p :: _ =>
      let t := if p.event.kind = 0 then s.takeUser p.event
               else if s.events.length < Config.eventQueue then s.takeEvent p.event else s
      if p.event.kind ≠ 0 ∧ Config.eventQueue ≤ s.events.length then s
      else State.flushEvents n { t with pendingEvents := t.pendingEvents.erase p }

/-- An event of a kind other than USER, which is never dropped: it waits for room. -/
def State.postEvent (s : State) (e : EventRec) : State :=
  if s.pendingEvents.isEmpty ∧ s.events.length < Config.eventQueue then s.takeEvent e
  else { s with pendingEvents := s.pendingEvents ++ [{ who := .grp ⟨0, 0⟩, before := 0, event := e }] }

/-- EVENT: posts number n with payload ga; the group does not wait. -/
def execEvent (m : Bool) (ga : BitVec 9) (n : BitVec 6) (s : State) : Out :=
  uni s m 8 .group false [ga.toNat] [ga.toNat] []
    (fun t => { t with pendingEvents := t.pendingEvents ++
      [{ who := t.curAgent, before := t.nextTxn, event := eventOf t.chipId 0 (t.taskOf t.curBlk) t.curBid t.curGid n.toNat [s.readU 0 ga.toNat, 0, 0, 0] }] })

end Sys2Proof.Machine
end

