-- ==== Sys2Proof/Machine/FabricPort.lean ====
section
/-! DEFINITION. The fabric port: flit coding (16 R383, R384), ports of a destination (R374), queues, credits, slots and landing buffers (R380 to R382), sequence numbers (R375). -/

namespace Sys2Proof.Machine

/-- Changes the fabric. -/
def State.onFab (s : State) (f : Fabric → Fabric) : State := { s with fab := f s.fab }

/-! ### Flit coding -/

/-- Words of a flit. -/
def flitWords (bs : List Byte) : List Word := (List.range 16).map (fun i => BitVec.ofNat 32 (natLE ((bs.drop (4 * i)).take 4)))

/-- Pads a flit with zeros for coding. -/
def padFlit (bs : List Byte) : List Byte := bs ++ List.replicate (64 - bs.length) 0

/-- Code of a flit after the flit before it (16 R383): 1 zero, 2 repeat, 3 base-delta, 0 raw; and the bytes sent. -/
def flitCode (prev : Option (List Byte)) (f : List Byte) : Nat × List Byte :=
  let w := flitWords f
  let w0 := w.headD 0
  if f.all (· == 0) then (1, [])
  else if prev = some f then (2, [])
  else if w.all (fun x => decide (-128 ≤ (x - w0).toInt) && decide ((x - w0).toInt ≤ 127)) then
    (3, bytesLE 4 w0.toNat ++ w.tail.map (fun x => (x - w0).setWidth 8))
  else (0, f)

/-- Payload flits, padded. -/
def payloadFlits (bs : List Byte) : List (List Byte) := (List.range ((bs.length + 63) / 64)).map (fun i => padFlit ((bs.drop (64 * i)).take 64))

/-- Codes and coded bytes of a list of flits. -/
def codeFlits (prev : Option (List Byte)) : List (List Byte) → List (Nat × List Byte)
  | [] => []
  | f :: r => flitCode prev f :: codeFlits (some f) r

/-- Data flits that a payload needs, coded or raw. -/
def dataFlits (coded : Bool) (payload : List Byte) : Nat :=
  if coded then (((codeFlits none (payloadFlits payload)).map (fun x => x.2.length)).foldl (· + ·) 0 + 63) / 64 else (payload.length + 63) / 64

/-- CODES of 16 R378, flit i's at bits [2i+1:2i]. -/
def codesWord : List Nat → Nat
  | [] => 0
  | c :: r => c + 4 * codesWord r

/-- The codes of n flits in CODES. -/
def codesOf (n m : Nat) : List Nat := (List.range n).map (fun i => m / 4 ^ i % 4)

/-- The flit that a code stands for, after the flit before it (16 R383). -/
def decodeFlit (prev : List Byte) (code : Nat) (bs : List Byte) : List Byte :=
  match code with
  | 0 => bs.take 64
  | 1 => List.replicate 64 0
  | 2 => prev
  | _ => bs.take 4 ++ (((bs.drop 4).take 15).map (fun d => bytesLE 4 (BitVec.ofNat 32 (natLE (bs.take 4)) + d.signExtend 32).toNat)).flatten

/-- Bytes that a code sends. -/
def codeBytes (code : Nat) : Nat :=
  match code with
  | 0 => 64
  | 1 => 0
  | 2 => 0
  | _ => 19

/-- The flits that coded bytes stand for, back to back (16 R383). -/
def decodeFlits (prev : List Byte) : List Nat → List Byte → List Byte
  | [], _ => []
  | c :: r, bs => decodeFlit prev c bs ++ decodeFlits (decodeFlit prev c bs) r (bs.drop (codeBytes c))

/-! ### Channels of packets (16 R379) -/

/-- VC of a packet type: 0 control, 1 response, 2 request, 3 bulk. -/
def vcOf : PacketType → Nat
  | .read | .write | .atomic | .fetch | .object => 2
  | .response | .bulkAck => 1
  | .bulk => 3
  | .credit | .marker | .sync => 0

/-- Packet types whose payload may be coded (16 R384). -/
def codable : PacketType → Bool
  | .response | .bulk => true
  | _ => false

/-- Words of a list as bytes. -/
def wordBytes (ws : List Word) : List Byte := (ws.map (fun w => bytesLE 4 w.toNat)).flatten

/-- A length or a boundary as two words. -/
def twoWords (x : Nat) : List Word := [BitVec.ofNat 32 x, BitVec.ofNat 32 (x / 2 ^ 32)]

/-- Leases of lines: three words each. -/
def leaseWords (lx : List (Nat × Nat)) : List Word := (lx.map (fun x => BitVec.ofNat 32 x.1 :: twoWords x.2)).flatten

/-- The payload of an object command, word by word: its operands in the order of ObjCmd, boundaries, lengths and completion times in two words. DESIGN CHOICE, log entry 49. -/
def objWords : ObjCmd → List Word
  | .pin | .unpin | .free | .loc | .inval | .takeSerial | .freed | .release | .revoked => []
  | .attr a => [a]
  | .split b => [b]
  | .group o => [BitVec.ofNat 32 o]
  | .move c => [c]
  | .confirmStub e => [BitVec.ofNat 32 e]
  | .splitAt b u => twoWords b ++ [BitVec.ofNat 32 u]
  | .migrating on => [if on then 1 else 0]
  | .cutOver c e => [BitVec.ofNat 32 c, BitVec.ofNat 32 e]
  | .enter o n => [BitVec.ofNat 32 o, BitVec.ofNat 32 n]
  | .depart o => [BitVec.ofNat 32 o]
  | .visit n fmt topk op1 op2 args => [BitVec.ofNat 32 n, BitVec.ofNat 32 fmt, if topk then 1 else 0, BitVec.ofNat 32 op1, op2.elim 0xFFFFFFFF (BitVec.ofNat 32)] ++ args
  | .program o rows ops lc scalars => [BitVec.ofNat 32 o, BitVec.ofNat 32 rows, BitVec.ofNat 32 ops.length] ++ ops.map (fun x => x.setWidth 32) ++ [lc] ++ scalars
  | .stop o => [BitVec.ofNat 32 o]
  | .reserve n a e g sp => twoWords n ++ [a, BitVec.ofNat 32 e] ++ g.elim [] (fun x => [BitVec.ofNat 32 x]) ++ sp.elim [] (fun x => twoWords x.1 ++ [BitVec.ofNat 32 x.2])
  | .lease lx => leaseWords lx
  | .activate e n lx => [BitVec.ofNat 32 e, BitVec.ofNat 32 n] ++ leaseWords lx
  | .revoke t => twoWords t

/-- Payload bytes of a packet before coding: the operands of an ATOMIC and of an OBJECT stand there too (16 R379). -/
def packetData (p : Packet) : List Byte :=
  match p.body with
  | .atomic _ _ _ _ ops => wordBytes ops
  | .monitor _ _ _ v _ => wordBytes [v]
  | .object _ c => wordBytes (objWords c)
  | _ => p.payload

/-- Flits of a packet on a port: a payload that R384 does not let be coded is sent raw. DESIGN CHOICE, log entry 49. -/
def flitsOf (p : Packet) : Nat := 1 + dataFlits (p.coded && codable p.type) (packetData p)

/-! ### The header flit (16 R378) -/

/-- TYPE of a packet (16 R379). -/
def typeCode : PacketType → Nat
  | .read => 0
  | .write => 1
  | .atomic => 2
  | .fetch => 3
  | .object => 4
  | .response => 5
  | .bulk => 6
  | .bulkAck => 7
  | .credit => 8
  | .marker => 9
  | .sync => 10

/-- The packet of a TYPE; 11 to 15 are reserved. -/
def packetType (n : Nat) : Option PacketType :=
  [PacketType.read, .write, .atomic, .fetch, .object, .response, .bulk, .bulkAck, .credit, .marker, .sync][n]?

/-- One bit into a CRC-32. -/
def crcBit (c : Word) : Word := if c.getLsbD 0 then (c >>> 1) ^^^ 0xEDB88320 else c >>> 1

/-- One byte into a CRC-32. -/
def crcByte (c : Word) (b : Byte) : Word := (List.range 8).foldl (fun x _ => crcBit x) (c ^^^ b.setWidth 32)

/-- The CRC-32 of IEEE 802.3: the spec names no polynomial. PRESUMED, log entry 49. -/
def crc32 (bs : List Byte) : Word := ~~~(bs.foldl crcByte 0xFFFFFFFF)

/-- The CRC of a packet as sent: words 0 to 14 and the data flits (16 R378). -/
def wireCrc (w : Wire) : Word := crc32 (wordBytes (w.words.take 15) ++ w.data)

/-- Words 8 to 11 as one number. -/
def wireCodes (w : Wire) : Nat := natLE (wordBytes ((w.words.drop 8).take 4))

/-- A header with a reserved bit set, or a LEN above 4,096 (DESIGN CHOICE, log entry 49). -/
def wireReserved (w : Wire) : Bool :=
  let h := fun i => (w.words.getD i 0).toNat
  decide (h 0 / 2 ^ 24 % 2 ≠ 0) || decide (h 1 / 2 ^ 13 % 8 ≠ 0) || decide (h 2 / 2 ^ 24 % 8 ≠ 0) || decide (h 14 % 2 ^ 16 ≠ 0) || decide (4096 < h 1 % 2 ^ 13)

/-- What the receiver of a packet finds: a wrong CRC (17 R401), a packet that it discards (16 R378, R379), or a packet. -/
inductive Received
  | bad
  | discard
  | good (p : Packet)
  deriving DecidableEq, Repr

/-- The payload of a packet that has come, decoded where its type may be coded; only LEN bytes of it (16 R383). -/
def wirePayload (w : Wire) (type : PacketType) : List Byte :=
  let n := (w.words.getD 1 0).toNat % 2 ^ 13
  (if codable type then decodeFlits [] (codesOf ((n + 63) / 64) (wireCodes w)) w.data else w.data).take n

/-- The part of a packet that its type fixes, with the operands of an ATOMIC from the payload and the byte mask of a WRITE from words 8 to 11. -/
def wirePart (w : Wire) (payload : List Byte) : PBody :=
  match w.body with
  | .write a _ x => .write a (BitVec.ofNat 128 (wireCodes w)) x
  | .atomic a r k y _ => .atomic a r k y (flitWords payload |>.take ((payload.length + 3) / 4))
  | .monitor a c n _ y => .monitor a c n (BitVec.ofNat 32 (natLE (payload.take 4))) y
  | b => b

/-- Payload bytes that a packet keeps beside its part. -/
def keptPayload (b : PBody) (bs : List Byte) : List Byte :=
  match b with
  | .atomic .. => []
  | .monitor .. => []
  | .object .. => []
  | _ => bs

/-- Reads a packet: its CRC first, then its reserved bits and TYPE. -/
def readWire (w : Wire) : Received :=
  let h := fun i => (w.words.getD i 0).toNat
  if w.words.length ≠ 16 ∨ w.words.getD 15 0 ≠ wireCrc w then .bad
  else if wireReserved w then .discard
  else
    match packetType (h 0 / 2 ^ 28) with
    | none => .discard
    | some type =>
      .good { type := type, lane := decide (h 0 / 2 ^ 25 % 2 = 1), dst := BitVec.ofNat 12 (h 0 / 2 ^ 12), src := BitVec.ofNat 12 (h 0), plan := BitVec.ofNat 16 (h 1 / 2 ^ 16)
              hops := BitVec.ofNat 3 (h 2 / 2 ^ 29), g := decide (h 2 / 2 ^ 28 % 2 = 1), o := decide (h 2 / 2 ^ 27 % 2 = 1), reporter := w.reporter, onward := w.onward, resent := false
              coded := codable type && wireCodes w != 0, tag := BitVec.ofNat 24 (h 2), epoch := w.words.getD 3 0, ord := BitVec.ofNat 16 (h 14 / 2 ^ 16), link := w.link
              body := wirePart w (wirePayload w type), payload := keptPayload w.body (wirePayload w type) }

/-- Codes and bytes of a packet's data flits as sent (16 R383, R384). -/
def packetFlits (p : Packet) : List Nat × List Byte :=
  if p.coded && codable p.type then
    let cs := codeFlits none (payloadFlits (packetData p))
    (cs.map Prod.fst, (payloadFlits ((cs.map Prod.snd).flatten)).flatten)
  else ([], (payloadFlits (packetData p)).flatten)

/-- Words 8 to 11 of a packet: the codes of its flits, or the byte mask in its line of a WRITE or an ATOMIC, which the setting of a monitor is too. -/
def packetMarks (p : Packet) : Nat :=
  match p.body with
  | .write _ m _ => m.toNat
  | .atomic a r .. => (2 ^ r.bytes - 1) * 2 ^ (a.toNat % 128) % 2 ^ 128
  | .monitor a .. => 15 * 2 ^ (a.toNat % 128) % 2 ^ 128
  | _ => codesWord (packetFlits p).1

/-- A packet as it leaves, its words 4 to 7, 12 and 13 given; every reserved bit is 0 (16 R378). -/
def packetWire (p : Packet) (byType : List Word) : Wire :=
  let word := fun i => byType.getD i 0
  let mark := fun i => (BitVec.ofNat 32 (packetMarks p / 2 ^ (32 * i)) : Word)
  let head : List Word :=
    [ BitVec.ofNat 32 (typeCode p.type * 2 ^ 28 + vcOf p.type * 2 ^ 26 + (if p.lane then 2 ^ 25 else 0) + p.dst.toNat * 2 ^ 12 + p.src.toNat),
      BitVec.ofNat 32 (p.plan.toNat * 2 ^ 16 + (packetData p).length),
      BitVec.ofNat 32 (p.hops.toNat * 2 ^ 29 + (if p.g then 2 ^ 28 else 0) + (if p.o then 2 ^ 27 else 0) + p.tag.toNat),
      p.epoch, word 0, word 1, word 2, word 3, mark 0, mark 1, mark 2, mark 3, word 4, word 5,
      BitVec.ofNat 32 (p.ord.toNat * 2 ^ 16) ]
  let w : Wire := { words := head, data := (packetFlits p).2, body := p.body, reporter := p.reporter, onward := p.onward, link := p.link }
  { w with words := head ++ [wireCrc w] }

/-! ### Ports -/

/-- Set bits of a port mask, ascending. -/
def portList (m : BitVec 64) : List Nat := (List.range 64).filter (fun i => m.getLsbD i)

/-- The table a chip routes by: the staged one from the exchange of plan ids until FBOPEN, else the live one (16 R391). -/
def Fabric.table (f : Fabric) : Option Table :=
  match f.st with
  | .locking | .locked => f.staged
  | _ => f.live

/-- Locked ports of a destination's entry. -/
def Fabric.portsTo (f : Fabric) (dst : Nat) : List Nat :=
  match f.table with
  | none => []
  | some t => portList ((look t.entries dst).getD 0 &&& f.locked)

/-- The number that picks a packet's port: its source chip, or its place among the packets of a bulk transfer (16 R374). The packets of an RSEND or RFETCH lie 4,096 bytes apart. -/
def portIndex (p : Packet) : Nat :=
  match p.type, p.body with
  | .bulk, .bulk _ _ _ _ _ off => off / 4096
  | .bulk, .migration _ _ i _ => i
  | _, _ => p.src.toNat

/-- The port a packet leaves on; a control packet's is its own. -/
def Fabric.portFor (f : Fabric) (p : Packet) : Option Nat :=
  match p.type with
  | .credit | .marker | .sync => some (p.tag.toNat % 64)
  | _ =>
    match f.portsTo p.dst.toNat with
    | [] => none
    | x :: r => (x :: r)[portIndex p % (x :: r).length]?

/-- The lane a packet has on a port (16 R374). -/
def Fabric.laneOn (f : Fabric) (p : Packet) (port : Nat) : Bool := p.lane || (f.table.elim false (fun t => t.dateline.getLsbD port))

/-- Flit credits held for a port, channel and lane. Control flits always move (16 R380). DEDUCED, log entry 25. -/
def Fabric.credit (f : Fabric) (port vc : Nat) (lane : Bool) : Nat := (look f.credits (port, vc, if lane then 1 else 0)).getD 0

/-- Adds to a counter of a table. -/
def bump {κ : Type} [DecidableEq κ] (l : List (κ × Nat)) (k : κ) (d : Int) : List (κ × Nat) := put l k (((look l k).getD 0 : Nat) + d).toNat

/-- This chip's own packets of the request and bulk channels need a slot and a landing buffer; transit packets need neither (16 R381). -/
def State.ownNew (s : State) (p : Packet) : Bool :=
  p.src.toNat == s.chipId && !p.onward && !p.resent && (vcOf p.type == 2 || (p.type == .bulk && (match p.body with | .bulk f .. => !f | .migration .. => true | _ => false)))

/-- Packets that a cut-over under way still needs while the chip drains (15 R359). -/
def finishing (b : PBody) : Bool :=
  match b with
  | .migration .. => true
  | .object _ (.lease _) => true
  | .object _ (.activate ..) => true
  | .object _ (.cutOver ..) => true
  | .object _ (.migrating _) => true
  | .object _ .release => true
  | _ => false

/-- The fabric is between FBDARK and FBOPEN. -/
def Fabric.reopening (f : Fabric) : Bool := f.st == .dark || f.st == .locking || f.st == .locked || f.st == .lockfail

/-- A packet of this chip that waits until FBOPEN: a new request or bulk packet while the fabric is not OPEN (16 R389), or a response whose route leaves on a port outside KEEP (R390). -/
def State.withheld (s : State) (p : Packet) : Bool :=
  let f := s.fab
  (s.ownNew p && !(f.st == .opened || (f.st == .draining && finishing p.body)))
    || (f.reopening && p.src.toNat == s.chipId && vcOf p.type == 1 && (f.portFor p).elim false (fun port => !f.keep.getLsbD port))

/-- What a packet needs before it leaves (16 R380, R381, R389). In DARK a port outside KEEP sends no packets but control flits, which always move (R380). -/
def State.maySend (s : State) (p : Packet) : Bool :=
  match s.fab.portFor p with
  | none => false
  | some port =>
    let f := s.fab
    let lane := f.laneOn p port
    (p.type == .sync || f.locked.getLsbD port)
      && (vcOf p.type == 0 || decide (flitsOf p ≤ f.credit port (vcOf p.type) lane))
      && !s.withheld p
      && (!s.ownNew p || (decide (f.landing < Config.landingBuffers)
            && (if p.type = .bulk then decide ((look f.bulk p.dst.toNat).getD 0 < Config.bulkSlots) else decide ((look f.slots p.dst.toNat).getD 0 < Config.requestSlots))))
      && !(f.st == .dark && vcOf p.type != 0 && !f.keep.getLsbD port)

/-- A packet that takes the next number of its destination and channel: a request or response that this chip originates (16 R375). -/
def State.numbered (s : State) (p : Packet) : Bool := p.src.toNat == s.chipId && !p.onward && !p.resent && (vcOf p.type == 1 || vcOf p.type == 2)

/-- A packet leaves: credits, slots, a landing buffer and its ORD are taken. -/
def State.transmit (s : State) (p : Packet) : State :=
  match s.fab.portFor p with
  | none => s
  | some port =>
    let f := s.fab
    let lane := f.laneOn p port
    let plan := f.table.elim 0 (fun t => t.plan)
    let key := (p.dst.toNat, vcOf p.type)
    let ord := (look f.ordOut key).getD 0
    let q := { p with lane := lane, plan := plan, resent := false, link := (look f.linkOut port).getD 0, ord := if s.numbered p then BitVec.ofNat 16 ord else p.ord }
    let f1 := { f with
      ordOut := if s.numbered p then put f.ordOut key ((ord + 1) % 65536) else f.ordOut
      linkOut := if p.type = .sync then f.linkOut else bump f.linkOut port 1
      sent := f.sent ++ [(port, q)]
      replay := f.replay ++ [(port, q)]
      credits := if vcOf p.type = 0 then f.credits else bump f.credits (port, vcOf p.type, if lane then 1 else 0) (-(flitsOf p)) }
    if s.ownNew p then
      { s with fab := { f1 with
        landing := f1.landing + 1
        slots := if p.type = .bulk then f1.slots else bump f1.slots p.dst.toNat 1
        bulk := if p.type = .bulk then bump f1.bulk p.dst.toNat 1 else f1.bulk } }
    else { s with fab := f1 }

/-- This chip's own drain marker. -/
def ownMarker (p : Packet) : Bool := p.body == .marker false

/-- A packet of the queue is at the head of its destination's queue for its channel (16 R382), where packets that wait until FBOPEN do not hold up those that need not (R389). This chip's own marker goes behind every packet already queued for its port but those; control packets of one type else keep their order on their port and wait for nothing more (R380, R389). -/
def State.isHead (s : State) (before : List (Nat × Packet)) (p : Packet) : Bool :=
  if vcOf p.type = 0 then
    !before.any (fun e => s.fab.portFor e.2 == s.fab.portFor p && (if ownMarker p then !s.withheld e.2 else e.2.type == p.type && !ownMarker e.2))
  else !before.any (fun e => vcOf e.2.type == vcOf p.type && e.2.dst == p.dst && !s.withheld e.2)

/-- The first packet of a channel that may leave. -/
def State.nextOut (s : State) (vc : Nat) : List (Nat × Packet) → List (Nat × Packet) → Option (Nat × Packet)
  | _, [] => none
  | before, e :: r =>
    if vcOf e.2.type = vc ∧ s.isHead before e.2 ∧ s.maySend e.2 then some e else State.nextOut s vc (before ++ [e]) r

/-- The next packet to leave, the channels in the order control, response, request, bulk (16 R379). -/
def State.pick (s : State) : Option (Nat × Packet) :=
  match s.nextOut 0 [] s.fab.queue, s.nextOut 1 [] s.fab.queue, s.nextOut 2 [] s.fab.queue, s.nextOut 3 [] s.fab.queue with
  | some e, _, _, _ => some e
  | none, some e, _, _ => some e
  | none, none, some e, _ => some e
  | none, none, none, x => x

/-- Sends what may leave, at most n packets. -/
def State.pump : Nat → State → State
  | 0, s => s
  | n + 1, s =>
    match s.pick with
    | none => s
    | some e => State.pump n ({ s with fab := { s.fab with queue := s.fab.queue.erase e } }.transmit e.2)

/-- The step that a packet's arrival is (16 R379). -/
def packetStep : PacketType → Instr
  | .read => .readPacket
  | .write => .writePacket
  | .atomic => .atomicPacket
  | .fetch => .fetchPacket
  | .object => .objectPacket
  | .response => .responsePacket
  | .bulk => .bulkPacket
  | .bulkAck => .bulkAck
  | .credit => .credit
  | .marker => .marker
  | .sync => .syncFlit

/-- Puts a packet in the queue of its destination and channel. A packet for this chip itself arrives without a port. -/
def State.enqueue (s : State) (p : Packet) : State :=
  if p.dst.toNat = s.chipId ∧ vcOf p.type ≠ 0 then { s with agenda := s.agenda ++ [(packetStep p.type, .again p)] }
  else { s with fab := { s.fab with queue := s.fab.queue ++ [(p.dst.toNat, p)] } }

/-- The identifier that a request names. -/
def bodyId : PBody → Option Nat
  | .read p .. => some (p.toNat / 2 ^ 34 % 2 ^ 30)
  | .write p .. => some (p.toNat / 2 ^ 34 % 2 ^ 30)
  | .atomic p .. => some (p.toNat / 2 ^ 34 % 2 ^ 30)
  | .monitor p .. => some (p.toNat / 2 ^ 34 % 2 ^ 30)
  | .fetch p .. => some (p.toNat / 2 ^ 34 % 2 ^ 30)
  | .object p _ => some (p.toNat / 2 ^ 34 % 2 ^ 30)
  | _ => none

/-- The epoch a requester's locator cache holds for a request, 0 for none (15 R348). -/
def State.cachedEpoch (s : State) (b : PBody) : Word :=
  match bodyId b with
  | none => 0
  | some id => BitVec.ofNat 32 ((look s.locator id).elim 0 Prod.snd)

/-- A packet of this chip. -/
def State.packet (s : State) (type : PacketType) (dst : Nat) (body : PBody) (payload : List Byte) : Packet :=
  { type := type, lane := false, dst := BitVec.ofNat 12 dst, src := BitVec.ofNat 12 s.chipId, plan := 0, hops := 0, g := false, o := false, reporter := 0, onward := false, resent := false, coded := false, link := 0
    tag := BitVec.ofNat 24 s.fab.nextTag, epoch := s.cachedEpoch body, ord := 0, body := body, payload := payload }

/-- BIRTH of an identifier. -/
def birthOf (id : Nat) : Nat := id / 2 ^ 18 % 2 ^ 12

/-- Commands that are sent to the chip where the object is resident. -/
def routed : ObjCmd → Bool
  | .pin | .unpin | .free | .attr _ | .split _ | .group _ | .move _ | .inval | .enter .. | .depart _ | .visit .. | .program .. | .stop _ => true
  | _ => false

/-- The identifier by which a request finds its home (15 R348); a request to a granary or to the destination of a migration finds none. -/
def routeId : PBody → Option Nat
  | .object p c => if routed c then bodyId (.object p c) else none
  | b => bodyId b

/-- A request that goes where a locator entry sends it makes that entry the one its set used last (15 R347). -/
def State.useLocator (s : State) (p : Packet) : State :=
  match routeId p.body with
  | none => s
  | some id =>
    let used := fun (e : Nat × Nat × Nat) => e.1 == id && e.2.1 == p.dst.toNat
    { s with locator := s.locator.filter (fun e => !used e) ++ s.locator.filter used }

/-- The stub of this chip, the granary of the object, by which a request of its own leaves (15 R348): a forward as any other (R353). -/
def State.ownStub (s : State) (p : Packet) : Option (Nat × Stub) :=
  match routeId p.body with
  | none => none
  | some id =>
    if (look s.objs id).isSome || (look s.locator id).isSome || birthOf id != s.chipId then none
    else (look s.stubs id).elim none (fun x => if x.next = p.dst.toNat then some (id, x) else none)

/-- A request leaves this chip for the first time: with a hop count of 0, or of 1 where a stub of this chip has sent it on. -/
def State.sendFirst (s : State) (p : Packet) : State :=
  match s.ownStub p with
  | none => s.enqueue p
  | some (id, x) => { s with stubs := put s.stubs id { x with used := s.ptime, confirming := false } }.enqueue { p with hops := 1 }

/-- Sends a request or a bulk packet whose answer completes something. -/
def State.request (s : State) (p : Packet) (r : Reply) : State :=
  let t := (s.sendFirst p).useLocator p
  { t with fab := { t.fab with nextTag := (t.fab.nextTag + 1) % 2 ^ 24, replies := t.fab.replies ++ [(p.tag.toNat, p.dst.toNat, r)] } }

/-- A request of a core goes to the first chip of the earliest request of that core to the identifier that is unanswered (15 R349). -/
def State.redirect (s : State) (core id chip : Nat) : Nat :=
  (s.fab.replies.find? (fun r => look s.fab.byCore r.1 == some (core, id))).elim chip (fun r => r.2.1)

/-- Sends a request of a core to an identifier. -/
def State.coreRequest (s : State) (core id : Nat) (p : Packet) (r : Reply) : State :=
  let t := s.request { p with dst := BitVec.ofNat 12 (s.redirect core id p.dst.toNat) } r
  { t with fab := { t.fab with byCore := put t.fab.byCore p.tag.toNat (core, id) } }

/-- The packets of a WAITC that ends: one not sent yet leaves its queue, and one sent gives up its landing buffer (16 R381). -/
def State.forgetWaits (s : State) (w : Agent) : State :=
  let mon := match s.agentWait w with
    | .waitc x => x.monitor
    | _ => false
  let mine := fun (r : Nat × Nat × Reply) => r.2.2 == .wait w
  let own := fun (tag : Nat) (e : Nat × Packet) => e.2.src.toNat == s.chipId && !e.2.resent && vcOf e.2.type == 2 && e.2.tag.toNat == tag
  let unsent := fun (tag : Nat) => s.fab.queue.any (own tag)
  { s with fab := { s.fab with
    queue := s.fab.queue.filter (fun e => !s.fab.replies.any (fun r => mine r && own r.1 e))
    replies := s.fab.replies.filterMap (fun r => if mine r then (if unsent r.1 then none else some (r.1, r.2.1, .lapsed mon)) else some r)
    landing := s.fab.landing - (s.fab.replies.filter (fun r => mine r && !unsent r.1 && r.2.1 != s.chipId)).length } }

/-- The frames of a resident object have Z. -/
def State.objZ (s : State) (id : Nat) : Bool := (look s.objs id).elim false (fun d => attrZ d.attrs)

/-- Status of a "not here" answer, which leaves the request outstanding (15 R348). -/
def notHere : Nat := 256

/-- Answers a request (15 R348, R350; 16 R379): status, the identifier it was served under, this chip and the epoch, values and data, coded where the object has Z (16 R384). -/
def State.respond (s : State) (p : Packet) (status : Nat) (id epoch : Nat) (values : List Word) (data : List Byte) : State :=
  s.enqueue { s.packet .response p.src.toNat (.response (BitVec.ofNat 32 status) id s.chipId epoch values) data with tag := p.tag, coded := s.objZ id }

end Sys2Proof.Machine
end

