-- ==== Sys2Proof/Machine/Mem.lean ====
section
/-! DEFINITION. The memory system: routing of identifiers (15 R348), the checks of 06 R161 and R162, region edges (09 R276 to R280), L1 and leases (09 R256, R257), order of one thread (09 R259) and the performance of one part of a transaction. -/

namespace Sys2Proof.Machine

/-! ### Object identifiers (15 R343, R348) -/

/-- SERIAL of an identifier. -/
def serialOf (id : Nat) : Nat := id % 2 ^ 18

/-- The chip itself, or a VALID chip of the live table (16 R372, R376). -/
def State.validChip (s : State) (c : Nat) : Bool :=
  c == s.chipId || (s.fab.live.elim false (fun t => (look t.entries c).isSome))

/-- Where a request goes from this chip: an object here, another chip (with the granary flag G), or nowhere. -/
inductive Route
  | here (id off : Nat) (d : Desc)
  | away (chip : Nat) (g : Bool) (id off : Nat)
  | gone
  deriving DecidableEq, Repr

/-- Send of 15 R348, with the steps of Receive that this chip takes for a request of its own. Splits rewrite the identifier (R360). -/
def State.route (s : State) : Nat → Nat → Nat → Route
  | 0, _, _ => .gone
  | n + 1, id, off =>
    match look s.objs id with
    | some d =>
      match d.split with
      | none => .here id off d
      | some (b, up) => if off < b then .here id off d else State.route s n up (off - b)
    | none =>
      if serialOf id = 0 then .gone
      else
        match look s.locator id with
        | some (c, _) => .away c false id off
        | none =>
          if birthOf id ≠ s.chipId then .away (birthOf id) false id off
          else
            match look s.stubs id with
            | some x => .away x.next false id off
            | none =>
              match look s.granary id with
              | none => .gone
              | some x =>
                if x.st = 3 then .gone
                else if x.st = 2 ∧ x.boundary ≤ off then State.route s n x.upper (off - x.boundary)
                else if x.chip = s.chipId then (if (look s.incoming id).isSome then .away s.chipId false id off else .gone)
                else .away x.chip true id off

/-- The first chip of Send, for the check at issue (15 R351). -/
def State.firstChip (s : State) (id : Nat) : Nat :=
  if (look s.objs id).isSome then s.chipId
  else
    match look s.locator id with
    | some (c, _) => c
    | none => birthOf id

/-- UNREACHABLE at issue (06 R161; 16 R376). The null identifier and a SERIAL of 0 fault with OBJ_NONE instead (R343). -/
def State.unreachable (s : State) (id : Nat) : Bool := serialOf id != 0 && !(s.validChip (s.firstChip id))

/-! ### Accesses of one lane -/

/-- Cuts an access at sector boundaries (06 R163). Accesses have at most 16 bytes. -/
def splitAccess (lane addr size : Nat) : List Piece :=
  let n := min size (64 - addr % 64)
  if n = size then [{ lane := lane, addr := addr, idx := 0, len := size }]
  else [{ lane := lane, addr := addr, idx := 0, len := n }, { lane := lane, addr := addr + n, idx := n, len := size - n }]

/-- Groups pieces into parts, one per sector, in order of first appearance (06 R163). -/
def groupParts : List Piece → List Part → List Part
  | [], ps => ps
  | p :: r, ps =>
    let same := fun (q : Part) => q.pieces.any (fun x => x.addr / 64 == p.addr / 64)
    groupParts r (if ps.any same then ps.map (fun q => if same q then { q with pieces := q.pieces ++ [p] } else q) else ps ++ [{ st := .todo, pieces := [p] }])

/-- At least one part, so that every transaction ends with a response. -/
def someParts (ps : List Part) : List Part := if ps = [] then [{ st := .todo, pieces := [] }] else ps

/-- The lane number that stands for every lane of the path of a uniform access (06 R171). -/
def uniLane : Nat := 32

/-- The pieces of an object access, the parts that ask another chip whether the object of a lane exists whose offset no pointer can hold, and the lanes that fault already (06 R160, R161). -/
structure ObjAccess where
  pieces : List Piece
  asks : List Part
  faults : List (FaultCode × Nat)
  deriving DecidableEq, Repr

/-- The question whether an object exists: no byte of it. -/
def existsPart (id l : Nat) : Part := { st := .todo, pieces := [{ lane := l, addr := flat id 0, idx := 0, len := 0 }], probe := true }

/-- An object that moves here and is not resident yet, while this chip's granary already names it here. -/
def State.landing (s : State) (id : Nat) : Bool := (look s.objs id).isNone && (look s.incoming id).isSome && (look s.granary id).elim false (fun x => x.chip == s.chipId)

/-- An object access of each lane at its offset. A lane whose offset no pointer can hold has OBJ_NONE where the object does not exist, and OBJ_BOUNDS else. -/
def State.objAccess (s : State) (base size : Nat) (lanes : List Nat) (off : Nat → Int) : ObjAccess :=
  let id := ptrId base
  let at_ := fun l => (ptrOff base : Int) + off l
  let ok := fun l => decide (0 ≤ at_ l) && decide (at_ l + size ≤ 2 ^ 34)
  let bad := lanes.filter (fun l => !ok l)
  let all := fun (c : FaultCode) => bad.map (fun l => (c, l))
  let mk := fun (asks : List Part) (faults : List (FaultCode × Nat)) =>
    ({ pieces := ((lanes.filter ok).map (fun l => splitAccess l (flat id (at_ l).toNat) size)).flatten, asks := asks, faults := faults } : ObjAccess)
  match s.route splitFuel id 0 with
  | .here .. => mk [] (all .objBounds)
  | .away .. => mk (bad.map (existsPart id)) []
  | .gone => mk [] (all (if s.landing id then .objBounds else .objNone))

/-- All the pieces of one lane of a transaction. -/
def Txn.laneAccess (t : Txn) (l : Nat) : List Piece := ((t.parts.filter (fun p => !p.probe)).map (fun p => p.pieces.filter (fun x => x.lane == l))).flatten

/-- Rights an access needs: R, W. -/
structure Need where
  r : Bool
  w : Bool
  deriving DecidableEq, Repr

/-- What stands at a piece: none while only another chip knows it; else the bytes that exist from there on and the attributes, where the object exists. `seen` is what other chips have said. -/
def State.standing (s : State) (seen : List ((Nat × Nat) × Option (Nat × Word))) (p : Piece) : Option (Option (Nat × Word)) :=
  match s.route splitFuel (p.addr / 2 ^ 34) (p.addr % 2 ^ 34) with
  | .here _ off d => some (some (d.len - off, d.attrs))
  | .away c _ _ _ => if s.validChip c then look seen (p.lane, p.idx) else some none
  | .gone => if s.landing (p.addr / 2 ^ 34) then look seen (p.lane, p.idx) else some none

/-- The check of 06 R161 for the access of one lane, by what is known of its pieces. Those of which nothing is known are checked at the chip that serves them. -/
def State.accessFault (s : State) (need : Need) (seen : List ((Nat × Nat) × Option (Nat × Word))) (ps : List Piece) : Option FaultCode :=
  let found := ps.filterMap (fun p => (s.standing seen p).map (fun x => (p.len, x)))
  let known : List (Nat × Nat × Word) := found.filterMap (fun e => e.2.map (fun x => (e.1, x.1, x.2)))
  if found.any (fun e => e.2.isNone) then some .objNone
  else if known.any (fun e => decide (e.2.1 < e.1)) then some .objBounds
  else if known.any (fun e => (need.r && !attrR e.2.2) || (need.w && !attrW e.2.2)) then some .objPerm
  else if known.any (fun e => known.any (fun x => decide (e.2.2 ≠ x.2.2))) then some .mixedAttr
  else none

/-- Where a piece stands in this chip's memory: the flat address of the part of a split that serves it. -/
def State.hereAddr (s : State) (a : Nat) : Option (Nat × Desc) :=
  match s.route splitFuel (a / 2 ^ 34) (a % 2 ^ 34) with
  | .here id off d => some (flat id off, d)
  | _ => none

/-! ### Channels (10 R285): the placement of frames is fixed while an object is resident -/

/-- Chip-wide row number of an offset of a resident object: 32 rows a frame. -/
def rowOf (d : Desc) (off : Nat) : Nat := (d.frame0 + off / 65536) * 32 + off % 65536 / 2048
/-- The channel of a row of an M frame. -/
def chanOf (row : Nat) : Nat := row / 32 % Config.channels
/-- The owner CE of an object, whose affinity store holds the counts of its descriptor: the one that fronts the first line of frame 0 (15 R345; 10 R284). -/
def Desc.ownerCe (d : Desc) : Nat := chanOf (rowOf d 0)

/-- A channel that nothing has touched since reset (10 R287; DESIGN CHOICE, log entry 12). -/
def Channel.fresh (ch : Nat) : Channel :=
  { openRow := none, switching := none, waiting := [], refreshDue := false, lastRefresh := 0, nextRefresh := 1 + Config.refreshPhase ch % 4096, scrubAt := 32 * ch }

/-- A channel. -/
def State.chan (s : State) (ch : Nat) : Channel := (look s.channels ch).getD (Channel.fresh ch)

/-- Changes a channel. -/
def State.onChan (s : State) (ch : Nat) (f : Channel → Channel) : State := { s with channels := put s.channels ch (f (s.chan ch)) }

/-- Row of an activity. -/
def Activity.row? : Activity → Option Nat
  | .refresh => none
  | .demand _ _ r => some r
  | .atomic _ _ r => some r
  | .red _ r => some r
  | .winnow _ r => some r
  | .program _ r => some r
  | .migrate _ _ r => some r
  | .scrub r => some r
  | .request _ _ r => some r
  | .amax _ r => some r

/-- Priority of what a request of the fabric does at a channel: an atomic, the visit of a scan, or a load or store. -/
def requestRank : PBody → Nat
  | .atomic .. => 3
  | .object .. => 4
  | _ => 2

/-- Priority of 10 R287. -/
def Activity.priority : Activity → Nat
  | .refresh => 1
  | .demand .. => 2
  | .atomic .. => 3
  | .red .. => 3
  | .winnow .. => 4
  | .program .. => 5
  | .migrate .. => 6
  | .scrub _ => 7
  | .request _ p _ => requestRank p.body
  | .amax .. => 3

/-- An activity starts to wait at its channel. A demand access abandons a row switch made for priority 3 to 7, whose activity waits again first of its level; the channel then switches for the demand access, or takes no switch where its row is the one still open (10 R288). -/
def State.arriveAt (s : State) (ch : Nat) (a : Activity) : State :=
  s.onChan ch (fun c =>
    match c.switching with
    | some b =>
      if a.priority = 2 ∧ 3 ≤ b.priority then
        (if a.row? = c.openRow then { c with switching := none, waiting := b :: c.waiting ++ [a] } else { c with switching := some a, waiting := b :: c.waiting })
      else { c with waiting := c.waiting ++ [a] }
    | none => { c with waiting := c.waiting ++ [a] })

/-- An activity with a row waits at the channel of its row. -/
def State.arriveRow (s : State) (a : Activity) : State := (a.row?).elim s (fun r => s.arriveAt (chanOf r) a)

/-- A channel is free for an engine's sector access, which ranks with the demand accesses and comes after those that wait (10 R287, R288): no refresh is due and none of them waits or has its row switched. -/
def Channel.free (c : Channel) : Bool :=
  !c.refreshDue && c.switching.elim true (fun a => decide (3 ≤ a.priority)) && !c.waiting.any (fun a => decide (a.priority ≤ 2))

/-- The row of an M frame of this chip at a flat address. -/
def State.rowAt (s : State) (a : Nat) : Option Nat :=
  match s.hereAddr a with
  | some (h, d) => if attrM d.attrs then some (rowOf d (h % 2 ^ 34)) else none
  | none => none

/-- Rows of M frames at a list of addresses. -/
def State.rowsAt (s : State) (addrs : List Nat) : List Nat := (addrs.filterMap s.rowAt).eraseDups

/-- An engine may take the bytes at a list of addresses now: every channel that holds a row of them is free (10 R290). -/
def State.chansFree (s : State) (addrs : List Nat) : Bool := (s.rowsAt addrs).all (fun r => (s.chan (chanOf r)).free)

/-- An engine's accesses of rows: the rows open, and a switch for a lower priority is abandoned (10 R288). What such a step touches it touches whole, within one step of the model (DESIGN CHOICE, log entry 12). -/
def State.openRows (s : State) (addrs : List Nat) : State :=
  (s.rowsAt addrs).foldl (fun t r => t.onChan (chanOf r) (fun c => { c with openRow := some r, switching := none, waiting := c.switching.toList ++ c.waiting })) s

/-! ### Bytes at homes -/

/-- A byte of a context image, whose contents are unspecified (14 R321). -/
def State.blurred (s : State) (a : Nat) : Bool := s.blur.any (fun r => decide (r.1 ≤ a) && decide (a < r.2))

/-- A byte as a non-region read returns it: the committed value (09 R277). Each look at a byte of a context image finds a free value (log entry 56). -/
def State.byteAt (s : State) (a : Nat) : Byte := if s.blurred a then (s.undef 40000 a).setWidth 8 else s.mem.read a

/-- Bytes upwards from an address. -/
def State.bytesAt (s : State) (a n : Nat) : List Byte := (regs a n).map s.byteAt

/-- The little-endian word at an address. -/
def State.wordHere (s : State) (a : Nat) : Word := BitVec.ofNat 32 (natLE (s.bytesAt a 4))

/-- Written bytes are specified again. -/
def State.unblur (s : State) (cells : List (Nat × Byte)) : State :=
  if s.blur = [] then s else { s with blur := cells.foldl (fun l c => cutSpan l c.1 (c.1 + 1)) s.blur }

/-- The topmost version that wrote a byte (09 R277): versions of a line stand in their order of stacking. -/
def State.topVersion (s : State) (a : Nat) : Option (Nat × Byte) :=
  ((s.versions.filter (fun v => v.line == a / 128)).filterMap (fun v => (look v.bytes (a % 128)).map (fun b => (v.slot, b)))).getLast?

/-- A byte as a region's read returns it. -/
def State.regionByte (s : State) (a : Nat) : Byte := (s.topVersion a).elim (s.byteAt a) Prod.snd

/-! ### Forwarding regions (09 R276 to R280) -/

/-- Uncommitted regions that an access of a slot meets (09 R278). -/
def State.newEdges (s : State) (slot line : Nat) (addrs : List Nat) (rd wr : Bool) : List Nat :=
  let fromReads := if rd then (addrs.filterMap s.topVersion).map Prod.fst else []
  let fromWrites := if wr then (s.regions.filter (fun e => e.2.reads.contains line || e.2.writes.contains line)).map Prod.fst else []
  ((fromReads ++ fromWrites).filter (fun a => a != slot)).eraseDups

/-- Length of the longest chain of direct predecessors that ends at a slot (09 R279, 06 R187). -/
def depthOf (rs : List (Nat × Region)) : Nat → Nat → Nat
  | 0, _ => 0
  | n + 1, x =>
    match look rs x with
    | none => 0
    | some r => 1 + maxOf (r.direct.map (depthOf rs n))

/-- The region table once edges from a set of regions to a slot are recorded (09 R278). -/
def addEdges (rs : List (Nat × Region)) (slot : Nat) (es : List Nat) : List (Nat × Region) :=
  match look rs slot with
  | none => rs
  | some b =>
    let up := (es ++ (es.map (fun a => (look rs a).elim [] (fun r => r.preds))).flatten ++ b.preds).eraseDups
    rs.map (fun e =>
      if e.1 = slot then (e.1, { e.2 with preds := up, direct := (e.2.direct ++ es).eraseDups })
      else if e.2.preds.contains slot then (e.1, { e.2 with preds := (e.2.preds ++ up).eraseDups })
      else e)

/-- Adds a number to a set kept as a list without repeats. -/
def addTo (l : List Nat) (x : Nat) : List Nat := if l.contains x then l else l ++ [x]

/-- The abort reason of an access of a slot, or none (09 R279; codes of 06 R186). -/
def State.regionCheck (s : State) (slot line : Nat) (es : List Nat) (rd wr : Bool) : Option Nat :=
  match look s.regions slot with
  | none => none
  | some r =>
    let rs := addEdges s.regions slot es
    if es.any (fun a => (look s.regions a).elim false (fun x => x.preds.contains slot)) then some 2
    else if rs.any (fun e => decide (8 < depthOf rs 16 e.1)) then some 4
    else if (rd && !r.reads.contains line && decide (256 ≤ r.reads.length))
        || (wr && !r.writes.contains line && decide (64 ≤ r.writes.length))
        || (wr && !s.versions.any (fun v => v.line == line && v.slot == slot) && decide (4 ≤ (s.versions.filter (fun v => v.line == line)).length))
      then some 5
    else none

/-- Records an access of a slot: its sets and its edges. -/
def State.regionRecord (s : State) (slot line : Nat) (es : List Nat) (rd wr : Bool) : State :=
  let rs := upd s.regions slot (fun r => { r with
    reads := if rd then addTo r.reads line else r.reads
    writes := if wr then addTo r.writes line else r.writes })
  { s with regions := addEdges rs slot es }

/-- Writes bytes into a slot's version of a line, which stacks on the versions present (09 R277). -/
def State.versionWrite (s : State) (slot line : Nat) (cells : List (Nat × Byte)) : State :=
  let add := fun (v : Version) => { v with bytes := cells.foldl (fun b c => put b (c.1 % 128) c.2) v.bytes }
  if s.versions.any (fun v => v.line == line && v.slot == slot) then
    { s with versions := s.versions.map (fun v => if v.line = line ∧ v.slot = slot then add v else v) }
  else { s with versions := s.versions ++ [add { line := line, slot := slot, bytes := [] }] }

/-- A line that an ENDED region holds, or at which an earlier write is held: a non-region write waits (09 R280). -/
def State.lineHeld (s : State) (line : Nat) : Bool :=
  s.held.any (fun h => h.line == line) || s.regions.any (fun e => e.2.ended && (e.2.reads.contains line || e.2.writes.contains line))

/-- A non-region write takes effect on committed values, and the ACTIVE regions that have read one of its lines abort with NONREGION in the same instant (09 R280, R282). -/
def State.strike (s : State) (lines : List Nat) : State :=
  s.abortAll ((s.regions.filter (fun e => !e.2.ended && lines.any e.2.reads.contains)).map (fun e => (e.1, 6)))

/-- Lines of a list of cells. -/
def cellLines (cells : List (Nat × Byte)) : List Nat := (cells.map (fun c => c.1 / 128)).eraseDups

/-- Clears the poison, and an error in DRAM, of the sectors that one write covers whole (17 R399). DEDUCED, log entry 37. -/
def State.unpoison (s : State) (cells : List (Nat × Byte)) : State :=
  let whole := fun (x : Nat) => (List.range 64).all (fun i => cells.any (fun c => c.1 == 64 * x + i))
  { s with poison := s.poison.filter (fun x => !whole x), flaws := s.flaws.filter (fun f => !whole f.sector) }

/-- Marks the frame of a write dirty when a migration has already copied it (15 R356). -/
def State.dirty (s : State) (cells : List (Nat × Byte)) : State :=
  (cells.map (fun c => c.1 / 65536)).eraseDups.foldl (fun t f =>
    let id := f / 2 ^ 18
    let n := f % 2 ^ 18
    { t with objs := upd t.objs id (fun d => { d with mig := d.mig.map (fun m => if m.queue.contains n || m.stage == .reserving then m else { m with dirty := addTo m.dirty n }) }) }) s

/-! ### Monitors (05 R143) -/

/-- The word a WAITC watches, when its home is here. -/
def State.watched (s : State) (id off : Nat) : Option Nat := (s.hereAddr (flat id off)).map Prod.fst

/-- A write reaches a watched word. -/
def touches (cells : List (Nat × Byte)) (a : Nat) : Bool := cells.any (fun c => decide (a ≤ c.1) && decide (c.1 < a + 4))

/-- A wait once a write has reached its watched word: the value that satisfies the condition is kept until the wake. -/
def State.seen (s : State) (cells : List (Nat × Byte)) (w : Wait) : Wait :=
  match w with
  | .waitc x =>
    match s.watched x.id x.off with
    | some a => if x.monitor ∧ touches cells a ∧ wcompare x.cond x.n32 (s.wordHere a) x.value then .waitc { x with hit := true } else w
    | none => w
  | _ => w

/-- Monitors of this chip's groups and sequencers see the value a write leaves (05 R143). -/
def State.notifyOwn (s : State) (cells : List (Nat × Byte)) : State :=
  { s with
    groups := s.groups.map (fun e => (e.1, { e.2 with wait := s.seen cells e.2.wait }))
    seqs := s.seqs.map (fun e => (e.1, { e.2 with wait := s.seen cells e.2.wait })) }

/-- A monitor set here for another chip is satisfied. -/
def State.monitorHit (s : State) (cells : List (Nat × Byte)) (p : Packet) : Bool :=
  match p.body with
  | .monitor ptr c u v _ =>
    match s.watched (ptrId ptr.toNat) (ptrOff ptr.toNat) with
    | some a => touches cells a && wcompare c u (s.wordHere a) v
    | none => false
  | _ => false

/-- Epoch of a resident object. -/
def State.epochOf (s : State) (id : Nat) : Nat := (look s.objs id).elim 0 (fun d => d.epoch)

/-- Monitors held for other chips answer their wake. -/
def State.notifyRemote (s : State) (cells : List (Nat × Byte)) : State :=
  (s.fab.monitors.filter (s.monitorHit cells)).foldl (fun t p =>
    let id := match p.body with
      | .monitor ptr .. => ptrId ptr.toNat
      | _ => 0
    { t with fab := { t.fab with monitors := t.fab.monitors.erase p } }.respond p 0 id (t.epochOf id) [1] []) s

/-- The identifiers that hold an object's bytes: its own, and those of its splits. -/
def State.partsOf (s : State) : Nat → Nat → List Nat
  | 0, id => [id]
  | n + 1, id => id :: (((look s.objs id).elim none (fun d => d.split)).elim [] (fun x => State.partsOf s n x.2))

/-- Identifiers that tasks in the task table run code from. -/
def State.codeIds (s : State) : List Nat := (s.tasks.map (fun e => s.partsOf splitFuel (ptrId (pairVal (e.2.p.getD 0 0) (e.2.p.getD 1 0))))).flatten

/-- Marks the frames of running code that a write touches (03 R62). DEDUCED, log entry 38. -/
def State.markStale (s : State) (cells : List (Nat × Byte)) : State :=
  { s with stale := ((cells.map (fun c => c.1 / 65536)).eraseDups.filter (fun f => s.codeIds.contains (f / 2 ^ 18))).foldl addTo s.stale }

/-- Bytes take effect on committed values: poison, frames of code, dirty frames and monitors follow. -/
def State.landCells (s : State) (cells : List (Nat × Byte)) : State :=
  (((({ s with mem := s.mem.cells cells }.unblur cells).unpoison cells).markStale cells).dirty cells).notifyOwn cells |>.notifyRemote cells

/-- One non-region write of committed bytes (09 R255, R280). -/
def State.commitCells (s : State) (cells : List (Nat × Byte)) : State := (s.strike (cellLines cells)).landCells cells

/-! ### Completion times and floors (09 R257, R260, R267) -/

/-- Latest expiry granted on a line. -/
def State.lxOf (s : State) (line : Nat) : Nat := (look s.lx line).getD 0

/-- GWCT of a write to a line of a resident object. -/
def State.gwctOf (s : State) (d : Desc) (line : Nat) : Nat := if attrL d.attrs then max s.ptime (s.lxOf line) else s.ptime

/-- Merges a completion time into an agent's. -/
def State.mergeGwct (s : State) (w : Agent) (x : Nat) : State :=
  match w with
  | .grp k => s.onGroup k (fun g => { g with gwct := max g.gwct x })
  | .sqr q => s.onSeq q (fun e => { e with gwct := max e.gwct x })

/-- Block of an agent. -/
def agentBlk : Agent → Nat
  | .grp k => k.blk
  | .sqr q => q.sg.blk

/-- The scope instance of an agent spans more than one core (09 R262). -/
def State.spans (s : State) (w : Agent) (sc : Scope) : Bool :=
  match look s.blocks (agentBlk w) with
  | none => true
  | some b =>
    match sc with
    | .group => false
    | .block => decide (1 < b.cores.length)
    | .cohort => decide (1 < (b.cores ++ b.span).eraseDups.length)
    | .chip | .pod => true

/-- An acquire raises the floor of a group to its instant when its scope spans more than one core (09 R260). Floors and fill instants count clocks (DEDUCED, log entry 13). -/
def State.acquire (s : State) (w : Agent) (sc : Scope) : State :=
  match w with
  | .grp k => if s.spans w sc then s.onGroup k (fun g => { g with floor := max g.floor s.clock }) else s
  | .sqr _ => s

/-! ### L1 (09 R256) -/

/-- Drops a core's copies of sectors. -/
def State.dropCopies (s : State) (core : Nat) (sectors : List Nat) : State := { s with l1 := s.l1.filter (fun x => !(x.core == core && sectors.contains x.sector)) }

/-- The stream hint ranks a core's lines first to leave its L1, any other use takes that away (03 R65). -/
def State.rankL1 (s : State) (core : Nat) (lines : List Nat) (h : Hint) : State :=
  { s with l1 := s.l1.map (fun x => if x.core = core ∧ lines.contains (x.sector / 2) then { x with stream := h == .stream } else x) }

/-- Where a byte stands: the flat address of the part of a split that holds it, as far as this chip knows (15 R360). Two identifiers of one byte have one place. -/
def State.place (s : State) (a : Nat) : Nat :=
  match s.route splitFuel (a / 2 ^ 34) (a % 2 ^ 34) with
  | .here id off _ => flat id off
  | .away _ _ id off => flat id off
  | .gone => a

/-- A store or atomic issues: its core's copies of the sectors it writes go, and what fills under way fetch of them is not installed (09 R256). -/
def State.dropL1 (s : State) (core : Nat) (sectors : List Nat) : State :=
  let t := s.dropCopies core sectors
  { t with txns := t.txns.map (fun x =>
      if x.core = core then
        { x with parts := x.parts.map (fun p => if p.st != .done && p.pieces.any (fun y => sectors.contains (s.place y.addr / 64)) then { p with fill := false } else p) }
      else x) }

/-- The sector a core may serve to a group: held, not expired, filled at or after the floor. -/
def State.l1Hit (s : State) (core sector floor : Nat) : Option L1Sector :=
  s.l1.find? (fun x => x.core == core && x.sector == sector && decide (s.ptime ≤ x.expiry) && decide (floor ≤ x.fill))

/-! ### Transactions -/

/-- The threads of a transaction: its lanes, or the one thread of a sequencer. -/
def Txn.threads (t : Txn) : Mask :=
  match t.who with
  | .grp _ => t.lanes
  | .sqr _ => 1

/-- Two pieces at their places are accesses of one thread to overlapping bytes. -/
def piecesMeet (a b : Piece) (common : Mask) : Bool :=
  decide (a.addr < b.addr + b.len) && decide (b.addr < a.addr + a.len)
    && (a.lane == b.lane || a.lane == uniLane || b.lane == uniLane) && common != 0

/-- A transaction touches the scratchpad. -/
def Txn.scratch (t : Txn) : Bool :=
  match t.kind with
  | .load s .. => s
  | .store s .. => s
  | .rmw s .. => s
  | _ => false

/-- Acquire loads and atomics order what follows (09 R259). -/
def Txn.acquires (t : Txn) : Bool :=
  match t.kind with
  | .load _ _ _ (.acquire _) _ => true
  | .rmw .. => true
  | _ => false

/-- Release stores and atomics wait for what precedes. -/
def Txn.releases (t : Txn) : Bool :=
  match t.kind with
  | .store _ _ (.release _) _ => true
  | .rmw .. => true
  | _ => false

/-- A memory access, not a counted command. -/
def Txn.access (t : Txn) : Bool :=
  match t.kind with
  | .command .. => false
  | _ => true

/-- Parts not yet performed. -/
def Txn.open (t : Txn) : List Part := t.parts.filter (fun p => p.st != .done)

/-- Pieces at their places; a scratchpad's are where they are. -/
def State.placed (s : State) (scratch : Bool) (ps : List Piece) : List Piece := if scratch then ps else ps.map (fun x => { x with addr := s.place x.addr })

/-- Lanes that joins of GSYNC, the newest first, put before a set of lanes: each with the number below which its transactions stand before them. A chain of joins orders as its links do, since happens-before is transitive (05 R139; 09 R263, R264). -/
def joinedPast : List (Mask × Nat) → Mask → List (Mask × Nat)
  | [], _ => []
  | j :: r, lanes => if j.1 &&& lanes = 0 then joinedPast r lanes else j :: joinedPast r (lanes ||| j.1)

/-- Joins of GSYNC put the lanes of one transaction of a group, as they were then, before another (05 R139). -/
def State.joinPuts (s : State) (t u : Txn) : Bool :=
  match t.who with
  | .grp k => (look s.groups k).elim false (fun g =>
      (joinedPast ((g.syncs.filter (fun j => decide (j.2 ≤ t.id))).reverse) t.threads).any (fun j => decide (u.id < j.2) && (u.threads &&& j.1) != 0))
  | .sqr _ => false

/-- Two identifiers may name one byte: they are the same, or both lie at other chips, where one may be the upper part of a split of the other that this chip does not know; the two are then assigned by one granary (15 R360). -/
def State.maySame (s : State) (a b : Nat) : Bool :=
  let away := fun (x : Nat) => match s.route splitFuel x 0 with | .away .. => true | _ => false
  a == b || (birthOf a == birthOf b && away a && away b)

/-- Two pieces at other chips may be accesses of one thread to one byte under two identifiers. -/
def State.piecesMay (s : State) (a b : Piece) (common : Mask) : Bool :=
  decide (a.addr / 2 ^ 34 ≠ b.addr / 2 ^ 34) && s.maySame (a.addr / 2 ^ 34) (b.addr / 2 ^ 34) && (a.lane == b.lane || a.lane == uniLane || b.lane == uniLane) && common != 0

/-- The rest of a TRX's table is read before its thread's later accesses of the same object (09 R258, R259: which bytes it will read is not known yet). -/
def State.tableAhead (s : State) (t u : Txn) (p : Part) : Bool :=
  match u.kind with
  | .trx _ _ table _ _ => !t.scratch && p.pieces.any (fun x => (s.partsOf splitFuel (ptrId table)).any (fun i => s.maySame i (s.place x.addr / 2 ^ 34)))
  | _ => false

/-- The rows of 09 R259 that hold a part behind an earlier transaction, and the joins of GSYNC, by which a release also waits for what they put before it (09 R264); an L1-served load waits only for overlapping accesses. -/
def State.heldBehind (s : State) (t u : Txn) (p : Part) (served : Bool) : Bool :=
  let joined := s.joinPuts t u
  let common := t.threads &&& u.threads
  let meet := fun (x y : Piece) (m : Mask) => piecesMeet x y m || (!t.scratch && s.piecesMay x y m)
  let meets := fun (x y : Piece) => meet x y common || (joined && meet { x with lane := uniLane } y 1)
  u.who == t.who && decide (u.id < t.id) && u.access && !p.probe &&
    ((u.scratch == t.scratch && (common != 0 || joined) && u.open.any (fun q => !q.probe && (s.placed u.scratch q.pieces).any (fun x => (s.placed t.scratch p.pieces).any (meets x))))
      || (common != 0 && !u.open.isEmpty && s.tableAhead t u p)
      || (!served && !u.open.isEmpty && ((common != 0 && (u.acquires || t.releases)) || joined)))

/-- Lanes of one atomic that name one location perform in ascending order (06 R173), and so do the lanes of a store that were sent one by one (06 R168). -/
def heldInside (t : Txn) (n : Nat) (p : Part) : Bool :=
  match t.kind with
  | .rmw .. | .store .. => !p.probe && (t.parts.take n).any (fun q => q.st != .done && !q.probe && q.pieces.any (fun x => p.pieces.any (fun y => decide (x.addr < y.addr + y.len) && decide (y.addr < x.addr + x.len))))
  | _ => false

/-- An access of a lane waits for what other chips say of its halves (06 R161; DEDUCED, log entry 37). -/
def Txn.asking (t : Txn) (p : Part) : Bool :=
  !p.probe && t.parts.any (fun q => q.probe && q.st != .done && q.pieces.any (fun y => p.pieces.any (fun x => x.lane == y.lane)))

/-- An object that accesses of this chip may not reach yet: it is cutting over, or forwarded requests come first (15 R357). -/
def Desc.closed (d : Desc) : Bool := d.mig.elim false (fun m => m.cutting) || decide (0 < d.left)

/-- The fetch path reads code, the HTS data (03 R62). -/
def FarBy.kind : FarBy → AccessKind
  | .code _ => .code
  | _ => .data

/-- The request of a read for the fetch path or the HTS is made. One of an object that has come here meanwhile is made no more. -/
def State.farSend (s : State) (r : FarRead) : State :=
  let note := fun (t : State) (x : FarRead) => { t with far := t.far.map (fun y => if y = r then x else y) }
  match s.route splitFuel (r.addr / 2 ^ 34) (r.addr % 2 ^ 34) with
  | .here .. => { s with far := s.far.filter (fun y => !(y == r)) }
  | .away c g id off =>
    if s.validChip c then note (s.request { s.packet .read c (.read (BitVec.ofNat 64 (flat id off)) r.bytes (.plain r.who.kind)) [] with g := g } (.far r.who r.addr)) { r with sent := true }
    else note s { r with got := some (0x0A, []) }
  | .gone => if s.landing (r.addr / 2 ^ 34) then s else note s { r with got := some (0x07, []) }

/-- The answer of such a read. -/
def State.farGot (s : State) (w : FarBy) (a status : Nat) (data : List Byte) : State :=
  { s with far := s.far.map (fun r => if r.who = w ∧ r.addr = a then { r with got := some (status, data) } else r) }

/-- An access to a flat address has to wait for a cut-over. -/
def State.closedAt (s : State) (a : Nat) : Bool := s.landing (a / 2 ^ 34) || (s.hereAddr a).elim false (fun e => e.2.closed)

/-- The region of an agent. -/
def State.regionOf (s : State) (w : Agent) : Option Nat :=
  match w with
  | .grp k => (look s.groups k).elim none (fun g => g.region)
  | .sqr _ => none

/-- The hold queue has no room: what comes from this chip's own cores waits in their transaction tables (15 R358). -/
def State.holdFull (s : State) : Bool := decide (Config.holdQueue ≤ s.hold.length)

/-- A request of this chip to a flat address can be made neither here nor to the hold queue. -/
def State.stuckAt (s : State) (a : Nat) : Bool := s.closedAt a && s.holdFull

/-- The object of some piece is cutting over, and the access cannot join the hold queue: it is full, or the access is a region's. -/
def State.cutting (s : State) (w : Agent) (p : Part) : Bool := p.pieces.any (fun x => s.closedAt x.addr) && (s.holdFull || (s.regionOf w).isSome)

/-- Where a request of this chip goes, as `route` has it; a request for an object that is cutting over, or whose forwarded requests come first, comes to this chip's own hold queue (15 R357). -/
def State.sendTo (s : State) (a : Nat) : Route :=
  match s.route splitFuel (a / 2 ^ 34) (a % 2 ^ 34) with
  | .here id off d => if d.closed then .away s.chipId false id off else .here id off d
  | .gone => if s.landing (a / 2 ^ 34) then .away s.chipId false (a / 2 ^ 34) (a % 2 ^ 34) else .gone
  | r => r

/-- The agent's region has aborted and not been taken. -/
def State.abortedRegion (s : State) (w : Agent) : Bool :=
  match w with
  | .grp k => (look s.groups k).elim false (fun g => g.region.isSome && g.abort.isSome)
  | .sqr _ => false

/-- The sector an L1-served load returns: of an L frame here, or of one that has moved away, whose copies are served until their leases expire (09 R256, R270). -/
def State.served? (s : State) (t : Txn) (p : Part) : Option L1Sector :=
  match t.who, t.kind, p.pieces with
  | .grp k, .load false _ _ .relaxed h, x :: _ =>
    match look s.groups k with
    | none => none
    | some g =>
      let may : Bool := match s.route splitFuel (x.addr / 2 ^ 34) (x.addr % 2 ^ 34) with
        | .here _ _ d => attrL d.attrs
        | .away .. => true
        | .gone => false
      if h != .nol1 && may && g.region.isNone then s.l1Hit t.core (s.place x.addr / 64) g.floor else none
  | _, _, _ => none

/-- A part may perform now. -/
def State.partReady (s : State) (t : Txn) (n : Nat) : Bool :=
  match t.parts[n]? with
  | none => false
  | some p =>
    p.st == .todo && !heldInside t n p && !t.asking p
      && !s.txns.any (fun u => s.heldBehind t u p (s.served? t p).isSome)
      && !(t.access && !t.scratch && s.cutting t.who p)

/-- Changes a transaction. -/
def State.onTxn (s : State) (id : Nat) (f : Txn → Txn) : State := { s with txns := s.txns.map (fun t => if t.id = id then f t else t) }

/-- The transaction of a number. -/
def State.txn? (s : State) (id : Nat) : Option Txn := s.txns.find? (fun t => t.id == id)

/-- Changes the state of a part. -/
def State.setPart (s : State) (id n : Nat) (st : PartState) : State :=
  s.onTxn id (fun t => { t with parts := t.parts.modify n (fun p => { p with st := st }) })

/-- Adds a deferred fault to an agent (02 R57). -/
def State.defer (s : State) (w : Agent) (d : Deferred) : State :=
  match w with
  | .grp k => s.onGroup k (fun g => { g with deferred := g.deferred ++ [d] })
  | .sqr q => s.onSeq q (fun e => { e with deferred := e.deferred ++ [d] })

/-- The lowest of a list of fault codes (06 R161). -/
def lowestCode (l : List FaultCode) : Option FaultCode := minBy FaultCode.code l

/-- Lanes that a list of lane faults names. -/
def faultLanes (t : Txn) (fs : List (FaultCode × Nat)) : Mask :=
  if fs.any (fun f => f.2 == uniLane) then t.lanes else maskOf (fs.map Prod.snd)

/-- The response of the last part: the entry frees, OUTS falls, faults become a deferred fault (02 R47, R52, R56). -/
def State.closeTxn (s : State) (id : Nat) : State :=
  match s.txn? id with
  | none => s
  | some t =>
    if t.open.isEmpty then
      let u := { s with txns := s.txns.filter (fun x => !(x.id == id)) }
      let u :=
        match t.who with
        | .grp k => u.onGroup k (fun g => { g with outs := g.outs - 1 })
        | .sqr q => u.onSeq q (fun e => { e with outs := e.outs - 1 })
      match lowestCode (t.faults.map Prod.fst) with
      | none => u
      | some c => u.defer t.who { code := c, pc := t.pc, lanes := faultLanes t t.faults, order := t.id }
    else s

/-- A part has performed. -/
def State.partDone (s : State) (id n : Nat) : State := (s.setPart id n .done).closeTxn id

/-! ### Destinations -/

/-- Writes bytes into a word from a position. -/
def putBytes (w : Word) : Nat → List Byte → Word
  | _, [] => w
  | k, b :: r => putBytes (if k < 4 then (w &&& ~~~(0xFF#32 <<< (8 * k))) ||| (b.setWidth 32 <<< (8 * k)) else w) (k + 1) r

/-- Extends the low bytes of a word as the size says (06 R167). -/
def sizeExtend (z : Size) (w : Word) : Word :=
  match z with
  | .i8 => (w.setWidth 8).signExtend 32
  | .n8 => (w.setWidth 8).setWidth 32
  | .i16 => (w.setWidth 16).signExtend 32
  | .n16 => (w.setWidth 16).setWidth 32
  | _ => w

/-- Changes one word of a destination as its data returns. -/
def State.destMod (s : State) (w : Agent) (d : Dest) (k l : Nat) (f : Word → Word) : State :=
  match w, d with
  | .grp g, .v r => s.onGroup g (fun x => x.vreturn (r + k) l (f ((x.v.getD (r + k) VReg.zero).lanes.getD l 0)))
  | .grp g, .g r => s.onGroup g (fun x => x.greturn (r + k) (f (x.g.getD (r + k) 0)))
  | .sqr q, .g r => s.onSeq q (fun x => { x with e := x.e.set (r + k) (f (x.e.getD (r + k) 0)) })
  | _, _ => s

/-- The words a fault leaves undefined (02 R56): they count as overwritten until the park. -/
def State.destLose (s : State) (w : Agent) (d : Dest) (n l : Nat) : State :=
  match w, d with
  | .grp g, .v r => s.onGroup g (fun x => { x with clobV := (regs r n).foldl (fun c j => addLanes c j (1#32 <<< l)) x.clobV })
  | .grp g, .g r => s.onGroup g (fun x => { x with clobG := (x.clobG ++ regs r n).eraseDups })
  | .sqr q, .g r => s.onSeq q (fun x => { x with clob := (x.clob ++ regs r n).eraseDups })
  | _, _ => s

/-- The data of one piece returns: bytes idx onwards of the access, register by register. -/
def State.destBytes (s : State) (w : Agent) (d : Dest) (z : Size) (p : Piece) (bs : List Byte) : State :=
  (List.range z.regs).foldl (fun t k =>
    let mine := ((List.range bs.length).filter (fun i => decide (4 * k ≤ p.idx + i) && decide (p.idx + i < 4 * k + 4)))
    match mine with
    | [] => t
    | i :: _ => t.destMod w d k p.lane (fun x => sizeExtend z (putBytes x (p.idx + i - 4 * k) (mine.map (fun j => bs.getD j 0))))) s

/-- Poisoned data returns: POISON on v registers, undefined words and a deferred fault for g and e registers (06 R167, R172; 17 R400). Every destination register of the load takes it, also where one of its two sectors alone is poisoned (DESIGN CHOICE, log entry 37). -/
def State.destPoison (s : State) (t : Txn) (d : Dest) (n : Nat) : State :=
  match t.who, d with
  | .grp g, .v r => s.onGroup g (fun x => (regs r n).foldl (fun y j => y.vtag j .poison) x)
  | _, .none => s
  | _, .g _ => (s.destLose t.who d n uniLane).onTxn t.id (fun u => { u with faults := u.faults ++ [(.poison, uniLane)] })
  | _, _ => s

/-! ### Checks as a part performs -/

/-- Rights of a transaction. -/
def Txn.need (t : Txn) : Need :=
  match t.kind with
  | .store .. => ⟨false, true⟩
  | .rmw .. => ⟨true, true⟩
  | _ => ⟨true, false⟩

/-- Result registers of a transaction. -/
def Txn.dest (t : Txn) : Dest × Nat :=
  match t.kind with
  | .load _ d z _ _ => (d, z.regs)
  | .rmw _ d o _ _ => (d, o.words)
  | _ => (.none, 0)

/-- Checks the lanes of a part (06 R161): the transaction notes the lanes that fault, whose words are lost. -/
def State.checkPart (s : State) (t : Txn) (p : Part) : State :=
  if t.scratch then s
  else
    ((p.pieces.map (fun x => x.lane)).eraseDups).foldl (fun u l =>
      if (u.txn? t.id).elim true (fun x => x.faults.any (fun f => f.2 == l)) then u
      else
        match s.accessFault t.need t.seen (t.laneAccess l) with
        | none => u
        | some c => (u.onTxn t.id (fun x => { x with faults := x.faults ++ [(c, l)] })).destLose t.who t.dest.1 t.dest.2 l) s

/-- Pieces of a part whose lanes have no fault. -/
def State.goodPieces (s : State) (t : Txn) (p : Part) : List Piece :=
  let fs := (s.txn? t.id).elim [] (fun x => x.faults)
  p.pieces.filter (fun x => !fs.any (fun f => f.2 == x.lane))

/-- Lines, in this chip's memory, of a list of pieces. -/
def State.linesOf (s : State) (ps : List Piece) : List Nat := (ps.filterMap (fun x => (s.hereAddr x.addr).map (fun e => e.1 / 128))).eraseDups

/-- Addresses, in this chip's memory, of the bytes of a list of pieces. -/
def State.addrsOf (s : State) (ps : List Piece) : List Nat :=
  (ps.filterMap (fun x => (s.hereAddr x.addr).map (fun e => regs e.1 x.len))).flatten

/-- How an access of an agent's region goes: outside any region, inside (recorded), after its region has aborted, or without effect because the region aborts now. -/
inductive InRegion
  | outside
  | inside (slot : Nat)
  | over
  | void
  deriving DecidableEq, Repr

/-- Region rules of one part, whose pieces lie in one line (09 R276, R278, R279). DEDUCED, log entry 28. -/
def State.regionAccess (s : State) (w : Agent) (ps : List Piece) (rd wr : Bool) : State × InRegion :=
  match s.regionOf w with
  | none => (s, .outside)
  | some slot =>
    if s.abortedRegion w then (s, .over)
    else
      match ps with
      | [] => (s, .inside slot)
      | x :: _ =>
        match s.hereAddr x.addr with
        | none => (s.abortRegion slot 9, .void)
        | some (a, d) =>
          if attrM d.attrs then (s.abortRegion slot 9, .void)
          else
            let es := s.newEdges slot (a / 128) (s.addrsOf ps) rd wr
            match s.regionCheck slot (a / 128) es rd wr with
            | some c => (s.abortRegion slot c, .void)
            | none => (s.regionRecord slot (a / 128) es rd wr, .inside slot)

/-! ### Scratchpad bytes and tiles (06 R167) -/

/-- Some byte of a scratchpad range belongs to a tile in one of the states given. -/
def Segment.tileHas (g : Segment) (a n : Nat) (sts : List TileState) : Bool :=
  g.tiles.any (fun e => sts.contains e.2.st && decide (a < e.2.off + e.2.len) && decide (e.2.off < a + n))

/-- Segment of an agent. -/
def State.segOf (s : State) (w : Agent) : SKey :=
  match w with
  | .grp k => (look s.groups k).elim ⟨k.blk, 0⟩ (fun g => ⟨k.blk, g.seg⟩)
  | .sqr q => q.sg

/-- Bytes of an undefined value. -/
def State.undefBytes (s : State) (place lane n : Nat) : List Byte := (bytesLE 4 (s.undef place lane).toNat ++ bytesLE 4 (s.undef (place + 1) lane).toNat
  ++ bytesLE 4 (s.undef (place + 2) lane).toNat ++ bytesLE 4 (s.undef (place + 3) lane).toNat).take n

/-- Reads n bytes of a segment's scratchpad; a FILLING tile's are undefined. -/
def State.scrRead (s : State) (sg : SKey) (a n lane : Nat) : List Byte :=
  match look s.segs sg with
  | none => List.replicate n 0
  | some g => if g.tileHas a n [.filling] then s.undefBytes 16384 lane n else g.scratch.bytes a n

/-- Some byte of a scratchpad range belongs to a matrix command that no MWAIT and barrier cover yet (07 R205). -/
def Segment.unseenAt (g : Segment) (a n : Nat) : Bool := g.unseen.any (fun x => x.spans.any (fun r => decide (a < r.1 + r.2) && decide (r.1 < a + n)))

/-- Reads n bytes of a segment's scratchpad for an agent: to a group, those of a matrix command that no MWAIT and barrier cover are undefined (07 R205). -/
def State.scrLook (s : State) (w : Agent) (sg : SKey) (a n lane : Nat) : List Byte :=
  match w with
  | .grp _ => if (look s.segs sg).elim false (fun g => g.unseenAt a n) then s.undefBytes 16384 lane n else s.scrRead sg a n lane
  | .sqr _ => s.scrRead sg a n lane

/-- Writes bytes to a segment's scratchpad; those of a FILLING or DRAINING tile become undefined. -/
def State.scrWrite (s : State) (sg : SKey) (a : Nat) (bs : List Byte) (lane : Nat) : State :=
  s.onSeg sg (fun g => { g with
    scratch := g.scratch.put a (if g.tileHas a bs.length [.filling, .draining] then s.undefBytes 16400 lane bs.length else bs) })

/-- A write of whole 64-byte sectors of a segment's scratchpad takes their poison away (17 R399). -/
def State.scrClean (s : State) (sg : SKey) (ranges : List (Nat × Nat)) : State :=
  let covered := fun (x : Nat) => (List.range 64).all (fun i => ranges.any (fun r => decide (r.1 ≤ 64 * x + i) && decide (64 * x + i < r.1 + r.2)))
  s.onSeg sg (fun g => { g with poison := g.poison.filter (fun x => !covered x) })

/-- A sector of a segment's scratchpad is poisoned. -/
def State.scrPoison (s : State) (sg : SKey) (a : Nat) : Bool := (look s.segs sg).elim false (fun g => g.poison.contains (a / 64))

end Sys2Proof.Machine
end

