-- ==== Sys2Proof/Machine/Memory.lean ====
section
/-! DEFINITION. Loads, stores, atomics, TRX, BALLOT to scratchpad, and the return of their responses (06 R165 to R179; 04 R121; 02 R52, R53; 09 R256). -/

namespace Sys2Proof.Machine

/-! ### Issue -/

/-- LEASE as an instruction of a pair reads it. -/
def Group.leaseNow (g : Group) : Nat := (g.view.map (fun v => v.lease)).getD g.lease

/-- Takes a transaction-table entry (02 R52). While the table is full the path waits at the instruction (08 R235). The words of lanes that fault already are lost (02 R56). -/
def State.openTxn (s : State) (m : Bool) (len : Nat) (kind : TxnKind) (parts : List Part) (faults : List (FaultCode × Nat)) (pre : State → State) : State :=
  if s.entryFree then
    let t : Txn := { id := s.nextTxn, who := s.curAgent, core := s.coreOf s.curSeg, pc := s.curPc, lanes := s.curLanes, kind := kind, parts := someParts parts, faults := faults, lease := s.curGroup.elim 0 (fun g => g.leaseNow), seen := [] }
    let u := pre s
    let u := { u with txns := u.txns ++ [t], nextTxn := u.nextTxn + 1 }
    let u := faults.foldl (fun u f => u.destLose t.who t.dest.1 t.dest.2 f.2) u
    let u :=
      match u.cur with
      | .idle => u
      | .path k _ _ => u.onGroup k (fun g => { g with outs := g.outs + 1 })
      | .seq q => u.onSeq q (fun e => { e with outs := e.outs + 1 })
    u.finish m len
  else s

/-- Marks v registers of the issuing group as destinations, with their tags (06 R166). -/
def State.pendV (s : State) (r n : Nat) (t : Tag) : State :=
  (List.range n).foldl (fun u k =>
    match u.cur with
    | .path g lanes _ => u.onGroup g (fun x => x.vpend (r + k) (loadTagAt t k) lanes)
    | _ => u) s

/-- Marks g or e registers as destinations. -/
def State.pendU (s : State) (r n : Nat) : State :=
  (regs r n).foldl (fun u j =>
    match u.cur with
    | .path g _ _ => u.onGroup g (fun x => x.gpend j)
    | .seq q => u.onSeq q (fun x => x.epend j)
    | .idle => u) s

/-- Active lanes. -/
def State.laneList (s : State) : List Nat := lanesOf s.curLanes

/-- ALIGN and SCR_RANGE of a scratchpad access (06 R162): every lane is checked before any performs. -/
def State.scrExcs (s : State) (lanes : List Nat) (addr : Nat → Int) (size : Nat) (uniform : Bool) : List (Option Exc) :=
  let names := fun (ls : List Nat) => if uniform then s.curLanes else maskOf ls
  let bad1 := lanes.filter (fun l => addr l % (size : Int) != 0)
  let bad2 := lanes.filter (fun l => decide (addr l < 0) || decide ((s.scrSize s.curBlk : Int) < addr l + size))
  [excIf (!bad1.isEmpty) (.at_ .align (names bad1)), excIf (!bad2.isEmpty) (.at_ .scrRange (names bad2))]

/-- Pieces of scratchpad accesses that have passed their checks. -/
def scrPieces (lanes : List Nat) (addr : Nat → Int) (size : Nat) : List Piece :=
  (lanes.map (fun l => splitAccess l (addr l).toNat size)).flatten

/-- Offset of each lane of an LM or LA access (06 R160). -/
def State.lmOff (s : State) (off : LaneOffset) (imm : BitVec 12) (l : Nat) : Int := s.laneIdx off l + disp imm
/-- Scratchpad address of each lane (06 R162). -/
def State.lmScr (s : State) (base : Nat) (off : LaneOffset) (imm : BitVec 12) (l : Nat) : Int := ((s.readU 0 base).toNat : Int) + s.lmOff off imm l
/-- Offset of a uniform access: gb as i32 and a 9-bit displacement (06 R171). -/
def State.gmOff (s : State) (gb : Nat) (d : BitVec 9) (_l : Nat) : Int := (s.readU 1 gb).toInt + disp d
/-- Scratchpad address of a uniform access. -/
def State.gmScr (s : State) (ga gb : Nat) (d : BitVec 9) (l : Nat) : Int := ((s.readU 0 ga).toNat : Int) + s.gmOff gb d l

/-- UNREACHABLE of an object access. -/
def State.unreachExc (s : State) (base : Nat) : Option Exc := excIf (s.unreachable (ptrId base)) (.of .unreachable)

/-- A group's load hints; a sequencer's loads perform as with the no-L1 hint (09 R256). -/
def State.hintFor (s : State) (h : Hint) : Hint :=
  match s.cur with
  | .seq _ => .nol1
  | _ => h

/-- A lane memory instruction: its register names, source checks and own checks, then the effect, which moves the path on when it takes its entry. -/
def lanMem (s : State) (vs gs : List Nat) (ops : List Opnd) (own : List (Option Exc)) (eff : State → State) : Out :=
  issue s ([s.nameExc vs gs, s.rowExc .group] ++ s.sourceExcs ops ++ own) eff

/-- Data registers of a store as sources at operand position 4. -/
def dataOpnds (r n : Nat) : List Opnd := (regs r n).map (fun j => Opnd.v 4 j anyTag)

/-- The value of n registers from r in a lane. -/
def State.vgroup (s : State) (r n l : Nat) : Nat :=
  (List.range n).foldr (fun k x => (s.vread 3 (r + k) l).toNat + 2 ^ 32 * x) 0
/-- The value of n g or e registers from r. -/
def State.ugroup (s : State) (r n : Nat) : Nat :=
  (List.range n).foldr (fun k x => (s.readU 2 (r + k)).toNat + 2 ^ 32 * x) 0

/-- A store or atomic of the issuing core drops its copies of the sectors written (09 R256). What a stream hint leaves of their lines leaves L1 first (03 R65). -/
def State.dropFor (s : State) (h : Hint) (ps : List Piece) : State :=
  let core := s.coreOf s.curSeg
  let secs := (ps.map (fun x => s.place x.addr / 64)).eraseDups
  (s.dropL1 core secs).rankL1 core (secs.map (fun x => x / 2)) h

/-- LD (06 R167). -/
def execLd (m : Bool) (data : BitVec 8) (off : LaneOffset) (sync : Sync) (hint : Hint) (base : BitVec 9) (size : Size) (ltag : Tag) (imm : BitVec 12) (s : State) : Out :=
  let p := s.readPair 0 base.toNat
  let ps := s.objAccess p size.bytes s.laneList (s.lmOff off imm)
  lanMem s (offV off ++ regs data.toNat size.regs) [base.toNat, base.toNat + 1] ([.g base.toNat, .g (base.toNat + 1)] ++ offOpnds off) [s.unreachExc p]
    (fun t => t.openTxn m 8 (.load false (.v data.toNat) size sync hint) (groupParts ps.pieces [] ++ ps.asks) ps.faults (fun u => u.pendV data.toNat size.regs ltag))

/-- LDS (06 R167). -/
def execLds (m : Bool) (data : BitVec 8) (off : LaneOffset) (sync : Sync) (base : BitVec 9) (size : Size) (ltag : Tag) (imm : BitVec 12) (s : State) : Out :=
  let a := s.lmScr base.toNat off imm
  lanMem s (offV off ++ regs data.toNat size.regs) [base.toNat] (.g base.toNat :: offOpnds off) (s.scrExcs s.laneList a size.bytes false)
    (fun t => t.openTxn m 8 (.load true (.v data.toNat) size sync .normal) (groupParts (scrPieces s.laneList a size.bytes) []) [] (fun u => u.pendV data.toNat size.regs ltag))

/-- ST (06 R168). -/
def execSt (m : Bool) (data : BitVec 8) (off : LaneOffset) (sync : Sync) (hint : Hint) (base : BitVec 9) (size : Size) (imm : BitVec 12) (s : State) : Out :=
  let p := s.readPair 0 base.toNat
  let ps := s.objAccess p size.bytes s.laneList (s.lmOff off imm)
  lanMem s (offV off ++ regs data.toNat size.regs) [base.toNat, base.toNat + 1]
    ([.g base.toNat, .g (base.toNat + 1)] ++ offOpnds off ++ dataOpnds data.toNat size.regs) [s.unreachExc p]
    (fun t => t.openTxn m 8 (.store false size.bytes sync (s.laneList.map (fun l => (l, s.vgroup data.toNat size.regs l)))) (groupParts ps.pieces [] ++ ps.asks) ps.faults (fun u => u.dropFor hint ps.pieces))

/-- STS (06 R168). -/
def execSts (m : Bool) (data : BitVec 8) (off : LaneOffset) (sync : Sync) (base : BitVec 9) (size : Size) (imm : BitVec 12) (s : State) : Out :=
  let a := s.lmScr base.toNat off imm
  lanMem s (offV off ++ regs data.toNat size.regs) [base.toNat] (.g base.toNat :: (offOpnds off ++ dataOpnds data.toNat size.regs)) (s.scrExcs s.laneList a size.bytes false)
    (fun t => t.openTxn m 8 (.store true size.bytes sync (s.laneList.map (fun l => (l, s.vgroup data.toNat size.regs l)))) (groupParts (scrPieces s.laneList a size.bytes) []) [] (fun u => u))

/-- Tags that register k of an atomic's operand may carry (01 R37). -/
def rmwTag (r : Rmw) (k : Nat) (t : Tag) : Bool :=
  match r with
  | .op _ .f32 => t == .f32
  | .op _ .f16x2 => t == .f16x2
  | .op _ .bf16x2 => t == .bf16x2
  | .op _ .f64 => if k % 2 = 0 then t == .f64 else t == .f64hi
  | _ => rawTag t

/-- Operand registers of an atomic as sources. -/
def rmwOpnds (r : Rmw) (vs : Nat) : List Opnd := (List.range r.operandWords).map (fun k => Opnd.v 4 (vs + k) (rmwTag r k))

/-- The dest of an atomic with its registers. -/
def rmwDest (dst : Option (BitVec 8)) : Dest := dst.elim .none (fun d => .v d.toNat)
/-- v registers an atomic's return names. -/
def rmwRegs (dst : Option (BitVec 8)) (r : Rmw) : List Nat := dst.elim [] (fun d => regs d.toNat r.words)

/-- Marks an atomic's return registers: register k takes the tag of operand register k (06 R175). -/
def State.pendRmw (s : State) (dst : Option (BitVec 8)) (r : Rmw) (vs : Nat) : State :=
  match dst with
  | none => s
  | some d => (List.range r.words).foldl (fun u k =>
      match u.cur with
      | .path g lanes _ => u.onGroup g (fun x => x.vpend (d.toNat + k) (s.tagOf (vs + k)) lanes)
      | _ => u) s

/-- Parts of an atomic: one for each lane, in ascending order (06 R173). -/
def laneParts (ps : List Piece) : List Part := ps.map (fun p => { st := .todo, pieces := [p] })

/-- Operand words of each lane. -/
def State.rmwData (s : State) (r : Rmw) (vs : Nat) : List (Nat × List Word) :=
  s.laneList.map (fun l => (l, (List.range r.operandWords).map (fun k => s.vread 3 (vs + k) l)))

/-- ALIGN of the lanes of an object atomic (06 R173): the offset decides, since identifiers are whole multiples. -/
def State.rmwAlign (s : State) (base n : Nat) (off : Nat → Int) (lanes : List Nat) (uniform : Bool) : Option Exc :=
  let bad := lanes.filter (fun l => ((ptrOff base : Int) + off l) % (n : Int) != 0)
  excIf (!bad.isEmpty) (.at_ .align (if uniform then s.curLanes else maskOf bad))

/-- ATOM (06 R173). ALIGN is looked at before UNREACHABLE (DESIGN CHOICE, log entry 57). -/
def execAtom (m : Bool) (dst : Option (BitVec 8)) (vo vs : BitVec 8) (rmw : Rmw) (scope : Scope) (base : BitVec 9) (imm : BitVec 12) (s : State) : Out :=
  let p := s.readPair 0 base.toNat
  let off := s.lmOff (.scaled vo 0) imm
  let ps := s.objAccess p rmw.bytes s.laneList off
  lanMem s ([vo.toNat] ++ regs vs.toNat rmw.operandWords ++ rmwRegs dst rmw) [base.toNat, base.toNat + 1]
    ([.g base.toNat, .g (base.toNat + 1), .v 0 vo.toNat intTag] ++ rmwOpnds rmw vs.toNat)
    [s.rmwAlign p rmw.bytes off s.laneList false, s.unreachExc p]
    (fun t => t.openTxn m 8 (.rmw false (rmwDest dst) rmw scope (s.rmwData rmw vs.toNat)) (laneParts ps.pieces ++ ps.asks) ps.faults
      (fun u => (u.pendRmw dst rmw vs.toNat).dropFor .normal ps.pieces))

/-- ATOMS (06 R176). -/
def execAtoms (m : Bool) (dst : Option (BitVec 8)) (vo vs : BitVec 8) (rmw : Rmw) (scope : Scope) (base : BitVec 9) (imm : BitVec 12) (s : State) : Out :=
  let a := s.lmScr base.toNat (.scaled vo 0) imm
  lanMem s ([vo.toNat] ++ regs vs.toNat rmw.operandWords ++ rmwRegs dst rmw) [base.toNat]
    ([.g base.toNat, .v 0 vo.toNat intTag] ++ rmwOpnds rmw vs.toNat) (s.scrExcs s.laneList a rmw.bytes false)
    (fun t => t.openTxn m 8 (.rmw true (rmwDest dst) rmw scope (s.rmwData rmw vs.toNat)) (laneParts (scrPieces s.laneList a rmw.bytes)) []
      (fun u => u.pendRmw dst rmw vs.toNat))

/-- GLD (06 R171). -/
def execGld (m : Bool) (gd ga gb disp : BitVec 9) (size : Size) (sync : Sync) (hint : Hint) (s : State) : Out :=
  let p := s.readPair 0 ga.toNat
  let ps := s.objAccess p size.bytes [uniLane] (s.gmOff gb.toNat disp)
  uniJump s .any false (regs gd.toNat size.regs ++ [ga.toNat, ga.toNat + 1, gb.toNat]) [ga.toNat, ga.toNat + 1, gb.toNat] [s.unreachExc p]
    (fun t => t.openTxn m 8 (.load false (.g gd.toNat) size sync (s.hintFor hint)) (groupParts ps.pieces [] ++ ps.asks) ps.faults (fun u => u.pendU gd.toNat size.regs))

/-- GST. -/
def execGst (m : Bool) (gd ga gb disp : BitVec 9) (size : Size) (sync : Sync) (hint : Hint) (s : State) : Out :=
  let p := s.readPair 0 ga.toNat
  let ps := s.objAccess p size.bytes [uniLane] (s.gmOff gb.toNat disp)
  uniJump s .any false (regs gd.toNat size.regs ++ [ga.toNat, ga.toNat + 1, gb.toNat]) ([ga.toNat, ga.toNat + 1, gb.toNat] ++ regs gd.toNat size.regs) [s.unreachExc p]
    (fun t => t.openTxn m 8 (.store false size.bytes sync [(uniLane, s.ugroup gd.toNat size.regs)]) (groupParts ps.pieces [] ++ ps.asks) ps.faults (fun u => u.dropFor hint ps.pieces))

/-- GLDS. -/
def execGlds (m : Bool) (gd ga gb disp : BitVec 9) (size : Size) (sync : Sync) (s : State) : Out :=
  let a := s.gmScr ga.toNat gb.toNat disp
  uniJump s .any false (regs gd.toNat size.regs ++ [ga.toNat, gb.toNat]) [ga.toNat, gb.toNat] (s.scrExcs [uniLane] a size.bytes true)
    (fun t => t.openTxn m 8 (.load true (.g gd.toNat) size sync .normal) (groupParts (scrPieces [uniLane] a size.bytes) []) [] (fun u => u.pendU gd.toNat size.regs))

/-- GSTS. -/
def execGsts (m : Bool) (gd ga gb disp : BitVec 9) (size : Size) (sync : Sync) (s : State) : Out :=
  let a := s.gmScr ga.toNat gb.toNat disp
  uniJump s .any false (regs gd.toNat size.regs ++ [ga.toNat, gb.toNat]) ([ga.toNat, gb.toNat] ++ regs gd.toNat size.regs) (s.scrExcs [uniLane] a size.bytes true)
    (fun t => t.openTxn m 8 (.store true size.bytes sync [(uniLane, s.ugroup gd.toNat size.regs)]) (groupParts (scrPieces [uniLane] a size.bytes) []) [] (fun u => u))

/-- GATOM (06 R177). -/
def execGatom (m : Bool) (gd ga gb gc : BitVec 9) (rmw : Rmw) (scope : Scope) (s : State) : Out :=
  let p := s.readPair 0 ga.toNat
  let off := fun (_ : Nat) => (s.readU 1 gb.toNat).toInt
  let ps := s.objAccess p rmw.bytes [uniLane] off
  uniJump s .any false (regs gd.toNat rmw.words ++ [ga.toNat, ga.toNat + 1, gb.toNat] ++ regs gc.toNat rmw.operandWords)
    ([ga.toNat, ga.toNat + 1, gb.toNat] ++ regs gc.toNat rmw.operandWords)
    [s.rmwAlign p rmw.bytes off [uniLane] true, s.unreachExc p]
    (fun t => t.openTxn m 8 (.rmw false (.g gd.toNat) rmw scope [(uniLane, (List.range rmw.operandWords).map (fun k => s.readU 2 (gc.toNat + k)))])
      (laneParts ps.pieces ++ ps.asks) ps.faults (fun u => (u.pendU gd.toNat rmw.words).dropFor .normal ps.pieces))

/-- BALLOT to scratchpad (04 R121): one relaxed 4-byte store of the path. -/
def execBallotScratchpad (m : Bool) (ge va : BitVec 8) (s : State) : Out :=
  let a := fun (_ : Nat) => ((s.readU 3 ge.toNat).toNat : Int)
  lanMem s [va.toNat] [ge.toNat] [.v 0 va.toNat intTag, .g ge.toNat] (s.scrExcs [uniLane] a 4 true)
    (fun t => t.openTxn m 8 (.store true 4 .relaxed [(uniLane, (if s.pendingVote va.toNat then s.undef 1 0 else s.ballotMask va.toNat).toNat)]) (groupParts (scrPieces [uniLane] a 4) []) [] (fun u => u))

/-! ### TRX (06 R178, R179) -/

/-- The number in n bytes of the table that have been read: none where one is missing or could not be read. -/
def trxRead (cells : List (Nat × Option Byte)) (a n : Nat) : Option Nat :=
  ((List.range n).mapM (fun i => (look cells (a + i)).getD none)).map natLE

/-- Bytes of the table still to be read; nothing past the range of the table's identifier is read, since no carry passes into it (06 R160). -/
def trxMissing (table : Nat) (cells : List (Nat × Option Byte)) (a n : Nat) : List (Nat × Nat) :=
  if table / 2 ^ 34 ≠ (a + n - 1) / 2 ^ 34 ∨ (List.range n).all (fun i => (look cells (a + i)).isSome) then [] else [(a, n)]

/-- The header: SEQS, SLOTS, ROWBYTES, with its reserved word zero. -/
def trxHeader (table : Nat) (cells : List (Nat × Option Byte)) : Option (Nat × Nat × Nat) :=
  match trxRead cells table 16 with
  | none => none
  | some h => if h / 2 ^ 96 = 0 then some (h % 2 ^ 32, h / 2 ^ 32 % 2 ^ 32, h / 2 ^ 64 % 2 ^ 32) else none

/-- Record of a sequence and its LEN, reserved words zero. -/
def trxLen (cells : List (Nat × Option Byte)) (rec : Nat) : Option Nat :=
  match trxRead cells rec 16 with
  | none => none
  | some h => if h / 2 ^ 32 = 0 then some h else none

/-- Address of a sequence's record. -/
def trxRecord (table slots s : Nat) : Nat := table + 16 + s * (16 + 8 * slots)

/-- What one lane still needs read. -/
def trxNeed (table : Nat) (cells : List (Nat × Option Byte)) (s q : Nat) : List (Nat × Nat) :=
  match trxMissing table cells table 16 with
  | x :: r => x :: r
  | [] =>
    match trxHeader table cells with
    | none => []
    | some (seqs, slots, _) =>
      if s < seqs then
        let rec_ := trxRecord table slots s
        match trxMissing table cells rec_ 16 with
        | x :: r => x :: r
        | [] =>
          match trxLen cells rec_ with
          | none => []
          | some n => if q < n ∧ q / 64 < slots then trxMissing table cells (rec_ + 16 + 8 * (q / 64)) 8 else []
      else []

/-- The translation of one lane: the block's pointer and the row's byte offset, or none. -/
def trxLane (table : Nat) (cells : List (Nat × Option Byte)) (s q : Nat) : Option (Nat × Nat) :=
  match trxHeader table cells with
  | none => none
  | some (seqs, slots, rowbytes) =>
    if s < seqs then
      let rec_ := trxRecord table slots s
      match trxLen cells rec_ with
      | none => none
      | some n =>
        if q < n ∧ q / 64 < slots then
          match trxRead cells (rec_ + 16 + 8 * (q / 64)) 8 with
          | none => none
          | some ptr => if ptrId ptr = 0 then none else some (ptr, q % 64 * rowbytes)
        else none
    else none

/-- Parts that read the table's words next. -/
def trxParts (table : Nat) (items : List (Nat × Word × Word)) (cells : List (Nat × Option Byte)) : List Part :=
  let needs := ((items.map (fun i => trxNeed table cells i.2.1.toNat i.2.2.toNat)).flatten).eraseDups
  groupParts ((needs.map (fun x => splitAccess uniLane x.1 x.2)).flatten) []

/-- TRX. -/
def execTrx (m : Bool) (vd va vb gc ge : BitVec 8) (s : State) : Out :=
  let p := s.readPair 2 gc.toNat
  let items := s.laneList.map (fun l => (l, s.vread 0 va.toNat l, s.vread 1 vb.toNat l))
  issue s ([s.nameExc (regs vd.toNat 3 ++ [va.toNat, vb.toNat]) [gc.toNat, gc.toNat + 1, ge.toNat], s.rowExc .group, s.closedExc true]
      ++ s.sourceExcs [.v 0 va.toNat rawTag, .v 1 vb.toNat rawTag, .g gc.toNat, .g (gc.toNat + 1)])
    (fun t => t.openTxn m 8 (.trx vd.toNat ge.toNat p items []) (trxParts p items []) [] (fun u => (u.pendV vd.toNat 3 .i32).pendU ge.toNat 1))

/-! ### Read-modify-write (06 R174, R175) -/

/-- The value of a list of words, first lowest. -/
def wordsNat (ws : List Word) : Nat := ws.foldr (fun w x => w.toNat + 2 ^ 32 * x) 0

/-- Picks a or b by a test on their signed or unsigned values. -/
def pickInt (signed : Bool) (w a b : Nat) (takeLess : Bool) : Nat :=
  let less := if signed then decide (sext w a < sext w b) else decide (a < b)
  if less == takeLess then a else b

/-- A float atomic on every element of its type. -/
def atomFloat (t : AtomType) (f : Fmt → Nat → Nat → Nat) (a b : Nat) : Nat :=
  match t with
  | .f16x2 => elems2 .f16x2 f a b
  | .bf16x2 => elems2 .bf16x2 f a b
  | .f64 => f .fp64 a b
  | _ => f .fp32 a b

/-- The new value of 06 R174. -/
def atomNew (o : AtomOp) (t : AtomType) (old x : Nat) : Nat :=
  let w := 8 * (Rmw.op o t).bytes
  let signed := t == .i32 || t == .i64
  match o with
  | .add => (old + x) % 2 ^ w
  | .and => Nat.land old x
  | .or => Nat.lor old x
  | .xor => Nat.xor old x
  | .xchg => x
  | .min => pickInt true w old x true
  | .max => pickInt true w old x false
  | .nmin => pickInt false w old x true
  | .nmax => pickInt false w old x false
  | .inc => if (if signed then decide (sext w x ≤ sext w old) else decide (x ≤ old)) then 0 else (old + 1) % 2 ^ w
  | .fadd => atomFloat t (fadd .rn) old x
  | .fmin => atomFloat t fmin old x
  | .fmax => atomFloat t fmax old x

/-- The new value of a read-modify-write: a CAS that compares unequal leaves the old one. -/
def rmwNew (r : Rmw) (old : Nat) (ops : List Word) : Nat :=
  match r with
  | .op o t => atomNew o t old (wordsNat (ops.take r.words))
  | .cas _ => if old = wordsNat (ops.take r.words) then wordsNat ((ops.drop r.words).take r.words) else old

/-! ### Performing a part -/

/-- Lowest and highest byte of a list of pieces. -/
def spanOf (ps : List Piece) : Nat × Nat :=
  match minBy (fun (p : Piece) => p.addr) ps with
  | none => (0, 0)
  | some p => (p.addr, maxOf (ps.map (fun x => x.addr + x.len)))

/-- Bytes of a store's data that a piece carries. -/
def pieceBytes (data : List (Nat × Nat)) (p : Piece) : List Byte := ((bytesLE 16 ((look data p.lane).getD 0)).drop p.idx).take p.len

/-- Cells of a store at the addresses it names; later lanes come later. -/
def pieceCells (data : List (Nat × Nat)) (p : Piece) (addr : Nat) : List (Nat × Byte) := (regs addr p.len).zip (pieceBytes data p)

/-- The packet of a part for another chip. A part that asks what stands at an address reads no byte. -/
def State.partPacket (s : State) (t : Txn) (probe : Bool) (good : List Piece) (dst : Nat) (g : Bool) (lo hi : Nat) : Packet :=
  let old := (spanOf good).1
  let mk := fun (ty : PacketType) (b : PBody) (pay : List Byte) => { s.packet ty dst b pay with g := g, epoch := BitVec.ofNat 32 ((look s.locator (lo / 2 ^ 34)).elim 0 Prod.snd) }
  let ptr : Dword := BitVec.ofNat 64 lo
  if probe then mk .read (.read ptr (hi - lo) (.plain .probe)) []
  else
    match t.kind with
    | .store _ _ y data =>
      let cells := ((good.map (fun p => pieceCells data p (p.addr + lo - old))).flatten).foldl (fun m c => put m c.1 c.2) []
      let line := lo / 128 * 128
      let mask := cells.foldl (fun (m : BitVec 128) c => m ||| (1#128 <<< (c.1 - line))) 0
      mk .write (.write (BitVec.ofNat 64 line) mask { kind := .data, order := y }) ((List.range 128).map (fun i => (look cells (line + i)).getD 0))
    | .rmw _ _ r sc data => mk .atomic (.atomic ptr r .data sc ((good.head?.elim [] (fun p => (look data p.lane).getD [])))) []
    | .load _ _ _ y _ => mk .read (.read ptr (hi - lo) { kind := .data, order := y }) []
    | _ => mk .read (.read ptr (hi - lo) (.plain .data)) []

/-- Sends a part to another chip: the request's address is that of the object that serves it (15 R348, R349; 16 R379). -/
def State.sendPart (s : State) (t : Txn) (n : Nat) (good : List Piece) (chip : Nat) (g : Bool) (id off : Nat) : State :=
  let sp := spanOf good
  let lo := flat id off
  (s.coreRequest t.core id (s.partPacket t ((t.parts[n]?).elim false (fun p => p.probe)) good chip g lo (lo + sp.2 - sp.1)) (.part t.id n sp.1)).setPart t.id n .sent

/-- Sector accesses counted by the owner channel engine for the resident chip (15 R354), at the leader of a co-location group. -/
def State.countLocalN (s : State) (id n : Nat) : State :=
  let lead := (look s.objs id).elim id (fun d => d.group.getD id)
  { s with objs := upd s.objs lead (fun d => { d with localCount := min (d.localCount + n) 1048575 }) }

/-- One access. -/
def State.countLocal (s : State) (id : Nat) : State := s.countLocalN id 1

/-- A load of a core took effect at the home while the core holds the sector: the bytes held become those it read, and its instant their fill instant (09 R256). A poisoned sector is held no longer. -/
def State.refreshL1 (s : State) (core sec : Nat) : State :=
  let mine := fun (x : L1Sector) => x.core == core && x.sector == sec
  if s.poisonedSector sec then { s with l1 := s.l1.filter (fun x => !mine x) }
  else { s with l1 := s.l1.map (fun x => if mine x then { x with data := s.bytesAt (64 * sec) 64, fill := s.clock } else x) }

/-- Lines of which a core's L1 holds a sector, the one filled longest ago first. -/
def l1Lines (l : List L1Sector) (core : Nat) : List Nat := ((l.filter (fun x => x.core == core)).map (fun x => x.sector / 2)).eraseDups

/-- A fill is installed. Of the lines a core's 256 KiB hold (00 R1), one leaves when one more comes: a line that the stream hint ranks first (03 R65), else the one filled longest ago (DESIGN CHOICE, log entry 55). -/
def State.installL1 (s : State) (x : L1Sector) : State :=
  let l := s.l1.filter (fun y => !(y.core == x.core && y.sector == x.sector)) ++ [x]
  let others := fun (l : List L1Sector) => without (l1Lines l x.core) (x.sector / 2)
  let out := ((others (l.filter (fun y => y.stream))).head?).or (others l).head?
  { s with l1 := if Config.l1Lines < (l1Lines l x.core).length then l.filter (fun y => !(y.core == x.core && some (y.sector / 2) == out)) else l }

/-- L1 after a load that took effect at the home (09 R256, R257): a miss takes its lease, by the LEASE of its request, and fills unless a store of the core forbade it. -/
def State.l1After (s : State) (t : Txn) (p : Part) (a : Nat) (d : Desc) (sync : Sync) (hint : Hint) : State :=
  let sec := a / 64
  match t.who with
  | .sqr _ => s.refreshL1 t.core sec
  | .grp _ =>
    if attrL d.attrs ∧ sync = .relaxed ∧ hint ≠ .nol1 ∧ !s.poisonedSector sec then
      let e := s.ptime + t.lease
      let u := { s with lx := put s.lx (a / 128) (max (s.lxOf (a / 128)) e) }
      let v := if p.fill then u.installL1 { core := t.core, sector := sec, data := u.bytesAt (64 * sec) 64, fill := u.clock, expiry := e, stream := false } else u.refreshL1 t.core sec
      v.rankL1 t.core [sec / 2] hint
    else (s.refreshL1 t.core sec).rankL1 t.core [sec / 2] hint

/-- Acquire of a load's order. -/
def State.acquireOf (s : State) (w : Agent) (y : Sync) : State :=
  match y with
  | .acquire sc => s.acquire w sc
  | _ => s

/-- Writes the good pieces of a load from bytes by address. -/
def State.deliver (s : State) (t : Txn) (d : Dest) (z : Size) (ps : List Piece) (f : Nat → Byte) : State :=
  ps.foldl (fun u p => u.destBytes t.who d z p ((regs p.addr p.len).map f)) s

/-- What a load that takes effect at the home returns, by the bytes it reads there. -/
def State.homeLoad (s : State) (t : Txn) (good : List Piece) (a : Nat) (d : Dest) (z : Size) (f : Nat → Byte) : State :=
  if s.poisonedAt a then s.destPoison t d z.regs else s.deliver t d z good (fun b => f (s.place b))

/-- A load's part served by L1. -/
def State.loadServed (s : State) (t : Txn) (n : Nat) (good : List Piece) (x : L1Sector) (d : Dest) (z : Size) (h : Hint) : State :=
  ((s.deliver t d z good (fun b => x.data.getD (s.place b % 64) 0)).rankL1 t.core [x.sector / 2] h).partDone t.id n

/-- A load's part at this chip. One of a region that has aborted returns committed bytes (06 R185). -/
def State.loadHere (s : State) (t : Txn) (n : Nat) (p : Part) (good : List Piece) (a : Nat) (ds : Desc) (d : Dest) (z : Size) (y : Sync) (h : Hint) : State :=
  match s.regionAccess t.who good true false with
  | (u, .void) => (good.foldl (fun v x => v.destLose t.who d z.regs x.lane) u).partDone t.id n
  | (u, .over) => ((((u.homeLoad t good a d z u.byteAt).acquireOf t.who y).refreshL1 t.core (a / 64)).countLocal (a / 2 ^ 34)).partDone t.id n
  | (u, .inside _) => ((((u.homeLoad t good a d z u.regionByte).acquireOf t.who y).refreshL1 t.core (a / 64)).countLocal (a / 2 ^ 34)).partDone t.id n
  | (u, .outside) => ((((u.homeLoad t good a d z u.byteAt).acquireOf t.who y).l1After t p a ds y h).countLocal (a / 2 ^ 34)).partDone t.id n

/-- Cells with the last writer of each address only: a later lane's byte stands (06 R168). -/
def lastCells (cells : List (Nat × Byte)) : List (Nat × Byte) := cells.foldl (fun m c => put m c.1 c.2) []

/-- A store's part at this chip: the lanes' bytes in its sector take effect together. -/
def State.storeHere (s : State) (t : Txn) (n : Nat) (good : List Piece) (a : Nat) (ds : Desc) (data : List (Nat × Nat)) : State :=
  let cells := fun (x : Piece) => pieceCells data x ((s.hereAddr x.addr).elim 0 Prod.fst)
  match s.regionAccess t.who good false true with
  | (u, .void) | (u, .over) => u.partDone t.id n
  | (u, .inside slot) => ((u.versionWrite slot (a / 128) ((good.map cells).flatten)).countLocal (a / 2 ^ 34)).partDone t.id n
  | (u, .outside) =>
    if u.lineHeld (a / 128) then { u.setPart t.id n .held with held := u.held ++ [{ line := a / 128, what := .part t.id n }] }
    else
      let v := u.commitCells (lastCells ((good.map cells).flatten))
      (((v.mergeGwct t.who (u.gwctOf ds (a / 128))).dropCopies t.core [a / 64]).countLocal (a / 2 ^ 34)).partDone t.id n

/-- Returns the old value of an atomic to its destination. -/
def State.returnOld (s : State) (w : Agent) (d : Dest) (r : Rmw) (lane old : Nat) : State :=
  (List.range r.words).foldl (fun u k => u.destMod w d k lane (fun _ => BitVec.ofNat 32 (old / 2 ^ (32 * k)))) s

/-- An atomic's part at this chip. -/
def State.atomHere (s : State) (t : Txn) (n : Nat) (x : Piece) (a : Nat) (ds : Desc) (d : Dest) (r : Rmw) (sc : Scope) (ops : List Word) : State :=
  match s.regionAccess t.who [x] true true with
  | (u, .void) | (u, .over) => (u.destLose t.who d r.words x.lane).partDone t.id n
  | (u, .inside slot) =>
    if u.poisonedAt a then (u.destPoison t d r.words).partDone t.id n
    else
      let old := natLE ((regs a x.len).map u.regionByte)
      let v := u.versionWrite slot (a / 128) ((regs a x.len).zip (bytesLE x.len (rmwNew r old ops)))
      (((v.returnOld t.who d r x.lane old).acquire t.who sc).countLocal (a / 2 ^ 34)).partDone t.id n
  | (u, .outside) =>
    if u.poisonedAt a then (u.destPoison t d r.words).partDone t.id n
    else if u.lineHeld (a / 128) then { u.setPart t.id n .held with held := u.held ++ [{ line := a / 128, what := .part t.id n }] }
    else
      let old := natLE (u.bytesAt a x.len)
      let v := u.commitCells ((regs a x.len).zip (bytesLE x.len (rmwNew r old ops)))
      (((((v.returnOld t.who d r x.lane old).mergeGwct t.who (u.gwctOf ds (a / 128))).acquire t.who sc).dropCopies t.core [a / 64]).countLocal (a / 2 ^ 34)).partDone t.id n

/-- Notes bytes of the sequence table: unreadable ones as none. -/
def State.trxNote (s : State) (id : Nat) (cs : List (Nat × Option Byte)) : State :=
  s.onTxn id (fun t =>
    match t.kind with
    | .trx vd ge tb it cells => { t with kind := .trx vd ge tb it (cells ++ cs) }
    | _ => t)

/-- Writes TRX's results once nothing more is to be read (06 R179). -/
def State.trxFinish (s : State) (t : Txn) (vd ge tb : Nat) (items : List (Nat × Word × Word)) (cells : List (Nat × Option Byte)) : State :=
  let res := fun (i : Nat × Word × Word) => trxLane tb cells i.2.1.toNat i.2.2.toNat
  let u := items.foldl (fun u i =>
    let x := (res i).getD (0, 0)
    ((u.destMod t.who (.v vd) 0 i.1 (fun _ => BitVec.ofNat 32 x.1)).destMod t.who (.v vd) 1 i.1 (fun _ => BitVec.ofNat 32 (x.1 / 2 ^ 32))).destMod t.who (.v vd) 2 i.1 (fun _ => BitVec.ofNat 32 x.2)) s
  u.destMod t.who (.g ge) 0 0 (fun _ => maskOf ((items.filter (fun i => (res i).isNone)).map Prod.fst))

/-- After a part of TRX: the next words to read, or the end. -/
def State.trxNext (s : State) (id n : Nat) : State :=
  let u := s.setPart id n .done
  match u.txn? id with
  | none => u
  | some t =>
    match t.kind with
    | .trx vd ge tb it cells =>
      if t.open.isEmpty then
        match trxParts tb it cells with
        | [] => (u.trxFinish t vd ge tb it cells).closeTxn id
        | ps => u.onTxn id (fun x => { x with parts := x.parts ++ ps })
      else u
    | _ => u

/-- One sector of the sequence table is read here, or asked for from its home (06 R179). -/
def State.trxPart (s : State) (t : Txn) (n : Nat) (p : Part) : State :=
  match p.pieces with
  | [] => s.trxNext t.id n
  | x :: _ =>
    match s.sendTo x.addr with
    | .away c g id off => if s.validChip c then s.sendPart t n p.pieces c g id (off + (spanOf p.pieces).1 - x.addr) else (s.trxNote t.id ((p.pieces.map (fun y => (regs y.addr y.len).map (fun a => (a, none)))).flatten)).trxNext t.id n
    | .gone => (s.trxNote t.id ((p.pieces.map (fun y => (regs y.addr y.len).map (fun a => (a, none)))).flatten)).trxNext t.id n
    | .here _ _ _ =>
      let one := fun (y : Piece) =>
        match s.accessFault ⟨true, false⟩ [] [y], s.hereAddr y.addr with
        | none, some (h, _) => (regs y.addr y.len).map (fun a => (a, if s.poisonedAt h then none else some (s.byteAt (h + a - y.addr))))
        | _, _ => (regs y.addr y.len).map (fun a => (a, none))
      ((((s.trxNote t.id ((p.pieces.map one).flatten)).refreshL1 t.core (s.place x.addr / 64)).countLocal (s.place x.addr / 2 ^ 34))).trxNext t.id n

/-- Scratchpad parts. -/
def State.scrPart (s : State) (t : Txn) (n : Nat) (p : Part) : State :=
  let sg := s.segOf t.who
  match t.kind with
  | .load _ d z y _ =>
    let u := p.pieces.foldl (fun u x =>
      if u.scrPoison sg x.addr then u.destPoison t d z.regs else u.destBytes t.who d z x (u.scrLook t.who sg x.addr x.len x.lane)) s
    (u.acquireOf t.who y).partDone t.id n
  | .store _ _ _ data => ((p.pieces.foldl (fun u x => u.scrWrite sg x.addr (pieceBytes data x) x.lane) s).scrClean sg (p.pieces.map (fun x => (x.addr, x.len)))).partDone t.id n
  | .rmw _ d r sc data =>
    (p.pieces.foldl (fun u x =>
      if u.scrPoison sg x.addr then u.destPoison t d r.words
      else
        let old := natLE (u.scrLook t.who sg x.addr x.len x.lane)
        ((u.scrWrite sg x.addr (bytesLE x.len (rmwNew r old ((look data x.lane).getD []))) x.lane).returnOld t.who d r x.lane old).acquire t.who sc) s).partDone t.id n
  | _ => s.partDone t.id n

/-- What another chip, or this one, has said of the address of a probe: of a lane whose offset no pointer holds, its fault; of half of an access, what stands there (06 R161). -/
def State.probeNote (s : State) (t : Txn) (n : Nat) (x : Piece) (found : Option (Nat × Word)) : State :=
  let u :=
    if x.len = 0 then (s.onTxn t.id (fun y => { y with faults := y.faults ++ [(if found.isSome then .objBounds else .objNone, x.lane)] })).destLose t.who t.dest.1 t.dest.2 x.lane
    else s.onTxn t.id (fun y => { y with seen := put y.seen (x.lane, x.idx) found })
  u.partDone t.id n

/-- A probe goes to the chip that serves its address, or is answered here. -/
def State.probePart (s : State) (t : Txn) (n : Nat) (p : Part) : State :=
  match p.pieces with
  | [] => s.partDone t.id n
  | x :: _ =>
    match s.sendTo x.addr with
    | .away c g id off => if s.validChip c then s.sendPart t n [x] c g id off else s.probeNote t n x none
    | .gone => s.probeNote t n x none
    | .here _ off d => s.probeNote t n x (some (d.len - off, d.attrs))

/-- The halves at other chips of the accesses of a part that cross a sector boundary, as long as nothing is known of them: they are asked for first, since a lane that faults in one half performs nothing (06 R161; DEDUCED, log entry 37). -/
def State.unasked (s : State) (t : Txn) (p : Part) : List Piece :=
  let far := fun (x : Piece) => match s.sendTo x.addr with | .away c _ _ _ => s.validChip c | _ => false
  if p.st = .todo ∧ (s.regionOf t.who).isNone then
    (((p.pieces.map (fun x => x.lane)).eraseDups.map t.laneAccess).filter (fun ps => ps.any (fun x => x.idx != 0))).flatten.filter (fun x => far x && (look t.seen (x.lane, x.idx)).isNone)
  else []

/-- Probes for a list of pieces. -/
def probes (ps : List Piece) : List Part := ps.map (fun x => { st := .todo, pieces := [x], probe := true })

/-- An object part, once its lanes are checked. One that this chip has accepted before a cut-over began performs here (15 R357). -/
def State.objPart (s : State) (t : Txn) (n : Nat) (p : Part) : State :=
  if p.probe then s.probePart t n p
  else if s.unasked t p ≠ [] then s.onTxn t.id (fun x => { x with parts := x.parts ++ probes (s.unasked t p) })
  else
  let u := s.checkPart t p
  match u.goodPieces t p with
  | [] => u.partDone t.id n
  | x :: r =>
    match u.served? t p, t.kind with
    | some l, .load _ d z _ h => u.loadServed t n (x :: r) l d z h
    | _, _ =>
    match (if p.st = .todo then u.sendTo x.addr else u.route splitFuel (x.addr / 2 ^ 34) (x.addr % 2 ^ 34)), u.regionOf t.who with
    | .away c g id off, none =>
      let first := (minBy (fun (q : Piece) => q.addr) (x :: r)).getD x
      u.sendPart t n (x :: r) c g id (off + first.addr - x.addr)
    | .away _ _ _ _, some slot => ((if u.abortedRegion t.who then u else u.abortRegion slot 9).destLose t.who t.dest.1 t.dest.2 x.lane).partDone t.id n
    | .gone, _ => u.partDone t.id n
    | .here id off ds, _ =>
      match t.kind with
      | .load _ d z y h => u.loadHere t n p (x :: r) (flat id off) ds d z y h
      | .store _ _ _ data => u.storeHere t n (x :: r) (flat id off) ds data
      | .rmw _ d op sc data => u.atomHere t n x (flat id off) ds d op sc ((look data x.lane).getD [])
      | _ => u.partDone t.id n

/-- One part of an access performs. -/
def State.performPart (s : State) (t : Txn) (n : Nat) : State :=
  match t.parts[n]? with
  | none => s
  | some p =>
    match t.kind with
    | .trx .. => s.trxPart t n p
    | .command .. => s
    | _ => if t.scratch then s.scrPart t n p else s.objPart t n p

/-- The row of an M frame of this chip that a part reads or writes, through its channel (10 R286, R287). -/
def State.channelRow (s : State) (t : Txn) (p : Part) : Option Nat :=
  if t.access && !t.scratch && !p.probe && (s.regionOf t.who).isNone then
    match p.pieces with
    | [] => none
    | x :: _ =>
      match s.sendTo x.addr with
      | .here _ off d => if attrM d.attrs ∧ off < d.len then some (rowOf d off) else none
      | _ => none
  else none

/-- LEASE_EXPIRY: a core's copy whose lease has expired is dropped; it is never served again (09 R256). -/
def execLeaseExpiry (s : State) : Out :=
  .next (match s.arg with
    | .pair core sector => { s with l1 := s.l1.filter (fun x => !(x.core == core && x.sector == sector && decide (x.expiry < s.ptime))) }
    | _ => s)

end Sys2Proof.Machine
end

