-- ==== Sys2Proof/Machine/Sync.lean ====
section
/-! DEFINITION. Barriers, GSYNC, fences, waits, handles, arrival counters, the join (05 R137 to R149), and the ends of their waits. -/

namespace Sys2Proof.Machine

/-! ### Ends of path-level waits -/

/-- Lanes of a group in a path-level wait that a test accepts. -/
def Group.waiting (g : Group) (p : PathWait → Bool) : Mask := g.lanesWhere (fun _ x => p x.wait)

/-- Lanes leave their path-level wait and go on after the instruction they waited at, which parks if it was marked. -/
def State.endPathWait (s : State) (k : GKey) (lanes : Mask) : State :=
  s.onGroup k (fun g =>
    let marked := g.lanesWhere (fun l x => lanes.getLsbD l && x.marked)
    let g1 := g.mapLanes lanes (fun _ x => { x with wait := .none, marked := false, pc := x.pc + 8 })
    if marked = 0 then g1 else g1.mark marked)

/-- A sequencer leaves its wait the same way. -/
def State.endSeqWait (s : State) (q : QKey) : State :=
  s.onSeq q (fun e => { e with pw := .none, pwMarked := false, pc := e.pc + 8, wait := if e.pwMarked ∧ e.wait = .none then .park 0 (e.pc + 8) else e.wait })

/-- A group whose other wait has ended takes the park that it owes, then the trap; a trap of lanes outside handler mode waits for its end (05 R154). -/
def Group.payOwed (g : Group) : Group :=
  match g.wait, g.owed, g.owedTrap with
  | .none, some m, _ => { g with owed := none }.mark m
  | .none, none, some r => if g.handler.isNone ∨ (r.path &&& g.handling) ≠ 0 then { g with owedTrap := none, wait := .trap r } else g
  | _, _, _ => g

/-- A park or a trap that was owed is taken once the other wait has ended. -/
def State.payOwed (s : State) : State :=
  { s with
    groups := s.groups.map (fun e => (e.1, e.2.payOwed))
    seqs := s.seqs.map (fun e => if e.2.owed ∧ e.2.wait = .none then (e.1, { e.2 with owed := false, wait := .park 0 e.2.pc }) else e) }

/-! ### Numbered barriers (05 R138; 08 R246) -/

/-- A barrier that nothing has initialised (05 R138). -/
def Barrier.unset : Barrier := { expected := none, count := 0, phase := false, arrivals := [], done := [], seqs := [], last := [], lastSeq := [], releasing := [], released := [] }

/-- Barrier k of a block. -/
def Block.bar (b : Block) (k : Nat) : Barrier :=
  b.bars.getD k Barrier.unset

/-- Barrier k of the current issuer's block. -/
def State.curBar (s : State) (k : Nat) : Barrier :=
  match look s.blocks s.curBlk with
  | none => Barrier.unset
  | some b => b.bar k

/-- Barrier k as the current issuer finds it: in a pair, as the pair began (02 R51). -/
def State.barNow (s : State) (k : Nat) : Barrier :=
  match s.curGroup.elim none (fun g => g.view) with
  | some v => v.bars.getD k Barrier.unset
  | none => s.curBar k

/-- BARINIT. With A = 0 it may meet incomplete arrivals and sequencers of a kind that has not wholly arrived: the spec is silent, and they stay (DESIGN CHOICE, log entry 53). -/
def execBarinit (m : Bool) (k : BitVec 4) (ga : BitVec 9) (s : State) : Out :=
  let e := (s.readU 0 ga.toNat).toNat
  uni s m 8 .any false [ga.toNat] [ga.toNat] [excIf (decide (0 < (s.curBar k.toNat).count) || e == 0 || decide (66 < e)) (.of .barState)]
    (fun t => t.onBlock t.curBlk (fun b => { b with bars := b.bars.modify k.toNat (fun x => { x with expected := some e, count := 0, last := [], lastSeq := [] }) }))

/-- Lanes of a mask that the group does not hold live. -/
def State.deadLanes (s : State) (mask : Mask) : Mask :=
  match s.curGroup with
  | none => 0
  | some g => mask &&& ~~~g.live

/-- The faults of an arrival: BAR_STATE, then SYNC_MASK. -/
def State.arriveExcs (s : State) (k gb : Nat) : List (Option Exc) :=
  let b := s.curBar k
  let unset := excIf ((s.barNow k).expected == none) (.of .barState)
  match s.cur with
  | .path g lanes _ =>
    let mask := s.readU 1 gb
    let other := b.arrivals.any (fun a => a.gid == g.gid && a.mask != mask)
    [unset, excIf (b.done.contains g.gid) (.of .barState), excIf (other || (lanes &&& ~~~mask) != 0 || s.deadLanes mask != 0) (.of .syncMask)]
  | .seq q => [unset, excIf (b.seqs.contains q) (.of .barState)]
  | .idle => []

/-- A released access of an agent's lanes has not performed yet. -/
def State.openFor (s : State) (r : Released) : Bool :=
  s.txns.any (fun t => t.who == r.who && decide (t.id < r.before) && t.access && (t.threads &&& r.lanes) != 0)

/-- The matrix sequencer of a segment arrives at barrier k: the commands that an MWAIT has covered go with it (07 R205). -/
def State.bringSeen (s : State) (q : QKey) (k : Nat) : State :=
  if q.kind = .msq then s.onSeg q.sg (fun g => { g with unseen := g.unseen.map (fun x => if x.waited then { x with bars := addTo x.bars k } else x) }) else s

/-- A phase of barrier k completes: groups may rely on the commands that came with it. -/
def State.makeSeen (s : State) (blk k : Nat) : State :=
  { s with segs := s.segs.map (fun e => if e.1.blk = blk then (e.1, { e.2 with unseen := e.2.unseen.filter (fun x => !x.bars.contains k) }) else e) }

/-- The phase completes when the count reaches the expected count: it inverts, and every waiter is released (05 R138). An arrival that is still incomplete, or sequencers of a kind that has not wholly arrived, the phase leaves behind: the spec is silent, and they are forgotten (DESIGN CHOICE, log entry 53). -/
def State.completePhase (s : State) (blk k : Nat) : State :=
  match look s.blocks blk with
  | none => s
  | some b =>
    let x := b.bar k
    match x.expected with
    | none => s
    | some e =>
      if e ≤ x.count then
        let free := fun (w : PathWait) => match w with
          | .bar j (some _) => if j = k then PathWait.bar j none else w
          | _ => w
        { s.makeSeen blk k with
          blocks := put s.blocks blk { b with bars := b.bars.modify k (fun y => { y with count := 0, phase := !y.phase, arrivals := [], done := [], seqs := [], releasing := [], released := (y.released ++ y.releasing).filter s.openFor }) }
          groups := s.groups.map (fun g => if g.1.blk = blk then (g.1, { g.2 with lanes := g.2.lanes.map (fun l => { l with wait := free l.wait }), heldBar := g.2.heldBar.map (fun h => (free h.1, h.2)) }) else g)
          seqs := s.seqs.map (fun q => if q.1.sg.blk = blk then (q.1, { q.2 with pw := free q.2.pw }) else q) }
      else s

/-- A group's path arrives: its lanes join the group's arrival, which counts once it holds every lane of the mask. -/
def Barrier.arrive (b : Barrier) (gid : Nat) (mask lanes : Mask) : Barrier :=
  let old := (b.arrivals.find? (fun a => a.gid == gid)).elim 0 (fun a => a.lanes)
  let all := old ||| lanes
  let rest := b.arrivals.filter (fun a => !(a.gid == gid))
  if all = mask then { b with arrivals := rest, done := b.done ++ [gid], count := b.count + 1, last := put b.last gid b.phase }
  else { b with arrivals := rest ++ [{ gid := gid, mask := mask, lanes := all }], last := put b.last gid b.phase }

/-- A sequencer arrives: its kind counts once the sequencers of every segment have. -/
def Barrier.arriveSeq (b : Barrier) (q : QKey) (segs : Nat) : Barrier :=
  let qs := b.seqs ++ [q]
  let n := (qs.filter (fun x => decide (x.kind = q.kind))).length
  { b with seqs := qs, count := if n = segs then b.count + 1 else b.count, lastSeq := put b.lastSeq q b.phase }

/-- What the current issuer's arrival releases: its lanes' earlier accesses, with those that joins of GSYNC put before them (09 R264), or all of a sequencer's. -/
def State.releases (s : State) : List Released :=
  match s.cur with
  | .seq _ => [{ who := s.curAgent, lanes := 1, before := s.nextTxn }]
  | _ => { who := s.curAgent, lanes := s.curLanes, before := s.nextTxn }
      :: (joinedPast (s.curGroup.elim [] (fun g => g.syncs.reverse)) s.curLanes).map (fun j => { who := s.curAgent, lanes := j.1, before := j.2 })

/-- The current issuer arrives at barrier k, as a block-scope release (09 R263). -/
def State.arrive (s : State) (k gb : Nat) : State :=
  let out := fun (x : Barrier) => { x with releasing := x.releasing ++ s.releases }
  let t :=
    match s.cur with
    | .idle => s
    | .path g lanes _ => s.onBlock g.blk (fun b => { b with bars := b.bars.modify k (fun x => out (x.arrive g.gid (s.readU 1 gb) lanes)) })
    | .seq q => (s.bringSeen q k).onBlock q.sg.blk (fun b => { b with bars := b.bars.modify k (fun x => out (x.arriveSeq q b.cores.length)) })
  t.completePhase t.curBlk k

/-- What arrivals of completed phases of barrier k release has performed: a wait at it may go on (09 R264; DEDUCED, log entry 54). -/
def State.barClear (s : State) (blk k : Nat) : Bool := !((look s.blocks blk).elim [] (fun b => (b.bar k).released)).any s.openFor

/-- The g register of the mask, which a sequencer's arrival does not read (05 R138). -/
def State.maskReads (s : State) (gb : Nat) : List Nat :=
  match s.cur with
  | .seq _ => []
  | _ => [gb]

/-- BARARV. -/
def execBararv (m : Bool) (k : BitVec 4) (gb : BitVec 9) (s : State) : Out :=
  uni s m 8 .any false [gb.toNat] (s.maskReads gb.toNat) (s.arriveExcs k.toNat gb.toNat) (fun t => t.arrive k.toNat gb.toNat)

/-- The phase that a wait must see change: that of the last arrival, or the present one. -/
def State.waitPhase (s : State) (k : Nat) : Bool :=
  let b := s.barNow k
  match s.cur with
  | .path g _ _ => (look b.last g.gid).getD b.phase
  | .seq q => (look b.lastSeq q).getD b.phase
  | .idle => b.phase

/-- Waits at barrier k for a phase to change, or goes on as its acquire when it has and what its arrivals release has performed. -/
def State.barWait (s : State) (k : Nat) (phase m : Bool) : State :=
  if (s.barNow k).phase ≠ phase then
    if s.barClear s.curBlk k then (s.acquire s.curAgent .block).finish m 8 else s.pathWait (.bar k none) m
  else s.pathWait (.bar k (some phase)) m

/-- BARWAIT. -/
def execBarwait (m : Bool) (k : BitVec 4) (s : State) : Out :=
  uniJump s .any true [] [] [excIf ((s.barNow k.toNat).expected == none) (.of .barState)] (fun t => t.barWait k.toNat (t.waitPhase k.toNat) m)

/-- Waits at barrier k after an arrival; where the arrival completed the phase the wait is released already, and every path of the group that waits there goes on at once (05 R138; 08 R246). -/
def State.barJoin (s : State) (k : Nat) (phase m : Bool) : State := s.pathWait (.bar k (if (s.curBar k).phase ≠ phase then none else some phase)) m

/-- BARSYNC. -/
def execBarsync (m : Bool) (k : BitVec 4) (gb : BitVec 9) (s : State) : Out :=
  uniJump s .any true [gb.toNat] (s.maskReads gb.toNat) (s.arriveExcs k.toNat gb.toNat)
    (fun t => (t.arrive k.toNat gb.toNat).barJoin k.toNat (s.curBar k.toNat).phase m)

/-- A released wait at a barrier of a block. -/
def State.barFree (s : State) (blk : Nat) (w : PathWait) : Bool :=
  match w with
  | .bar k none => s.barClear blk k
  | _ => false

/-- BARRIER_WAIT_END: a released path or sequencer goes on, as a block-scope acquire. -/
def execBarrierWaitEnd (s : State) : Out :=
  .next (match s.arg with
    | .agent (.grp k) =>
      match look s.groups k with
      | none => s
      | some g => if g.waiting (s.barFree k.blk) = 0 then s else (s.endPathWait k (g.waiting (s.barFree k.blk))).acquire (.grp k) .block
    | .agent (.sqr q) =>
      match look s.seqs q with
      | none => s
      | some e => if s.barFree q.sg.blk e.pw then s.endSeqWait q else s
    | _ => s)

/-! ### GSYNC (05 R139) -/

/-- A mask that is pending, shares a lane and differs. -/
def Group.gsyncClash (g : Group) (mask : Mask) : Bool :=
  g.lanes.any (fun x => match x.wait with
    | .gsync y => y != mask && (y &&& mask) != 0
    | _ => false)

/-- A join of GSYNC may still order something: an access of the group from before it, which an earlier join may put before its lanes, has not performed. -/
def State.joinOpen (s : State) (k : GKey) (j : Mask × Nat) : Bool := s.openFor { who := .grp k, lanes := 0xFFFFFFFF, before := j.2 }

/-- The lanes of a mask are all at a GSYNC that presents it: they go on, and what they access later is ordered after what they accessed before (05 R139, 09 R263). -/
def State.gsyncRelease (s : State) (k : GKey) (mask : Mask) : State :=
  match look s.groups k with
  | none => s
  | some g =>
    if mask &&& ~~~(g.waiting (fun w => decide (w = .gsync mask))) = 0 then
      (s.onGroup k (fun x => { x with syncs := (x.syncs ++ [(mask, s.nextTxn)]).filter (s.joinOpen k) })).endPathWait k mask
    else s

/-- GSYNC. -/
def execGsync (m : Bool) (gb : BitVec 9) (s : State) : Out :=
  let mask := s.readU 1 gb.toNat
  uniJump s .group true [gb.toNat] [gb.toNat]
    [excIf ((s.curLanes &&& ~~~mask) != 0 || s.deadLanes mask != 0 || s.curGroup.elim false (fun g => g.gsyncClash mask)) (.of .syncMask)]
    (fun t => match t.cur with
      | .path k _ _ => (t.pathWait (.gsync mask) m).gsyncRelease k mask
      | _ => t)

/-! ### Fences (05 R140, R141) -/

/-- FENCE: later issue is held until FENCE_COMPLETE. -/
def execFence (m : Bool) (kind : FenceKind) (scope : Scope) (s : State) : Out :=
  uni s m 8 .any false [] [] [] (fun t => t.waitAt (.fence kind scope t.nextTxn t.curLanes))

/-- A transaction that returns a value: loads, and atomics with a destination. -/
def Txn.returns (t : Txn) : Bool :=
  match t.kind with
  | .load .. => true
  | .trx .. => true
  | .rmw _ d _ _ _ => d != .none
  | _ => false

/-- An agent's largest GWCT. -/
def State.agentGwct (s : State) (w : Agent) : Nat :=
  match w with
  | .grp k => (look s.groups k).elim 0 (fun g => g.gwct)
  | .sqr q => (look s.seqs q).elim 0 (fun e => e.gwct)

/-- The condition of a fence. -/
def State.fenceDone (s : State) (w : Agent) (kind : FenceKind) (scope : Scope) (before : Nat) : Bool :=
  let mine := s.txns.filter (fun t => t.who == w && decide (t.id < before) && t.access)
  match kind with
  | .rel | .ar => mine.isEmpty
  | .acq => !mine.any Txn.returns
  | .cmp => mine.isEmpty && decide (s.agentGwct w + (if scope = .pod then 8 else 0) < s.ptime)

/-- Ends an agent's group-level wait. -/
def State.clearWait (s : State) (w : Agent) : State :=
  match w with
  | .grp k => s.onGroup k (fun g => { g with wait := .none })
  | .sqr q => s.onSeq q (fun e => { e with wait := .none })

/-- FENCE_COMPLETE: acquire kinds raise the floor (09 R260). -/
def execFenceComplete (s : State) : Out :=
  .next (match s.arg with
    | .agent w =>
      match s.agentWait w with
      | .fence kind scope before _ =>
        if s.fenceDone w kind scope before then
          let t := s.clearWait w
          if kind = .rel then t else t.acquire w scope
        else s
      | _ => s
    | _ => s)

/-- MRDY: later issue is held until MRDY_COMPLETE. -/
def execMrdy (m : Bool) (s : State) : Out := uni s m 8 .any false [] [] [] (fun t => t.waitAt (.mrdy t.nextTxn t.curLanes))

/-- What MRDY waits for: of a group, its scratchpad writes and its writes of v registers; of a sequencer, GSTS, GLD and GLDS (05 R141). -/
def Txn.feeds (t : Txn) : Bool :=
  match t.who, t.kind with
  | .grp _, .store true .. => true
  | .grp _, .rmw true .. => true
  | .grp _, .load _ (.v _) _ _ _ => true
  | .grp _, .rmw _ (.v _) _ _ _ => true
  | .grp _, .trx .. => true
  | .sqr _, .store true .. => true
  | .sqr _, .load .. => true
  | _, _ => false

/-- MRDY_COMPLETE. -/
def execMrdyComplete (s : State) : Out :=
  .next (match s.arg with
    | .agent w =>
      match s.agentWait w with
      | .mrdy before _ => if s.txns.any (fun t => t.who == w && decide (t.id < before) && t.feeds) then s else s.clearWait w
      | _ => s
    | _ => s)

/-! ### WAITC (05 R142, R143) -/

/-- The L2 slice or channel engine of a watched word: which of the two, and its number (DESIGN CHOICE, log entry 14). -/
def monitorHome (d : Desc) (a off : Nat) : Bool × Nat :=
  if attrM d.attrs then (true, chanOf (rowOf d off)) else (false, a / 128 % Config.channels / 8)

/-- Home of a pointer's word when it is here. -/
def State.homeOf (s : State) (id off : Nat) : Option (Bool × Nat) :=
  match s.route splitFuel id off with
  | .here i o d => some (monitorHome d (flat i o) o)
  | _ => none

/-- Monitors that a home holds. -/
def State.monitorsAt (s : State) (h : Bool × Nat) : Nat :=
  (s.groups.filter (fun e => match e.2.wait with | .waitc w => w.monitor && s.homeOf w.id w.off == some h | _ => false)).length
  + (s.seqs.filter (fun e => match e.2.wait with | .waitc w => w.monitor && s.homeOf w.id w.off == some h | _ => false)).length
  + (s.fab.monitors.filter (fun p => match p.body with | .monitor ptr .. => s.homeOf (ptrId ptr.toNat) (ptrOff ptr.toNat) == some h | _ => false)).length

/-- A home has a monitor free. -/
def State.monitorFree (s : State) (h : Bool × Nat) : Bool :=
  decide (s.monitorsAt h < if h.1 then Config.monitorsPerEngine else Config.monitorsPerSlice)

/-- The value a monitor reads; a poisoned word is undefined. -/
def State.monitorRead (s : State) (id off : Nat) : Word :=
  match s.hereAddr (flat id off) with
  | none => 0
  | some (a, _) => if s.poisonedAt a then s.undef 20000 0 else s.wordHere a

/-- A WAITC ends with a result: an acquire at its scope; the path goes on. -/
def State.endWaitc (s : State) (w : Agent) (x : Waitc) (result : Word) : State :=
  let s := s.forgetWaits w
  match w with
  | .grp k =>
    (s.onGroup k (fun g =>
      let g1 := { (g.gwrite x.gd result).advance x.path 8 with wait := .none }
      if x.marked then g1.mark x.path else g1)).acquire w x.scope
  | .sqr q => s.onSeq q (fun e =>
      let e1 := e.ewrite x.gd result
      { e1 with pc := e.pc + 8, wait := if x.marked then .park 0 (e.pc + 8) else .none })

/-- A WAITC ends with a translation fault, which is precise: WAITC is the resume address (05 R142). -/
def State.failWaitc (s : State) (w : Agent) (x : Waitc) (c : FaultCode) : State :=
  let s := s.forgetWaits w
  match w with
  | .grp k =>
    let pc := (look s.groups k).elim 0 (fun g => (g.lane (lowLane x.path)).pc)
    (s.onGroup k (fun g => { g with wait := .trap { code := c, detail := 0, pc := pc, lanes := x.path, resume := pc, deferred := false, seq := false, path := x.path } })).unpark k
  | .sqr q => s.onSeq q (fun e => e.halt (seqRec q c 0 e.pc false))

/-- Sets an agent's WAITC. -/
def State.setWaitc (s : State) (w : Agent) (x : Waitc) : State :=
  match w with
  | .grp k => s.onGroup k (fun g => { g with wait := .waitc x })
  | .sqr q => s.onSeq q (fun e => { e with wait := .waitc x })

/-- Reads the word of a WAITC, here or by a packet to its home, and either ends the wait or waits on. -/
def State.lookWaitc (s : State) (w : Agent) (x : Waitc) : State :=
  match s.sendTo (flat x.id x.off) with
  | .away c g id off =>
    let body := if x.monitor then PBody.monitor (BitVec.ofNat 64 (flat id off)) x.cond x.n32 x.value x.scope else PBody.read (BitVec.ofNat 64 (flat id off)) 4 { kind := .data, order := .acquire x.scope }
    let p := { s.packet (if x.monitor then .atomic else .read) c body [] with g := g }
    (s.coreRequest (s.coreOf (s.segOf w)) id p (.wait w)).setWaitc w x
  | .gone => s.setWaitc w x
  | .here id _ _ =>
    let t := (s.countLocal id).openRows [flat x.id x.off]
    if wcompare x.cond x.n32 (s.monitorRead x.id x.off) x.value then t.endWaitc w x 1 else t.setWaitc w x

/-- WAITC. It drains, checks its word, then sets its monitor. While the channel that holds a word of an M frame here is not free it does not issue (10 R287). -/
def execWaitc (m : Bool) (gd ga gb gc : BitVec 9) (cond : Cond) (n32 : Bool) (scope : Scope) (s : State) : Out :=
  let p := s.readPair 0 ga.toNat
  let id := ptrId p
  let off := ptrOff p
  uniJump s .any true [gd.toNat, ga.toNat, ga.toNat + 1, gb.toNat, gc.toNat] [ga.toNat, ga.toNat + 1, gb.toNat, gc.toNat]
    [excIf (off % 4 != 0) (.of .align), excIf (s.unreachable id) (.of .unreachable)]
    (fun t =>
      if t.drained then
        let u := t.settleCur
        if !u.chansFree [flat id off] then s else
        match u.accessFault ⟨true, false⟩ [] [{ lane := uniLane, addr := flat id off, idx := 0, len := 4 }] with
        | some c => u.raise (.of c)
        | none =>
          let room := (u.homeOf id off).elim true u.monitorFree
          let gcv := (s.readU 2 gc.toNat).toNat
          u.lookWaitc u.curAgent { gd := gd.toNat, id := id, off := off, cond := cond, n32 := n32, value := s.readU 1 gb.toNat, scope := scope
                                   deadline := if gcv = 0 then none else some (u.ptime + gcv), monitor := room, hit := false, polledAt := u.ptime, path := u.curLanes, marked := m }
      else t.drain)

/-- MONITOR_WAKE: the monitor has seen a value that satisfies the condition. -/
def execMonitorWake (s : State) : Out :=
  .next (match s.arg with
    | .agent w =>
      match s.agentWait w with
      | .waitc x => if x.hit then s.endWaitc w x 1 else s
      | _ => s
    | _ => s)

/-- WAITC_TIMEOUT. -/
def execWaitcTimeout (s : State) : Out :=
  .next (match s.arg with
    | .agent w =>
      match s.agentWait w with
      | .waitc x => if !x.hit ∧ x.deadline.elim false (fun d => decide (d ≤ s.ptime)) then s.endWaitc w x 0 else s
      | _ => s
    | _ => s)

/-- WAITC_POLL: a WAITC without a monitor reads its word every 1,024 ns. -/
def execWaitcPoll (s : State) : Out :=
  .next (match s.arg with
    | .agent w =>
      match s.agentWait w with
      | .waitc x => if !x.monitor ∧ !x.hit ∧ x.polledAt + 1024 ≤ s.ptime ∧ s.chansFree [flat x.id x.off] then s.lookWaitc w { x with polledAt := s.ptime } else s
      | _ => s
    | _ => s)

/-! ### Handles (05 R144 to R146) -/

/-- Status word of 05 R144. -/
def statusWord : Option OpState → Word
  | none => 0
  | some .pending => 1
  | some .done => 2
  | some (.failed c x) => BitVec.ofNat 32 (c * 2 ^ 24 + (if x then 256 else 0) + 3)

/-- HANDLE of an EMPTY handle. -/
def State.emptyExc (s : State) (k : Nat) : Option Exc := excIf (s.readH k == .empty) (.of .handle)

/-- Some handle register of the chip names an operation. -/
def State.named (s : State) (o : Nat) : Bool :=
  s.groups.any (fun e => e.2.h.contains (.names o)) || s.seqs.any (fun e => e.2.h.contains (.names o))

/-- Outcomes that no handle names are not kept (05 R146); a drain whose task has left ends with its tile. -/
def State.sweepOps (s : State) : State :=
  { s with ops := s.ops.filter (fun e => (e.2.st == .pending && !(e.2.armed && (look s.tasks e.2.task).isNone)) || s.named e.1) }

/-- Observing an operation's end: a chip-scope acquire, which merges the GWCT of its writes (07 R191; 09 R267). -/
def State.observe (s : State) (h : Handle) : State :=
  match s.handleState h with
  | some .pending => s
  | none => s
  | some _ =>
    match h with
    | .names o => (s.mergeGwct s.curAgent ((look s.ops o).elim 0 (fun x => x.gwct))).acquire s.curAgent .chip
    | _ => s.acquire s.curAgent .chip

/-- HWAIT: parks while the handle is PENDING, then writes its status. -/
def execHwait (m : Bool) (gd : BitVec 9) (k : BitVec 4) (s : State) : Out :=
  let h := s.readH k.toNat
  uniJump s .any true [gd.toNat] [] [s.emptyExc k.toNat]
    (fun t => match s.handleState h, h with
      | some .pending, .names o => t.waitAt (.handle o)
      | x, _ => ((t.observe h).writeU gd.toNat (statusWord x)).finish m 8)

/-- HTEST: writes the status at once. -/
def execHtest (m : Bool) (gd : BitVec 9) (k : BitVec 4) (s : State) : Out :=
  uni s m 8 .any false [gd.toNat] [] [s.emptyExc k.toNat]
    (fun t => (t.observe (s.readH k.toNat)).writeU gd.toNat (statusWord (s.handleState (s.readH k.toNat))))

/-- HCANCEL: asks a PENDING operation to stop at its next boundary. -/
def execHcancel (m : Bool) (k : BitVec 4) (s : State) : Out :=
  uni s m 8 .any false [] [] [s.emptyExc k.toNat]
    (fun t => match s.readH k.toNat with
      | .names o => t.onOp o (fun x => if x.st = .pending then { x with cancel := true } else x)
      | _ => t)

/-- HMOV: the token of the operation; a handle whose operation is lost has an undefined one. -/
def execHmov (m : Bool) (gd : BitVec 9) (k : BitVec 4) (s : State) : Out :=
  uni s m 8 .any false [gd.toNat] [] [s.emptyExc k.toNat]
    (fun t => t.writeU gd.toNat (match s.readH k.toNat with
      | .names o => BitVec.ofNat 32 o
      | _ => s.undef 20001 0))

/-- HADOPT: names the operation of a token, or fails with CODE 0x16 when no handle names it. -/
def execHadopt (m : Bool) (k : BitVec 4) (ga : BitVec 9) (s : State) : Out :=
  uni s m 8 .any false [ga.toNat] [ga.toNat] []
    (fun t =>
      let o := (s.readU 0 ga.toNat).toNat
      t.writeH k.toNat (if s.named o ∧ (look s.ops o).isSome then .names o else .lost))

/-- HANDLE_WAIT_END: the handle has resolved; the instruction issues again. -/
def execHandleWaitEnd (s : State) : Out :=
  .next (match s.arg with
    | .agent w =>
      match s.agentWait w with
      | .handle o => if (look s.ops o).elim true (fun x => x.st != .pending) then s.clearWait w else s
      | _ => s
    | _ => s)

/-! ### Arrival counters and the join (05 R148, R149) -/

/-- Counter k of a block. -/
def Block.ac (b : Block) (k : Nat) : Counter := b.acs.getD k { count := 0, target := 0 }

/-- ACSET. -/
def execAcset (m : Bool) (k : BitVec 4) (ga : BitVec 9) (clr : Bool) (s : State) : Out :=
  uni s m 8 .any false [ga.toNat] [ga.toNat] []
    (fun t => t.onBlock t.curBlk (fun b => { b with acs := b.acs.modify k.toNat (fun c => { count := if clr then 0 else c.count, target := s.readU 0 ga.toNat }) }))

/-- A counter has reached its target. -/
def Block.reached (b : Block) (k : Nat) : Bool := decide ((b.ac k).target.toNat ≤ (b.ac k).count.toNat)

/-- Counter k has reached its target, as the current issuer finds it: in a pair, as the pair began (02 R51). -/
def State.reachedNow (s : State) (k : Nat) : Bool :=
  match s.curGroup.elim none (fun g => g.view) with
  | some v => let c := v.acs.getD k { count := 0, target := 0 }; decide (c.target.toNat ≤ c.count.toNat)
  | none => (look s.blocks s.curBlk).elim true (fun b => b.reached k)

/-- AWAIT: the path waits for the counter; at its target it goes on, as the acquire of the arrivals counted. -/
def execAwait (m : Bool) (k : BitVec 4) (s : State) : Out :=
  uniJump s .any true [] [] []
    (fun t => if t.reachedNow k.toNat then (t.acquire t.curAgent .pod).finish m 8 else t.pathWait (.await k.toNat) m)

/-- A wait for a counter of a block that has reached its target. -/
def State.awaitFree (s : State) (blk : Nat) (w : PathWait) : Bool :=
  match w with
  | .await k => (look s.blocks blk).elim false (fun b => b.reached k)
  | _ => false

/-- AWAIT_COMPLETE. -/
def execAwaitComplete (s : State) : Out :=
  .next (match s.arg with
    | .agent (.grp k) =>
      match look s.groups k with
      | none => s
      | some g => if g.waiting (s.awaitFree k.blk) = 0 then s else (s.endPathWait k (g.waiting (s.awaitFree k.blk))).acquire (.grp k) .pod
    | .agent (.sqr q) =>
      match look s.seqs q with
      | none => s
      | some e => if s.awaitFree q.sg.blk e.pw then s.endSeqWait q else s
    | _ => s)

/-- Every sequencer program of a block has ended or halted. -/
def State.joined (s : State) (blk : Nat) : Bool := !s.seqs.any (fun e => e.1.sg.blk == blk && e.2.running)

/-- RDV: the producer waits for the sequencer programs of its last FORK. -/
def execRdv (m : Bool) (s : State) : Out :=
  uniJump s .producer true [] [] []
    (fun t => if t.joined t.curBlk then (t.onBlock t.curBlk (fun b => { b with forked := false })).finish m 8 else t.pathWait .rdv m)

/-- RDV_COMPLETE. -/
def execRdvComplete (s : State) : Out :=
  .next (match s.arg with
    | .agent (.grp k) =>
      match look s.groups k with
      | none => s
      | some g =>
        let ls := g.waiting (fun w => decide (w = .rdv))
        if ls ≠ 0 ∧ s.joined k.blk then (s.onBlock k.blk (fun b => { b with forked := false })).endPathWait k ls else s
    | _ => s)

/-! ### Parks and sequencer faults -/

/-- PARK_COMPLETE (02 R54, R57). -/
def execParkComplete (s : State) : Out :=
  .next (match s.arg with
    | .agent (.grp k) => s.unpark k
    | .agent (.sqr q) => s.unparkSeq q
    | _ => s)

/-- The first sequencer of a block whose fault is held. -/
def State.heldFault (s : State) (blk : Nat) : Option (QKey × TrapRec) :=
  (s.seqs.filterMap (fun e => if e.1.sg.blk = blk then e.2.fault.map (fun r => (e.1, r)) else none)).head?

/-- SEQUENCER_FAULT_DELIVERY: as the producer group next issues, once its own OUTS has drained (05 R158). -/
def execSequencerFaultDelivery (s : State) : Out :=
  .next (match s.cur with
    | .path k lanes pc =>
      match s.heldFault k.blk with
      | none => s
      | some (q, r) => if s.drained then (s.onSeq q (fun e => { e with fault := none })).enterTrap k { r with resume := pc, path := lanes } else s.drain
    | _ => s)

end Sys2Proof.Machine
end

