-- ==== Sys2Proof/Machine/Regions.lean ====
section
/-! DEFINITION. Forwarding regions: RGBEGIN, RGEND, RGABORT, RGSTAT and the steps that end their waits (06 R180 to R187; 09 R276 to R283). -/

namespace Sys2Proof.Machine

/-- The issuing path does not hold every live lane of its group. -/
def State.notWhole (s : State) : Bool := s.curGroup.elim false (fun g => (g.live &&& ~~~s.curLanes) != 0)

/-- The lowest free slot of the region table. -/
def State.freeSlot (s : State) : Option Nat := (List.range Config.regionSlots).find? (fun i => (look s.regions i).isNone)

/-- RGBEGIN (06 R181). -/
def execRgbegin (m : Bool) (gd ga : BitVec 9) (s : State) : Out :=
  let target := s.readU 0 ga.toNat
  uniJump s .region false [gd.toNat, ga.toNat] [ga.toNat]
    [excIf (s.inRegion || s.notWhole) (.of .regionMisuse), (s.targetFault target).map Exc.of]
    (fun t =>
      if s.targetWaits target then (t.codeWant t.curBlk target).pathWait .code m
      else if t.drained then
        match t.freeSlot, t.cur with
        | some n, .path k _ _ =>
          let r : Region := { owner := k, ended := false, target := target, reason := gd.toNat, reads := [], writes := [], preds := [], direct := [] }
          (({ t.settleCur with regions := put t.regions n r }.onGroup k (fun g => { g with region := some n, abort := none })).writeU gd.toNat 0).finish m 8
        | none, .path _ _ _ => t.settleCur.waitAt .rgSlot
        | _, _ => t
      else t.drain)

/-- REGION_SLOT_FREE_RESUME: a slot is free; the RGBEGIN issues again. -/
def execRegionSlotFreeResume (s : State) : Out :=
  .next (match s.arg with
    | .agent w => if s.agentWait w = .rgSlot ∧ s.freeSlot.isSome then s.clearWait w else s
    | _ => s)

/-- RGEND (06 R183): after the drain the slot is ENDED and the group parks until it commits or aborts. -/
def execRgend (m : Bool) (s : State) : Out :=
  uniJump s .region false [] [] [excIf (!s.inRegion || s.notWhole) (.of .regionMisuse)]
    (fun t =>
      if t.drained then
        match t.curGroup with
        | none => t
        | some g =>
          match g.region with
          | none => t
          | some n => ({ t.settleCur with regions := upd t.regions n (fun r => { r with ended := true }) }).waitAt (.rgCommit t.curLanes (t.curPc + 8) m)
      else t.drain)

/-- RGABORT: reason EXPLICIT with the low byte of ga (06 R184, R185). -/
def execRgabort (m : Bool) (ga : BitVec 9) (s : State) : Out :=
  uniJump s .region false [ga.toNat] [ga.toNat] [excIf (!s.inRegion) (.of .regionMisuse)]
    (fun t => match t.curGroup with
      | none => t
      | some g => (g.region.elim t (fun n => t.abortRegion n ((s.readU 0 ga.toNat).toNat % 256 * 256 + 1))).mark m)

/-- Status word of 06 R187. -/
def State.regionStatus (s : State) (n : Nat) : Word :=
  match look s.regions n with
  | none => 0
  | some r => BitVec.ofNat 32 (2 ^ 31 + n * 2 ^ 23 + r.reads.length * 2 ^ 14 + r.writes.length * 2 ^ 7 + depthOf s.regions 16 n * 2 ^ 3)

/-- RGSTAT. -/
def execRgstat (m : Bool) (gd : BitVec 9) (s : State) : Out :=
  uni s m 8 .region false [gd.toNat] [] [] (fun t => t.writeU gd.toNat ((s.curGroup.elim none (fun g => g.region)).elim 0 s.regionStatus))

/-- REGION_COMMIT: an ENDED slot with no predecessor left commits all its versions at one instant (09 R281). Its core's L1 copies of the lines that the region read or wrote go, since its reads were not theirs (09 R258; DEDUCED, log entry 28). -/
def execRegionCommit (s : State) : Out :=
  .next (match s.arg with
    | .num n =>
      match look s.regions n with
      | none => s
      | some r =>
        if r.ended ∧ r.preds = [] ∧ (look s.groups r.owner).elim true (fun g => g.abort.isNone) then
          let vs := s.versions.filter (fun v => v.slot == n)
          let stamp := fun (v : Version) => (s.route splitFuel (v.line * 128 / 2 ^ 34) (v.line * 128 % 2 ^ 34))
          let gw := maxOf (vs.map (fun v => match stamp v with | .here _ _ d => s.gwctOf d v.line | _ => s.ptime))
          let t := vs.foldl (fun t v => t.landCells (v.bytes.map (fun b => (v.line * 128 + b.1, b.2)))) s
          let t := { t with
            versions := t.versions.filter (fun v => !(v.slot == n))
            l1 := t.l1.filter (fun x => !(x.core == s.coreOf (s.segOf (.grp r.owner)) && (r.reads ++ r.writes).contains (x.sector / 2)))
            regions := (del t.regions n).map (fun (e : Nat × Region) => (e.1, { e.2 with preds := without e.2.preds n, direct := without e.2.direct n })) }
          (t.onGroup r.owner (fun g =>
            match g.wait with
            | .rgCommit path resume marked =>
              let g1 := { (g.mapLanes path (fun _ x => { x with pc := resume })) with wait := .none, region := none, abort := none }
              if marked then g1.mark path else g1
            | _ => { g with region := none, abort := none })).mergeGwct (.grp r.owner) (if vs = [] then 0 else gw)
        else s
    | _ => s)

/-- A precise trap waits for the group's drain, or for the end of a wait beside which it was raised. -/
def Group.trapping (g : Group) : Bool := g.owedTrap.isSome || (match g.wait with | .trap _ => true | _ => false)

/-- REGION_ABORT_TAKE: once OUTS is zero the group takes its abort, dropping the deferred faults of the wait (06 R185). Where a precise trap waits too, the trap is delivered and takes the abort with it, resuming at the abort target (06 R186; the spec does not say what becomes of the trap where the region aborts for another reason meanwhile: DESIGN CHOICE, log entry 28). -/
def execRegionAbortTake (s : State) : Out :=
  .next (match s.arg with
    | .agent (.grp k) =>
      match look s.groups k with
      | none => s
      | some g => if g.abort.isSome ∧ g.region.isSome ∧ g.outs = 0 ∧ !g.trapping then (s.setGroup k { (g.settle s.freeCtr).payAcquire s.clock with deferred := [] }).takeAbort k else s
    | _ => s)

end Sys2Proof.Machine
end

