-- ==== Sys2Proof/Machine/Engine.lean ====
section
/-! DEFINITION. What engine commands share: parameter blocks, handles and operations, tiles and streams, an engine's reads and writes, the dependence counter (07 R188 to R197; 14 R326, R329). -/

namespace Sys2Proof.Machine

/-! ### Parameter blocks (07 R189) -/

/-- The words of a parameter block at ga. -/
def State.block (s : State) (ga : Nat) : List Word := (List.range 16).map (fun i => s.readU 0 (ga + i))

/-- ILLEGAL naming the first offending word of a block, of a list of (word, offends) in the order of checking (05 R157). -/
def blockExc (bad : List (Nat × Bool)) : Option Exc :=
  match bad.filter Prod.snd with
  | [] => none
  | x :: _ => some (.det .illegal (2 ^ 23 + x.1))

/-- Words that must be zero. -/
def zeros (b : List Word) (is : List Nat) : List (Nat × Bool) := is.map (fun i => (i, pw b i != 0))

/-! ### Operations and handles (07 R190, R191) -/

/-- A new operation of the current issuer, with its number (05 R146): the token is the count of operations, 12 bits of generation above 20 of number. -/
def State.newOp (s : State) (kind : OpKind) (armed : Bool) : State × Nat :=
  let o := s.nextOp % 2 ^ 32
  ({ s with nextOp := s.nextOp + 1, ops := put s.ops o { who := s.curAgent, task := s.taskOf s.curBlk, kind := kind, st := .pending, armed := armed, cancel := false, gwct := 0, got := [], asked := [], acks := 0, outcome := none, stage := 0, codes := [], buf := [], plain := false, asker := none, entered := [] } }, o)

/-- The handle's PENDING operation, for which a command that names it as destination parks. -/
def State.busyHandle (s : State) (k : Nat) : Option Nat :=
  match s.readH k, s.handleState (s.readH k) with
  | .names o, some .pending => some o
  | _, _ => none

/-- A future command: its checks, then, once its handle is not PENDING, its effect with the handle written (07 R190). -/
def future (s : State) (m : Bool) (row : Row) (k : BitVec 4) (names : List Nat) (own : List (Option Exc)) (kind : State → OpKind) (eff : State → Nat → State) : Out :=
  uniJump s row true names names own
    (fun t => match t.busyHandle k.toNat with
      | some o => t.waitAt (.handle o)
      | none =>
        let r := t.newOp (kind t) false
        ((eff (r.1.writeH k.toNat (.names r.2)) r.2)).finish m 8)

/-- A fault code from its number. -/
def codeOf (n : Nat) : FaultCode :=
  ([.illegal, .emu, .priv, .tag, .align, .mixedAttr, .objNone, .objBounds, .objPerm, .unreachable, .pinRevoked, .scrRange, .copyRange, .copyRights,
    .syncMask, .land, .fetch, .tileState, .regionMisuse, .context, .poison, .handle, .coopFit, .stack, .barState, .watchdog, .brk] : List FaultCode).getD (n - 1) .illegal

/-! ### Tiles and streams (07 R194, R195; 08 R247) -/

/-- A tile-table entry of a segment. -/
def State.tile? (s : State) (sg : SKey) (n : Nat) : Option Tile := (look s.segs sg).elim none (fun g => look g.tiles n)

/-- Changes a tile-table entry. -/
def State.onTile (s : State) (sg : SKey) (n : Nat) (f : Tile → Tile) : State := s.onSeg sg (fun g => { g with tiles := upd g.tiles n f })

/-- What naming a tile comes to. -/
inductive TileUse
  | bad (e : Exc)
  | wait (w : Wait)
  | use (n : Nat)
  deriving DecidableEq, Repr

/-- Naming a READY tile with ERR traps with its ERRCODE. -/
def Tile.errExc (t : Tile) : Option Exc := excIf (decide (t.st = .ready) && t.err) (.of (codeOf t.errCode))

/-- A tile named as destination: it must be EMPTY. -/
def State.destTile (s : State) (sg : SKey) (n : Nat) : TileUse :=
  match s.tile? sg n with
  | none => .bad (.of .illegal)
  | some t =>
    match t.errExc with
    | some e => .bad e
    | none => if t.st = .empty then .use n else .wait (.tile sg n .empty)

/-- A uniform command whose literal tile fields are looked at with its other fields: ILLEGAL of one comes third in the order of 03 R79. -/
def uniTile (s : State) (row : Row) (ill : Bool) (names reads : List Nat) (own : List (Option Exc)) (eff : State → State) : Out :=
  issue s ([s.nameExc [] names, excIf ill (.of .illegal), s.rowExc row, s.closedExc true, s.struckExc reads] ++ own) eff

/-- The stream of a segment. -/
def State.stream (s : State) (sg : SKey) (k : Nat) : Stream := (look s.segs sg).elim { ring := [], pos := 0 } (fun g => g.streams.getD k { ring := [], pos := 0 })

/-- The stream as the current issuer finds it: in a pair, with the ring that was bound as the pair began, unless it is bound still (02 R51). -/
def State.streamNow (s : State) (sg : SKey) (k : Nat) : Stream :=
  match s.curGroup.elim none (fun g => g.view) with
  | some v => if (v.streams.getD k { ring := [], pos := 0 }).ring = (s.stream sg k).ring then s.stream sg k else v.streams.getD k { ring := [], pos := 0 }
  | none => s.stream sg k

/-- The tile that a specifier names now. -/
def State.namedTile (s : State) (sg : SKey) (spec : TileSpec) : Option Nat :=
  match spec with
  | .tile n => some n.toNat
  | .stream k => (s.streamNow sg k.toNat).ring[(s.streamNow sg k.toNat).pos]?

/-- Some literal field of a command names a tile that nothing has defined (07 R195). -/
def State.tileIll (s : State) (specs : List TileSpec) : Bool :=
  specs.any (fun p => (s.namedTile s.curSeg p).elim false (fun n => (s.tile? s.curSeg n).isNone))

/-- A tile named as source: READY, and not taken when a stream names it. -/
def State.srcTile (s : State) (sg : SKey) (spec : TileSpec) : TileUse :=
  match spec with
  | .tile n =>
    match s.tile? sg n.toNat with
    | none => .bad (.of .illegal)
    | some t =>
      match t.errExc with
      | some e => .bad e
      | none => if t.st = .ready then .use n.toNat else .wait (.tile sg n.toNat .ready)
  | .stream k =>
    let x := s.streamNow sg k.toNat
    match x.ring[x.pos]? with
    | none => .bad (.of .tileState)
    | some n =>
      match s.tile? sg n with
      | none => .bad (.of .illegal)
      | some t =>
        if t.st = .ready ∧ !t.taken then
          match t.errExc with
          | some e => .bad e
          | none => .use n
        else .wait (.stream k.toNat)

/-- Naming a READY tile is a chip acquire (07 R191; 09 R263, R271), after which its bytes are what its writer left (07 R205). -/
def State.nameTile (s : State) (sg : SKey) (n : Nat) : State :=
  if (s.tile? sg n).elim false (fun t => decide (t.st = .ready)) then
    (s.onSeg sg (fun g => { g with unseen := g.unseen.filter (fun x => x.tile != some n) })).acquire s.curAgent .chip
  else s

/-- A tile is named; a stream's pop takes the next position and marks the tile. -/
def State.popTile (s : State) (sg : SKey) (spec : TileSpec) : State :=
  match spec with
  | .tile n => s.nameTile sg n.toNat
  | .stream k =>
    let x := s.streamNow sg k.toNat
    ((s.nameTile sg (x.ring.getD x.pos 0)).onSeg sg (fun g => { g with streams := g.streams.modify k.toNat (fun y => if y.ring = x.ring then { y with pos := if y.pos + 1 < y.ring.length then y.pos + 1 else 0 } else y) })).onTile sg (x.ring.getD x.pos 0)
      (fun t => { t with taken := true })

/-- The tile specifier in nine bits of a word, none where it names nothing (07 R195). -/
def specOf (x : Nat) : Option TileSpec :=
  if x < 256 then some (.tile (BitVec.ofNat 8 x)) else if x < 264 then some (.stream (BitVec.ofNat 3 x)) else none

/-- A list of tile uses: the first trap, else the first wait, else the effect. -/
def withTiles (t : State) (us : List TileUse) (eff : State → State) : State :=
  match us.filterMap (fun u => match u with | .bad e => some e | _ => none), us.filterMap (fun u => match u with | .wait w => some w | _ => none) with
  | e :: _, _ => t.raise e
  | [], w :: _ => t.waitAt w
  | [], [] => eff t

/-- The tile number of a use. -/
def TileUse.num : TileUse → Nat
  | .use n => n
  | _ => 0

/-- The object that a pointer names, a split rewriting it. -/
def State.origin (s : State) (a : Nat) : Nat :=
  match s.route splitFuel (ptrId a) (ptrOff a) with
  | .here id _ _ => id
  | .away _ _ id _ => id
  | .gone => ptrId a

/-- A pinned object's invalidation, here or as its chip has told of it, began before an operation did: a copy or a scan from it waits at translation (15 R363). -/
def State.revoking (s : State) (o a : Nat) : Bool :=
  (look s.objs (s.origin a)).elim false (fun d => d.inv.elim false (fun i => decide (i.before ≤ o))) || (look s.revokes (s.origin a)).elim false (fun r => decide (r.before ≤ o))

/-- A destination tile enters FILLING. -/
def State.fillTile (s : State) (sg : SKey) (n : Nat) (origin : Option Nat) : State := s.onTile sg n (fun t => { t with st := .filling, origin := origin, err := false, errCode := 0 })

/-- A FILLING tile becomes READY, with ERR where its writer failed; poisoned data gives it POISON (07 R194; 01 R36). -/
def State.tileDone (s : State) (sg : SKey) (n code : Nat) : State :=
  s.onTile sg n (fun t => if t.st = .filling then { t with st := .ready, err := code != 0, errCode := code, tag := if code = 0x15 then .poison else t.tag } else t)

/-- A FILLING tile whose writer is cancelled becomes EMPTY. -/
def State.tileCancel (s : State) (sg : SKey) (n : Nat) : State :=
  s.onTile sg n (fun t => if t.st = .filling then { t with st := .empty, err := false, taken := false } else t)

/-- A DRAINING tile becomes EMPTY. -/
def State.tileDrained (s : State) (sg : SKey) (n : Nat) : State :=
  s.onTile sg n (fun t => { t with st := .empty, err := false, taken := false, drain := none })

/-! ### GCP tile commands (07 R196, R197) -/

/-- TDEF. -/
def execTdef (m : Bool) (tile : BitVec 8) (ga gc : BitVec 9) (tag : Tag) (s : State) : Out :=
  let off := (s.readU 0 ga.toNat).toNat
  let len := (s.readU 2 gc.toNat).toNat
  let sg := s.curSeg
  let busy := (look s.segs sg).elim false (fun g => g.tiles.any (fun e => e.2.st != .empty && (e.1 == tile.toNat || (decide (off < e.2.off + e.2.len) && decide (e.2.off < off + len)))))
  uni s m 8 .any true [ga.toNat, gc.toNat] [ga.toNat, gc.toNat]
    [excIf (!tag.tileTag || off % 256 != 0 || len % 256 != 0 || len == 0) (.of .illegal), excIf (decide (s.scrSize s.curBlk < off + len)) (.of .scrRange), excIf busy (.of .tileState)]
    (fun t => t.onSeg sg (fun g => { g with tiles := put g.tiles tile.toNat { st := .empty, origin := none, err := false, errCode := 0, tag := tag, off := off, len := len, taken := false, drain := none } }))

/-- Tiles that a GMX command still to run reads: by the command itself. -/
def gmxReads : Gmx → List Nat
  | .mma _ a b sc => [a, b] ++ sc.elim [] (fun x => [x.1, x.2])
  | .mmag _ a b sc _ => [a, b] ++ sc.elim [] (fun x => [x.1, x.2])
  | .mmasp _ a b sc => [a, b] ++ sc.elim [] (fun x => [x.1, x.2])
  | .mldt _ a => [a]
  | _ => []

/-- Code of a tile state. -/
def TileState.code : TileState → Nat
  | .empty => 0
  | .filling => 1
  | .ready => 2
  | .draining => 3

/-- The words TSTAT writes, low register first. -/
def tstatWords (n : Nat) (t : Tile) : Nat :=
  t.st.code * 2 ^ 30 + (if t.err then 2 ^ 29 else 0) + t.tag.code.toNat * 2 ^ 25 + (if t.err then t.errCode else 0) % 256 * 2 ^ 17 + n * 2 ^ 9
    + 2 ^ 32 * ((t.len / 256 - 1) % 4096 * 2 ^ 20 + t.off % 2 ^ 20)

/-- The tile a TSTAT reports: a stream specifier pops, ERR or not (07 R194, R196). -/
def State.statTile (s : State) (sg : SKey) (spec : TileSpec) : TileUse :=
  match spec with
  | .tile n => if (s.tile? sg n.toNat).isSome then .use n.toNat else .bad (.of .illegal)
  | .stream k =>
    let x := s.streamNow sg k.toNat
    match x.ring[x.pos]? with
    | none => .bad (.of .tileState)
    | some n => if (s.tile? sg n).elim false (fun t => decide (t.st = .ready) && !t.taken) then .use n else .wait (.stream k.toNat)

/-- TSTAT. -/
def execTstat (m : Bool) (gd : BitVec 9) (spec : TileSpec) (s : State) : Out :=
  let sg := s.curSeg
  uniTile s .any (s.tileIll [spec]) [gd.toNat, gd.toNat + 1] [] []
    (fun t => match t.statTile sg spec with
      | .bad e => t.raise e
      | .wait w => t.waitAt w
      | .use n => ((t.popTile sg spec).writePair gd.toNat ((s.tile? sg n).elim 0 (tstatWords n))).finish m 8)

/-- SBIND. -/
def execSbind (m : Bool) (k : BitVec 3) (first : BitVec 8) (count : BitVec 9) (s : State) : Out :=
  let sg := s.curSeg
  let ring := regs first.toNat count.toNat
  let old := (s.stream sg k.toNat).ring
  let others := ((List.range 8).filter (fun j => j != k.toNat)).map (fun j => (s.stream sg j).ring)
  uniTile s .any (ring.any (fun n => (s.tile? sg n).isNone)) [] []
    [excIf ((old ++ ring).any (fun n => (s.tile? sg n).elim false (fun t => t.st != .empty)) || ring.any (fun n => others.any (fun r => r.contains n))) (.of .tileState)]
    (fun t => (t.onSeg sg (fun g => { g with streams := g.streams.set k.toNat { ring := ring, pos := 0 } })).finish m 8)

/-- LAYOUT: the slot takes 16 words as they stand (07 R203). -/
def execLayout (m : Bool) (n : BitVec 3) (ga : BitVec 9) (s : State) : Out :=
  uni s m 8 .copy true (regs ga.toNat 16) (regs ga.toNat 16) []
    (fun t => t.onSeg t.curSeg (fun g => { g with layouts := g.layouts.set n.toNat (s.block ga.toNat) }))

/-! ### The dependence counter (14 R326, R329) -/

/-- Every declared slot holds a value and the counter is 0: the task becomes READY. -/
def State.makeReady (s : State) (i : Nat) : State :=
  s.onTask i (fun t =>
    if t.st = .waiting ∧ t.counter = 0 ∧ (List.range 8).all (fun k => t.kernel.pslots / 2 ^ k % 2 == 0 || (t.slots.getD k none).isSome)
    then { t with st := .ready, readyAt := s.clock } else t)

/-- TDEC's rules, with the status of 07 R193: 0 OK, 2 NOTFOUND, 3 STATE, 4 RANGE. -/
def State.decTask (s : State) (i amount : Nat) : State × Nat :=
  match look s.tasks i with
  | none => (s, 2)
  | some t =>
    if t.st ≠ .waiting ∧ t.st ≠ .ready then (s, 3)
    else if t.counter < amount then (s, 4)
    else ((s.onTask i (fun x => { x with counter := x.counter - amount })).makeReady i, 0)

/-! ### What an engine reads and writes -/

/-- The lowest non-zero code of a list, 0 for none (06 R161). -/
def worst (cs : List Nat) : Nat := ((minBy (fun x => x) (cs.filter (fun c => c != 0)))).getD 0

/-- Bytes an engine reads at n bytes from a flat address of object space: a fault code (0 none) and the bytes; none while another chip has yet to send them, or while the channel of an M frame is not free. -/
def State.eRead (s : State) (op : Op) (need : Need) (a n : Nat) : Option (Nat × List Byte) :=
  let ps := splitAccess 0 a n
  if ps.any (fun p => match s.sendTo p.addr with | .away c _ _ _ => s.validChip c | _ => false) then
    let bs := (regs a n).map (look op.got)
    if bs.all Option.isSome then
      let xs := bs.map (fun x => x.getD (0, 0))
      some (worst (xs.map Prod.fst), xs.map Prod.snd)
    else none
  else
    match s.accessFault need [] ps with
    | some c => some (c.code, [])
    | none =>
      if !s.chansFree (ps.map (fun p => p.addr)) then none else
      let hs := (ps.map (fun p => (s.hereAddr p.addr).elim [] (fun e => regs e.1 p.len))).flatten
      if hs.any s.poisonedAt then some (0x15, []) else some (0, hs.map s.byteAt)

/-- Asks other chips for the lines of the ranges an operation still needs, with packets of a type and body. -/
def State.eAskAs (s : State) (o : Nat) (type : PacketType) (body : Dword → Nat → PBody) (ranges : List (Nat × Nat)) : State :=
  let lines := ((ranges.map (fun r => [r.1 / 128, (r.1 + r.2 - 1) / 128])).flatten).eraseDups
  lines.foldl (fun t line =>
    match look t.ops o with
    | none => t
    | some op =>
      if op.asked.contains line then t
      else
        let mine := ranges.filter (fun r => decide (r.1 / 128 ≤ line) && decide (line ≤ (r.1 + r.2 - 1) / 128))
        let lo := max (128 * line) ((minBy (fun r => r.1) mine).elim 0 Prod.fst)
        let hi := min (128 * line + 128) (maxOf (mine.map (fun r => r.1 + r.2)))
        match t.sendTo lo with
        | .away c g id off =>
          let p := { t.packet type c (body (BitVec.ofNat 64 (flat id off)) (hi - lo)) [] with g := g }
          (t.request p (.engineRead o lo (hi - lo))).onOp o (fun x => { x with asked := x.asked ++ [line] })
        | _ => t) s

/-- Tells the chips that hold bytes of some ranges that an operation runs on their frames; the range of a scan is checked there, one of 0 bytes is not (10 R292, R297). -/
def State.enterFrames (s : State) (o : Nat) (l : List (Nat × Nat)) : State :=
  l.foldl (fun t r =>
    match t.sendTo r.1 with
    | .away c g id off =>
      (t.request { t.packet .object c (.object (BitVec.ofNat 64 (flat id off)) (.enter o r.2)) [] with g := g } (.engineWrite o)).onOp o (fun x => { x with acks := x.acks + 1, entered := x.entered ++ [r.1] })
    | _ => t) s

/-- Tells them that it runs no longer. -/
def State.departFrames (s : State) (o : Nat) : State :=
  (((look s.ops o).elim [] (fun x => x.entered)).foldl (fun t a =>
    match t.sendTo a with
    | .away c g id off => if t.validChip c then t.request { t.packet .object c (.object (BitVec.ofNat 64 (flat id off)) (.depart o)) [] with g := g } .ignore else t
    | _ => t) s).onOp o (fun x => { x with entered := [] })

/-- Frames of addresses that other chips hold and that have not been told of an operation. -/
def State.newFrames (s : State) (op : Op) (addrs : List Nat) : List Nat :=
  let far := fun (a : Nat) => match s.sendTo a with | .away c _ _ _ => s.validChip c | _ => false
  (((addrs.filter far).map (fun a => a / 65536 * 65536)).eraseDups).filter (fun f => !op.entered.any (fun e => e / 65536 * 65536 == f))

/-- The lines by READ packets. -/
def State.eAsk (s : State) (o : Nat) (ranges : List (Nat × Nat)) : State := s.eAskAs o .read (fun a n => .read a n (.plain .data)) ranges

/-- The completion time of an engine's write joins its operation's (09 R267). -/
def State.opGwct (s : State) (o line : Nat) (d : Desc) : State := s.onOp o (fun x => { x with gwct := max x.gwct (s.gwctOf d line) })

/-- Sectors of a list of ranges, each once. -/
def sectorsOf (ranges : List (Nat × Nat)) : List Nat := ((ranges.filter (fun r => r.2 != 0)).map (fun r => regs (r.1 / 64) ((r.1 + r.2 - 1) / 64 + 1 - r.1 / 64))).flatten.eraseDups

/-- An engine's reads of ranges pass the channels of M frames, and count at the owners of the objects that are here (15 R354). -/
def State.eCount (s : State) (ranges : List (Nat × Nat)) : State :=
  let secs := sectorsOf ranges
  secs.foldl (fun t x => (t.hereAddr (64 * x)).elim t (fun e => t.countLocal (e.1 / 2 ^ 34))) (s.openRows (secs.map (64 * ·)))

/-- An engine writes cells of object space that have passed their checks: here as non-region writes through the channels of M frames, elsewhere by WRITE packets of a kind. -/
def State.eWriteAs (s : State) (k : AccessKind) (o : Nat) (cells : List (Nat × Byte)) : State :=
  (cellLines cells).foldl (fun t line =>
    let mine := cells.filter (fun c => c.1 / 128 == line)
    match t.sendTo (128 * line) with
    | .here id off d => (((t.openRows [128 * line]).commitCells (mine.map (fun c => (flat id off + c.1 % 128, c.2)))).opGwct o (flat id off / 128) d).countLocalN id (sectorsOf (mine.map (fun c => (c.1, 1)))).length
    | .away c g id off =>
      let mask := mine.foldl (fun (m : BitVec 128) x => m ||| (1#128 <<< (x.1 % 128))) 0
      let p := { t.packet .write c (.write (BitVec.ofNat 64 (flat id off)) mask (.plain k)) ((List.range 128).map (fun i => (look mine (128 * line + i)).getD 0)) with g := g }
      (t.request p (.engineWrite o)).onOp o (fun x => { x with acks := x.acks + 1 })
    | .gone => t) s

/-- Data of any engine but a copy's. -/
def State.eWrite (s : State) (o : Nat) (cells : List (Nat × Byte)) : State := s.eWriteAs .data o cells

/-- Some line of a list of cells is held for ENDED regions, or its object is cutting over and the hold queue full, or its channel is not free: the engine waits (09 R280; 15 R358; 10 R290). -/
def State.eBlocked (s : State) (addrs : List Nat) : Bool :=
  addrs.any (fun a => if s.closedAt a then s.holdFull else (s.hereAddr a).elim false (fun e => s.lineHeld (e.1 / 128))) || !s.chansFree addrs

/-- An operation ends: its state is written once every remote write is acknowledged (07 R191). -/
def State.resolve (s : State) (o : Nat) (st : OpState) : State :=
  s.onOp o (fun x => if x.st = .pending then (if x.acks = 0 then { x with st := st, outcome := none } else { x with outcome := some st }) else x)

/-- The outcome for a fault code. -/
def endOf (code : Nat) : OpState := if code = 0 then .done else .failed code false

/-- An operation has an activity waiting or switching somewhere. -/
def State.opWaits (s : State) (o : Nat) : Bool :=
  let mine := fun (a : Activity) => match a with
    | .red x _ => x == o
    | .winnow x _ => x == o
    | .program x _ => x == o
    | _ => false
  s.channels.any (fun e => e.2.waiting.any mine || e.2.switching.elim false mine)

end Sys2Proof.Machine
end

