-- ==== Sys2Proof/Machine/Copy.lean ====
section
/-! DEFINITION. Copies: CPY, CPYC, MCAST, layout programs, the end of a copy and the boundary at which it stops (07 R192, R198 to R204). -/

namespace Sys2Proof.Machine

/-! ### Elements (07 R199, R200) -/

/-- Bytes of an element. -/
def elemBytes (t : Tag) (esz : Nat) : Nat :=
  match t with
  | .raw => 2 ^ esz
  | .f64 => 8
  | .i32 | .f32 | .pred => 4
  | .f16x2 | .bf16x2 => 2
  | _ => 1

/-- Coordinates of a number in a box, dimension 0 innermost. -/
def unrank : List Nat → Nat → List Nat
  | [], _ => []
  | n :: r, x => x % n :: unrank r (x / n)

/-- Product of a list. -/
def prod (l : List Nat) : Nat := l.foldl (· * ·) 1

/-- Sum of a list of integers. -/
def isum (l : List Int) : Int := l.foldl (· + ·) 0

/-- Elements of a copy's box. -/
def Copy.count (c : Copy) : Nat := prod c.box

/-- Coordinates of the source element of element n of the box. -/
def Copy.coords (c : Copy) (n : Nat) : List Int := (c.start.zip (unrank c.box n)).map (fun x => x.1 + (x.2 : Int))

/-- Distance from the source base of element n: none where a coordinate is out of range, which takes FILL. -/
def Copy.off? (c : Copy) (n : Nat) : Option Int :=
  let x := c.coords n
  if (x.zip c.extent).all (fun e => decide (0 ≤ e.1) && decide (e.1 < (e.2 : Int))) then some (isum ((x.zip c.stride).map (fun e => e.1 * e.2))) else none

/-- In-range coordinates of each dimension with its stride; none where no element is in range. -/
def Copy.spans (c : Copy) : Option (List (Int × Int × Int)) :=
  let l := ((c.start.zip c.box).zip (c.extent.zip c.stride)).map (fun e => (max 0 e.1.1, min (e.2.1 : Int) (e.1.1 + e.1.2) - 1, e.2.2))
  if l.all (fun e => decide (e.1 ≤ e.2.1)) then some l else none

/-- A value that 64 signed bits hold. -/
def fits64 (x : Int) : Bool := decide (-((2 ^ 63 : Nat) : Int) ≤ x) && decide (x < (2 ^ 63 : Nat))

/-- Least and largest source offset from a base, with whether no product or sum overflows on the way. Dimensions are independent, so the extremes of each sum are the sums of the extremes. -/
def offBounds : List (Int × Int × Int) → Int → Int → Bool → Int × Int × Bool
  | [], lo, hi, ok => (lo, hi, ok)
  | (a, b, st) :: r, lo, hi, ok =>
    let p := a * st
    let q := b * st
    offBounds r (lo + min p q) (hi + max p q) (ok && fits64 p && fits64 q && fits64 (lo + min p q) && fits64 (hi + max p q))

/-! ### Layout programs (07 R203) -/

/-- A dimension of a layout's list: its size, destination byte pitch (0 dense) and swizzle. -/
structure LayDim where
  size : Nat
  pitch : Nat
  swz : Option Nat
  deriving DecidableEq, Repr

/-- How an op's index leads back to the index before it. -/
inductive LayBack
  | perm (p : List Nat)
  | pad (d old : Nat)
  | slice (d low : Nat)
  | split (d f : Nat)
  | merge (d a : Nat)
  deriving DecidableEq, Repr

/-- Bits an op leaves unused are zero. -/
def layBitsOk (op w : Nat) : Bool :=
  match op with
  | 0 => true
  | 1 => bits w 27 15 == 0
  | 2 => bits w 24 16 == 0
  | 3 => bits w 24 24 == 0
  | 4 => bits w 24 16 == 0
  | 5 => bits w 24 0 == 0
  | 6 => bits w 24 4 == 0
  | _ => bits w 27 0 == 0

/-- PERM: the new list, for a permutation of the dimensions there are; fields past the list are zero, anything else is ILLEGAL, and of more than five dimensions the last stay in place (DESIGN CHOICE, log entry 31). -/
def layPerm (w : Nat) (ds : List LayDim) : Option (List LayDim × List LayBack) :=
  let n := ds.length
  let p := (List.range 5).map (fun j => bits w (3 * j + 2) (3 * j))
  let q := p.take n ++ (List.range n).drop 5
  if (p.drop n).all (· == 0) && decide (q.eraseDups.length = n) && q.all (fun j => decide (j < n))
  then some (q.map (fun j => ds.getD j ⟨0, 0, none⟩), [.perm q]) else none

/-- One op on the list; none where it breaks a limit. How a pitch and SWZ pass through SPLIT and MERGE, and that a SLICE of no element breaks a limit, the spec leaves open (DESIGN CHOICE, log entry 31). -/
def layStep (x : Word) (ds : List LayDim) : Option (List LayDim × List LayBack) :=
  let w := x.toNat
  let op := bits w 31 28
  let d := bits w 27 25
  if 7 < op ∨ !layBitsOk op w then none
  else if op = 1 then layPerm w ds
  else
    match ds[d]? with
    | none => none
    | some e =>
      match op with
      | 0 => some (ds.set d { e with pitch := bits w 24 0 }, [])
      | 2 => let n := bits w 15 0
             if e.size ≤ n then some (ds.set d { e with size := n }, [.pad d e.size]) else none
      | 3 => let low := bits w 23 12
             let n := bits w 11 0
             if 0 < n ∧ low + n ≤ e.size then some (ds.set d { e with size := n }, [.slice d low]) else none
      | 4 => let f := bits w 15 0
             if 0 < f ∧ e.size % f = 0 ∧ ds.length < 8 then
               some (ds.take d ++ [⟨f, e.pitch, none⟩, ⟨e.size / f, e.pitch * f, e.swz⟩] ++ ds.drop (d + 1), [.split d f])
             else none
      | 5 => match ds[d + 1]? with
             | none => none
             | some o => some (ds.take d ++ [⟨e.size * o.size, e.pitch, o.swz⟩] ++ ds.drop (d + 2), [.merge d e.size])
      | _ => some (ds.set d { e with swz := some (bits w 3 0) }, [])

/-- The whole program: the final list and the ways back, last op first; none for a bad program. -/
def layRun : List Word → List LayDim → List LayBack → Option (List LayDim × List LayBack)
  | [], _, _ => none
  | x :: r, ds, bs =>
    if bits x.toNat 31 28 = 7 then (if bits x.toNat 27 0 = 0 then some (ds, bs) else none)
    else
      match layStep x ds with
      | none => none
      | some (es, b) => layRun r es (b ++ bs)

/-- The index before an op, none for a position that PAD added. -/
def layBack (b : LayBack) (ix : List Nat) : Option (List Nat) :=
  match b with
  | .perm p => some ((List.range ix.length).map (fun o => ix.getD (p.findIdx (· == o)) 0))
  | .pad d old => if ix.getD d 0 < old then some ix else none
  | .slice d low => some (ix.set d (ix.getD d 0 + low))
  | .split d f => some (ix.take d ++ [ix.getD d 0 + f * ix.getD (d + 1) 0] ++ ix.drop (d + 2))
  | .merge d a => some (ix.take d ++ [ix.getD d 0 % a, ix.getD d 0 / a] ++ ix.drop (d + 1))

/-- All the way back to an index of the box. -/
def layBacks : List LayBack → List Nat → Option (List Nat)
  | [], ix => some ix
  | b :: r, ix => (layBack b ix).elim none (layBacks r)

/-- Number of an index in a box. -/
def rank : List Nat → List Nat → Nat
  | n :: r, i :: j => i + n * rank r j
  | _, _ => 0

/-- The destination byte of an index: the sum of the index times the pitch, a SWZ of a dimension acting on the bytes of a row of it. -/
def layPos : List LayDim → List Nat → Nat → Nat → Nat
  | e :: r, i :: j, dense, acc =>
    let a := acc + i * (if e.pitch = 0 then dense else e.pitch)
    let a := e.swz.elim a (fun k => Nat.xor a (rank (r.map (fun x => x.size)) j % 2 ^ k * 16))
    layPos r j (dense * e.size) a
  | _, _, _, acc => acc

/-- Written positions: destination byte, and element of the box or none for FILL. -/
def Copy.places (c : Copy) : Option (List (Nat × Option Nat)) :=
  match c.layout with
  | none => some ((List.range c.count).map (fun n => (n * elemBytes c.dtag c.esz, some n)))
  | some ws =>
    match layRun ws (c.box.map (fun n => ⟨n, 0, none⟩)) [] with
    | none => none
    | some (ds, bs) =>
      let sizes := ds.map (fun d => d.size)
      some ((List.range (prod sizes)).map (fun n =>
        let ix := unrank sizes n
        (layPos ds ix (elemBytes c.dtag c.esz) 0, (layBacks bs ix).map (rank c.box))))

/-- Bytes of the destination's extent. -/
def Copy.extentBytes (c : Copy) : Nat :=
  match c.layout with
  | none => c.count * elemBytes c.dtag c.esz
  | some _ => (c.places.elim 0 (fun ps => maxOf (ps.map (fun p => p.1 + elemBytes c.dtag c.esz))))

/-! ### Issue -/

/-- The copy a pair of blocks describes, for tile numbers and targets already found. -/
def copyOf (sg : SKey) (P Q : List Word) (layouts : List (List Word)) (src : Nat) (targets : List SKey) (mcast counted : Bool) : Copy :=
  let n := pf P 2 27 25 + 1
  { sg := sg
    skind := pf P 2 31 30
    src := src
    dkind := pf P 2 29 28
    dst := if pf P 2 29 28 = 0 then pd P 4 else pw P 4
    ndim := n
    stag := Tag.ofCode (BitVec.ofNat 4 (pf P 2 24 21))
    dtag := Tag.ofCode (BitVec.ofNat 4 (pf P 2 20 17))
    esz := pf P 2 16 15
    dsz := elemBytes (Tag.ofCode (BitVec.ofNat 4 (pf P 2 20 17))) (pf P 2 16 15)
    sat := pf P 2 14 14 == 1
    rm := Rounding.ofCode (BitVec.ofNat 2 (pf P 2 13 12))
    layout := if pf P 2 11 11 = 1 then some (layouts.getD (pf P 2 10 8) []) else none
    notify := if pf P 2 7 7 = 1 then some (pf P 6 11 0) else none
    fill := pw P 3
    start := (List.range n).map (fun i => (P.getD (8 + i) 0).toInt)
    box := (List.range n).map (fun i => pf P (13 + i / 2) (16 * (i % 2) + 15) (16 * (i % 2)))
    extent := (List.range n).map (fun i => pw Q i)
    stride := (List.range n).map (fun i => sext 64 (pd Q (6 + 2 * i)))
    targets := targets
    mcast := mcast
    counted := counted }

/-- Tags of CTRL that no copy takes, or a pair that does not convert (07 R199). -/
def badTags (st dt : Tag) (rm : Rounding) : Bool :=
  let never := fun (t : Tag) => t == .f64hi || t == .f32p || t == .poison
  let alone := fun (t : Tag) => t == .raw || t == .e2m1x8 || t == .pred
  never st || never dt
    || (st != dt && (alone st || alone dt || !convertible st dt || (rm != .rn && (dt.kind == .dt8 || dt.kind == .e8m0))))

/-- Segments a MCAST writes: those of the blocks of the issuer's cohort on the cores named (07 R204). -/
def State.mcastTargets (s : State) (cores : Nat) : List SKey :=
  match look s.blocks s.curBlk with
  | none => []
  | some b =>
    let mine := s.blocks.filter (fun e => e.2.task == b.task && e.2.cohort == b.cohort && e.2.cluster == b.cluster && !e.2.saved && !e.2.swapped)
    (mine.map (fun e => ((List.range e.2.cores.length).filter (fun i => cores / 2 ^ (e.2.cores.getD i 0 % 4) % 2 == 1)).map (fun i => (⟨e.1, i⟩ : SKey)))).flatten

/-- Each core a mask names holds a target. -/
def State.mcastFull (s : State) (cores : Nat) : Bool :=
  (List.range 4).all (fun i => cores / 2 ^ i % 2 == 0 || (s.mcastTargets cores).any (fun k => s.coreOf k % 4 == i))

/-- Words of the two blocks that offend, in order (07 R189, R198). -/
def State.copyBad (s : State) (P Q : List Word) (mcast : Bool) (targets : List SKey) : List (Nat × Bool) :=
  let sk := pf P 2 31 30
  let dk := pf P 2 29 28
  let nd := pf P 2 27 25
  let st := Tag.ofCode (BitVec.ofNat 4 (pf P 2 24 21))
  let dt := Tag.ofCode (BitVec.ofNat 4 (pf P 2 20 17))
  let used := fun (i : Nat) => decide (i ≤ nd)
  let box := fun (i : Nat) => pf P (13 + i / 2) (16 * (i % 2) + 15) (16 * (i % 2))
  let undef := fun (n : Nat) => targets.any (fun k => (s.tile? k n).isNone)
  [(0, sk == 2 && (match specOf (pw P 0) with
       | none => true
       | some (.tile n) => (s.tile? s.curSeg n.toNat).isNone
       | some (.stream _) => false)),
   (1, sk != 0 && pw P 1 != 0),
   (2, sk == 3 || dk == 3 || decide (4 < nd) || (st != .raw && pf P 2 16 15 != 0) || pf P 2 6 0 != 0
        || badTags st dt (Rounding.ofCode (BitVec.ofNat 2 (pf P 2 13 12))) || (mcast && dk == 0)),
   (4, dk == 2 && (decide (255 < pw P 4) || undef (pw P 4))),
   (5, dk != 0 && pw P 5 != 0),
   (6, pf P 6 31 12 != 0),
   (7, if mcast then pf P 7 31 4 != 0 || pw P 7 == 0 || !s.mcastFull (pw P 7) else pw P 7 != 0)]
  ++ (List.range 5).map (fun i => (8 + i, !used i && pw P (8 + i) != 0))
  ++ (List.range 5).map (fun i => (13 + i / 2, if used i then box i == 0 else box i != 0))
  ++ [(15, pf P 15 31 16 != 0)]
  ++ (List.range 5).map (fun i => (16 + i, !used i && pw Q i != 0))
  ++ [(21, pw Q 5 != 0)]
  ++ (List.range 10).map (fun i => (22 + i, !used (i / 2) && pw Q (6 + i) != 0))

/-- The tile a source specifier stands at, before any wait: none for a stream with no ring. -/
def State.specTile (s : State) (sg : SKey) (x : Nat) : Option Nat :=
  match specOf x with
  | some (.tile n) => some n.toNat
  | some (.stream k) => (s.stream sg k.toNat).ring[(s.stream sg k.toNat).pos]?
  | none => none

/-- Base of a copy's source offsets: the pointer's offset, the scratchpad offset, the tile's place. -/
def State.copyBase (s : State) (c : Copy) : Int :=
  match c.skind with
  | 0 => (ptrOff c.src : Int)
  | 1 => (c.src : Int)
  | _ => ((s.tile? c.sg c.src).elim 0 (fun t => t.off) : Int)

/-- The checks of 07 R200 over every in-range element and the destination, in their order. DEDUCED, log entry 31. -/
def State.copyExcs (s : State) (c : Copy) : List (Option Exc) :=
  let b := s.copyBase c
  let es := elemBytes c.stag c.esz
  let r := c.spans.map (fun l => offBounds l b b (fits64 b))
  let lim : Int × Int := if c.skind = 2 then (s.tile? c.sg c.src).elim (0, 0) (fun t => ((t.off : Int), (t.off + t.len : Int))) else (0, (s.scrSize c.sg.blk : Int))
  let n := c.extentBytes
  [excIf (c.layout.isSome && c.places.isNone) (.of .illegal),
   excIf (r.elim false (fun x => !x.2.2 || decide (x.1 < 0) || decide (((2 ^ 34 : Nat) : Int) ≤ x.2.1))) (.of .copyRange),
   excIf (c.skind != 0 && r.elim false (fun x => decide (x.1 < lim.1) || decide (lim.2 < x.2.1 + es))
      || (c.dkind == 1 && c.targets.any (fun k => decide (s.scrSize k.blk < c.dst + n)))
      || (c.dkind == 2 && c.targets.any (fun k => (s.tile? k c.dst).elim false (fun t => decide (t.len < n))))) (.of .scrRange),
   excIf (c.dkind == 2 && c.targets.any (fun k => (s.tile? k c.dst).elim false (fun t => t.tag != c.dtag))) (.of .tag),
   excIf ((c.skind == 0 && s.unreachable (ptrId c.src)) || (c.dkind == 0 && s.unreachable (ptrId c.dst))) (.of .unreachable)]

/-- Everything an issue of CPY, CPYC or MCAST comes to: the copy, its faults, its tile uses, its source specifier. -/
def State.copyPlan (s : State) (ga gb : Nat) (mcast counted : Bool) : Copy × List (Option Exc) × List TileUse × TileSpec :=
  let P := s.block ga
  let Q := s.block gb
  let sg := s.curSeg
  let targets := if mcast then s.mcastTargets (pf P 7 3 0) else [sg]
  let drain := pf P 2 31 30 == 2
  let spec := (specOf (pw P 0)).getD (.tile 0)
  let src := if pf P 2 31 30 = 0 then pd P 0 else if drain then (s.specTile sg (pw P 0)).getD 0 else pw P 0
  let c := copyOf sg P Q ((look s.segs sg).elim [] (fun g => g.layouts)) src targets mcast counted
  let noRing := excIf (drain && (s.specTile sg (pw P 0)).isNone) (.of .tileState)
  let byStream := match spec with
    | .stream _ => true
    | .tile _ => false
  let armed := excIf (drain && (s.tile? sg src).elim false (fun t => t.drain.isSome && !(byStream && t.taken))) (.of .tileState)
  (c, [blockExc (s.copyBad P Q mcast targets), noRing] ++ s.copyExcs c ++ [armed],
    (if c.dkind = 2 then targets.map (fun k => s.destTile k c.dst) else []) ++ (if drain then [s.srcTile sg spec] else []), spec)

/-- Tiles of a copy that has issued: destinations fill, an armed drain is noted at its source, which a stream specifier pops. -/
def State.copyTiles (s : State) (c : Copy) (spec : TileSpec) (o : Nat) : State :=
  let t := if c.dkind = 2 then c.targets.foldl (fun t k => t.fillTile k c.dst (if c.skind = 0 then some (s.origin c.src) else none)) s else s
  if c.skind = 2 then (t.popTile c.sg spec).onTile c.sg c.src (fun x => { x with drain := some o }) else t

/-- CPY and MCAST. -/
def copyFuture (s : State) (m : Bool) (k : BitVec 4) (ga gb : BitVec 9) (mcast : Bool) : Out :=
  let r := s.copyPlan ga.toNat gb.toNat mcast false
  let names := regs ga.toNat 16 ++ regs gb.toNat 16
  uniJump s .copy true names names r.2.1
    (fun t => withTiles t r.2.2.1 (fun t =>
      match t.busyHandle k.toNat with
      | some o => t.waitAt (.handle o)
      | none =>
        let x := t.newOp (.copy r.1) (r.1.skind == 2)
        ((x.1.writeH k.toNat (.names x.2)).copyTiles r.1 r.2.2.2 x.2).finish m 8))

/-- CPY. -/
def execCpy (m : Bool) (k : BitVec 4) (ga gb : BitVec 9) (s : State) : Out := copyFuture s m k ga gb false
/-- MCAST. -/
def execMcast (m : Bool) (k : BitVec 4) (ga gb : BitVec 9) (s : State) : Out := copyFuture s m k ga gb true

/-- CPYC: counted, with its count in gd. -/
def execCpyc (m : Bool) (gd ga gb : BitVec 9) (s : State) : Out :=
  let r := s.copyPlan ga.toNat gb.toNat false true
  let blocks := regs ga.toNat 16 ++ regs gb.toNat 16
  uniJump s .copy true (gd.toNat :: blocks) blocks r.2.1
    (fun t => withTiles t r.2.2.1 (fun t =>
      if t.entryFree then
        let x := t.newOp (.copy r.1) (r.1.skind == 2)
        (x.1.copyTiles r.1 r.2.2.2 x.2).openTxn m 8 (.command gd.toNat (.copy x.2)) [] [] (fun u => u.pendU gd.toNat 1)
      else t))

/-! ### The transfer -/

/-- Source address of each in-range element of a copy: a flat address, or a scratchpad offset. -/
def State.copySrc (s : State) (c : Copy) (n : Nat) : Option Nat :=
  (c.off? n).map (fun d => if c.skind = 0 then flat (ptrId c.src) ((ptrOff c.src : Int) + d).toNat else (s.copyBase c + d).toNat)

/-- COPY_RIGHTS in place of OBJ_PERM (07 R200). -/
def copyCode (x : Nat) : Nat := if x = 0x09 then 0x0E else x

/-- Bytes of one source element: its fault code and bytes; none while another chip has yet to send them. CPY has no field for the signedness of I32 and I8X4 elements that convert, and the spec names none: the model reads and writes them as signed (DESIGN CHOICE, log entry 31). -/
def State.copyElem (s : State) (op : Op) (c : Copy) (n : Nat) : Option (Nat × List Byte) :=
  let es := elemBytes c.stag c.esz
  match s.copySrc c n with
  | none => some (0, bytesLE c.dsz c.fill)
  | some a =>
    let raw := if c.skind = 0 then s.eRead op ⟨true, false⟩ a es
               else if s.scrPoison c.sg a || s.scrPoison c.sg (a + es - 1) then some (0x15, []) else some (0, s.scrRead c.sg a es 0)
    raw.map (fun r => (copyCode r.1, if r.1 ≠ 0 ∨ c.stag = c.dtag then r.2 else bytesLE c.dsz (convert c.stag false c.dtag false c.rm c.sat (natLE r.2))))

/-- Flat address of a destination position of object space, none past the end of a pointer's range. -/
def Copy.dstAddr (c : Copy) (pos : Nat) : Option Nat := if ptrOff c.dst + pos + c.dsz ≤ 2 ^ 34 then some (flat (ptrId c.dst) (ptrOff c.dst + pos)) else none

/-- The check of one destination element of object space that this chip makes: W and no X, else COPY_RIGHTS. -/
def State.dstCode (s : State) (c : Copy) (pos : Nat) : Nat :=
  match c.dstAddr pos with
  | none => if s.route splitFuel (ptrId c.dst) 0 = .gone then 0x07 else 0x08
  | some a =>
    let ps := splitAccess 0 a c.dsz
    match s.accessFault ⟨false, true⟩ [] ps with
    | some x => copyCode x.code
    | none => if ps.any (fun p => (s.hereAddr p.addr).elim false (fun e => attrX e.2.attrs)) then 0x0E else 0

/-- The destination sector of a position: of object space, of the scratchpad, or of the tile. -/
def Copy.sectorOf (c : Copy) (pos : Nat) : Nat := if c.dkind = 2 then pos / 64 else (c.dst + pos) / 64

/-- Destination sectors of a copy, in the order in which the model writes them (DESIGN CHOICE, log entry 15). -/
def Copy.sectors (c : Copy) : List Nat := ((c.places.getD []).map (fun p => c.sectorOf p.1)).eraseDups

/-- Positions that one stage of a copy writes: those of one destination sector, or all of them at each target core of an MCAST (07 R192). -/
def Copy.stagePlaces (c : Copy) (i : Nat) : List (Nat × Option Nat) :=
  if c.mcast then c.places.getD [] else (c.places.getD []).filter (fun p => c.sectors[i]? == some (c.sectorOf p.1))

/-- Target cores of a copy. -/
def State.copyCores (s : State) (c : Copy) : List Nat := (c.targets.map s.coreOf).eraseDups

/-- Stages of a copy. -/
def State.copyStages (s : State) (c : Copy) : Nat := if c.mcast then (s.copyCores c).length else c.sectors.length

/-- Targets that the stages from i on write. -/
def State.targetsFrom (s : State) (c : Copy) (i : Nat) : List SKey :=
  if c.mcast then c.targets.filter (fun k => decide (i ≤ (s.copyCores c).findIdx (· == s.coreOf k))) else c.targets

/-- Targets that stage i writes. -/
def State.targetsAt (s : State) (c : Copy) (i : Nat) : List SKey :=
  if c.mcast then c.targets.filter (fun k => (s.copyCores c)[i]? == some (s.coreOf k)) else c.targets

/-- Ranges of object space that a list of positions reads. -/
def State.placeRanges (s : State) (c : Copy) (l : List (Nat × Option Nat)) : List (Nat × Nat) :=
  if c.skind = 0 then l.filterMap (fun p => (p.2.elim none (s.copySrc c)).map (fun a => (a, elemBytes c.stag c.esz))) else []

/-- What a list of positions is given: position, fault code, bytes; none while bytes are missing. -/
def State.copyOut (s : State) (op : Op) (c : Copy) (l : List (Nat × Option Nat)) : Option (List (Nat × Nat × List Byte)) :=
  l.mapM (fun p =>
    ((match p.2 with
      | none => some (0, bytesLE c.dsz c.fill)
      | some n => s.copyElem op c n) : Option (Nat × List Byte)).map (fun r =>
        (p.1, if r.1 ≠ 0 then r.1 else if c.dkind = 0 then s.dstCode c p.1 else 0, r.2)))

/-- Writes cells to a segment's scratchpad: sectors covered whole lose their poison (17 R399). A tile's own fill writes its bytes; other bytes of FILLING and DRAINING tiles become undefined. -/
def State.scrCells (s : State) (sg : SKey) (cells : List (Nat × Byte)) (own : Bool) : State :=
  let t := if own then s.onSeg sg (fun g => { g with scratch := g.scratch.cells cells })
           else cells.foldl (fun t c => t.scrWrite sg c.1 [c.2] (c.1 % 64)) s
  t.scrClean sg (cells.map (fun c => (c.1, 1)))

/-- What the park that completes a counted copy merges is noted (09 R267, R271); a sequencer merges it as the copy ends. -/
def State.oweGwct (s : State) (w : Agent) (x : Nat) : State :=
  match w with
  | .grp k => s.onGroup k (fun g => { g with owedGwct := some (max (g.owedGwct.getD 0) x) })
  | .sqr _ => s.mergeGwct w x

/-- A copy's target tiles end: those that a poisoned element went into take POISON. -/
def State.tilesEnd (s : State) (c : Copy) (ks : List SKey) (codes : List Nat) (code : Nat) : State :=
  ks.foldl (fun t k =>
    (if codes.contains 0x15 then t.onTile k c.dst (fun y => if y.st = .filling then { y with tag := .poison } else y) else t).tileDone k c.dst code) s

/-- A copy ends: the tiles it has not finished, the dependence counter, and its handle or its transaction. -/
def State.copyEnd (s : State) (o : Nat) (c : Copy) (st : OpState) : State :=
  let op := look s.ops o
  let code := match st with | .failed x _ => x | _ => 0
  let cancelled := match st with | .failed _ x => x | _ => false
  let left := s.targetsFrom c (op.elim 0 (fun x => x.stage))
  let t :=
    if c.dkind ≠ 2 then s
    else if cancelled then left.foldl (fun t k => t.tileCancel k c.dst) s
    else s.tilesEnd c left (op.elim [] (fun x => x.codes)) code
  let t := if c.skind = 2 then t.tileDrained c.sg c.src else t
  let t := if st = .done then c.notify.elim t (fun i => (t.decTask i 1).1) else t
  let t := t.onOp o (fun x => if x.st = .pending then { x with st := st, outcome := none } else x)
  match t.txns.find? (fun x => match x.kind with | .command _ (.copy p) => p == o | _ => false) with
  | none => t
  | some x =>
    match x.kind with
    | .command gd _ =>
      let u := (t.destMod x.who (.g gd) 0 0 (fun _ => if st = .done then BitVec.ofNat 32 c.count else 0)).oweGwct x.who (op.elim 0 (fun y => y.gwct))
      let u := if st = .done then u else u.onTxn x.id (fun y => { y with faults := [(codeOf code, uniLane)] })
      u.partDone x.id 0
    | _ => t

/-- Writes elements of object space: those whose bytes stand here line by line, one by one those of other chips, where a faulting element must not hold back another (07 R200; DESIGN CHOICE, log entry 31). -/
def State.eWriteEach (s : State) (o : Nat) (elems : List (List (Nat × Byte))) : State :=
  let far := fun (e : List (Nat × Byte)) => (e.head?).elim false (fun x => match s.sendTo x.1 with | .away .. => true | _ => false)
  (elems.filter far).foldl (fun t e => t.eWriteAs .copy o e) (s.eWriteAs .copy o (elems.filter (fun e => !far e)).flatten)

/-- Writes one stage's elements at its destination. -/
def State.copyWrite (s : State) (o i : Nat) (c : Copy) (elems : List (List (Nat × Byte))) : State :=
  match c.dkind with
  | 0 => s.eWriteEach o (elems.map (fun e => e.map (fun x => (c.dst + x.1, x.2))))
  | 1 => (s.targetsAt c i).foldl (fun t k => t.scrCells k (elems.flatten.map (fun x => (c.dst + x.1, x.2))) false) s
  | _ => (s.targetsAt c i).foldl (fun t k => t.scrCells k (elems.flatten.map (fun x => ((t.tile? k c.dst).elim 0 (fun y => y.off) + x.1, x.2))) true) s

/-- Elements of a copy's output that are written. -/
def goodElems (out : List (Nat × Nat × List Byte)) : List (List (Nat × Byte)) := (out.filter (fun e => e.2.1 == 0)).map (fun e => (regs e.1 e.2.2.length).zip e.2.2)

/-- Source ranges that stage i is the first to read, which count at their owners once (15 R354). -/
def State.freshRanges (s : State) (c : Copy) (i : Nat) : List (Nat × Nat) :=
  let old := if c.mcast then [] else sectorsOf (s.placeRanges c (((List.range i).map c.stagePlaces).flatten))
  ((sectorsOf (s.placeRanges c (c.stagePlaces i))).filter (fun x => !old.contains x)).map (fun x => (64 * x, 64))

/-- One stage of a copy: a destination sector, or a target core of an MCAST, whose source is read once (07 R192, R204). After the last, the copy ends once its remote writes are acknowledged. -/
def State.copyMove (s : State) (o : Nat) (op : Op) (c : Copy) (out : List (Nat × Nat × List Byte)) : State :=
  let again := c.mcast && decide (0 < op.stage)
  let elems := if again then [op.buf] else goodElems out
  let codes := if again then op.codes else (op.codes ++ out.map (fun e => e.2.1)).eraseDups
  let s := if again then s else s.eCount (s.freshRanges c op.stage)
  let t := (s.copyWrite o op.stage c elems).onOp o (fun x => { x with stage := op.stage + 1, codes := (codes ++ x.codes).eraseDups, buf := if c.mcast then elems.flatten else [] })
  let t := if c.mcast ∧ c.dkind = 2 then t.tilesEnd c (t.targetsAt c op.stage) codes (worst codes) else t
  if op.stage + 1 < s.copyStages c then t
  else if (look t.ops o).elim true (fun x => x.acks == 0) then t.copyEnd o c (endOf (worst codes))
  else t.onOp o (fun x => { x with outcome := some .done })

/-- Bytes of object space that a stage of a copy writes: every byte of its elements, which may cross a line. -/
def Copy.writesAt (c : Copy) (i : Nat) : List Nat :=
  if c.dkind = 0 then ((c.stagePlaces i).filterMap (fun p => (c.dstAddr p.1).map (fun a => regs a c.dsz))).flatten else []

/-- A stage of a copy has to wait: its writes for ENDED regions, a cut-over or a channel, its reads for a cut-over. -/
def State.copyBlocked (s : State) (c : Copy) (i : Nat) : Bool :=
  s.eBlocked (c.writesAt i) || (s.placeRanges c (c.stagePlaces i)).any (fun r => s.stuckAt r.1)

/-- A copy whose outcome waits for acknowledgements that have come, or one that may move: not armed, its object not held. -/
def State.copyMay (s : State) (o : Nat) (op : Op) (c : Copy) : Bool :=
  op.st == .pending && !op.armed && !(c.skind == 0 && s.revoking o c.src) && (match op.outcome with | some _ => op.acks == 0 | none => !op.cancel && !s.copyBlocked c op.stage)

/-- How a copy whose writes are all acknowledged ends. -/
def Op.copyOutcome (op : Op) : OpState → OpState
  | .failed x true => .failed x true
  | _ => endOf (worst op.codes)

/-- COPY_COMPLETE: asks for what stands on other chips, then moves the bytes stage by stage, then ends (07 R201). -/
def execCopyComplete (s : State) : Out :=
  .next (match s.arg with
    | .num o =>
      match look s.ops o with
      | none => s
      | some op =>
        match op.kind with
        | .copy c =>
          if s.copyMay o op c then
            match op.outcome with
            | some st => s.copyEnd o c (op.copyOutcome st)
            | none =>
              match (if c.mcast ∧ 0 < op.stage then some [] else s.copyOut op c (c.stagePlaces op.stage)) with
              | some out => s.copyMove o op c out
              | none => s.eAsk o (s.placeRanges c (c.places.getD []))
          else s
        | _ => s
    | _ => s)

/-! ### TREL, and the end of a tile wait (07 R194, R197) -/

/-- A copy that has not ended reads a scratchpad range that a tile of its segment meets. -/
def Copy.readsTile (c : Copy) (sg : SKey) (t : Tile) : Bool :=
  c.skind == 1 && c.sg == sg &&
    (c.spans.map (fun l => offBounds l c.src c.src true)).elim false (fun r => decide (r.1 < ((t.off + t.len : Nat) : Int)) && decide ((t.off : Int) < r.2.1 + elemBytes c.stag c.esz))

/-- A tile is still read by matrix commands or by a copy whose scratchpad source meets it, or the issuer's scratchpad accesses have not all taken effect (07 R197; 09 R273). -/
def State.readersOf (s : State) (sg : SKey) (w : Agent) (n : Nat) : Bool :=
  (look s.segs sg).elim false (fun g => g.gmx.any (fun c => (gmxReads c.2).contains n)) || s.txns.any (fun t => t.who == w && t.scratch)
    || (s.tile? sg n).elim false (fun t => s.ops.any (fun e => e.2.st == .pending && (match e.2.kind with | .copy c => c.readsTile sg t | _ => false)))

/-- TREL. -/
def execTrel (m : Bool) (tile : BitVec 8) (s : State) : Out :=
  let sg := s.curSeg
  let n := tile.toNat
  uniTile s .any (s.tileIll [.tile tile]) [] []
    [excIf ((s.tile? sg n).elim false (fun t => t.st != .ready)) (.of .tileState)]
    (fun t =>
      if t.readersOf sg t.curAgent n then t.waitAt (.readers n)
      else
        let t := t.nameTile sg n
        match (t.tile? sg n).elim none (fun x => x.drain) with
        | none => (t.onTile sg n (fun x => { x with st := .empty, err := false, taken := false })).finish m 8
        | some o => ((t.onTile sg n (fun x => { x with st := .draining, taken := false })).onOp o (fun x => { x with armed := false })).finish m 8)

/-- A tile or stream wait is over. -/
def State.tileWaitOver (s : State) (w : Agent) : Wait → Bool
  | .tile sg n want => (s.tile? sg n).elim true (fun t => decide (t.st = want) || (decide (t.st = .ready) && t.err))
  | .stream k =>
    let x := s.stream (s.segOf w) k
    (x.ring[x.pos]?).elim true (fun n => (s.tile? (s.segOf w) n).elim true (fun t => decide (t.st = .ready) && !t.taken))
  | .readers n => !s.readersOf (s.segOf w) w n
  | _ => false

/-- TILE_WAIT_END: the instruction that waits for a tile issues again. -/
def execTileWaitEnd (s : State) : Out :=
  .next (match s.arg with
    | .agent w => if s.tileWaitOver w (s.agentWait w) then s.clearWait w else s
    | _ => s)

/-! ### The boundary of HCANCEL (07 R192) -/

/-- Operations that have a boundary, where it stands now. A copy that waits for TREL or for acknowledgements stands at none; a channel program's boundary is inside its visit, at NEXT, so that of one on another chip is asked to stop there. -/
def Op.atBoundary (x : Op) : Bool :=
  x.cancel && decide (x.st = .pending) && !x.armed && x.outcome.isNone &&
    (match x.kind with
     | .copy _ => true
     | .scan _ => true
     | .red _ => true
     | .transfer _ => true
     | .nbx _ => x.asked == [0]
     | _ => false)

/-- Asks the chip to which a channel program went to stop it at its next NEXT. -/
def State.askStop (s : State) (o : Nat) (n : Nbx) : State :=
  let t := s.onOp o (fun x => { x with asked := [0, 1] })
  match s.sendTo n.base with
  | .away c g id off => if s.validChip c then t.request { s.packet .object c (.object (BitVec.ofNat 64 (flat id off)) (.stop o)) [] with g := g } .ignore else t
  | _ => t

/-- CANCEL_BOUNDARY: a cancelled operation stops; a tile it was filling returns to EMPTY. A transfer ends once the packet that it has handed to the fabric is answered. -/
def execCancelBoundary (s : State) : Out :=
  .next (match s.arg with
    | .num o =>
      match look s.ops o with
      | none => s
      | some op =>
        if op.atBoundary then
          match op.kind with
          | .copy c => if op.acks = 0 then s.copyEnd o c (.failed 0 true) else s.onOp o (fun x => { x with outcome := some (.failed 0 true) })
          | .nbx n => s.askStop o n
          | .transfer t => if t.waiting = 0 then s.resolve o (.failed 0 true) else s.onOp o (fun x => { x with outcome := some (.failed 0 true) })
          | .scan c => if op.acks = 0 then (c.tile.elim s (fun n => s.tileCancel c.sg n)).departFrames o |>.resolve o (.failed 0 true) else s.onOp o (fun x => { x with outcome := some (.failed 0 true) })
          | _ => (s.departFrames o).resolve o (.failed 0 true)
        else s
    | _ => s)

end Sys2Proof.Machine
end

