-- ==== Sys2Proof/Machine/Matrix.lean ====
section
/-! DEFINITION. Matrix commands: their issue, their run at the matrix engine, MWAIT, MCMERGE (01 R30, R31, R38; 07 R205 to R214). -/

namespace Sys2Proof.Machine

/-! ### FP32 by codes -/

/-- NaN32. -/
def nan32 : Nat := 0x7FC00000
/-- Value of an FP32 code. -/
def f32v (a : Nat) : Val := Fmt.fp32.value a
/-- Sum rounded to FP32. -/
def f32add (a b : Nat) : Nat := fadd .rn .fp32 a b
/-- Product rounded to FP32. -/
def f32mul (a b : Nat) : Nat := fmul .rn .fp32 a b
/-- maximumNumber. -/
def f32max (a b : Nat) : Nat := fmax .fp32 a b
/-- A NaN code. -/
def f32nan (a : Nat) : Bool := (f32v a).isNan

/-- One level of the reduction tree. -/
def treeLevel : List Nat → List Nat
  | a :: b :: r => f32add a b :: treeLevel r
  | l => l

/-- The pairwise tree of 01 R31 over a power of two of values, at most 2^n. -/
def treeSum : Nat → List Nat → Nat
  | 0, l => l.headD 0
  | n + 1, l => treeSum n (treeLevel l)

/-- Fold of 01 R31 on the pair (s, c). -/
def foldPair (s c x : Nat) : Nat × Nat :=
  if f32nan s || f32nan c || f32nan x then (nan32, 0)
  else if !(f32v s).isFin || !(f32v x).isFin then (f32add s x, 0)
  else
    let r := Fmt.fp32.twoSum s x
    if !(f32v r.1).isFin then (r.1, 0) else (r.1, f32add c r.2)

/-- The exact value of a pair, or its IEEE sum (01 R30). The sign of an exact sum of zero, and so of its product with a negative multiplier, the spec does not give: the model takes the signs of IEEE 754 at round-to-nearest (DESIGN CHOICE, log entry 34). -/
def tregVal (e : Word × Word) : Val := (f32v e.1.toNat).add .rn (f32v e.2.toNat)

/-! ### Tile registers and scratchpad areas -/

/-- Elements of a tile register. -/
def tregSize : Nat := 16384

/-- Element n of a tile register. -/
def TileReg.at_ (r : TileReg) (n : Nat) : Word × Word := (look r.elems n).getD (0, 0)

/-- A tile register of a segment. -/
def State.treg (s : State) (sg : SKey) (t : Nat) : TileReg := (look s.segs sg).elim { tag := .f32p, elems := [] } (fun g => g.tregs.getD t { tag := .f32p, elems := [] })

/-- Writes every element of a tile register, with the tag it takes. -/
def State.setTreg (s : State) (sg : SKey) (t : Nat) (x : Tag) (f : Nat → Word × Word) : State :=
  s.onSeg sg (fun g => { g with tregs := g.tregs.modify t (fun r => { r with tag := x, elems := (List.range tregSize).filterMap (fun n => if f n = (0, 0) then none else some (n, f n)) }) })

/-- Sets a tile register's tag, at the issue of a command that will write all of it. -/
def State.tregTag (s : State) (sg : SKey) (t : Nat) (x : Tag) : State :=
  s.onSeg sg (fun g => { g with tregs := g.tregs.modify t (fun r => { r with tag := x }) })

/-- Some sector of a scratchpad range is poisoned. -/
def State.areaPoison (s : State) (sg : SKey) (a n : Nat) : Bool := (sectorsOf [(a, n)]).any (fun x => s.scrPoison sg (64 * x))

/-- What crosses into scratchpad sectors with a poison mark leaves them poisoned (17 R399). -/
def State.poisonScr (s : State) (sg : SKey) (ranges : List (Nat × Nat)) : State :=
  s.onSeg sg (fun g => { g with poison := g.poison ++ (sectorsOf ranges).filter (fun x => !g.poison.contains x) })

/-- The tag of a tile register that a command writes: POISON when something it read was marked (17 R399; 01 R36). -/
def markTag (bad : Bool) : Tag := if bad then .poison else .f32p

/-- A tile register carries POISON. -/
def State.tregBad (s : State) (sg : SKey) (t : Nat) : Bool := (s.treg sg t).tag == .poison

/-- n bytes of a scratchpad, word by word; a poisoned sector's are undefined to the matrix engine (DEDUCED, log entry 16). -/
def State.scrArea (s : State) (sg : SKey) (a n : Nat) : List Byte :=
  ((List.range (n / 4)).map (fun i => if s.scrPoison sg (a + 4 * i) then s.undefBytes 16416 (a + 4 * i) 4 else s.scrRead sg (a + 4 * i) 4 (a + 4 * i))).flatten

/-- Bytes of a tile. -/
def State.tileArea (s : State) (sg : SKey) (n bytes : Nat) : List Byte := s.scrArea sg ((s.tile? sg n).elim 0 (fun t => t.off)) bytes

/-- Length of a tile. -/
def State.tileLen (s : State) (sg : SKey) (n : Nat) : Nat := (s.tile? sg n).elim 0 (fun t => t.len)
/-- Tag of a tile. -/
def State.tileTag (s : State) (sg : SKey) (n : Nat) : Tag := (s.tile? sg n).elim .raw (fun t => t.tag)

/-- Some sector of a tile's first bytes is poisoned. -/
def State.tilePoison (s : State) (sg : SKey) (n bytes : Nat) : Bool := s.areaPoison sg ((s.tile? sg n).elim 0 (fun t => t.off)) bytes

/-- Some sector of a part of a tile is poisoned. -/
def State.tileRowPoison (s : State) (sg : SKey) (n at_ len : Nat) : Bool := s.areaPoison sg ((s.tile? sg n).elim 0 (fun t => t.off) + at_) len

/-- A word's code at a byte of an area. -/
def wordAt (bs : List Byte) (i : Nat) : Nat := natLE ((bs.drop i).take 4)

/-! ### Operands (01 R19, R22, R38; 07 R206) -/

/-- K of an A tag; 0 for a tag that no matrix instruction takes. -/
def matK (t : Tag) : Nat :=
  match t with
  | .e4m3x4 | .e5m2x4 | .dt8x4 | .i8x4 => 64
  | .f16x2 | .bf16x2 => 32
  | .e2m1x8 => 128
  | _ => 0

/-- The pairs of 01 R38. -/
def matPair (a b : Tag) : Bool :=
  let f8 := fun (t : Tag) => t == .e4m3x4 || t == .e5m2x4 || t == .dt8x4
  (f8 a && f8 b) || (a == b && (a == .i8x4 || a == .f16x2 || a == .bf16x2 || a == .e2m1x8))

/-- Value of operand k of a 64-byte row with its four scale bytes. The sign of the FP32 product of an i8 operand 0 with a negative one the spec does not give (integers have no -0): the model gives it the sign of the product of signs, -0 (DESIGN CHOICE, log entry 34). -/
def operandVal (t : Tag) (row sc : List Byte) (k : Nat) : Val :=
  match t with
  | .f16x2 => Fmt.fp16.value (natLE ((row.drop (2 * k)).take 2))
  | .bf16x2 => Fmt.bf16.value (natLE ((row.drop (2 * k)).take 2))
  | .e2m1x8 => (Fmt.e2m1.value ((row.getD (k / 2) 0).toNat / 16 ^ (k % 2) % 16)).mul (e8m0Value (sc.getD (k / 32) 0).toNat)
  | .i8x4 => .ofInt (row.getD k 0).toInt
  | .dt8x4 => f32v (Fmt.fp32.rn (dt8Value (row.getD k 0).toNat))
  | .e5m2x4 => Fmt.e5m2.value (row.getD k 0).toNat
  | _ => Fmt.e4m3.value (row.getD k 0).toNat

/-- Row i of 64 bytes. -/
def row64 (bs : List Byte) (i : Nat) : List Byte := (bs.drop (64 * i)).take 64
/-- Scale bytes of row i. -/
def row4 (bs : List Byte) (i : Nat) : List Byte := (bs.drop (4 * i)).take 4

/-- The sum of one element's update: none stands for a pruned position. -/
def dotTree (a : List (Option Val)) (b : List Val) : Nat :=
  treeSum 7 ((a.zip b).map (fun e => match e.1 with | none => 0 | some x => Fmt.fp32.rn (x.mul e.2)))

/-- An MMA update of a tile register: rows of A and columns of B as values. -/
def mmaElems (r : TileReg) (A : List (List (Option Val))) (B : List (List Val)) (n : Nat) : Word × Word :=
  let e := r.at_ n
  let p := foldPair e.1.toNat e.2.toNat (dotTree (A.getD (n / 128) []) (B.getD (n % 128) []))
  (BitVec.ofNat 32 p.1, BitVec.ofNat 32 p.2)

/-- Values of a row. -/
def rowVals (t : Tag) (row sc : List Byte) : List Val := (List.range (matK t)).map (operandVal t row sc)

/-- Positions kept by a compressed line's header: two a group (07 R209). -/
def lineKept (k : Nat) (line : List Byte) : List Nat :=
  ((List.range (k / 4)).map (fun g =>
    let nib := (line.getD (g / 2) 0).toNat / 16 ^ (g % 2) % 16
    [4 * g + nib % 4, 4 * g + nib / 4])).flatten

/-- The fault of a compressed line's header: TAG, else ILLEGAL. -/
def lineFault (t : Tag) (line : List Byte) : Option FaultCode :=
  let k := matK t
  let nib := fun (g : Nat) => (line.getD (g / 2) 0).toNat / 16 ^ (g % 2) % 16
  if (line.getD 25 0).toNat ≠ t.code.toNat then some .tag
  else if (line.getD 24 0).toNat ≠ k / 2 ∨ ((line.drop 26).take 6).any (· != 0) ∨ (List.range 48).any (fun g => if g < k / 4 then decide (nib g / 4 ≤ nib g % 4) else nib g != 0)
  then some .illegal
  else none

/-- Values of a compressed line at their positions. -/
def lineVals (t : Tag) (line sc : List Byte) : List (Option Val) :=
  let k := matK t
  let kept := lineKept k line
  let vals := line.drop 32
  (List.range k).map (fun p =>
    let i := kept.findIdx (· == p)
    if i < kept.length then
      match t with
      | .e2m1x8 => some ((Fmt.e2m1.value ((vals.getD (i / 2) 0).toNat / 16 ^ (i % 2) % 16)).mul (e8m0Value (sc.getD (p / 32) 0).toNat))
      | _ => some (operandVal t vals [] i)
    else none)

/-! ### Issue -/

/-- Place of a tile in the scratchpad. -/
def Segment.tileSpan (g : Segment) (n : Nat) : Nat × Nat := (look g.tiles n).elim (0, 0) (fun t => (t.off, t.len))

/-- The tile register a command writes. -/
def gmxWrites : Gmx → Option Nat
  | .mzero t => some t
  | .mma t _ _ _ => some t
  | .mmag t _ _ _ _ => some t
  | .mmasp t _ _ _ => some t
  | .mscale t _ _ => some t
  | .mldt t _ => some t
  | .mcmerge t _ _ => some t
  | _ => none

/-- The destination tile a command fills. -/
def gmxFills : Gmx → Option Nat
  | .msoft _ o _ _ => some o
  | .mdrain _ _ _ _ o _ _ => some o
  | _ => none

/-- Scratchpad areas besides tiles that a command reads or writes. -/
def gmxAreas : Gmx → List (Nat × Nat)
  | .mmag _ _ _ _ idx => [(idx, 256)]
  | .msoft _ _ _ rows => [(rows, 4096)]
  | .mscale _ a k => [(a, 127 * 2 ^ k + 4)]
  | .mcmerge _ rows _ => [(rows, 4096)]
  | _ => []

/-- What a command keeps from groups until its MWAIT and barrier: operands and results, and the tile it fills until that is named (07 R205). -/
def Segment.hides (g : Segment) (c : Gmx) : List Unseen :=
  let own : Unseen := { reg := gmxWrites c, tile := none, spans := (gmxReads c).map g.tileSpan ++ gmxAreas c, waited := false, bars := [] }
  (if own.spans = [] then [] else [own]) ++ (gmxFills c).elim [] (fun o => [{ own with tile := some o, spans := [g.tileSpan o] }])

/-- Queues a command. -/
def State.queueGmx (s : State) (sg : SKey) (c : Gmx) : State :=
  s.onSeg sg (fun g => { g with gmx := g.gmx ++ [(s.curPc, c)], unseen := g.unseen ++ g.hides c })

/-- POISON, then TAG, of tags at their operand positions (01 R36; 05 R157). DEDUCED, log entry 34. -/
def tagChecks (l : List (Nat × Tag × Bool)) : List (Option Exc) :=
  l.map (fun e => excIf (e.2.1 == .poison) (.det .poison e.1)) ++ l.map (fun e => excIf (!e.2.2) (.det .tag e.1))

/-- The accumulator's check. -/
def State.accCheck (s : State) (sg : SKey) (t : Nat) : Nat × Tag × Bool := (7, (s.treg sg t).tag, (s.treg sg t).tag == .f32p)

/-- Two source tiles in turn: the second is found once the first has popped. -/
def State.twoTiles (s : State) (sg : SKey) (a b : TileSpec) : TileUse × TileUse × State :=
  let x := s.srcTile sg a
  let t := s.popTile sg a
  (x, t.srcTile sg b, t.popTile sg b)

/-- Goes on when no check fails. -/
def unlessExc (s : State) (l : List (Option Exc)) (t : State) : State := (firstExc l).elim t s.raise

/-- MMA's ga must be 0 for any format but E2M1 (07 R207); a tile that carries POISON has no format. -/
def State.scaleField (s : State) (a : TileSpec) (ga : BitVec 9) : Bool :=
  ga != 0 && (s.namedTile s.curSeg a).elim false (fun n => s.tileTag s.curSeg n != .e2m1x8 && s.tileTag s.curSeg n != .poison)

/-- MMA, MMAG and MMASP: A and B, the scales of E2M1, then the tags (07 R207; 01 R38). -/
def mmaIssue (s : State) (m : Bool) (t : BitVec 2) (ga : BitVec 9) (a b : TileSpec) (extra : List Nat) (mk : Nat → Nat → Option (Nat × Nat) → Gmx) : Out :=
  uniTile s .gmx (s.tileIll [a, b] || s.scaleField a ga) (ga.toNat :: extra) extra []
    (fun u =>
      let sg := u.curSeg
      let r := u.twoTiles sg a b
      withTiles u [r.1, r.2.1] (fun u =>
        let ta := u.tileTag sg r.1.num
        let tb := u.tileTag sg r.2.1.num
        let base := [(5, ta, matK ta != 0), (6, tb, matPair ta tb), u.accCheck sg t.toNat]
        if ta = .e2m1x8 then
          let w := (s.readU 0 ga.toNat).toNat
          match specOf (w % 512), specOf (w / 2 ^ 16 % 512) with
          | some x, some y =>
            let q := r.2.2.twoTiles sg x y
            withTiles u [q.1, q.2.1] (fun u =>
              let sc := fun (n : Nat) => (8, u.tileTag sg n, u.tileTag sg n == .e8m0x4)
              unlessExc u (u.struckExc [ga.toNat] :: tagChecks (base ++ [sc q.1.num, sc q.2.1.num]))
                ((q.2.2.queueGmx sg (mk r.1.num r.2.1.num (some (q.1.num, q.2.1.num)))).finish m 8))
          | _, _ => u.raise (.of .illegal)
        else
          unlessExc u (tagChecks base) ((r.2.2.queueGmx sg (mk r.1.num r.2.1.num none)).finish m 8)))

/-- MZERO. -/
def execMzero (m : Bool) (t : BitVec 2) (s : State) : Out :=
  uni s m 8 .gmx true [] [] [] (fun u => (u.tregTag u.curSeg t.toNat .f32p).queueGmx u.curSeg (.mzero t.toNat))

/-- MMA. -/
def execMma (m : Bool) (t : BitVec 2) (ga : BitVec 9) (a b : TileSpec) (s : State) : Out :=
  mmaIssue s m t ga a b [] (fun x y sc => .mma t.toNat x y sc)

/-- MMAG: the offset of the index vector is in gd. -/
def execMmag (m : Bool) (t : BitVec 2) (gd ga : BitVec 9) (a b : TileSpec) (s : State) : Out :=
  mmaIssue s m t ga a b [gd.toNat] (fun x y sc => .mmag t.toNat x y sc (s.readU 1 gd.toNat).toNat)

/-- MMASP. -/
def execMmasp (m : Bool) (t : BitVec 2) (ga : BitVec 9) (a b : TileSpec) (s : State) : Out :=
  mmaIssue s m t ga a b [] (fun x y sc => .mmasp t.toNat x y sc)

/-- MSOFT: its output tile fills. -/
def execMsoft (m : Bool) (t : BitVec 2) (gd ga : BitVec 9) (o : BitVec 8) (s : State) : Out :=
  uniTile s .gmx (s.tileIll [.tile o]) [gd.toNat, ga.toNat] [gd.toNat, ga.toNat] (tagChecks [s.accCheck s.curSeg t.toNat])
    (fun u => withTiles u [u.destTile u.curSeg o.toNat] (fun u =>
      ((u.fillTile u.curSeg o.toNat none).queueGmx u.curSeg (.msoft t.toNat o.toNat (s.readU 0 gd.toNat) (s.readU 1 ga.toNat).toNat)).finish m 8))

/-- MSCALE. -/
def execMscale (m : Bool) (t : BitVec 2) (ga : BitVec 9) (stride : BitVec 4) (s : State) : Out :=
  uni s m 8 .gmx true [ga.toNat] [ga.toNat] (tagChecks [s.accCheck s.curSeg t.toNat])
    (fun u => u.queueGmx u.curSeg (.mscale t.toNat (s.readU 0 ga.toNat).toNat stride.toNat))

/-- MDRAIN: its tile fills. Its pointer's first chip must be VALID (16 R376). -/
def execMdrain (m : Bool) (t : BitVec 2) (sat : Bool) (gd ga : BitVec 9) (o : BitVec 8) (tag : Tag) (s : State) : Out :=
  uniTile s .gmx (s.tileIll [.tile o]) [gd.toNat, ga.toNat, ga.toNat + 1] [gd.toNat, ga.toNat, ga.toNat + 1]
    (tagChecks [s.accCheck s.curSeg t.toNat] ++ [excIf (s.unreachable (ptrId (s.readPair 1 ga.toNat))) (.of .unreachable)])
    (fun u => withTiles u [u.destTile u.curSeg o.toNat] (fun u =>
      ((u.fillTile u.curSeg o.toNat none).queueGmx u.curSeg (.mdrain t.toNat sat (s.readU 0 gd.toNat) (s.readPair 1 ga.toNat) o.toNat tag s.nextTxn)).finish m 8))

/-- What MWAIT waits for is over: no command is left, or none that writes the register. -/
def State.gmxIdle (s : State) (sg : SKey) (t : Option Nat) : Bool :=
  (look s.segs sg).elim true (fun g =>
    match t with
    | none => g.gmx.isEmpty
    | some r => !g.gmx.any (fun c => gmxWrites c.2 == some r))

/-- An MWAIT that ends covers the commands it waited for. -/
def State.noteMwait (s : State) (sg : SKey) (t : Option Nat) : State :=
  s.onSeg sg (fun g => { g with unseen := g.unseen.map (fun x => if t = none ∨ x.reg = t then { x with waited := true } else x) })

/-- MWAIT (07 R213); its register field is not looked at where m6 bit [2] is 0. -/
def execMwait (m one : Bool) (t : BitVec 2) (s : State) : Out :=
  let r := if one then some t.toNat else none
  uniJump s .gmx true [] [] [] (fun u => if u.gmxIdle u.curSeg r then (u.noteMwait u.curSeg r).finish m 8 else u.waitAt (.gmx r))

/-- Source tags of MLDT. -/
def ldtTag (t : Tag) : Bool := t == .f32 || t == .f16x2 || t == .bf16x2

/-- MLDT. -/
def execMldt (m : Bool) (t : BitVec 2) (a : TileSpec) (s : State) : Out :=
  uniTile s .gmx (s.tileIll [a]) [] [] []
    (fun u =>
      let sg := u.curSeg
      let x := u.srcTile sg a
      withTiles u [x] (fun u =>
        let ta := u.tileTag sg x.num
        unlessExc u (tagChecks [(5, ta, ldtTag ta)])
          ((((u.popTile sg a).tregTag sg t.toNat .f32p).queueGmx sg (.mldt t.toNat x.num)).finish m 8)))

/-- MCMERGE. -/
def execMcmerge (m : Bool) (t : BitVec 2) (ga : BitVec 9) (cores : BitVec 4) (s : State) : Out :=
  uni s m 8 .gmx true [ga.toNat] [ga.toNat] (tagChecks [s.accCheck s.curSeg t.toNat])
    (fun u => u.queueGmx u.curSeg (.mcmerge t.toNat (s.readU 0 ga.toNat).toNat cores.toNat))

/-! ### Softmax rows (07 R210) -/

/-- LOG2E and LN2. -/
def log2e32 : Nat := 0x3FB8AA3B
/-- LN2. -/
def ln232 : Nat := 0x3F317218

/-- Ex of 07 R210, on FP32 codes. -/
def expDiff (a b : Nat) (isCorr : Bool) : Nat :=
  match f32v b with
  | .inf false => if f32v a = .inf false then 0x3F800000 else 0
  | .inf true => if isCorr then 0x3F800000 else 0
  | _ => fexp232 (f32mul (fsub .rn .fp32 a b) log2e32)

/-- lse of m and l. -/
def lseOf (m l : Nat) : Nat := if (f32v l).isZero then 0xFF800000 else f32add m (f32mul (flog232 l) ln232)

/-- A record's 32 bytes. -/
def rowRecord (m l corr lse : Nat) (empty nan : Bool) : List Byte :=
  bytesLE 4 m ++ bytesLE 4 l ++ bytesLE 4 corr ++ bytesLE 4 lse ++ bytesLE 4 ((if empty then 1 else 0) + (if nan then 2 else 0)) ++ List.replicate 12 0

/-- One row: the 256 output bytes and the record, from m0, l0 and the scaled scores. -/
def softRow (m0 l0 : Nat) (x : List Nat) : List Byte × List Byte :=
  if f32nan m0 || f32nan l0 || x.any f32nan then ((List.replicate 128 (bytesLE 2 0x7FC0)).flatten, rowRecord nan32 nan32 nan32 nan32 false true)
  else
    let m1 := x.foldl f32max m0
    let corr := expDiff m0 m1 true
    let p := x.map (fun v => expDiff v m1 false)
    let l1 := f32add (f32mul l0 corr) (treeSum 7 p)
    ((p.map (fun v => bytesLE 2 (Fmt.bf16.rn (f32v v)))).flatten, rowRecord m1 l1 corr (lseOf m1 l1) (f32v l1).isZero false)

/-- The absolute value of an FP32 code that is no NaN. -/
def f32abs (a : Nat) : Nat := a % 2 ^ 31

/-- The largest magnitude, NaN ignored; the canonical NaN when all are (07 R212). -/
def amaxOf (xs : List Nat) : Nat :=
  match xs.filter (fun x => !f32nan x) with
  | [] => nan32
  | l => maxOf (l.map f32abs)

/-! ### The end of a command at the engine -/

/-- A segment's matrix sequencer. -/
def msqOf (sg : SKey) : QKey := ⟨sg, .msq⟩

/-- A fault found at the engine (07 R205): the sequencer halts at the faulting command, whose register is undefined unless it is kept (07 R214: an MCMERGE that ends for a bad row-state offset); the commands behind it are discarded, and their tiles, as its own, become READY with ERR. -/
def State.gmxFault (s : State) (sg : SKey) (code : FaultCode) (keep : Bool := false) : State :=
  match look s.segs sg with
  | none => s
  | some g =>
    match g.gmx with
    | [] => s
    | (pc, c) :: _ =>
      let t := s.onSeg sg (fun g => { g with gmx := [] })
      let t := (g.gmx.filterMap (fun e => gmxFills e.2)).foldl (fun t n => t.tileDone sg n code.code) t
      let lost := if keep then none else gmxWrites c
      let t := lost.elim t (fun r => t.setTreg sg r (s.treg sg r).tag (fun n => (s.undef 30000 n, s.undef 30001 n)))
      t.onSeq (msqOf sg) (fun e => if e.halted then e else e.halt (seqRec (msqOf sg) code 0 pc false))

/-- A command has run: it leaves the queue, and an MWAIT it was the last to hold goes on. -/
def State.gmxDone (s : State) (sg : SKey) : State :=
  let t := s.onSeg sg (fun g => { g with gmx := g.gmx.drop 1 })
  t.onSeq (msqOf sg) (fun e => match e.wait with
    | .gmx r => if t.gmxIdle sg r then { e with wait := .none } else e
    | _ => e)

/-- Fault or result of a command. -/
def State.gmxResult (s : State) (sg : SKey) (fault : Option FaultCode) (t : State) : State :=
  match fault with
  | some c => s.gmxFault sg c
  | none => t.gmxDone sg

/-- The first fault that holds. -/
def firstCode (l : List (Bool × FaultCode)) : Option FaultCode := (l.find? Prod.fst).map Prod.snd

/-- Values of the rows of an operand tile. -/
def State.operandRows (s : State) (sg : SKey) (n : Nat) (scale : Option Nat) (rows : List Nat) (bytes : Nat) : List (List Val) :=
  let t := s.tileTag sg n
  let bs := s.tileArea sg n bytes
  let sc := scale.elim [] (fun k => s.tileArea sg k (s.tileLen sg k))
  rows.map (fun i => rowVals t (row64 bs i) (row4 sc i))

/-- Sizes of scale tiles. -/
def State.scalesShort (s : State) (sg : SKey) (sc : Option (Nat × Nat)) : Bool := sc.elim false (fun x => decide (s.tileLen sg x.1 < 512) || decide (s.tileLen sg x.2 < 512))

/-- The matrix update. A mark on anything it reads, the parts of A it reads among them, marks the register (17 R399). -/
def State.runMma (s : State) (sg : SKey) (t b : Nat) (sc : Option (Nat × Nat)) (badA : Bool) (A : List (List (Option Val))) : State :=
  let r := s.treg sg t
  let B := s.operandRows sg b (sc.map Prod.snd) (List.range 128) 8192
  s.setTreg sg t (markTag (s.tregBad sg t || badA || s.tilePoison sg b 8192 || sc.elim false (fun x => s.tilePoison sg x.2 512))) (mmaElems r A B)

/-- Row-state offset rules (07 R210, R214). -/
def State.rowsFault (s : State) (sg : SKey) (at_ : Nat) : Option FaultCode := firstCode [(at_ % 32 != 0, .align), (decide (s.scrSize sg.blk < at_ + 4096), .scrRange)]

/-- Bytes written to a scratchpad by the engine at an offset. -/
def State.scrBytes (s : State) (sg : SKey) (at_ : Nat) (bs : List Byte) (own : Bool) : State := s.scrCells sg ((regs at_ bs.length).zip bs) own

/-- A matrix command has filled its tile, which takes POISON where marked data went into it (01 R36). -/
def State.tileFilled (s : State) (sg : SKey) (o : Nat) (bad : Bool) : State :=
  (if bad then s.onTile sg o (fun y => if y.st = .filling then { y with tag := .poison } else y) else s).tileDone sg o 0

/-- MSOFT's run: a row whose record or scores are marked leaves its record and its output row marked. -/
def State.runMsoft (s : State) (sg : SKey) (t o : Nat) (k : Word) (rows : Nat) : State :=
  let r := s.treg sg t
  let rec_ := s.scrArea sg rows 4096
  let out := (List.range 128).map (fun i =>
    softRow (wordAt rec_ (32 * i)) (wordAt rec_ (32 * i + 4)) ((List.range 128).map (fun j => Fmt.fp32.rn ((tregVal (r.at_ (128 * i + j))).mul (f32v k.toNat)))))
  let at_ := (s.tile? sg o).elim 0 (fun x => x.off)
  let bad := (List.range 128).filter (fun i => s.tregBad sg t || s.areaPoison sg (rows + 32 * i) 32)
  let u := (s.scrBytes sg at_ ((out.map Prod.fst).flatten) true).poisonScr sg (bad.map (fun i => (at_ + 256 * i, 256)))
  ((u.scrBytes sg rows ((out.map Prod.snd).flatten) false).poisonScr sg (bad.map (fun i => (rows + 32 * i, 32)))).tileFilled sg o !bad.isEmpty

/-- MDRAIN's run, without its merge. -/
def State.runMdrain (s : State) (sg : SKey) (t : Nat) (sat : Bool) (k : Word) (o : Nat) (tag : Tag) : State :=
  let r := s.treg sg t
  let one := fun (n : Nat) =>
    let v := (tregVal (r.at_ n)).mul (f32v k.toNat)
    bytesLE (tag.width / 8) (match tag.fmt? with | some f => f.round .rn sat v | none => toDt8 sat v)
  let at_ := (s.tile? sg o).elim 0 (fun x => x.off)
  let u := s.scrBytes sg at_ (((List.range tregSize).map one).flatten) true
  (if s.tregBad sg t then u.poisonScr sg [(at_, tregSize * (tag.width / 8))] else u).tileFilled sg o (s.tregBad sg t)

/-- The absolute maximum of a drain. -/
def State.drainMax (s : State) (sg : SKey) (t : Nat) (k : Word) : Nat :=
  let r := s.treg sg t
  amaxOf ((List.range tregSize).map (fun n => Fmt.fp32.rn ((tregVal (r.at_ n)).mul (f32v k.toNat))))

/-- The matrix sequencer's accesses that the merge of an absolute maximum releases have performed (09 R271). -/
def State.amaxFree (s : State) (sg : SKey) (before : Nat) : Bool := !s.openFor { who := .sqr (msqOf sg), lanes := 1, before := before }

/-- The merge at the head of a segment's queue is on its way, to its channel or to another chip, or not. -/
def State.amaxSent (s : State) (sg : SKey) (on : Bool) : State :=
  s.onSeg sg (fun y => { y with gmx := match y.gmx with | (pc, .amax p w _ r b) :: l => (pc, .amax p w on r b) :: l | l => l })

/-- The merge of an absolute maximum: one FMAX at the word's home, a release of the matrix sequencer (07 R212; 09 R271). At this chip it waits for its channel. The maximum of a register that carries POISON is not merged: the sequencer faults with POISON (DEDUCED, log entry 16). -/
def State.runAmax (s : State) (sg : SKey) (ptr : Nat) (x : Word) (sent : Bool) (code : Option Nat) (before : Nat) : State :=
  match code, ptrId ptr with
  | _, 0 => s.gmxDone sg
  | some c, _ => s.gmxResult sg (if c = 0 then none else some (codeOf c)) s
  | none, _ =>
    if ptr % 4 ≠ 0 then s.gmxFault sg .align
    else if sent || !s.amaxFree sg before || s.stuckAt ptr then s
    else
      match s.sendTo ptr with
      | .away c g id off =>
        if s.validChip c then (s.request { s.packet .atomic c (.atomic (BitVec.ofNat 64 (flat id off)) (.op .fmax .f32) .red .chip [x]) [] with g := g } (.amax sg)).amaxSent sg true
        else s.gmxFault sg .objNone
      | .gone => s.gmxFault sg .objNone
      | .here _ off d =>
        match s.accessFault ⟨true, true⟩ [] (splitAccess 0 ptr 4) with
        | some c => s.gmxFault sg c
        | none => if attrM d.attrs then (s.arriveRow (.amax sg (rowOf d off))).amaxSent sg true else s.gmxFault sg .objPerm

/-- The merge's burst at its channel (10 R287); a line held for ENDED regions puts it off. -/
def State.amaxBurst (s : State) (sg : SKey) : State :=
  match (look s.segs sg).elim [] (fun g => g.gmx) with
  | (_, .amax ptr x true none _) :: _ =>
    match s.route splitFuel (ptrId ptr) (ptrOff ptr) with
    | .here id off d =>
      let a := flat id off
      if s.poisonedAt a then s.gmxFault sg .poison
      else if s.lineHeld (a / 128) then s.amaxSent sg false
      else ((((s.commitCells ((regs a 4).zip (bytesLE 4 (rmwNew (.op .fmax .f32) (natLE (s.bytesAt a 4)) [x])))).mergeGwct (.sqr (msqOf sg)) (s.gwctOf d (a / 128))).countLocal id).gmxDone sg)
    | _ => s.amaxSent sg false
  | _ => s

/-- MLDT's run. -/
def State.runMldt (s : State) (sg : SKey) (t a : Nat) : State :=
  let tag := s.tileTag sg a
  let w := tag.width / 8
  let bs := s.tileArea sg a (tregSize * w)
  s.setTreg sg t (markTag (s.tilePoison sg a (tregSize * w))) (fun n => (BitVec.ofNat 32 (Fmt.fp32.rn ((fmtOf tag).value (natLE ((bs.drop (w * n)).take w)))), 0))

/-! ### MCMERGE (07 R214) -/

/-- Segments whose matrix sequencers a mask names: those of the cohort's blocks on the cores of the cluster. -/
def State.mergeSegs (s : State) (sg : SKey) (cores : Nat) : List SKey :=
  match look s.blocks sg.blk with
  | none => []
  | some b =>
    ((s.blocks.filter (fun e => e.2.task == b.task && e.2.cohort == b.cohort && e.2.cluster == b.cluster && !e.2.saved && !e.2.swapped)).map (fun e =>
      ((List.range e.2.cores.length).filter (fun i => cores / 2 ^ (e.2.cores.getD i 0 % 4) % 2 == 1)).map (fun i => (⟨e.1, i⟩ : SKey)))).flatten

/-- The MCMERGE at the head of a segment's queue: register, rows, mask. -/
def State.headMerge (s : State) (sg : SKey) : Option (Nat × Nat × Nat) :=
  match (look s.segs sg).elim [] (fun g => g.gmx) with
  | (_, .mcmerge t r c) :: _ => some (t, r, c)
  | _ => none

/-- One row's merge of partial b into partial a: m, l, and the 128 elements as FP32 codes; none on the NaN path. -/
def mergeRow (a b : Nat × Nat × List Nat) : Option (Nat × Nat × List Nat) :=
  if f32nan a.1 || f32nan a.2.1 || f32nan b.1 || f32nan b.2.1 || a.2.2.any f32nan || b.2.2.any f32nan then none
  else
    let m := f32max a.1 b.1
    let fa := expDiff a.1 m true
    let fb := expDiff b.1 m true
    some (m, f32add (f32mul a.2.1 fa) (f32mul b.2.1 fb), (a.2.2.zip b.2.2).map (fun e => f32add (f32mul e.1 fa) (f32mul e.2 fb)))

/-- A segment's partial of row i. -/
def State.mergePart (s : State) (sg : SKey) (i : Nat) : Nat × Nat × List Nat :=
  match s.headMerge sg with
  | none => (0, 0, [])
  | some (t, r, _) =>
    let bs := s.scrArea sg (r + 32 * i) 8
    (wordAt bs 0, wordAt bs 4, (List.range 128).map (fun j => Fmt.fp32.rn (tregVal ((s.treg sg t).at_ (128 * i + j)))))

/-- A mark stands on what row i of a segment's partial is read from. -/
def State.mergeMarked (s : State) (sg : SKey) (i : Nat) : Bool :=
  (s.headMerge sg).elim false (fun x => s.tregBad sg x.1 || s.areaPoison sg (x.2.1 + 32 * i) 32)

/-- The merged rows: record bytes and elements. -/
def mergeRows (root : Nat × Nat × List Nat) (parts : List (Nat × Nat × List Nat)) : List Byte × List Nat :=
  let bad := f32nan root.1 || f32nan root.2.1 || root.2.2.any f32nan
  match (if bad then none else parts.foldl (fun a b => a.bind (fun x => mergeRow x b)) (some root)) with
  | none => (rowRecord nan32 nan32 nan32 nan32 false true, List.replicate 128 nan32)
  | some (m, l, o) => (rowRecord m l (expDiff root.1 m true) (lseOf m l) (f32v l).isZero false, o)

/-- Cores in ascending order: the segments sorted by core. -/
def State.byCore (s : State) (l : List SKey) : List SKey := ((List.range 4).map (fun i => l.filter (fun k => s.coreOf k % 4 == i))).flatten

/-- A segment's MCMERGE has a bad row-state offset, or its sequencer has halted for one. -/
def State.rowsBad (s : State) (k : SKey) : Bool :=
  (s.headMerge k).elim false (fun x => (s.rowsFault k x.2.1).isSome)
    || (look s.seqs (msqOf k)).elim false (fun e => e.halted && e.fault.elim false (fun r => r.code == .align || r.code == .scrRange))

/-- Every sequencer involved faults: its own code where its row-state offset is bad, else SYNC_MASK. Where some offset is bad no register changes (07 R214); at a mismatch of masks each register is lost (07 R205). -/
def State.mergeFault (s : State) (l : List SKey) : State :=
  l.foldl (fun t k => match s.headMerge k with
    | none => t
    | some (_, r, _) => t.gmxFault k ((s.rowsFault k r).getD .syncMask) (l.any s.rowsBad)) s

/-- MCMERGE's run at the head of a segment's queue: it waits until every sequencer named has come to its MCMERGE. -/
def State.runMerge (s : State) (sg : SKey) (rows cores : Nat) : State :=
  let named := s.mergeSegs sg cores
  if popCount (BitVec.ofNat 32 cores) = 1 then s.gmxDone sg
  else
    let heads := named.map s.headMerge
    let wrong := !named.contains sg
      || (List.range 4).any (fun i => cores / 2 ^ i % 2 == 1 && !named.any (fun k => s.coreOf k % 4 == i))
      || heads.any (fun h => h.elim false (fun x => x.2.2 != cores))
      || named.any (fun k => (look s.seqs (msqOf k)).elim true (fun e => e.halted))
      || (s.rowsFault sg rows).isSome
      || (heads.all Option.isSome && named.any (fun k => (s.headMerge k).elim false (fun x => (s.rowsFault k x.2.1).isSome)))
    if wrong then s.mergeFault (sg :: without named sg)
    else if heads.all Option.isSome then
      match s.byCore named with
      | [] => s
      | root :: rest =>
        let out := (List.range 128).map (fun i => mergeRows (s.mergePart root i) (rest.map (fun k => s.mergePart k i)))
        let bad := (List.range 128).filter (fun i => (root :: rest).any (fun k => s.mergeMarked k i))
        match s.headMerge root with
        | none => s
        | some (t, r, _) =>
          let u := s.setTreg root t (markTag !bad.isEmpty) (fun n => (BitVec.ofNat 32 (((out.getD (n / 128) ([], [])).2).getD (n % 128) 0), 0))
          let u := (u.scrBytes root r ((out.map Prod.fst).flatten) false).poisonScr root (bad.map (fun i => (r + 32 * i, 32)))
          named.foldl (fun u k => u.gmxDone k) u
    else s

/-- The command at the head of a segment's queue runs. -/
def State.runGmx (s : State) (sg : SKey) : Gmx → State
  | .mzero t => (s.setTreg sg t .f32p (fun _ => (0, 0))).gmxDone sg
  | .mma t a b sc =>
    s.gmxResult sg (firstCode [(decide (s.tileLen sg a < 8192) || decide (s.tileLen sg b < 8192) || s.scalesShort sg sc, .tileState)])
      (s.runMma sg t b sc (s.tilePoison sg a 8192 || sc.elim false (fun x => s.tilePoison sg x.1 512)) ((s.operandRows sg a (sc.map Prod.fst) (List.range 128) 8192).map (fun r => r.map some)))
  | .mmag t a b sc idx =>
    let bs := s.scrArea sg idx 256
    let rows := (List.range 128).map (fun i => natLE ((bs.drop (2 * i)).take 2))
    s.gmxResult sg (firstCode [(decide (s.tileLen sg b < 8192) || s.scalesShort sg sc, .tileState), (idx % 2 != 0, .align), (decide (s.scrSize sg.blk < idx + 256), .scrRange),
        (rows.any (fun r => decide (s.tileLen sg a / 64 ≤ r)) || sc.elim false (fun x => rows.any (fun r => decide (s.tileLen sg x.1 < 4 * r + 4))), .scrRange)])
      (s.runMma sg t b sc (s.areaPoison sg idx 256 || rows.any (fun r => s.tileRowPoison sg a (64 * r) 64 || sc.elim false (fun x => s.tileRowPoison sg x.1 (4 * r) 4)))
        ((s.operandRows sg a (sc.map Prod.fst) rows (s.tileLen sg a)).map (fun r => r.map some)))
  | .mmasp t a b sc =>
    let bs := s.tileArea sg a 16384
    let line := fun (i : Nat) => (bs.drop (128 * i)).take 128
    let tag := s.tileTag sg a
    let bad := (List.range 128).filterMap (fun i => lineFault tag (line i))
    let asc := sc.elim [] (fun x => s.tileArea sg x.1 512)
    s.gmxResult sg (firstCode [(decide (s.tileLen sg a < 16384) || decide (s.tileLen sg b < 8192) || s.scalesShort sg sc, .tileState), (!bad.isEmpty, bad.headD .tag)])
      (s.runMma sg t b sc (s.tilePoison sg a 16384 || sc.elim false (fun x => s.tilePoison sg x.1 512)) ((List.range 128).map (fun i => lineVals tag (line i) (row4 asc i))))
  | .msoft t o k rows =>
    s.gmxResult sg ((firstCode [(s.tileTag sg o != .bf16x2, .tag), (decide (s.tileLen sg o < 32768), .tileState)]).orElse (fun _ => s.rowsFault sg rows)) (s.runMsoft sg t o k rows)
  | .mscale t at_ k =>
    let bs := fun (i : Nat) => wordAt (s.scrArea sg (at_ + i * 2 ^ k) 4) 0
    s.gmxResult sg (firstCode [(at_ % 4 != 0, .align), (decide (s.scrSize sg.blk < at_ + 127 * 2 ^ k + 4), .scrRange)])
      (s.setTreg sg t (markTag (s.tregBad sg t || (List.range 128).any (fun i => s.areaPoison sg (at_ + i * 2 ^ k) 4))) (fun n => (BitVec.ofNat 32 (Fmt.fp32.rn ((tregVal ((s.treg sg t).at_ n)).mul (f32v (bs (n / 128))))), 0)))
  | .mdrain t sat k ptr o tag before =>
    match firstCode [(s.tileTag sg o != tag, .tag), (decide (s.tileLen sg o < tregSize * (tag.width / 8)), .tileState)] with
    | some c => s.gmxFault sg c
    | none =>
      let x := BitVec.ofNat 32 (s.drainMax sg t k)
      (s.runMdrain sg t sat k o tag).onSeg sg (fun g => { g with gmx := match g.gmx with | (pc, _) :: l => (pc, .amax ptr x false (if s.tregBad sg t then some 0x15 else none) before) :: l | [] => [] })
  | .mldt t a => s.gmxResult sg (firstCode [(decide (s.tileLen sg a < tregSize * ((s.tileTag sg a).width / 8)), .tileState)]) (s.runMldt sg t a)
  | .mcmerge _ rows cores => s.runMerge sg rows cores
  | .amax ptr x sent code before => s.runAmax sg ptr x sent code before

/-- MATRIX_COMMAND_COMPLETE: the oldest command of a segment's engine runs. -/
def execMatrixCommandComplete (s : State) : Out :=
  .next (match s.arg with
    | .seg sg =>
      match (look s.segs sg).elim [] (fun g => g.gmx) with
      | [] => s
      | (_, c) :: _ => s.runGmx sg c
    | _ => s)

end Sys2Proof.Machine
end

