-- ==== Sys2Proof/Machine/MemSide.lean ====
section
/-! DEFINITION. Memory-side commands: scans, top-k, channel programs, KVSEAL, RED, and the visits and bursts they make at a channel (07 R215 to R220; 10 R293 to R305). -/

namespace Sys2Proof.Machine

/-! ### Elements of a scan (10 R293, R294) -/

/-- Bytes of an element of a format. -/
def scanBytes (fmt : Nat) : Nat := [1, 1, 2, 2, 4, 1, 4, 4].getD fmt 1

/-- Value of an element's raw bits. -/
def scanVal (fmt bits : Nat) : Val :=
  match fmt with
  | 0 => dt8Value bits
  | 1 => Fmt.e4m3.value bits
  | 2 => Fmt.bf16.value bits
  | 3 => Fmt.fp16.value bits
  | 4 => Fmt.fp32.value bits
  | 5 => .ofInt (sext 8 bits)
  | 6 => .ofInt (sext 32 bits)
  | _ => .ofInt bits

/-- Value of an operand: FP32, i32 or n32 by the elements' format (07 R215). -/
def operandOf (fmt : Nat) (w : Word) : Val := if fmt < 5 then Fmt.fp32.value w.toNat else if fmt = 7 then .ofInt w.toNat else .ofInt w.toInt

/-- One op of 07 R215 on an element that is no NaN. -/
def scanOp (fmt op bits : Nat) (a b : Word) : Bool :=
  let x := scanVal fmt bits
  let y := operandOf fmt a
  let z := operandOf fmt b
  match op with
  | 0 => x.lt y
  | 1 => x.lt y || x.eqv y
  | 2 => y.lt x
  | 3 => y.lt x || x.eqv y
  | 4 => x.eqv y
  | 5 => !y.isNan && !x.eqv y
  | 6 => (y.lt x || x.eqv y) && x.lt z
  | _ => Nat.land bits a.toNat != 0

/-- An element qualifies. -/
def Scan.qualifies (c : Scan) (bits : Nat) : Bool :=
  if (scanVal c.fmt bits).isNan then false
  else if c.topk then true
  else scanOp c.fmt c.op1 bits c.a1 c.b1 && c.op2.elim true (fun o => scanOp c.fmt o bits c.a2 c.b2)

/-! ### Issue of scans -/

/-- A tile named by number in nine bits of a word, for a result. -/
def State.resultTileBad (s : State) (x : Nat) : Bool := decide (255 < x) || (s.tile? s.curSeg x).isNone

/-- A scan's issue once its block is checked: the tile fills, the operation starts. -/
def scanIssue (s : State) (m : Bool) (k : BitVec 4) (ga : BitVec 9) (bad : List (Nat × Bool)) (c : Scan) (need : Nat) : Out :=
  let names := regs ga.toNat 16
  let own := [blockExc bad, excIf (c.src % 2 ^ 34 % scanBytes c.fmt != 0) (.of .align),
    excIf (s.unreachable (ptrId c.src) || (c.tile.isNone && s.unreachable (ptrId c.dest))) (.of .unreachable)]
  let short := fun (t : State) => excIf (c.tile.elim false (fun n => decide (t.tileLen c.sg n < need))) (.of .scrRange)
  uniJump s .any true names names own
    (fun t => withTiles t (c.tile.elim [] (fun n => [t.destTile c.sg n])) (fun t =>
      unlessExc t [short t]
        (match t.busyHandle k.toNat with
         | some o => t.waitAt (.handle o)
         | none =>
           let x := t.newOp (.scan c) false
           let u := x.1.writeH k.toNat (.names x.2)
           ((c.tile.elim u (fun n => u.fillTile c.sg n (some (s.origin c.src)))).finish m 8))))

/-- WNSCAN (07 R216). A non-zero field that the destination chosen does not use is ILLEGAL (DESIGN CHOICE, log entry 29). -/
def execWnscan (m : Bool) (k : BitVec 4) (ga : BitVec 9) (s : State) : Out :=
  let P := s.block ga.toNat
  let two := pf P 3 21 21 == 1
  let obj := pf P 3 20 20 == 1
  let bad := [(3, pf P 3 19 0 != 0 || decide (7 < pf P 3 31 28)), (6, !two && pw P 6 != 0), (7, !two && pw P 7 != 0),
    (9, if obj then pw P 9 != 0 else s.resultTileBad (pw P 9)), (10, !obj && pw P 10 != 0), (11, !obj && pw P 11 != 0)] ++ zeros P [12, 13, 14, 15]
  let c : Scan := { sg := s.curSeg, topk := false, src := pd P 0, count := pw P 2, fmt := pf P 3 31 28, op1 := pf P 3 27 25
                    op2 := if two then some (pf P 3 24 22) else none, a1 := P.getD 4 0, b1 := P.getD 5 0, a2 := P.getD 6 0, b2 := P.getD 7 0
                    cap := pw P 8, k := 0, segs := 1, tile := if obj then none else some (pw P 9), dest := pd P 10, rows := none, away := [], bufs := [], cands := [], nans := 0, written := 0 }
  scanIssue s m k ga bad c (16 + 8 * pw P 8)

/-- WNTOPK (07 R217). A non-zero field that the destination chosen does not use is ILLEGAL (DESIGN CHOICE, log entry 29). -/
def execWntopk (m : Bool) (k : BitVec 4) (ga : BitVec 9) (s : State) : Out :=
  let P := s.block ga.toNat
  let obj := pf P 3 18 18 == 1
  let kk := pf P 3 27 19
  let bad := [(2, pw P 2 == 0), (3, pf P 3 17 0 != 0 || decide (7 < pf P 3 31 28) || kk == 0 || decide (256 < kk)), (4, pw P 4 == 0 || decide (4096 < pw P 4))]
    ++ zeros P [5, 6, 7, 8]
    ++ [(9, if obj then pw P 9 != 0 else s.resultTileBad (pw P 9)), (10, !obj && pw P 10 != 0), (11, !obj && pw P 11 != 0)] ++ zeros P [12, 13, 14, 15]
  let c : Scan := { sg := s.curSeg, topk := true, src := pd P 0, count := pw P 2 * pw P 4, fmt := pf P 3 31 28, op1 := 0, op2 := none, a1 := 0, b1 := 0, a2 := 0, b2 := 0
                    cap := 0, k := kk, segs := pw P 4, tile := if obj then none else some (pw P 9), dest := pd P 10, rows := none, away := [], bufs := [], cands := [], nans := 0, written := 0 }
  scanIssue s m k ga bad c (16 + 8 * kk * pw P 4)

/-! ### The winnowers -/

/-- Spans of 2,048 bytes that a range meets, as pieces. -/
def spansOf (a n : Nat) : List Piece :=
  if n = 0 then []
  else (regs (a / 2048) ((a + n - 1) / 2048 + 1 - a / 2048)).map (fun r =>
    let lo := max a (2048 * r)
    { lane := 0, addr := lo, idx := 0, len := min (a + n) (2048 * r + 2048) - lo })

/-- The check of a memory-side access of a range: rights, then M (07 R215; 10 R303). What lies on another chip is checked there. -/
def State.rangeFault (s : State) (need : Need) (a n : Nat) : Nat :=
  if (a % 2 ^ 34) + n > 2 ^ 34 then (if s.route splitFuel (a / 2 ^ 34) 0 = .gone then 0x07 else 0x08)
  else worst ((spansOf a n).map (fun p =>
    match s.route splitFuel (p.addr / 2 ^ 34) (p.addr % 2 ^ 34) with
    | .gone => 0x07
    | .away c _ _ _ => if s.validChip c then 0 else 0x07
    | .here _ _ d =>
      match s.accessFault need [] [p] with
      | some c => c.code
      | none => if attrM d.attrs then 0 else 0x09))

/-- The row of a flat address that this chip serves. -/
def State.visitRow (s : State) (a : Nat) : Option Nat :=
  match s.sendTo a with
  | .here _ off d => some (rowOf d off)
  | _ => none

/-- Rows of a scan on this chip with the flat addresses of their parts, and the addresses of the spans on other chips; or the fault of its range. -/
def State.scanRows (s : State) (c : Scan) : Except Nat (List (Nat × Nat) × List Nat) :=
  if c.count = 0 then .ok ([], [])
  else
    match s.rangeFault ⟨true, false⟩ c.src (c.count * scanBytes c.fmt) with
    | 0 =>
      let ps := (spansOf c.src (c.count * scanBytes c.fmt)).map (fun p => p.addr)
      .ok (ps.filterMap (fun a => (s.visitRow a).map (fun r => (r, a))), ps.filter (fun a => (s.visitRow a).isNone))
    | x => .error x

/-- The next row of a channel that an operation has yet to visit. -/
def nextOn (rows : List (Nat × Nat)) (ch : Nat) : Option Nat := (rows.find? (fun r => chanOf r.1 == ch)).map Prod.fst

/-- The winnowers of some channels are given the next row of each. -/
def State.visitRows (s : State) (o : Nat) (rows : List (Nat × Nat)) (chs : List Nat) : State :=
  chs.foldl (fun t ch => (nextOn rows ch).elim t (fun r => t.arriveRow (.winnow o r))) s

/-- A scan starts: the chips of its frames elsewhere are told and check their part of its range; then each winnower is given its channel's first row. A fault of the range is noted as its outcome before anything is written (10 R292, R297). -/
def State.startScan (s : State) (o : Nat) (op : Op) (c : Scan) : State :=
  let hi := c.src + c.count * scanBytes c.fmt
  match s.scanRows c with
  | .error x => s.onOp o (fun p => { p with outcome := some (.failed x false) })
  | .ok (rows, away) =>
    let new := s.newFrames op away
    if new ≠ [] then s.enterFrames o (new.map (fun f => (max f c.src, min (f + 65536) hi - max f c.src)))
    else (s.onOp o (fun p => { p with kind := .scan { c with rows := some rows, away := away } })).visitRows o rows ((rows.map (fun r => chanOf r.1)).eraseDups)

/-- The end of the part that a scan reads of the span of an address. -/
def Scan.spanEnd (c : Scan) (a : Nat) : Nat := min (c.src + c.count * scanBytes c.fmt) (a / 2048 * 2048 + 2048)

/-- Elements of a scan that bytes from an address on hold: index and raw bits. -/
def Scan.elems (c : Scan) (a : Nat) (bs : List Byte) : List (Nat × Nat) :=
  let z := scanBytes c.fmt
  (List.range (bs.length / z)).map (fun i => ((a - c.src) / z + i, natLE ((bs.drop (z * i)).take z)))

/-- The survivors of a list of elements. -/
def Scan.survivors (c : Scan) (es : List (Nat × Nat)) : List (Nat × Word) := (es.filter (fun e => c.qualifies e.2)).map (fun e => (e.1, BitVec.ofNat 32 e.2))

/-- The number of NaNs of a list of elements. -/
def Scan.nansOf (c : Scan) (es : List (Nat × Nat)) : Nat := (es.filter (fun e => (scanVal c.fmt e.2).isNan)).length

/-- Entries in use of a channel's candidate buffer, over all scans (10 R295). -/
def State.buffered (s : State) (ch : Nat) : Nat :=
  (s.ops.map (fun e => match e.2.kind with | .scan c => (c.bufs.filter (fun x => x.1 == ch)).length | _ => 0)).foldl (· + ·) 0

/-- A winnower reads a row sector by sector from an address: the scan, the address it came to, and the code of what it found there, 0 for none. It ends early at a sector whose survivors its buffer has no room for (10 R295; DESIGN CHOICE, log entry 32), at a poisoned one, and where the object has gone. -/
def State.winnow (s : State) (ch hi : Nat) : Nat → Nat → Scan → Nat → Scan × Nat × Nat
  | 0, _, c, a => (c, a, 0)
  | n + 1, room, c, a =>
    if hi ≤ a then (c, a, 0)
    else
      let e := min hi (a / 64 * 64 + 64)
      match s.hereAddr a with
      | none => (c, a, 0x07)
      | some x =>
        if s.poisonedAt x.1 then (c, a, 0x15)
        else
          let es := c.elems a (s.bytesAt x.1 (e - a))
          let keep := c.survivors es
          if room < keep.length then (c, a, 0)
          else State.winnow s ch hi n (room - keep.length) { c with bufs := c.bufs ++ keep.map (fun k => (ch, k)), nans := c.nans + c.nansOf es } e

/-- A winnower's visit of one row: what it reads it reads at this step (10 R290, R295). -/
def State.winnowVisit (s : State) (o row : Nat) : State :=
  match look s.ops o with
  | none => s
  | some op =>
    match op.kind with
    | .scan c =>
      match (c.rows.getD []).find? (fun r => r.1 == row) with
      | none => s
      | some x =>
        if op.st ≠ .pending ∨ op.outcome.isSome then s
        else
          let r := s.winnow (chanOf row) (c.spanEnd x.2) 32 (Config.candidateBuffer - s.buffered (chanOf row)) c x.2
          let whole := decide (c.spanEnd x.2 ≤ r.2.1)
          let rest := if whole then (c.rows.getD []).erase x else (c.rows.getD []).map (fun y => if y = x then (row, r.2.1) else y)
          let t := (s.onOp o (fun p => { p with outcome := if r.2.2 = 0 then none else some (.failed r.2.2 false), kind := .scan { r.1 with rows := some rest } })).eCount [(x.2, r.2.1 - x.2)]
          if whole && r.2.2 == 0 then t.visitRows o rest [chanOf row] else t
    | _ => s

/-! ### The thresher (10 R296, R297) -/

/-- Puts a candidate in its place of an ordered list. -/
def insertBy (before : (Nat × Word) → (Nat × Word) → Bool) (x : Nat × Word) : List (Nat × Word) → List (Nat × Word)
  | [] => [x]
  | y :: r => if before x y then x :: y :: r else y :: insertBy before x r

/-- Candidates in order. -/
def sortBy (before : (Nat × Word) → (Nat × Word) → Bool) (l : List (Nat × Word)) : List (Nat × Word) := l.foldl (fun r x => insertBy before x r) []

/-- Value descending, then index ascending. -/
def topBefore (fmt : Nat) (x y : Nat × Word) : Bool :=
  let a := scanVal fmt x.2.toNat
  let b := scanVal fmt y.2.toNat
  b.lt a || (a.eqv b && decide (x.1 < y.1))

/-- Pairs as bytes: value bits, then index. -/
def pairBytes (l : List (Nat × Nat)) : List Byte := (l.map (fun e => bytesLE 4 e.1 ++ bytesLE 4 e.2)).flatten

/-- The lowest element that a scan has yet to read. -/
def Scan.unread (c : Scan) : Nat :=
  ((minBy (fun x => x) (((c.rows.getD []).map Prod.snd ++ c.away).map (fun a => (a - c.src) / scanBytes c.fmt))).getD c.count)

/-- Qualifying elements in ascending index order, as value bits and index. -/
def listed (l : List (Nat × Word)) : List (Nat × Nat) := (sortBy (fun x y => decide (x.1 < y.1)) l).map (fun e => (e.2.toNat, e.1))

/-- Elements of a segment, by their index within it. -/
def Scan.segment (c : Scan) (i : Nat) : List (Nat × Word) :=
  (c.cands.filter (fun e => e.1 / (c.count / c.segs) == i)).map (fun e => (e.1 % (c.count / c.segs), e.2))

/-- The list of a segment: its top k, and pairs that stay unfilled. -/
def Scan.topList (c : Scan) (i : Nat) : List (Nat × Nat) :=
  let l := (sortBy (topBefore c.fmt) (c.segment i)).take c.k
  l.map (fun e => (e.2.toNat, e.1)) ++ List.replicate (c.k - l.length) (0, 0xFFFFFFFF)

/-- The pairs that are final: those of the elements below the lowest unread one, of a top-k those of whole segments (10 R297). -/
def Scan.pairs (c : Scan) : List (Nat × Nat) :=
  if c.topk then ((List.range (min c.segs (c.unread / (c.count / c.segs)))).map c.topList).flatten
  else (listed (c.cands.filter (fun e => decide (e.1 < c.unread)))).take c.cap

/-- Pairs that have become final and are not written. -/
def Scan.fresh (c : Scan) : List (Nat × Nat) := c.pairs.drop c.written

/-- The header of a scan that has read everything (07 R216, R217). -/
def Scan.header (c : Scan) : List Byte :=
  if c.topk then
    bytesLE 4 c.nans ++ bytesLE 4 ((List.range c.segs).filter (fun i => decide ((c.segment i).length < c.k))).length ++ List.replicate 8 0
  else bytesLE 4 (min c.cap c.cands.length) ++ bytesLE 4 c.cands.length ++ bytesLE 4 c.nans ++ List.replicate 4 0

/-- Header and pairs of a scan's result. -/
def Scan.result (c : Scan) : List Byte × List Byte := (c.header, pairBytes c.pairs)

/-- Cells of bytes at a flat address, and the lowest code of those that may not be written. -/
def State.checkedCells (s : State) (a : Nat) (bs : List Byte) : List (Nat × Byte) × Nat :=
  let one := fun (i : Nat) => if a % 2 ^ 34 + i < 2 ^ 34 then (s.accessFault ⟨false, true⟩ [] [{ lane := 0, addr := a + i, idx := 0, len := 1 }]).elim 0 FaultCode.code
                              else if s.route splitFuel (a / 2 ^ 34) 0 = .gone then 0x07 else 0x08
  let marked := (List.range bs.length).map (fun i => (a + i, bs.getD i 0, one i))
  ((marked.filter (fun e => e.2.2 == 0)).map (fun e => (e.1, e.2.1)), worst (marked.map (fun e => e.2.2)))

/-- The end of a scan: its tile, which one that HCANCEL stops leaves EMPTY, the frames elsewhere that it ran on, and its handle. -/
def State.endScan (s : State) (o : Nat) (c : Scan) (st : OpState) : State :=
  let close := fun (n : Nat) => match st with
    | .failed _ true => s.tileCancel c.sg n
    | .failed x false => s.tileDone c.sg n x
    | _ => s.tileDone c.sg n 0
  (((c.tile.elim s close).departFrames o).onOp o (fun p => { p with kind := .scan { c with tile := none } })).resolve o st

/-- Bytes of a scan's result at a place of it: the scan goes on, or ends with the fault met at its destination. -/
def State.writeResult (s : State) (o : Nat) (c : Scan) (at_ : Nat) (bs : List Byte) (next : State → State) : State :=
  match c.tile with
  | some n => next (s.scrBytes c.sg ((s.tile? c.sg n).elim 0 (fun t => t.off) + at_) bs true)
  | none =>
    let p := s.checkedCells (c.dest + at_) bs
    let t := s.eWrite o p.1
    if p.2 ≠ 0 then t.endScan o c (endOf p.2) else next t

/-- The pairs that have become final are written. -/
def State.writePairs (s : State) (o : Nat) (c : Scan) : State :=
  s.writeResult o c (16 + 8 * c.written) (pairBytes c.fresh) (fun t => t.onOp o (fun p => { p with kind := .scan { c with written := c.written + c.fresh.length } }))

/-- The header of a scan that has read everything and written its pairs: the last thing it writes. -/
def State.writeScan (s : State) (o : Nat) (c : Scan) : State := s.writeResult o c 0 c.header (fun t => t.endScan o c .done)

/-- Pairs of value bits and index in bytes. -/
def pairsIn (bs : List Byte) : List (Nat × Word) := (List.range (bs.length / 8)).map (fun i => (wordAt bs (8 * i + 4), BitVec.ofNat 32 (wordAt bs (8 * i))))

/-- A span that stands on another chip: the winnower of its channel there is asked to visit it. One that has come here meanwhile is visited here. -/
def State.readAway (s : State) (o : Nat) (op : Op) (c : Scan) (a : Nat) (rest : List Nat) : State :=
  let n := c.spanEnd a - a
  let fail := fun (x : Nat) => s.onOp o (fun p => { p with outcome := some (.failed x false) })
  match s.visitRow a with
  | some r =>
    match s.rangeFault ⟨true, false⟩ a n with
    | 0 => s.onOp o (fun p => { p with kind := .scan { c with rows := some (c.rows.getD [] ++ [(r, a)]), away := rest } })
    | x => fail x
  | none =>
    if op.asked ≠ [] || s.stuckAt a then s
    else
      match s.sendTo a with
      | .away ch g id off =>
        if s.validChip ch then
          (s.request { s.packet .object ch (.object (BitVec.ofNat 64 (flat id off)) (.visit n c.fmt c.topk c.op1 c.op2 [c.a1, c.b1, c.a2, c.b2])) [] with g := g } (.visit o a)).onOp o (fun p => { p with asked := [0] })
        else fail 0x07
      | _ => fail 0x07

/-- What another chip's winnower has found in a span from an address on: its candidates, its NaNs, and how many bytes it read before its buffer was full (10 R295). -/
def State.scanGot (s : State) (o a status : Nat) (vals : List Word) (data : List Byte) : State :=
  s.onOp o (fun p =>
    match p.kind with
    | .scan c =>
      let q := { p with asked := [] }
      if status ≠ 0 then (if p.outcome.isNone then { q with outcome := some (.failed status false) } else q)
      else
        let b := a + (vals.getD 1 0).toNat
        let rest := c.away.drop 1
        { q with kind := .scan { c with
            cands := c.cands ++ (pairsIn data).map (fun e => ((a - c.src) / scanBytes c.fmt + e.1, e.2))
            nans := c.nans + (vals.getD 0 0).toNat
            away := if c.spanEnd a ≤ b then rest else b :: rest } }
    | _ => p)

/-- A visit of a scan waits at a channel, or is switched for. -/
def State.visiting (s : State) (o ch : Nat) : Bool :=
  let mine := fun (a : Activity) => match a with | .winnow x _ => x == o | _ => false
  (s.chan ch).waiting.any mine || (s.chan ch).switching.elim false mine

/-- Channels that have rows of a scan left, no visit waiting, and their buffer empty again. -/
def State.stalled (s : State) (o : Nat) (rows : List (Nat × Nat)) : List Nat :=
  ((rows.map (fun r => chanOf r.1)).eraseDups).filter (fun ch => !s.visiting o ch && s.buffered ch == 0)

/-- The thresher's next step for a scan that has started: it takes what the buffers hold; winnowers that stopped for a full buffer go on; spans of other chips are read; the pairs that are final are written, and last the header. -/
def State.thresh (s : State) (o : Nat) (op : Op) (c : Scan) (rows : List (Nat × Nat)) : State :=
  if c.bufs ≠ [] then s.onOp o (fun p => { p with kind := .scan { c with cands := c.cands ++ c.bufs.map Prod.snd, bufs := [] } })
  else
    match s.stalled o rows, c.away, c.fresh with
    | ch :: l, _, _ => s.visitRows o rows (ch :: l)
    | [], a :: rest, _ => s.readAway o op c a rest
    | [], [], _ :: _ => s.writePairs o c
    | [], [], [] => if rows = [] then s.writeScan o c else s

/-- A scan that waits: the hold queue has no room for its requests (15 R358), or a line that its result goes to is held. -/
def State.scanHeld (s : State) (c : Scan) : Bool :=
  match c.rows with
  | none => (spansOf c.src (c.count * scanBytes c.fmt)).any (fun p => s.stuckAt p.addr)
  | some _ => c.tile.isNone && s.eBlocked (if c.fresh = [] then regs c.dest 16 else regs (c.dest + 16 + 8 * c.written) (8 * c.fresh.length))

/-- A scan may take a step: its object is not being revoked, nothing it waits for is held, and its writes are acknowledged. -/
def State.scanMay (s : State) (o : Nat) (op : Op) (c : Scan) : Bool :=
  op.st == .pending && !(c.rows.isNone && s.revoking o c.src) && !s.scanHeld c && decide (op.acks = 0)

/-- THRESHER_RESULT: gives the rows of a scan to the winnowers, takes their candidates, writes the pairs as they become final, the header last (10 R296, R297). -/
def execThresherResult (s : State) : Out :=
  .next (match s.arg with
    | .num o =>
      match look s.ops o with
      | none => s
      | some op =>
        match op.kind with
        | .scan c =>
          if s.scanMay o op c then
            match c.rows, op.outcome with
            | _, some st => s.endScan o c st
            | none, none => s.startScan o op c
            | some r, none => s.thresh o op c r
          else s
        | _ => s
    | _ => s)

/-! ### Channel programs (07 R218; 10 R299 to R304) -/

/-- Reserved bits of a micro-op are zero and its opcode exists (10 R301). -/
def microOk (x : BitVec 16) : Bool :=
  let w := x.toNat
  match bits w 15 12 with
  | 0 => bits w 1 0 == 0
  | 1 => bits w 1 0 == 0
  | 2 => bits w 8 4 == 0 && bits w 1 0 == 0
  | 3 => bits w 5 4 == 0 && bits w 3 0 == 0
  | 4 => bits w 1 0 == 0
  | 5 => bits w 3 0 == 0
  | 6 => bits w 9 9 == 0
  | 7 => bits w 11 0 == 0
  | 8 => bits w 11 4 == 0
  | 9 => bits w 11 0 == 0
  | _ => false

/-- Micro-ops of P4 to P11. -/
def microOps (P : List Word) : List (BitVec 16) := (List.range 16).map (fun i => BitVec.ofNat 16 (pf P (4 + i / 2) (16 * (i % 2) + 15) (16 * (i % 2))))

/-- A program as it starts (10 R300). -/
def Nbx.start (base rows : Nat) (ops : List (BitVec 16)) (lc : Word) (scalars : List Word) : Nbx :=
  { base := base, rows := rows, ops := ops, ch := 0, mpc := 0, lc := lc, row := 0, accs := List.replicate 8 { fmt := 0, data := List.replicate 64 0 }, scalars := scalars, placed := false }

/-- NBX. -/
def execNbx (m : Bool) (k : BitVec 4) (ga : BitVec 9) (s : State) : Out :=
  let P := s.block ga.toNat
  let ops := microOps P
  let base := pd P 0
  let bad := (2, pw P 2 == 0 || decide (32 < pw P 2) || decide (32 < base % 65536 / 2048 + pw P 2)) ::
    ((List.range 16).map (fun i => (4 + i / 2, !microOk (ops.getD i 0))) ++ [(11, !ops.any (fun x => bits x.toNat 15 12 == 9))])
  future s m .any k (regs ga.toNat 16) [blockExc bad, excIf (base % 2048 != 0) (.of .align), excIf (s.unreachable (ptrId base)) (.of .unreachable)]
    (fun _ => .nbx (Nbx.start base (pw P 2) ops (P.getD 3 0) (P.drop 12)))
    (fun t _ => t)

/-- Programs that hold a context of a channel. -/
def State.contexts (s : State) (ch : Nat) : Nat :=
  (s.ops.filter (fun e => e.2.st == .pending && (match e.2.kind with | .nbx n => n.placed && n.ch == ch | _ => false))).length

/-- The channel an unplaced program waits for. -/
def State.nbxChan (s : State) (n : Nbx) : Option Nat := (s.visitRow n.base).map chanOf

/-- A program may be given a context, or its failure: no earlier one waits for its channel, and one is free. -/
def State.nbxMay (s : State) (o : Nat) (op : Op) (n : Nbx) : Bool :=
  op.st == .pending && op.asked == [] && !n.placed && !s.stuckAt n.base &&
    (match s.nbxChan n with
     | none => true
     | some ch => decide (s.contexts ch < Config.nbxContexts)
         && !s.ops.any (fun e => decide (e.1 < o) && e.2.st == .pending && e.2.asked == [] && (match e.2.kind with | .nbx x => !x.placed && s.nbxChan x == some ch | _ => false)))

/-- The handle CODE that stands for a stop by HCANCEL in the answer to a channel program of another chip (MODEL). -/
def stoppedStatus : Nat := 257

/-- A program ends: its context is free, and a chip that sent it here is told (10 R299, R303). -/
def State.nbxEnd (s : State) (o : Nat) (st : OpState) : State :=
  match (look s.ops o).elim none (fun x => x.asker) with
  | none => s.resolve o st
  | some p =>
    let status := match st with
      | .failed c cancelled => if cancelled then stoppedStatus else c
      | _ => 0
    { s with ops := del s.ops o }.respond p status ((bodyId p.body).getD 0) (s.epochOf ((bodyId p.body).getD 0)) [] []

/-- A program whose frame lies on another chip goes to the channel engine there. One that another chip sent here goes on as it came, so that its sender's HCANCEL finds it (10 R305). -/
def State.sendProgram (s : State) (o : Nat) (n : Nbx) (c : Nat) (g : Bool) (id off : Nat) : State :=
  match look s.ops o with
  | some { asker := some p, cancel := false, .. } => { s with ops := del s.ops o, agenda := s.agenda ++ [(packetStep p.type, .again p)] }
  | some { asker := some _, cancel := true, .. } => s.nbxEnd o (.failed 0 true)
  | _ =>
  (s.request { s.packet .object c (.object (BitVec.ofNat 64 (flat id off)) (.program o n.rows n.ops n.lc n.scalars)) [] with g := g } (.object (.op o))).onOp o (fun x => { x with asked := [0] })

/-- NBX_CONTEXT_START: the translation checks, then a context, in which the program waits for its channel; or the program goes to the chip that holds its frame. -/
def execNbxContextStart (s : State) : Out :=
  .next (match s.arg with
    | .num o =>
      match look s.ops o with
      | none => s
      | some op =>
        match op.kind with
        | .nbx n =>
          if s.nbxMay o op n then
            match s.rangeFault ⟨true, true⟩ n.base (2048 * n.rows), s.sendTo n.base with
            | 0, .here _ off d => (s.onOp o (fun p => { p with kind := .nbx { n with placed := true, ch := chanOf (rowOf d off) } })).arriveRow (.program o (rowOf d off))
            | 0, .away c g id off => s.sendProgram o n c g id off
            | 0, .gone => s.nbxEnd o (.failed 0x07 false)
            | x, _ => s.nbxEnd o (.failed x false)
          else s
        | _ => s
    | _ => s)

/-- Tag of an accumulator's format. -/
def accTag (fmt : Nat) : Tag := [.f32, .bf16x2, .f16x2, .i32].getD fmt .f32

/-- Elements of 64 bytes under a tag. -/
def accElems (t : Tag) (bs : List Byte) : List Nat := (List.range (512 / t.width)).map (fun i => natLE ((bs.drop (t.width / 8 * i)).take (t.width / 8)))

/-- 64 bytes of elements. -/
def accBytes (t : Tag) (l : List Nat) : List Byte := (l.map (bytesLE (t.width / 8))).flatten

/-- Element by element a + b × c (c none for one): integers modulo 2^32, floats rounded once. -/
def accMad (t : Tag) (a b : Option Nat) (c : Option Word) : Nat :=
  if t = .i32 then ((a.getD 0) + (b.getD 0) * (c.elim 1 BitVec.toNat)) % 2 ^ 32
  else
    let f := fmtOf t
    let p := match c with
      | none => f.value (b.getD 0)
      | some w => (f.value (b.getD 0)).mul (f32v w.toNat)
    f.rn (a.elim p (fun x => p.add .rn (f.value x)))

/-- What a micro-op does next. -/
inductive Micro
  | go
  | next
  | fin
  | fail (code : Nat)
  deriving DecidableEq, Repr

/-- CVTA's result (10 R302). -/
def cvta (dst src : Acc) (f h : Nat) (sat : Bool) : Acc :=
  let tf := accTag f
  let ts := accTag src.fmt
  let es := accElems ts src.data
  let cv := fun (l : List Nat) => l.map (convert ts false tf false .rn sat)
  let c := 512 / tf.width
  let d := 512 / ts.width
  { fmt := f
    data :=
      if c = d then accBytes tf (cv es)
      else if c < d then accBytes tf (cv ((es.drop (16 * h)).take 16))
      else dst.data.take (32 * h) ++ accBytes tf (cv es) ++ dst.data.drop (32 * h + 32) }

/-- Runs one micro-op: the context, what it does next, and the sector it stores. `x` gives the bytes of a sector of the row, none where it is poisoned. -/
def microStep (n : Nbx) (x : Nat → Option (List Byte)) : Nbx × Micro × Option (Nat × List Byte) :=
  let w := (n.ops.getD n.mpc 0x9000).toNat
  let ad := bits w 11 9
  let sec := bits w 8 4
  let k := bits w 3 2
  let acc := fun (i : Nat) => n.accs.getD i { fmt := 0, data := List.replicate 64 0 }
  let a := acc ad
  let t := accTag a.fmt
  let sc := n.scalars.getD k 0
  let on := { n with mpc := n.mpc + 1 }
  let wr := fun (y : Acc) => ({ on with accs := n.accs.set ad y }, Micro.go, (none : Option (Nat × List Byte)))
  match bits w 15 12 with
  | 0 => match x sec with
    | none => (n, .fail 0x15, none)
    | some b => wr { fmt := k, data := b }
  | 1 => match x sec with
    | none => (n, .fail 0x15, none)
    | some b => wr { a with data := accBytes t (((accElems t a.data).zip (accElems t b)).map (fun e => accMad t (some e.1) (some e.2) (some sc))) }
  | 2 => wr { a with data := accBytes t ((accElems t a.data).map (fun e => accMad t none (some e) (some sc))) }
  | 3 =>
    let b := acc (bits w 8 6)
    if b.fmt ≠ a.fmt then (n, .fail 0x04, none)
    else wr { a with data := accBytes t (((accElems t a.data).zip (accElems t b.data)).map (fun e => accMad t (some e.1) (some e.2) none)) }
  | 4 => wr (cvta a (acc (bits w 8 6)) (bits w 5 4) (bits w 3 3) (bits w 2 2 == 1))
  | 5 => (on, .go, some (sec, a.data))
  | 6 => match x sec with
    | none => (n, .fail 0x15, none)
    | some b => ({ on with scalars := n.scalars.set (bits w 11 10) (BitVec.ofNat 32 (wordAt b (4 * bits w 3 0))) }, .go, none)
  | 7 => if n.row + 1 = n.rows then (n, .fail 0x08, none) else ({ on with row := n.row + 1 }, .next, none)
  | 8 => if n.lc - 1 ≠ 0 then ({ n with lc := n.lc - 1, mpc := bits w 3 0 }, .go, none) else ({ on with lc := n.lc - 1 }, .go, none)
  | _ => (n, .fin, none)

/-- A program fails: its context is freed. -/
def State.nbxFail (s : State) (o code : Nat) : State := s.nbxEnd o (.failed code false)

/-- A visit: at most `fuel` micro-ops on the current row. -/
def State.nbxRun (s : State) (o : Nat) (n : Nbx) : Nat → State
  | 0 => s.nbxFail o 0x01
  | fuel + 1 =>
    let at_ := n.base + 2048 * n.row
    let sector := fun (i : Nat) => (s.hereAddr (at_ + 64 * i)).elim none (fun e => if s.poisonedAt e.1 then none else some (s.bytesAt e.1 64))
    let r := microStep n sector
    let t :=
      match r.2.2 with
      | none => if (n.ops.getD n.mpc 0x9000).toNat / 4096 ∈ [0, 1, 6] then s.eCount [(at_, 1)] else s
      | some (i, bs) => s.eWrite o ((regs (at_ + 64 * i) 64).zip bs)
    let n' := r.1
    match r.2.1 with
    | .fail c => t.nbxFail o c
    | .fin => t.nbxEnd o .done
    | .go => if 16 ≤ n'.mpc then t.nbxFail o 0x01 else t.nbxRun o n' fuel
    | .next =>
      if 16 ≤ n'.mpc then t.nbxFail o 0x01
      else
        let u := t.onOp o (fun p => { p with kind := .nbx n' })
        if (look u.ops o).elim false (fun p => p.cancel) then u.nbxEnd o (.failed 0 true)
        else (u.visitRow (n'.base + 2048 * n'.row)).elim (u.nbxFail o 0x07) (fun row => u.arriveRow (.program o row))

/-- A program's visit. -/
def State.programVisit (s : State) (o : Nat) : State :=
  match look s.ops o with
  | none => s
  | some op =>
    match op.kind with
    | .nbx n => if op.st = .pending then s.nbxRun o n 32 else s
    | _ => s

/-! ### KVSEAL (07 R219) -/

/-- Exact quotient of two values as IEEE 754 has it. -/
def Val.div : Val → Val → Val
  | .nan, _ => .nan
  | _, .nan => .nan
  | .inf _, .inf _ => .nan
  | .inf a, .fin b _ _ => .inf (a != b)
  | .fin a _ _, .inf b => .fin (a != b) 0 1
  | .fin a n d, .fin b m e => if m = 0 then (if n = 0 then .nan else .inf (a != b)) else .fin (a != b) (n * e) (d * m)

/-- A head's scale as an FP32 code. -/
def sealScale (absmax : Nat) : Nat := if (f32v absmax).isZero then 0x3F800000 else Fmt.fp32.rn ((f32v absmax).div (.ofInt 448))

/-- One element's E4M3 code. -/
def sealElem (x scale : Nat) : Nat := Fmt.e4m3.round .rn true ((Fmt.bf16.value x).div (f32v scale))

/-- KVSEAL. -/
def execKvseal (m : Bool) (k : BitVec 4) (ga : BitVec 9) (s : State) : Out :=
  let P := s.block ga.toNat
  let e := pw P 2
  let h := pw P 3
  let v := pw P 10
  let bad := [(2, e == 0 || decide (65536 < e)), (3, h == 0 || e % h != 0), (10, v == 0 || decide (64 < v))] ++ zeros P [11, 12, 13, 14, 15]
  future s m .any k (regs ga.toNat 16) [blockExc bad, excIf ([pd P 0, pd P 4, pd P 6, pd P 8].any (fun p => s.unreachable (ptrId p))) (.of .unreachable)]
    (fun _ => .kvseal { src := pd P 0, elems := e, heads := h, dst := pd P 4, scales := pd P 6, absmax := pd P 8, valid := v })
    (fun t _ => t)

/-- Ranges of object space that KVSEAL reads, in pieces of at most 16 bytes. -/
def Kvseal.reads (c : Kvseal) : List (Nat × Nat) :=
  (List.range (c.valid * c.elems)).map (fun i => (c.src + 2 * i, 2)) ++ (List.range c.heads).map (fun h => (c.absmax + 4 * h, 4))

/-- Everything it reads, with the lowest code; none while another chip has yet to send it. -/
def State.readAll (s : State) (op : Op) (l : List (Nat × Nat)) : Option (List (List Byte) × Nat) :=
  ((l.mapM (fun r => s.eRead op ⟨true, false⟩ r.1 r.2)) : Option (List (Nat × List Byte))).map (fun xs => (xs.map Prod.snd, worst (xs.map Prod.fst)))

/-- What KVSEAL writes: the block, then the scales. -/
def Kvseal.out (c : Kvseal) (xs : List (List Byte)) : List Byte × List Byte :=
  let n := c.valid * c.elems
  let scale := fun (h : Nat) => sealScale (natLE (xs.getD (n + h) []))
  ((List.range (64 * c.elems)).map (fun i => if i < n then BitVec.ofNat 8 (sealElem (natLE (xs.getD i [])) (scale (i % c.elems / (c.elems / c.heads)))) else 0),
   ((List.range c.heads).map (fun h => bytesLE 4 (scale h))).flatten)

/-- KVSEAL may run: nothing of its writes has gone out, and no line it touches is held. -/
def State.kvsealMay (s : State) (op : Op) (c : Kvseal) : Bool :=
  op.st == .pending && (match op.outcome with
    | some _ => op.acks == 0
    | none => !s.eBlocked (c.reads.map Prod.fst ++ regs c.dst (64 * c.elems) ++ regs c.scales (4 * c.heads)))

/-- KVSEAL_COMPLETE: reads, quantises and writes at one step. -/
def execKvsealComplete (s : State) : Out :=
  .next (match s.arg with
    | .num o =>
      match look s.ops o with
      | none => s
      | some op =>
        match op.kind with
        | .kvseal c =>
          if s.kvsealMay op c then
            match op.outcome, s.readAll op c.reads with
            | some st, _ => s.resolve o st
            | none, none => s.eAsk o c.reads
            | none, some (xs, code) =>
              if code ≠ 0 then s.resolve o (.failed code false)
              else
                let s := s.eCount c.reads
                let r := c.out xs
                let a := s.checkedCells c.dst r.1
                let t := s.eWrite o a.1
                let b := t.checkedCells c.scales r.2
                (t.eWrite o b.1).resolve o (endOf (worst [a.2, b.2]))
          else s
        | _ => s
    | _ => s)

/-! ### RED (07 R220) -/

/-- The op of P2, one of the eight of 07 R220. -/
def redOp (x : Nat) : Option AtomOp :=
  match x with
  | 0 => some .add
  | 1 => some .min
  | 2 => some .max
  | 3 => some .nmin
  | 4 => some .nmax
  | 11 => some .fadd
  | 12 => some .fmin
  | 13 => some .fmax
  | _ => none

/-- RED. -/
def execRed (m : Bool) (k : BitVec 4) (ga : BitVec 9) (s : State) : Out :=
  let P := s.block ga.toNat
  let scr := pf P 2 31 31 == 1
  let op := (redOp (pf P 2 25 22)).getD .add
  let ty := AtomType.ofCode (BitVec.ofNat 3 (pf P 2 21 19))
  let z := (Rmw.op op ty).bytes
  let src := if scr then pw P 0 else pd P 0
  let bad := [(1, scr && pw P 1 != 0), (2, pf P 2 30 26 != 0 || pf P 2 18 0 != 0 || (redOp (pf P 2 25 22)).isNone || !(Rmw.op op ty).ok)] ++ zeros P [6, 7, 8, 9, 10, 11, 12, 13, 14, 15]
  let sg := s.curSeg
  future s m .any k (regs ga.toNat 16)
    [blockExc bad, excIf (src % z != 0 || pd P 4 % z != 0) (.of .align), excIf (scr && decide (s.scrSize s.curBlk < src + pw P 3 * z)) (.of .scrRange),
     excIf ((!scr && s.unreachable (ptrId src)) || s.unreachable (ptrId (pd P 4))) (.of .unreachable)]
    (fun _ => .red { sg := sg, scratch := scr, src := src, op := op, ty := ty, count := pw P 3, dst := pd P 4, next := 0 })
    (fun t _ => t)

/-- Bytes of an element. -/
def Red.size (c : Red) : Nat := (Rmw.op c.op c.ty).bytes
/-- Address of the next source element. -/
def Red.srcAt (c : Red) : Nat := c.src + c.next * c.size
/-- Address of the next destination element. -/
def Red.dstAt (c : Red) : Nat := c.dst + c.next * c.size

/-- The next source element: code and bytes; none while another chip has yet to send it. -/
def State.redSource (s : State) (op : Op) (c : Red) : Option (Nat × List Byte) :=
  if c.scratch then (if s.scrPoison c.sg c.srcAt then some (0x15, []) else some (0, s.scrRead c.sg c.srcAt c.size 0))
  else if c.src % 2 ^ 34 + c.next * c.size + c.size ≤ 2 ^ 34 then s.eRead op ⟨true, false⟩ c.srcAt c.size
  else some (if s.route splitFuel (ptrId c.src) 0 = .gone then 0x07 else 0x08, [])

/-- The operand words of an element's bytes. -/
def redWords (bs : List Byte) : List Word := (List.range (bs.length / 4)).map (fun i => BitVec.ofNat 32 (wordAt bs (4 * i)))

/-- RED ends: the frames elsewhere that it ran on, and its handle. -/
def State.endRed (s : State) (o : Nat) (st : OpState) : State := (s.departFrames o).resolve o st

/-- One element update at its channel engine: a relaxed atomic without return (07 R220; 10 R287). -/
def State.redBurst (s : State) (o : Nat) : State :=
  match look s.ops o with
  | none => s
  | some op =>
    match op.kind with
    | .red c =>
      if op.st ≠ .pending then s
      else
        match s.redSource op c, s.hereAddr c.dstAt with
        | some (0, bs), some (a, d) =>
          match s.rangeFault ⟨true, true⟩ c.dstAt c.size with
          | 0 =>
            if s.poisonedAt a then s.endRed o (.failed 0x15 false)
            else
              let new := rmwNew (.op c.op c.ty) (natLE (s.bytesAt a c.size)) (redWords bs)
              ((((s.commitCells ((regs a c.size).zip (bytesLE c.size new))).opGwct o (a / 128) d).countLocal (a / 2 ^ 34)).eCount (if c.scratch then [] else [(c.srcAt, c.size)])).onOp o (fun p => { p with kind := .red { c with next := c.next + 1 } })
          | x => s.endRed o (.failed x false)
        | some (x, _), _ => s.endRed o (.failed (if x = 0 then 0x07 else x) false)
        | none, _ => s
    | _ => s

/-- RED has something to do outside its channel: its end, its next element's source or destination. -/
def State.redMay (s : State) (o : Nat) (op : Op) (c : Red) : Bool :=
  op.st == .pending && decide (op.acks = 0) && !s.opWaits o && (decide (c.count ≤ c.next) || op.outcome.isSome || (!s.eBlocked [c.dstAt] && !(!c.scratch && s.stuckAt c.srcAt)))

/-- A scan, a channel program or an element-wise RED is running on frames of an object (10 R292). -/
def State.running (s : State) (id : Nat) : Bool :=
  let on := fun (a : Nat) => (s.hereAddr a).elim false (fun e => e.1 / 2 ^ 34 == id)
  let meets := fun (a n : Nat) => (spansOf a n).any (fun p => on p.addr)
  s.ops.any (fun e => e.2.st == .pending &&
    (match e.2.kind with
     | .scan c => (c.rows.getD []).any (fun r => on r.2)
     | .nbx n => n.placed && on n.base
     | .guest x => x == id
     | .red c => (decide (0 < c.next) || s.opWaits e.1) && decide (c.next < c.count) && (meets c.dst (c.count * c.size) || (!c.scratch && meets c.src (c.count * c.size)))
     | _ => false))

/-- RED_COMPLETE: every element has been updated; before that, hands the next element to its channel, or to the chip that holds its destination. -/
def execRedComplete (s : State) : Out :=
  .next (match s.arg with
    | .num o =>
      match look s.ops o with
      | none => s
      | some op =>
        match op.kind with
        | .red c =>
          if s.redMay o op c then
            let new := s.newFrames op (c.dstAt :: if c.scratch then [] else [c.srcAt])
            match op.outcome with
            | some st => s.endRed o st
            | none =>
              if c.count ≤ c.next then s.endRed o .done
              else if new ≠ [] then s.enterFrames o (new.map (fun f => (f, 0)))
              else
                match s.redSource op c with
                | none => s.eAsk o [(c.srcAt, c.size)]
                | some (0, bs) =>
                  if c.dst % 2 ^ 34 + c.next * c.size + c.size > 2 ^ 34 then s.endRed o (.failed (if s.route splitFuel (ptrId c.dst) 0 = .gone then 0x07 else 0x08) false)
                  else
                    match s.sendTo c.dstAt with
                    | .gone => s.endRed o (.failed 0x07 false)
                    | .here _ off d => s.arriveRow (.red o (rowOf d off))
                    | .away ch g id off =>
                      let p := { s.packet .atomic ch (.atomic (BitVec.ofNat 64 (flat id off)) (.op c.op c.ty) .red .chip (redWords bs)) [] with g := g }
                      if !s.validChip ch then s.endRed o (.failed 0x07 false)
                      else ((s.request p (.engineWrite o)).onOp o (fun x => { x with acks := x.acks + 1, kind := .red { c with next := c.next + 1 } }))
                | some (x, _) => s.endRed o (.failed x false)
          else s
        | _ => s
    | _ => s)

end Sys2Proof.Machine
end

