-- ==== Sys2Proof/Machine/ObjectSpace.lean ====
section
/-! DEFINITION. The global object space: GOB commands, the granary, affinity, migration, splitting, co-location, pinning, invalidation and the gleaner (15 R343 to R368; 07 R223). -/

namespace Sys2Proof.Machine

/-! ### Statuses and answers -/

/-- Handle CODE of a failed OMOVE or OINV: the status code, and 0x07 for no live object (07 R223). -/
def statusCode (st : Nat) : Nat := if st = 2 then 0x07 else st

/-- Registers a counted command writes, counted from gd (07 R193, R221, R223; 14 R323). -/
def resultRegs : Counted → List Nat
  | .oalloc .. => [0, 2, 3]
  | .osplit .. => [0, 2, 3]
  | .oloc _ => [0, 1, 2, 3]
  | .fbstat => [0, 1, 2, 3]
  | .launch _ => [0, 1]
  | _ => [0]

/-- A counted command ends: its status and its other results, which are 0 where none are given. -/
def State.endCommand (s : State) (n status : Nat) (vals : List Word) : State :=
  match s.txn? n with
  | none => s
  | some t =>
    match t.kind with
    | .command gd c =>
      (((resultRegs c).zip (BitVec.ofNat 32 status :: (vals ++ [0, 0, 0]))).foldl (fun u e => u.destMod t.who (.g gd) e.1 0 (fun _ => e.2)) s).partDone n 0
    | _ => s

/-- An object command ends with a status: 0 OK, 1 FULL, 2 NOTFOUND, 3 STATE, 4 RANGE. -/
def State.answerObj (s : State) (a : Asker) (id status : Nat) (vals : List Word) : State :=
  match a with
  | .txn n => s.endCommand n status vals
  | .op o => s.nbxEnd o (if status = stoppedStatus then .failed 0 true else endOf (statusCode status))
  | .packet p => s.respond p status id (s.epochOf id) vals []

/-- A command waits for an answer: it is not started again. -/
def State.asking (s : State) (a : Asker) : State :=
  match a with
  | .txn n => s.setPart n 0 .sent
  | .op o => s.onOp o (fun x => { x with asked := [0] })
  | .packet _ => s

/-- Asks another chip something about an object. -/
def State.askChip (s : State) (chip id : Nat) (cmd : ObjCmd) (r : Reply) : State := s.request (s.packet .object chip (.object (BitVec.ofNat 64 (flat id 0)) cmd) []) r

/-- A pointer's two words. -/
def ptrWords (id : Nat) : List Word := [BitVec.ofNat 32 (id * 2 ^ 34), BitVec.ofNat 32 (id * 4)]

/-! ### The granary (15 R344) -/

/-- Changes a granary entry. -/
def State.onGran (s : State) (id : Nat) (f : Granary → Granary) : State := { s with granary := upd s.granary id f }

/-- The state of an entry that is at rest: SPLIT once split, else RESIDENT. -/
def Granary.rest (x : Granary) : Nat := if x.upper = 0 then 0 else 2

/-- Assigns the next serial to an object that stands on a chip: its identifier, or none when all are used. -/
def State.newSerial (s : State) (chip : Nat) : Option (State × Nat) :=
  if s.nextSerial ≤ Config.serials then
    let id := s.chipId * 2 ^ 18 + s.nextSerial
    some ({ s with nextSerial := s.nextSerial + 1, granary := put s.granary id { chip := chip, epoch := 0, st := 0, boundary := 0, upper := 0 } }, id)
  else none

/-- Requests that a granary serves: status and values; none for a request that is not one. `who` is the chip that asks. -/
def State.granAsk (s : State) (who id : Nat) (cmd : ObjCmd) : Option (State × Nat × List Word) :=
  match cmd with
  | .loc =>
    match look s.granary id with
    | none => some (s, 2, [0, 0, 0])
    | some x => some (s, 0, [BitVec.ofNat 32 x.chip, BitVec.ofNat 32 x.epoch, BitVec.ofNat 32 x.st])
  | .confirmStub e => some (s, if (look s.granary id).elim false (fun x => decide (e ≤ x.epoch) || x.st == 3) then 0 else 3, [])
  | .takeSerial =>
    match s.newSerial who with
    | none => some (s, 1, [])
    | some (t, up) => some (t, 0, ptrWords up)
  | .splitAt b up => some (s.onGran id (fun x => { x with st := if x.st = 3 then 3 else 2, boundary := b, upper := up }), 0, [])
  | .freed => some (s.onGran id (fun x => { x with st := 3 }), 0, [])
  | .migrating on => some (s.onGran id (fun x => { x with st := if x.st = 3 then 3 else if on then 1 else x.rest }), 0, [])
  | .cutOver chip e => some (s.onGran id (fun x => if x.st = 3 then x else { x with chip := chip, epoch := e, st := x.rest }), 0, [])
  | _ => none

/-- Does a request at an object's granary: at once when it is here, else by a packet whose answer completes the reply. -/
def State.atGranary (s : State) (id : Nat) (cmd : ObjCmd) (r : Reply) (here : State → Nat → List Word → State) : State :=
  if birthOf id = s.chipId then
    match s.granAsk s.chipId id cmd with
    | none => s
    | some (t, st, vals) => here t st vals
  else s.askChip (birthOf id) id cmd r

/-! ### Frames and allocation (15 R345) -/

/-- Frames of a length. -/
def framesOf (len : Nat) : Nat := (len + 65535) / 65536

/-- Frames in use, with those reserved for objects on their way here. -/
def State.usedFrames (s : State) : Nat := ((s.objs ++ s.incoming).map (fun e => framesOf e.2.len)).foldl (· + ·) 0

/-- There is room for an object. -/
def State.frameRoom (s : State) (len : Nat) : Bool := decide (s.usedFrames + framesOf len ≤ Config.frames)

/-- A descriptor with frames of its own and nothing counted, pinned or under way. -/
def State.freshDesc (s : State) (len : Nat) (attrs : Word) (epoch : Nat) (group : Option Nat) (split : Option (Nat × Nat)) : Desc :=
  { len := len, attrs := attrs, frame0 := s.nextFrame, epoch := epoch, pins := 0, group := group, split := split, localCount := 0, slots := [], suggestion := none
    mig := none, inv := none, asked := false, busy := false, serial := none, left := 0 }

/-- OALLOC's effect. -/
def State.allocate (s : State) (n size : Nat) (attrs : Word) : State :=
  if size = 0 ∨ 2 ^ 34 < size then s.endCommand n 4 []
  else if !s.frameRoom size then s.endCommand n 1 []
  else
    match s.newSerial s.chipId with
    | none => s.endCommand n 1 []
    | some (t, id) =>
      ({ t with objs := put t.objs id (t.freshDesc size attrs 0 none none), nextFrame := t.nextFrame + framesOf size, locator := del t.locator id }).endCommand n 0 (ptrWords id)

/-! ### The bytes of an object -/

/-- A unit (byte, sector or line) of an object. -/
def inObject (unit id x : Nat) : Bool := decide (id * 2 ^ 34 / unit ≤ x) && decide (x < (id + 1) * 2 ^ 34 / unit)

/-- An object and all this chip holds of its bytes go. -/
def State.dropObject (s : State) (id : Nat) : State :=
  { s with
    objs := del s.objs id
    ops := s.ops.filter (fun e => e.2.kind != .guest id)
    mem := s.mem.filter (fun c => !inObject 1 id c.1)
    blur := cutSpan s.blur (flat id 0) (flat (id + 1) 0)
    stale := s.stale.filter (fun x => !inObject 65536 id x)
    poison := s.poison.filter (fun x => !inObject 64 id x)
    flaws := s.flaws.filter (fun f => !inObject 64 id f.sector)
    l1 := s.l1.filter (fun x => !inObject 64 id x.sector)
    lx := s.lx.filter (fun e => !inObject 128 id e.1)
    versions := s.versions.filter (fun v => !inObject 128 id v.line) }

/-- Members of a co-location group, by its leader (15 R361). -/
def State.members (s : State) (lead : Nat) : List Nat := (s.objs.filter (fun e => e.2.group == some lead)).map Prod.fst

/-- Clears an object's counts. -/
def Desc.uncounted (d : Desc) : Desc := { d with localCount := 0, slots := [], asked := false }

/-- An object leaves its group; the leader's leaving dissolves it (15 R361). -/
def State.ungroup (s : State) (id : Nat) : State :=
  match (look s.objs id).elim none (fun d => d.group) with
  | none => s
  | some lead => { s with objs := s.objs.map (fun e => if e.1 = id ∨ (lead = id ∧ e.2.group = some lead) then (e.1, { e.2.uncounted with group := none }) else e) }

/-- The row range of an object's frames. -/
def Desc.rowsIn (d : Desc) (row : Nat) : Bool := decide (d.frame0 * 32 ≤ row) && decide (row < (d.frame0 + framesOf d.len) * 32)

/-- The lower part's descriptor still spans the rows of what it held before; migration and scrubbing translate nothing. -/
def Activity.translated : Activity → Bool
  | .refresh => false
  | .migrate .. => false
  | .scrub _ => false
  | _ => true

/-- No translated access of an object is still to perform: nothing waits at a channel for its rows, and no write of it is held (15 R357, R364). -/
def State.quiet (s : State) (id : Nat) : Bool :=
  match look s.objs id with
  | none => true
  | some d =>
    let mine := fun (a : Activity) => a.translated && a.row?.elim false d.rowsIn
    !s.channels.any (fun e => e.2.waiting.any mine || e.2.switching.elim false mine) && !s.held.any (fun h => inObject 128 id h.line)

/-! ### Splitting (15 R360) -/

/-- Where a unit of the old object stands once its upper part has an identifier of its own. -/
def moved (unit id b up x : Nat) : Nat := if decide (flat id b / unit ≤ x) && inObject unit id x then x - flat id b / unit + flat up 0 / unit else x

/-- The split, as one step at the resident chip: the upper part's bytes, marks and descriptor go to the new identifier. -/
def State.splitObject (s : State) (id b up : Nat) : State :=
  match look s.objs id with
  | none => s
  | some d =>
    let hi := fun (x : Nat) => decide (flat id b ≤ x) && inObject 1 id x
    let line := moved 128 id b up
    let sect := moved 64 id b up
    let t := { s with
      mem := Memory.cells (s.mem.filter (fun (c : Nat × Byte) => !hi c.1)) ((s.mem.filter (fun (c : Nat × Byte) => hi c.1)).map (fun (c : Nat × Byte) => (moved 1 id b up c.1, c.2)))
      blur := cutSpan s.blur (flat id b) (flat (id + 1) 0) ++ (cutSpan (cutSpan s.blur 0 (flat id b)) (flat (id + 1) 0) (flat (2 ^ 30) 0)).map (fun (r : Nat × Nat) => (r.1 - flat id b + flat up 0, r.2 - flat id b + flat up 0))
      stale := s.stale.map (moved 65536 id b up)
      locator := del s.locator up
      poison := s.poison.map sect
      flaws := s.flaws.map (fun (f : Flaw) => { f with sector := sect f.sector })
      l1 := s.l1.map (fun (x : L1Sector) => { x with sector := sect x.sector })
      lx := s.lx.map (fun (e : Nat × Nat) => (line e.1, e.2))
      versions := s.versions.map (fun (v : Version) => { v with line := line v.line })
      held := s.held.map (fun (h : HeldWrite) => { h with line := line h.line })
      regions := s.regions.map (fun (e : Nat × Region) => (e.1, { e.2 with reads := e.2.reads.map line, writes := e.2.writes.map line })) }
    let u := { t.freshDesc (d.len - b) d.attrs 0 none none with frame0 := d.frame0 + b / 65536 }
    { t with objs := put (put t.objs id { d with len := b, split := some (b, up), busy := false, serial := none }) up u }

/-! ### OFREE and invalidation (15 R363 to R366) -/

/-- Requests of the hold queue for an object are received again, in order. -/
def State.releaseHold (s : State) (id : Nat) : State :=
  let mine := fun (p : Packet) => bodyId p.body == some id
  { s with
    hold := s.hold.filter (fun p => !mine p)
    agenda := s.agenda ++ (s.hold.filter mine).map (fun p => (packetStep p.type, StepArg.again p)) }

/-- The instant of an OFREE: the object goes, and its granary entry becomes FREED; requests that were held find it no more (15 R365). -/
def State.freeObject (s : State) (a : Asker) (id : Nat) : State :=
  (((s.ungroup id).dropObject id).releaseHold id |>.asking a).atGranary id .freed (.freed a) (fun t st _ => t.answerObj a id st [])

/-- A tile is in use from an object (15 R363). -/
def Segment.tileInUse (g : Segment) (id : Nat) (e : Nat × Tile) : Bool :=
  e.2.origin == some id && (e.2.st == .filling || (e.2.st == .ready && !e.2.err && !e.2.taken && g.streams.any (fun r => r.ring.contains e.1)))

/-- An object has an in-use use on this chip. -/
def State.inUse (s : State) (id : Nat) : Bool := s.segs.any (fun e => e.2.tiles.any (e.2.tileInUse id))

/-- The other chips that the live table names: each is told of the invalidation of a pinned object here, and of its end (15 R363; MODEL: log entry 36). -/
def State.otherChips (s : State) : List Nat := (s.fab.live.elim [] (fun t => t.entries.map Prod.fst)).filter (fun c => c != s.chipId)

/-- The end of a pinned object's invalidation: the pins go, the other chips are told, and OFREE goes on. -/
def State.endInval (s : State) (id : Nat) (i : Inval) : State :=
  let s := s.otherChips.foldl (fun t c => t.askChip c id .revoked .ignore) s
  let t := { s with objs := upd s.objs id (fun d => { d with pins := 0, inv := none }) }
  if i.free then t.freeObject i.asker id else t.answerObj i.asker id 0 []

/-- The operation that fills a tile ends with PIN_REVOKED, as its tile does (15 R363; 07 R194). -/
def State.revokeFills (s : State) (id : Nat) : State :=
  let filling := fun (sg : SKey) (n : Nat) => (s.tile? sg n).elim false (fun t => t.st == .filling && t.origin == some id)
  s.ops.foldl (fun t e =>
    if e.2.st = .pending then
      match e.2.kind with
      | .copy c => if c.dkind = 2 ∧ (s.targetsFrom c e.2.stage).any (fun k => filling k c.dst) then t.copyEnd e.1 c (.failed 0x0B false) else t
      | .scan c => if c.tile.elim false (filling c.sg) then t.endScan e.1 c (.failed 0x0B false) else t
      | _ => t
    else t) s

/-- A chip that tells of the invalidation of a pinned object is answered: no in-use use of the object remains here. -/
def State.answerRevoke (s : State) (id : Nat) : State :=
  match look s.revokes id with
  | none => s
  | some r => r.asker.elim s (fun p => { s with revokes := put s.revokes id { r with asker := none } }.respond p 0 0 0 [] [])

/-- Another chip begins to invalidate a pinned object of its own. -/
def State.noteRevoke (s : State) (id deadline : Nat) (p : Packet) : State :=
  let t := { s with revokes := put s.revokes id { deadline := deadline, before := s.nextOp, asker := some p } }
  if t.inUse id then t else t.answerRevoke id

/-- That invalidation is over: in the forced case what still fills ends at once. -/
def State.endRevoke (s : State) (id : Nat) : State :=
  match look s.revokes id with
  | none => s
  | some r => { (if r.asker.isSome then (s.revokeFills id).answerRevoke id else s) with revokes := del s.revokes id }

/-- One of the other chips has no in-use use of an object. -/
def State.onRevoked (s : State) (id : Nat) : State := { s with objs := upd s.objs id (fun d => { d with inv := d.inv.map (fun i => { i with asked := i.asked - 1 }) }) }

/-- OINV_COMPLETE: no in-use use of the object remains on any chip; or on this one, of an object of another chip. -/
def execOinvComplete (s : State) : Out :=
  .next (match s.arg with
    | .num id =>
      match (look s.objs id).elim none (fun d => d.inv) with
      | some i => if !s.inUse id ∧ s.quiet id ∧ i.asked = 0 then s.endInval id i else s
      | none => if s.inUse id then s else s.answerRevoke id
    | _ => s)

/-- PIN_GRACE_EXPIRY: the forced case, whatever still waits to perform (15 R363). -/
def execPinGraceExpiry (s : State) : Out :=
  .next (match s.arg with
    | .num id =>
      match (look s.objs id).elim none (fun d => d.inv) with
      | some i => if i.deadline ≤ s.ptime then (s.revokeFills id).endInval id i else s
      | none => if (look s.revokes id).elim false (fun r => decide (r.deadline ≤ s.ptime)) then (s.revokeFills id).answerRevoke id else s
    | _ => s)

/-! ### Migration (15 R355 to R358) -/

/-- Members that move with an object. -/
def State.moving (s : State) (lead : Nat) : List Nat := (s.objs.filter (fun e => e.2.mig.elim false (fun m => m.lead == lead))).map Prod.fst

/-- Changes a member's migration. -/
def State.onMig (s : State) (id : Nat) (f : Migration → Migration) : State := { s with objs := upd s.objs id (fun d => { d with mig := d.mig.map f }) }

/-- Rows of an object that lie in a list of frames, ascending, as row numbers within the object. -/
def rowsOfFrames (len : Nat) (fs : List Nat) : List Nat := ((fs.map (fun f => regs (32 * f) 32)).flatten).filter (fun r => decide (2048 * r < len))

/-- A member's next row waits at its channel. -/
def State.nextMigRow (s : State) (id : Nat) : State :=
  match look s.objs id with
  | none => s
  | some d => (d.mig.elim none (fun m => m.rows.head?)).elim s (fun r => s.arriveRow (.migrate id (r / 32) (d.frame0 * 32 + r)))

/-- Members of an object's group, or the object alone. -/
def State.together (s : State) (id : Nat) : List Nat := ((look s.objs id).elim none (fun d => d.group)).elim [id] s.members

/-- Why a move is refused here: a member is pinned, MIGRATING, or has an epoch that cannot rise (15 R346, R355, R361, R362). -/
def State.moveRefused (s : State) (id : Nat) : Bool :=
  (s.together id).any (fun x => (look s.objs x).elim false (fun d => decide (0 < d.pins) || d.mig.isSome || d.epoch == 0xFFFFFFFF))

/-- What a move has to wait for: another command at a member that is under way, or requests that come first (15 R357, R360, R363). -/
def State.moveWaits (s : State) (id : Nat) : Bool :=
  (s.together id).any (fun x => (look s.objs x).elim false (fun d => d.busy || d.inv.isSome || decide (0 < d.left)))

/-- A migration starts: the destination is asked to reserve the frames of every member. -/
def State.startMigration (s : State) (id dest : Nat) (a : Option Asker) : State :=
  let lead := ((look s.objs id).elim none (fun d => d.group)).getD id
  (s.together id).foldl (fun t x =>
    match look t.objs x with
    | none => t
    | some d =>
      let fs := List.range (framesOf d.len)
      let m : Migration := { lead := lead, dest := dest, asker := if x = lead then a else none, stage := .reserving, pass := 1, rows := rowsOfFrames d.len fs, queue := fs, dirty := [], cutting := false, sent := 0 }
      ({ t with objs := put t.objs x { d with mig := some m } }).askChip dest x (.reserve d.len d.attrs d.epoch d.group d.split) (.reserved x dest)) s

/-- A migration that has not begun its cut-over is abandoned (15 R356, R359). -/
def State.abandon (s : State) (lead status : Nat) : State :=
  let all := s.moving lead
  let a := (look s.objs lead).elim none (fun d => d.mig.elim none (fun m => m.asker))
  let t := all.foldl (fun t x =>
    match (look t.objs x).elim none (fun d => d.mig) with
    | none => t
    | some m =>
      let mine := fun (y : Activity) => match y with | .migrate i _ _ => i == x | _ => false
      let t := { t with
        objs := upd t.objs x (fun d => { d with mig := none })
        channels := t.channels.map (fun (e : Nat × Channel) => (e.1, { e.2 with
          waiting := e.2.waiting.filter (fun y => !mine y)
          switching := if e.2.switching.elim false mine then none else e.2.switching })) }
      ((t.askChip m.dest x .release .ignore).atGranary x (.migrating false) .ignore (fun u _ _ => u)).releaseHold x) s
  a.elim t (fun a => t.answerObj a lead status [])

/-- The destination's answer about one member's frames: once all are reserved, bulk copy starts. -/
def State.onReserved (s : State) (id dest status : Nat) : State :=
  match (look s.objs id).elim none (fun d => d.mig) with
  | none => s
  | some m =>
    if m.stage ≠ .reserving ∨ m.dest ≠ dest then s
    else if status ≠ 0 then s.abandon m.lead status
    else
      let t := s.onMig id (fun m => { m with stage := .bulk })
      let all := t.moving m.lead
      if all.all (fun x => (look t.objs x).elim false (fun d => d.mig.elim false (fun m => m.stage == .bulk))) then
        all.foldl (fun t x => (t.atGranary x (.migrating true) .ignore (fun u _ _ => u)).nextMigRow x) t
      else t

/-- Poison marks of a row, one bit a sector (17 R400). -/
def State.rowPoison (s : State) (a : Nat) : BitVec 64 :=
  (List.range 32).foldl (fun m i => if s.poisonedAt (a + 64 * i) then m ||| (1#64 <<< i) else m) 0

/-- Sends one row of an object to the destination of its migration, with its number among the packets of that transfer (16 R374). -/
def State.sendRow (s : State) (id dest row : Nat) : State :=
  let a := flat id (2048 * row)
  let n := ((look s.objs id).elim none (fun d => d.mig)).elim 0 (fun m => m.sent)
  (s.onMig id (fun m => { m with sent := m.sent + 1 })).request { s.packet .bulk dest (.migration id (2048 * row) n (s.rowPoison a)) (s.bytesAt a 2048) with coded := s.objZ id } (.migration id)

/-- MIGRATION_COPY_VISIT: the migration engine copies one row; a frame is copied from its first row's visit on. -/
def State.migrateVisit (s : State) (id row : Nat) : State :=
  match look s.objs id with
  | none => s
  | some d =>
    match d.mig with
    | none => s
    | some m =>
      let r := row - d.frame0 * 32
      (((s.onMig id (fun m => { m with rows := m.rows.erase r, queue := m.queue.erase (r / 32) })).sendRow id m.dest r)).nextMigRow id

/-- Every member of a migration meets a test. -/
def State.allMoving (s : State) (lead : Nat) (p : Desc → Migration → Bool) : Bool :=
  (s.moving lead).all (fun x => (look s.objs x).elim false (fun d => d.mig.elim false (p d)))

/-- Dirty frames over the group (15 R357). -/
def State.dirtyCount (s : State) (lead : Nat) : Nat :=
  ((s.moving lead).map (fun x => (look s.objs x).elim 0 (fun d => d.mig.elim 0 (fun m => m.dirty.length)))).foldl (· + ·) 0

/-- The migration led by an object. -/
def State.leads (s : State) (lead : Nat) : Option Migration :=
  match (look s.objs lead).elim none (fun d => d.mig) with
  | none => none
  | some m => if m.lead = lead then some m else none

/-- A bulk-copy pass has read its last row. -/
def State.passOver (s : State) (lead : Nat) : Bool := (s.leads lead).isSome && s.allMoving lead (fun _ m => m.stage == .bulk && m.rows.isEmpty)

/-- MIGRATION_PASS_END: cut-over, once no scan, channel program or RED runs on its frames (10 R292), another pass, or abandonment after eight. -/
def execMigrationPassEnd (s : State) : Out :=
  .next (match s.arg with
    | .num lead =>
      match s.leads lead with
      | none => s
      | some m =>
        if s.passOver lead then
          if s.dirtyCount lead ≤ 16 then (if (s.moving lead).any s.running then s else (s.moving lead).foldl (fun t x => t.onMig x (fun m => { m with stage := .draining, cutting := true })) s)
          else if 8 ≤ m.pass then s.abandon lead 3
          else (s.moving lead).foldl (fun t x =>
            let len := (look t.objs x).elim 0 (fun d => d.len)
            (t.onMig x (fun m =>
              let fs := (List.range (framesOf len)).filter (fun f => m.dirty.contains f)
              { m with pass := m.pass + 1, rows := rowsOfFrames len fs, queue := fs, dirty := [] })).nextMigRow x) s
        else s
    | _ => s)

/-- Regions that hold a line of a list of objects abort with REMOTE, all for that reason of their own (09 R270, R282). -/
def State.abortObjects (s : State) (ids : List Nat) : State :=
  s.abortAll (((s.regions.filter (fun e => (e.2.reads ++ e.2.writes).any (fun x => ids.any (fun id => inObject 128 id x)))).map Prod.fst).map (fun x => (x, 9)))

/-- Steps 3 and 4 of a cut-over: dirty rows go, regions abort. -/
def State.finalCopy (s : State) (lead : Nat) : State :=
  (s.moving lead).foldl (fun t x =>
    match look t.objs x with
    | none => t
    | some d =>
      match d.mig with
      | none => t
      | some m => ((rowsOfFrames d.len m.dirty).foldl (fun u r => u.sendRow x m.dest r) t).onMig x (fun m => { m with stage := .finalCopy, dirty := [] })) (s.abortObjects (s.moving lead))

/-- Every row of a migration is acknowledged. -/
def State.rowsAcked (s : State) (lead : Nat) : Bool :=
  !s.fab.replies.any (fun r => match r.2.2 with | .migration id => (s.moving lead).contains id | _ => false)

/-- Step 6: every granary entry names the destination; the asker is told once all do. -/
def State.granaryMoved (s : State) (id : Nat) : State :=
  match (look s.objs id).elim none (fun d => d.mig) with
  | none => s
  | some m =>
    let t := s.onMig id (fun m => { m with stage := .stub })
    if t.allMoving m.lead (fun _ x => x.stage == .stub) then
      match (look t.objs m.lead).elim none (fun d => d.mig.elim none (fun x => x.asker)) with
      | none => t
      | some a => (t.onMig m.lead (fun x => { x with asker := none })).answerObj a m.lead 0 []
    else t

/-- Asks every granary of a group for step 6. -/
def State.moveGranaries (s : State) (lead : Nat) : State :=
  (s.moving lead).foldl (fun t x =>
    match look t.objs x with
    | none => t
    | some d =>
      match d.mig with
      | none => t
      | some m => (t.onMig x (fun m => { m with stage := .granary })).atGranary x (.cutOver m.dest (d.epoch + 1)) (.cutOver x) (fun u _ _ => u.granaryMoved x)) s

/-- Leases that one OBJECT packet of at most 4,096 bytes brings. -/
def leaseChunk : Nat := 340

/-- The leases of an object's lines go ahead of its activation, in packets of their own (15 R357; 16 R377). -/
def State.sendLeases (s : State) (dest id : Nat) (lx : List (Nat × Nat)) : State :=
  (List.range ((lx.length + leaseChunk - 1) / leaseChunk)).foldl (fun t i => t.askChip dest id (.lease ((lx.drop (leaseChunk * i)).take leaseChunk)) .ignore) s

/-- The monitor that an agent's WAITC has set at an object which leaves is set again at its new home, as the first of the requests that are forwarded, so that it misses no write (05 R143). -/
def State.leaveMonitor (s : State) (id : Nat) (w : Agent) : State × List Packet :=
  match s.agentWait w with
  | .waitc x =>
    match s.route splitFuel x.id x.off with
    | .here i off _ =>
      if i = id ∧ x.monitor ∧ !x.hit then
        let p := s.packet .atomic s.chipId (.monitor (BitVec.ofNat 64 (flat id off)) x.cond x.n32 x.value x.scope) []
        (s.onFab (fun f => { f with nextTag := (f.nextTag + 1) % 2 ^ 24, replies := f.replies ++ [(p.tag.toNat, s.chipId, .wait w)] }), [p])
      else (s, [])
    | _ => (s, [])
  | _ => (s, [])

/-- Monitors at an object that leaves: those of this chip's agents and those of other chips. -/
def State.leaveMonitors (s : State) (id : Nat) : State × List Packet :=
  let own := (s.groups.map (fun e => Agent.grp e.1) ++ s.seqs.map (fun e => Agent.sqr e.1)).foldl (fun (r : State × List Packet) w =>
    let x := r.1.leaveMonitor id w
    (x.1, r.2 ++ x.2)) (s, [])
  let far := fun (p : Packet) => match p.body with
    | .monitor ptr .. => (match s.route splitFuel (ptrId ptr.toNat) (ptrOff ptr.toNat) with | .here i _ _ => i == id | _ => false)
    | _ => false
  (own.1.onFab (fun f => { f with monitors := f.monitors.filter (fun p => !far p) }), own.2 ++ s.fab.monitors.filter far)

/-- Steps 7 and 8 for one member: the destination is told to serve it, the stub goes in, the held requests follow, and before them the monitors that were set here. The cores keep their L1 copies, which are served until their leases expire (09 R270). -/
def State.leave (s : State) (id : Nat) : State :=
  match look s.objs id with
  | none => s
  | some d =>
    match d.mig with
    | none => s
    | some m =>
      let mine := fun (p : Packet) => bodyId p.body == some id
      let r := s.leaveMonitors id
      let hs := r.2 ++ s.hold.filter mine
      let lines := s.lx.filter (fun e => inObject 128 id e.1)
      let t := (r.1.sendLeases m.dest id lines).askChip m.dest id (.activate (d.epoch + 1) hs.length []) .ignore
      let t := { t.dropObject id with l1 := t.l1, hold := t.hold.filter (fun p => !mine p), stubs := put t.stubs id { next := m.dest, epoch := d.epoch + 1, used := t.ptime, confirming := false } }
      hs.foldl (fun u p => u.enqueue { p with dst := BitVec.ofNat 12 m.dest, hops := 7, onward := true }) t

/-- Stubs that the members of a migration need, and room for them (15 R352). -/
def State.stubRoom (s : State) (lead : Nat) : Bool :=
  decide (s.stubs.length + ((s.moving lead).filter (fun x => (look s.stubs x).isNone)).length ≤ Config.stubs)

/-- A cut-over can take its next step. -/
def State.cutMay (s : State) (lead : Nat) : Bool :=
  match s.leads lead with
  | none => false
  | some m =>
    match m.stage with
    | .draining => (s.moving lead).all (fun x => s.quiet x && (look s.objs x).elim true (fun d => d.left == 0))
    | .finalCopy => s.rowsAcked lead
    | .stub => s.allMoving lead (fun _ x => x.stage == .stub) && s.stubRoom lead
    | _ => false

/-- CUT_OVER_DRAINED: the steps of a cut-over, each once what it waits for has come. -/
def execCutOverDrained (s : State) : Out :=
  .next (match s.arg with
    | .num lead =>
      match s.leads lead with
      | none => s
      | some m =>
        if s.cutMay lead then
          match m.stage with
          | .draining => s.finalCopy lead
          | .finalCopy => s.moveGranaries lead
          | .stub => (s.moving lead).foldl State.leave s
          | _ => s
        else s
    | _ => s)

/-- A row's acknowledgement: a destination that drains ends a bulk copy, but no cut-over (15 R359). -/
def State.onRowAck (s : State) (id status : Nat) : State :=
  match (look s.objs id).elim none (fun d => d.mig) with
  | none => s
  | some m => if status ≠ 0 ∧ m.stage = .bulk then s.abandon m.lead 3 else s

/-- FBDRAIN abandons the migrations of this chip's objects that have not begun to cut over. -/
def State.drainMigrations (s : State) : State :=
  (s.objs.filter (fun e => e.2.mig.elim false (fun m => m.lead == e.1 && (m.stage == .reserving || m.stage == .bulk)))).foldl (fun t e => t.abandon e.1 3) s

/-! ### The destination of a migration -/

/-- Requests that the destination of a migration serves: status. DEDUCED, log entry 36. -/
def State.destAsk (s : State) (id : Nat) (cmd : ObjCmd) : Option (State × Nat) :=
  match cmd with
  | .reserve len attrs e g sp =>
    if s.fab.st ≠ .opened then some (s, 3)
    else if s.frameRoom len then some ({ s with incoming := put s.incoming id (s.freshDesc len attrs e g sp), nextFrame := s.nextFrame + framesOf len }, 0)
    else some (s, 1)
  | .release => if (look s.incoming id).isSome then some (({ s.dropObject id with objs := s.objs, incoming := del s.incoming id }).releaseHold id, 0) else some (s, 0)
  | .lease lines => some ({ s with lx := lines.foldl (fun (l : List (Nat × Nat)) (x : Nat × Nat) => put l x.1 (max x.2 ((look l x.1).getD 0))) s.lx }, if (look s.incoming id).isSome then 0 else 2)
  | .revoked => some (s.endRevoke id, 0)
  | .activate e n lines =>
    match look s.incoming id with
    | none => some (s, 2)
    | some d =>
      let t := { s with
        incoming := del s.incoming id
        objs := put s.objs id { d with epoch := e, left := n }
        locator := del s.locator id
        lx := lines.foldl (fun (l : List (Nat × Nat)) (x : Nat × Nat) => put l x.1 (max x.2 ((look l x.1).getD 0))) s.lx }
      let first := fun (p : Packet) => bodyId p.body == some id && p.hops == 7
      let mine := fun (p : Packet) => bodyId p.body == some id
      if n = 0 then some (t.releaseHold id, 0)
      else some ({ t with
        hold := t.hold.filter (fun p => !(mine p && first p))
        agenda := t.agenda ++ (t.hold.filter first).map (fun (p : Packet) => (packetStep p.type, StepArg.again p)) }, 0)
  | _ => none

/-- One forwarded held request has performed; the others follow once none is left. -/
def State.heldDone (s : State) (id : Nat) : State :=
  match look s.objs id with
  | none => s
  | some d =>
    let t := { s with objs := put s.objs id { d with left := d.left - 1 } }
    if d.left = 1 then t.releaseHold id else t

/-- Status of a migration packet that comes to a chip which drains (15 R359). -/
def State.rowStatus (s : State) (id : Nat) : Nat := if (look s.incoming id).isNone || s.fab.st != .opened then 3 else 0

/-- A row of a migration lands. -/
def State.landRow (s : State) (id off : Nat) (poison : BitVec 64) (bs : List Byte) : State :=
  if (look s.incoming id).isNone then s
  else
    let a := flat id off
    let sect := regs (a / 64) ((bs.length + 63) / 64)
    { s with
      mem := s.mem.put a bs
      blur := cutSpan s.blur a (a + bs.length)
      poison := s.poison.filter (fun x => !sect.contains x) ++ (sect.filter (fun x => poison.getLsbD (x - a / 64))) }

/-! ### Affinity (15 R354, R355) -/

/-- Adds 1 to a chip's slot. -/
def countSlot (l : List (Nat × Nat)) (c : Nat) : List (Nat × Nat) :=
  if (look l c).isSome then upd l c (fun n => min (n + 1) 1048575)
  else
    match l.find? (fun e => e.2 == 0) with
    | some e => l.map (fun x => if x.1 = e.1 then (c, 1) else x)
    | none =>
      if l.length < 4 then l ++ [(c, 1)]
      else
        match minBy Prod.snd l with
        | none => l
        | some e => l.map (fun x => if x.1 = e.1 then (c, min (e.2 + 1) 1048575) else x)

/-- The chip whose count calls for a migration. -/
def Desc.wanted (d : Desc) : Option Nat :=
  match minBy (fun (e : Nat × Nat) => 1048575 - e.2) d.slots with
  | none => none
  | some e => if 4 * d.localCount ≤ e.2 ∧ 65536 ≤ e.2 then some e.1 else none

/-- MIGRATION_REQUEST: the owner channel engine asks; MIGRATE_POLICY decides between a migration and a suggestion. -/
def State.affinityAsk (s : State) (lead : Nat) : State :=
  match look s.objs lead with
  | none => s
  | some d =>
    match d.wanted with
    | none => s
    | some c =>
      if d.asked then s
      else
        if s.moveWaits lead then s
        else
        let t := { s with objs := put s.objs lead { d with asked := true, suggestion := if s.migratePolicy.getLsbD 0 then some c else d.suggestion } }
        if s.migratePolicy.getLsbD 0 || t.moveRefused lead || c == s.chipId || !t.validChip c then t else t.startMigration lead c none

/-- One access of another chip, counted at the leader of a co-location group; a request of this chip's own that came back to it, or was held, counts as local (15 R354). -/
def State.countRemote (s : State) (id chip : Nat) : State :=
  if chip = s.chipId then s.countLocal id else
  let lead := (look s.objs id).elim id (fun d => d.group.getD id)
  ({ s with objs := upd s.objs lead (fun d => { d with slots := countSlot d.slots chip }) }).affinityAsk lead

/-- AFFINITY_HALVING: every 2^24 ns each count is halved, and a request that was refused is made again. -/
def execAffinityHalving (s : State) : Out :=
  .next (if s.halvedAt + 2 ^ 24 ≤ s.ptime then
      let t := { s with
        halvedAt := s.halvedAt + 2 ^ 24
        objs := s.objs.map (fun (e : Nat × Desc) => (e.1, { e.2 with localCount := e.2.localCount / 2, slots := e.2.slots.map (fun (x : Nat × Nat) => (x.1, x.2 / 2)), asked := false })) }
      (t.objs.map Prod.fst).foldl State.affinityAsk t
    else s)

/-! ### The gleaner (15 R353) -/

/-- GLEANER_VISIT: an idle stub is freed once its granary confirms it. -/
def execGleanerVisit (s : State) : Out :=
  .next (match s.arg with
    | .num id =>
      match look s.stubs id with
      | none => s
      | some x =>
        if x.confirming || !(decide (x.used + s.stubIdle.toNat * 1000 ≤ s.ptime)) then s
        else
          ({ s with stubs := put s.stubs id { x with confirming := true } }).atGranary id (.confirmStub x.epoch) (.stub id)
            (fun t st _ => if st = 0 then { t with stubs := del t.stubs id } else { t with stubs := put t.stubs id x })
    | _ => s)

/-- The granary's answer about a stub: one that has forwarded since is kept. -/
def State.onConfirmed (s : State) (id status : Nat) : State :=
  match look s.stubs id with
  | none => s
  | some x =>
    if !x.confirming then s
    else if status = 0 then { s with stubs := del s.stubs id }
    else { s with stubs := put s.stubs id { x with confirming := false } }

/-! ### Object commands at the home -/

/-- Commands that invalidate the translation caches (15 R364). -/
def invalidates : ObjCmd → Bool
  | .free => true
  | .inval => true
  | .attr _ => true
  | .split _ => true
  | _ => false

/-- OMOVE. -/
def movesObject : ObjCmd → Bool
  | .move _ => true
  | _ => false

/-- Commands that end the pins of a pinned object, whose uses come to their end first (15 R363). -/
def ends : ObjCmd → Bool
  | .free => true
  | .inval => true
  | _ => false

/-- A command at the home has to wait: for a migration (15 R359), for requests that come first, or for the accesses that an invalidation drains. -/
def State.objWaits (s : State) (id : Nat) (cmd : ObjCmd) : Bool :=
  match look s.objs id with
  | none => s.landing id
  | some d =>
    decide (0 < d.left) ||
      (match cmd with
       | .unpin | .enter .. | .depart _ | .visit .. | .program .. | .stop _ => false
       | .move _ => !s.moveRefused id && s.moveWaits id
       | _ => d.mig.isSome || (invalidates cmd && (d.busy || d.inv.isSome || (!(ends cmd && decide (0 < d.pins)) && !s.quiet id))))

/-- The pins of an object. -/
def State.pinObject (s : State) (a : Asker) (id : Nat) (d : Desc) : State :=
  if 65535 ≤ d.pins then s.answerObj a id 1 [] else ({ s with objs := put s.objs id { d with pins := d.pins + 1 } }).answerObj a id 0 []

/-- One pin fewer. -/
def State.unpinObject (s : State) (a : Asker) (id : Nat) (d : Desc) : State :=
  if d.pins = 0 then s.answerObj a id 3 [] else ({ s with objs := put s.objs id { d with pins := d.pins - 1 } }).answerObj a id 0 []

/-- OATTR at the instant of its invalidation (15 R366; 07 R223). -/
def State.attrObject (s : State) (a : Asker) (id : Nat) (d : Desc) (w : Word) : State :=
  if ((w ^^^ d.attrs) &&& 0x43#32) ≠ 0 then s.answerObj a id 3 [] else ({ s with objs := put s.objs id { d with attrs := w } }).answerObj a id 0 []

/-- OSPLIT: its checks, a serial of the object's granary, then the split (15 R360). -/
def State.askSplit (s : State) (a : Asker) (id : Nat) (d : Desc) (b : Nat) : State :=
  if b % 65536 ≠ 0 ∨ b = 0 ∨ d.len ≤ b then s.answerObj a id 4 []
  else if !attrSplit d.attrs ∨ d.split.isSome then s.answerObj a id 3 []
  else
    (({ s with objs := put s.objs id { d with busy := true } }).asking a).atGranary id .takeSerial (.serial id b a) (fun t st vals =>
      if st ≠ 0 then ({ t with objs := put t.objs id d }).answerObj a id st []
      else
        let up := ptrId (pairVal (vals.getD 0 0) (vals.getD 1 0))
        (t.splitObject id b up).atGranary id (.splitAt b up) .ignore (fun u _ _ => u.answerObj a id 0 vals))

/-- The serial of an OSPLIT comes from another chip's granary: the split waits for its instant. -/
def State.onSerial (s : State) (id b : Nat) (a : Asker) (status : Nat) (vals : List Word) : State :=
  if status ≠ 0 then ({ s with objs := upd s.objs id (fun d => { d with busy := false }) }).answerObj a id status []
  else { s with objs := upd s.objs id (fun d => { d with serial := some (b, ptrId (pairVal (vals.getD 0 0) (vals.getD 1 0)), a) }) }

/-- The instant of a split whose serial has come from another chip: no translated access is still to perform (15 R360, R364). -/
def State.splitNow (s : State) (id : Nat) : State :=
  match (look s.objs id).elim none (fun d => d.serial) with
  | none => s
  | some (b, up, a) => if s.quiet id then (s.splitObject id b up).askChip (birthOf id) id (.splitAt b up) (.splitDone up a) else s

/-- The granary's word on an object that OGROUP names and that is not here: NOTFOUND where it is unassigned or FREED, else STATE (07 R223; 15 R361). -/
def State.onGrouped (s : State) (id : Nat) (a : Asker) (status : Nat) (vals : List Word) : State :=
  s.answerObj a id (if status ≠ 0 ∨ vals.getD 2 0 = 3 then 2 else 3) []

/-- OGROUP (15 R361). -/
def State.groupObject (s : State) (a : Asker) (id : Nat) (d : Desc) (other : Nat) : State :=
  match s.route splitFuel (ptrId other) (ptrOff other) with
  | .gone => s.answerObj a id 2 []
  | .away _ _ x _ =>
    if s.validChip (birthOf x) then (s.asking a).atGranary x .loc (.grouped id a) (fun t st vals => t.onGrouped id a st vals)
    else s.answerObj a id 2 []
  | .here x _ e =>
    if x = id then (s.ungroup id).answerObj a id 0 []
    else
      let lead := e.group.getD x
      if e.mig.isSome then s.answerObj a id 3 []
      else if d.group = some lead then s.answerObj a id 0 []
      else if d.group.isSome then s.answerObj a id 3 []
      else if 64 ≤ max 1 (s.members lead).length then s.answerObj a id 1 []
      else
        let t := { s with objs := upd s.objs x (fun y => { y with group := some lead }) }
        ({ t with objs := upd t.objs id (fun y => { y with group := some lead }) }).answerObj a id 0 []

/-- OMOVE (15 R355, R356). -/
def State.moveObject (s : State) (a : Asker) (id : Nat) (d : Desc) (chip : Word) : State :=
  let lead := d.group.getD id
  let dest := if chip = 0xFFFFFFFF then (look s.objs lead).elim none (fun x => x.suggestion) else if chip.toNat ≤ 4095 then some chip.toNat else none
  if s.moveRefused id then s.answerObj a id 3 []
  else
    match dest with
    | none => s.answerObj a id 4 []
    | some c =>
      if c = s.chipId then s.answerObj a id 0 []
      else if !s.validChip c then s.answerObj a id 3 []
      else (s.asking a).startMigration id c (some a)

/-- OINV or OFREE of a pinned object: its uses end first (15 R363). -/
def State.beginInval (s : State) (a : Asker) (id : Nat) (d : Desc) (free : Bool) : State :=
  let others := s.otherChips
  let end_ := s.ptime + s.pinGrace.toNat * 1000
  others.foldl (fun t c => t.askChip c id (.revoke end_) (.revoked id))
    (({ s with objs := put s.objs id { d with inv := some { deadline := end_, asker := a, free := free, before := s.nextOp, asked := others.length } } }).asking a)

/-- A command at the object's home, with nothing to wait for. DEDUCED, log entry 35. -/
def State.objHere (s : State) (a : Asker) (id : Nat) (cmd : ObjCmd) : State :=
  match look s.objs id with
  | none => s.answerObj a id 2 []
  | some d =>
    match cmd with
    | .pin => s.pinObject a id d
    | .unpin => s.unpinObject a id d
    | .free => if 0 < d.pins then s.beginInval a id d true else s.freeObject a id
    | .inval => if 0 < d.pins then s.beginInval a id d false else s.answerObj a id 0 []
    | .attr w => s.attrObject a id d w
    | .split b => s.askSplit a id d b.toNat
    | .group o => s.groupObject a id d o
    | .move c => s.moveObject a id d c
    | _ => s.answerObj a id 2 []

/-- The core that a command comes from. -/
def State.askerCore (s : State) (a : Asker) : Nat :=
  match a with
  | .txn n => (s.txn? n).elim 0 (fun t => t.core)
  | .op o => (look s.ops o).elim 0 (fun x => s.coreOf (s.segOf x.who))
  | .packet _ => Config.cores

/-- Sends a command of this chip to the object it names, or performs it here. -/
def State.objGo (s : State) (a : Asker) (ptr : Nat) (cmd : ObjCmd) : State :=
  match s.sendTo ptr with
  | .gone => s.answerObj a (ptrId ptr) 2 []
  | .away c g id off =>
    if s.validChip c then (s.asking a).coreRequest (s.askerCore a) id { s.packet .object c (.object (BitVec.ofNat 64 (flat id off)) cmd) [] with g := g } (.object a)
    else s.answerObj a id 2 []
  | .here id _ _ => if s.objWaits id cmd then s else s.objHere a id cmd

/-- A command would be performed at this chip. -/
def State.objIsHere (s : State) (ptr : Nat) : Bool :=
  match s.sendTo ptr with
  | .here _ _ _ => true
  | _ => false

/-- A command of this chip can take a step. -/
def State.objMay (s : State) (ptr : Nat) (cmd : ObjCmd) : Bool :=
  match s.sendTo ptr with
  | .here id _ _ => !s.objWaits id cmd
  | _ => !s.stuckAt ptr

/-- The command that a counted object command sends, with its pointer. -/
def countedCmd : Counted → Option (Nat × ObjCmd)
  | .ofree p => some (p, .free)
  | .opin p => some (p, .pin)
  | .ounpin p => some (p, .unpin)
  | .ogroup p l => some (p, .group l)
  | .osplit p b => some (p, .split b)
  | .oattr p w => some (p, .attr w)
  | _ => none

/-- OLOC reads the granary entry (15 R367). -/
def State.locate (s : State) (n ptr : Nat) : State :=
  (s.setPart n 0 .sent).atGranary (ptrId ptr) .loc (.object (.txn n)) (fun t st vals => t.endCommand n st vals)

/-- A counted object command performs or is sent, unless it has to wait. -/
def State.runObject (s : State) (n : Nat) (c : Counted) : State :=
  match c with
  | .oalloc size attrs => s.allocate n size attrs
  | .oloc p => s.locate n p
  | _ => (countedCmd c).elim s (fun e => s.objGo (.txn n) e.1 e.2)

/-- A counted object command that RESPONSE_RETURN performs: all but those that invalidate translations of this chip. -/
def State.runsOnReturn (s : State) (c : Counted) : Bool :=
  match c with
  | .oalloc .. => true
  | .oloc _ => true
  | _ => (countedCmd c).elim false (fun e => s.objMay e.1 e.2 && !(invalidates e.2 && s.objIsHere e.1))

/-- INVALIDATION_COMPLETE: the caches have acknowledged and the accesses in use have drained; the command takes effect at this instant (15 R364). An OMOVE that had to wait for one goes on here too. It acts on a counted command (0, transaction), an OINV or OMOVE (1, operation), a held request (2, place in the hold queue), or a split whose serial has come (3, object). -/
def execInvalidationComplete (s : State) : Out :=
  .next (match s.arg with
    | .pair 0 n =>
      match s.txn? n with
      | none => s
      | some t =>
        match t.kind, t.parts with
        | .command _ c, [p] => if p.st = .todo then (countedCmd c).elim s (fun e => if invalidates e.2 then s.objGo (.txn n) e.1 e.2 else s) else s
        | _, _ => s
    | .pair 1 o =>
      match look s.ops o with
      | none => s
      | some op =>
        match op.kind with
        | .oinv id => if op.st = .pending ∧ op.asked = [] then s.objGo (.op o) (flat id 0) .inval else s
        | .omove id c => if op.st = .pending ∧ op.asked = [] then s.objGo (.op o) (flat id 0) (.move c) else s
        | _ => s
    | .pair 2 n =>
      match s.hold[n]? with
      | none => s
      | some p =>
        match p.body with
        | .object ptr cmd =>
          match s.served splitFuel (ptrId ptr.toNat) (ptrOff ptr.toNat) with
          | some (id, _, _) => if (invalidates cmd || movesObject cmd) ∧ !s.objWaits id cmd then ({ s with hold := s.hold.eraseIdx n }).objHere (.packet p) id cmd else s
          | none => s
        | _ => s
    | .pair 3 id => s.splitNow id
    | _ => s)

/-- The answer to something asked about an object. -/
def State.objReply (s : State) (r : Reply) (id status : Nat) (vals : List Word) : State :=
  match r with
  | .object a => s.answerObj a id status vals
  | .grouped x a => s.onGrouped x a status vals
  | .reserved x d => s.onReserved x d status
  | .serial x b a => s.onSerial x b a status vals
  | .splitDone up a => s.answerObj a up status (ptrWords up)
  | .freed a => s.answerObj a id status []
  | .revoked x => s.onRevoked x
  | .cutOver x => s.granaryMoved x
  | .stub x => s.onConfirmed x status
  | .migration x => s.onRowAck x status
  | _ => s

/-! ### GOB instructions (07 R223) -/

/-- A counted command with its result registers (07 R190). -/
def counted (s : State) (m : Bool) (row : Row) (gd : Nat) (reads : List Nat) (own : List (Option Exc)) (c : Counted) : Out :=
  uniJump s row true ((resultRegs c).map (gd + ·) ++ reads) reads own
    (fun t => t.openTxn m 8 (.command gd c) [] [] (fun u => (resultRegs c).foldl (fun v r => v.pendU (gd + r) 1) u))

/-- An attribute word with L and M both, or with a reserved bit set. -/
def attrExc (w : Word) : Option Exc := excIf ((attrL w && attrM w) || decide (128 ≤ w.toNat)) (.of .illegal)

/-- UNREACHABLE of a pointer in a pair of registers. -/
def State.ptrExc (s : State) (p : Nat) : Option Exc := excIf (s.unreachable (ptrId p)) (.of .unreachable)

/-- OALLOC. -/
def execOalloc (m : Bool) (gd ga gb : BitVec 9) (s : State) : Out :=
  let w := s.readU 1 gb.toNat
  counted s m .group gd.toNat [ga.toNat, ga.toNat + 1, gb.toNat] [attrExc w] (.oalloc (s.readPair 0 ga.toNat) w)
/-- OFREE. -/
def execOfree (m : Bool) (gd ga : BitVec 9) (s : State) : Out :=
  let p := s.readPair 0 ga.toNat
  counted s m .group gd.toNat [ga.toNat, ga.toNat + 1] [s.ptrExc p] (.ofree p)
/-- OPIN. -/
def execOpin (m : Bool) (gd ga : BitVec 9) (s : State) : Out :=
  let p := s.readPair 0 ga.toNat
  counted s m .group gd.toNat [ga.toNat, ga.toNat + 1] [s.ptrExc p] (.opin p)
/-- OUNPIN. -/
def execOunpin (m : Bool) (gd ga : BitVec 9) (s : State) : Out :=
  let p := s.readPair 0 ga.toNat
  counted s m .group gd.toNat [ga.toNat, ga.toNat + 1] [s.ptrExc p] (.ounpin p)
/-- OGROUP. -/
def execOgroup (m : Bool) (gd ga gb : BitVec 9) (s : State) : Out :=
  let p := s.readPair 0 ga.toNat
  let q := s.readPair 1 gb.toNat
  counted s m .group gd.toNat [ga.toNat, ga.toNat + 1, gb.toNat, gb.toNat + 1] [s.ptrExc p, s.ptrExc q] (.ogroup p q)
/-- OLOC: its first target is the granary's chip (15 R367). -/
def execOloc (m : Bool) (gd ga : BitVec 9) (s : State) : Out :=
  let p := s.readPair 0 ga.toNat
  counted s m .group gd.toNat [ga.toNat, ga.toNat + 1] [excIf (!s.validChip (birthOf (ptrId p))) (.of .unreachable)] (.oloc p)
/-- OSPLIT. -/
def execOsplit (m : Bool) (gd ga gb : BitVec 9) (s : State) : Out :=
  let p := s.readPair 0 ga.toNat
  counted s m .group gd.toNat [ga.toNat, ga.toNat + 1, gb.toNat] [s.ptrExc p] (.osplit p (s.readU 1 gb.toNat))
/-- OATTR. -/
def execOattr (m : Bool) (gd ga gb : BitVec 9) (s : State) : Out :=
  let p := s.readPair 0 ga.toNat
  let w := s.readU 1 gb.toNat
  counted s m .group gd.toNat [ga.toNat, ga.toNat + 1, gb.toNat] [attrExc w, s.ptrExc p] (.oattr p w)
/-- OMOVE: a chip number that is not VALID traps at issue (15 R355; 16 R376); the request goes out as it issues. -/
def execOmove (m : Bool) (k : BitVec 4) (ga gb : BitVec 9) (s : State) : Out :=
  let p := s.readPair 0 ga.toNat
  let c := s.readU 1 gb.toNat
  future s m .group k [ga.toNat, ga.toNat + 1, gb.toNat] [s.ptrExc p, excIf (decide (c.toNat ≤ 4095) && !s.validChip c.toNat) (.of .unreachable)]
    (fun _ => .omove (ptrId p) c) (fun t o => t.objGo (.op o) p (.move c))
/-- OINV: a pinned object's invalidation begins as it issues; an unpinned one's ends at INVALIDATION_COMPLETE. -/
def execOinv (m : Bool) (k : BitVec 4) (ga : BitVec 9) (s : State) : Out :=
  let p := s.readPair 0 ga.toNat
  future s m .group k [ga.toNat, ga.toNat + 1] [s.ptrExc p] (fun t => .oinv (t.origin p))
    (fun t o => if t.objIsHere p ∧ (look t.objs (t.origin p)).elim true (fun d => d.pins == 0) then t else t.objGo (.op o) p .inval)

end Sys2Proof.Machine
end

