-- ==== Sys2Proof/Machine/Fabric.lean ====
section
/-! DEFINITION. Fabric commands, remote transfers, the packets that arrive, and the fabric controller (07 R221, R222; 15 R348 to R351; 16 R371 to R395; 17 R400, R401). -/

namespace Sys2Proof.Machine

/-! ### State word and events (16 R394, R395) -/

/-- Code of a controller state. -/
def FabState.code : FabState → Nat
  | .reset => 0
  | .opened => 1
  | .draining => 2
  | .drained => 3
  | .dark => 4
  | .locking => 5
  | .locked => 6
  | .lockfail => 7

/-- The state word. -/
def Fabric.word (f : Fabric) : Word :=
  BitVec.ofNat 32 ((f.live.elim 0 (fun t => t.entries.length)) * 2 ^ 19 + (if f.staged.isSome then 2 ^ 16 else 0) + f.failPorts * 2 ^ 8 + f.st.code)

/-- The live plan id. -/
def Fabric.plan (f : Fabric) : BitVec 16 := f.live.elim 0 (fun t => t.plan)

/-- FBSTAT's four words. -/
def Fabric.stat (f : Fabric) : List Word := [f.word, f.locked.setWidth 32, (f.locked >>> 32).setWidth 32, f.plan.setWidth 32]

/-- Posts a FABRIC event. -/
def State.fabricEvent (s : State) : State :=
  s.postEvent (eventOf s.chipId 5 0 0 0 0 [s.fab.word, s.fab.plan.setWidth 32, s.fab.locked.setWidth 32, (s.fab.locked >>> 32).setWidth 32])

/-- The controller enters a state and posts its event. -/
def State.setFab (s : State) (st : FabState) : State := (s.onFab (fun f => { f with st := st })).fabricEvent

/-! ### Routing tables (16 R373) -/

/-- Entries of a table from chip d on: the VALID ones with their ports, or none where an entry breaks R373. -/
def parseEntries (self : Nat) : Nat → Nat → List Byte → Option (List (Nat × BitVec 64))
  | 0, _, _ => some []
  | n + 1, d, bs =>
    let flags := natLE (bs.take 4)
    let ports := natLE ((bs.drop 8).take 8)
    let valid := flags == 2 ^ 31
    if (flags ≠ 0 ∧ !valid) ∨ natLE ((bs.drop 4).take 4) ≠ 0 ∨ (valid && decide (d ≠ self) && ports == 0) ∨ ((!valid || d == self) && ports != 0) ∨ (d = self ∧ !valid) then none
    else (parseEntries self n (d + 1) (bs.drop 16)).map (fun l => if valid then (d, BitVec.ofNat 64 ports) :: l else l)

/-- A routing table from its 65,552 bytes, none where it breaks R373. -/
def parseTable (bs : List Byte) : Option Table :=
  let plan := natLE (bs.take 4)
  let self := natLE ((bs.drop 4).take 4)
  if plan < 65536 ∧ self < 4096 then
    (parseEntries self 4096 0 (bs.drop 16)).map (fun l => { plan := BitVec.ofNat 16 plan, self := self, dateline := BitVec.ofNat 64 (natLE ((bs.drop 8).take 8)), entries := l })
  else none

/-- Bytes of a routing table. -/
def tableBytes : Nat := 65552

/-! ### Answers to this chip's packets -/

/-- The answer of a WAITC that has ended. -/
def Reply.isLapsed : Reply → Bool
  | .lapsed _ => true
  | _ => false

/-- The reply of a tag leaves the list; its slot at the destination, unless FBDARK has returned that (16 R390), and its landing buffer are free again (16 R381). -/
def State.takeReply (s : State) (tag : Nat) (bulk : Bool) : Option (Reply × State) :=
  match s.fab.replies.find? (fun r => r.1 == tag) with
  | none => none
  | some (t, dst, r) =>
    some (r, s.onFab (fun f =>
      if dst = s.chipId then { f with replies := f.replies.erase (t, dst, r), byCore := del f.byCore t }
      else { f with
        replies := f.replies.erase (t, dst, r)
        byCore := del f.byCore t
        unslotted := f.unslotted.erase t
        landing := if r.isLapsed then f.landing else f.landing - 1
        slots := if bulk || f.unslotted.contains t then f.slots else bump f.slots dst (-1)
        bulk := if bulk then bump f.bulk dst (-1) else f.bulk }))

/-- A response's chip and epoch, where they are those of a home (15 R347, R350). A set of the cache keeps at most 8 entries, the least recently used leaving (DESIGN CHOICE, log entry 18). -/
def State.locate? (s : State) (id chip epoch : Nat) : State :=
  if serialOf id = 0 ∨ chip = s.chipId ∨ (look s.objs id).isSome then s
  else
    match look s.locator id with
    | some (_, e) => if e < epoch then { s with locator := put s.locator id (chip, epoch) } else s
    | none =>
      let set := s.locator.filter (fun x => x.1 % 8192 == id % 8192)
      let l := if set.length < 8 then s.locator else (set.head?).elim s.locator (fun x => del s.locator x.1)
      { s with locator := l ++ [(id, chip, epoch)] }

/-- The 64-bit value of two words. -/
def wordsPair (ws : List Word) : Nat := pairVal (ws.getD 0 0) (ws.getD 1 0)

/-- The lanes of a list of pieces fault. -/
def State.lanesFail (s : State) (t : Txn) (c : FaultCode) (ps : List Piece) : State :=
  ((ps.map (fun x => x.lane)).eraseDups).foldl (fun u l => (u.onTxn t.id (fun x => { x with faults := x.faults ++ [(c, l)] })).destLose t.who t.dest.1 t.dest.2 l) s

/-- A home has found the object of a READ: it answers with the bytes that exist of those asked for and the attributes there, besides its status (MODEL: log entry 24). -/
def foundStatus (status : Nat) : Bool := [0, 0x08, 0x09, 0x15].contains status

/-- What an answered READ of a load says of each lane: bytes that do not exist, then rights, then poison, each lane by itself (06 R161). -/
def State.loadReply (s : State) (t : Txn) (n lo status : Nat) (vals : List Word) (data : List Byte) (p : Part) (d : Dest) (z : Size) (y : Sync) : State :=
  let exists_ := fun (x : Piece) => decide (x.addr + x.len ≤ lo + (vals.getD 0 0).toNat)
  let inside := p.pieces.filter exists_
  let good := (s.goodPieces t p).filter exists_
  let u := s.lanesFail t .objBounds (p.pieces.filter (fun x => !exists_ x))
  if status = 0x09 then (u.lanesFail t .objPerm inside).partDone t.id n
  else if status = 0x15 then ((if good = [] then u else u.destPoison t d z.regs).acquireOf t.who y).partDone t.id n
  else (((u.deliver t d z good (fun a => data.getD (a - lo) 0)).acquireOf t.who y).dropCopies t.core ((good.map (fun x => s.place x.addr / 64)).eraseDups)).partDone t.id n

/-- The response of a part sent to another chip. DEDUCED, log entry 24. -/
def State.partReply (s : State) (id n lo status : Nat) (vals : List Word) (data : List Byte) : State :=
  match s.txn? id with
  | none => s
  | some t =>
    match t.parts[n]? with
    | none => s
    | some p =>
      let good := s.goodPieces t p
      let all := s.lanesFail t (codeOf status) p.pieces
      if p.probe then (p.pieces.head?).elim (s.partDone id n) (fun x => s.probeNote t n x (if status = 0 then some ((vals.getD 0 0).toNat, vals.getD 1 0) else none))
      else
      match t.kind with
      | .load _ d z y _ => if foundStatus status then s.loadReply t n lo status vals data p d z y else all.partDone id n
      | .store .. =>
        let lanes := (good.map (fun x => x.lane)).eraseDups
        if status = 0x08 ∧ 1 < lanes.length then
          s.onTxn id (fun x => { x with parts := x.parts.modify n (fun q => { q with st := .done }) ++ lanes.map (fun l => { st := .todo, pieces := good.filter (fun y => y.lane == l) }) })
        else if status ≠ 0 then all.partDone id n
        else (s.mergeGwct t.who (wordsPair vals)).partDone id n
      | .rmw _ d r sc _ =>
        if status = 0x15 then (s.destPoison t d r.words).partDone id n
        else if status ≠ 0 then all.partDone id n
        else
          let lane := (good.head?).elim 0 (fun x => x.lane)
          (((s.returnOld t.who d r lane (natLE (data.take r.bytes))).mergeGwct t.who (wordsPair vals)).acquire t.who sc).partDone id n
      | .trx .. =>
        let one := fun (x : Piece) => (regs x.addr x.len).map (fun a => (a, if status = 0 ∧ a - lo < data.length then some (data.getD (a - lo) 0) else none))
        (s.trxNote id ((p.pieces.map one).flatten)).trxNext id n
      | .command .. => s.partDone id n

/-- The value a WAITC's home has sent; a poisoned word is undefined. -/
def State.waitWord (s : State) (status : Nat) (data : List Byte) : Word := if status = 0x15 then s.undef 20002 0 else BitVec.ofNat 32 (natLE (data.take 4))

/-- The answer of a WAITC's home: a monitor's wake, a polled word, no monitor free, or a fault, which is precise (05 R142, R159). A block that is out becomes restorable by a value that satisfies the condition (08 R249). DEDUCED, log entry 26. -/
def State.waitReply (s : State) (w : Agent) (status : Nat) (vals : List Word) (data : List Byte) : State :=
  match s.agentWait w with
  | .waitc x =>
    if (look s.blocks (agentBlk w)).elim false (fun b => b.saved) then
      (if (status ≠ 0 ∧ status ≠ 0x15) ∨ wcompare x.cond x.n32 (s.waitWord status data) x.value then s.onBlock (agentBlk w) (fun b => { b with swapped := false }) else s)
    else if status ≠ 0 ∧ status ≠ 0x15 then s.failWaitc w x (codeOf status)
    else if x.monitor then (if vals.getD 0 0 = 1 then s.endWaitc w x 1 else s.setWaitc w { x with monitor := false, polledAt := s.ptime })
    else
      if wcompare x.cond x.n32 (s.waitWord status data) x.value then s.endWaitc w x 1 else s
  | _ => s

/-- Bytes that another chip sent to an engine; `coded` says that all of them came from frames with Z. -/
def State.engineGot (s : State) (o a n status : Nat) (coded : Bool) (vals : List Word) (data : List Byte) : State :=
  let code := fun (i : Nat) => if foundStatus status && decide ((vals.getD 0 0).toNat ≤ i) then 0x08 else status
  s.onOp o (fun x => { x with plain := x.plain || !coded, got := x.got ++ (List.range n).map (fun i => (a + i, code i, data.getD i 0)) })

/-- An engine's write at another chip is acknowledged. A copy keeps the codes of the elements refused, COPY_RIGHTS in place of OBJ_PERM, and goes on (07 R200). -/
def State.engineAck (s : State) (o status : Nat) (vals : List Word) : State :=
  s.onOp o (fun x =>
    let y := { x with acks := x.acks - 1, gwct := if status = 0 then max x.gwct (wordsPair vals) else x.gwct }
    if status = 0 then y
    else
      match x.kind with
      | .copy _ => { y with codes := addTo x.codes (copyCode status) }
      | _ => { y with outcome :=
          match x.outcome with
          | some (.failed c k) => some (.failed (if c = 0 then status else min c status) k)
          | _ => some (.failed status false) })

/-! ### Remote transfers (07 R222; 16 R385, R386) -/

/-- A transfer ends once nothing of it is unanswered. -/
def State.endTransfer (s : State) (o : Nat) : State :=
  match look s.ops o with
  | none => s
  | some op =>
    match op.kind with
    | .transfer t => if t.waiting = 0 ∧ (op.outcome.isSome ∨ t.sentTo = t.bytes) then s.resolve o (op.outcome.getD .done) else s
    | _ => s

/-- A transfer fails; packets that are out are still answered. -/
def State.failTransfer (s : State) (o code : Nat) : State :=
  (s.onOp o (fun x => { x with outcome := match x.outcome with
    | some (.failed c k) => some (.failed (min c code) k)
    | _ => some (.failed code false) })).endTransfer o

/-- One packet of a transfer is answered. -/
def State.transferAck (s : State) (o status : Nat) : State :=
  let t := s.onOp o (fun x => match x.kind with | .transfer t => { x with kind := .transfer { t with waiting := t.waiting - 1 } } | _ => x)
  if status = 0 then t.endTransfer o else t.failTransfer o status

/-- A packet of a transfer goes out. -/
def Transfer.went (t : Transfer) (n : Nat) : OpKind := .transfer { t with sentTo := t.sentTo + n, waiting := t.waiting + 1 }

/-- Pieces of at most 16 bytes of a range. -/
def chunks (a n : Nat) : List (Nat × Nat) := (List.range ((n + 15) / 16)).map (fun i => (a + 16 * i, min 16 (n - 16 * i)))

/-- The next packet's source bytes with their code; none while another chip has yet to send them. -/
def State.sendSource (s : State) (op : Op) (t : Transfer) (n : Nat) : Option (List Byte × Nat) :=
  let a := t.addr + t.sentTo
  if t.scratch then
    some (((chunks a n).map (fun r => s.scrRead t.sg r.1 r.2 (r.1 / 16))).flatten, if (sectorsOf [(a, n)]).any (fun x => s.scrPoison t.sg (64 * x)) then 0x15 else 0)
  else if 2 ^ 34 < a % 2 ^ 34 + n then some ([], if s.route splitFuel (a / 2 ^ 34) 0 = .gone then 0x07 else 0x08)
  else (s.readAll op (chunks a n)).map (fun r => (r.1.flatten, r.2))

/-- A packet of an operation still waits to leave. -/
def State.queued (s : State) (o : Nat) : Bool :=
  s.fab.queue.any (fun e => s.fab.replies.any (fun r => r.1 == e.2.tag.toNat && r.2.2 == .transfer o && e.2.src.toNat == s.chipId && vcOf e.2.type != 1))

/-- Every byte of an operation's source comes from a frame with Z, here or at another chip (16 R384). -/
def State.allZ (s : State) (op : Op) (a n : Nat) : Bool :=
  !op.plain && (splitAccess 0 a n).all (fun x => (s.hereAddr x.addr).elim true (fun e => attrZ e.2.attrs))

/-- RSEND's next packet; the destination may have ceased to be VALID while packets waited (16 R385). -/
def State.feedSend (s : State) (o : Nat) (op : Op) (t : Transfer) : State :=
  let n := min 4096 (t.bytes - t.sentTo)
  let a := t.addr + t.sentTo
  if !s.validChip t.chip then s.failTransfer o 0x0A
  else if !t.scratch && s.eBlocked [a, a + n - 1] then s
  else
    match s.sendSource op t n with
    | none => s.eAsk o (chunks a n)
    | some (bs, 0) =>
      let u := (if t.scratch then s else s.eCount [(a, n)]).onOp o (fun x => { x with kind := t.went n, got := [], asked := [], plain := false })
      u.request { u.packet .bulk t.chip (.bulk false t.task t.block t.seg t.ac (t.offset + t.sentTo)) bs with coded := t.scratch || s.allZ op a n } (.transfer o)
    | some (_, c) => s.failTransfer o c

/-- RFETCH's next request. -/
def State.feedFetch (s : State) (o : Nat) (t : Transfer) : State :=
  let n := min 4096 (t.bytes - t.sentTo)
  let a := t.addr + t.sentTo
  let ask := fun (c id off : Nat) (g : Bool) =>
    let u := s.onOp o (fun x => { x with kind := t.went n })
    u.request { u.packet .fetch c (.fetch (BitVec.ofNat 64 (flat id off)) n t.task t.block t.seg t.ac (t.offset + t.sentTo)) [] with g := g } (.transfer o)
  if 2 ^ 34 < a % 2 ^ 34 + n then s.failTransfer o (if s.route splitFuel (a / 2 ^ 34) 0 = .gone then 0x07 else 0x08)
  else
    match s.sendTo a with
    | .gone => s.failTransfer o 0x07
    | .away c g id off => if s.validChip c then ask c id off g else s.failTransfer o 0x07
    | .here id off _ => ask s.chipId id off false

/-- Hands the next packet of a transfer to the fabric, once the one before it has left. -/
def State.feedOne (s : State) (o : Nat) : State :=
  match look s.ops o with
  | none => s
  | some op =>
    match op.kind with
    | .transfer t =>
      if op.st = .pending ∧ op.outcome = none ∧ !op.cancel ∧ t.sentTo < t.bytes ∧ !s.queued o then
        (if t.fetch then s.feedFetch o t else s.feedSend o op t)
      else s
    | _ => s

/-- Every transfer hands on its next packet. -/
def State.feed (s : State) : State := (s.ops.map Prod.fst).foldl State.feedOne s

/-- Bytes of a packet take effect in a segment, then its count is added to the counter (05 R148; 09 R274): a status. -/
def State.landBulk (s : State) (sg : SKey) (ac off : Nat) (bs : List Byte) : State × Nat :=
  if s.scrSize sg.blk < off + bs.length ∨ (look s.segs sg).isNone then (s, 0x0C)
  else
    let t := ((chunks 0 bs.length).foldl (fun t r => t.scrWrite sg (off + r.1) ((bs.drop r.1).take r.2) (r.1 / 16)) s).scrClean sg [(off, bs.length)]
    (t.onBlock sg.blk (fun b => { b with acs := b.acs.modify ac (fun x => { x with count := x.count + BitVec.ofNat 32 bs.length }) }), 0)

/-- The block of a running task by its BLOCKID. -/
def State.blockOf (s : State) (task bid : Nat) : Option Nat :=
  if (look s.tasks task).elim false (fun t => t.st == .running) then (s.blocks.find? (fun e => e.2.task == task && e.2.bid == bid)).map Prod.fst else none

/-! ### Requests at their home (15 R348; 09 R269) -/

/-- Status of an object that does not exist, for a request. -/
def goneStatus : PBody → Nat
  | .object _ (.enter ..) => 0x07
  | .object _ (.visit ..) => 0x07
  | .object .. => 2
  | _ => 0x07

/-- Sends a request on (15 R348, R351). -/
def State.sendOn (s : State) (p : Packet) (c : Nat) : State :=
  if s.validChip c then s.enqueue { p with dst := BitVec.ofNat 12 c, onward := true } else s.respond p (goneStatus p.body) 0 0 [] []

/-- A request's pointer rewritten by a split. -/
def retarget (p : Packet) (id off : Nat) : Packet :=
  let a : Dword := BitVec.ofNat 64 (flat id off)
  { p with
    hops := 0
    g := false
    epoch := 0
    body := match p.body with
      | .read _ n q => .read a n q
      | .write _ m x => .write a m x
      | .atomic _ r k y w => .atomic a r k y w
      | .monitor _ c n v y => .monitor a c n v y
      | .fetch _ n t b x k o => .fetch a n t b x k o
      | .object _ c => .object a c
      | b => b }

/-- Fault code of an access of a range of a resident object, 0 for none (06 R161). -/
def Desc.fault (d : Desc) (need : Need) (off n : Nat) : Nat :=
  if d.len < off + n then 0x08 else if (need.r && !attrR d.attrs) || (need.w && !attrW d.attrs) then 0x09 else 0

/-- What the kind of a READ needs of a frame: R of data, X of code (03 R62), nothing of a probe (06 R161). -/
def mayRead (k : AccessKind) (attrs : Word) : Bool :=
  match k with
  | .code => attrX attrs
  | .probe => true
  | _ => attrR attrs

/-- A READ at its home: a status, how many of the bytes asked for exist, the attributes there, and the bytes. A probe reads none. -/
def State.readHome (s : State) (p : Packet) (id off n : Nat) (kind : AccessKind) (d : Desc) : State :=
  let k := min n (d.len - off)
  let told := [BitVec.ofNat 32 k, d.attrs]
  let a := flat id off
  let secs := sectorsOf [(a, k)]
  if kind = .probe then s.respond p 0 id d.epoch told []
  else if k = 0 then s.respond p 0x08 id d.epoch told []
  else if !mayRead kind d.attrs then s.respond p 0x09 id d.epoch told []
  else
    let t := secs.foldl (fun t _ => t.countRemote id p.src.toNat) s
    if secs.any s.poisonedSector then t.respond p 0x15 id d.epoch told [] else t.respond p 0 id d.epoch told (s.bytesAt a k)

/-- A completion time as two words. -/
def timeWords (x : Nat) : List Word := [BitVec.ofNat 32 x, BitVec.ofNat 32 (x / 2 ^ 32)]

/-- A WRITE at its home: held for ENDED regions, else a non-region write of the bytes of its mask. A copy's may not go to a frame with X (07 R200). -/
def State.writeHome (s : State) (p : Packet) (port : BitVec 6) (id off : Nat) (mask : BitVec 128) (kind : AccessKind) (d : Desc) : State :=
  let at_ := (List.range 128).filter (fun i => mask.getLsbD i)
  let code := if at_.any (fun i => decide (d.len ≤ off + i)) then 0x08 else if attrW d.attrs && !(kind == .copy && attrX d.attrs) then 0 else 0x09
  let a := flat id off
  if code ≠ 0 then s.respond p code id d.epoch [] []
  else if s.lineHeld (a / 128) then { s with held := s.held ++ [{ line := a / 128, what := .packet port p }] }
  else
    let cells := at_.map (fun i => (a + i, p.payload.getD i 0))
    let t := (sectorsOf (cells.map (fun c => (c.1, 1)))).foldl (fun t _ => t.countRemote id p.src.toNat) (s.commitCells cells)
    t.respond p 0 id d.epoch (timeWords (s.gwctOf d (a / 128))) []

/-- An ATOMIC at its home: from another chip, and of RED and MDRAIN from any, only to a frame with M (06 R161, check 5; 07 R212, R220); it performs nothing on poisoned data (17 R400). -/
def State.atomicHome (s : State) (p : Packet) (port : BitVec 6) (id off : Nat) (r : Rmw) (kind : AccessKind) (ops : List Word) (d : Desc) : State :=
  let a := flat id off
  let found := d.fault ⟨true, true⟩ off r.bytes
  let code := if found = 0 ∧ (p.src.toNat ≠ s.chipId ∨ kind = .red) ∧ !attrM d.attrs then 0x09 else found
  if code ≠ 0 then s.respond p code id d.epoch [] []
  else if s.poisonedAt a then (s.countRemote id p.src.toNat).respond p 0x15 id d.epoch [] []
  else if s.lineHeld (a / 128) then { s with held := s.held ++ [{ line := a / 128, what := .packet port p }] }
  else
    let old := natLE (s.bytesAt a r.bytes)
    let t := (s.commitCells ((regs a r.bytes).zip (bytesLE r.bytes (rmwNew r old ops)))).countRemote id p.src.toNat
    t.respond p 0 id d.epoch (timeWords (s.gwctOf d (a / 128))) (bytesLE r.bytes old)

/-- A WAITC's monitor is set at its home: a value that satisfies answers at once, and so does a home with no monitor free (05 R143). -/
def State.monitorSet (s : State) (p : Packet) (id off : Nat) (c : Cond) (n32 : Bool) (v : Word) (d : Desc) : State :=
  let code := d.fault ⟨true, false⟩ off 4
  if code ≠ 0 then s.respond p code id d.epoch [] []
  else if wcompare c n32 (s.monitorRead id off) v then s.respond p 0 id d.epoch [1] []
  else if (s.homeOf id off).elim false s.monitorFree then s.onFab (fun f => { f with monitors := f.monitors ++ [p] })
  else s.respond p 0 id d.epoch [0] []

/-- A FETCH at its home: one BULK packet, or its fault (16 R386). -/
def State.fetchHome (s : State) (p : Packet) (id off n task block seg ac dst : Nat) (d : Desc) : State :=
  let code := d.fault ⟨true, false⟩ off n
  let a := flat id off
  if code ≠ 0 then s.respond p code id d.epoch [] []
  else
    let t := (sectorsOf [(a, n)]).foldl (fun t _ => t.countRemote id p.src.toNat) s
    if (sectorsOf [(a, n)]).any s.poisonedSector then t.respond p 0x15 id d.epoch [] []
    else t.enqueue { t.packet .bulk p.src.toNat (.bulk true task block seg ac dst) (s.bytesAt a n) with tag := p.tag, coded := s.objZ id }

/-- An operation of another chip runs on frames of an object here from now on, so that no cut-over begins (10 R292); the range that a scan will read is checked first (07 R215; 10 R297). -/
def State.enterHome (s : State) (p : Packet) (id off n : Nat) (d : Desc) : State :=
  let found := d.fault ⟨true, false⟩ off n
  let code := if n = 0 then 0 else if found = 0 ∧ !attrM d.attrs then 0x09 else found
  if code ≠ 0 then s.respond p code id d.epoch [] []
  else
    let r := s.newOp (.guest id) false
    (r.1.onOp r.2 (fun x => { x with task := 4096, asker := some p })).respond p 0 id d.epoch [] []

/-- A request by which the operation that another chip numbers o came to an object. -/
def isEntry (p : Packet) (src : BitVec 12) (o : Nat) : Bool :=
  p.src == src && (match p.body with | .object _ (.enter x _) => x == o | _ => false)

/-- An operation of another chip has ended. -/
def State.departHome (s : State) (p : Packet) (id o : Nat) (d : Desc) : State :=
  ({ s with ops := s.ops.filter (fun e => !(e.2.kind == OpKind.guest id && e.2.asker.elim false (fun q => isEntry q p.src o))) }).respond p 0 id d.epoch [] []

/-- The scan of a visit that another chip asks for, its elements numbered from the visit's first. -/
def visitScan (a n fmt : Nat) (topk : Bool) (op1 : Nat) (op2 : Option Nat) (args : List Word) : Scan :=
  { sg := ⟨0, 0⟩, topk := topk, src := a, count := n / scanBytes fmt, fmt := fmt, op1 := op1, op2 := op2, a1 := args.getD 0 0, b1 := args.getD 1 0, a2 := args.getD 2 0, b2 := args.getD 3 0
    cap := 0, k := 0, segs := 1, tile := none, dest := 0, rows := none, away := [], bufs := [], cands := [], nans := 0, written := 0 }

/-- The visit of a row for a scan of another chip (10 R295): the winnower of the channel evaluates the elements, and the candidates that its buffer takes go back, with the NaNs and the bytes read. With no room for those of one sector it waits for the buffer to drain. -/
def State.visitHome (s : State) (p : Packet) (port : BitVec 6) (id off n : Nat) (c : Scan) (d : Desc) : State :=
  let found := d.fault ⟨true, false⟩ off n
  let code := if found = 0 ∧ !attrM d.attrs then 0x09 else found
  let a := flat id off
  let row := rowOf d off
  if code ≠ 0 then s.respond p code id d.epoch [] []
  else
    let r := s.winnow (chanOf row) (a + n) 32 (Config.candidateBuffer - s.buffered (chanOf row)) c a
    if r.2.1 = a ∧ r.2.2 = 0 then s.arriveRow (.request port p row)
    else
      let t := (sectorsOf [(a, r.2.1 - a)]).foldl (fun t _ => t.countRemote id p.src.toNat) s
      if r.2.2 ≠ 0 then t.respond p r.2.2 id d.epoch [] []
      else t.respond p 0 id d.epoch [BitVec.ofNat 32 r.1.nans, BitVec.ofNat 32 (r.2.1 - a)] (pairBytes (r.1.bufs.map (fun e => (e.2.2.toNat, e.2.1))))

/-- A channel program that another chip sends: it waits here for a context, as those of this chip do (10 R299). -/
def State.programHome (s : State) (p : Packet) (id off rows : Nat) (ops : List (BitVec 16)) (lc : Word) (scalars : List Word) : State :=
  let r := s.newOp (.nbx (Nbx.start (flat id off) rows ops lc scalars)) false
  r.1.onOp r.2 (fun x => { x with task := 4096, asker := some p })

/-- A request is the program that another chip numbers o. -/
def isProgram (p : Packet) (src : BitVec 12) (o : Nat) : Bool :=
  p.src == src && (match p.body with | .object _ (.program x ..) => x == o | _ => false)

/-- Another chip's HCANCEL of a channel program that it sent here (10 R305). -/
def State.stopHome (s : State) (p : Packet) (id o : Nat) (d : Desc) : State :=
  ({ s with ops := s.ops.map (fun (e : Nat × Op) => if e.2.asker.elim false (fun q => isProgram q p.src o) then (e.1, { e.2 with cancel := true }) else e) }).respond p 0 id d.epoch [] []

/-- A request takes effect at the object's home. -/
def State.performNow (s : State) (p : Packet) (port : BitVec 6) (id off : Nat) (d : Desc) : State :=
  match p.body with
  | .read _ n x => s.readHome p id off n x.kind d
  | .write _ m x => s.writeHome p port id off m x.kind d
  | .atomic _ r k _ w => s.atomicHome p port id off r k w d
  | .monitor _ c n v _ => s.monitorSet p id off c n v d
  | .fetch _ n t b x k o => s.fetchHome p id off n t b x k o d
  | .object _ (.enter _ n) => s.enterHome p id off n d
  | .object _ (.depart o) => s.departHome p id o d
  | .object _ (.visit n fmt topk op1 op2 args) => s.visitHome p port id off n (visitScan (flat id off) n fmt topk op1 op2 args) d
  | .object _ (.program _ rows ops lc scalars) => s.programHome p id off rows ops lc scalars
  | .object _ (.stop o) => s.stopHome p id o d
  | .object _ c => s.objHere (.packet p) id c
  | _ => s

/-- Offset of the byte that a request names. -/
def bodyOff : PBody → Nat
  | .read p .. => ptrOff p.toNat
  | .write p .. => ptrOff p.toNat
  | .atomic p .. => ptrOff p.toNat
  | .monitor p .. => ptrOff p.toNat
  | .fetch p .. => ptrOff p.toNat
  | .object p _ => ptrOff p.toNat
  | _ => 0

/-- Requests that read or write bytes of the object's frames. -/
def throughChannel : PBody → Bool
  | .read _ _ x => x.kind != .probe
  | .monitor .. => true
  | .fetch .. => true
  | .write .. => true
  | .atomic .. => true
  | .object _ (.visit ..) => true
  | _ => false

/-- A request performs at the object's home: through the channel of its row where its frame has M (10 R287, R290). -/
def State.perform (s : State) (p : Packet) (port : BitVec 6) (id off : Nat) (d : Desc) : State :=
  if throughChannel p.body && attrM d.attrs && decide (off < d.len) then s.arriveRow (.request port p (rowOf d off)) else s.performNow p port id off d

/-- A request waits in the hold queue (15 R357). -/
def State.holdRequest (s : State) (p : Packet) : State := { s with hold := s.hold ++ [p] }

/-- A request reaches the chip where its object is resident: it is held through a cut-over, but for an OMOVE, which fails at once (15 R359), and an object command also while it has to wait. -/
def State.atHome (s : State) (p : Packet) (port : BitVec 6) (id off : Nat) (d : Desc) : State :=
  if 0 < d.left then (if p.hops = 7 then (s.performNow p port id off d).heldDone id else s.holdRequest p)
  else if d.closed then (match p.body with | .object _ (.move c) => s.objHere (.packet p) id (.move c) | _ => s.holdRequest p)
  else
    match p.body with
    | .object _ c => if s.objWaits id c then s.holdRequest p else s.perform p port id off d
    | _ => s.perform p port id off d

/-- A stub sends a request on, and is in use (15 R348, R353). -/
def State.followStub (s : State) (p : Packet) (id : Nat) (x : Stub) : State :=
  ({ s with stubs := put s.stubs id { x with used := s.ptime, confirming := false } }).sendOn { p with hops := p.hops + 1 } x.next

/-- Receive of 15 R348, a split rewriting the identifier here or at the granary (R360). A request that comes by the granary's word to the destination of a migration, before the source has told it to serve the object, waits for the held requests that come first (R357; DEDUCED, log entry 36). -/
def State.receive (s : State) (p : Packet) (port : BitVec 6) : Nat → Nat → Nat → State
  | 0, _, _ => s.respond p (goneStatus p.body) 0 0 [] []
  | n + 1, id, off =>
    match look s.objs id with
    | some d =>
      match d.split with
      | some (b, up) => if b ≤ off then State.receive s (retarget p up (off - b)) port n up (off - b) else s.atHome p port id off d
      | none => s.atHome p port id off d
    | none =>
      let gran := look s.granary id
      let here := birthOf id == s.chipId
      let stub := look s.stubs id
      let mine := (look s.incoming id).isSome && (gran.elim false (fun x => x.chip == s.chipId))
      if (look s.incoming id).isSome && stub.isNone && (p.g || (here && mine)) then s.holdRequest p
      else if here && p.o then
        match gran with
        | none => s.respond p (goneStatus p.body) 0 0 [] []
        | some x =>
          if x.st = 3 then s.respond p (goneStatus p.body) 0 0 [] []
          else if x.chip = p.reporter.toNat then (s.onGran id (fun x => { x with st := 3 })).respond p (goneStatus p.body) 0 0 [] []
          else s.sendOn { p with o := false } x.chip
      else if stub.elim false (fun x => p.g || (decide (p.hops.toNat < 4) && decide (p.epoch.toNat ≤ x.epoch))) then stub.elim s (s.followStub p id)
      else if here && !p.g then
        match gran with
        | none => s.respond p (goneStatus p.body) 0 0 [] []
        | some x =>
          if x.st = 3 then s.respond p (goneStatus p.body) 0 0 [] []
          else if x.st = 2 ∧ x.boundary ≤ off then State.receive s (retarget p x.upper (off - x.boundary)) port n x.upper (off - x.boundary)
          else s.sendOn { p with g := true } x.chip
      else if p.g then s.sendOn { p with o := true, reporter := BitVec.ofNat 12 s.chipId } (birthOf id)
      else (s.respond p notHere id 0 [] []).sendOn p (birthOf id)

/-- An OBJECT packet: a granary's or a destination's own requests are answered where they arrive, that an invalidation begins once no tile here uses the object; the rest are routed. -/
def State.receiveObject (s : State) (p : Packet) (port : BitVec 6) (ptr : Dword) (c : ObjCmd) : State :=
  let id := ptrId ptr.toNat
  if routed c then s.receive p port splitFuel id (ptrOff ptr.toNat)
  else
    match c with
    | .revoke end_ => s.noteRevoke id end_ p
    | _ =>
    match s.granAsk p.src.toNat id c with
    | some (t, st, vals) => t.respond p st 0 0 vals []
    | none =>
      match s.destAsk id c with
      | some (t, st) => t.respond p st 0 0 [] []
      | none => s

/-- A request or a host's access goes to the object it names. -/
def State.receiveRequest (s : State) (p : Packet) (port : BitVec 6) : State :=
  match p.body with
  | .object ptr c => s.receiveObject p port ptr c
  | b =>
    match b with
    | .read a .. | .write a .. | .atomic a .. | .monitor a .. | .fetch a .. => s.receive p port splitFuel (ptrId a.toNat) (ptrOff a.toNat)
    | _ => s

/-! ### Arrival (16 R375, R380, R393) -/

/-- The plan id of a packet is the live or the staged one. -/
def Fabric.planOk (f : Fabric) (p : Packet) : Bool := f.live.elim false (fun t => t.plan == p.plan) || f.staged.elim false (fun t => t.plan == p.plan)

/-- A control packet for the neighbour on a port. -/
def State.onPort (s : State) (type : PacketType) (port : Nat) (b : PBody) : Packet := { s.packet type 0 b [] with tag := BitVec.ofNat 24 port }

/-- Flit credits go back to the neighbour (16 R380). -/
def State.giveCredit (s : State) (port : BitVec 6) (p : Packet) : State :=
  s.enqueue (s.onPort .credit port.toNat (.credit (vcOf p.type) (if p.lane then 1 else 0) (flitsOf p) true))

/-- A port that has no credits gets its first ones as its link locks: the buffers of each virtual channel and lane (16 R380 does not say how many; DESIGN CHOICE, log entry 25). -/
def State.firstCredits (s : State) (port : Nat) : State :=
  [(1, 0), (1, 1), (2, 0), (2, 1), (3, 0), (3, 1)].foldl (fun t e => t.enqueue (t.onPort .credit port (.credit e.1 e.2 (65 + Config.portBuffer e.1 e.2) false))) s

/-- Packets held for an earlier number are delivered next, in the order of their numbers, before anything that has come since (16 R375). -/
def State.drainEarly (s : State) (src vc : Nat) : Nat → State
  | 0 => s
  | n + 1 =>
    let want := (look s.fab.ordIn (src, vc)).getD 0
    match s.fab.early.find? (fun p => p.src.toNat == src && vcOf p.type == vc && p.ord.toNat == want) with
    | none => s
    | some p =>
      let t := State.drainEarly (s.onFab (fun f => { f with early := f.early.erase p, ordIn := put f.ordIn (src, vc) ((want + 1) % 65536) })) src vc n
      { t with agenda := (packetStep p.type, .again p) :: t.agenda }

/-- A packet for this chip takes its place in the order of its source and channel: its turn has come, it waits for an earlier one, or it has come before, by a port that failed since (16 R375; 17 R401). -/
def State.inTurn (s : State) (port : BitVec 6) (p : Packet) (run : State → BitVec 6 → Packet → State) : State :=
  if vcOf p.type = 3 ∨ p.onward then run s port p
  else
    let key := (p.src.toNat, vcOf p.type)
    let want := (look s.fab.ordIn key).getD 0
    if p.ord.toNat = want then
      (run (s.onFab (fun f => { f with ordIn := put f.ordIn key ((want + 1) % 65536) })) port p).drainEarly key.1 key.2 s.fab.early.length
    else if 32768 ≤ (p.ord.toNat + 65536 - want) % 65536 then s
    else s.onFab (fun f => { f with early := f.early ++ [p] })

/-- The hold queue has no place for a request that needs one: the request waits in the request channel, with what came before it as it was (15 R358). -/
def State.orWait (s : State) (at_ : Option (BitVec 6)) (p : Packet) (t : State) : State :=
  if vcOf p.type = 2 ∧ Config.holdQueue < t.hold.length then s.onFab (fun f => { f with waiting := f.waiting ++ [(at_, p)] }) else t

/-- A request may not pass one that waits in the request channel of its port, or one of its own source. -/
def State.behindWaiting (s : State) (port : Option (BitVec 6)) (p : Packet) : Bool :=
  vcOf p.type == 2 && s.fab.waiting.any (fun e => (e.1.isSome && e.1 == port) || e.2.src == p.src)

/-- A packet that the port has taken is sent on in transit, or delivered in its turn; its buffers go back to the neighbour. -/
def State.takePacket (s : State) (port : BitVec 6) (p : Packet) (run : State → BitVec 6 → Packet → State) : State :=
  let t := s.giveCredit port p
  if p.dst.toNat ≠ s.chipId then t.enqueue p else t.inTurn port p run

/-- A packet of a type has come whole: it is discarded for a PLAN that is neither the live nor the staged one (16 R393; a SYNC flit presents its plan id to FBRELOCK), or taken. -/
def State.packetCame (s : State) (type : PacketType) (port : BitVec 6) (p : Packet) (run : State → BitVec 6 → Packet → State) : State :=
  if type ≠ .sync ∧ !s.fab.planOk p then s.onFab (fun f => { f with discarded := f.discarded + 1 })
  else if vcOf type = 0 then run s port p
  else if s.behindWaiting (some port) p then s.onFab (fun f => { f with waiting := f.waiting ++ [(some port, p)] })
  else s.orWait (some port) p (s.takePacket port p run)

/-- A packet comes with the number that its port sends next; one that has come before is dropped, and after a gap every packet of the port is, until the replay that is asked for (17 R401). SYNC flits have no number. -/
def State.inLink (s : State) (port : BitVec 6) (type : PacketType) (link : Nat) (next : State → State) : State :=
  let want := (look s.fab.linkIn port.toNat).getD 0
  if type = .sync then next s
  else if link = want then next (s.onFab (fun f => { f with linkIn := put f.linkIn port.toNat (want + 1), asks := without f.asks port.toNat }))
  else if link < want then s
  else s.onFab (fun f => { f with asks := addTo f.asks port.toNat })

/-- A packet of a type arrives, read already or as it comes from the fibre: one with a wrong CRC is discarded and asked for again (17 R401), one with a reserved bit or TYPE is discarded (16 R378, R379). -/
def State.packetIn (s : State) (type : PacketType) (run : State → BitVec 6 → Packet → State) : State :=
  match s.arg with
  | .again p =>
    if p.type ≠ type then s
    else if s.behindWaiting none p then s.onFab (fun f => { f with waiting := f.waiting ++ [(none, p)] })
    else s.orWait none p (run s 0 p)
  | .packet port p => if p.type = type then s.inLink port type p.link (fun t => t.packetCame type port p run) else s
  | .wire port w =>
    match readWire w with
    | .bad => s.onFab (fun f => { f with asks := addTo f.asks port.toNat })
    | .discard => s.inLink port type w.link (fun t => t)
    | .good p => if p.type = type then s.inLink port type p.link (fun t => t.packetCame type port p run) else s
  | _ => s

/-- The earliest request that waits in the request channel is taken where the hold queue has room again. -/
def State.retryWaiting (s : State) : State :=
  match s.fab.waiting with
  | [] => s
  | (port, p) :: rest =>
    let s0 := s.onFab (fun f => { f with waiting := rest })
    let run := fun (t : State) (q : BitVec 6) (x : Packet) => t.receiveRequest x q
    let t := match port with
      | some q => s0.takePacket q p run
      | none => run s0 0 p
    if Config.holdQueue < t.hold.length then s else t

/-- READ. -/
def execReadPacket (s : State) : Out := .next (s.packetIn .read (fun t port p => t.receiveRequest p port))
/-- WRITE. -/
def execWritePacket (s : State) : Out := .next (s.packetIn .write (fun t port p => t.receiveRequest p port))
/-- ATOMIC, and the setting of a WAITC monitor. -/
def execAtomicPacket (s : State) : Out := .next (s.packetIn .atomic (fun t port p => t.receiveRequest p port))
/-- FETCH. -/
def execFetchPacket (s : State) : Out := .next (s.packetIn .fetch (fun t port p => t.receiveRequest p port))
/-- OBJECT. -/
def execObjectPacket (s : State) : Out := .next (s.packetIn .object (fun t port p => t.receiveRequest p port))

/-- What an answer completes. -/
def State.finishReply (s : State) (r : Reply) (status id : Nat) (coded : Bool) (vals : List Word) (data : List Byte) : State :=
  match r with
  | .part t n lo => s.partReply t n lo status vals data
  | .transfer o => s.transferAck o status
  | .wait w => s.waitReply w status vals data
  | .engineRead o a n => s.engineGot o a n status coded vals data
  | .visit o a => s.scanGot o a status vals data
  | .engineWrite o => s.engineAck o status vals
  | .far w a => s.farGot w a status data
  | .amax sg => s.onSeg sg (fun y => { y with gmx := match y.gmx with | (pc, .amax p x w _ b) :: l => (pc, .amax p x w (some status) b) :: l | l => l })
  | _ => s.objReply r id status vals

/-- A RESPONSE: "not here" removes a locator entry and leaves the request outstanding; any other frees the request's slot. -/
def State.response (s : State) (p : Packet) : State :=
  match p.body with
  | .response st id chip epoch vals =>
    if st.toNat = notHere then { s with locator := del s.locator id }
    else
      match s.takeReply p.tag.toNat false with
      | none => s
      | some (r, t) => (t.locate? id chip epoch).finishReply r st.toNat id p.coded vals p.payload
  | _ => s

/-- RESPONSE. -/
def execResponsePacket (s : State) : Out := .next (s.packetIn .response (fun t _ p => t.response p))

/-- A BULK packet of RSEND reaches its block; its acknowledgement carries the status. -/
def State.bulkSent (s : State) (p : Packet) (task block seg ac off : Nat) : State :=
  let r := match s.blockOf task block with
    | none => (s, 0x07)
    | some b => s.landBulk ⟨b, seg⟩ ac off p.payload
  r.1.enqueue { r.1.packet .bulkAck p.src.toNat (.ack (BitVec.ofNat 32 r.2)) [] with tag := p.tag }

/-- A BULK packet that answers a FETCH. -/
def State.bulkFetched (s : State) (p : Packet) (ac off : Nat) : State :=
  match s.takeReply p.tag.toNat false with
  | some (.transfer o, t) =>
    match look t.ops o with
    | none => t
    | some op =>
      match op.kind with
      | .transfer x =>
        if op.st = .pending then
          let r := t.landBulk x.sg ac off p.payload
          r.1.transferAck o r.2
        else t.transferAck o 0
      | _ => t
  | some (_, t) => t
  | none => s

/-- BULK. -/
def execBulkPacket (s : State) : Out :=
  .next (s.packetIn .bulk (fun t _ p =>
    match p.body with
    | .bulk false task block seg ac off => t.bulkSent p task block seg ac off
    | .bulk true _ _ _ ac off => t.bulkFetched p ac off
    | .migration id off _ po =>
      let st := t.rowStatus id
      let u := t.landRow id off po p.payload
      u.enqueue { u.packet .bulkAck p.src.toNat (.ack (BitVec.ofNat 32 st)) [] with tag := p.tag }
    | _ => t))

/-- BULK_ACK. -/
def execBulkAck (s : State) : Out :=
  .next (s.packetIn .bulkAck (fun t _ p =>
    match p.body with
    | .ack st => (t.takeReply p.tag.toNat true).elim t (fun r => r.2.finishReply r.1 st.toNat 0 false [] [])
    | _ => t))

/-- A port's packets kept for replay, once the neighbour has taken one of a channel: it has taken the control flits sent before that too. DEDUCED, log entry 25. -/
def confirmed (port vc : Nat) : List (Nat × Packet) → List (Nat × Packet)
  | [] => []
  | e :: r =>
    if e.1 ≠ port then e :: confirmed port vc r
    else if vcOf e.2.type = vc then r
    else if vcOf e.2.type = 0 then confirmed port vc r
    else e :: confirmed port vc r

/-- CREDIT: flit credits come, a port's first ones or those of a packet, which is then confirmed: the earliest kept for replay on the port and channel. -/
def execCredit (s : State) : Out :=
  .next (s.packetIn .credit (fun t port p =>
    match p.body with
    | .credit vc lane n true => t.onFab (fun f => { f with
        credits := bump f.credits (port.toNat, vc, lane) n
        replay := confirmed port.toNat vc f.replay
        fails := del f.fails port.toNat })
    | .credit vc lane n false => t.onFab (fun f => { f with credits := bump f.credits (port.toNat, vc, lane) n })
    | _ => t))

/-- MARKER: a neighbour's marker goes back at once; one of this chip's has returned. -/
def execMarker (s : State) : Out :=
  .next (s.packetIn .marker (fun t port p =>
    match p.body with
    | .marker false => t.enqueue (t.onPort .marker port.toNat (.marker true))
    | .marker true => t.onFab (fun f => { f with markers := without f.markers port.toNat })
    | _ => t))

/-! ### The fabric controller (16 R388 to R392) -/

/-- The future that waits for the controller resolves. -/
def State.endControl (s : State) (st : OpState) : State := (s.fab.ops.foldl (fun t o => t.resolve o st) s).onFab (fun f => { f with ops := [] })

/-- A port of the mask fails: LOCKFAIL with the count of the ports that failed. -/
def State.lockFail (s : State) (n : Nat) : State := ((s.onFab (fun f => { f with relock := none, failPorts := n })).setFab .lockfail).endControl (.failed 0x0A false)

/-- A set of chips. -/
def chipSet (l : List Nat) : BitVec 4096 := l.foldl (fun m c => m ||| (1#4096 <<< c)) 0

/-- The chips of a table's group. -/
def groupOf (t : Option Table) : BitVec 4096 := chipSet (t.elim [] (fun x => x.entries.map Prod.fst))

/-- One set of chips holds another. -/
def covers (a b : BitVec 4096) : Bool := (b &&& ~~~a) == 0

/-- A port has no flit credits. -/
def Fabric.bare (f : Fabric) (port : Nat) : Bool := !f.credits.any (fun e => e.1.1 == port)

/-- Sends SYNC flits on the ports of a mask: the plan id, the largest pod time this chip has seen, the chips whose times it covers, and those that have stepped to the largest of all. -/
def State.sendSync (s : State) (mask : BitVec 64) (plan : BitVec 16) (time : Nat) (known moved : BitVec 4096) : State :=
  (portList mask).foldl (fun t port => t.enqueue (t.onPort .sync port (.sync plan (BitVec.ofNat 64 time) (t.fab.bare port) known moved))) s

/-- Sends what an FBRELOCK under way knows. -/
def State.tellSync (s : State) (r : Relock) (mask : BitVec 64) : State := s.sendSync mask r.plan (s.ptime + r.lead) r.known r.moved

/-- Ports of a table that are locked. -/
def State.portsOf (s : State) (t : Table) : BitVec 64 := (t.entries.foldl (fun m e => m ||| e.2) 0) &&& s.fab.locked

/-- Pod time moves forward. -/
def State.forward (s : State) (n : Nat) : State := { s with ptimeOff := s.ptimeOff + n }

/-- A SYNC flit comes while no FBRELOCK is under way, with the plan id of the table that this chip routes by. A port of it that is not locked locks, as after the bring-up (17 R411; 16 R372); a larger pod time moves this chip's forward and goes on to its other ports; and a chip that does not know of every other is told (16 R391; DEDUCED, log entry 22). -/
def State.lateSync (s : State) (port : Nat) (plan : BitVec 16) (time : Nat) (fresh : Bool) (known moved : BitVec 4096) : State :=
  match s.fab.table with
  | none => s
  | some x =>
    let bit := 1#64 <<< port
    let new := s.fab.st == .opened && !s.fab.locked.getLsbD port
    if x.plan ≠ plan ∨ !x.entries.any (fun e => e.2.getLsbD port) ∨ (!new && !s.fab.locked.getLsbD port) then s
    else
      let all := groupOf (some x)
      let t := (s.forward (time - s.ptime)).onFab (fun f => { f with locked := f.locked ||| bit })
      let t := if new && fresh then t.firstCredits port else t
      let t := if s.ptime < time then t.sendSync (t.portsOf x &&& ~~~bit) plan t.ptime all all else t
      if new || !covers known all || !covers moved all then t.sendSync bit plan t.ptime all all else t

/-- The largest pod time of the group is known, since every chip of it is covered: this chip's count moves forward to it (16 R391). -/
def State.tryStep (s : State) : State :=
  match s.fab.relock with
  | none => s
  | some r =>
    let self := chipSet [s.chipId]
    if r.done = r.mask ∧ covers r.known (groupOf s.fab.staged) ∧ (0 < r.lead ∨ !covers r.moved self) then
      let r' := { r with lead := 0, moved := r.moved ||| self }
      let t := (s.forward r.lead).onFab (fun f => { f with relock := some r' })
      t.tellSync r' r.mask
    else s

/-- A port of the mask has presented the plan id of the FBRELOCK and what its peer knows: it is locked, and what is new goes on to every port of the mask. -/
def State.relockSync (s : State) (r : Relock) (port time : Nat) (fresh : Bool) (known moved : BitVec 4096) : State :=
  let bit := 1#64 <<< port
  let new := !r.done.getLsbD port
  let r' := { r with done := r.done ||| bit, lead := max r.lead (time - s.ptime), known := r.known ||| known, moved := r.moved ||| moved }
  let t := s.onFab (fun f => { f with locked := f.locked ||| bit, relock := some r' })
  let t := if new && fresh then t.firstCredits port else t
  let rose := r'.lead != r.lead || r'.known != r.known || r'.moved != r.moved
  (if rose then t.tellSync r' r.mask else if new then t.tellSync r' bit else t).tryStep

/-- SYNC: a port presents its plan id and the largest pod time its chip has seen, corrected by the link's delay; another plan id fails the port, what is larger is relayed (16 R391). -/
def execSyncFlit (s : State) : Out :=
  .next (s.packetIn .sync (fun t port p =>
    match p.body, t.fab.relock with
    | .sync plan time fresh known moved, none => t.lateSync port.toNat plan time.toNat fresh known moved
    | .sync plan time fresh known moved, some r =>
      if t.fab.st ≠ .locking ∨ !r.mask.getLsbD port.toNat then t
      else if plan ≠ r.plan then t.lockFail 1
      else t.relockSync r port.toNat time.toNat fresh known moved
    | _, _ => t))

/-- Every port of the mask has locked, the times of every chip of the group are covered, and every chip has stepped to the largest (16 R391). -/
def Fabric.agreed (f : Fabric) (r : Relock) : Bool := r.done == r.mask && covers r.known (groupOf f.staged) && covers r.moved (groupOf f.staged)

/-- RELOCK_COMPLETE: every port of the mask is locked and every chip's pod time has come to the largest of the group. -/
def execRelockComplete (s : State) : Out :=
  .next (match s.fab.relock with
    | some r =>
      if s.fab.st = .locking ∧ s.fab.agreed r then ((s.onFab (fun f => { f with relock := none, failPorts := 0 })).setFab .locked).endControl .done
      else s
    | none => s)

/-- LOCK_TIMEOUT: ports that have not locked within 1 ms fail. -/
def execLockTimeout (s : State) : Out :=
  .next (match s.fab.relock with
    | some r => if s.fab.st = .locking ∧ r.done ≠ r.mask ∧ r.deadline ≤ s.ptime then s.lockFail (portList (r.mask &&& ~~~r.done)).length else s
    | none => s)

/-- A monitor that this chip has set elsewhere, its WAITC ended or not: its answer may come after the drain (16 R392). -/
def State.monitorReply (s : State) (r : Reply) : Bool :=
  match r with
  | .lapsed m => m
  | .wait w => (match s.agentWait w with | .waitc x => x.monitor | _ => false)
  | _ => false

/-- A request or a bulk packet that has left and has no answer. -/
def State.unanswered (s : State) : Bool :=
  s.fab.replies.any (fun r => r.2.1 != s.chipId && !s.monitorReply r.2.2 && !s.fab.queue.any (fun e => e.2.tag.toNat == r.1 && s.ownNew e.2))

/-- The conditions of 16 R389, and no cut-over under way (15 R359). -/
def State.drainOver (s : State) : Bool :=
  s.fab.st == .draining && s.fab.markers.isEmpty && !s.unanswered && !s.objs.any (fun e => e.2.mig.elim false (fun m => m.cutting)) && s.incoming.isEmpty

/-- FBDRAIN_DONE. -/
def execFbdrainDone (s : State) : Out := .next (if s.drainOver then (s.setFab .drained).endControl .done else s)

/-- The fabric-control grant of the issuing task (07 R221; 14 R320). -/
def State.grantExc (s : State) : Option Exc :=
  excIf (!((look s.tasks (s.taskOf s.curBlk)).elim false (fun t => (t.p.getD 6 0).getLsbD 3))) (.of .priv)

/-- A destination reached only through kept ports keeps its allowances. -/
def Fabric.kept (f : Fabric) (keep : BitVec 64) (dst : Nat) : Bool := f.live.elim false (fun t => (look t.entries dst).elim false (fun ports => (ports &&& ~~~keep) == 0))

/-- FBDRAIN applies: no new request leaves, a MARKER goes out on every locked port, migrations that have not begun to cut over are abandoned (16 R389). -/
def State.beginDrain (s : State) (o : Nat) : State :=
  let ports := portList s.fab.locked
  let u := (s.onFab (fun f => { f with markers := ports, ops := [o] })).setFab .draining
  (ports.foldl (fun v port => v.enqueue (v.onPort .marker port (.marker false))) u).drainMigrations

/-- FBDARK applies (16 R390): the credits of other ports and the allowances at destinations that they lead to are returned; what is still unanswered there holds no slot any more. -/
def State.goDark (s : State) (o : Nat) (keep : BitVec 64) : State :=
  ((s.onFab (fun f => { f with
    keep := keep
    credits := f.credits.filter (fun e => keep.getLsbD e.1.1)
    slots := f.slots.filter (fun e => f.kept keep e.1)
    bulk := f.bulk.filter (fun e => f.kept keep e.1)
    unslotted := f.unslotted ++ (f.replies.filter (fun r => r.2.1 != s.chipId && !f.kept keep r.2.1)).map Prod.fst
    ordOut := f.ordOut.filter (fun e => f.kept keep e.1.1)
    ordIn := f.ordIn.filter (fun e => f.kept keep e.1.1) })).setFab .dark).resolve o .done

/-- FBRELOCK applies: SYNC flits go out on every port of the mask. A port of the mask, or one that KEEP left out, is not locked until it has exchanged plan ids (DEDUCED, log entry 22); the link of a port of the mask that was not kept locked starts anew. -/
def State.beginRelock (s : State) (o : Nat) (mask : BitVec 64) (plan : BitVec 16) : State :=
  let anew := mask &&& ~~~(s.fab.locked &&& s.fab.keep)
  let r : Relock := { mask := mask, done := 0, plan := plan, deadline := s.ptime + 1000000, lead := 0, known := chipSet [s.chipId], moved := 0 }
  let t := (s.onFab (fun f => { f with
    locked := f.locked &&& f.keep &&& ~~~mask
    linkOut := f.linkOut.filter (fun e => !anew.getLsbD e.1)
    linkIn := f.linkIn.filter (fun e => !anew.getLsbD e.1)
    asks := f.asks.filter (fun e => !anew.getLsbD e)
    relock := some r
    ops := [o] })).setFab .locking
  (t.tellSync r mask).tryStep

/-- The home of a monitor that this chip has set: the chip that the locator cache names for its identifier, else the one its request went to. DEDUCED, log entry 26. -/
def State.monitorHome (s : State) (e : Nat × Nat × Reply) : Option Nat :=
  match e.2.2 with
  | .wait w =>
    match s.agentWait w with
    | .waitc x => if x.monitor then some ((look s.locator x.id).elim e.2.1 Prod.fst) else none
    | _ => none
  | _ => none

/-- A request of this chip's own still waits to leave. -/
def State.unsent (s : State) (tag : Nat) : Bool := s.fab.queue.any (fun e => e.2.tag.toNat == tag && s.ownNew e.2)

/-- A monitor at a chip that the new table leaves out is dropped: its WAITC resumes with 0, and no wake will come for it (16 R392). -/
def State.dropMonitor (s : State) (e : Nat × Nat × Reply) : State :=
  match e.2.2 with
  | .wait w =>
    match s.agentWait w with
    | .waitc x => (s.endWaitc w x 0).onFab (fun f => { f with replies := f.replies.filter (fun r => !(r.1 == e.1 && r.2.2 == .lapsed true)) })
    | _ => s
  | _ => s

/-- A held request or bulk packet for a chip that is not VALID ends: OBJ_NONE for an access, 0x0A for a transfer (16 R392, R385). -/
def State.dropHeld (s : State) (e : Nat × Packet) : State :=
  let t := s.onFab (fun f => { f with queue := f.queue.erase e })
  match t.fab.replies.find? (fun r => r.1 == e.2.tag.toNat) with
  | none => t
  | some r =>
    let u := t.onFab (fun f => { f with replies := f.replies.erase r })
    match r.2.2 with
    | .transfer o => u.transferAck o 0x0A
    | x => u.finishReply x (goneStatus e.2.body) 0 false [] []

/-- The step of FBOPEN (16 R392). -/
def State.openFabric (s : State) : State :=
  let valid := fun (c : Nat) => c == s.chipId || s.fab.staged.elim false (fun t => (look t.entries c).isSome)
  let t := { s with locator := s.locator.filter (fun e => valid e.2.1) }.onFab (fun f => { f with
    live := f.staged
    staged := none
    slots := f.slots.filter (fun e => valid e.1)
    bulk := f.bulk.filter (fun e => valid e.1)
    ordOut := f.ordOut.filter (fun e => valid e.1.1)
    ordIn := f.ordIn.filter (fun e => valid e.1.1)
    monitors := f.monitors.filter (fun p => valid p.src.toNat) })
  let t := { t with
    ops := t.ops.filter (fun e => match e.2.kind with | .guest _ => e.2.asker.elim true (fun p => valid p.src.toNat) | _ => true)
    revokes := t.revokes.filter (fun e => valid (birthOf e.1)) }
  let t := (s.fab.replies.filter (fun e => !s.unsent e.1 && (s.monitorHome e).elim false (fun c => !valid c))).foldl State.dropMonitor t
  let t := (t.fab.queue.filter (fun e => !valid e.2.dst.toNat && t.ownNew e.2)).foldl State.dropHeld t
  t.setFab .opened

/-! ### Commands in the order they reach the controller (16 R388) -/

/-- A future command in a state that does not allow it: CODE 0x14 (07 R221). -/
def State.refuseControl (s : State) (o : Nat) : State := s.resolve o (.failed 0x14 false)

/-- A command is applied in the controller's state. -/
def State.applyCmd (s : State) : FabCmd → State
  | .counted _ => s
  | .drain o => if s.fab.st = .opened then s.beginDrain o else s.refuseControl o
  | .dark o keep => if s.fab.st = .drained then s.goDark o keep else s.refuseControl o
  | .relock o mask plan => if (s.fab.st = .dark ∨ s.fab.st = .lockfail) ∧ s.fab.staged.elim false (fun x => x.plan == plan) then s.beginRelock o mask plan else s.refuseControl o
  | .opening o => if s.fab.st = .locked then s.openFabric.resolve o .done else s.refuseControl o

/-- The controller applies what it has, one command after the other; FBSTAT and FBPLAN are applied by RESPONSE_RETURN. -/
def State.runControl : Nat → State → State
  | 0, s => s
  | n + 1, s =>
    match s.fab.cmds with
    | [] => s
    | .counted t :: rest => if (s.txn? t).isSome then s else State.runControl n (s.onFab (fun f => { f with cmds := rest }))
    | c :: rest => State.runControl n ((s.onFab (fun f => { f with cmds := rest })).applyCmd c)

/-- A command reaches the controller. -/
def State.toControl (s : State) (c : FabCmd) : State := State.runControl (s.fab.cmds.length + 1) (s.onFab (fun f => { f with cmds := f.cmds ++ [c] }))

/-- A counted command may be applied: no earlier one is left at the controller. -/
def State.controlTurn (s : State) (n : Nat) : Bool := (s.fab.cmds.takeWhile (fun c => c != .counted n)).all (fun c => match c with | .counted t => (s.txn? t).isNone | _ => false)

/-- A counted command has been applied: the controller goes on behind it. -/
def State.controlDone (s : State) (n : Nat) : State :=
  let rest := (s.fab.cmds.dropWhile (fun c => c != .counted n)).drop 1
  if s.fab.cmds.contains (.counted n) && (s.txn? n).isNone then State.runControl rest.length (s.onFab (fun f => { f with cmds := rest })) else s

/-- A fabric-control future. -/
def control (s : State) (m : Bool) (k : BitVec 4) (names : List Nat) (own : List (Option Exc)) (c : Nat → FabCmd) : Out :=
  future s m .any k names (s.grantExc :: own) (fun _ => .fabric) (fun t o => t.toControl (c o))

/-- A counted command of the fabric controller, which takes its place behind those that have reached it. -/
def State.openControl (s : State) (m : Bool) (gd : Nat) (c : Counted) : State :=
  if s.entryFree then
    (s.openTxn m 8 (.command gd c) [] [] (fun u => (resultRegs c).foldl (fun v r => v.pendU (gd + r) 1) u)).onFab (fun f => { f with cmds := f.cmds ++ [.counted s.nextTxn] })
  else s

/-- FBDRAIN. -/
def execFbdrain (m : Bool) (k : BitVec 4) (s : State) : Out := control s m k [] [] .drain

/-- FBDARK. -/
def execFbdark (m : Bool) (k : BitVec 4) (ga : BitVec 9) (s : State) : Out :=
  let P := s.block ga.toNat
  control s m k (regs ga.toNat 16) [blockExc (zeros P (regs 2 14))] (fun o => .dark o (BitVec.ofNat 64 (pd P 0)))

/-- FBRELOCK. -/
def execFbrelock (m : Bool) (k : BitVec 4) (ga : BitVec 9) (s : State) : Out :=
  let P := s.block ga.toNat
  control s m k (regs ga.toNat 16) [blockExc ((2, decide (65536 ≤ pw P 2)) :: zeros P (regs 3 13))] (fun o => .relock o (BitVec.ofNat 64 (pd P 0)) (BitVec.ofNat 16 (pw P 2)))

/-- FBOPEN. -/
def execFbopen (m : Bool) (k : BitVec 4) (s : State) : Out := control s m k [] [] .opening

/-- FBSTAT: its registers are written when its response returns. -/
def execFbstat (m : Bool) (gd : BitVec 9) (s : State) : Out :=
  uniJump s .any true ((resultRegs .fbstat).map (gd.toNat + ·)) [] [] (fun t => t.openControl m gd.toNat .fbstat)

/-- FBPLAN: an operation of its own gathers the table's bytes. -/
def execFbplan (m : Bool) (gd ga : BitVec 9) (s : State) : Out :=
  let P := s.block ga.toNat
  let ptr := pd P 2
  let names := regs ga.toNat 16
  uniJump s .any true (gd.toNat :: names) names
    [s.grantExc, blockExc ([(0, decide (65536 ≤ pw P 0)), (1, pw P 1 != 0)] ++ zeros P (regs 4 12)), s.ptrExc ptr]
    (fun t =>
      if t.entryFree then
        let r := t.newOp .fabric false
        r.1.openControl m gd.toNat (.fbplan (P.getD 0 0) ptr r.2)
      else t)

/-- FBPLAN's table replaces the staged one: status 0, or 4 for a table that breaks R373, another PLAN or another SELF. -/
def State.stage (s : State) (plan : Word) (bs : List Byte) : State × Nat :=
  match parseTable bs with
  | none => (s, 4)
  | some t => if t.plan.toNat ≠ plan.toNat ∨ t.self ≠ s.chipId then (s, 4) else (s.onFab (fun f => { f with staged := some t }), 0)

/-- FBPLAN performs: it reads the table, or asks other chips for it. -/
def State.runFbplan (s : State) (n : Nat) (plan : Word) (ptr o : Nat) : State :=
  match s.txn? n, look s.ops o with
  | some t, some op =>
    let fail := fun (c : Nat) => (((s.onTxn n (fun x => { x with faults := [(codeOf c, uniLane)] })).destLose t.who (match t.kind with | .command gd _ => .g gd | _ => .none) 1 uniLane).resolve o .done).partDone n 0
    if s.fab.st = .locking then (s.resolve o .done).endCommand n 3 []
    else if s.stuckAt ptr then s
    else if 2 ^ 34 < ptrOff ptr + tableBytes then fail (if s.route splitFuel (ptrId ptr) 0 = .gone then 0x07 else 0x08)
    else
      match s.readAll op (chunks ptr tableBytes) with
      | none => s.eAsk o (chunks ptr tableBytes)
      | some (xs, 0) =>
        let r := (s.eCount [(ptr, tableBytes)]).stage plan xs.flatten
        (r.1.resolve o .done).endCommand n r.2 []
      | some (_, c) => fail c
  | _, _ => s

/-! ### RSEND and RFETCH -/

/-- RSEND. -/
def execRsend (m : Bool) (k : BitVec 4) (ga : BitVec 9) (s : State) : Out :=
  let P := s.block ga.toNat
  let scr := pf P 0 31 30 == 1
  let src := if scr then pw P 2 else pd P 2
  let bad := [(0, decide (1 < pf P 0 31 30) || pf P 0 25 0 != 0), (1, pw P 1 != 0), (3, scr && pw P 3 != 0), (4, pw P 4 == 0 || decide (2 ^ 24 < pw P 4)),
    (5, decide (4096 ≤ pw P 5)), (6, decide (4096 ≤ pw P 6)), (9, decide (4 ≤ pw P 9))] ++ zeros P (regs 10 6)
  let t : Transfer := { fetch := false, sg := s.curSeg, scratch := scr, addr := src, bytes := pw P 4, chip := pw P 5, task := pw P 6, block := pw P 7, seg := pw P 9
                        ac := pf P 0 29 26, offset := pw P 8, sentTo := 0, waiting := 0 }
  future s m .any k (regs ga.toNat 16)
    [blockExc bad, excIf (scr && decide (s.scrSize s.curBlk < src + pw P 4)) (.of .scrRange), excIf (!s.validChip (pw P 5) || (!scr && s.unreachable (ptrId src))) (.of .unreachable)]
    (fun _ => .transfer t) (fun u _ => u)

/-- RFETCH. DEDUCED, log entry 29. -/
def execRfetch (m : Bool) (k : BitVec 4) (ga : BitVec 9) (s : State) : Out :=
  let P := s.block ga.toNat
  let bad := [(0, pf P 0 31 30 != 1 || pf P 0 25 0 != 0)] ++ zeros P [1, 2, 3] ++ [(4, pw P 4 == 0 || decide (2 ^ 24 < pw P 4))] ++ zeros P [5] ++ [(6, pf P 6 31 12 != 0), (9, pf P 9 31 2 != 0)] ++ zeros P [12, 13, 14, 15]
  let t : Transfer := { fetch := true, sg := s.curSeg, scratch := true, addr := pd P 10, bytes := pw P 4, chip := 0, task := s.taskOf s.curBlk, block := s.curBid, seg := s.curSeg.seg
                        ac := pf P 0 29 26, offset := pw P 8, sentTo := 0, waiting := 0 }
  future s m .any k (regs ga.toNat 16) [blockExc bad, s.ptrExc (pd P 10)] (fun _ => .transfer t) (fun u _ => u)

/-! ### Links (16 R393; 17 R401) -/

/-- An empty error-log record. -/
def ErrorLog.zero : ErrorLog := { corr := 0, pois := 0, replay := 0, lastAt := 0, lastTime := 0 }

/-- Changes a unit's error-log record. -/
def State.onLog (s : State) (u : Nat) (f : ErrorLog → ErrorLog) : State := { s with host := { s.host with log := put s.host.log u (f ((look s.host.log u).getD ErrorLog.zero)) } }

/-- Adds 1 to a count that saturates. -/
def satInc (w : Word) : Word := if w = 0xFFFFFFFF then w else w + 1

/-- A corrected error is counted (17 R403). -/
def ErrorLog.corrected (e : ErrorLog) : ErrorLog := { e with corr := satInc e.corr }

/-- An uncorrectable error: POIS counts it where a sector or a word is poisoned, and LAST is its place, the unit-local number of the sector, word or lane, with the pod time (17 R403, R407). -/
def ErrorLog.struck (e : ErrorLog) (poisons : Bool) (place : Word) (now : Nat) : ErrorLog :=
  { e with pois := if poisons then satInc e.pois else e.pois, lastAt := place, lastTime := BitVec.ofNat 64 now }

/-- REPLAY_REQUEST: the neighbour on a port has met a packet with a bad CRC. Every packet it has not confirmed is sent again in order; after eight failed replays in a row the port leaves the locked set, and the packets kept for it go first to the other ports. -/
def execReplayRequest (s : State) : Out :=
  .next (match s.arg with
    | .num port =>
      let mine := s.fab.replay.filter (fun e => e.1 == port)
      let t := s.onLog (1056 + port) (fun e => { e with replay := satInc e.replay })
      let n := (look s.fab.fails port).getD 0 + 1
      if n ≤ 8 then t.onFab (fun f => { f with fails := put f.fails port n, sent := f.sent ++ mine })
      else (t.onFab (fun f => { f with
        fails := del f.fails port
        credits := f.credits.filter (fun e => !(e.1.1 == port))
        locked := f.locked &&& ~~~(1#64 <<< port)
        replay := f.replay.filter (fun e => !(e.1 == port))
        queue := (mine.filter (fun e => vcOf e.2.type != 0)).map (fun e => (e.2.dst.toNat, { e.2 with resent := true })) ++ f.queue })).fabricEvent
    | _ => s)

/-- CIRCUIT_SWITCH_CHANGE: the switch joins a port to another circuit, or to none. The port is no longer locked, and packets in flight on it are lost (16 R393). -/
def execCircuitSwitchChange (s : State) : Out :=
  .next (match s.arg with
    | .circuit port _ => s.onFab (fun f => { f with
        locked := f.locked &&& ~~~(1#64 <<< port.toNat)
        credits := f.credits.filter (fun e => !(e.1.1 == port.toNat))
        linkOut := del f.linkOut port.toNat
        linkIn := del f.linkIn port.toNat
        asks := without f.asks port.toNat
        sent := f.sent.filter (fun e => !(e.1 == port.toNat))
        replay := f.replay.filter (fun e => !(e.1 == port.toNat)) })
    | _ => s)

end Sys2Proof.Machine
end

