-- ==== Sys2Proof/Machine/Channel.lean ====
section
/-! DEFINITION. The channels: who holds one, row switches, refresh and its rate (10 R287 to R291; 17 R404, R414). -/

namespace Sys2Proof.Machine

/-- A part that goes through its channel, with its row. -/
def State.demandPart (s : State) (id n : Nat) : Option (Txn × Nat) :=
  match s.txn? id with
  | none => none
  | some t =>
    if s.partReady t n then
      match t.parts[n]? with
      | none => none
      | some p => (s.channelRow t p).map (fun r => (t, r))
    else none

/-- DEMAND_ACCESS: a load, store or atomic to an M frame starts to wait at its channel. -/
def execDemandAccess (s : State) : Out :=
  .next (match s.arg with
    | .pair id n =>
      match s.demandPart id n with
      | none => s
      | some (t, r) =>
        (s.setPart id n .queued).arriveRow (match t.kind with
          | .rmw .. => .atomic id n r
          | _ => .demand id n r)
    | _ => s)

/-- The row after a row in its channel's order: 32 rows a frame, then the channel's next frame. -/
def scrubAfter (row : Nat) : Nat := if row % 32 = 31 then (row / 32 + Config.channels) % Config.frames * 32 else row + 1

/-- The next burst of a channel: the highest priority waiting, the earliest arrival of its level; nothing waiting, the scrubber reads the next row of the channel. Every visit of an operation that goes on arrives anew, which is the round robin of 10 R287. -/
def Channel.next (c : Channel) : Activity :=
  (minBy Activity.priority c.waiting).getD (.scrub c.scrubAt)

/-- A request of the fabric performs at its channel; one whose object has gone from here meanwhile is received again. -/
def State.requestBurst (s : State) (p : Packet) (port : BitVec 6) : State :=
  match (bodyId p.body).elim none (fun id => s.served splitFuel id (bodyOff p.body)) with
  | some (id, off, d) => s.performNow p port id off d
  | none => s.receiveRequest p port

/-- A DRAM sector with an error lies in a row: rows are those of the objects that are resident. -/
def State.flawIn (s : State) (row : Nat) (f : Flaw) : Bool :=
  (look s.objs (f.sector * 64 / 2 ^ 34)).elim false (fun d => rowOf d (f.sector * 64 % 2 ^ 34) == row)

/-- The scrubber's visit of a row (17 R404): it reads every sector; one with an error that it corrects it rewrites as it was, and the error is counted; the others' poison bits are set. -/
def State.scrubVisit (s : State) (row : Nat) : State :=
  let found := s.flaws.filter (s.flawIn row)
  let t := found.foldl (fun t f =>
    if f.correctable then t.onLog (24 + chanOf row) ErrorLog.corrected
    else { t with poison := addTo t.poison f.sector }.onLog (24 + chanOf row) (fun e => e.struck true f.place s.ptime)) { s with flaws := s.flaws.filter (fun f => !s.flawIn row f) }
  t.onChan (chanOf row) (fun c => { c with scrubAt := scrubAfter row })

/-- A burst: what an activity does with its row open. -/
def State.burst (s : State) (a : Activity) : State :=
  match a with
  | .demand id n _ => (s.txn? id).elim s (fun t => s.performPart t n)
  | .atomic id n _ => (s.txn? id).elim s (fun t => s.performPart t n)
  | .red o _ => s.redBurst o
  | .winnow o row => s.winnowVisit o row
  | .program o _ => s.programVisit o
  | .migrate id _ row => s.migrateVisit id row
  | .scrub row => s.scrubVisit row
  | .request port p _ => s.requestBurst p port
  | .amax sg _ => s.amaxBurst sg
  | .refresh => s

/-- The refresh burst closes the open row. -/
def State.refresh (s : State) (ch : Nat) : State := s.onChan ch (fun c => { c with openRow := none, refreshDue := false, lastRefresh := s.clock })

/-- CHANNEL_BURST_SELECT: a refresh that is due, else the next activity: at once when its row is open, else after a row switch. -/
def execChannelBurstSelect (s : State) : Out :=
  .next (match s.arg with
    | .num ch =>
      let c := s.chan ch
      if c.switching.isSome then s
      else if c.refreshDue then s.refresh ch
      else
        let a := c.next
        let t := s.onChan ch (fun c => { c with waiting := c.waiting.erase a })
        if a.row? = c.openRow then t.burst a else t.onChan ch (fun c => { c with switching := some a })
    | _ => s)

/-- ROW_SWITCH_COMPLETE: the new row is open and its activity's burst runs. -/
def execRowSwitchComplete (s : State) : Out :=
  .next (match s.arg with
    | .num ch =>
      match (s.chan ch).switching with
      | none => s
      | some a => (s.onChan ch (fun c => { c with openRow := a.row?, switching := none })).burst a
    | _ => s)

/-- The refresh period of a channel: 32 channels a stack. -/
def State.period (s : State) (ch : Nat) : Nat := if s.hot.contains (ch / 32) then 2048 else 4096

/-- REFRESH_DUE: a row switch for priority 3 to 7 is abandoned, and the refresh waits for the channel. -/
def execRefreshDue (s : State) : Out :=
  .next (match s.arg with
    | .num ch =>
      if s.clock < (s.chan ch).nextRefresh then s
      else s.onChan ch (fun c =>
        let d := { c with refreshDue := true, nextRefresh := c.nextRefresh + s.period ch }
        match c.switching with
        | some b => if 3 ≤ b.priority then { d with switching := none, waiting := b :: c.waiting } else d
        | none => d)
    | _ => s)

/-- The rate of a stack changes: each channel's next refresh falls due at the earlier of its due time and its last refresh plus the new period (10 R287), and a REFRESH event is posted (17 R414). -/
def State.rate (s : State) (stack doubled : Nat) (temp : Word) : State :=
  let p := if doubled = 1 then 2048 else 4096
  let t := (regs (32 * stack) 32).foldl (fun t ch => t.onChan ch (fun c => { c with nextRefresh := min c.nextRefresh (c.lastRefresh + p) })) s
  t.postEvent (eventOf t.chipId 6 0 0 0 0 [BitVec.ofNat 32 stack, BitVec.ofNat 32 doubled, temp, 0])

/-- DRAM_TEMP_HIGH: a stack above 85 °C, in units of 0.125 °C. -/
def execDramTempHigh (s : State) : Out :=
  .next (match s.arg with
    | .sensor stack temp => if stack < 24 ∧ !s.hot.contains stack ∧ 680 < temp.toInt then { s with hot := s.hot ++ [stack] }.rate stack 1 temp else s
    | _ => s)

/-- DRAM_TEMP_NORMAL: a stack below 80 °C. -/
def execDramTempNormal (s : State) : Out :=
  .next (match s.arg with
    | .sensor stack temp => if s.hot.contains stack ∧ temp.toInt < 640 then { s with hot := without s.hot stack }.rate stack 0 temp else s
    | _ => s)

end Sys2Proof.Machine
end

