-- ==== Sys2Proof/Machine/Tasks.lean ====
section
/-! DEFINITION. The task table: kernel records, LAUNCH, LAUNCHB, PATCH, TDEC, TKILL, FORK, SPAWNQ, and the responses that complete counted commands and accesses (14 R317 to R329; 07 R224 to R226; 02 R47). -/

namespace Sys2Proof.Machine

/-! ### Records and kernels -/

/-- Fits(task, n) on the empty chip, whose clusters have four cores each (14 R331). -/
def Task.fits (t : Task) (n : Nat) : Bool :=
  let q := min (8192 / (t.perSeg * t.kernel.v)) (64 / t.perSeg)
  let q := if 0 < t.kernel.scr then min q (1048576 / t.kernel.scr) else q
  let q := if 0 < t.kernel.tiles.length then min q (256 / t.kernel.tiles.length) else q
  let q := if t.kernel.msq.isSome then min q 1 else q
  let q := if t.kernel.cst.isSome then min q 4 else q
  decide (ceilDiv n t.cohortSize ≤ Config.clusters * (4 * q / t.segCount / t.cohortSize))

/-! ### Kernel records (14 R318, R319) -/

/-- Why the HTS has no answer to a read: a fault, or bytes that have not come from another chip. -/
inductive HtsStop
  | fault (e : Exc)
  | away (a n : Nat)
  deriving DecidableEq, Repr

/-- Bytes of one sector that the HTS reads for a reader: here, or as another chip has sent them (log entry 19). -/
def State.htsSector (s : State) (w : FarBy) (p : Piece) : Except HtsStop (List Byte) :=
  match s.hereAddr p.addr with
  | some (h, _) => if s.poisonedAt h then .error (.fault (.of .poison)) else .ok ((regs h p.len).map s.byteAt)
  | none =>
    match (s.far.find? (fun r => r.who == w && r.addr == p.addr && r.bytes == p.len)).elim none (fun r => r.got) with
    | none => .error (.away p.addr p.len)
    | some (0, bs) => if bs.length < p.len then .error (.fault (.of .objBounds)) else .ok (bs.take p.len)
    | some (c, _) => .error (.fault (.of (codeOf c)))

/-- Bytes that a list of reads answers in turn. -/
def readMany {α ε : Type} (f : α → Except ε (List Byte)) : List α → Except ε (List Byte)
  | [] => .ok []
  | x :: r =>
    match f x with
    | .error e => .error e
    | .ok bs =>
      match readMany f r with
      | .error e => .error e
      | .ok cs => .ok (bs ++ cs)

/-- At most 16 bytes that the HTS reads. -/
def State.htsPiece (s : State) (w : FarBy) (id a n : Nat) : Except HtsStop (List Byte) :=
  let ps := splitAccess 0 (flat id a) n
  match s.accessFault ⟨true, false⟩ [] ps with
  | some c => .error (.fault (.of c))
  | none => readMany (s.htsSector w) ps

/-- Bytes of a code object, or the fault of their read (14 R324). -/
def State.htsRead (s : State) (w : FarBy) (code off n : Nat) : Except HtsStop (List Byte) :=
  let a := ptrOff code + off
  if s.unreachable (ptrId code) then .error (.fault (.of .unreachable))
  else if 2 ^ 34 < a + n then .error (.fault (.of (if s.route splitFuel (ptrId code) 0 = .gone then .objNone else .objBounds)))
  else readMany (fun c => s.htsPiece w (ptrId code) c.1 c.2) (chunks a n)

/-- The offset that means absent. -/
def absent : Nat := 0xFFFFFFFF

/-- An offset of the kernel record. -/
def offsetOf (x : Nat) : Option Nat := if x = absent then none else some x

/-- The entries of an initial-state list up to its end, as pairs of words; none for a list of more entries than can be well formed. -/
def State.htsList (s : State) (w : FarBy) (code : Nat) : Nat → Nat → Except HtsStop (Option (List (Nat × Nat)))
  | 0, _ => .ok none
  | n + 1, off =>
    match s.htsRead w code off 8 with
    | .error e => .error e
    | .ok bs =>
      if wordAt bs 0 / 2 ^ 28 = 15 then .ok (some [(wordAt bs 0, wordAt bs 4)])
      else
        match State.htsList s w code n (off + 8) with
        | .error e => .error e
        | .ok none => .ok none
        | .ok (some l) => .ok (some ((wordAt bs 0, wordAt bs 4) :: l))

/-- What an initial-state list says: tiles, streams with their counts and positions, barriers; whether a field lies outside its limits; whether a stream's positions go on. -/
structure Init where
  tiles : List (Nat × Nat × Nat)
  streams : List (Nat × Nat × List Nat)
  bars : List (Nat × Nat)
  bad : Bool
  more : Bool
  deriving DecidableEq, Repr

/-- Four ring positions of a word. -/
def ringWord (w : Nat) : List Nat := (List.range 4).map (fun i => w / 256 ^ i % 256)

/-- Adds positions to the last stream. -/
def moreRing (l : List (Nat × Nat × List Nat)) (w : Nat) : List (Nat × Nat × List Nat) :=
  match l.reverse with
  | [] => []
  | (k, n, r) :: x => (((k, n, r ++ ringWord w) :: x)).reverse

/-- One entry of the list, for a scratchpad allocation of b bytes. -/
def initEntry (b : Nat) (x : Init) (e : Nat × Nat) : Init :=
  let w := e.1
  match w / 2 ^ 28 with
  | 0 =>
    let off := bits w 19 0
    { x with
      tiles := x.tiles ++ [(bits w 27 24, off, e.2)], more := false
      bad := x.bad || bits w 23 20 != 0 || off % 256 != 0 || e.2 % 256 != 0 || e.2 == 0 || decide (b < off + e.2)
        || !(Tag.ofCode (BitVec.ofNat 4 (bits w 27 24))).tileTag || bits w 27 24 == 15 || decide (255 < x.tiles.length) }
  | 1 => { x with streams := x.streams ++ [(bits w 2 0, bits w 27 24 + 1, ringWord e.2)], more := true, bad := x.bad || bits w 23 3 != 0 }
  | 2 => { x with bars := x.bars ++ [(bits w 3 0, e.2)], more := false, bad := x.bad || bits w 27 4 != 0 || e.2 == 0 || decide (66 < e.2) }
  | 3 => { x with streams := moreRing x.streams e.2, bad := x.bad || bits w 27 0 != 0 || !x.more }
  | 15 => { x with bad := x.bad || bits w 27 0 != 0 || e.2 != 0 }
  | _ => { x with bad := true }

/-- A kernel record from its 16 words, its list and its bucket table; whether a field lies outside its limits or a reserved bit is set. DEDUCED, log entry 39. -/
def kernelOf (w : Nat → Nat) (l : Option (List (Nat × Nat))) (bk : List Byte) : Kernel × Bool :=
  let b := bits (w 5) 20 0
  let v := bits (w 4) 8 0
  let m := bits (w 4) 18 9
  let x := (l.getD []).foldl (initEntry b) { tiles := [], streams := [], bars := [], bad := l.isNone, more := false }
  let dest := (List.range 8).map (fun k => bits (w (7 + k / 2)) (16 * (k % 2) + 15) (16 * (k % 2)))
  let buckets := (List.range (bk.length / 12)).map (fun i => (wordAt bk (12 * i), wordAt bk (12 * i + 4), wordAt bk (12 * i + 8)))
  ({ entry := w 0, trapv := offsetOf (w 1), msq := offsetOf (w 2), cst := offsetOf (w 3), v := v, m := m
     producer := if bits (w 4) 25 25 = 1 then some (bits (w 4) 24 19) else none
     scr := b, pslots := bits (w 6) 7 0, pdest := dest, tiles := x.tiles, streams := x.streams.map (fun e => (e.1, e.2.2.take e.2.1)), bars := x.bars, buckets := buckets },
   x.bad || w 0 % 4 != 0 || bits (w 4) 31 26 != 0 || v % 8 != 0 || decide (v < 8) || decide (256 < v) || m % 32 != 0 || decide (m < 32) || decide (512 < m)
     || bits (w 5) 31 21 != 0 || decide (1048576 < b) || b % 256 != 0 || bits (w 6) 31 8 != 0 || bits (w 13) 31 4 != 0 || decide (8 < w 13) || w 14 != 0 || w 15 != 0
     || dest.any (fun d => decide (512 ≤ d)) || (List.range 8).any (fun k => bits (w 6) k k == 1 && decide (m ≤ dest.getD k 0))
     || x.streams.any (fun e => decide (e.2.2.length < e.2.1) || (e.2.2.take e.2.1).any (fun n => decide (x.tiles.length ≤ n)))
     || buckets.any (fun e => e.2.2 == 0 || decide (65536 ≤ e.2.2)))

/-- The kernel record at an offset of a code object, with its list and table, or the fault of a read. -/
def State.readKernel (s : State) (by_ : FarBy) (code krec : Nat) : Except HtsStop (Kernel × Bool) :=
  match s.htsRead by_ code krec 64 with
  | .error e => .error e
  | .ok bs =>
    let w := fun i => wordAt bs (4 * i)
    match (if w 11 = absent then .ok (some []) else s.htsList by_ code 1024 (w 11)), (if w 12 = absent ∨ 8 < w 13 then .ok [] else s.htsRead by_ code (w 12) (12 * w 13)) with
    | .error e, _ => .error e
    | _, .error e => .error e
    | .ok l, .ok bk => .ok (kernelOf w l bk)

/-! ### Admission of a record (14 R324, R325, R328) -/

/-- Reserved words and fields of the block, in order (07 R189). -/
def recordBad (p : List Word) : List (Nat × Bool) :=
  [(3, pf p 3 31 24 != 0), (4, pf p 4 31 16 != 0), (5, pf p 5 31 23 != 0 || pf p 5 7 7 != 0 || pf p 5 15 15 != 0), (6, pf p 6 15 4 != 0), (7, pf p 7 31 12 != 0), (15, pf p 15 31 16 != 0)]

/-- A record that has just been written (14 R317, R322). -/
def newTask (p : List Word) (k : Kernel) (g6 g7 : Word) : Task :=
  { st := .waiting, p := p, kernel := k, counter := pf p 6 31 16, slots := List.replicate 8 none, g6 := g6, g7 := g7, next := 0, active := 0, ended := 0
    readyAt := 0, lastProgress := 0, killer := none, fault := none }

/-- Fields of the record outside their limits (14 R324, row 1), beside those of the kernel record. -/
def Task.outside (t : Task) : Bool :=
  t.total == 0 || decide (2 ^ 24 < t.total) || t.g0 == 0 || decide (64 < t.g0) || decide (t.gmax < t.g0) || decide (64 < t.gmax) || t.ctxSlots == 0
    || t.privBytes % 16 != 0 || t.kernel.producer.elim false (fun n => decide (t.g0 ≤ n))

/-- A record whose kernel has been read: none where row 1 fails (RANGE), COOP_FIT for a co-operative one that can never fit. A host's record has no limit of priority. -/
def admitted (p : List Word) (k : Kernel × Bool) (prio : Option Nat) (g6 g7 : Word) : Except HtsStop (Option Task) :=
  let t := newTask p k.1 g6 g7
  if k.2 || t.outside || prio.elim false (fun x => decide (x < t.prio)) then .ok none
  else if t.coop && !(t.fits t.cohortSize && t.fits t.total) then .error (.fault (.of .coopFit))
  else .ok (some t)

/-- Steps 3 and 4 of LAUNCH and of a host post. -/
def State.admitRecord (s : State) (w : FarBy) (p : List Word) (prio : Option Nat) : Except HtsStop (Option Task) :=
  match s.readKernel w (pd p 0) (pw p 2) with
  | .error c => .error c
  | .ok k => admitted p k prio 0 0

/-- Steps 3 and 4 of LAUNCHB (14 R325). -/
def State.admitBucket (s : State) (w : FarBy) (p : List Word) (prio : Option Nat) (count : Word) : Except HtsStop (Option Task) :=
  match s.readKernel w (pd p 0) (pw p 2) with
  | .error c => .error c
  | .ok (k, bad) =>
    match k.buckets.find? (fun e => decide (count.toNat ≤ e.1)) with
    | none => .ok none
    | some (limit, krec, mult) =>
      let x := pf p 3 23 0 * mult
      if bad ∨ 2 ^ 24 ≤ x then .ok none
      else
        match s.readKernel w (pd p 0) krec with
        | .error c => .error c
        | .ok k2 => admitted ((p.set 2 (BitVec.ofNat 32 krec)).set 3 (BitVec.ofNat 32 x)) k2 prio count (BitVec.ofNat 32 limit)

/-- Bytes of an object from an offset; none where they lie on another chip. -/
def State.extent (s : State) : Nat → Nat → Nat → Option Nat
  | 0, _, _ => some 0
  | n + 1, id, off =>
    match look s.objs id with
    | none => if s.route splitFuel id off = .gone then some 0 else none
    | some d =>
      match d.split with
      | none => some (d.len - off)
      | some (b, up) => if off < b then (State.extent s n up 0).map (fun x => b - off + x) else State.extent s n up (off - b)

/-- The last of n bytes from a pointer on. -/
def lastByte (ptr n : Nat) : Nat := flat (ptrId ptr) (ptrOff ptr + n - 1)

/-- A pointer's object has at least n bytes from the pointer on: at another chip, the last of them exists there; none while that chip has not said (log entry 19). -/
def State.holds (s : State) (w : FarBy) (ptr n : Nat) : Option Bool :=
  match s.extent splitFuel (ptrId ptr) (ptrOff ptr) with
  | some x => some (decide (n ≤ x))
  | none =>
    if n = 0 then some true
    else if 2 ^ 34 < ptrOff ptr + n then some false
    else ((s.far.find? (fun r => r.who == w && r.addr == lastByte ptr n)).elim none (fun r => r.got)).map (fun x => if x.1 = 0 then !x.2.isEmpty else x.1 == 0x09 || x.1 == 0x15)

/-- The areas of a record, each with its pointer and the bytes it must have (14 R321). -/
def Task.areas (t : Task) : List (Nat × Nat) :=
  (t.ctx, t.ctxSlots * t.image) :: (if ptrId t.priv = 0 then [] else [(t.priv, t.total * 32 * t.gmax * t.privBytes)])

/-- Rows 2 and 3 of 14 R324; none while the size of an area at another chip is not known. -/
def State.recordFits (s : State) (w : FarBy) (t : Task) : Option Bool :=
  if t.areas.any (fun a => s.holds w a.1 a.2 == some false) then some false
  else if t.areas.any (fun a => s.holds w a.1 a.2 == none) then none
  else some ((!t.coop || decide (t.total ≤ t.ctxSlots)) && (t.coop || t.fits t.cohortSize))

/-- Asks other chips for the last byte of the areas that lie there. -/
def State.askSizes (s : State) (w : FarBy) (t : Task) : State :=
  (t.areas.filter (fun a => s.holds w a.1 a.2 == none)).foldl (fun u a => u.farWant w (lastByte a.1 a.2) 1) s

/-- The record is written and armed; it may be READY at once (14 R324, R329), and what its context area holds is unspecified from here on (R321). -/
def State.install (s : State) (i : Nat) (t : Task) : State := (({ s with tasks := put s.tasks i t }).blurArea i).makeReady i

/-- The lowest free index that LAUNCH takes (14 R317). -/
def State.freeTask (s : State) : Option Nat := ((List.range 2048).find? (fun i => (look s.tasks (2048 + i)).isNone)).map (2048 + ·)

/-- LAUNCH completes with its status (14 R324, step 5). DEDUCED, log entry 40. -/
def State.runLaunch (s : State) (n : Nat) (t : Option Task) : State :=
  match t with
  | none => s.endCommand n 4 [0xFFFFFFFF]
  | some t =>
    match s.recordFits (.size n) t with
    | none => s.askSizes (.size n) t
    | some false => (s.farForget (.size n)).endCommand n 4 [0xFFFFFFFF]
    | some true =>
      match s.freeTask with
      | none => (s.farForget (.size n)).endCommand n 1 [0xFFFFFFFF]
      | some i => ((s.farForget (.size n)).install i t).endCommand n 0 [BitVec.ofNat 32 i]

/-- Priority of the issuing task. -/
def State.curPrio (s : State) : Option Nat := some ((look s.tasks (s.taskOf s.curBlk)).elim 0 (fun t => t.prio))

/-- Faults of LAUNCH at issue (14 R324). -/
def State.launchExcs (s : State) (p : List Word) (r : Except HtsStop (Option Task)) : List (Option Exc) :=
  [blockExc (recordBad p), if pf p 6 3 3 = 1 then s.grantExc else none, match r with | .error (.fault e) => some e | _ => none]

/-- The record of a launch that has raised no fault. -/
def recordOf (r : Except HtsStop (Option Task)) : Option Task :=
  match r with
  | .error _ => none
  | .ok t => t

/-- A launch whose kernel the HTS reads with an outcome: it holds its issue while bytes come from another chip, and else goes on as a counted command (14 R324). -/
def launch (s : State) (m : Bool) (gd : Nat) (names : List Nat) (p : List Word) (r : Except HtsStop (Option Task)) : Out :=
  match r with
  | .error (.away a n) => uniJump s .group true ((resultRegs (.launch none)).map (gd + ·) ++ names) names (s.launchExcs p r) (fun t => (t.farWant (.launch t.curAgent) a n).waitAt .hts)
  | _ => counted (s.farForget (.launch s.curAgent)) m .group gd names (s.launchExcs p r) (.launch (recordOf r))

/-- LAUNCH. -/
def execLaunch (m : Bool) (gd ga : BitVec 9) (s : State) : Out :=
  launch s m gd.toNat (regs ga.toNat 16) (s.block ga.toNat) (s.admitRecord (.launch s.curAgent) (s.block ga.toNat) s.curPrio)
/-- LAUNCHB. -/
def execLaunchb (m : Bool) (gd ga gb : BitVec 9) (s : State) : Out :=
  launch s m gd.toNat (regs ga.toNat 16 ++ [gb.toNat]) (s.block ga.toNat) (s.admitBucket (.launch s.curAgent) (s.block ga.toNat) s.curPrio (s.readU 1 gb.toNat))

/-! ### PATCH, TDEC, TKILL (07 R224; 14 R326, R327, R329) -/

/-- PATCH's rules. -/
def State.patchTask (s : State) (slot : Nat) (value : Word) (i : Nat) : State × Nat :=
  match look s.tasks i with
  | none => (s, 2)
  | some t =>
    if t.st ≠ .waiting ∧ t.st ≠ .ready then (s, 3)
    else if t.kernel.pslots / 2 ^ slot % 2 = 0 then (s, 4)
    else ((s.onTask i (fun x => { x with slots := x.slots.set slot (some value) })).makeReady i, 0)

/-- State of a task that holds no poison mark is lost: the task ends with CODE POISON (17 R402). -/
def State.endPoisoned (s : State) (i : Nat) : State := s.endTask i none (some (0, 0, [BitVec.ofNat 32 (FaultCode.poison.code * 2 ^ 24), 0, 0, 0]))

/-- TKILL performs. Where it ends the issuing task, its own result is never written. DEDUCED, log entry 45. -/
def State.runKill (s : State) (n : Nat) (i : Nat) : State :=
  match s.txn? n with
  | none => s
  | some t =>
    let own := s.taskOf (agentBlk t.who)
    match look s.tasks i with
    | none => s.endCommand n 2 []
    | some _ =>
      let u := s.endTask i (some (s.chipId, own, (look s.blocks (agentBlk t.who)).elim 0 (fun b => b.bid))) none
      if i = own then u.partDone n 0 else u.endCommand n 0 []

/-- PATCH. -/
def execPatch (m : Bool) (gd ga gb : BitVec 9) (slot : BitVec 3) (s : State) : Out :=
  counted s m .group gd.toNat [ga.toNat, gb.toNat] [] (.patch slot.toNat (s.readU 0 ga.toNat) (s.readU 1 gb.toNat))
/-- TDEC. -/
def execTdec (m : Bool) (gd ga gb : BitVec 9) (s : State) : Out :=
  counted s m .group gd.toNat [ga.toNat, gb.toNat] [] (.tdec (s.readU 0 ga.toNat) (s.readU 1 gb.toNat))
/-- TKILL. -/
def execTkill (m : Bool) (gd ga : BitVec 9) (s : State) : Out :=
  counted s m .group gd.toNat [ga.toNat] [] (.tkill (s.readU 0 ga.toNat))

/-! ### FORK and SPAWNQ (07 R224, R226; 08 R245) -/

/-- A sequencer as FORK leaves it: its e registers, its handles EMPTY (05 R147), and its program, if it has one, at its first instruction. -/
def Sequencer.forkWith (e : Sequencer) (words : List Word) (seg : Nat) (entry : Option Word) : Sequencer :=
  { e with
    h := List.replicate 16 .empty
    e := words ++ List.replicate 47 0 ++ [BitVec.ofNat 32 seg]
    pend := [], clob := [], struck := []
    pc := entry.getD e.pc, running := entry.isSome, halted := if entry.isSome then false else e.halted, wait := .none, pw := .none, pwMarked := false, owed := false }

/-- FORK's effect on every segment of the block. -/
def State.forkBlock (s : State) (blk : Nat) (words : List Word) : State :=
  match look s.blocks blk with
  | none => s
  | some b =>
    { s with
      blocks := put s.blocks blk { b with forked := b.msq.isSome || b.cst.isSome }
      seqs := s.seqs.map (fun e => if e.1.sg.blk = blk then (e.1, e.2.forkWith words e.1.sg.seg (match e.1.kind with | .msq => b.msq | .cst => b.cst)) else e) }

/-- FORK. -/
def execFork (m : Bool) (ga : BitVec 9) (s : State) : Out :=
  uni s m 8 .producer true (regs ga.toNat 16) (regs ga.toNat 16) [excIf s.unjoined (.of .context)] (fun t => t.forkBlock t.curBlk (s.block ga.toNat))

/-- Groups of a block that have not ended, by GROUPID. -/
def State.aliveGroups (s : State) (blk : Nat) : List (GKey × Group) :=
  ((List.range 64).map (fun n => (look s.groups ⟨blk, n⟩).elim [] (fun g => if g.ended then [] else [((⟨blk, n⟩ : GKey), g)]))).flatten

/-- Threads that wait in a block's spawn memories, and the group budget left. -/
def State.spawnWord (s : State) (blk : Nat) : Word :=
  let waiting := ((s.segs.filter (fun e => e.1.blk == blk)).map (fun e => e.2.spawn.length)).sum
  let left := (look s.blocks blk).elim 0 (fun b => b.gmax) - (s.aliveGroups blk).length
  BitVec.ofNat 32 (left * 2 ^ 16 + waiting)

/-- SPAWNQ. -/
def execSpawnq (m : Bool) (gd : BitVec 9) (s : State) : Out :=
  uni s m 8 .group true [gd.toNat] [] [] (fun t => t.writeU gd.toNat (t.spawnWord t.curBlk))

/-! ### Responses (02 R47, R52) -/

/-- A counted command performs. A copy ends at COPY_COMPLETE. -/
def State.runCommand (s : State) (n : Nat) (t : Txn) (c : Counted) : State :=
  match c with
  | .copy _ => s
  | .fbstat => s.endCommand n (s.fab.stat.headD 0).toNat s.fab.stat.tail
  | .fbplan plan ptr op => s.runFbplan n plan ptr op
  | .launch r => s.runLaunch n r
  | .patch slot value task => let r := s.patchTask slot value task.toNat; r.1.endCommand n r.2 []
  | .tdec task amount => let r := s.decTask task.toNat amount.toNat; r.1.endCommand n r.2 []
  | .tkill task => s.runKill n task.toNat
  | _ => if (t.parts.head?).elim false (fun p => p.st == .todo) && s.runsOnReturn c then s.runObject n c else s

/-- LAUNCH, PATCH and TDEC are chip-scope releases (14 R324, R326; 09 R263): they perform after what the threads that issued them have accessed before. A command of the fabric controller is applied in its turn (16 R388). -/
def State.commandReady (s : State) (t : Txn) (c : Counted) : Bool :=
  match c with
  | .launch _ | .patch .. | .tdec .. => !s.txns.any (fun u => u.who == t.who && decide (u.id < t.id) && u.access && (u.threads &&& t.threads) != 0)
  | .fbstat | .fbplan .. => s.controlTurn t.id
  | _ => true

/-- RESPONSE_RETURN: one part of a transaction performs at its home and its data returns; with the last, the entry frees and OUTS falls. Parts in M frames of this chip perform at their channels. -/
def execResponseReturn (s : State) : Out :=
  .next (match s.arg with
    | .pair id n =>
      match s.txn? id with
      | none => s
      | some t =>
        match t.kind with
        | .command _ c => if n = 0 ∧ s.commandReady t c then (s.runCommand id t c).controlDone id else s
        | _ => if s.partReady t n && (s.channelRow t (t.parts.getD n { st := .done, pieces := [] })).isNone then s.performPart t n else s
    | _ => s)

end Sys2Proof.Machine
end

