-- ==== Sys2Proof/Machine/Blocks.lean ====
section
/-! DEFINITION. Blocks on cores: placement, starting groups, sheaves, regrouping, pre-emption, swap-out, restore, the watchdog, ends of blocks and tasks, the exchanges of the issue slots (08 R229 to R250; 14 R317, R327, R330 to R339; 07 R227). -/

namespace Sys2Proof.Machine

/-! ### Ordered lists -/

/-- Puts an element before the first that must follow it, after its equals. -/
def insertBefore {α : Type} (lt : α → α → Bool) (x : α) : List α → List α
  | [] => [x]
  | y :: r => if lt x y then x :: y :: r else y :: insertBefore lt x r

/-- A stable sort. -/
def sortStable {α : Type} (lt : α → α → Bool) (l : List α) : List α := l.foldl (fun r x => insertBefore lt x r) []

/-! ### Groups and issue slots (08 R233, R234) -/

/-- Groups bound to an issue slot. -/
def State.residents (s : State) (n : Nat) : Nat := (look s.slots n).elim 0 (fun x => x.active.length + x.pending.length)

/-- Binds a group to the slot of its core that holds the fewest groups. -/
def State.bindGroup (s : State) (k : GKey) (core : Nat) : State :=
  let j := (minBy (fun j => s.residents (4 * core + j)) (List.range 4)).getD 0
  let x := (look s.slots (4 * core + j)).getD { active := [], pending := [] }
  let y := if x.active.length < Config.activeSet then { x with active := x.active ++ [k] } else { x with pending := x.pending ++ [k] }
  { s with
    slots := put s.slots (4 * core + j) y
    groups := upd s.groups k (fun g => { g with slot := j, entered := s.clock, readySince := s.clock }) }

/-- A group at its start (02 R41): its registers, and one path of the lanes that run. -/
def groupStart (v : List VReg) (gs : List Word) (lanes : List Lane) (seg floor gwct : Nat) : Group :=
  { v := v, g := gs, h := List.replicate 16 .empty, lanes := lanes, outs := 0, quantum := 64, lease := 1024, fr0 := 0, fr1 := 0, fr2 := 0, fr3 := 0
    ptimeHi := 0, gwctHi := 0, gwct := gwct, floor := floor, wait := .none, handler := none, deferred := [], pendV := [], clobV := [], pendG := [], clobG := [], struckG := []
    syncs := [], owedGwct := none, region := none, abort := none, view := none, owed := none, owedTrap := none, heldBar := none, seg := seg, slot := 0, entered := 0, readySince := 0, lastIssue := none, ended := false }

/-- A lane that starts. -/
def laneStart (pc : Word) (ras : List Word) : Lane := { st := .live, pc := pc, ras := ras, wait := .none, age := 0, marked := false }

/-- The g registers of a group at its start: those the launch names, 0 elsewhere. -/
def Block.startG (b : Block) : List Word := b.ginit.foldl (fun l e => l.set e.1 e.2) (List.replicate 512 0)

/-- GROUP_START of group n of a block. -/
def State.startGroup (s : State) (blk : Nat) (b : Block) (n : Nat) : State :=
  let seg := n / b.perSeg
  let v0 : VReg := { tag := .raw, lanes := (List.range 32).map (fun l => BitVec.ofNat 32 (32 * n + l)) }
  let g := groupStart (v0 :: List.replicate (b.vregs - 1) VReg.zero) b.startG (List.replicate 32 (laneStart b.entry [])) seg s.clock 0
  ({ s with groups := put s.groups ⟨blk, n⟩ g }).bindGroup ⟨blk, n⟩ (b.cores.getD seg 0)

/-! ### Starting a block (08 R229 to R232; 14 R320, R322) -/

/-- Launch registers of a block, in the order of their writing (14 R322; 03 R96). -/
def Task.startRegs (t : Task) (bid : Nat) : List (Nat × Word) :=
  let base := if ptrId t.priv = 0 then 0 else t.priv + bid * 32 * t.gmax * t.privBytes
  let two := fun (r x : Nat) => [(r, BitVec.ofNat 32 x), (r + 1, BitVec.ofNat 32 (x / 2 ^ 32))]
  two 0 t.code ++ two 2 t.args ++ [(6, t.g6), (7, t.g7)] ++ two 8 base
    ++ ((List.range 8).filter (fun k => t.kernel.pslots / 2 ^ k % 2 == 1)).map (fun k => (t.kernel.pdest.getD k 0, (t.slots.getD k none).getD 0))

/-- A barrier at block start (03 R95). -/
def barStart (e : Option Nat) : Barrier := { expected := e, count := 0, phase := false, arrivals := [], done := [], seqs := [], last := [], lastSeq := [], releasing := [], released := [] }

/-- A block as it starts. -/
def blockStart (i : Nat) (t : Task) (bid cluster : Nat) (cores : List Nat) (now : Nat) : Block :=
  { task := i, bid := bid, cohort := bid / t.cohortSize, cluster := cluster, cores := cores, span := cores, g0 := t.g0, gmax := t.gmax, perSeg := t.perSeg, vregs := t.kernel.v, gregs := t.kernel.m
    scr := t.kernel.scr, code := t.code, entry := BitVec.ofNat 32 t.kernel.entry, trapv := t.kernel.trapv.map (BitVec.ofNat 32), producer := t.kernel.producer
    msq := t.kernel.msq.map (BitVec.ofNat 32), cst := t.kernel.cst.map (BitVec.ofNat 32), ginit := t.startRegs bid
    bars := (List.range 16).map (fun k => barStart (look t.kernel.bars.reverse k)), acs := List.replicate 16 { count := 0, target := 0 }
    forked := false, stopping := false, saved := false, swapped := false, polledAt := 0, started := now, prio := t.prio }

/-- A segment as its block starts (02 R41; 03 R93, R94). What the spec leaves open in it starts at 0 (DESIGN CHOICE, log entry 6). -/
def segStart (t : Task) : Segment :=
  { scratch := [], poison := []
    tiles := (t.kernel.tiles.zipIdx).map (fun e => (e.2, { st := .empty, origin := none, err := false, errCode := 0, tag := Tag.ofCode (BitVec.ofNat 4 e.1.1), off := e.1.2.1, len := e.1.2.2, taken := false, drain := none }))
    streams := (List.range 8).map (fun k => { ring := (look t.kernel.streams.reverse k).getD [], pos := 0 })
    tregs := List.replicate 4 { tag := .f32p, elems := [] }, layouts := List.replicate 8 (List.replicate 16 0), spawn := [], gmx := [], unseen := [] }

/-- A sequencer as its block starts: no program runs. -/
def seqStart : Sequencer :=
  { e := List.replicate 64 0, h := List.replicate 16 .empty, pc := 0, running := false, halted := false, fault := none, wait := .none, pw := .none, pwMarked := false, owed := false
    outs := 0, deferred := [], pend := [], clob := [], struck := [], gwct := 0 }

/-- A block starts on its cores, with its first G0 groups. -/
def State.startBlock (s : State) (i : Nat) (t : Task) (bid cluster : Nat) (cores : List Nat) : State :=
  let u := s.nextUid
  let b := blockStart i t bid cluster cores s.clock
  let sgs := (List.range cores.length).map (fun j => (⟨u, j⟩ : SKey))
  let s1 := { s with
    nextUid := u + 1
    blocks := put s.blocks u b
    segs := s.segs ++ sgs.map (fun k => (k, segStart t))
    seqs := s.seqs ++ (sgs.map (fun k => [((⟨k, .msq⟩ : QKey), seqStart), ((⟨k, .cst⟩ : QKey), seqStart)])).flatten }
  (List.range t.g0).foldl (fun x n => x.startGroup u b n) s1

/-! ### Placement (14 R330 to R332) -/

/-- What segment j of a block uses on its core, in the order of 14 R331; the last segment is clipped to Gmax. -/
def Task.need (t : Task) (j : Nat) : List Nat :=
  let n := min t.perSeg (t.gmax - j * t.perSeg)
  [n * t.kernel.v, n, t.kernel.scr, t.kernel.tiles.length, if t.kernel.msq.isSome then 1 else 0, if t.kernel.cst.isSome then 1 else 0]

/-- Capacities of a core (14 R331). -/
def coreCaps : List Nat := [8192, 64, 1048576, 256, 1, 4]

/-- Sum of two loads. -/
def addLoad (a b : List Nat) : List Nat := List.zipWith (· + ·) a b

/-- A load is within a core's capacities. -/
def loadOk (a : List Nat) : Bool := (List.zipWith (fun x c => decide (x ≤ c)) a coreCaps).all id

/-- The loads of the cores, counting the blocks on them that a test accepts. -/
def State.loads (s : State) (p : Nat → Block → Bool) : List (List Nat) :=
  let parts := (s.blocks.filter (fun e => !e.2.saved && p e.1 e.2)).map (fun e =>
    (look s.tasks e.2.task).elim [] (fun t => (e.2.cores.zipIdx).map (fun c => (c.1, t.need c.2))))
  parts.flatten.foldl (fun l c => l.modify c.1 (addLoad c.2)) (List.replicate Config.cores [0, 0, 0, 0, 0, 0])

/-- How often, up to n, a need is met by what is free. -/
def timesIn (n free need : Nat) : Nat := if need = 0 then n else min n (free / need)

/-- What a core has left for n blocks of a task: for how many segments, and for how many groups of them (14 R331). -/
def Task.coreRoom (t : Task) (n : Nat) (load : List Nat) : Nat × Nat :=
  let free := List.zipWith (· - ·) coreCaps load
  ((List.zipWith (timesIn n) (free.drop 2) ((t.need 0).drop 2)).foldl min n, min (timesIn (n * t.perSeg) (free.getD 0 0) t.kernel.v) (free.getD 1 0))

/-- The most segments of k groups that cores hold beside b segments of `part` groups; none where they do not hold those. -/
def mostFull (k part : Nat) : List (Nat × Nat) → Nat → Option Nat
  | [], b => if b = 0 then some 0 else none
  | c :: r, b => ((List.range (b + 1)).filterMap (fun x =>
      if x ≤ c.1 ∧ x * part ≤ c.2 then (mostFull k part r (b - x)).map (· + min (c.1 - x) ((c.2 - x * part) / k)) else none)).max?

/-- A cluster has room for n blocks of a task, the segments of each on different cores. Segments that are given to cores, no more than n to one, can be dealt out to the blocks so that no block has two on one core; so it is enough to count those of k groups, the clipped one of each block, and those with no group (08 R231; 14 R331). -/
def Task.room (t : Task) (u : List (List Nat)) (cluster n : Nat) : Bool :=
  let cs := (regs (4 * cluster) 4).map (fun c => t.coreRoom n (u.getD c []))
  let part := t.gmax % t.perSeg
  decide (n * t.segCount ≤ (cs.map Prod.fst).sum) && (mostFull t.perSeg part cs (if part = 0 then 0 else n)).elim false (fun full => decide (n * (t.gmax / t.perSeg) ≤ full))

/-- Lists of n different cores, the lowest-numbered first. -/
def coreLists : Nat → List Nat → List (List Nat)
  | 0, _ => [[]]
  | n + 1, cs => (cs.map (fun c => (coreLists n (cs.erase c)).map (c :: ·))).flatten

/-- Places one block on a cluster on which `rest` more are to follow: its segments on the lowest-numbered cores that fit and leave room for those. -/
def Task.placeBlock (t : Task) (cluster rest : Nat) (u : List (List Nat)) : Option (List (List Nat) × List Nat) :=
  (coreLists t.segCount (regs (4 * cluster) 4)).findSome? (fun cs =>
    let v := (cs.zipIdx).foldl (fun l c => l.modify c.1 (addLoad (t.need c.2))) u
    if cs.all (fun c => loadOk (v.getD c [])) && t.room v cluster rest then some (v, cs) else none)

/-- Places blocks, each on its cluster: for every block its cluster and cores. -/
def Task.placeBlocks (t : Task) : List Nat → List (List Nat) → Option (List (Nat × List Nat))
  | [], _ => some []
  | j :: r, u => (t.placeBlock j (r.count j) u).bind (fun x => (Task.placeBlocks t r x.1).map (fun y => (j, x.2) :: y))

/-- The cluster of each of some sets of blocks, the lowest-numbered with room for the whole set beside the sets `have_` on it. -/
def Task.clustersFor (t : Task) (clusters : List Nat) (u : List (List Nat)) : List Nat → List (Nat × Nat) → Option (List Nat)
  | [], _ => some []
  | n :: r, have_ =>
    let m := fun j => (look have_ j).getD 0 + n
    (clusters.find? (fun j => t.room u j (m j))).bind (fun j => (Task.clustersFor t clusters u r (put have_ j (m j))).map (List.replicate n j ++ ·))

/-- Places sets of blocks, each set on one cluster: for every block its cluster and cores (14 R330, R332). DEDUCED, log entry 41. -/
def Task.placeSets (t : Task) (clusters : List Nat) (sizes : List Nat) (u : List (List Nat)) : Option (List (Nat × List Nat)) :=
  (t.clustersFor clusters u sizes []).bind (fun js => t.placeBlocks js u)

/-- All clusters. -/
def allClusters : List Nat := List.range Config.clusters

/-- What the HTS can do for a task: start its next blocks, or restore blocks, each with a cluster and cores. -/
inductive Admission
  | start (task : Nat) (at_ : List (Nat × List Nat))
  | restore (blks : List Nat) (at_ : List (Nat × List Nat))
  deriving DecidableEq, Repr

/-- Sizes of a task's cohorts. -/
def Task.cohorts (t : Task) : List Nat := (List.range (ceilDiv t.total t.cohortSize)).map (fun c => min t.cohortSize (t.total - c * t.cohortSize))

/-- Runs of equal cohort numbers, as their lengths. -/
def runLengths : List Nat → List Nat
  | [] => []
  | x :: r =>
    match runLengths r, r with
    | n :: l, y :: _ => if x = y then (n + 1) :: l else 1 :: n :: l
    | l, _ => 1 :: l

/-- The candidate of a task with the loads given (14 R330): none where it has none, `some none` where it cannot be placed. DEDUCED, log entry 41. -/
def State.admission (s : State) (u : List (List Nat)) (i : Nat) (t : Task) : Option (Option Admission) :=
  let mine := s.blocks.filter (fun e => e.2.task == i)
  let out := mine.filter (fun e => e.2.saved)
  match out.find? (fun e => !e.2.swapped) with
  | some first =>
    let set := if t.coop then out else out.filter (fun e => e.2.cohort == first.2.cohort)
    let stay := (mine.filter (fun e => !e.2.saved && e.2.cohort == first.2.cohort)).map (fun e => e.2.cluster)
    let sizes := runLengths (set.map (fun e => e.2.cohort))
    some ((t.placeSets (if t.coop || stay.isEmpty then allClusters else stay.take 1) sizes u).map (fun p => .restore (set.map Prod.fst) p))
  | none =>
    if t.coop then (if t.next = 0 then some ((t.placeSets allClusters t.cohorts u).map (fun p => .start i p)) else none)
    else if t.next < t.total then
      let rest := min t.total ((t.next / t.cohortSize + 1) * t.cohortSize) - t.next
      if t.ctxSlots < t.active + rest then none
      else some ((t.placeSets allClusters [rest] u).map (fun p => .start i p))
    else none

/-- Tasks that may have a candidate, in the order of 14 R330. -/
def State.ordered (s : State) : List (Nat × Task) :=
  sortStable (fun (a b : Nat × Task) => decide (b.2.prio < a.2.prio) || (a.2.prio == b.2.prio && (decide (a.2.readyAt < b.2.readyAt) || (a.2.readyAt == b.2.readyAt && decide (a.1 < b.1)))))
    (s.tasks.filter (fun e => e.2.st == .ready || e.2.st == .running))

/-- The first candidate that can be placed. A co-operative task that is the first candidate and does not fit holds back tasks of its priority and below (14 R332). -/
def State.firstAdmission (s : State) (u : List (List Nat)) : Bool → Option Nat → List (Nat × Task) → Option Admission
  | _, _, [] => none
  | first, hold, (i, t) :: r =>
    if hold.elim false (fun p => decide (t.prio ≤ p)) then State.firstAdmission s u first hold r
    else
      match s.admission u i t with
      | none => State.firstAdmission s u first hold r
      | some (some a) => some a
      | some none => State.firstAdmission s u false (if first && t.coop then some t.prio else hold) r

/-- What the HTS places next. -/
def State.nextAdmission (s : State) : Option Admission := s.firstAdmission (s.loads (fun _ _ => true)) true none s.ordered

/-- The cores on which a cohort's blocks lie, and have lain, are its span (09 R262). -/
def State.widenSpans (s : State) (task : Nat) : State :=
  let mine := fun (b c : Block) => b.task == task && c.task == task && b.cohort == c.cohort
  { s with blocks := s.blocks.map (fun e => (e.1, { e.2 with span := if e.2.task = task then ((s.blocks.filter (fun x => mine e.2 x.2)).map (fun x => x.2.span ++ x.2.cores)).flatten.eraseDups else e.2.span })) }

/-- The next blocks of a task start in one admission step; a READY task is then RUNNING. -/
def State.startBlocks (s : State) (i : Nat) (at_ : List (Nat × List Nat)) : State :=
  match look s.tasks i with
  | none => s
  | some t =>
    let u := ((at_.zipIdx).foldl (fun x e => x.startBlock i t (t.next + e.2) e.1.1 e.1.2) s).widenSpans i
    u.onTask i (fun x => { x with st := .running, next := x.next + at_.length, active := x.active + at_.length, lastProgress := s.ptime })

/-- BLOCK_PLACEMENT. -/
def execBlockPlacement (s : State) : Out :=
  .next (match s.nextAdmission with
    | some (.start i p) => s.startBlocks i p
    | _ => s)

/-! ### Restore (14 R335; 08 R250) -/

/-- Program counter and lanes at which a group waits, those of its lowest lane where its paths stand apart (DESIGN CHOICE, log entries 42 and 43). A FENCE or MRDY has moved its path on: the group waits at it, 8 bytes back. -/
def Group.waitsAt (g : Group) : Mask × Word :=
  let at_ := fun (m : Mask) => (m, (g.lane (lowLane m)).pc)
  match g.wait with
  | .trap r => (r.path, r.pc)
  | .waitc w => at_ w.path
  | .regroup p _ _ _ _ _ _ => at_ p
  | .rgCommit p _ _ => at_ p
  | .fence _ _ _ p => (p, (at_ p).2 - 8)
  | .mrdy _ p => (p, (at_ p).2 - 8)
  | _ =>
    let m := if g.handler.isSome then g.handling else g.live
    at_ (g.atPc m (g.lane (lowLane m)).pc)

/-- The barrier wait of a lane, which its path takes up again after the handler. -/
def barWaitOf (x : Lane) : Option (PathWait × Bool) :=
  match x.wait with
  | .bar k p => some (.bar k p, x.marked)
  | _ => none

/-- A group traps with a code where it waits: PC and resume address are those of the instruction at which it waits. A deferred fault that is found goes first, at the same place. -/
def State.trapWaiting (s : State) (k : GKey) (c : FaultCode) : State :=
  match look s.groups k with
  | none => s
  | some g =>
    let (lanes, pc) := g.waitsAt
    let r : TrapRec := { code := c, detail := 0, pc := pc, lanes := lanes, resume := pc, deferred := false, seq := false, path := lanes }
    (s.onGroup k (fun x => { x with wait := .trap r, heldBar := barWaitOf (g.lane (lowLane lanes)) })).unpark k

/-- Deferred faults that the save's drain found are delivered before any group of the block issues, at the instruction at which the group waits or which it issues next (02 R43; 14 R335). In a region that has aborted they are gone (06 R185). No instruction was marked: the path that enters the handler, and resumes at its program counter, is that of the lowest lane (DESIGN CHOICE, log entry 42). -/
def State.deliverKept (s : State) (k : GKey) : State :=
  match look s.groups k with
  | none => s
  | some g =>
    match g.wait with
    | .park _ _ => s.unpark k
    | .trap _ => s.unpark k
    | _ =>
      if g.deferred.isEmpty then s
      else if g.region.isSome && g.abort.isSome then s.onGroup k (fun x => { x with deferred := [] })
      else s.trapWaiting k ((oldest g.deferred).elim .objNone (fun d => d.code))

/-- A WAITC of a restored block looks at its word again: its monitor is set where the home has room (08 R250). DEDUCED, log entry 42. -/
def State.rewait (s : State) (w : Agent) : State :=
  match s.agentWait w with
  | .waitc x =>
    let room := (s.homeOf x.id x.off).elim true s.monitorFree
    let t := s.lookWaitc w { x with monitor := room, hit := false, polledAt := s.ptime }
    match t.agentWait w with
    | .waitc y => if y.deadline.elim false (fun d => decide (d ≤ s.ptime)) then t.endWaitc w y 0 else t
    | _ => t
  | _ => s

/-- A saved block comes back on the cores given. A group's floor is the instant of its return, since the core's L1 has not seen its writes (DEDUCED, log entry 20). -/
def State.restoreBlock (s : State) (blk cluster : Nat) (cores : List Nat) : State :=
  let t := s.onBlock blk (fun b => { b with cluster := cluster, cores := cores, saved := false, swapped := false, stopping := false })
  let ks := (t.aliveGroups blk).map Prod.fst
  let t := ks.foldl (fun x k => (x.onGroup k (fun g => { g with floor := max g.floor s.clock })).bindGroup k (x.coreOf ⟨blk, (look x.groups k).elim 0 (fun g => g.seg)⟩)) t
  let t := ks.foldl (fun x k => (x.deliverKept k).rewait (.grp k)) t
  ((s.seqs.filter (fun e => e.1.sg.blk == blk)).map Prod.fst).foldl (fun x q =>
    let y := x.onSeq q (fun e => if e.running ∧ !e.deferred.isEmpty then { e with wait := .park 0 e.pc } else e)
    (y.unparkSeq q).rewait (.sqr q)) t

/-- BLOCK_RESTORE. -/
def execBlockRestore (s : State) : Out :=
  .next (match s.nextAdmission with
    | some (.restore bs p) => bs.foldl (fun x b => x.widenSpans (x.taskOf b)) ((bs.zip p).foldl (fun x e => x.restoreBlock e.1 e.2.1 e.2.2) s)
    | _ => s)

/-! ### Pre-emption (14 R333, R334) -/

/-- A block stays on its cores: it is not about to leave them. -/
def State.stays (s : State) (b : Block) : Bool := !b.stopping && (look s.tasks b.task).elim false (fun t => t.st != .ending)

/-- A victim of a co-operative task brings every block of that task. -/
def State.withSiblings (s : State) (blk : Nat) (b : Block) : List Nat :=
  if (look s.tasks b.task).elim false (fun t => t.coop) then (s.blocks.filter (fun e => e.2.task == b.task && !e.2.saved)).map Prod.fst else [blk]

/-- Takes victims in order until a task's candidate would fit; none where it never would. -/
def State.takeVictims (s : State) (i : Nat) (t : Task) : List (Nat × Block) → List Nat → Option (List Nat)
  | [], _ => none
  | (k, b) :: r, took =>
    let took := took ++ s.withSiblings k b
    match s.admission (s.loads (fun n x => s.stays x && !took.contains n)) i t with
    | some (some _) => some took
    | _ => State.takeVictims s i t r took

/-- Blocks of a priority below p, in the order in which they are taken: ascending priority, then the one that started latest. -/
def State.victimOrder (s : State) (p : Nat) : List (Nat × Block) :=
  sortStable (fun (a b : Nat × Block) => decide (a.2.prio < b.2.prio) || (a.2.prio == b.2.prio && decide (b.1 < a.1)))
    (s.blocks.filter (fun e => !e.2.saved && s.stays e.2 && decide (e.2.prio < p)))

/-- The victims for the first candidate that cannot be placed and that some would let in. A candidate that fits once blocks already stopping have left takes none. -/
def State.victims (s : State) : List (Nat × Task) → List Nat
  | [] => []
  | (i, t) :: r =>
    match s.admission (s.loads (fun _ _ => true)) i t with
    | some none =>
      match s.admission (s.loads (fun _ x => s.stays x)) i t with
      | some (some _) => []
      | _ =>
        match s.takeVictims i t (s.victimOrder t.prio) [] with
        | some l => l
        | none => State.victims s r
    | _ => State.victims s r

/-- Victims stop issuing, and their open regions abort with PREEMPT (06 R186), in one instant: none of them is a CASCADE of another (09 R282). -/
def State.stopBlocks (s : State) (blks : List Nat) : State :=
  let t := blks.foldl (fun x blk => x.onBlock blk (fun b => { b with stopping := true })) s
  t.abortAll ((t.regions.filter (fun e => blks.contains e.2.owner.blk)).map (fun e => (e.1, 8)))

/-- PREEMPTION. -/
def execPreemption (s : State) : Out := .next (s.stopBlocks (s.victims s.ordered))

/-- The matrix commands of a segment that can run have run: none is left, or an MCMERGE whose partners have not come. -/
def matrixIdle (g : Segment) : Bool :=
  match g.gmx with
  | [] => true
  | (_, .mcmerge ..) :: _ => true
  | _ => false

/-- Nothing of a block is in flight: OUTS of its groups and sequencers, its matrix commands, a REGROUP move. -/
def State.blockQuiet (s : State) (blk : Nat) : Bool :=
  (s.groups.filter (fun e => e.1.blk == blk)).all (fun e => e.2.outs == 0 && e.2.wait != .moving)
    && (s.seqs.filter (fun e => e.1.sg.blk == blk)).all (fun e => e.2.outs == 0)
    && (s.segs.filter (fun e => e.1.blk == blk)).all (fun e => matrixIdle e.2)

/-- A group's wait in the image: its monitor is dropped (05 R143). -/
def Group.imageWait (g : Group) : Wait :=
  match g.wait with
  | .waitc w => .waitc { w with monitor := false, hit := false }
  | w => w

/-- A sequencer's wait in the image. -/
def Sequencer.imageWait (e : Sequencer) : Wait :=
  match e.wait with
  | .waitc w => .waitc { w with monitor := false, hit := false }
  | w => w

/-- Answers that the agents of a block waited for at another chip are no longer awaited. -/
def State.forgetBlock (s : State) (blk : Nat) : State :=
  let t := ((s.groups.filter (fun e => e.1.blk == blk)).map (fun e => Agent.grp e.1)).foldl State.forgetWaits s
  ((s.seqs.filter (fun e => e.1.sg.blk == blk)).map (fun e => Agent.sqr e.1)).foldl State.forgetWaits t

/-- The block leaves its cores: its groups leave their slots, its registers hold defined words (02 R43), its monitors are dropped, its image is written to the task's context area. What the image holds, State keeps in the block: the format is private to the chip (14 R321, R334; log entry 56). -/
def State.saveBlock (s : State) (blk : Nat) (swap : Bool) : State :=
  let t : State := { s with
    blocks := upd s.blocks blk (fun b => { b with saved := true, swapped := swap, stopping := false, polledAt := s.ptime })
    slots := s.slots.map (fun e => (e.1, { active := e.2.active.filter (fun k => k.blk != blk), pending := e.2.pending.filter (fun k => k.blk != blk) }))
    groups := s.groups.map (fun e => if e.1.blk = blk then (e.1, { e.2.settle s.freeCtr with wait := e.2.imageWait }) else e)
    seqs := s.seqs.map (fun e => if e.1.sg.blk = blk then (e.1, { e.2.settle s.freeCtr with wait := e.2.imageWait }) else e) }
  ((t.forgetBlock blk).blurArea (s.taskOf blk)).onTask (s.taskOf blk) (fun x => { x with lastProgress := s.ptime })

/-- SAVE_COMPLETE: what the block had in flight has ended, and its image is written. -/
def execSaveComplete (s : State) : Out :=
  .next (match s.arg with
    | .num blk =>
      match look s.blocks blk with
      | none => s
      | some b => if b.stopping ∧ s.stays { b with stopping := false } ∧ s.blockQuiet blk then s.saveBlock blk false else s
    | _ => s)

/-! ### Swap-out (08 R249) -/

/-- Every group of a block that has not ended is parked at WAITC, and no sequencer program runs. -/
def State.allMonitors (s : State) (blk : Nat) : Bool :=
  (s.aliveGroups blk).all (fun e => match e.2.wait with | .waitc _ => true | _ => false)
    && !(s.aliveGroups blk).isEmpty && !s.seqs.any (fun e => e.1.sg.blk == blk && e.2.running) && s.blockQuiet blk

/-- A block of at least a priority is ready and waits for cores. -/
def State.waiter (s : State) (prio : Nat) : Bool :=
  s.ordered.any (fun e => decide (prio ≤ e.2.prio) && s.admission (s.loads (fun _ _ => true)) e.1 e.2 == some none)

/-- BLOCK_SWAP_OUT. -/
def execBlockSwapOut (s : State) : Out :=
  .next (match s.arg with
    | .num blk =>
      match look s.blocks blk with
      | none => s
      | some b =>
        let set := s.withSiblings blk b
        if !b.saved ∧ set.all (fun k => (look s.blocks k).elim false s.stays && s.allMonitors k) ∧ s.waiter b.prio then set.foldl (fun x k => x.saveBlock k true) s else s
    | _ => s)

/-- One waiting group of a block that is out: its word is read here, or asked for. -/
def State.pollGroup (s : State) (k : GKey) : State :=
  match s.agentWait (.grp k) with
  | .waitc x =>
    let back := s.onBlock k.blk (fun b => { b with swapped := false })
    if x.deadline.elim false (fun d => decide (d ≤ s.ptime)) then back
    else
      match s.sendTo (flat x.id x.off) with
      | .gone => s
      | .here id _ _ => (if wcompare x.cond x.n32 (s.monitorRead x.id x.off) x.value then back else s).countLocal id
      | .away c g id off => s.request { s.packet .read c (.read (BitVec.ofNat 64 (flat id off)) 4 { kind := .data, order := .acquire x.scope }) [] with g := g } (.wait (.grp k))
  | _ => s

/-- SWAPPED_BLOCK_POLL: every 1,024 ns. -/
def execSwappedBlockPoll (s : State) : Out :=
  .next (match s.arg with
    | .num blk =>
      match look s.blocks blk with
      | none => s
      | some b =>
        if b.swapped ∧ b.polledAt + 1024 ≤ s.ptime then ((s.aliveGroups blk).map Prod.fst).foldl State.pollGroup (s.onBlock blk (fun x => { x with polledAt := s.ptime })) else s
    | _ => s)

/-- Segments of a block. -/
def State.segKeys (s : State) (blk : Nat) : List SKey := (s.segs.filter (fun e => e.1.blk == blk)).map Prod.fst

/-! ### Ends of blocks and tasks (08 R243; 14 R317, R327, R342) -/

/-- A block and all it holds leave the chip. -/
def State.removeBlock (s : State) (blk : Nat) : State :=
  let t : State := { s with
    blocks := del s.blocks blk
    groups := s.groups.filter (fun e => e.1.blk != blk)
    segs := s.segs.filter (fun e => e.1.blk != blk)
    seqs := s.seqs.filter (fun e => e.1.sg.blk != blk)
    far := s.far.filter (fun r => match r.who with | .code b => b != blk | .launch w => agentBlk w != blk | _ => true)
    slots := s.slots.map (fun e => (e.1, { active := e.2.active.filter (fun k => k.blk != blk), pending := e.2.pending.filter (fun k => k.blk != blk) })) }
  t.forgetBlock blk

/-- A block has ended (08 R243): its groups have, its spawn memories are empty and no sequencer program runs. A program that a fault has halted runs until what it issued has performed, as END waits for OUTS (05 R131; DEDUCED, log entry 21). -/
def State.blockEnded (s : State) (blk : Nat) (b : Block) : Bool :=
  !b.saved && (s.aliveGroups blk).isEmpty && (s.segs.filter (fun e => e.1.blk == blk)).all (fun e => e.2.spawn.isEmpty)
    && !s.seqs.any (fun e => e.1.sg.blk == blk && (e.2.running || e.2.outs != 0)) && (look s.tasks b.task).elim false (fun t => t.st == .running)

/-- The matrix commands that a segment has queued run, as far as they can: at most n steps of its engine. -/
def State.runOut (s : State) (sg : SKey) : Nat → State
  | 0 => s
  | n + 1 =>
    match (look s.segs sg).elim [] (fun g => g.gmx) with
    | [] => s
    | (_, c) :: _ => State.runOut (s.runGmx sg c) sg n

/-- BLOCK_END. Matrix commands that are still queued run first, as in a save (14 R334; DEDUCED, log entry 21): a drain's merge at memory is not lost. -/
def State.endBlock (s : State) (blk : Nat) (b : Block) : State :=
  let t := (s.segKeys blk).foldl (fun u sg => u.runOut sg (2 * ((look u.segs sg).elim 0 (fun g => g.gmx.length)))) s
  (t.removeBlock blk).onTask b.task (fun t => { t with active := t.active - 1, ended := t.ended + 1, lastProgress := s.ptime })

/-- Future operations of a task run, other than drains that wait for a TREL (DEDUCED, log entry 21). -/
def State.taskOps (s : State) (i : Nat) : Bool := s.ops.any (fun e => e.2.task == i && e.2.st == .pending && !e.2.armed)

/-- TASK_END of a running task whose blocks have all ended. -/
def State.finishTask (s : State) (i : Nat) (t : Task) : State :=
  if t.st = .running ∧ t.next = t.total ∧ t.active = 0 ∧ !s.taskOps i then ({ s with tasks := del s.tasks i }).postEvent (eventOf s.chipId 1 i 0 0 0 [0, 0, 0, 0]) else s

/-- Blocks and tasks that have ended leave, within the step that ended them. -/
def State.sweepTasks (s : State) : State :=
  let t := s.blocks.foldl (fun (x : State) (e : Nat × Block) => if x.blockEnded e.1 e.2 then x.endBlock e.1 e.2 else x) s
  let t := t.tasks.foldl (fun (x : State) (e : Nat × Task) => x.finishTask e.1 e.2) t
  { t with stale := if t.stale = [] then [] else t.stale.filter (fun f => t.codeIds.contains (f / 2 ^ 18)) }

/-- The event of a task that leaves ENDING (14 R340). -/
def Task.lastEvent (t : Task) (here i : Nat) : EventRec :=
  match t.killer, t.fault with
  | some (chip, task, blk), _ => eventOf here 3 i 0 0 0 [BitVec.ofNat 32 (task * 4096 + chip), BitVec.ofNat 32 blk, 0, 0]
  | none, some (bid, gid, rec) => eventOf here 2 i bid gid 0 rec
  | none, none => eventOf here 3 i 0 0 0 [0, 0, 0, 0]

/-- TASK_ENDING_COMPLETE: every started block has stopped and drained, and no operation of the task runs. -/
def execTaskEndingComplete (s : State) : Out :=
  .next (match s.arg with
    | .num i =>
      match look s.tasks i with
      | none => s
      | some t =>
        let mine := (s.blocks.filter (fun e => e.2.task == i)).map Prod.fst
        if t.st = .ending ∧ mine.all s.blockQuiet ∧ !s.taskOps i then
          let u := mine.foldl State.removeBlock s
          ({ u with tasks := del u.tasks i }).postEvent (t.lastEvent s.chipId i)
        else s
    | _ => s)

/-! ### The end of a REGROUP move (08 R244) -/

/-- The move of a block is complete: floors are this instant, completion times the block's largest; groups left without threads end. -/
def State.endMove (s : State) (blk : Nat) : State :=
  let gs := (s.aliveGroups blk).filter (fun e => e.2.wait == .moving)
  let w := maxOf (gs.map (fun e => e.2.gwct))
  (gs.map Prod.fst).foldl (fun x k => (x.onGroup k (fun g => { g with floor := s.clock, gwct := w, wait := .none })).checkEnd k) s

/-! ### The watchdog (14 R339) -/

/-- A WATCHDOG trap of a task is still to be delivered. -/
def State.watchOpen (s : State) (i : Nat) : Bool :=
  s.groups.any (fun e => s.groupTask e.1 == i && !e.2.ended && (match e.2.wait with | .trap r => r.code == .watchdog | _ => false))

/-- A task's watchdog interval has passed with nothing issued, started, ended or saved, and its last WATCHDOG traps have been delivered. -/
def State.watchDue (s : State) (i : Nat) (t : Task) : Bool := t.st == .running && t.wdog != 0 && decide (t.lastProgress + t.wdog * 1000000 ≤ s.ptime) && !s.watchOpen i

/-- WATCHDOG: every group of the task that has not ended traps; one event is posted. A REGROUP move ends first, and a trap that was to be delivered gives way: its instruction issues again after the handler. The groups of a block that is out (08 R249) trap in its image, and the block is restorable, so that they are delivered (DEDUCED, log entry 43). -/
def execWatchdog (s : State) : Out :=
  .next (match s.arg with
    | .num i =>
      match look s.tasks i with
      | none => s
      | some t =>
        if s.watchDue i t then
          let blks := (s.blocks.filter (fun e => e.2.task == i)).map Prod.fst
          let ks := (blks.map (fun b => (s.aliveGroups b).map Prod.fst)).flatten
          ((ks.foldl (fun u k => u.trapWaiting k .watchdog) (blks.foldl (fun u b => (u.endMove b).onBlock b (fun x => { x with swapped := false })) s)).onTask i (fun x => { x with lastProgress := s.ptime })).postEvent (eventOf s.chipId 4 i 0 0 0 [BitVec.ofNat 32 ks.length, 0, 0, 0])
        else s
    | _ => s)

/-! ### The sheaf former (08 R240 to R242) -/

/-- The lowest GROUPID of a segment that no group holds. -/
def State.freeGid (s : State) (sg : SKey) : Option Nat :=
  match look s.blocks sg.blk with
  | none => none
  | some b =>
    let held := (s.aliveGroups sg.blk).map (fun e => e.1.gid)
    (regs (sg.seg * b.perSeg) (min b.perSeg (b.gmax - sg.seg * b.perSeg))).find? (fun n => !held.contains n)

/-- What makes a class: xpc, and the recorded tags. -/
def Spawn.cls (r : Spawn) : Word × List (Nat × Tag) := (r.xpc, (if r.marked then [(0, .poison)] else []) ++ r.regs.map (fun e => (e.1, e.2.1)))

/-- A recorded word of a thread. -/
def Spawn.word (r : Spawn) (j : Nat) : Option (Tag × Word) := look (r.regs.map (fun e => (e.1, (e.2.1, e.2.2)))) j

/-- Register j of a new sheaf: the threads' words; undefined where nothing is recorded and in empty lanes. -/
def State.sheafReg (s : State) (gid : Nat) (rs : List Spawn) (j : Nat) : VReg :=
  let rec0 := (rs.head?).elim none (fun r => r.word j)
  { tag := if j = 0 ∧ rs.any (fun r => r.marked) then .poison else rec0.elim .raw Prod.fst
    lanes := (List.range 32).map (fun l =>
      match rs[l]? with
      | none => s.undef (32768 + 256 * gid + j) l
      | some r => if j = 0 then r.thread else (r.word j).elim (s.undef (32768 + 256 * gid + j) l) Prod.snd) }

/-- StartSheaf of the oldest records of a class. A program counter or return stack that comes from a poisoned sector ends the task (17 R402). DEDUCED, log entry 44. -/
def State.startSheaf (s : State) (sg : SKey) (b : Block) (gid : Nat) (rs : List Spawn) : State :=
  let lanes := (List.range 32).map (fun l => (rs[l]?).elim Lane.gone (fun r => laneStart r.xpc r.ras))
  let g := groupStart ((List.range b.vregs).map (s.sheafReg gid rs)) b.startG lanes sg.seg s.clock (maxOf (rs.map (fun r => r.gwct)))
  let t := s.onSeg sg (fun x => { x with spawn := rs.foldl (fun l r => l.erase r) x.spawn })
  let u := ({ t with groups := put t.groups ⟨sg.blk, gid⟩ g }).bindGroup ⟨sg.blk, gid⟩ (b.cores.getD sg.seg 0)
  if rs.any (fun r => r.lost) then u.endPoisoned b.task else u

/-- No group of the block can issue: every group that has not ended is parked (08 R241). -/
def State.blockStuck (s : State) (blk : Nat) : Bool := (s.aliveGroups blk).all (fun e => s.groupParked e.1)

/-- The records of the sheaf that starts next on a segment, if one does. -/
def State.nextSheaf (s : State) (sg : SKey) (all : Bool) : List Spawn :=
  let l := (look s.segs sg).elim [] (fun g => g.spawn)
  let of := fun (r : Spawn) => (l.filter (fun x => x.cls == r.cls)).take 32
  match l.find? (fun r => decide ((of r).length = 32)), l with
  | some r, _ => of r
  | none, r :: _ => if all || s.blockStuck sg.blk then of r else []
  | none, [] => []

/-- One StartSheaf of a segment, where one is due. -/
def State.sheafStep (s : State) (sg : SKey) (all : Bool) : State :=
  match look s.blocks sg.blk, s.freeGid sg, s.nextSheaf sg all with
  | some b, some n, r :: rs => s.startSheaf sg b n (r :: rs)
  | _, _, _ => s

/-- SHEAF_START. -/
def execSheafStart (s : State) : Out :=
  .next (match s.arg with
    | .seg sg => if s.blockRuns sg.blk then s.sheafStep sg false else s
    | _ => s)

/-! ### Regrouping (07 R227; 08 R244; 09 R261) -/

/-- Every waiting class of a segment starts, while GROUPIDs are free. -/
def State.startAll (s : State) (sg : SKey) : Nat → State
  | 0 => s
  | n + 1 => State.startAll (s.sheafStep sg true) sg n

/-- Threads wait on a segment with no GROUPID free. -/
def State.spawnStuck (s : State) (blk : Nat) : Bool := (s.segs.filter (fun e => e.1.blk == blk)).any (fun e => !e.2.spawn.isEmpty && (s.freeGid e.1).isNone)

/-- A group that waits at REGROUP traps there. -/
def State.regroupTrap (s : State) (c : FaultCode) (k : GKey) : State :=
  match s.agentWait (.grp k) with
  | .regroup path pc _ _ _ _ _ =>
    (s.onGroup k (fun g => { g with wait := .trap { code := c, detail := 0, pc := pc, lanes := path, resume := pc, deferred := false, seq := false, path := path } })).unpark k
  | _ => s

/-- Groups of a block that wait at REGROUP. -/
def State.arrived (s : State) (blk : Nat) : List (GKey × Group) := (s.aliveGroups blk).filter (fun e => match e.2.wait with | .regroup .. => true | _ => false)

/-- Every group that waits at REGROUP traps. -/
def State.regroupTraps (s : State) (blk : Nat) (c : FaultCode) : State := ((s.arrived blk).map Prod.fst).foldl (fun x k => x.regroupTrap c k) s

/-- A thread on the move: key, thread index, return stack, words of the registers that move. -/
structure Mover where
  key : Nat
  thread : Nat
  ras : List Word
  words : List (Nat × Word)
  deriving DecidableEq, Repr

/-- The word a thread carries. -/
def Mover.word (x : Mover) (j : Nat) : Word := (look x.words j).getD 0

/-- Registers that move: v0, and the mask's. -/
def movedRegs (mask : Nat) : List Nat := (List.range 64).filter (fun j => j == 0 || mask / 2 ^ j % 2 == 1)

/-- Live threads of a group. -/
def moversOf (mask key : Nat) (g : Group) : List Mover :=
  (lanesOf g.live).map (fun l =>
    let w := fun (j : Nat) => (g.v.getD j VReg.zero).lanes.getD l 0
    { key := (w key).toNat, thread := (w 0).toNat, ras := (g.lane l).ras, words := (movedRegs mask).map (fun j => (j, w j)) })

/-- Removes a thread whose key and token an earlier one has, adding its weight to the earlier one's. -/
def mergeMover (key : Nat) (l : List Mover) (x : Mover) : List Mover :=
  let same := fun (y : Mover) => y.key == x.key && y.word (key + 1) == x.word (key + 1)
  if l.any same then
    l.map (fun y => if same y then { y with words := put y.words (key + 2) (BitVec.ofNat 32 (fadd .rn .fp32 (y.word (key + 2)).toNat (x.word (key + 2)).toNat)) } else y)
  else l ++ [x]

/-- A moved register's tag differs between groups, or a .dsp token or weight carries another tag than it must. -/
def moveTagBad (gs : List Group) (mask key : Nat) (dsp : Bool) : Bool :=
  let tag := fun (g : Group) (j : Nat) => (g.v.getD j VReg.zero).tag
  (movedRegs mask).any (fun j => gs.any (fun g => gs.any (fun h => tag g j != tag h j)))
    || (dsp && gs.any (fun g => !(tag g (key + 1) == .raw || tag g (key + 1) == .i32) || tag g (key + 2) != .f32))

/-- A group with the threads it receives. Registers outside the mask, and lanes beyond its threads, are undefined. -/
def Group.receive (g : Group) (stamp gid mask : Nat) (pc : Word) (ts : List Mover) : Group :=
  { g with
    lanes := (List.range 32).map (fun l => (ts[l]?).elim Lane.gone (fun x => laneStart (pc + 8) x.ras))
    v := g.v.mapIdx (fun j r => { r with lanes := (List.range 32).map (fun l =>
      match ts[l]? with
      | some x => if (movedRegs mask).contains j then x.word j else Config.free stamp (32768 + 256 * gid + j) l
      | none => Config.free stamp (32768 + 256 * gid + j) l) })
    wait := .moving }

/-- The move, once every group has arrived: threads in order, duplicates merged with .dsp, and each group's registers and result. -/
def State.regroupMove (s : State) (gs : List (GKey × Group)) (pc : Word) (mask key : Nat) (dsp : Bool) : State :=
  let all := (gs.map (fun e => moversOf mask key e.2)).flatten
  let sorted := sortStable (fun (x y : Mover) => decide (x.key < y.key) || (x.key == y.key && decide (x.thread < y.thread))) all
  let kept := if dsp then sorted.foldl (mergeMover key) [] else sorted
  (gs.zipIdx).foldl (fun t e =>
    let ts := (kept.drop (32 * e.2)).take 32
    let g := e.1.2.receive s.freeCtr e.1.1.gid mask pc ts
    let g := match e.1.2.wait with
      | .regroup _ _ _ _ true gd _ => g.gwrite gd (BitVec.ofNat 32 ((if kept.length = all.length then 0 else 2 ^ 31) + ts.length))
      | _ => g
    t.setGroup e.1.1 g) s

/-- Starts the move of a block when every group that has not ended waits at REGROUP and no thread waits in spawn memory. -/
def State.tryRegroup (s : State) (blk : Nat) : State :=
  let gs := s.aliveGroups blk
  let here := s.arrived blk
  match here with
  | [] => s
  | (_, g) :: _ =>
    if here.length < gs.length then s
    else if s.spawnStuck blk then s.regroupTraps blk .syncMask
    else if (s.segs.filter (fun e => e.1.blk == blk)).any (fun e => !e.2.spawn.isEmpty) then s
    else
      match g.wait with
      | .regroup _ pc mask key dsp _ _ => if moveTagBad (gs.map Prod.snd) mask key dsp then s.regroupTraps blk .tag else s.regroupMove gs pc mask key dsp
      | _ => s

/-- Another group waits at a REGROUP with another program counter, mask or key. -/
def regroupDiffers (here : List (GKey × Group)) (pc : Word) (mask key : Nat) : Bool :=
  here.any (fun e => match e.2.wait with
    | .regroup _ p m k _ _ _ => p != pc || m != mask || k != key
    | _ => false)

/-- A group arrives at REGROUP. The first starts every waiting class of the block. -/
def State.arriveRegroup (s : State) (k : GKey) (w : Wait) (pc : Word) (mask key : Nat) : State :=
  if regroupDiffers (s.arrived k.blk) pc mask key then (s.regroupTraps k.blk .syncMask).raise (.of .syncMask)
  else
    let t := if (s.arrived k.blk).isEmpty then (s.segKeys k.blk).foldl (fun x sg => x.startAll sg 64) s else s
    if t.spawnStuck k.blk then (t.regroupTraps k.blk .syncMask).raise (.of .syncMask)
    else (t.onGroup k (fun g => { g with wait := w })).tryRegroup k.blk

/-- REGROUP. It drains, then waits for the other groups of its block. -/
def execRegroup (m : Bool) (dsp : Bool) (gd ga : BitVec 9) (key : BitVec 8) (s : State) : Out :=
  let mask := s.readPair 0 ga.toNat
  let kn := key.toNat
  let names := (if dsp then [gd.toNat] else []) ++ [ga.toNat, ga.toNat + 1]
  let keys := if dsp then regs kn 3 else [kn]
  issue s ([s.nameExc [kn] names, excIf (decide (mask / 2 ^ s.vLimit ≠ 0) || (dsp && keys.any (fun j => mask / 2 ^ j % 2 == 0))) (.of .illegal),
      s.rowExc .group, s.closedExc true, s.struckExc [ga.toNat, ga.toNat + 1]]
      ++ keys.map (fun j => s.poisonExc (.v 1 j (fun _ => true)))
      ++ [excIf (s.curGroup.elim false (fun g => (g.live &&& ~~~s.curLanes) != 0)) (.of .syncMask)])
    (fun t =>
      if t.drained then
        match t.cur with
        | .path k lanes pc => t.settleCur.arriveRegroup k (.regroup lanes pc mask kn dsp gd.toNat m) pc mask kn
        | _ => t
      else t.drain)

/-- REGROUP_MOVE_COMPLETE. -/
def execRegroupMoveComplete (s : State) : Out :=
  .next (match s.arg with
    | .num blk => s.endMove blk
    | _ => s)

/-! ### Exchanges of an issue slot (08 R234, R236, R237) -/

/-- GROUP_EXCHANGE: a free place is filled, or a parked active group gives its place to a ready pending one. -/
def execGroupExchange (s : State) : Out :=
  .next (match s.arg with
    | .num n =>
      match look s.slots n with
      | none => s
      | some x =>
        if x.active.length < Config.activeSet ∧ !x.pending.isEmpty then s.fillSlot n
        else
          match x.active.find? s.groupParked, s.readyPending x with
          | some a, some p => s.exchange n a p
          | _, _ => s
    | _ => s)

/-- A pending group that has been ready for 256 clocks. -/
def State.longReady (s : State) (k : GKey) : Bool := s.groupReady k && (look s.groups k).elim false (fun g => decide (g.readySince + 256 ≤ s.clock))

/-- PENDING_PROMOTION: a pending group ready for 256 clocks takes the place of the active group that entered earliest; several displace as many. -/
def execPendingPromotion (s : State) : Out :=
  .next (match s.arg with
    | .num n =>
      match look s.slots n with
      | none => s
      | some x =>
        (x.active.zip (x.pending.filter s.longReady)).foldl (fun t e => t.exchange n e.1 e.2) s
    | _ => s)

/-- Pending groups that are not ready begin their interval again. -/
def State.trackReady (s : State) : State :=
  (s.slots.map (fun e => e.2.pending)).flatten.foldl (fun t k => if t.groupReady k then t else t.onGroup k (fun g => { g with readySince := s.clock })) s

end Sys2Proof.Machine
end

