-- ==== Sys2Proof/Machine/Host.lean ====
section
/-! DEFINITION. Writes held for regions (09 R280), soft errors (17 R402, R403), the host port: task posts, events, the management space, attestation, RDMA (R406 to R410, R413), reset and the thermal trip (R411, R415). -/

namespace Sys2Proof.Machine

/-! ### Held writes (09 R280) -/

/-- No ENDED region holds a line, and no earlier write is held at it. DEDUCED, log entry 27. -/
def State.heldReady (s : State) (i : Nat) (h : HeldWrite) : Bool :=
  !s.regions.any (fun e => e.2.ended && (e.2.reads.contains h.line || e.2.writes.contains h.line)) && !(s.held.take i).any (fun x => x.line == h.line)

/-- A held write is tried again at its home. -/
def State.applyHeld (s : State) (h : Held) : State :=
  match h with
  | .part id n => (s.txn? id).elim s (fun t => s.performPart t n)
  | .packet port p => s.requestBurst p port

/-- HELD_WRITE_APPLY: the write is performed while the later ones of its line stand aside. -/
def execHeldWriteApply (s : State) : Out :=
  .next (match s.arg with
    | .num i =>
      match s.held[i]? with
      | none => s
      | some h =>
        if s.heldReady i h then
          let rest := s.held.eraseIdx i
          let t := { s with held := rest.filter (fun x => x.line != h.line) }.applyHeld h.what
          { t with held := t.held ++ rest.filter (fun x => x.line == h.line) }
        else s
    | _ => s)

/-! ### Discovery and the error log (17 R403, R406, R407) -/

/-- The two built clusters that are disabled: any two of the 42 (log entry 30). -/
def disabledClusters : Nat × Nat := (Config.disabled.1 % 42, (Config.disabled.1 % 42 + 1 + Config.disabled.2 % 41) % 42)

/-- The word of enabled clusters, 40 of the 42 bits (17 R406; 00 R1). -/
def clusterBits : Nat := 2 ^ 42 - 1 - 2 ^ disabledClusters.1 - 2 ^ disabledClusters.2

/-- The built core of an enabled core: enabled clusters are numbered by their built positions. -/
def builtCore (core : Nat) : Nat := 4 * (((List.range 42).filter (fun j => clusterBits / 2 ^ j % 2 == 1)).getD (core / 4) (core / 4)) + core % 4

/-- The error-log unit of a site: a core, an L2 slice, or for an M frame or a sector of DRAM its channel, or the unit that the error names (DESIGN CHOICE, log entry 14). -/
def State.logUnit (s : State) (x : ErrorSite) : Option Nat :=
  let coreUnit := fun (c : Nat) => some (888 + builtCore c)
  match x with
  | .l1 core _ => coreUnit core
  | .mem sector =>
    match look s.objs (sector * 64 / 2 ^ 34) with
    | some d => if attrM d.attrs then some (24 + chanOf (rowOf d (sector * 64 % 2 ^ 34))) else some (792 + sector / 2 % Config.channels / 8)
    | none => some (792 + sector / 2 % Config.channels / 8)
  | .scratch sg _ => coreUnit (s.coreOf sg)
  | .dram sector => (look s.objs (sector * 64 / 2 ^ 34)).map (fun d => 24 + chanOf (rowOf d (sector * 64 % 2 ^ 34)))
  | .spawn sg _ _ _ => coreUnit (s.coreOf sg)
  | .vreg k _ => coreUnit (s.coreOf (s.segOf (.grp k)))
  | .tileReg sg _ => coreUnit (s.coreOf sg)
  | .greg k _ => coreUnit (s.coreOf (s.segOf (.grp k)))
  | .ereg q _ => coreUnit (s.coreOf q.sg)
  | .control _ u => some u
  | .locator _ u => some u
  | .unit u => some u

/-- An uncorrectable error's record. -/
def State.logError (s : State) (x : ErrorSite) (place : Word) (poisons : Bool) : State :=
  (s.logUnit x).elim s (fun u => s.onLog u (fun e => e.struck poisons place s.ptime))

/-- A waiting thread's record in poisoned sectors of spawn memory: the v registers that they hold come back with tag POISON (R36); a program counter or return stack ends the task as the thread starts (R402). DESIGN CHOICE, log entry 44. -/
def Spawn.struck (regs : List Nat) (state : Bool) (r : Spawn) : Spawn :=
  { r with regs := r.regs.map (fun x => if regs.contains x.1 then (x.1, .poison, x.2.2) else x), marked := r.marked || regs.contains 0, lost := r.lost || state }

/-- An uncorrectable soft error acts by where it strikes (17 R402). -/
def State.softError (s : State) (x : ErrorSite) (place : Word) : State :=
  match x with
  | .l1 core sector => { s with l1 := s.l1.filter (fun e => !(e.core == core && e.sector == sector)) }.logError x place false
  | .mem sector => { s with poison := addTo s.poison sector }.logError x place true
  | .dram sector => { s with flaws := s.flaws ++ [{ sector := sector, place := place, correctable := false }] }
  | .scratch sg sector => (s.onSeg sg (fun g => { g with poison := addTo g.poison sector })).logError x place true
  | .spawn sg n regs state => (s.onSeg sg (fun g => { g with spawn := g.spawn.modify n (Spawn.struck regs state) })).logError x place true
  | .vreg k r => (s.onGroup k (fun g => g.vtag r .poison)).logError x place true
  | .tileReg sg t => (s.tregTag sg t .poison).logError x place true
  | .greg k r => (s.onGroup k (fun g => { g with struckG := addTo g.struckG r })).logError x place true
  | .ereg q r => (s.onSeq q (fun e => { e with struck := addTo e.struck r })).logError x place true
  | .control i _ => (s.endPoisoned i).logError x place false
  | .locator id _ => { s with locator := del s.locator id }.logError x place false
  | .unit _ => s.logError x place false

/-- SOFT_ERROR: a correctable one is corrected and counted, that of a DRAM sector as the scrubber comes to it (17 R404). -/
def execSoftError (s : State) : Out :=
  .next (match s.arg with
    | .site (.dram sector) place true => { s with flaws := s.flaws ++ [{ sector := sector, place := place, correctable := true }] }
    | .site x _ true => (s.logUnit x).elim s (fun u => s.onLog u ErrorLog.corrected)
    | .site x place false => s.softError x place
    | _ => s)

/-! ### Own messages (17 R410) -/

/-- A message is from the host: its address, one of IPv4 in its mapped form, and its port where one is set. -/
def State.fromHost (s : State) (x : Sender) : Bool := x.addr.mapped == s.host.hostaddr && (s.host.hostport.toNat % 65536 == 0 || x.port.toNat == s.host.hostport.toNat % 65536)

/-- Words of a message, from word 0 of its header. -/
def messageWord (bs : List Byte) (i : Nat) : Word := BitVec.ofNat 32 (natLE ((bs.drop (4 * i)).take 4))

/-- An own message from the bytes of its UDP payload (17 R410): kinds other than these are discarded, and so are another version and a payload shorter than LEN (DESIGN CHOICE, log entry 46). -/
def readMessage (x : Sender) (bs : List Byte) : Option HostMsg :=
  let w := messageWord bs
  let h := (w 0).toNat
  let body := (bs.drop 8).take (h % 2 ^ 16)
  if h / 2 ^ 16 % 256 ≠ 1 ∨ body.length ≠ h % 2 ^ 16 then none
  else
    match h / 2 ^ 24 with
    | 0 => some (.taskPost x (w 1) (w 2) ((List.range 16).map (fun i => w (3 + i))))
    | 3 => some (.eventAck x ((w 3) ++ (w 2)))
    | 4 => some (.mgmtRead x (w 1) (w 2).toNat (w 3).toNat)
    | 5 => some (.mgmtWrite x (w 1) (w 2).toNat (body.drop 4))
    | 7 => some (.attest x (w 1) body)
    | 9 => some (.reset x)
    | _ => none

/-- The message that has come to the host port. -/
def State.hostMsg (s : State) : Option HostMsg :=
  match s.arg with
  | .host m => some m
  | .udp x bs => readMessage x bs
  | _ => none

/-- A message with its header: its kind, version 1, the bytes after the header, its number. -/
def ownMessage (kind : Nat) (seq : Word) (body : List Byte) : List Byte := bytesLE 4 (kind * 2 ^ 24 + 2 ^ 16 + body.length) ++ bytesLE 4 seq.toNat ++ body

/-- The UDP payload of an own message that leaves; answers to RoCEv2 requests are no own messages. -/
def messageBytes (m : HostOut) : Option (List Byte) :=
  match m with
  | .postStatus seq index st code => some (ownMessage 1 seq (wordBytes [index, BitVec.ofNat 32 (st + 256 * code)]))
  | .events seq recs => some (ownMessage 2 seq (wordBytes (BitVec.ofNat 32 recs.length :: recs.flatten)))
  | .mgmtResp seq st data => some (ownMessage 6 seq (wordBytes [BitVec.ofNat 32 st] ++ data))
  | .quote seq body => some (ownMessage 8 seq body)
  | _ => none

/-- Changes the host port. -/
def State.onHost (s : State) (f : HostPort → HostPort) : State := { s with host := f s.host }

/-- A message leaves for the host. -/
def State.say (s : State) (m : HostOut) : State := s.onHost (fun h => { h with out := h.out ++ [m] })

/-- What a task post comes to: its status, its fault code, and the task where it is accepted (14 R328). -/
def State.postCheck (s : State) (i : Nat) (p : List Word) : Nat × Nat × Option Task :=
  if !s.host.everOpen then (3, 0, none)
  else
    match blockExc (recordBad p) with
    | some e => (4, e.code.code, none)
    | none =>
      match s.admitRecord .post p none with
      | .error (.fault e) => (4, e.code.code, none)
      | .error (.away _ _) => (4, 0, none)
      | .ok none => (4, 0, none)
      | .ok (some t) =>
        if s.recordFits .post t ≠ some true then (4, 0, none)
        else if 2047 < i then (4, 0, none)
        else if (look s.tasks i).isSome then (3, 0, none)
        else (0, 0, some t)

/-- What a post asks of other chips before it can be checked: bytes of its kernel, or the sizes of its areas. -/
def State.postAsks (s : State) (p : List Word) : Option State :=
  if !s.host.everOpen ∨ (blockExc (recordBad p)).isSome then none
  else
    match s.admitRecord .post p none with
    | .error (.away a n) => some (s.farWant .post a n)
    | .ok (some t) => if s.recordFits .post t = none then some (s.askSizes .post t) else none
    | _ => none

/-- A post that the HTS can check is applied in one step (14 R328). -/
def State.applyPost (s : State) (seq index : Word) (p : List Word) : State :=
  let i := index.toNat % 4096
  match s.postCheck i p with
  | (st, code, none) => (s.farForget .post).say (.postStatus seq index st code)
  | (st, code, some t) => ((s.farForget .post).install i t).say (.postStatus seq index st code)

/-- TASK_POST. Posts are applied in the order of their arrival; one whose kernel stands at another chip waits for its bytes (log entry 19). -/
def execTaskPost (s : State) : Out :=
  .next (match s.hostMsg with
    | some (.taskPost x seq index p) =>
      if s.fromHost x ∧ s.phase = .up then
        let msg := HostMsg.taskPost x seq index p
        if s.host.posts.isEmpty then
          match s.postAsks p with
          | some t => t.onHost (fun h => { h with posts := h.posts ++ [msg] })
          | none => s.applyPost seq index p
        else s.onHost (fun h => { h with posts := h.posts ++ [msg] })
      else s
    | _ => s)

/-- Posts whose bytes have come arrive again, in order. -/
def State.retryPosts (s : State) : State :=
  if s.host.posts.isEmpty || s.farOpen .post then s
  else { s with agenda := s.host.posts.map (fun x => (Instr.taskPost, StepArg.host x)) ++ s.agenda }.onHost (fun h => { h with posts := [] })

/-- Events due now, at most 28, and the same records marked as sent. -/
def State.sendEvents (s : State) (due : EventRec → Bool) : State :=
  match (s.events.filter due).take 28 with
  | [] => s
  | l =>
    let t : State := { s with events := s.events.map (fun (e : EventRec) => if l.any (fun x => x.seq == e.seq) then { e with sentAt := some s.ptime } else e) }
    (t.say (.events t.host.number (l.map EventRec.words))).onHost (fun h => { h with number := h.number + 1 })

/-- EVENT_SEND: records not sent yet, in SEQ order. -/
def execEventSend (s : State) : Out := .next (if s.phase = .up then s.sendEvents (fun e => e.sentAt.isNone) else s)

/-- EVENT_RESEND: records not acknowledged within 100 µs. -/
def execEventResend (s : State) : Out := .next (if s.phase = .up then s.sendEvents (fun e => e.sentAt.elim false (fun x => decide (x + 100000 ≤ s.ptime))) else s)

/-- EVENT_ACK: records up to a SEQ are freed; USER events that were dropped are then reported in one OVERFLOW record (14 R340). -/
def execEventAck (s : State) : Out :=
  .next (match s.hostMsg with
    | some (.eventAck x upto) =>
      if s.fromHost x ∧ s.phase = .up then
        let keep := s.events.filter (fun e => decide (upto.toNat < e.seq))
        let t := { s with events := keep }
        if keep.length < s.events.length ∧ 0 < s.dropped then { t with dropped := 0 }.takeEvent (eventOf s.chipId 7 0 0 0 0 [BitVec.ofNat 32 s.dropped, 0, 0, 0]) else t
      else s
    | _ => s)

/-! ### The management space (17 R406, R407) -/

/-- Words of a queue pair's record (17 R408). -/
def QueuePair.word (x : QueuePair) (q i : Nat) : Word :=
  match i with
  | 0 => BitVec.ofNat 32 (0x4B00 + q)
  | 1 => x.dqpn
  | 2 => x.rpsn
  | 4 => x.rkey
  | 5 => BitVec.ofNat 32 x.st
  | _ => 0

/-- Words of an error-log record. -/
def ErrorLog.word (e : ErrorLog) (i : Nat) : Word :=
  match i with
  | 0 => e.corr
  | 1 => e.pois
  | 2 => e.replay
  | 3 => e.lastAt
  | 4 => e.lastTime.setWidth 32
  | 5 => (e.lastTime >>> 32).setWidth 32
  | _ => 0

/-- Bytes of the certificate, at most what its place holds. -/
def certLen : Nat := min 8188 (Config.discovery 0x20000).toNat

/-- The word at a multiple of 4 of the management space; 0 outside the table. -/
def State.mgmtWord (s : State) (a : Nat) : Word :=
  if a < 0x34 then
    (if a = 0 then 0x4B09 ||| (Config.discovery 0 &&& 0xFF0000) else if a = 4 then BitVec.ofNat 32 s.chipId
     else if a = 8 then BitVec.ofNat 32 clusterBits else if a = 12 then BitVec.ofNat 32 (clusterBits / 2 ^ 32) else if a = 0x30 then Config.firmwareVersion s.resets else Config.spares s.resets a)
  else if a = 0x100 then s.migratePolicy
  else if a = 0x104 then s.stubIdle
  else if a = 0x108 then s.pinGrace
  else if a = 0x200 then s.host.hostctl
  else if a = 0x204 then s.host.hostport
  else if 0x208 ≤ a ∧ a < 0x218 then (s.host.hostaddr >>> (8 * (a - 0x208))).setWidth 32
  else if a = 0x218 then BitVec.ofNat 32 (s.host.plan.toNat + s.host.planState * 2 ^ 28)
  else if a = 0x21C then s.fab.word
  else if 0x400 ≤ a ∧ a < 0xC00 then (s.host.qps.getD ((a - 0x400) / 32) QueuePair.reset).word ((a - 0x400) / 32) (a % 32 / 4)
  else if 0x10000 ≤ a ∧ a < 0x10000 + 32 * 1121 then ((look s.host.log ((a - 0x10000) / 32)).getD ErrorLog.zero).word (a % 32 / 4)
  else if a = 0x20000 then BitVec.ofNat 32 certLen
  else if 0x20004 ≤ a ∧ a < 0x20004 + certLen then BitVec.ofNat 32 (natLE ((regs (a - 0x20004) (min 4 (certLen - (a - 0x20004)))).map Config.certByte))
  else if 0x30000 ≤ a ∧ a < 0x30000 + tableBytes then s.host.planbuf.word (a - 0x30000)
  else 0

/-- A byte of the management space. -/
def State.mgmtByte (s : State) (a : Nat) : Byte := ((s.mgmtWord (a / 4 * 4)) >>> (8 * (a % 4))).setWidth 8

/-- How MGMT_WRITE may touch an offset: none outside the table, else whether its field is RW. -/
def mgmtAccess (a : Nat) : Option Bool :=
  if a < 0x34 then some false
  else if 0x100 ≤ a ∧ a < 0x10C then some true
  else if 0x200 ≤ a ∧ a < 0x21C then some true
  else if 0x21C ≤ a ∧ a < 0x220 then some false
  else if 0x400 ≤ a ∧ a < 0xC00 then some (([1, 2, 5] : List Nat).contains (a % 32 / 4))
  else if 0x10000 ≤ a ∧ a < 0x10000 + 32 * 1121 then some true
  else if 0x20000 ≤ a ∧ a < 0x22000 then some false
  else if 0x30000 ≤ a ∧ a < 0x30000 + tableBytes then some true
  else none

/-- The words that a write touches, as they would stand after it. -/
def State.mgmtWords (s : State) (off : Nat) (data : List Byte) : List (Nat × Word) :=
  if data = [] then []
  else
    (regs (off / 4) ((off + data.length - 1) / 4 + 1 - off / 4)).map (fun k =>
      (4 * k, BitVec.ofNat 32 (natLE ((regs (4 * k) 4).map (fun a => if off ≤ a ∧ a < off + data.length then data.getD (a - off) 0 else s.mgmtByte a)))))

/-- A word of the write sets GO (17 R407). -/
def setsGo (e : Nat × Word) : Bool := e.1 == 0x218 && e.2.getLsbD 31

/-- A word of the write is a queue pair's STATE: its number and value. -/
def qpState (e : Nat × Word) : Option (Nat × Nat) := if 0x400 ≤ e.1 ∧ e.1 < 0xC00 ∧ e.1 % 32 = 20 then some ((e.1 - 0x400) / 32, e.2.toNat % 4) else none

/-- A queue pair. -/
def State.qp (s : State) (q : Nat) : QueuePair := s.host.qps.getD q QueuePair.reset

/-- A word that may not be written now: GO while the fabric is not in RESET, DQPN and RPSN of a queue pair that is not in state 0, a STATE that the host may not set. DEDUCED, log entry 46. -/
def State.mgmtRefused (s : State) (e : Nat × Word) : Bool :=
  (setsGo e && (s.fab.st != .reset || s.host.planState == 1))
    || (0x400 ≤ e.1 && e.1 < 0xC00 && (e.1 % 32 == 4 || e.1 % 32 == 8) && (s.qp ((e.1 - 0x400) / 32)).st != 0)
    || (match qpState e with
        | some (q, v) => !(v == 0 || v == (s.qp q).st || (v == 1 && (s.qp q).st == 0))
        | none => false)

/-- Changes a queue pair. -/
def State.onQp (s : State) (q : Nat) (f : QueuePair → QueuePair) : State := s.onHost (fun h => { h with qps := h.qps.modify q f })

/-- STATE := 1: the firmware issues a fresh R_Key and the pair is READY. -/
def State.connectQp (s : State) (q : Nat) : State := s.onQp q (fun x => { x with rkey := Config.rkey q x.issued, issued := x.issued + 1, st := 2 })

/-- STATE := 0: the pair ends and its R_Key is withdrawn. -/
def State.endQp (s : State) (q : Nat) : State := s.onQp q (fun x => { x with rkey := 0, st := 0 })

/-- The bring-up with the table in PLANBUF (17 R411): the first table goes live, SELF becomes the chip number, the ports present their plan id, and the fabric is OPEN; a table that fails its checks changes nothing but PLANCTL. -/
def State.bringUp (s : State) : State :=
  match parseTable ((regs 0 tableBytes).map s.host.planbuf.read) with
  | none => s.onHost (fun h => { h with planState := 3 })
  | some t =>
    if t.plan ≠ s.host.plan then s.onHost (fun h => { h with planState := 3 })
    else
      let ports := t.entries.foldl (fun m e => m ||| e.2) 0#64
      let u := { s with chipId := t.self }.onFab (fun f => { f with live := some t })
      ((u.setFab .opened).sendSync ports t.plan u.ptime (groupOf (some t)) (groupOf (some t))).onHost (fun h => { h with planState := 2, everOpen := true })

/-- Writes one word of the space, whose reserved bits stay 0. -/
def State.mgmtSet (s : State) (e : Nat × Word) : State :=
  let w := e.2
  let a := e.1
  if a = 0x100 then { s with migratePolicy := w &&& 1 }
  else if a = 0x104 then { s with stubIdle := w }
  else if a = 0x108 then { s with pinGrace := w }
  else if a = 0x200 then s.onHost (fun h => { h with hostctl := w &&& 3 })
  else if a = 0x204 then s.onHost (fun h => { h with hostport := w &&& 0xFFFF })
  else if 0x208 ≤ a ∧ a < 0x218 then
    s.onHost (fun h => { h with hostaddr := (h.hostaddr &&& ~~~(0xFFFFFFFF#128 <<< (8 * (a - 0x208)))) ||| (w.setWidth 128 <<< (8 * (a - 0x208))) })
  else if a = 0x218 then
    let t := s.onHost (fun h => { h with plan := w.setWidth 16 })
    if w.getLsbD 31 then t.bringUp else t
  else if 0x400 ≤ a ∧ a < 0xC00 then
    let q := (a - 0x400) / 32
    if a % 32 = 4 then s.onQp q (fun x => { x with dqpn := w &&& 0xFFFFFF })
    else if a % 32 = 8 then s.onQp q (fun x => { x with rpsn := w &&& 0xFFFFFF })
    else if a % 32 = 20 then (if w.toNat % 4 = 0 then s.endQp q else if w.toNat % 4 = 1 ∧ (s.qp q).st = 0 then s.connectQp q else s)
    else s
  else if 0x10000 ≤ a ∧ a < 0x10000 + 32 * 1121 then
    let u := (a - 0x10000) / 32
    match a % 32 / 4 with
    | 0 => s.onLog u (fun x => { x with corr := w })
    | 1 => s.onLog u (fun x => { x with pois := w })
    | 2 => s.onLog u (fun x => { x with replay := w })
    | 3 => s.onLog u (fun x => { x with lastAt := w })
    | 4 => s.onLog u (fun x => { x with lastTime := (x.lastTime >>> 32 <<< 32) ||| w.setWidth 64 })
    | 5 => s.onLog u (fun x => { x with lastTime := (x.lastTime &&& 0xFFFFFFFF) ||| (w.setWidth 64 <<< 32) })
    | _ => s
  else if 0x30000 ≤ a ∧ a < 0x30000 + tableBytes then s.onHost (fun h => { h with planbuf := h.planbuf.put (a - 0x30000) (bytesLE 4 w.toNat) })
  else s

/-- A management write: 3 where it touches a field not marked RW or one that may not be written now, 4 where it touches an offset outside the table, else every field it names. -/
def State.mgmtWrite (s : State) (seq : Word) (off : Nat) (data : List Byte) : State :=
  let touched := (regs off data.length).map mgmtAccess
  let ws := s.mgmtWords off data
  if touched.any (fun x => x == some false) then s.say (.mgmtResp seq 3 [])
  else if touched.any Option.isNone then s.say (.mgmtResp seq 4 [])
  else if ws.any s.mgmtRefused then s.say (.mgmtResp seq 3 [])
  else (ws.foldl State.mgmtSet s).say (.mgmtResp seq 0 [])

/-- The step that a management write is: the bring-up, the connection or the end of a queue pair, or a plain write. -/
inductive MgmtKind
  | go | connect | disconnect | plain
  deriving DecidableEq, Repr

/-- Kind of a management write. -/
def State.mgmtKind (s : State) (off : Nat) (data : List Byte) : MgmtKind :=
  let ws := s.mgmtWords off data
  if ws.any setsGo then .go
  else if (ws.filterMap qpState).any (fun x => x.2 == 1) then .connect
  else if (ws.filterMap qpState).any (fun x => x.2 == 0) then .disconnect
  else .plain

/-- In a thermal trip the chip answers a management message with the fact; its status word is left open (17 R415). -/
def State.sayTripped (s : State) (seq : Word) : State := s.say (.mgmtResp seq ((s.undef 20011 0).toNat % 256) [])

/-- A management write of one kind arrives. -/
def State.onMgmtWrite (s : State) (k : MgmtKind) : State :=
  match s.hostMsg with
  | some (.mgmtWrite x seq off data) =>
    if s.fromHost x ∧ s.mgmtKind off data = k then
      match s.phase with
      | .up => s.mgmtWrite seq off data
      | .tripped => s.sayTripped seq
      | .imageRefused => s
    else s
  | _ => s

/-- MGMT_WRITE. -/
def execMgmtWrite (s : State) : Out := .next (s.onMgmtWrite .plain)
/-- PLANCTL_GO. -/
def execPlanctlGo (s : State) : Out := .next (s.onMgmtWrite .go)
/-- QP_CONNECT. -/
def execQpConnect (s : State) : Out := .next (s.onMgmtWrite .connect)
/-- QP_END. -/
def execQpEnd (s : State) : Out := .next (s.onMgmtWrite .disconnect)

/-- MGMT_READ: any part of the space, at most 1,024 bytes; with its firmware image refused, the chip answers for the discovery registers only. -/
def execMgmtRead (s : State) : Out :=
  .next (match s.hostMsg with
    | some (.mgmtRead x seq off n) =>
      if s.fromHost x then
        match s.phase with
        | .tripped => s.sayTripped seq
        | .imageRefused => if off + n ≤ 0x34 then s.say (.mgmtResp seq 0 ((regs off n).map s.mgmtByte)) else s
        | .up => if n ≤ 1024 then s.say (.mgmtResp seq 0 ((regs off n).map s.mgmtByte)) else s.say (.mgmtResp seq 4 [])
      else s
    | _ => s)

/-- The body of a QUOTE (17 R413): 96 bytes, then their signature. -/
def State.quoteBody (s : State) (nonce : List Byte) : List Byte :=
  let body := nonce ++ (regs 32 48).map Config.identityByte ++ bytesLE 4 (Config.firmwareVersion s.resets).toNat ++ bytesLE 8 clusterBits ++ bytesLE 2 s.fab.plan.toNat ++ [0, 0]
  body ++ (List.range 384).map (Config.quoteByte body)

/-- ATTEST. -/
def execAttest (s : State) : Out :=
  .next (match s.hostMsg with
    | some (.attest x seq nonce) => if s.fromHost x ∧ s.phase = .up ∧ nonce.length = 32 then s.say (.quote seq (s.quoteBody nonce)) else s
    | _ => s)

/-! ### RDMA (17 R408, R409) -/

/-- RoCEv2 traffic is taken: the fabric has been OPEN, and ROCE is set. -/
def State.roce (s : State) : Bool := s.phase == .up && s.host.everOpen && s.host.hostctl.getLsbD 1

/-- The first request of a queue pair. -/
def State.rdmaHead (s : State) (q : Nat) : Option Rdma := s.host.rdma.find? (fun r => r.q == q)

/-- A request ends with an answer. -/
def State.rdmaEnd (s : State) (r : Rdma) (m : HostOut) : State := ({ s with ops := r.op.elim s.ops (del s.ops) }.onHost (fun h => { h with rdma := h.rdma.erase r })).say m

/-- NAK of a request that R161 would fault, or that meets poisoned data. -/
def State.rdmaNak (s : State) (r : Rdma) : State := s.rdmaEnd r (.nakRemoteAccess (BitVec.ofNat 6 r.q) r.psn)

/-- A request that has begun ends once its data has come, or its writes are acknowledged. -/
def State.rdmaFinish (s : State) (r : Rdma) : State :=
  match r.op with
  | none => s
  | some o =>
    match look s.ops o with
    | none => s
    | some op =>
      if r.write then
        (if op.acks = 0 then
          match op.outcome with
          | some (.failed _ _) => s.rdmaNak r
          | _ => s.rdmaEnd r (.rdmaAck (BitVec.ofNat 6 r.q) r.psn)
        else s)
      else
        match s.readAll op (chunks r.addr r.bytes) with
        | none => s.eAsk o (chunks r.addr r.bytes)
        | some (xs, 0) => (s.eCount [(r.addr, r.bytes)]).rdmaEnd r (.rdmaData (BitVec.ofNat 6 r.q) r.psn xs.flatten)
        | some _ => s.rdmaNak r

/-- Requests in progress end when they can. -/
def State.sweepRdma (s : State) : State := s.host.rdma.foldl (fun (t : State) (r : Rdma) => t.rdmaFinish r) s

/-- A queue pair's first request begins, unless its lines are held or the hold queue has no room. A write is checked whole before any byte is written. DEDUCED, log entry 47. -/
def State.rdmaStart (s : State) (q : Nat) : State :=
  match s.rdmaHead q with
  | none => s
  | some r =>
    if r.op.isSome then s
    else if 2 ^ 34 < r.addr % 2 ^ 34 + r.bytes then s.rdmaNak r
    else if (if r.write then s.eBlocked (regs r.addr r.bytes) else (regs r.addr r.bytes).any s.stuckAt) then s
    else
      let c := if r.write then s.checkedCells r.addr r.data else ([], 0)
      if c.2 ≠ 0 then s.rdmaNak r
      else
        let n := s.newOp .fabric false
        let r2 := { r with op := some n.2 }
        let t := (n.1.onOp n.2 (fun x => { x with task := 4096 })).onHost (fun h => { h with rdma := h.rdma.map (fun x => if x = r then r2 else x) })
        (t.eWrite n.2 c.1).rdmaFinish r2

/-- Packets of a request, for its PSNs: at most 4,096 bytes each. -/
def psns (n : Nat) : Nat := max 1 ((n + 4095) / 4096)

/-- A request arrives at a READY queue pair with the PSN it expects; otherwise it is discarded. Its R_Key must be the pair's. -/
def State.rdmaArrive (s : State) (q : BitVec 6) (rkey : Word) (psn : BitVec 24) (r : Rdma) : State :=
  let x := s.qp q.toNat
  if s.roce ∧ x.st = 2 ∧ psn.toNat = x.rpsn.toNat then
    let t := s.onQp q.toNat (fun y => { y with rpsn := BitVec.ofNat 32 ((psn.toNat + psns r.bytes) % 2 ^ 24) })
    let busy := (t.rdmaHead q.toNat).isSome
    if rkey ≠ x.rkey then t.say (.nakRemoteAccess q psn)
    else
      let u := t.onHost (fun h => { h with rdma := h.rdma ++ [r] })
      if busy then u else u.rdmaStart q.toNat
  else s

/-- The PSN of a request's last packet. -/
def lastPsn (psn : BitVec 24) (n : Nat) : BitVec 24 := psn + BitVec.ofNat 24 (psns n - 1)

/-- RDMA_WRITE arrives, or the first write of a queue pair begins. -/
def execRdmaWrite (s : State) : Out :=
  .next (match s.arg with
    | .host (.rdmaWrite q k psn ptr data) =>
      s.rdmaArrive q k psn { q := q.toNat, psn := lastPsn psn data.length, write := true, addr := ptr.toNat, bytes := data.length, data := data, op := none }
    | .num q => if (s.rdmaHead q).elim false (fun r => r.write) then s.rdmaStart q else s
    | _ => s)

/-- RDMA_READ arrives, or the first read of a queue pair begins. -/
def execRdmaRead (s : State) : Out :=
  .next (match s.arg with
    | .host (.rdmaRead q k psn ptr n) =>
      s.rdmaArrive q k psn { q := q.toNat, psn := lastPsn psn n, write := false, addr := ptr.toNat, bytes := n, data := [], op := none }
    | .num q => if (s.rdmaHead q).elim false (fun r => !r.write) then s.rdmaStart q else s
    | _ => s)

/-- A transport error puts a queue pair in state 3, in which it answers nothing, not what is in progress either; which errors are such is left to RoCEv2 (17 R408; DEDUCED, log entry 47). -/
def State.qpError (s : State) (q : Nat) : State :=
  if (s.qp q).st = 2 then
    let mine := s.host.rdma.filter (fun r => r.q == q)
    ({ s with ops := s.ops.filter (fun e => !mine.any (fun r => r.op == some e.1)) }.onQp q (fun x => { x with st := 3 })).onHost (fun h => { h with rdma := h.rdma.filter (fun r => r.q != q) })
  else s

/-- SEND and atomic operations are refused with "invalid request"; RoCEv2 finds a transport error. -/
def execRoceSendOrAtomic (s : State) : Out :=
  .next (match s.hostMsg with
    | some (.otherRoce q psn) => if s.roce ∧ (s.qp q.toNat).st = 2 then s.say (.nakInvalidRequest q psn) else s
    | some (.transportError q) => s.qpError q.toNat
    | _ => s)

/-! ### The service core (17 R412) -/

/-- Majors of the uniform set that the service core accepts: GI, GS, GB, GXA, GBC, GSY, GMM, GFB, GOB and GMOVL. -/
def serviceMajor (major : Nat) : Bool := decide (major ≤ 0x10) || ([0x30, 0x31, 0x32, 0x34, 0x38, 0x39, 0x3C] : List Nat).contains major

/-- The register fields of a uniform instruction by its words (03 R68). -/
def uniformFields (w0 w1 : Word) : List (BitVec 9) :=
  let major := (w0.extractLsb' 24 6).toNat
  let gd := w0.extractLsb' 15 9
  let ga := w0.extractLsb' 6 9
  if major ≤ 0x03 ∨ major = 0x3C then [gd]
  else if major ≤ 0x08 ∨ major = 0x31 then [gd, ga]
  else if major ≤ 0x10 then []
  else [gd, ga, w1.extractLsb' 23 9, w1.extractLsb' 14 9]

/-- Whether the service core accepts an instruction by its words; every other encoding traps with ILLEGAL in its own handler. Of GMM it accepts GLD and GST only, and of the registers g0 to g63. DESIGN CHOICE, log entry 33. -/
def serviceAccepts (w0 w1 : Word) : Bool :=
  let major := (w0.extractLsb' 24 6).toNat
  w0.getLsbD 31 && serviceMajor major && (major != 0x34 || decide ((w1.extractLsb' 0 10).toNat ≤ 1))
    && (uniformFields w0 w1).all (fun r => decide (r.toNat < 64)) && (decodeWords w0 w1).toOption.isSome

/-! ### Reset and the thermal trip (17 R411, R412, R415) -/

/-- Arrivals from outside; packets of this chip to itself do not outlive a reset. -/
def fromOutside (e : Instr × StepArg) : Bool :=
  match e.2 with
  | .again _ => false
  | _ => true

/-- The chip after its reset sequence: steps 1 to 4, or step 2 for ever where the firmware image fails its checks. Messages already sent have left. DEDUCED, log entry 48. -/
def State.afterReset (s : State) : State :=
  { State.reset with
    freeCtr := s.freeCtr
    agenda := s.agenda.filter fromOutside
    resets := s.resets + 1
    phase := if Config.firmwareGood (s.resets + 1) then .up else .imageRefused
    host := { HostPort.reset with out := s.host.out } }

/-- COLD_RESET. -/
def execColdReset (s : State) : Out := .next s.afterReset

/-- RESET: a warm reset, where WARMRST lets it, or after a thermal trip. -/
def execReset (s : State) : Out :=
  .next (match s.hostMsg with
    | some (.reset x) => if s.fromHost x ∧ (s.phase = .tripped ∨ (s.phase = .up ∧ s.host.hostctl.getLsbD 0)) then s.afterReset else s
    | _ => s)

/-- THERMAL_TRIP: the die junction reaches 110 °C, in units of 0.125 °C; the chip is held in step 1 of its reset, one that was held in step 2 too. -/
def execThermalTrip (s : State) : Out :=
  .next (match s.arg with
    | .word t =>
      if s.phase ≠ .tripped ∧ 880 ≤ t.toInt then
        { State.reset with
          freeCtr := s.freeCtr, agenda := s.agenda.filter fromOutside, resets := s.resets, phase := .tripped, mem := s.mem, poison := s.poison, flaws := s.flaws, clock := s.clock, ptimeOff := s.ptimeOff
          chipId := s.chipId, hot := s.hot, host := { s.host with rdma := [], everOpen := false } }
      else s
    | _ => s)

end Sys2Proof.Machine
end

