-- ==== Sys2Proof/Machine/LaneConvert.lean ====
section
/-! DEFINITION. Lane conversions and tag forms (04 R112 to R117). -/

namespace Sys2Proof.Machine

/-- Tags a CVT source may carry (04 R112). -/
def cvtTag (t : Tag) : Bool := t == .i32 || t == .pred || floatTag t || packedTag t

/-- Reads element k of a source under its tag: 64 bits for F64. -/
def State.elemBits (s : State) (t : Tag) (va k l : Nat) : Nat :=
  if t = .f64 then pairVal (s.vread 0 va l) (s.vread 0 (va + 1) l) else elem t.width k (s.vread 0 va l).toNat

/-- CVT: one value; element index past the tag's count and pairs that do not exist trap with TAG. -/
def execCvt (m : Bool) (vd va : BitVec 8) (dtag : Tag) (u : Bool) (el : BitVec 3) (rm : Rounding) (sat : Bool) (s : State) : Out :=
  let t := s.tagOf va.toNat
  let us := if t = .i32 ∧ dtag = .i32 then !u else u
  lan s m 8 [vd.toNat, va.toNat] [] (fopnds t 0 (.v va) cvtTag)
    [excIf (decide (t.count ≤ el.toNat)) (.det .tag 0), oddExc t 0 (.v va), excIf (!convertible t dtag) (.det .tag 0)]
    (fun x => x.fwrite vd.toNat dtag (fun l => convert t us dtag u rm sat (s.elemBits t va.toNat el.toNat l)))

/-- The 32 values of a scaled block, off-path lanes as 04 R104 reads them. -/
def State.blockVals (s : State) (t : Tag) (va k : Nat) : List Val :=
  (List.range 32).map (fun l => t.value false (elem t.width k (s.vread 0 va l).toNat))

/-- CVTSC: one scaled block of 32 lanes; each active lane gets the packed word of its position and the scale (04 R115). An element number on an F32 source is ILLEGAL (DESIGN CHOICE, log entry 57). -/
def execCvtsc (m : Bool) (vd va : BitVec 8) (dtag : Tag) (el : Bool) (s : State) : Out :=
  let t := s.tagOf va.toNat
  let r := scaledConvert dtag (s.blockVals t va.toNat (if el then 1 else 0))
  let w := if dtag = .e2m1x8 then 8 else 4
  issue s ([s.nameExc [vd.toNat, vd.toNat + 1, va.toNat] [], excIf (t == .f32 && el) (.of .illegal), s.rowExc .group]
      ++ s.sourceExcs [.v 0 va.toNat shortFloatTag])
    (fun x =>
      ((x.vwrite vd.toNat dtag (fun l =>
          BitVec.ofNat 32 (packElems dtag.width ((List.range w).map (fun i => r.2.getD (w * (l % (32 / w)) + i) 0))))).vwrite
        (vd.toNat + 1) .e8m0x4 (fun _ => BitVec.ofNat 32 r.1)).finish m 8)

/-- Source tags of PACK2 and PACK4. -/
def packTag (t : Tag) : Bool := t == .i32 || t == .f32 || t == .f64

/-- PACK2: va into element 0, vb into element 1. -/
def execPack2 (m : Bool) (vd va vb : BitVec 8) (dtag : Tag) (u : Bool) (rm : Rounding) (sat : Bool) (s : State) : Out :=
  let t := s.tagOf va.toNat
  lan s m 8 [vd.toNat, va.toNat, vb.toNat] [] (fopnds t 0 (.v va) packTag ++ fopnds t 1 (.v vb) (· == t))
    [oddExc t 0 (.v va), oddExc t 1 (.v vb)]
    (fun x => x.vwrite vd.toNat dtag (fun l => BitVec.ofNat 32 (packElems 16
      [convert t u dtag u rm sat (s.fbits t 0 (.v va) l), convert t u dtag u rm sat (s.fbits t 1 (.v vb) l)])))

/-- The four source registers of PACK4: every second one for F64 pairs, which start at a multiple of 8 or are not there (04 R113): then va and the register above it alone are looked at (DESIGN CHOICE, log entry 57). -/
def pack4Src (t : Tag) (va : BitVec 8) : List Src :=
  if t = .f64 ∧ va.toNat % 8 ≠ 0 then [.v va]
  else (List.range 4).map (fun k => Src.v (va + BitVec.ofNat 8 (if t = .f64 then 2 * k else k)))

/-- PACK4: four registers, or four pairs, into elements 0 to 3. U = 1 with a dtag other than I8X4, to which 04 R113 gives no meaning, reads an I32 source as n32 (DESIGN CHOICE, log entry 52). -/
def execPack4 (m : Bool) (vd va : BitVec 8) (dtag : Tag) (u : Bool) (rm : Rounding) (sat : Bool) (s : State) : Out :=
  let t := s.tagOf va.toNat
  let srcs := pack4Src t va
  lan s m 8 [vd.toNat, va.toNat, va.toNat + 3] [] ((srcs.map (fun x => fopnds t 0 x (fun y => packTag y && y == t))).flatten)
    [excIf (t == .f64 && va.toNat % 8 != 0) (.det .tag 0), excIf (!convertible t dtag) (.det .tag 0)]
    (fun x => x.vwrite vd.toNat dtag (fun l => BitVec.ofNat 32 (packElems 8 (srcs.map (fun y => convert t u dtag u rm sat (s.fbits t 0 y l))))))

/-- Writes a list of registers upwards from vd. -/
def State.vwriteAll (s : State) (vd : Nat) (t : Tag) (n : Nat) (f : Nat → Nat → Word) : State :=
  (List.range n).foldl (fun x k => x.vwrite (vd + k) t (f k)) s

/-- UNPACK: every element of a packed source to consecutive registers (04 R114). U = 1 with a source other than I8X4, to which the rule gives no meaning, changes nothing (DESIGN CHOICE, log entry 52). -/
def execUnpack (m : Bool) (vd va : BitVec 8) (dtag : Tag) (u : Bool) (rm : Rounding) (s : State) : Out :=
  let t := s.tagOf va.toNat
  let n := t.count
  issue s ([s.nameExc [vd.toNat, va.toNat] [], excIf (packedTag t && t != .i8x4 && dtag == .i32) (.of .illegal), s.rowExc .group]
      ++ s.sourceExcs [.v 0 va.toNat packedTag]
      ++ [excIf (vd.toNat % n != 0 || decide (s.vLimit < vd.toNat + n)) (.of .tag)])
    (fun x => (x.vwriteAll vd.toNat dtag n (fun k l => BitVec.ofNat 32 (convert t u dtag u rm false (s.elemBits t va.toNat k l)))).finish m 8)

/-- TAGSET: va's bits under a new tag. -/
def execTagset (m : Bool) (vd va : BitVec 8) (dtag : Tag) (s : State) : Out :=
  lan s m 8 [vd.toNat, va.toNat] [] [.v 0 va.toNat anyTag] [] (fun x => x.vwrite vd.toNat dtag (fun l => s.vread 0 va.toNat l))

/-- TAGGET: va's tag code. -/
def execTagget (m : Bool) (vd va : BitVec 8) (s : State) : Out :=
  lan s m 8 [vd.toNat, va.toNat] [] [.v 0 va.toNat anyTag] [] (fun x => x.vwrite vd.toNat .i32 (fun _ => (s.tagOf va.toNat).code.setWidth 32))

end Sys2Proof.Machine
end

