-- ==== Sys2Proof/Machine/Uniform.lean ====
section
/-! DEFINITION. Uniform arithmetic (05 R124 to R127). a, b and x are the words of ga, gb and gc. -/

namespace Sys2Proof.Machine

/-- gd from one source, one word. -/
def g1 (s : State) (m : Bool) (len : Nat) (gd ga : BitVec 9) (f : Word → Word) : Out :=
  uni s m len .any false [gd.toNat, ga.toNat] [ga.toNat] [] (fun t => t.writeU gd.toNat (f (s.readU 0 ga.toNat)))

/-- gd from two sources. -/
def g2 (s : State) (m : Bool) (gd ga gb : BitVec 9) (f : Word → Word → Word) : Out :=
  uni s m 8 .any false [gd.toNat, ga.toNat, gb.toNat] [ga.toNat, gb.toNat] []
    (fun t => t.writeU gd.toNat (f (s.readU 0 ga.toNat) (s.readU 1 gb.toNat)))

/-- gd from three sources. -/
def g3 (s : State) (m : Bool) (gd ga gb gc : BitVec 9) (f : Word → Word → Word → Word) : Out :=
  uni s m 8 .any false [gd.toNat, ga.toNat, gb.toNat, gc.toNat] [ga.toNat, gb.toNat, gc.toNat] []
    (fun t => t.writeU gd.toNat (f (s.readU 0 ga.toNat) (s.readU 1 gb.toNat) (s.readU 2 gc.toNat)))

/-- gd from an immediate alone, or from gd and an immediate. -/
def gImm (s : State) (m : Bool) (gd : BitVec 9) (reads : List Nat) (f : Word → Word) : Out :=
  uni s m 4 .any false [gd.toNat] reads [] (fun t => t.writeU gd.toNat (f (s.readU 0 gd.toNat)))

/-- GDIVN: all ones when the divisor is 0. -/
def divN (a b : Word) : Word := if b = 0 then 0xFFFFFFFF else BitVec.ofNat 32 (a.toNat / b.toNat)
/-- GREMN: a when the divisor is 0. -/
def remN (a b : Word) : Word := if b = 0 then a else BitVec.ofNat 32 (a.toNat % b.toNat)
/-- A float compare of two FP32 words. -/
def fcmpW (c : Cond) (a b : Word) : Bool := fcompare c (Fmt.fp32.value a.toNat) (Fmt.fp32.value b.toNat)

/-- GMOVI. -/
def execGmovi (m : Bool) (gd : BitVec 9) (imm : BitVec 15) (s : State) : Out := gImm s m gd [] (fun _ => imm.signExtend 32)
/-- GADDI. -/
def execGaddi (m : Bool) (gd : BitVec 9) (imm : BitVec 15) (s : State) : Out := gImm s m gd [gd.toNat] (fun a => a + imm.signExtend 32)
/-- GLUI. -/
def execGlui (m : Bool) (gd : BitVec 9) (imm : BitVec 15) (s : State) : Out := gImm s m gd [] (fun _ => imm.setWidth 32 <<< 17)
/-- GORI. -/
def execGori (m : Bool) (gd : BitVec 9) (imm : BitVec 15) (s : State) : Out := gImm s m gd [gd.toNat] (fun a => a ||| imm.setWidth 32)
/-- GSHLI. -/
def execGshli (m : Bool) (gd ga : BitVec 9) (sh : BitVec 5) (s : State) : Out := g1 s m 4 gd ga (fun a => shlW a (sh.setWidth 32))
/-- GSHRI. -/
def execGshri (m : Bool) (gd ga : BitVec 9) (sh : BitVec 5) (s : State) : Out := g1 s m 4 gd ga (fun a => shrW a (sh.setWidth 32))
/-- GSARI. -/
def execGsari (m : Bool) (gd ga : BitVec 9) (sh : BitVec 5) (s : State) : Out := g1 s m 4 gd ga (fun a => sarW a (sh.setWidth 32))
/-- GMOV. -/
def execGmov (m : Bool) (gd ga : BitVec 9) (s : State) : Out := g1 s m 4 gd ga (fun a => a)
/-- GADDI6. -/
def execGaddi6 (m : Bool) (gd ga : BitVec 9) (imm : BitVec 6) (s : State) : Out := g1 s m 4 gd ga (fun a => a + imm.signExtend 32)
/-- GMOVL (05 R126). -/
def execGmovl (m : Bool) (gd : BitVec 9) (imm : Word) (s : State) : Out := uni s m 8 .any false [gd.toNat] [] [] (fun t => t.writeU gd.toNat imm)
/-- GADD. -/
def execGadd (m : Bool) (gd ga gb : BitVec 9) (s : State) : Out := g2 s m gd ga gb (· + ·)
/-- GSUB. -/
def execGsub (m : Bool) (gd ga gb : BitVec 9) (s : State) : Out := g2 s m gd ga gb (· - ·)
/-- GMUL. -/
def execGmul (m : Bool) (gd ga gb : BitVec 9) (s : State) : Out := g2 s m gd ga gb (· * ·)
/-- GMULHI. -/
def execGmulhi (m : Bool) (gd ga gb : BitVec 9) (s : State) : Out := g2 s m gd ga gb mulHiI
/-- GNMULHI. -/
def execGnmulhi (m : Bool) (gd ga gb : BitVec 9) (s : State) : Out := g2 s m gd ga gb mulHiN
/-- GAND. -/
def execGand (m : Bool) (gd ga gb : BitVec 9) (s : State) : Out := g2 s m gd ga gb (· &&& ·)
/-- GOR. -/
def execGor (m : Bool) (gd ga gb : BitVec 9) (s : State) : Out := g2 s m gd ga gb (· ||| ·)
/-- GXOR. -/
def execGxor (m : Bool) (gd ga gb : BitVec 9) (s : State) : Out := g2 s m gd ga gb (· ^^^ ·)
/-- GSHL. -/
def execGshl (m : Bool) (gd ga gb : BitVec 9) (s : State) : Out := g2 s m gd ga gb shlW
/-- GSHR. -/
def execGshr (m : Bool) (gd ga gb : BitVec 9) (s : State) : Out := g2 s m gd ga gb shrW
/-- GSAR. -/
def execGsar (m : Bool) (gd ga gb : BitVec 9) (s : State) : Out := g2 s m gd ga gb sarW
/-- GMIN. -/
def execGmin (m : Bool) (gd ga gb : BitVec 9) (s : State) : Out := g2 s m gd ga gb minI
/-- GMAX. -/
def execGmax (m : Bool) (gd ga gb : BitVec 9) (s : State) : Out := g2 s m gd ga gb maxI
/-- GNMIN. -/
def execGnmin (m : Bool) (gd ga gb : BitVec 9) (s : State) : Out := g2 s m gd ga gb minN
/-- GNMAX. -/
def execGnmax (m : Bool) (gd ga gb : BitVec 9) (s : State) : Out := g2 s m gd ga gb maxN
/-- GPOPC. -/
def execGpopc (m : Bool) (gd ga : BitVec 9) (s : State) : Out := g1 s m 8 gd ga (fun a => BitVec.ofNat 32 (popCount a))
/-- GCLZ. -/
def execGclz (m : Bool) (gd ga : BitVec 9) (s : State) : Out := g1 s m 8 gd ga clzW
/-- GSEL. -/
def execGsel (m : Bool) (gd ga gb gc : BitVec 9) (s : State) : Out := g3 s m gd ga gb gc (fun a b x => if x ≠ 0 then a else b)
/-- GDIVN. -/
def execGdivn (m : Bool) (gd ga gb : BitVec 9) (s : State) : Out := g2 s m gd ga gb divN
/-- GREMN. -/
def execGremn (m : Bool) (gd ga gb : BitVec 9) (s : State) : Out := g2 s m gd ga gb remN
/-- GMAD. -/
def execGmad (m : Bool) (gd ga gb gc : BitVec 9) (s : State) : Out := g3 s m gd ga gb gc (fun a b x => a * b + x)
/-- GADD64: pairs modulo 2^64. -/
def execGadd64 (m : Bool) (gd ga gb : BitVec 9) (s : State) : Out :=
  uni s m 8 .any false [gd.toNat, gd.toNat + 1, ga.toNat, ga.toNat + 1, gb.toNat, gb.toNat + 1]
    [ga.toNat, ga.toNat + 1, gb.toNat, gb.toNat + 1] []
    (fun t => t.writePair gd.toNat (s.readPair 0 ga.toNat + s.readPair 1 gb.toNat))
/-- GBFE. -/
def execGbfe (m : Bool) (gd ga gb gc : BitVec 9) (sgn : Bool) (s : State) : Out := g3 s m gd ga gb gc (fun a p n => bitExtract a p n sgn)
/-- GBFI: gd is the base. -/
def execGbfi (m : Bool) (gd ga gb gc : BitVec 9) (s : State) : Out :=
  uni s m 8 .any false [gd.toNat, ga.toNat, gb.toNat, gc.toNat] [gd.toNat, ga.toNat, gb.toNat, gc.toNat] []
    (fun t => t.writeU gd.toNat (bitInsert (s.readU 0 ga.toNat) (s.readU 3 gd.toNat) (s.readU 1 gb.toNat) (s.readU 2 gc.toNat)))
/-- GFADD. -/
def execGfadd (m : Bool) (gd ga gb : BitVec 9) (rm : Rounding) (s : State) : Out := g2 s m gd ga gb (fword (fadd rm))
/-- GFMUL. -/
def execGfmul (m : Bool) (gd ga gb : BitVec 9) (rm : Rounding) (s : State) : Out := g2 s m gd ga gb (fword (fmul rm))
/-- GFMAX. -/
def execGfmax (m : Bool) (gd ga gb : BitVec 9) (s : State) : Out := g2 s m gd ga gb (fword fmax)
/-- GSET. -/
def execGset (m : Bool) (gd ga gb : BitVec 9) (cond : Cond) (s : State) : Out := g2 s m gd ga gb (fun a b => wordOfBool (wcompare cond false a b))
/-- GNSET. -/
def execGnset (m : Bool) (gd ga gb : BitVec 9) (cond : Cond) (s : State) : Out := g2 s m gd ga gb (fun a b => wordOfBool (wcompare cond true a b))
/-- GFSET. -/
def execGfset (m : Bool) (gd ga gb : BitVec 9) (cond : Cond) (s : State) : Out := g2 s m gd ga gb (fun a b => wordOfBool (fcmpW cond a b))
/-- GFFMA. -/
def execGffma (m : Bool) (gd ga gb gc : BitVec 9) (rm : Rounding) (s : State) : Out := g3 s m gd ga gb gc (fun a b x => BitVec.ofNat 32 (ffma rm .fp32 a.toNat b.toNat x.toNat))

end Sys2Proof.Machine
end

