-- ==== Sys2Proof/Machine/Dispatch.lean ====
section
/-! DEFINITION. One arm for each constructor of Instr: a direct call of its meaning. -/

namespace Sys2Proof.Machine

def exec (i : Instr) (s : State) : Host.Outcome State Fault Refusal :=
  match i with
  | .iadd m vd va vb => Sys2Proof.Machine.execIadd m vd va vb s
  | .isub m vd va vb => Sys2Proof.Machine.execIsub m vd va vb s
  | .imul m vd va vb => Sys2Proof.Machine.execImul m vd va vb s
  | .imulhi m vd va vb => Sys2Proof.Machine.execImulhi m vd va vb s
  | .nmulhi m vd va vb => Sys2Proof.Machine.execNmulhi m vd va vb s
  | .imin m vd va vb => Sys2Proof.Machine.execImin m vd va vb s
  | .imax m vd va vb => Sys2Proof.Machine.execImax m vd va vb s
  | .nmin m vd va vb => Sys2Proof.Machine.execNmin m vd va vb s
  | .nmax m vd va vb => Sys2Proof.Machine.execNmax m vd va vb s
  | .vand m vd va vb => Sys2Proof.Machine.execVand m vd va vb s
  | .vor m vd va vb => Sys2Proof.Machine.execVor m vd va vb s
  | .vxor m vd va vb => Sys2Proof.Machine.execVxor m vd va vb s
  | .shl m vd va vb => Sys2Proof.Machine.execShl m vd va vb s
  | .shr m vd va vb => Sys2Proof.Machine.execShr m vd va vb s
  | .sar m vd va vb => Sys2Proof.Machine.execSar m vd va vb s
  | .fadd m vd va vb => Sys2Proof.Machine.execFadd m vd va vb s
  | .fsub m vd va vb => Sys2Proof.Machine.execFsub m vd va vb s
  | .fmul m vd va vb => Sys2Proof.Machine.execFmul m vd va vb s
  | .fmin m vd va vb => Sys2Proof.Machine.execFmin m vd va vb s
  | .fmax m vd va vb => Sys2Proof.Machine.execFmax m vd va vb s
  | .mov m vd va => Sys2Proof.Machine.execMov m vd va s
  | .iaddi m vd va imm => Sys2Proof.Machine.execIaddi m vd va imm s
  | .andi m vd va imm => Sys2Proof.Machine.execAndi m vd va imm s
  | .ori m vd va imm => Sys2Proof.Machine.execOri m vd va imm s
  | .xori m vd va imm => Sys2Proof.Machine.execXori m vd va imm s
  | .shli m vd va sh => Sys2Proof.Machine.execShli m vd va sh s
  | .shri m vd va sh => Sys2Proof.Machine.execShri m vd va sh s
  | .sari m vd va sh => Sys2Proof.Machine.execSari m vd va sh s
  | .movi m vd imm => Sys2Proof.Machine.execMovi m vd imm s
  | .ffma m vd va vb c rm => Sys2Proof.Machine.execFfma m vd va vb c rm s
  | .imad m vd va vb c => Sys2Proof.Machine.execImad m vd va vb c s
  | .frcp m vd va => Sys2Proof.Machine.execFrcp m vd va s
  | .frsq m vd va => Sys2Proof.Machine.execFrsq m vd va s
  | .fsqrt m vd va rm => Sys2Proof.Machine.execFsqrt m vd va rm s
  | .fexp2 m vd va => Sys2Proof.Machine.execFexp2 m vd va s
  | .flog2 m vd va => Sys2Proof.Machine.execFlog2 m vd va s
  | .fsin m vd va => Sys2Proof.Machine.execFsin m vd va s
  | .fcos m vd va => Sys2Proof.Machine.execFcos m vd va s
  | .fabs m vd va => Sys2Proof.Machine.execFabs m vd va s
  | .fneg m vd va => Sys2Proof.Machine.execFneg m vd va s
  | .ffloor m vd va => Sys2Proof.Machine.execFfloor m vd va s
  | .fceil m vd va => Sys2Proof.Machine.execFceil m vd va s
  | .ftrunc m vd va => Sys2Proof.Machine.execFtrunc m vd va s
  | .frint m vd va rm => Sys2Proof.Machine.execFrint m vd va rm s
  | .ftwosum m vd va vb => Sys2Proof.Machine.execFtwosum m vd va vb s
  | .popc m vd va => Sys2Proof.Machine.execPopc m vd va s
  | .clz m vd va => Sys2Proof.Machine.execClz m vd va s
  | .brev m vd va => Sys2Proof.Machine.execBrev m vd va s
  | .bfe m vd va vb c sgn => Sys2Proof.Machine.execBfe m vd va vb c sgn s
  | .bfi m vd va vb c e => Sys2Proof.Machine.execBfi m vd va vb c e s
  | .prmt m vd va vb c => Sys2Proof.Machine.execPrmt m vd va vb c s
  | .sel m vd va vb c => Sys2Proof.Machine.execSel m vd va vb c s
  | .iabs m vd va sat => Sys2Proof.Machine.execIabs m vd va sat s
  | .ineg m vd va sat => Sys2Proof.Machine.execIneg m vd va sat s
  | .iadd3 m vd va vb c => Sys2Proof.Machine.execIadd3 m vd va vb c s
  | .movg m vd gc => Sys2Proof.Machine.execMovg m vd gc s
  | .iset m vd va vb cond => Sys2Proof.Machine.execIset m vd va vb cond s
  | .nset m vd va vb cond => Sys2Proof.Machine.execNset m vd va vb cond s
  | .fset m vd va vb cond => Sys2Proof.Machine.execFset m vd va vb cond s
  | .cvt m vd va dtag u el rm sat => Sys2Proof.Machine.execCvt m vd va dtag u el rm sat s
  | .cvtsc m vd va dtag el => Sys2Proof.Machine.execCvtsc m vd va dtag el s
  | .pack2 m vd va vb dtag u rm sat => Sys2Proof.Machine.execPack2 m vd va vb dtag u rm sat s
  | .pack4 m vd va dtag u rm sat => Sys2Proof.Machine.execPack4 m vd va dtag u rm sat s
  | .unpack m vd va dtag u rm => Sys2Proof.Machine.execUnpack m vd va dtag u rm s
  | .tagset m vd va dtag => Sys2Proof.Machine.execTagset m vd va dtag s
  | .tagget m vd va => Sys2Proof.Machine.execTagget m vd va s
  | .shfl m vd va c w => Sys2Proof.Machine.execShfl m vd va c w s
  | .shflup m vd va c w => Sys2Proof.Machine.execShflup m vd va c w s
  | .shfldn m vd va c w => Sys2Proof.Machine.execShfldn m vd va c w s
  | .shflx m vd va c w => Sys2Proof.Machine.execShflx m vd va c w s
  | .qswaph m vd va => Sys2Proof.Machine.execQswaph m vd va s
  | .qswapv m vd va => Sys2Proof.Machine.execQswapv m vd va s
  | .qswapd m vd va => Sys2Proof.Machine.execQswapd m vd va s
  | .qbcast m vd va k => Sys2Proof.Machine.execQbcast m vd va k s
  | .voteall m ge va => Sys2Proof.Machine.execVoteall m ge va s
  | .voteany m ge va => Sys2Proof.Machine.execVoteany m ge va s
  | .ballot m ge va => Sys2Proof.Machine.execBallot m ge va s
  | .ballotScratchpad m ge va => Sys2Proof.Machine.execBallotScratchpad m ge va s
  | .bplane m ge va vb c => Sys2Proof.Machine.execBplane m ge va vb c s
  | .matchLanes m ge va => Sys2Proof.Machine.execMatchLanes m ge va s
  | .redux m ge va op => Sys2Proof.Machine.execRedux m ge va op s
  | .laneid m vd => Sys2Proof.Machine.execLaneid m vd s
  | .readsr m vd k => Sys2Proof.Machine.execReadsr m vd k s
  | .ld m data off sync hint base size ltag imm => Sys2Proof.Machine.execLd m data off sync hint base size ltag imm s
  | .st m data off sync hint base size imm => Sys2Proof.Machine.execSt m data off sync hint base size imm s
  | .lds m data off sync base size ltag imm => Sys2Proof.Machine.execLds m data off sync base size ltag imm s
  | .sts m data off sync base size imm => Sys2Proof.Machine.execSts m data off sync base size imm s
  | .atom m dst vo vs rmw scope base imm => Sys2Proof.Machine.execAtom m dst vo vs rmw scope base imm s
  | .atoms m dst vo vs rmw scope base imm => Sys2Proof.Machine.execAtoms m dst vo vs rmw scope base imm s
  | .trx m vd va vb gc ge => Sys2Proof.Machine.execTrx m vd va vb gc ge s
  | .brz m va off => Sys2Proof.Machine.execBrz m va off s
  | .brnz m va off => Sys2Proof.Machine.execBrnz m va off s
  | .brx m va => Sys2Proof.Machine.execBrx m va s
  | .bspillz m va gp off => Sys2Proof.Machine.execBspillz m va gp off s
  | .bspillnz m va gp off => Sys2Proof.Machine.execBspillnz m va gp off s
  | .callx m va => Sys2Proof.Machine.execCallx m va s
  | .call m off => Sys2Proof.Machine.execCall m off s
  | .ret m => Sys2Proof.Machine.execRet m s
  | .extensionWord m set maj rest w1 => Sys2Proof.Machine.execExtensionWord m set maj rest w1 s
  | .gmovi m gd imm => Sys2Proof.Machine.execGmovi m gd imm s
  | .gaddi m gd imm => Sys2Proof.Machine.execGaddi m gd imm s
  | .glui m gd imm => Sys2Proof.Machine.execGlui m gd imm s
  | .gori m gd imm => Sys2Proof.Machine.execGori m gd imm s
  | .gshli m gd ga sh => Sys2Proof.Machine.execGshli m gd ga sh s
  | .gshri m gd ga sh => Sys2Proof.Machine.execGshri m gd ga sh s
  | .gsari m gd ga sh => Sys2Proof.Machine.execGsari m gd ga sh s
  | .gmov m gd ga => Sys2Proof.Machine.execGmov m gd ga s
  | .gaddi6 m gd ga imm => Sys2Proof.Machine.execGaddi6 m gd ga imm s
  | .jmp m off => Sys2Proof.Machine.execJmp m off s
  | .land m => Sys2Proof.Machine.execLand m s
  | .nop m => Sys2Proof.Machine.execNop m s
  | .exit m => Sys2Proof.Machine.execExit m s
  | .yield m => Sys2Proof.Machine.execYield m s
  | .brk m code => Sys2Proof.Machine.execBrk m code s
  | .eret m => Sys2Proof.Machine.execEret m s
  | .endSeq m => Sys2Proof.Machine.execEndSeq m s
  | .gmovl m gd imm => Sys2Proof.Machine.execGmovl m gd imm s
  | .gadd m gd ga gb => Sys2Proof.Machine.execGadd m gd ga gb s
  | .gsub m gd ga gb => Sys2Proof.Machine.execGsub m gd ga gb s
  | .gmul m gd ga gb => Sys2Proof.Machine.execGmul m gd ga gb s
  | .gmulhi m gd ga gb => Sys2Proof.Machine.execGmulhi m gd ga gb s
  | .gnmulhi m gd ga gb => Sys2Proof.Machine.execGnmulhi m gd ga gb s
  | .gand m gd ga gb => Sys2Proof.Machine.execGand m gd ga gb s
  | .gor m gd ga gb => Sys2Proof.Machine.execGor m gd ga gb s
  | .gxor m gd ga gb => Sys2Proof.Machine.execGxor m gd ga gb s
  | .gshl m gd ga gb => Sys2Proof.Machine.execGshl m gd ga gb s
  | .gshr m gd ga gb => Sys2Proof.Machine.execGshr m gd ga gb s
  | .gsar m gd ga gb => Sys2Proof.Machine.execGsar m gd ga gb s
  | .gmin m gd ga gb => Sys2Proof.Machine.execGmin m gd ga gb s
  | .gmax m gd ga gb => Sys2Proof.Machine.execGmax m gd ga gb s
  | .gnmin m gd ga gb => Sys2Proof.Machine.execGnmin m gd ga gb s
  | .gnmax m gd ga gb => Sys2Proof.Machine.execGnmax m gd ga gb s
  | .gpopc m gd ga => Sys2Proof.Machine.execGpopc m gd ga s
  | .gclz m gd ga => Sys2Proof.Machine.execGclz m gd ga s
  | .gsel m gd ga gb gc => Sys2Proof.Machine.execGsel m gd ga gb gc s
  | .gdivn m gd ga gb => Sys2Proof.Machine.execGdivn m gd ga gb s
  | .gremn m gd ga gb => Sys2Proof.Machine.execGremn m gd ga gb s
  | .gmad m gd ga gb gc => Sys2Proof.Machine.execGmad m gd ga gb gc s
  | .gadd64 m gd ga gb => Sys2Proof.Machine.execGadd64 m gd ga gb s
  | .gbfe m gd ga gb gc sgn => Sys2Proof.Machine.execGbfe m gd ga gb gc sgn s
  | .gbfi m gd ga gb gc => Sys2Proof.Machine.execGbfi m gd ga gb gc s
  | .gfadd m gd ga gb rm => Sys2Proof.Machine.execGfadd m gd ga gb rm s
  | .gfmul m gd ga gb rm => Sys2Proof.Machine.execGfmul m gd ga gb rm s
  | .gfmax m gd ga gb => Sys2Proof.Machine.execGfmax m gd ga gb s
  | .gset m gd ga gb cond => Sys2Proof.Machine.execGset m gd ga gb cond s
  | .gnset m gd ga gb cond => Sys2Proof.Machine.execGnset m gd ga gb cond s
  | .gfset m gd ga gb cond => Sys2Proof.Machine.execGfset m gd ga gb cond s
  | .gffma m gd ga gb gc rm => Sys2Proof.Machine.execGffma m gd ga gb gc rm s
  | .gbr m ga gb cond off => Sys2Proof.Machine.execGbr m ga gb cond off s
  | .gbrn m ga gb cond off => Sys2Proof.Machine.execGbrn m ga gb cond off s
  | .gbrz m ga cond off => Sys2Proof.Machine.execGbrz m ga cond off s
  | .loop m ga off => Sys2Proof.Machine.execLoop m ga off s
  | .csrr m gd csr => Sys2Proof.Machine.execCsrr m gd csr s
  | .csrw m csr ga => Sys2Proof.Machine.execCsrw m csr ga s
  | .csrx m gd csr ga => Sys2Proof.Machine.execCsrx m gd csr ga s
  | .quantumWrite => Sys2Proof.Machine.execQuantumWrite s
  | .leaseWrite => Sys2Proof.Machine.execLeaseWrite s
  | .ptimeLoRead => Sys2Proof.Machine.execPtimeLoRead s
  | .gwctLoRead => Sys2Proof.Machine.execGwctLoRead s
  | .trap m ga gb cond code => Sys2Proof.Machine.execTrap m ga gb cond code s
  | .event m ga n => Sys2Proof.Machine.execEvent m ga n s
  | .clkr m gd => Sys2Proof.Machine.execClkr m gd s
  | .barinit m k ga => Sys2Proof.Machine.execBarinit m k ga s
  | .bararv m k gb => Sys2Proof.Machine.execBararv m k gb s
  | .barwait m k => Sys2Proof.Machine.execBarwait m k s
  | .barsync m k gb => Sys2Proof.Machine.execBarsync m k gb s
  | .barrierWaitEnd => Sys2Proof.Machine.execBarrierWaitEnd s
  | .gsync m gb => Sys2Proof.Machine.execGsync m gb s
  | .fence m kind scope => Sys2Proof.Machine.execFence m kind scope s
  | .fenceComplete => Sys2Proof.Machine.execFenceComplete s
  | .mrdy m => Sys2Proof.Machine.execMrdy m s
  | .mrdyComplete => Sys2Proof.Machine.execMrdyComplete s
  | .waitc m gd ga gb gc cond n32 scope => Sys2Proof.Machine.execWaitc m gd ga gb gc cond n32 scope s
  | .monitorWake => Sys2Proof.Machine.execMonitorWake s
  | .waitcTimeout => Sys2Proof.Machine.execWaitcTimeout s
  | .waitcPoll => Sys2Proof.Machine.execWaitcPoll s
  | .hwait m gd k => Sys2Proof.Machine.execHwait m gd k s
  | .handleWaitEnd => Sys2Proof.Machine.execHandleWaitEnd s
  | .htest m gd k => Sys2Proof.Machine.execHtest m gd k s
  | .hcancel m k => Sys2Proof.Machine.execHcancel m k s
  | .cancelBoundary => Sys2Proof.Machine.execCancelBoundary s
  | .hmov m gd k => Sys2Proof.Machine.execHmov m gd k s
  | .hadopt m k ga => Sys2Proof.Machine.execHadopt m k ga s
  | .acset m k ga clr => Sys2Proof.Machine.execAcset m k ga clr s
  | .await m k => Sys2Proof.Machine.execAwait m k s
  | .awaitComplete => Sys2Proof.Machine.execAwaitComplete s
  | .rdv m => Sys2Proof.Machine.execRdv m s
  | .rdvComplete => Sys2Proof.Machine.execRdvComplete s
  | .gld m gd ga gb disp size sync hint => Sys2Proof.Machine.execGld m gd ga gb disp size sync hint s
  | .gst m gd ga gb disp size sync hint => Sys2Proof.Machine.execGst m gd ga gb disp size sync hint s
  | .glds m gd ga gb disp size sync => Sys2Proof.Machine.execGlds m gd ga gb disp size sync s
  | .gsts m gd ga gb disp size sync => Sys2Proof.Machine.execGsts m gd ga gb disp size sync s
  | .gatom m gd ga gb gc rmw scope => Sys2Proof.Machine.execGatom m gd ga gb gc rmw scope s
  | .cpy m k ga gb => Sys2Proof.Machine.execCpy m k ga gb s
  | .cpyc m gd ga gb => Sys2Proof.Machine.execCpyc m gd ga gb s
  | .layout m n ga => Sys2Proof.Machine.execLayout m n ga s
  | .tdef m tile ga gc tag => Sys2Proof.Machine.execTdef m tile ga gc tag s
  | .trel m tile => Sys2Proof.Machine.execTrel m tile s
  | .tstat m gd spec => Sys2Proof.Machine.execTstat m gd spec s
  | .sbind m k first count => Sys2Proof.Machine.execSbind m k first count s
  | .mcast m k ga gb => Sys2Proof.Machine.execMcast m k ga gb s
  | .tileWaitEnd => Sys2Proof.Machine.execTileWaitEnd s
  | .copyComplete => Sys2Proof.Machine.execCopyComplete s
  | .mzero m t => Sys2Proof.Machine.execMzero m t s
  | .mma m t ga a b => Sys2Proof.Machine.execMma m t ga a b s
  | .mmag m t gd ga a b => Sys2Proof.Machine.execMmag m t gd ga a b s
  | .mmasp m t ga a b => Sys2Proof.Machine.execMmasp m t ga a b s
  | .msoft m t gd ga o => Sys2Proof.Machine.execMsoft m t gd ga o s
  | .mscale m t ga stride => Sys2Proof.Machine.execMscale m t ga stride s
  | .mdrain m t sat gd ga o tag => Sys2Proof.Machine.execMdrain m t sat gd ga o tag s
  | .mwait m one t => Sys2Proof.Machine.execMwait m one t s
  | .mldt m t a => Sys2Proof.Machine.execMldt m t a s
  | .mcmerge m t ga cores => Sys2Proof.Machine.execMcmerge m t ga cores s
  | .matrixCommandComplete => Sys2Proof.Machine.execMatrixCommandComplete s
  | .sequencerFaultDelivery => Sys2Proof.Machine.execSequencerFaultDelivery s
  | .wnscan m k ga => Sys2Proof.Machine.execWnscan m k ga s
  | .wntopk m k ga => Sys2Proof.Machine.execWntopk m k ga s
  | .thresherResult => Sys2Proof.Machine.execThresherResult s
  | .nbx m k ga => Sys2Proof.Machine.execNbx m k ga s
  | .nbxContextStart => Sys2Proof.Machine.execNbxContextStart s
  | .kvseal m k ga => Sys2Proof.Machine.execKvseal m k ga s
  | .kvsealComplete => Sys2Proof.Machine.execKvsealComplete s
  | .red m k ga => Sys2Proof.Machine.execRed m k ga s
  | .redComplete => Sys2Proof.Machine.execRedComplete s
  | .rsend m k ga => Sys2Proof.Machine.execRsend m k ga s
  | .rfetch m k ga => Sys2Proof.Machine.execRfetch m k ga s
  | .fbdrain m k => Sys2Proof.Machine.execFbdrain m k s
  | .fbdrainDone => Sys2Proof.Machine.execFbdrainDone s
  | .fbdark m k ga => Sys2Proof.Machine.execFbdark m k ga s
  | .fbrelock m k ga => Sys2Proof.Machine.execFbrelock m k ga s
  | .relockComplete => Sys2Proof.Machine.execRelockComplete s
  | .lockTimeout => Sys2Proof.Machine.execLockTimeout s
  | .fbopen m k => Sys2Proof.Machine.execFbopen m k s
  | .fbstat m gd => Sys2Proof.Machine.execFbstat m gd s
  | .fbplan m gd ga => Sys2Proof.Machine.execFbplan m gd ga s
  | .oalloc m gd ga gb => Sys2Proof.Machine.execOalloc m gd ga gb s
  | .ofree m gd ga => Sys2Proof.Machine.execOfree m gd ga s
  | .opin m gd ga => Sys2Proof.Machine.execOpin m gd ga s
  | .ounpin m gd ga => Sys2Proof.Machine.execOunpin m gd ga s
  | .ogroup m gd ga gb => Sys2Proof.Machine.execOgroup m gd ga gb s
  | .omove m k ga gb => Sys2Proof.Machine.execOmove m k ga gb s
  | .oloc m gd ga => Sys2Proof.Machine.execOloc m gd ga s
  | .oinv m k ga => Sys2Proof.Machine.execOinv m k ga s
  | .osplit m gd ga gb => Sys2Proof.Machine.execOsplit m gd ga gb s
  | .oattr m gd ga gb => Sys2Proof.Machine.execOattr m gd ga gb s
  | .launch m gd ga => Sys2Proof.Machine.execLaunch m gd ga s
  | .launchb m gd ga gb => Sys2Proof.Machine.execLaunchb m gd ga gb s
  | .patch m gd ga gb slot => Sys2Proof.Machine.execPatch m gd ga gb slot s
  | .tdec m gd ga gb => Sys2Proof.Machine.execTdec m gd ga gb s
  | .fork m ga => Sys2Proof.Machine.execFork m ga s
  | .regroup m dsp gd ga key => Sys2Proof.Machine.execRegroup m dsp gd ga key s
  | .regroupMoveComplete => Sys2Proof.Machine.execRegroupMoveComplete s
  | .spawnq m gd => Sys2Proof.Machine.execSpawnq m gd s
  | .tkill m gd ga => Sys2Proof.Machine.execTkill m gd ga s
  | .rgbegin m gd ga => Sys2Proof.Machine.execRgbegin m gd ga s
  | .regionSlotFreeResume => Sys2Proof.Machine.execRegionSlotFreeResume s
  | .rgend m => Sys2Proof.Machine.execRgend m s
  | .rgabort m ga => Sys2Proof.Machine.execRgabort m ga s
  | .rgstat m gd => Sys2Proof.Machine.execRgstat m gd s
  | .regionCommit => Sys2Proof.Machine.execRegionCommit s
  | .regionAbortTake => Sys2Proof.Machine.execRegionAbortTake s
  | .heldWriteApply => Sys2Proof.Machine.execHeldWriteApply s
  | .parkComplete => Sys2Proof.Machine.execParkComplete s
  | .responseReturn => Sys2Proof.Machine.execResponseReturn s
  | .groupExchange => Sys2Proof.Machine.execGroupExchange s
  | .pendingPromotion => Sys2Proof.Machine.execPendingPromotion s
  | .sheafStart => Sys2Proof.Machine.execSheafStart s
  | .leaseExpiry => Sys2Proof.Machine.execLeaseExpiry s
  | .demandAccess => Sys2Proof.Machine.execDemandAccess s
  | .channelBurstSelect => Sys2Proof.Machine.execChannelBurstSelect s
  | .rowSwitchComplete => Sys2Proof.Machine.execRowSwitchComplete s
  | .refreshDue => Sys2Proof.Machine.execRefreshDue s
  | .dramTempHigh => Sys2Proof.Machine.execDramTempHigh s
  | .dramTempNormal => Sys2Proof.Machine.execDramTempNormal s
  | .thermalTrip => Sys2Proof.Machine.execThermalTrip s
  | .softError => Sys2Proof.Machine.execSoftError s
  | .readPacket => Sys2Proof.Machine.execReadPacket s
  | .writePacket => Sys2Proof.Machine.execWritePacket s
  | .atomicPacket => Sys2Proof.Machine.execAtomicPacket s
  | .fetchPacket => Sys2Proof.Machine.execFetchPacket s
  | .objectPacket => Sys2Proof.Machine.execObjectPacket s
  | .responsePacket => Sys2Proof.Machine.execResponsePacket s
  | .bulkPacket => Sys2Proof.Machine.execBulkPacket s
  | .bulkAck => Sys2Proof.Machine.execBulkAck s
  | .credit => Sys2Proof.Machine.execCredit s
  | .marker => Sys2Proof.Machine.execMarker s
  | .syncFlit => Sys2Proof.Machine.execSyncFlit s
  | .gleanerVisit => Sys2Proof.Machine.execGleanerVisit s
  | .affinityHalving => Sys2Proof.Machine.execAffinityHalving s
  | .migrationPassEnd => Sys2Proof.Machine.execMigrationPassEnd s
  | .cutOverDrained => Sys2Proof.Machine.execCutOverDrained s
  | .pinGraceExpiry => Sys2Proof.Machine.execPinGraceExpiry s
  | .oinvComplete => Sys2Proof.Machine.execOinvComplete s
  | .invalidationComplete => Sys2Proof.Machine.execInvalidationComplete s
  | .blockPlacement => Sys2Proof.Machine.execBlockPlacement s
  | .taskEndingComplete => Sys2Proof.Machine.execTaskEndingComplete s
  | .preemption => Sys2Proof.Machine.execPreemption s
  | .saveComplete => Sys2Proof.Machine.execSaveComplete s
  | .blockSwapOut => Sys2Proof.Machine.execBlockSwapOut s
  | .swappedBlockPoll => Sys2Proof.Machine.execSwappedBlockPoll s
  | .blockRestore => Sys2Proof.Machine.execBlockRestore s
  | .watchdog => Sys2Proof.Machine.execWatchdog s
  | .eventSend => Sys2Proof.Machine.execEventSend s
  | .eventResend => Sys2Proof.Machine.execEventResend s
  | .taskPost => Sys2Proof.Machine.execTaskPost s
  | .eventAck => Sys2Proof.Machine.execEventAck s
  | .mgmtRead => Sys2Proof.Machine.execMgmtRead s
  | .mgmtWrite => Sys2Proof.Machine.execMgmtWrite s
  | .planctlGo => Sys2Proof.Machine.execPlanctlGo s
  | .qpConnect => Sys2Proof.Machine.execQpConnect s
  | .qpEnd => Sys2Proof.Machine.execQpEnd s
  | .attest => Sys2Proof.Machine.execAttest s
  | .rdmaWrite => Sys2Proof.Machine.execRdmaWrite s
  | .rdmaRead => Sys2Proof.Machine.execRdmaRead s
  | .reset => Sys2Proof.Machine.execReset s
  | .coldReset => Sys2Proof.Machine.execColdReset s
  | .replayRequest => Sys2Proof.Machine.execReplayRequest s
  | .roceSendOrAtomic => Sys2Proof.Machine.execRoceSendOrAtomic s
  | .circuitSwitchChange => Sys2Proof.Machine.execCircuitSwitchChange s

end Sys2Proof.Machine
end

