-- ==== Sys2Proof/Machine/Sched.lean ====
section
/-! DEFINITION. What a step runs: the choice of the instruction that issues (02 R49 to R52; 08 R234, R239), the steps of engines, scheduler, fabric and host port that are due, and what follows within every step (DESIGN CHOICE, log entry 1). -/

namespace Sys2Proof.Machine

/-! ### The choice of what issues -/

/-- A unit that issues: an issue slot, or a sequencer. -/
inductive IssueUnit
  | slot (n : Nat)
  | seq (q : QKey)
  deriving DecidableEq, Repr

/-- Issue slots and sequencers with their numbers: four slots a core, and the sequencers after them. -/
def State.units (s : State) : List (Nat × IssueUnit) :=
  sortStable (fun (a b : Nat × IssueUnit) => decide (a.1 < b.1)) (s.slots.map (fun e => (e.1, .slot e.1)))
    ++ s.seqs.mapIdx (fun i e => (4 * Config.cores + i, .seq e.1))

/-- The units in rotation, after the one that issued last. -/
def State.rotation (s : State) : List (Nat × IssueUnit) :=
  s.units.filter (fun u => decide (s.lastSlot < u.1)) ++ s.units.filter (fun u => decide (u.1 ≤ s.lastSlot))

/-- PickPair of 02 R49: at most two paths. -/
def pickPair (quantum : Nat) (ps : List PathOf) : List PathOf :=
  (sortStable (fun (a b : PathOf) => decide (b.age < a.age) || (a.age == b.age && decide (a.pc.toNat < b.pc.toNat))) (ps.filter (fun p => decide (quantum ≤ p.age)))
    ++ sortStable (fun (a b : PathOf) => decide (popMask b.lanes < popMask a.lanes) || (popMask a.lanes == popMask b.lanes && decide (a.pc.toNat < b.pc.toNat))) (ps.filter (fun p => decide (p.age < quantum)))).take 2

/-- The first of two paths wins a write of one uniform register: more lanes, then the lower program counter (02 R51). -/
def wins (a b : PathOf) : Bool := decide (popMask b.lanes < popMask a.lanes) || (popMask a.lanes == popMask b.lanes && decide (a.pc.toNat < b.pc.toNat))

/-- Of two paths that each need a table entry while one is free, the one that wins a clash has it and the other waits: which of them does, 02 R51 does not say (DESIGN CHOICE, log entry 23). -/
def State.shareEntry (s : State) (k : GKey) : List PathOf → List PathOf
  | [p, q] => if s.needsEntry k p && s.needsEntry k q && s.lastEntry k p then (if wins p q then [p] else [q]) else [p, q]
  | l => l

/-- Of the pair, the paths that need no table entry or can take one (02 R51, R52); where neither can, the pair of those that can. A path that waits for an entry stays in P and ages, as 02 R51 says of it ("the waiting path ages under R49"; DEDUCED, log entry 23). -/
def State.issuers (s : State) (k : GKey) (g : Group) : List PathOf :=
  s.shareEntry k
    (match (pickPair g.quantum g.paths).filter (s.canIssue k) with
     | [] => pickPair g.quantum (g.paths.filter (s.canIssue k))
     | l => l)

/-- What issues: one path, a pair with its winner first, the delivery of a sequencer's fault at a path, or a sequencer; with the number of the unit. -/
inductive Pick
  | one (u : Nat) (k : GKey) (p : PathOf)
  | two (u : Nat) (k : GKey) (w l : PathOf)
  | held (u : Nat) (k : GKey) (p : PathOf)
  | seq (u : Nat) (q : QKey)
  deriving DecidableEq, Repr

/-- A sequencer can issue (08 R239): its program runs, nothing holds it, and a variable-latency instruction has its entry. -/
def State.seqReady (s : State) (q : QKey) (e : Sequencer) : Bool :=
  e.running && e.wait == .none && e.pw == .none && s.blockRuns q.sg.blk &&
    (match s.fetch? q.sg.blk e.pc with
     | some (.ok i) => !isVariable i || ({ s with cur := .seq q }).entryFree
     | some (.error _) => true
     | none => false)

/-- The ready active group whose last issue is oldest; a tie goes to the one that entered the active set earlier (08 R234). -/
def State.oldestReady (s : State) (x : Slot) : Option GKey :=
  minBy (fun k => ((look s.groups k).elim none (fun g => g.lastIssue)).elim 0 (· + 1)) (x.active.filter s.groupReady)

/-- What a unit issues. -/
def State.pickOf (s : State) (u : Nat × IssueUnit) : Option Pick :=
  match u.2 with
  | .slot n =>
    match (look s.slots n).elim none s.oldestReady with
    | none => none
    | some k =>
      match look s.groups k with
      | none => none
      | some g =>
        match s.issuers k g with
        | [] => none
        | p :: r =>
          if s.isProducer k && (s.heldFault k.blk).isSome then some (.held u.1 k p)
          else
            match r with
            | [] => some (.one u.1 k p)
            | q :: _ => if wins p q then some (.two u.1 k p q) else some (.two u.1 k q p)
  | .seq q =>
    match look s.seqs q with
    | none => none
    | some e => if s.seqReady q e then some (.seq u.1 q) else none

/-- What issues next. -/
def State.nextPick (s : State) : Option Pick := s.rotation.findSome? s.pickOf

/-! ### Issuing -/

/-- Ages after an issue cycle (02 R49): the issuing paths' lanes 0, the other paths' one more. -/
def Group.ageLanes (g : Group) (out : List PathOf) : Group :=
  let m := out.foldl (fun m p => m ||| p.lanes) 0
  let w := g.issuing
  { g with lanes := g.lanes.mapIdx (fun i x => if m.getLsbD i then { x with age := 0 } else if w.getLsbD i then { x with age := x.age + 1 } else x) }

/-- The group's issue cycle is noted: its ages, its slot's turn, its task's progress. -/
def State.noteIssue (s : State) (u : Nat) (k : GKey) (out : List PathOf) : State :=
  let t : State := { s with lastSlot := u, groups := upd s.groups k (fun (g : Group) => { g.ageLanes out with lastIssue := some s.clock }) }
  t.onTask (s.taskOf k.blk) (fun x => { x with lastProgress := s.ptime })

/-- A path is the current issuer. -/
def State.asPath (s : State) (k : GKey) (p : PathOf) : State := { s with cur := .path k p.lanes p.pc }

/-- Runs the instruction at a path's program counter, or takes the fault of its fetch. -/
def runPath (run : Instr → State → Out) (s : State) (k : GKey) (p : PathOf) : Out :=
  match s.fetch k.blk p.pc with
  | .ok i => run i (s.asPath k p)
  | .error c => .next ((s.asPath k p).raise (.of c))

/-- Runs a sequencer's next instruction. -/
def runSeq (run : Instr → State → Out) (s : State) (u : Nat) (q : QKey) : Out :=
  let t := ({ s with lastSlot := u, cur := .seq q }).onTask (s.taskOf q.sg.blk) (fun x => { x with lastProgress := s.ptime })
  match look s.seqs q with
  | none => .next t
  | some e =>
    match s.fetch q.sg.blk e.pc with
    | .ok i => run i t
    | .error c => .next (t.raise (.of c))

/-- Both instructions of a pair read what the group, and the barriers, counters and streams that it shares, held before either (02 R51). -/
def Group.takeView (g : Group) (b : Option Block) (sg : Option Segment) : Group :=
  { g with view := some { v := g.v, g := g.g, h := g.h, pendV := g.pendV, pendG := g.pendG, struckG := g.struckG, spilled := g.lanesWhere (fun _ x => x.st == .spilled)
                          gwct := g.gwct, outs := g.outs, quantum := g.quantum, lease := g.lease, ptimeHi := g.ptimeHi, gwctHi := g.gwctHi
                          bars := b.elim [] (fun x => x.bars), acs := b.elim [] (fun x => x.acs), streams := sg.elim [] (fun x => x.streams) } }

/-- A pair of a group's paths begins. -/
def State.takeView (s : State) (k : GKey) : State :=
  s.onGroup k (fun g => g.takeView (look s.blocks k.blk) (look s.segs ⟨k.blk, g.seg⟩))

/-- A group's wait. -/
def State.groupWait (s : State) (k : GKey) : Wait := (look s.groups k).elim .none (fun g => g.wait)

/-- The pair is over: a trap it raised is entered if nothing is outstanding. -/
def State.endPair (s : State) (k : GKey) : State :=
  let t := s.onGroup k (fun g => { g with view := none })
  match t.groupWait k with
  | .trap _ => t.unpark k
  | _ => t

/-- What becomes of a pair, by the group's wait after the path that loses a clash and after the winner. -/
inductive PairEnd
  | both
  | bothThen (lanes : Mask)
  | trapAfter (w : Wait) (r : TrapRec)
  | winnerAlone
  | loserAlone
  deriving DecidableEq, Repr

/-- A wait in which an instruction has had its effect but for the wait itself: a fence, MRDY, a WAITC whose monitor is set. -/
def Wait.effected : Wait → Bool
  | .fence .. | .mrdy .. | .waitc _ => true
  | _ => false

/-- A trap that one of a pair raises stands, and the other has its full effect; of two traps the winner's is reported and the loser stays at its instruction (02 R51). A park of the loser is complete with the winner's trap, and follows another wait of the winner. Beside a fence, an MRDY or a WAITC a trap is taken when that wait has ended; another wait of the whole group has had no effect, and its instruction issues again after the trap. Of two waits of the whole group the one that begins later issues again (DESIGN CHOICE, log entry 1). -/
def pairEnd (loser both : Wait) : PairEnd :=
  match loser, both with
  | .none, _ => .both
  | .trap r, .trap q => if r = q then .both else .winnerAlone
  | .trap r, w => if w.effected then .trapAfter w r else .loserAlone
  | .park _ _, .park _ _ => .both
  | .park _ _, .trap _ => .both
  | .park lanes _, _ => .bothThen lanes
  | w, .trap r => if w.effected then .trapAfter w r else .winnerAlone
  | x, y => if x = y then .both else .loserAlone

/-- A pair: the path that loses a clash runs first, then the winner, whose writes stand (02 R51). Of one table entry that is free the winner has the use (State.issuers). -/
def runTwo (run : Instr → State → Out) (s : State) (k : GKey) (w l : PathOf) : Out :=
  let v := s.takeView k
  match runPath run v k l with
  | .next t =>
    match runPath run { t with freeCtr := t.freeCtr + 1 } k w with
    | .next x =>
      match pairEnd (t.groupWait k) (x.groupWait k) with
      | .both => .next (x.endPair k)
      | .bothThen lanes => .next ((x.onGroup k (fun g => { g with owed := some lanes })).endPair k)
      | .trapAfter y r => .next ((x.onGroup k (fun g => { g with wait := y, owedTrap := some r })).endPair k)
      | .loserAlone => .next (t.endPair k)
      | .winnerAlone =>
        match runPath run v k w with
        | .next y => .next (y.endPair k)
        | o => o
    | o => o
  | o => o

/-- Runs what issues. -/
def runPick (run : Instr → State → Out) (s : State) : Pick → Out
  | .one u k p => runPath run (s.noteIssue u k [p]) k p
  | .two u k w l => runTwo run (s.noteIssue u k [w, l]) k w l
  | .held u k p => run .sequencerFaultDelivery ((s.noteIssue u k [p]).asPath k p)
  | .seq u q => runSeq run s u q

/-! ### Steps that are due of themselves -/

/-- One of a kind of step, with each thing it may act on. -/
def offers {α : Type} (i : Instr) (f : α → StepArg) (l : List α) : List (Instr × StepArg) := l.map (fun x => (i, f x))

/-- Groups and sequencers of blocks that run. -/
def State.agents (s : State) : List Agent :=
  ((s.groups.filter (fun e => !e.2.ended && s.blockRuns e.1.blk)).map (fun e => Agent.grp e.1)) ++ ((s.seqs.filter (fun e => s.blockRuns e.1.sg.blk)).map (fun e => Agent.sqr e.1))

/-- Segments of blocks on their cores. -/
def State.liveSegs (s : State) : List SKey := (s.segs.filter (fun e => (look s.blocks e.1.blk).elim false (fun b => !b.saved))).map Prod.fst

/-- Parts of transactions not yet performed. -/
def State.todoParts (s : State) : List (Nat × Nat) := (s.txns.map (fun t => (List.range t.parts.length).map (fun n => (t.id, n)))).flatten

/-- Channels at which something waits. -/
def State.busyChannels (s : State) : List Nat := (s.channels.filter (fun e => !e.2.waiting.isEmpty || e.2.refreshDue)).map Prod.fst

/-- Channels whose refresh falls due. -/
def State.dueChannels (s : State) : List Nat := (List.range Config.channels).filter (fun c => decide ((s.chan c).nextRefresh ≤ s.clock))

/-- Queue pairs whose first request has not begun. -/
def State.rdmaHeads (s : State) : List Nat := (s.host.rdma.filter (fun r => r.op.isNone)).map (fun r => r.q)

/-- The kinds of step that come of themselves, each with what it may act on. DEDUCED, log entry 50. -/
def kinds : List (State → List (Instr × StepArg)) :=
  [ fun s => offers .responseReturn (fun (x : Nat × Nat) => .pair x.1 x.2) s.todoParts,
    fun s => offers .parkComplete .agent s.agents,
    fun s => offers .barrierWaitEnd .agent s.agents,
    fun s => offers .fenceComplete .agent s.agents,
    fun s => offers .mrdyComplete .agent s.agents,
    fun s => offers .monitorWake .agent s.agents,
    fun s => offers .waitcTimeout .agent s.agents,
    fun s => offers .waitcPoll .agent s.agents,
    fun s => offers .handleWaitEnd .agent s.agents,
    fun s => offers .awaitComplete .agent s.agents,
    fun s => offers .rdvComplete .agent s.agents,
    fun s => offers .tileWaitEnd .agent s.agents,
    fun s => offers .regionSlotFreeResume .agent s.agents,
    fun s => offers .regionAbortTake .agent s.agents,
    fun s => offers .regionCommit .num (s.regions.map Prod.fst),
    fun s => offers .heldWriteApply .num (List.range s.held.length),
    fun s => offers .copyComplete .num (s.ops.map Prod.fst),
    fun s => offers .cancelBoundary .num (s.ops.map Prod.fst),
    fun s => offers .thresherResult .num (s.ops.map Prod.fst),
    fun s => offers .nbxContextStart .num (s.ops.map Prod.fst),
    fun s => offers .kvsealComplete .num (s.ops.map Prod.fst),
    fun s => offers .redComplete .num (s.ops.map Prod.fst),
    fun s => offers .matrixCommandComplete .seg s.liveSegs,
    fun s => offers .sheafStart .seg s.liveSegs,
    fun s => offers .regroupMoveComplete .num (s.blocks.map Prod.fst),
    fun s => offers .groupExchange .num (s.slots.map Prod.fst),
    fun s => offers .pendingPromotion .num (s.slots.map Prod.fst),
    fun s => offers .demandAccess (fun (x : Nat × Nat) => .pair x.1 x.2) s.todoParts,
    fun s => offers .refreshDue .num s.dueChannels,
    fun s => offers .rowSwitchComplete .num (s.channels.map Prod.fst),
    fun s => offers .channelBurstSelect .num s.busyChannels,
    fun _ => offers .channelBurstSelect .num (List.range Config.channels),
    fun s => offers .leaseExpiry (fun (x : L1Sector) => .pair x.core x.sector) s.l1,
    fun _ => offers .blockPlacement (fun (_ : Unit) => .none) [()],
    fun _ => offers .blockRestore (fun (_ : Unit) => .none) [()],
    fun _ => offers .preemption (fun (_ : Unit) => .none) [()],
    fun s => offers .saveComplete .num (s.blocks.map Prod.fst),
    fun s => offers .blockSwapOut .num (s.blocks.map Prod.fst),
    fun s => offers .swappedBlockPoll .num (s.blocks.map Prod.fst),
    fun s => offers .taskEndingComplete .num (s.tasks.map Prod.fst),
    fun s => offers .watchdog .num (s.tasks.map Prod.fst),
    fun _ => offers .eventSend (fun (_ : Unit) => .none) [()],
    fun _ => offers .eventResend (fun (_ : Unit) => .none) [()],
    fun s => offers .gleanerVisit .num (s.stubs.map Prod.fst),
    fun _ => offers .affinityHalving (fun (_ : Unit) => .none) [()],
    fun s => offers .migrationPassEnd .num (s.objs.map Prod.fst),
    fun s => offers .cutOverDrained .num (s.objs.map Prod.fst),
    fun s => offers .pinGraceExpiry .num (s.objs.map Prod.fst ++ s.revokes.map Prod.fst),
    fun s => offers .oinvComplete .num (s.objs.map Prod.fst ++ s.revokes.map Prod.fst),
    fun s => offers .invalidationComplete (fun n => .pair 0 n) (s.txns.map (fun t => t.id)),
    fun s => offers .invalidationComplete (fun n => .pair 1 n) (s.ops.map Prod.fst),
    fun s => offers .invalidationComplete (fun n => .pair 2 n) (List.range s.hold.length),
    fun s => offers .invalidationComplete (fun n => .pair 3 n) (s.objs.map Prod.fst),
    fun _ => offers .fbdrainDone (fun (_ : Unit) => .none) [()],
    fun _ => offers .relockComplete (fun (_ : Unit) => .none) [()],
    fun _ => offers .lockTimeout (fun (_ : Unit) => .none) [()],
    fun s => offers .rdmaWrite .num s.rdmaHeads,
    fun s => offers .rdmaRead .num s.rdmaHeads ]

/-- A list turned by n places. -/
def turned {α : Type} (l : List α) (n : Nat) : List α := l.drop (n % l.length) ++ l.take (n % l.length)

/-- A step that is due changes the state; one that is not leaves it as it stands. -/
def tryEvent (run : Instr → State → Out) (s : State) (e : Instr × StepArg) : Option Out :=
  match run e.1 { s with cur := .idle, arg := e.2 } with
  | .next t => if t = { s with cur := .idle, arg := e.2 } then none else some (.next t)
  | o => some o

/-- The first step that is due, the kinds and what each acts on taken in turn as the clock goes on. -/
def nextEvent (run : Instr → State → Out) (s : State) : Option Out :=
  (turned kinds (s.clock / 2)).findSome? (fun f => (turned (f s) (s.clock / 2 / kinds.length)).findSome? (tryEvent run s))

/-! ### One step -/

/-- Program counters of a block: those of its lanes and of its sequencers. -/
def State.pcsOf (s : State) (blk : Nat) : List Word :=
  (((s.aliveGroups blk).map (fun e => (lanesOf (e.2.live ||| e.2.handling)).map (fun l => (e.2.lane l).pc))).flatten
    ++ (s.seqs.filter (fun e => e.1.sg.blk == blk && e.2.running)).map (fun e => e.2.pc)).eraseDups

/-- The fetch paths want the words of code that stand at another chip (03 R62). -/
def State.askCode (s : State) : State :=
  (s.blocks.filter (fun e => (look s.objs (ptrId e.2.code)).elim true (fun d => d.split.isSome))).foldl (fun t e =>
    ((t.pcsOf e.1).filter (t.fetchWaits e.1)).foldl (fun u pc => (u.codeWant e.1 pc).codeWant e.1 (pc + 4)) t) s

/-- Groups whose launch holds its issue, and lanes that wait for the words at their targets, go on once the answers have come. -/
def State.wakeFar (s : State) : State :=
  { s with groups := s.groups.map (fun e => (e.1, { e.2 with
      wait := if e.2.wait = .hts ∧ !s.farOpen (.launch (.grp e.1)) then .none else e.2.wait
      lanes := e.2.lanes.map (fun x => if x.wait = .code ∧ !s.farOpen (.code e.1.blk) then { x with wait := .none, marked := false } else x) })) }

/-- What the reads at other chips outside the transaction table come to within a step. -/
def State.farSteps (s : State) : State :=
  let t := s.askCode
  if t.far.isEmpty && t.host.posts.isEmpty then t else ((t.far.filter (fun r => !r.sent && r.got.isNone)).foldl State.farSend t).wakeFar.retryPosts

/-- What follows within every step: the clock goes on; events that may enter the arbiter do; owed parks begin; RDMA requests end; operations that nothing names leave; transfers hand on their packets, the fabric controller applies the commands that have reached it, a request that waits in the request channel is taken where the hold queue has room, and the fabric sends what may leave; blocks and tasks that have ended leave; a block whose last group has come to REGROUP moves; words of code and kernel records are read at other chips; pending groups' intervals are kept. -/
def State.tidy (s : State) : State :=
  let t : State := { s with cur := .idle, arg := .none, clock := s.clock + 1, freeCtr := s.freeCtr + 1 }
  let t := ((((State.flushEvents t.pendingEvents.length t).payOwed).sweepRdma).sweepOps).feed
  let t := (State.runControl t.fab.cmds.length t).retryWaiting
  let t := (State.pump t.fab.queue.length t).sweepTasks
  (((t.blocks.map Prod.fst).foldl State.tryRegroup t).farSteps).trackReady

/-- What follows a step that has a next state. -/
def thenTidy : Out → Out
  | .next t => .next t.tidy
  | .fault f => .fault f
  | .refused r => .refused r

/-- The issue of this step, if something can issue. -/
def issueNow (run : Instr → State → Out) (s : State) : Option Out := s.nextPick.map (runPick run s)

/-- What a step runs: an arrival from outside first; else what issues and what is due of itself, each in turn; else the clock alone goes on. In a thermal trip, or with its firmware image refused, the chip takes arrivals only (17 R411, R415). -/
def turnOf (run : Instr → State → Out) (s : State) : Out :=
  match s.agenda with
  | (i, a) :: rest => run i { s with agenda := rest, cur := .idle, arg := a }
  | [] =>
    if s.phase ≠ .up then .next s
    else if s.clock % 2 = 0 then ((issueNow run s).orElse (fun _ => nextEvent run s)).getD (.next s)
    else ((nextEvent run s).orElse (fun _ => issueNow run s)).getD (.next s)

/-- One step under a dispatcher. -/
def stepWith (run : Instr → State → Out) (s : State) : Out := thenTidy (turnOf run s)

/-! ### Placing one instruction -/

/-- The flat address of the instruction that issues next from a path. -/
def State.nextFetch (s : State) : Option Nat :=
  match s.nextPick with
  | some (.one _ k p) => s.codeAt k.blk p.pc
  | _ => none

/-- The bytes of a table word, bits above nbits zero. -/
def placedBytes (nbits w : Nat) : List Byte := bytesLE 8 (w % 2 ^ nbits)

/-- The kernel record of a program that is placed: one group of one block, all the registers there are. -/
def placedKernel : Kernel :=
  { entry := 0, trapv := none, msq := none, cst := none, v := 256, m := 512, producer := some 0, scr := 65536, pslots := 0, pdest := [], tiles := [], streams := [], bars := [], buckets := [] }

/-- The task that runs code from an object. -/
def placedTask (id : Nat) : Task :=
  { newTask ((List.range 24).map (fun i => if i = 1 then BitVec.ofNat 32 (id * 4) else if i = 3 ∨ i = 4 ∨ i = 5 ∨ i = 7 then 1 else 0)) placedKernel 0 0 with st := .running, next := 1, active := 1 }

/-- The code object: one frame with R and X. -/
def placedObject (frame : Nat) : Desc :=
  { len := 65536, attrs := 0x14, frame0 := frame, epoch := 0, pins := 0, group := none, split := none, localCount := 0, slots := [], suggestion := none, mig := none, inv := none, asked := false, busy := false, serial := none, left := 0 }

/-- The group: 32 lanes at offset 0, as GROUP_START leaves them. -/
def placedGroup (b : Block) (now : Nat) : Group :=
  { groupStart ({ tag := .raw, lanes := (List.range 32).map (BitVec.ofNat 32) } :: List.replicate 255 VReg.zero) b.startG (List.replicate 32 (laneStart 0 [])) 0 now 0 with entered := now, readySince := now }

/-- A new code object, a task of one block, and its group first in slot 0 of core 0, whose turn comes next (DESIGN CHOICE, log entry 2). -/
def State.withKernel (s : State) : State :=
  let id := s.chipId * 2 ^ 18 + s.nextSerial
  let b := s.nextUid
  let ti := s.freeTask.getD 4095
  let blk := blockStart ti (placedTask id) 0 0 [0] s.clock
  { s with
    nextUid := b + 1
    nextFrame := s.nextFrame + 1
    nextSerial := s.nextSerial + 1
    granary := put s.granary id { chip := s.chipId, epoch := 0, st := 0, boundary := 0, upper := 0 }
    objs := put s.objs id (placedObject s.nextFrame)
    tasks := put s.tasks ti (placedTask id)
    blocks := put s.blocks b blk
    segs := put s.segs ⟨b, 0⟩ (segStart (placedTask id))
    groups := put s.groups ⟨b, 0⟩ (placedGroup blk s.clock)
    slots := put s.slots 0 { active := ⟨b, 0⟩ :: (look s.slots 0).elim [] (fun x => x.active), pending := (look s.slots 0).elim [] (fun x => x.pending) }
    lastSlot := 4 * Config.cores + s.seqs.length }

/-- No arrival comes first, the chip is up, and it is the turn of what issues. -/
def State.issueFirst (s : State) : State := { s with agenda := [], phase := .up, clock := s.clock + s.clock % 2 }

/-- The instruction of a table word stands where the next step fetches: at the program counter of the path that issues next, or in a program placed for it. -/
def State.placeWord (s : State) (nbits w : Nat) : State :=
  let t := s.issueFirst
  let t := if t.nextFetch.isSome then t else t.withKernel
  match t.nextFetch with
  | some a => { t with mem := t.mem.put a (placedBytes nbits w), stale := t.stale.filter (fun f => f != a / 65536) }
  | none => t

end Sys2Proof.Machine
end

