-- ==== Sys2Proof/Machine/Step.lean ====
section
/-! DEFINITION. One step of the machine, and the placing of one instruction where the next step fetches. -/

namespace Sys2Proof.Machine

/-- One step: what stepWith chooses, run by exec. -/
def step (s : State) : Host.Outcome State Fault Refusal := stepWith exec s

/-- The state with the instruction of a table word where step fetches next. -/
def State.withFetchWord (s : State) (nbits w : Nat) : State := s.placeWord nbits w

end Sys2Proof.Machine
end

