-- ==== Sys2Proof/Safety.lean ====
section
/-! DEFINITION. The terms that claims use: what a safe run keeps (canonical memories, no issuer left between two steps), and when an issuer is ready for an instruction, so that no check of its issue stops it. -/

namespace Sys2Proof.Machine

/-! ### What a run keeps -/

/-- Object memory, every scratchpad and the routing-table buffer are in canonical form. -/
def State.memOk (s : State) : Bool := s.mem.wf && s.segs.all (fun e => e.2.scratch.wf) && s.host.planbuf.wf

/-- The invariant of a run: canonical memories, no instruction under way between steps. -/
def State.Inv (s : State) : Prop := s.memOk = true ∧ s.cur = .idle ∧ s.arg = .none

/-! ### Readiness at issue (02 R40, R41, R53; 03 R72, R73, R78, R80; 06 R182; 17 R402) -/

/-- The issuer is a path of a resident group, or a sequencer that exists. -/
def State.resident (s : State) : Bool :=
  match s.cur with
  | .idle => false
  | .path k _ _ => (look s.groups k).isSome
  | .seq q => (look s.seqs q).isSome

/-- The issuer is a path of a resident group. -/
def State.onPath (s : State) : Bool :=
  match s.cur with
  | .path k _ _ => (look s.groups k).isSome
  | _ => false

/-- Who may issue an instruction of a row of 03 R80. -/
def State.mayIssue (s : State) (row : Row) : Bool :=
  match row, s.cur with
  | .any, _ => true
  | .group, .path _ _ _ => true
  | .region, .path _ _ _ => true
  | .producer, .path k _ _ => s.isProducer k
  | .copy, .path k _ _ => s.isProducer k
  | .copy, .seq q => q.kind == .cst
  | .gmx, .seq q => q.kind == .msq
  | .seqOnly, .seq _ => true
  | _, _ => false

/-- A source carries an accepted tag and no poison; a g register bears no soft error's mark. -/
def State.srcReady (s : State) : Opnd → Bool
  | .v _ r ok => s.tagOf r != .poison && ok (s.tagOf r)
  | .g r => !s.struckU r

/-- A path is ready for a lane instruction that names v registers vs and g registers gs, all inside their allocations, with the sources given. -/
def State.laneReady (s : State) (vs gs : List Nat) (ops : List Opnd) : Bool :=
  s.onPath && vs.all (fun r => decide (r < s.vLimit)) && gs.all (fun r => decide (r < s.gLimit)) && ops.all s.srcReady

/-- An issuer is ready for a uniform instruction of a row, which may be closed inside regions, that names and reads registers. -/
def State.uniReady (s : State) (row : Row) (closed : Bool) (names reads : List Nat) : Bool :=
  s.resident && s.mayIssue row && !(closed && s.inRegion) && names.all (fun r => decide (r < s.gLimit)) && reads.all (fun r => !s.struckU r)

/-- The registers an F64 instruction names: an even destination whose pair lies in the allocation, even sources (04 R103). Any other tag has no such rule. -/
def State.pairsReady (s : State) (t : Tag) (vd : BitVec 8) (srcs : List Src) : Bool :=
  t != .f64 || (vd.toNat % 2 == 0 && decide (vd.toNat + 1 < s.vLimit) && srcs.all (fun x => srcNum x % 2 == 0))

/-- The issuer is this path of this resident group. -/
def State.pathIs (s : State) (k : GKey) (lanes : Mask) (pc : Word) (g : Group) : Prop := s.cur = .path k lanes pc ∧ look s.groups k = some g

/-! ### What a variable-latency instruction does as it issues (02 R52) -/

/-- From s to t the issuer took a transaction-table entry of a kind, with its sector parts and the lanes that fault already: OUTS is one more, the issuer has gone on by eight bytes; no memory has changed, no word of a register, and no other group or sequencer. -/
def State.tookEntry (s t : State) (kind : TxnKind) (parts : List Part) (faults : List (FaultCode × Nat)) : Prop :=
  ({ id := s.nextTxn, who := s.curAgent, core := s.coreOf s.curSeg, pc := s.curPc, lanes := s.curLanes, kind := kind, parts := someParts parts, faults := faults, lease := s.curGroup.elim 0 (fun g => g.leaseNow), seen := [] } : Txn) ∈ t.txns ∧
  t.txns.length = s.txns.length + 1 ∧ t.nextTxn = s.nextTxn + 1 ∧ t.mem = s.mem ∧ t.segs = s.segs ∧
  (∀ k lanes pc g, s.pathIs k lanes pc g → (∀ x, x ≠ k → look t.groups x = look s.groups x) ∧ t.seqs = s.seqs ∧
    ∃ g', look t.groups k = some g' ∧ g'.outs = g.outs + 1 ∧ g'.g = g.g ∧ g'.h = g.h ∧ (∀ r, (g'.v.getD r VReg.zero).lanes = (g.v.getD r VReg.zero).lanes) ∧
      ∀ l, l < g.lanes.length → (g'.lane l).pc = if lanes.getLsbD l then (g.lane l).pc + 8 else (g.lane l).pc) ∧
  (∀ q e, s.cur = .seq q → look s.seqs q = some e → t.groups = s.groups ∧ (∀ x, x ≠ q → look t.seqs x = look s.seqs x) ∧
    ∃ e', look t.seqs q = some e' ∧ e'.outs = e.outs + 1 ∧ e'.e = e.e ∧ e'.h = e.h ∧ e'.pc = e.pc + 8)

/-- In t the v registers listed are destinations of the lanes of the path that issued in s, and each has the tag beside it (02 R53; 06 R166, R175). -/
def State.pendsV (s t : State) (rs : List (Nat × Tag)) : Prop :=
  ∀ k lanes pc g, s.pathIs k lanes pc g → ∃ g', look t.groups k = some g' ∧ ∀ e ∈ rs, e.1 < g'.v.length → (g'.v.getD e.1 VReg.zero).tag = e.2 ∧ lanes &&& ~~~((look g'.pendV e.1).getD 0) = 0

/-- In t the g registers of the path that issued in s, or the e registers of the sequencer, are destinations. -/
def State.pendsU (s t : State) (rs : List Nat) : Prop :=
  (∀ k lanes pc g, s.pathIs k lanes pc g → ∃ g', look t.groups k = some g' ∧ ∀ r ∈ rs, r ∈ g'.pendG) ∧
  (∀ q e, s.cur = .seq q → look s.seqs q = some e → ∃ e', look t.seqs q = some e' ∧ ∀ r ∈ rs, r ∈ e'.pend)

/-! ### What returns to a destination (02 R53, 06 R166, R167) -/

/-- Word k of a destination for a lane: that lane's word of a v register, the one word of a g register. -/
def Group.destWord (g : Group) (d : Dest) (k l : Nat) : Word :=
  match d with
  | .none => 0
  | .v r => (g.v.getD (r + k) VReg.zero).lanes.getD l 0
  | .g r => g.g.getD (r + k) 0

/-- A destination of n registers lies in the group's registers, which have the lane. -/
def Group.destHas (g : Group) (d : Dest) (n l : Nat) : Prop :=
  match d with
  | .none => True
  | .v r => r + n ≤ g.v.length ∧ ∀ j, j < n → l < (g.v.getD (r + j) VReg.zero).lanes.length
  | .g r => r + n ≤ g.g.length

/-- From g to g' the words of a destination's n registers may have changed in the lanes given; every tag, every other word and every other register stands. -/
def Group.onlyDest (g g' : Group) (d : Dest) (n : Nat) (lanes : List Nat) : Prop :=
  (∀ j, (g'.v.getD j VReg.zero).tag = (g.v.getD j VReg.zero).tag) ∧
  (∀ j l, (∀ r, d = .v r → ¬(l ∈ lanes ∧ r ≤ j ∧ j < r + n)) → (g'.v.getD j VReg.zero).lanes.getD l 0 = (g.v.getD j VReg.zero).lanes.getD l 0) ∧
  (∀ j, (∀ r, d = .g r → ¬(r ≤ j ∧ j < r + n)) → g'.g.getD j 0 = g.g.getD j 0)

/-- A group's destination holds what a load of a size gives for one piece of a lane's access: each byte of the piece stands at its place, first byte lowest, and a value of fewer than 32 bits is extended as the size says (06 R167). -/
def Group.loaded (g : Group) (d : Dest) (z : Size) (x : Piece) (b : Nat → Byte) : Prop :=
  (∀ i, i < x.len → (g.destWord d ((x.idx + i) / 4) x.lane >>> (8 * ((x.idx + i) % 4))).setWidth 8 = b i) ∧
  let w := g.destWord d 0 x.lane
  (z = .i8 → w = (w.setWidth 8).signExtend 32) ∧ (z = .n8 → w = (w.setWidth 8).setWidth 32) ∧
  (z = .i16 → w = (w.setWidth 16).signExtend 32) ∧ (z = .n16 → w = (w.setWidth 16).setWidth 32)

/-- The byte that a store leaves at an address: that of the last of its pieces there, each piece with the address it stores to, or what stood before. -/
def storedByte (ps : List (Piece × Nat)) (data : List (Nat × Nat)) (before : Nat → Byte) (a : Nat) : Byte :=
  ((ps.filter (fun e => decide (e.2 ≤ a) && decide (a < e.2 + e.1.len))).getLast?).elim (before a) (fun e =>
    BitVec.ofNat 8 ((look data e.1.lane).getD 0 / 2 ^ (8 * (e.1.idx + (a - e.2)))))

/-! ### What an instruction that writes registers only leaves as it was -/

/-- The registers a float destination takes: a pair for F64 (01 R34). -/
def State.wide (s : State) (vd va : BitVec 8) : List Nat := if s.tagOf va.toNat = .f64 then [vd.toNat, vd.toNat + 1] else [vd.toNat]

/-- Of a lane instruction that writes registers only: its bytes, its marker, and the v and g registers it writes. -/
def State.laneDests (s : State) : Instr → Option (Nat × Bool × List Nat × List Nat)
  | .iadd m vd _ _ | .isub m vd _ _ | .imul m vd _ _ | .imulhi m vd _ _ | .nmulhi m vd _ _ | .imin m vd _ _ | .imax m vd _ _ | .nmin m vd _ _ | .nmax m vd _ _
  | .vand m vd _ _ | .vor m vd _ _ | .vxor m vd _ _ | .shl m vd _ _ | .shr m vd _ _ | .sar m vd _ _ | .mov m vd _ | .iaddi m vd _ _ | .andi m vd _ _ | .ori m vd _ _
  | .xori m vd _ _ | .shli m vd _ _ | .shri m vd _ _ | .sari m vd _ _ | .movi m vd _ => some (4, m, [vd.toNat], [])
  | .fadd m vd va _ | .fsub m vd va _ | .fmul m vd va _ | .fmin m vd va _ | .fmax m vd va _ => some (4, m, s.wide vd va, [])
  | .imad m vd _ _ _ | .frcp m vd _ | .frsq m vd _ | .fexp2 m vd _ | .flog2 m vd _ | .fsin m vd _ | .fcos m vd _ | .popc m vd _ | .clz m vd _ | .brev m vd _
  | .bfe m vd _ _ _ _ | .bfi m vd _ _ _ _ | .prmt m vd _ _ _ | .sel m vd _ _ _ | .iabs m vd _ _ | .ineg m vd _ _ | .iadd3 m vd _ _ _ | .movg m vd _ | .iset m vd _ _ _
  | .nset m vd _ _ _ | .fset m vd _ _ _ | .pack2 m vd _ _ _ _ _ _ | .pack4 m vd _ _ _ _ _ | .tagset m vd _ _ | .tagget m vd _ | .shfl m vd _ _ _ | .shflup m vd _ _ _
  | .shfldn m vd _ _ _ | .shflx m vd _ _ _ | .qswaph m vd _ | .qswapv m vd _ | .qswapd m vd _ | .qbcast m vd _ _ | .laneid m vd | .readsr m vd _ => some (8, m, [vd.toNat], [])
  | .ffma m vd va _ _ _ | .fsqrt m vd va _ | .fabs m vd va | .fneg m vd va | .ffloor m vd va | .fceil m vd va | .ftrunc m vd va | .frint m vd va _ => some (8, m, s.wide vd va, [])
  | .ftwosum m vd va _ => some (8, m, s.wide vd va ++ (if s.tagOf va.toNat = .f64 then [vd.toNat + 2, vd.toNat + 3] else [vd.toNat + 1]), [])
  | .cvt m vd _ dtag _ _ _ _ => some (8, m, (if dtag = .f64 then [vd.toNat, vd.toNat + 1] else [vd.toNat]), [])
  | .cvtsc m vd _ _ _ => some (8, m, [vd.toNat, vd.toNat + 1], [])
  | .unpack m vd va _ _ _ => some (8, m, regs vd.toNat (s.tagOf va.toNat).count, [])
  | .voteall m ge _ | .voteany m ge _ | .ballot m ge _ | .bplane m ge _ _ _ | .matchLanes m ge _ | .redux m ge _ _ => some (8, m, [], [ge.toNat])
  | _ => none

/-- Of a uniform instruction that writes g or e registers only: its bytes, its marker, and the registers it writes. -/
def uniformDests : Instr → Option (Nat × Bool × List Nat)
  | .gmovi m gd _ | .gaddi m gd _ | .glui m gd _ | .gori m gd _ | .gshli m gd _ _ | .gshri m gd _ _ | .gsari m gd _ _ | .gmov m gd _ | .gaddi6 m gd _ _ => some (4, m, [gd.toNat])
  | .gmovl m gd _ | .gadd m gd _ _ | .gsub m gd _ _ | .gmul m gd _ _ | .gmulhi m gd _ _ | .gnmulhi m gd _ _ | .gand m gd _ _ | .gor m gd _ _ | .gxor m gd _ _
  | .gshl m gd _ _ | .gshr m gd _ _ | .gsar m gd _ _ | .gmin m gd _ _ | .gmax m gd _ _ | .gnmin m gd _ _ | .gnmax m gd _ _ | .gpopc m gd _ | .gclz m gd _
  | .gsel m gd _ _ _ | .gdivn m gd _ _ | .gremn m gd _ _ | .gmad m gd _ _ _ | .gbfe m gd _ _ _ _ | .gbfi m gd _ _ _ | .gfadd m gd _ _ _ | .gfmul m gd _ _ _
  | .gfmax m gd _ _ | .gset m gd _ _ _ | .gnset m gd _ _ _ | .gfset m gd _ _ _ | .gffma m gd _ _ _ _ | .hmov m gd _ | .rgstat m gd | .spawnq m gd => some (8, m, [gd.toNat])
  | .gadd64 m gd _ _ | .clkr m gd => some (8, m, [gd.toNat, gd.toNat + 1])
  | .csrr m gd c => if c = .ptimeLo ∨ c = .gwctLo then none else some (8, m, [gd.toNat])
  | .land m | .nop m => some (4, m, [])
  | _ => none

/-- From s to t a path executed an instruction that writes registers only: nothing but its group changed; in it the other registers stand, the registers written keep the words of the lanes off the path, each lane of the path has gone on and the other lanes stand, and without the marker no wait began. -/
def State.pathWrote (s t : State) (k : GKey) (lanes : Mask) (g : Group) (len : Nat) (m : Bool) (vs gs : List Nat) : Prop :=
  t = { s with groups := t.groups } ∧ (∀ x, x ≠ k → look t.groups x = look s.groups x) ∧
  ∃ g', look t.groups k = some g' ∧
    g' = { g with v := g'.v, clobV := g'.clobV, g := g'.g, clobG := g'.clobG, struckG := g'.struckG, lanes := g'.lanes, wait := g'.wait, owed := g'.owed } ∧
    (∀ r, r ∉ vs → g'.v[r]? = g.v[r]?) ∧ (∀ r l, lanes.getLsbD l = false → (g'.v.getD r VReg.zero).lanes[l]? = (g.v.getD r VReg.zero).lanes[l]?) ∧
    (∀ r, r ∉ gs → g'.g[r]? = g.g[r]?) ∧ (m = false → g'.wait = g.wait ∧ g'.owed = g.owed) ∧
    (∀ l, l < g.lanes.length → g'.lane l = if lanes.getLsbD l then { g.lane l with pc := (g.lane l).pc + BitVec.ofNat 32 len } else g.lane l)

/-- The same of a sequencer: nothing but it changed, and in it the other e registers stand. -/
def State.seqWrote (s t : State) (q : QKey) (e : Sequencer) (len : Nat) (m : Bool) (es : List Nat) : Prop :=
  t = { s with seqs := t.seqs } ∧ (∀ x, x ≠ q → look t.seqs x = look s.seqs x) ∧
  ∃ e', look t.seqs q = some e' ∧
    e' = { e with e := e'.e, struck := e'.struck, clob := e'.clob, pc := e.pc + BitVec.ofNat 32 len, wait := e'.wait, owed := e'.owed } ∧
    (∀ r, r ∉ es → e'.e[r]? = e.e[r]?) ∧ (m = false → e'.wait = e.wait ∧ e'.owed = e.owed)

end Sys2Proof.Machine
end

