-- ==== Sys2Proof/Certificates/Slice0/Obligations.lean ====
section
/-! DEFINITION. The statements of this row for the provers, by chapter of the spec. -/

open Sys2Proof Sys2Proof.Machine

/-! ### Lane instructions (04) -/

/-- 04 R106 with R101 and 01 R37: an integer lane instruction of two v sources, on a path ready for it, writes the active lanes of vd with the result of each lane and the result's tag, and goes on after its four bytes. -/
def Obligations.LaneIntegerBinary : Prop :=
  ∀ (s : State) (m : Bool) (vd va vb : BitVec 8),
    let a := s.vread 0 va.toNat
    let b := s.vread 1 vb.toNat
    let res := fun (t : Tag) (f : Nat → Word) => Host.Outcome.next ((s.vwrite vd.toNat t f).finish m 4)
    let any := s.laneReady [vd.toNat, va.toNat, vb.toNat] [] [.v 0 va.toNat (fun _ => true), .v 1 vb.toNat (fun _ => true)] = true
    let int := s.laneReady [vd.toNat, va.toNat, vb.toNat] [] [.v 0 va.toNat intTag, .v 1 vb.toNat intTag] = true
    (int → exec (.iadd m vd va vb) s = res .i32 (fun l => a l + b l)) ∧
    (int → exec (.isub m vd va vb) s = res .i32 (fun l => a l - b l)) ∧
    (int → exec (.imul m vd va vb) s = res .i32 (fun l => a l * b l)) ∧
    (int → exec (.imulhi m vd va vb) s = res .i32 (fun l => BitVec.ofInt 32 ((a l).toInt * (b l).toInt / 4294967296))) ∧
    (int → exec (.nmulhi m vd va vb) s = res .i32 (fun l => BitVec.ofNat 32 ((a l).toNat * (b l).toNat / 4294967296))) ∧
    (int → exec (.imin m vd va vb) s = res .i32 (fun l => if (a l).toInt ≤ (b l).toInt then a l else b l)) ∧
    (int → exec (.imax m vd va vb) s = res .i32 (fun l => if (a l).toInt ≤ (b l).toInt then b l else a l)) ∧
    (int → exec (.nmin m vd va vb) s = res .i32 (fun l => if (a l).toNat ≤ (b l).toNat then a l else b l)) ∧
    (int → exec (.nmax m vd va vb) s = res .i32 (fun l => if (a l).toNat ≤ (b l).toNat then b l else a l)) ∧
    (any → exec (.vand m vd va vb) s = res (if s.tagOf va.toNat = .pred ∧ s.tagOf vb.toNat = .pred then .pred else .raw) (fun l => a l &&& b l)) ∧
    (any → exec (.vor m vd va vb) s = res (if s.tagOf va.toNat = .pred ∧ s.tagOf vb.toNat = .pred then .pred else .raw) (fun l => a l ||| b l)) ∧
    (any → exec (.vxor m vd va vb) s = res (if s.tagOf va.toNat = .pred ∧ s.tagOf vb.toNat = .pred then .pred else .raw) (fun l => a l ^^^ b l)) ∧
    (any → exec (.shl m vd va vb) s = res .raw (fun l => if (b l).toNat < 32 then a l <<< (b l).toNat else 0)) ∧
    (any → exec (.shr m vd va vb) s = res .raw (fun l => if (b l).toNat < 32 then a l >>> (b l).toNat else 0)) ∧
    (any → exec (.sar m vd va vb) s = res .raw (fun l => (a l).sshiftRight (min (b l).toNat 31)))

/-- 04 R105, R106: the lane instructions of one v source and of an immediate; a two-word one goes on after eight bytes. -/
def Obligations.LaneIntegerUnary : Prop :=
  ∀ (s : State) (m sat : Bool) (vd va imm gc : BitVec 8) (sh : BitVec 5),
    let a := s.vread 0 va.toNat
    let res := fun (len : Nat) (t : Tag) (f : Nat → Word) => Host.Outcome.next ((s.vwrite vd.toNat t f).finish m len)
    let any := s.laneReady [vd.toNat, va.toNat] [] [.v 0 va.toNat (fun _ => true)] = true
    let int := s.laneReady [vd.toNat, va.toNat] [] [.v 0 va.toNat intTag] = true
    (any → exec (.mov m vd va) s = res 4 (s.tagOf va.toNat) a) ∧
    (int → exec (.iaddi m vd va imm) s = res 4 .i32 (fun l => a l + imm.signExtend 32)) ∧
    (any → exec (.andi m vd va imm) s = res 4 .raw (fun l => a l &&& imm.setWidth 32)) ∧
    (any → exec (.ori m vd va imm) s = res 4 .raw (fun l => a l ||| imm.setWidth 32)) ∧
    (any → exec (.xori m vd va imm) s = res 4 .raw (fun l => a l ^^^ imm.setWidth 32)) ∧
    (any → exec (.shli m vd va sh) s = res 4 .raw (fun l => a l <<< sh.toNat)) ∧
    (any → exec (.shri m vd va sh) s = res 4 .raw (fun l => a l >>> sh.toNat)) ∧
    (any → exec (.sari m vd va sh) s = res 4 .raw (fun l => (a l).sshiftRight sh.toNat)) ∧
    (s.laneReady [vd.toNat] [] [] = true → exec (.movi m vd imm) s = res 4 .i32 (fun _ => imm.signExtend 32)) ∧
    (any → exec (.popc m vd va) s = res 8 .i32 (fun l => BitVec.ofNat 32 ((List.range 32).filter (a l).getLsbD).length)) ∧
    (any → exec (.clz m vd va) s = res 8 .i32 (fun l => BitVec.ofNat 32 (if (a l).toNat = 0 then 32 else 31 - (a l).toNat.log2))) ∧
    (any → exec (.brev m vd va) s = res 8 .raw (fun l => (a l).reverse)) ∧
    (int → exec (.iabs m vd va sat) s = res 8 .i32 (fun l =>
      if a l = 0x80000000 then (if sat then 0x7FFFFFFF else 0x80000000) else if (a l).toInt < 0 then -a l else a l)) ∧
    (int → exec (.ineg m vd va sat) s = res 8 .i32 (fun l => if a l = 0x80000000 ∧ sat then 0x7FFFFFFF else -a l)) ∧
    (s.laneReady [vd.toNat] [gc.toNat] [.g gc.toNat] = true → exec (.movg m vd gc) s = res 8 .raw (fun _ => s.readU 2 gc.toNat))

/-- 04 R106: the lane integer instructions of three and four sources. A bit field of length n at position p of a has its bits, extended as .s says; BFI puts it into the base. -/
def Obligations.LaneIntegerTernary : Prop :=
  ∀ (s : State) (m sgn : Bool) (vd va vb : BitVec 8) (c e : Src),
    let a := s.vread 0 va.toNat
    let b := s.vread 1 vb.toNat
    let x := s.sread 2 c
    let res := fun (t : Tag) (f : Nat → Word) => Host.Outcome.next ((s.vwrite vd.toNat t f).finish m 8)
    let regs := [vd.toNat, va.toNat, vb.toNat] ++ srcV c
    let any := s.laneReady regs (srcG c) [.v 0 va.toNat (fun _ => true), .v 1 vb.toNat (fun _ => true), opnd 2 c (fun _ => true)] = true
    let int := s.laneReady regs (srcG c) [.v 0 va.toNat intTag, .v 1 vb.toNat intTag, opnd 2 c intTag] = true
    (int → exec (.imad m vd va vb c) s = res .i32 (fun l => a l * b l + x l)) ∧
    (int → exec (.iadd3 m vd va vb c) s = res .i32 (fun l => a l + b l + x l)) ∧
    (any → exec (.bfe m vd va vb c sgn) s = res .raw (fun l => bitExtract (a l) (b l) (x l) sgn)) ∧
    (any → exec (.prmt m vd va vb c) s = res .raw (fun l => byteSelect (a l) (b l) (x l))) ∧
    (s.laneReady (regs ++ srcV e) (srcG c ++ srcG e)
        [.v 0 va.toNat (fun _ => true), .v 1 vb.toNat (fun _ => true), opnd 2 c (fun _ => true), opnd 3 e (fun _ => true)] = true →
      exec (.bfi m vd va vb c e) s = res .raw (fun l => bitInsert (a l) (b l) (x l) (s.sread 3 e l))) ∧
    (s.laneReady regs (srcG c) [.v 0 va.toNat (fun _ => true), .v 1 vb.toNat (fun t => t == s.tagOf va.toNat), opnd 2 c intTag] = true →
      exec (.sel m vd va vb c) s = res (s.tagOf va.toNat) (fun l => if x l ≠ 0 then a l else b l))

/-- 04 R106: what the bit fields are. An extracted field has bit i of the source at p + i below its length, and above it zeros or the copies of its top bit; a field past bit 31 is clipped. -/
def Obligations.BitFields : Prop :=
  ∀ (a base posw lenw : Word) (i : Nat), i < 32 →
    let p := min (posw.toNat % 256) 32
    let n := min (lenw.toNat % 256) (32 - p)
    (bitExtract a posw lenw false).getLsbD i = (decide (i < n) && a.getLsbD (p + i)) ∧
    (bitExtract a posw lenw true).getLsbD i = (if i < n then a.getLsbD (p + i) else decide (0 < n) && a.getLsbD (p + n - 1)) ∧
    (bitInsert a base posw lenw).getLsbD i = (if p ≤ i ∧ i < p + n then a.getLsbD (i - p) else base.getLsbD i)

/-- 04 R107 to R110 with R103: float lane instructions of one source, under the tag t of va. Every element of the tag is worked on under its format; packed elements of an approximate function go through FP32. Of the six approximate functions R109 fixes the special values and the exact points, stated here whole, and bounds: that of FRCP is stated of the exact quotient and that of FRSQ by squares; those of FEXP2, FLOG2, FSIN and FCOS are stated against the model's fixed-point references (exp2Ref, log2Ref, trigRef: log entry 5, DESIGN CHOICE), not against the real functions. -/
def Obligations.LaneFloatUnary : Prop :=
  ∀ (s : State) (m : Bool) (vd va : BitVec 8) (rm : Rounding),
    let t := s.tagOf va.toNat
    let res := fun (f : Fmt → Nat → Nat) => Host.Outcome.next ((s.fwrite vd.toNat t (fun l => elems1 t f (s.fbits t 0 (.v va) l))).finish m 8)
    let ready := fun (ok : Tag → Bool) => s.laneReady [vd.toNat, va.toNat] [] (fopnds t 0 (.v va) ok) = true ∧ s.pairsReady t vd [.v va] = true
    (ready shortFloatTag → exec (.frcp m vd va) s = res (viaFp32 frcp32)) ∧
    (ready shortFloatTag → exec (.frsq m vd va) s = res (viaFp32 frsq32)) ∧
    (ready shortFloatTag → exec (.fexp2 m vd va) s = res (viaFp32 fexp232)) ∧
    (ready shortFloatTag → exec (.flog2 m vd va) s = res (viaFp32 flog232)) ∧
    (ready shortFloatTag → exec (.fsin m vd va) s = res (viaFp32 (ftrig32 false))) ∧
    (ready shortFloatTag → exec (.fcos m vd va) s = res (viaFp32 (ftrig32 true))) ∧
    (ready floatTag → exec (.fsqrt m vd va rm) s = res (fun f a => f.round rm false ((f.value a).sqrt f))) ∧
    (ready floatTag → exec (.fabs m vd va) s = res (fun f a => if (f.value a).isNan then f.nan else a % 2 ^ f.mag)) ∧
    (ready floatTag → exec (.fneg m vd va) s = res fneg) ∧
    (ready floatTag → exec (.ffloor m vd va) s = res (fun f a => f.rn ((f.value a).roundInt .rd))) ∧
    (ready floatTag → exec (.fceil m vd va) s = res (fun f a => f.rn ((f.value a).roundInt .ru))) ∧
    (ready floatTag → exec (.ftrunc m vd va) s = res (fun f a => f.rn ((f.value a).roundInt .rz))) ∧
    (ready floatTag → exec (.frint m vd va rm) s = res (fun f a => f.rn ((f.value a).roundInt rm))) ∧
    (let val := Fmt.fp32.value
     let nan := Fmt.fp32.nan
     let signed := fun (sg : Bool) (x : Nat) => if sg then 0x80000000 + x else x
     ∀ a : Nat,
      (val a = .nan → frcp32 a = nan ∧ frsq32 a = nan ∧ fexp232 a = nan ∧ flog232 a = nan ∧ ∀ c, ftrig32 c a = nan) ∧
      (∀ sg, val a = .inf sg → frcp32 a = signed sg 0 ∧ frsq32 a = (if sg then nan else 0) ∧ fexp232 a = (if sg then 0 else 0x7F800000) ∧ flog232 a = (if sg then nan else 0x7F800000) ∧ ∀ c, ftrig32 c a = nan) ∧
      ∀ sg n d, val a = .fin sg n d →
        -- zeros, and values below zero
        (n = 0 → frcp32 a = signed sg 0x7F800000 ∧ frsq32 a = signed sg 0x7F800000 ∧ fexp232 a = 0x3F800000 ∧ flog232 a = 0xFF800000 ∧ ftrig32 false a = signed sg 0 ∧ ftrig32 true a = 0x3F800000) ∧
        (n ≠ 0 → sg = true → frsq32 a = nan ∧ flog232 a = nan) ∧
        -- exact points
        (∀ k, n ≠ 0 → (n = d * 2 ^ k ∨ d = n * 2 ^ k ∧ k < 128) → ∃ p q, val (frcp32 a) = .fin sg p q ∧ p * n = q * d) ∧
        (∀ k, n = d * k → (sg = false → k < 128 → ∃ p q, val (fexp232 a) = .fin false p q ∧ p = q * 2 ^ k) ∧ (sg = true → k ≤ 149 → ∃ p q, val (fexp232 a) = .fin false p q ∧ q = p * 2 ^ k)) ∧
        (sg = false → n = d → flog232 a = 0) ∧
        (∀ k, n ≠ 0 → 4 * n = d * k →
          let i := if sg then (4 - k % 4) % 4 else k % 4
          ftrig32 false a = [0, 0x3F800000, 0, 0xBF800000].getD i 0 ∧ ftrig32 true a = [0x3F800000, 0, 0xBF800000, 0].getD i 0) ∧
        -- bounds
        (n ≠ 0 → (val (frcp32 a)).isFin = true → within (val (frcp32 a)) (if sg then -(d : Int) else (d : Int), n) (ulps false 1 ((d : Int), n)) = true) ∧
        (n ≠ 0 → sg = false → ∃ p q u v, val (frsq32 a) = .fin false p q ∧ (u, v) = ulps false 2 (sqrtRef n d) ∧
          d * (q * v) ^ 2 ≤ (p * v + u * q) ^ 2 * n ∧ (u * q ≤ p * v → (p * v - u * q) ^ 2 * n ≤ d * (q * v) ^ 2)) ∧
        ((val (fexp232 a)).isFin = true → within (val (fexp232 a)) (exp2Ref sg n d) (ulps false 2 (exp2Ref sg n d)) = true) ∧
        (n ≠ 0 → sg = false → within (val (flog232 a)) (log2Ref n d) (if d ≤ 2 * n ∧ n ≤ 2 * d then (1, 2 ^ 22) else ulps false 2 (log2Ref n d)) = true) ∧
        ∀ c, (trigRef c sg n d).1.natAbs ≤ 2 ^ 121 → within (val (ftrig32 c a)) (trigRef c sg n d) (1, 2 ^ 22) = true)

/-- 04 R107, R108, R110, R111: float lane instructions of two and three sources, which carry one tag; FMA rounds once; FTWOSUM writes the sum and its error; the compares write PRED, a packed one only where both elements satisfy the condition. -/
def Obligations.LaneFloatBinary : Prop :=
  ∀ (s : State) (m : Bool) (vd va vb : BitVec 8) (c : Src) (rm : Rounding) (cond : Cond),
    let t := s.tagOf va.toNat
    let a := s.fbits t 0 (.v va)
    let b := s.fbits t 1 (.v vb)
    let same := fun (x : Tag) => x == t
    let two := fopnds t 0 (.v va) floatTag ++ fopnds t 1 (.v vb) same
    let ready := s.laneReady [vd.toNat, va.toNat, vb.toNat] [] two = true ∧ s.pairsReady t vd [.v va, .v vb] = true
    let res := fun (f : Fmt → Nat → Nat → Nat) => Host.Outcome.next ((s.fwrite vd.toNat t (fun l => elems2 t f (a l) (b l))).finish m 4)
    (ready → exec (.fadd m vd va vb) s = res (fun f x y => f.round .rn false ((f.value x).add .rn (f.value y)))) ∧
    (ready → exec (.fsub m vd va vb) s = res (fun f x y => f.round .rn false ((f.value x).add .rn (f.value y).neg))) ∧
    (ready → exec (.fmul m vd va vb) s = res (fun f x y => f.round .rn false ((f.value x).mul (f.value y)))) ∧
    (ready → exec (.fmin m vd va vb) s = res (fun f x y => f.rn ((f.value x).minNum (f.value y)))) ∧
    (ready → exec (.fmax m vd va vb) s = res (fun f x y => f.rn ((f.value x).maxNum (f.value y)))) ∧
    (s.laneReady ([vd.toNat, va.toNat, vb.toNat] ++ srcV c) (srcG c) (two ++ fopnds t 2 c same) = true ∧ s.pairsReady t vd [.v va, .v vb, c] = true →
      exec (.ffma m vd va vb c rm) s = .next ((s.fwrite vd.toNat t (fun l =>
        elems3 t (fun f x y z => f.round rm false (((f.value x).mul (f.value y)).add rm (f.value z))) (a l) (b l) (s.fbits t 2 c l))).finish m 8)) ∧
    (s.laneReady [vd.toNat, va.toNat, vb.toNat] [] two = true ∧ (t ≠ .f64 → vd.toNat % 2 = 0) ∧
        (t = .f64 → va.toNat % 2 = 0 ∧ vb.toNat % 2 = 0 ∧ vd.toNat % 4 = 0 ∧ vd.toNat + 3 < s.vLimit) →
      exec (.ftwosum m vd va vb) s = .next (((s.fwrite vd.toNat t (fun l => elems2 t (fun f x y => (ftwosum f x y).1) (a l) (b l))).fwrite
        (vd.toNat + if t = .f64 then 2 else 1) t (fun l => elems2 t (fun f x y => (ftwosum f x y).2) (a l) (b l))).finish m 8)) ∧
    (s.laneReady [vd.toNat, va.toNat, vb.toNat] [] [.v 0 va.toNat intTag, .v 1 vb.toNat intTag] = true →
      exec (.iset m vd va vb cond) s = .next ((s.vwrite vd.toNat .pred (fun l => if icompare cond (s.vread 0 va.toNat l).toInt (s.vread 1 vb.toNat l).toInt then 1 else 0)).finish m 8) ∧
      exec (.nset m vd va vb cond) s = .next ((s.vwrite vd.toNat .pred (fun l => if icompare cond (s.vread 0 va.toNat l).toNat (s.vread 1 vb.toNat l).toNat then 1 else 0)).finish m 8)) ∧
    (s.laneReady [vd.toNat, va.toNat, vb.toNat] [] two = true ∧ (t = .f64 → va.toNat % 2 = 0 ∧ vb.toNat % 2 = 0) →
      exec (.fset m vd va vb cond) s = .next ((s.vwrite vd.toNat .pred (fun l => if (List.range t.count).all (fun k =>
        fcompare cond ((fmtOf t).value (elem t.width k (a l))) ((fmtOf t).value (elem t.width k (b l)))) then 1 else 0)).finish m 8))

/-- 04 R112 to R117: conversions and tag forms. The model's own (log entry 52, DESIGN CHOICE): what CVT makes of a PRED word other than 0 or 1, and U = 1 in PACK4 and UNPACK outside I8X4. -/
def Obligations.LaneConversions : Prop :=
  ∀ (s : State) (m u sat e : Bool) (vd va vb : BitVec 8) (dtag : Tag) (el : BitVec 3) (rm : Rounding),
    let t := s.tagOf va.toNat
    let any := s.laneReady [vd.toNat, va.toNat] [] [.v 0 va.toNat (fun _ => true)] = true
    (s.laneReady [vd.toNat, va.toNat] [] (fopnds t 0 (.v va) cvtTag) = true ∧ el.toNat < t.count ∧ (t = .f64 → va.toNat % 2 = 0) ∧ convertible t dtag = true →
      exec (.cvt m vd va dtag u el rm sat) s = .next ((s.fwrite vd.toNat dtag (fun l =>
        convert t (if t = .i32 ∧ dtag = .i32 then !u else u) dtag u rm sat (s.elemBits t va.toNat el.toNat l))).finish m 8)) ∧
    (s.laneReady [vd.toNat, vd.toNat + 1, va.toNat] [] [.v 0 va.toNat shortFloatTag] = true ∧ ¬(t = .f32 ∧ e = true) →
      let r := scaledConvert dtag ((List.range 32).map (fun l => t.value false (elem t.width (if e then 1 else 0) (s.vread 0 va.toNat l).toNat)))
      let w := if dtag = .e2m1x8 then 8 else 4
      exec (.cvtsc m vd va dtag e) s = .next (((s.vwrite vd.toNat dtag (fun l =>
        BitVec.ofNat 32 (packElems dtag.width ((List.range w).map (fun i => r.2.getD (w * (l % (32 / w)) + i) 0))))).vwrite
          (vd.toNat + 1) .e8m0x4 (fun _ => BitVec.ofNat 32 r.1)).finish m 8)) ∧
    (s.laneReady [vd.toNat, va.toNat, vb.toNat] [] (fopnds t 0 (.v va) packTag ++ fopnds t 1 (.v vb) (fun x => x == t)) = true ∧
        (t = .f64 → va.toNat % 2 = 0 ∧ vb.toNat % 2 = 0) →
      exec (.pack2 m vd va vb dtag u rm sat) s = .next ((s.vwrite vd.toNat dtag (fun l => BitVec.ofNat 32 (packElems 16
        [convert t u dtag u rm sat (s.fbits t 0 (.v va) l), convert t u dtag u rm sat (s.fbits t 1 (.v vb) l)]))).finish m 8)) ∧
    (s.laneReady [vd.toNat, va.toNat, va.toNat + 3] [] ((pack4Src t va).map (fun x => fopnds t 0 x (fun y => packTag y && y == t))).flatten = true ∧
        (t = .f64 → va.toNat % 8 = 0) ∧ convertible t dtag = true →
      exec (.pack4 m vd va dtag u rm sat) s = .next ((s.vwrite vd.toNat dtag (fun l =>
        BitVec.ofNat 32 (packElems 8 ((pack4Src t va).map (fun y => convert t u dtag u rm sat (s.fbits t 0 y l)))))).finish m 8)) ∧
    (s.laneReady [vd.toNat, va.toNat] [] [.v 0 va.toNat packedTag] = true ∧ (dtag = .i32 → t = .i8x4) ∧ vd.toNat % t.count = 0 ∧ vd.toNat + t.count ≤ s.vLimit →
      exec (.unpack m vd va dtag u rm) s = .next ((s.vwriteAll vd.toNat dtag t.count (fun k l =>
        BitVec.ofNat 32 (convert t u dtag u rm false (s.elemBits t va.toNat k l)))).finish m 8)) ∧
    (any → exec (.tagset m vd va dtag) s = .next ((s.vwrite vd.toNat dtag (s.vread 0 va.toNat)).finish m 8)) ∧
    (any → exec (.tagget m vd va) s = .next ((s.vwrite vd.toNat .i32 (fun _ => (s.tagOf va.toNat).code.setWidth 32)).finish m 8))

/-- 04 R118 to R123; 02 R59: exchanges read lanes off the path too; votes and reductions count the path's lanes and write one g register; the lane's own numbers. That the sum i + x of SHFLDN is compared as it stands and does not wrap is the model's (log entry 52, DESIGN CHOICE). -/
def Obligations.LaneExchanges : Prop :=
  ∀ (s : State) (m : Bool) (vd va vb ge : BitVec 8) (c : Src) (w : SegWidth) (k : BitVec 2) (op : ReduxOp) (sr : LaneSr),
    let a := s.vread 0 va.toNat
    let from_ := fun (f : Nat → Nat) => Host.Outcome.next ((s.vwrite vd.toNat (s.tagOf va.toNat) (fun l => a (f l))).finish m 8)
    let shuffle := s.laneReady ([vd.toNat, va.toNat] ++ srcV c) (srcG c) [.v 0 va.toNat (fun _ => true), opnd 2 c (fun _ => true)] = true
    let quad := s.laneReady [vd.toNat, va.toNat] [] [.v 0 va.toNat (fun _ => true)] = true
    let x := fun (l : Nat) => (s.sread 2 c l).toNat
    let n := segLanes w
    let vote := fun (r : Word) => Host.Outcome.next ((s.writeU ge.toNat (if s.pendingVote va.toNat then s.undef 1 0 else r)).finish m 8)
    let votes := fun (ok : Tag → Bool) => s.laneReady [va.toNat] [ge.toNat] [.v 0 va.toNat ok] = true
    (shuffle → exec (.shfl m vd va c w) s = from_ (fun l => l - l % n + x l % n)) ∧
    (shuffle → exec (.shflup m vd va c w) s = from_ (fun l => l - l % n + if x l ≤ l % n then l % n - x l else l % n)) ∧
    (shuffle → exec (.shfldn m vd va c w) s = from_ (fun l => l - l % n + if l % n + x l < n then l % n + x l else l % n)) ∧
    (shuffle → exec (.shflx m vd va c w) s = from_ (fun l => l - l % n + Nat.xor (l % n) (x l % n))) ∧
    (quad → exec (.qswaph m vd va) s = from_ (fun l => l - l % 4 + Nat.xor (l % 4) 1)) ∧
    (quad → exec (.qswapv m vd va) s = from_ (fun l => l - l % 4 + Nat.xor (l % 4) 2)) ∧
    (quad → exec (.qswapd m vd va) s = from_ (fun l => l - l % 4 + Nat.xor (l % 4) 3)) ∧
    (quad → exec (.qbcast m vd va k) s = from_ (fun l => l - l % 4 + k.toNat)) ∧
    (votes intTag → exec (.ballot m ge va) s = vote (s.active (fun l => a l != 0))) ∧
    (votes intTag → exec (.voteall m ge va) s = vote (if s.active (fun l => a l != 0) = s.curLanes then 1 else 0)) ∧
    (votes intTag → exec (.voteany m ge va) s = vote (if s.active (fun l => a l != 0) = 0 then 0 else 1)) ∧
    (votes (fun _ => true) → exec (.matchLanes m ge va) s = vote (s.active (fun l => a l == a (lowLane s.curLanes)))) ∧
    (s.laneReady (va.toNat :: vb.toNat :: srcV c) (ge.toNat :: srcG c) [.v 0 va.toNat (fun _ => true), .v 1 vb.toNat (fun _ => true), opnd 2 c (fun _ => true)] = true →
      exec (.bplane m ge va vb c) s = vote (BitVec.ofNat 32 (popMask (s.active (fun l => s.vread 1 vb.toNat l != 0 && (a l).getLsbD (x l % 32)))))) ∧
    (votes (fun t => if reduxFloat op then t == .f32 else intTag t) →
      exec (.redux m ge va op) s = .next ((s.writeU ge.toNat (tree32 (reduxCombine op)
        ((List.range 32).map (fun l => if s.curLanes.getLsbD l then a l else reduxIdentity op)))).finish m 8)) ∧
    (s.laneReady [vd.toNat] [] [] = true →
      exec (.laneid m vd) s = .next ((s.vwrite vd.toNat .i32 (fun l => BitVec.ofNat 32 l)).finish m 8) ∧
      exec (.readsr m vd sr) s = .next ((s.vwrite vd.toNat .i32 (fun l => s.laneSr sr l)).finish m 8))

/-! ### Uniform instructions (05) -/

/-- 05 R126: an immediate instruction writes gd, of a group or of a sequencer, and goes on after its bytes. -/
def Obligations.UniformImmediates : Prop :=
  ∀ (s : State) (m : Bool) (gd ga : BitVec 9) (imm : BitVec 15) (imm6 : BitVec 6) (imm32 : Word) (sh : BitVec 5),
    let d := s.readU 0 gd.toNat
    let a := s.readU 0 ga.toNat
    let res := fun (len : Nat) (w : Word) => Host.Outcome.next ((s.writeU gd.toNat w).finish m len)
    let alone := s.uniReady .any false [gd.toNat] [] = true
    let onto := s.uniReady .any false [gd.toNat] [gd.toNat] = true
    let from_ := s.uniReady .any false [gd.toNat, ga.toNat] [ga.toNat] = true
    (alone → exec (.gmovi m gd imm) s = res 4 (imm.signExtend 32)) ∧
    (onto → exec (.gaddi m gd imm) s = res 4 (d + imm.signExtend 32)) ∧
    (alone → exec (.glui m gd imm) s = res 4 (imm.setWidth 32 <<< 17)) ∧
    (onto → exec (.gori m gd imm) s = res 4 (d ||| imm.setWidth 32)) ∧
    (from_ → exec (.gshli m gd ga sh) s = res 4 (a <<< sh.toNat)) ∧
    (from_ → exec (.gshri m gd ga sh) s = res 4 (a >>> sh.toNat)) ∧
    (from_ → exec (.gsari m gd ga sh) s = res 4 (a.sshiftRight sh.toNat)) ∧
    (from_ → exec (.gmov m gd ga) s = res 4 a) ∧
    (from_ → exec (.gaddi6 m gd ga imm6) s = res 4 (a + imm6.signExtend 32)) ∧
    (alone → exec (.gmovl m gd imm32) s = res 8 imm32) ∧
    (from_ → exec (.gpopc m gd ga) s = res 8 (BitVec.ofNat 32 ((List.range 32).filter a.getLsbD).length)) ∧
    (from_ → exec (.gclz m gd ga) s = res 8 (BitVec.ofNat 32 (if a.toNat = 0 then 32 else 31 - a.toNat.log2)))

/-- 05 R127: a uniform instruction of two sources writes gd with its result; a division by 0 gives all ones, its remainder the dividend. -/
def Obligations.UniformBinary : Prop :=
  ∀ (s : State) (m : Bool) (gd ga gb : BitVec 9) (cond : Cond) (rm : Rounding),
    let a := s.readU 0 ga.toNat
    let b := s.readU 1 gb.toNat
    let x := Fmt.fp32.value a.toNat
    let y := Fmt.fp32.value b.toNat
    s.uniReady .any false [gd.toNat, ga.toNat, gb.toNat] [ga.toNat, gb.toNat] = true →
    let res := fun (w : Word) => Host.Outcome.next ((s.writeU gd.toNat w).finish m 8)
    exec (.gadd m gd ga gb) s = res (a + b) ∧
    exec (.gsub m gd ga gb) s = res (a - b) ∧
    exec (.gmul m gd ga gb) s = res (a * b) ∧
    exec (.gmulhi m gd ga gb) s = res (BitVec.ofInt 32 (a.toInt * b.toInt / 4294967296)) ∧
    exec (.gnmulhi m gd ga gb) s = res (BitVec.ofNat 32 (a.toNat * b.toNat / 4294967296)) ∧
    exec (.gand m gd ga gb) s = res (a &&& b) ∧
    exec (.gor m gd ga gb) s = res (a ||| b) ∧
    exec (.gxor m gd ga gb) s = res (a ^^^ b) ∧
    exec (.gshl m gd ga gb) s = res (if b.toNat < 32 then a <<< b.toNat else 0) ∧
    exec (.gshr m gd ga gb) s = res (if b.toNat < 32 then a >>> b.toNat else 0) ∧
    exec (.gsar m gd ga gb) s = res (a.sshiftRight (min b.toNat 31)) ∧
    exec (.gmin m gd ga gb) s = res (if a.toInt ≤ b.toInt then a else b) ∧
    exec (.gmax m gd ga gb) s = res (if a.toInt ≤ b.toInt then b else a) ∧
    exec (.gnmin m gd ga gb) s = res (if a.toNat ≤ b.toNat then a else b) ∧
    exec (.gnmax m gd ga gb) s = res (if a.toNat ≤ b.toNat then b else a) ∧
    exec (.gdivn m gd ga gb) s = res (if b = 0 then 0xFFFFFFFF else BitVec.ofNat 32 (a.toNat / b.toNat)) ∧
    exec (.gremn m gd ga gb) s = res (if b = 0 then a else BitVec.ofNat 32 (a.toNat % b.toNat)) ∧
    exec (.gset m gd ga gb cond) s = res (if icompare cond a.toInt b.toInt then 1 else 0) ∧
    exec (.gnset m gd ga gb cond) s = res (if icompare cond a.toNat b.toNat then 1 else 0) ∧
    exec (.gfset m gd ga gb cond) s = res (if fcompare cond x y then 1 else 0) ∧
    exec (.gfadd m gd ga gb rm) s = res (BitVec.ofNat 32 (Fmt.fp32.round rm false (x.add rm y))) ∧
    exec (.gfmul m gd ga gb rm) s = res (BitVec.ofNat 32 (Fmt.fp32.round rm false (x.mul y))) ∧
    exec (.gfmax m gd ga gb) s = res (BitVec.ofNat 32 (Fmt.fp32.rn (x.maxNum y)))

/-- 05 R127: the uniform instructions of three sources, of pairs and of a bit field put into gd. -/
def Obligations.UniformTernary : Prop :=
  ∀ (s : State) (m sgn : Bool) (gd ga gb gc : BitVec 9) (rm : Rounding),
    let a := s.readU 0 ga.toNat
    let b := s.readU 1 gb.toNat
    let x := s.readU 2 gc.toNat
    let val := fun (w : Word) => Fmt.fp32.value w.toNat
    let res := fun (w : Word) => Host.Outcome.next ((s.writeU gd.toNat w).finish m 8)
    let ready := s.uniReady .any false [gd.toNat, ga.toNat, gb.toNat, gc.toNat] [ga.toNat, gb.toNat, gc.toNat] = true
    (ready → exec (.gsel m gd ga gb gc) s = res (if x ≠ 0 then a else b)) ∧
    (ready → exec (.gmad m gd ga gb gc) s = res (a * b + x)) ∧
    (ready → exec (.gbfe m gd ga gb gc sgn) s = res (bitExtract a b x sgn)) ∧
    (ready → exec (.gffma m gd ga gb gc rm) s = res (BitVec.ofNat 32 (Fmt.fp32.round rm false (((val a).mul (val b)).add rm (val x))))) ∧
    (s.uniReady .any false [gd.toNat, ga.toNat, gb.toNat, gc.toNat] [gd.toNat, ga.toNat, gb.toNat, gc.toNat] = true →
      exec (.gbfi m gd ga gb gc) s = res (bitInsert a (s.readU 3 gd.toNat) b x)) ∧
    (s.uniReady .any false [gd.toNat, gd.toNat + 1, ga.toNat, ga.toNat + 1, gb.toNat, gb.toNat + 1] [ga.toNat, ga.toNat + 1, gb.toNat, gb.toNat + 1] = true →
      let sum := s.readPair 0 ga.toNat + s.readPair 1 gb.toNat
      exec (.gadd64 m gd ga gb) s = .next (((s.writeU gd.toNat (BitVec.ofNat 32 sum)).writeU (gd.toNat + 1) (BitVec.ofNat 32 (sum / 4294967296))).finish m 8))

/-- 05 R128, R129: a uniform branch moves the whole issuer: by its word offset, by its byte offset where the condition holds and past its eight bytes where it does not; LOOP counts down and branches while the count is not zero. LAND and NOP only go on. -/
def Obligations.UniformControl : Prop :=
  ∀ (s : State) (m : Bool) (ga gb : BitVec 9) (cond : Cond) (off24 : BitVec 24) (off : Word),
    let a := s.readU 0 ga.toNat
    let b := s.readU 1 gb.toNat
    let go := fun (t : State) (pc : Word) => Host.Outcome.next ((t.jump pc).mark m)
    let branch := fun (c : Bool) => go s (s.curPc + if c then off else 8)
    let none_ := s.uniReady .any false [] [] = true
    let one := s.uniReady .any false [ga.toNat] [ga.toNat] = true
    let two := s.uniReady .any false [ga.toNat, gb.toNat] [ga.toNat, gb.toNat] = true
    (none_ → exec (.jmp m off24) s = go s (s.curPc + 4 * off24.signExtend 32)) ∧
    (two → exec (.gbr m ga gb cond off) s = branch (icompare cond a.toInt b.toInt)) ∧
    (two → exec (.gbrn m ga gb cond off) s = branch (icompare cond a.toNat b.toNat)) ∧
    (one → exec (.gbrz m ga cond off) s = branch (icompare cond a.toInt 0)) ∧
    (one → exec (.loop m ga off) s = go (s.writeU ga.toNat (a - 1)) (s.curPc + if a - 1 ≠ 0 then off else 8)) ∧
    (none_ → exec (.land m) s = .next (s.finish m 4)) ∧
    (none_ → exec (.nop m) s = .next (s.finish m 4))

/-- 05 R132 to R134: a lane branch gives each active lane its own program counter. Lanes of a word that is zero take BRZ, the others BRNZ; CALL pushes the address after it, RET pops one; BRX and CALLX go to each lane's word where every such word is a LAND of the code object. -/
def Obligations.LaneBranches : Prop :=
  ∀ (s : State) (m : Bool) (va : BitVec 8) (off : Word) (k : GKey) (lanes : Mask) (pc : Word) (g : Group), s.pathIs k lanes pc g →
    let x := s.vread 0 va.toNat
    let moved := fun (f : Nat → Lane → Lane) => Host.Outcome.next ((s.onGroup k (fun g => g.mapLanes lanes f)).mark m)
    let ready := s.laneReady [va.toNat] [] [.v 0 va.toNat intTag] = true
    let lands := ∀ l, lanes.getLsbD l = true → ∃ a, s.codeAt k.blk (x l) = some a ∧ s.codeWord a = 0x8A000000
    let room := ∀ l, lanes.getLsbD l = true → (g.lane l).ras.length < 16
    (ready → exec (.brz m va off) s = moved (fun l y => { y with pc := pc + if x l = 0 then off else 8 })) ∧
    (ready → exec (.brnz m va off) s = moved (fun l y => { y with pc := pc + if x l ≠ 0 then off else 8 })) ∧
    (ready ∧ lands → exec (.brx m va) s = moved (fun l y => { y with pc := x l })) ∧
    (ready ∧ lands ∧ room → exec (.callx m va) s = moved (fun l y => { y with pc := x l, ras := (pc + 8) :: y.ras })) ∧
    (room → exec (.call m off) s = moved (fun _ y => { y with pc := pc + off, ras := (pc + 8) :: y.ras })) ∧
    ((∀ l, lanes.getLsbD l = true → (g.lane l).ras ≠ []) → exec (.ret m) s = moved (fun _ y => { y with pc := y.ras.headD 0, ras := y.ras.tail }))

/-- 05 R136; 02 R54: a spill branch. Where the condition does not split the path nothing is spilled, and every lane goes where the branch leads it. Where it does, the smaller part spills, the taken one on a tie: the group drains first; then the part's threads end, one record a thread joining their segment's spawn memory in lane order with v0, the return stack, the part's program counter, the masked registers with their tags and the group's GWCT; the lanes become Spilled with empty stacks and leave handler mode, and the others go where the branch leads them. A lane of the part that a pending barrier arrival or GSYNC names traps with SYNC_MASK. (That a drain settles the words of registers and the GWCT first is the model's reading: log entry 10; that lanes which spill leave handler mode: log entry 9.) -/
def Obligations.SpillBranches : Prop :=
  ∀ (s : State) (m : Bool) (va gp : BitVec 8) (off : Word) (k : GKey) (lanes : Mask) (pc : Word) (g : Group) (b : Block) (sg : Segment),
    s.pathIs k lanes pc g → look s.blocks k.blk = some b → look s.segs ⟨k.blk, g.seg⟩ = some sg →
    s.laneReady [va.toNat] [2 * gp.toNat, 2 * gp.toNat + 1] [.v 0 va.toNat intTag, .g (2 * gp.toNat), .g (2 * gp.toNat + 1)] = true →
    g.region = none → s.readPair 1 (2 * gp.toNat) / 2 ^ b.vregs = 0 →
    let mask := s.readPair 1 (2 * gp.toNat)
    let spills := fun (z : Bool) (i : Instr) =>
      let tk := fun (l : Nat) => (s.vread 0 va.toNat l == 0) == z
      let taken := (lanesOf lanes).filter tk
      let other := (lanesOf lanes).filter (fun l => !tk l)
      let out := if taken = [] ∨ other = [] then [] else if taken.length ≤ other.length then taken else other
      let xpc := if taken.length ≤ other.length then pc + off else pc + 8
      let word := fun (j l : Nat) => (g.vNow.getD j VReg.zero).lanes.getD l 0
      let rec_ := fun (l : Nat) => ({ thread := word 0 l, ras := (g.lane l).ras, xpc := xpc, gwct := max g.gwct (g.owedGwct.getD 0)
                                      regs := ((List.range 64).filter (fun j => mask / 2 ^ j % 2 == 1)).map (fun j => (j, g.tag j, word j l)), marked := false, lost := false } : Spawn)
      let goes := fun (g' : Group) => ∀ l, l < g.lanes.length → lanes.getLsbD l = true → l ∉ out →
        (g'.lane l).st = (g.lane l).st ∧ (g'.lane l).ras = (g.lane l).ras ∧ (g'.lane l).pc = pc + if tk l then off else 8
      (out = [] → ∃ t g', exec i s = .next t ∧ look t.groups k = some g' ∧ t.segs = s.segs ∧ t.mem = s.mem ∧ goes g') ∧
      ((∃ l ∈ out, s.curPending.getLsbD l = true) → exec i s = .next (s.raise (.of .syncMask))) ∧
      (out ≠ [] → (∀ l ∈ out, s.curPending.getLsbD l = false) →
        (s.drained = false → exec i s = .next s.drain) ∧
        (s.drained = true → g.clobV = [] → (∀ l ∈ out, g.spilledNow l = false) →
          ∃ t g' sg', exec i s = .next t ∧ look t.groups k = some g' ∧ look t.segs ⟨k.blk, g.seg⟩ = some sg' ∧ t.mem = s.mem ∧ goes g' ∧
            sg'.spawn = sg.spawn ++ out.map rec_ ∧ (∀ l ∈ out, l < g.lanes.length → (g'.lane l).st = .spilled ∧ (g'.lane l).ras = []) ∧
            g'.handler = g.handler.map (fun h => h &&& ~~~(maskOf out))))
    spills true (.bspillz m va gp off) ∧ spills false (.bspillnz m va gp off)

/-- 05 R130, R131, R156; 08 R238: EXIT ends the path's threads, and the group when no lane is left; END ends a sequencer program; ERET resumes the handler's lanes at RESUME (the lanes of the path that executes it, handler mode ending with the last of them: the model's reading, log entry 9); YIELD gives the group's place to the ready pending group that came earliest. -/
def Obligations.PathEnds : Prop :=
  (∀ (s : State) (m : Bool) (k : GKey) (lanes : Mask) (pc : Word) (g : Group), s.pathIs k lanes pc g →
    (g.region = none → s.unjoined = false → s.curPending &&& lanes = 0 → s.drained = true →
      ∃ t g', exec (.exit m) s = .next t ∧ look t.groups k = some g' ∧ t.mem = s.mem ∧
        (∀ l, lanes.getLsbD l = true → (g'.lane l).st = .exited) ∧ (∀ l, lanes.getLsbD l = false → g'.lane l = g.lane l) ∧
        (g.live &&& ~~~lanes = 0 → g.handler = none → g.lanes.length = 32 → g'.ended = true)) ∧
    (∀ h, g.handler = some h →
      ∃ t g', exec (.eret m) s = .next t ∧ look t.groups k = some g' ∧ t.mem = s.mem ∧
        (∀ l, l < g.lanes.length → lanes.getLsbD l = true → (g'.lane l).st = .live ∧ (g'.lane l).pc = g.fr3) ∧
        g'.handler = (if h &&& ~~~lanes = 0 then none else some (h &&& ~~~lanes))) ∧
    (∀ x p, look s.slots (s.slotOf k) = some x → s.readyPending x = some p → k ∈ x.active →
      exec (.yield m) s = .next ((s.exchange (s.slotOf k) k p).finish m 4)) ∧
    (∀ x, look s.slots (s.slotOf k) = some x → s.readyPending x = none → exec (.yield m) s = .next (s.finish m 4))) ∧
  (∀ (s : State) (m : Bool) (q : QKey) (e : Sequencer), s.cur = .seq q → look s.seqs q = some e → s.drained = true →
    ∃ t e', exec (.endSeq m) s = .next t ∧ look t.seqs q = some e' ∧ e'.running = false ∧ e'.halted = e.halted ∧ t.mem = s.mem)

/-- 05 R151; 03 R77: BRK traps with BREAK and its code, TRAP where its condition holds and else only goes on, an extension word with EMU: each resumes after itself. -/
def Obligations.SoftwareTraps : Prop :=
  ∀ (s : State) (m set : Bool) (ga gb : BitVec 9) (cond : Cond) (code6 : BitVec 6) (code24 rest : BitVec 24) (maj : BitVec 6) (w1 : Word),
    (s.resident = true → exec (.brk m code24) s = .next (s.raise { code := .brk, detail := code24.toNat, lanes := none, resume := some (s.curPc + 4) })) ∧
    (s.resident = true → exec (.extensionWord m set maj rest w1) s =
      .next (s.raise { code := .emu, detail := 0, lanes := none, resume := some (s.curPc + if maj.toNat < 0x30 then 4 else 8) })) ∧
    (s.uniReady .group false [ga.toNat, gb.toNat] [ga.toNat, gb.toNat] = true →
      exec (.trap m ga gb cond code6) s = .next (if icompare cond (s.readU 0 ga.toNat).toInt (s.readU 1 gb.toNat).toInt
        then s.raise { code := .brk, detail := code6.toNat, lanes := none, resume := some (s.curPc + 8) } else s.finish m 8))

/-- 02 R57; 05 R153 to R157: taking a trap. With nothing outstanding the record goes to FAULTREC0 to FAULTREC3 and the path enters handler mode at the vector, its registers standing; with OUTS above 0 the group waits first. Where the drain has found deferred faults, or where a marked instruction's park completes with some, the oldest in issue order is delivered, with DEFERRED and the count of the others up to 63, and the resume address is the trapping instruction or the one after the marked one; the others are dropped. -/
def Obligations.TrapEntry : Prop :=
  let delivers := fun (s t : State) (k : GKey) (g : Group) (path : Mask) (resume vec : Word) => ∀ d ∈ g.deferred, (∀ x ∈ g.deferred, x ≠ d → d.order < x.order) →
    ∃ g', look t.groups k = some g' ∧ g'.handler = some path ∧ g'.wait = .none ∧ g'.deferred = [] ∧ t.mem = s.mem ∧
      g'.fr0 = BitVec.ofNat 32 (d.code.code * 2 ^ 24 + min (g.deferred.length - 1) 63) ∧ g'.fr1 = (d.pc &&& 0xFFFFFFFC) ||| 2 ∧ g'.fr2 = d.lanes ∧ g'.fr3 = resume &&& 0xFFFFFFFC ∧
      ∀ l, l < g.lanes.length → path.getLsbD l = true → (g'.lane l).pc = vec ∧ (g'.lane l).st = (g.lane l).st
  (∀ (s : State) (k : GKey) (g : Group) (b : Block) (lanes : Mask) (resume vec : Word), s.arg = .agent (.grp k) → look s.groups k = some g → look s.blocks k.blk = some b →
    g.wait = .park lanes resume → g.outs = 0 → g.region = none → g.handler = none → b.trapv = some vec → ∃ t, exec .parkComplete s = .next t ∧ delivers s t k g lanes resume vec) ∧
  ∀ (s : State) (e : Exc) (k : GKey) (lanes : Mask) (pc : Word) (g : Group) (b : Block), s.pathIs k lanes pc g → look s.blocks k.blk = some b →
    let path := if e.code = .land ∨ e.code = .fetch then e.lanes.getD lanes else lanes
    let r0 := BitVec.ofNat 32 (e.code.code * 2 ^ 24 + e.detail % 2 ^ 24)
    g.view = none → g.region = none →
    (g.outs = 0 → g.handler = none → ∀ vec, b.trapv = some vec → delivers s (s.raise e) k g path pc vec) ∧
    (0 < g.outs → ∃ g' r, look (s.raise e).groups k = some g' ∧ g'.wait = .trap r ∧ g'.lanes = g.lanes ∧ g'.v = g.v ∧ g'.g = g.g) ∧
    (g.outs = 0 → g.deferred = [] → g.handler = none → ∀ vec, b.trapv = some vec →
      ∃ g', look (s.raise e).groups k = some g' ∧ g'.handler = some path ∧ g'.wait = .none ∧
        g'.fr0 = r0 ∧ g'.fr1 = pc &&& 0xFFFFFFFC ∧ g'.fr2 = e.lanes.getD lanes ∧ g'.fr3 = (e.resume.getD pc) &&& 0xFFFFFFFC ∧
        (∀ l, l < g.lanes.length → path.getLsbD l = true → (g'.lane l).pc = vec ∧ (g'.lane l).st = (g.lane l).st) ∧
        (∀ l, path.getLsbD l = false → g'.lane l = g.lane l) ∧ (g.clobV = [] → g'.v = g.v) ∧ (g.clobG = [] → g'.g = g.g)) ∧
    (g.outs = 0 → g.deferred = [] → (g.handler ≠ none ∨ b.trapv = none) → ∀ x, look s.tasks b.task = some x → x.st ≠ .ending →
      ∃ g' x', look (s.raise e).groups k = some g' ∧ g'.fr0 = r0 ∧ look (s.raise e).tasks b.task = some x' ∧ x'.st = .ending ∧
        x'.fault = some (b.bid, k.gid, [g'.fr0, g'.fr1, g'.fr2, g'.fr3]))

/-- 05 R158: a sequencer's fault halts it and is held for the producer group; one that was deferred halts it as its park completes, the oldest in issue order being held with DEFERRED and the count of the others up to 63. -/
def Obligations.SequencerFaults : Prop :=
  (∀ (s : State) (q : QKey) (x : Sequencer) (m : Mask) (a : Word) (d : Deferred), s.arg = .agent (.sqr q) → look s.seqs q = some x → x.wait = .park m a →
    (0 < x.outs → exec .parkComplete s = .next s) ∧
    (x.outs = 0 → d ∈ x.deferred → (∀ y ∈ x.deferred, y ≠ d → d.order < y.order) →
      ∃ t x' r, exec .parkComplete s = .next t ∧ look t.seqs q = some x' ∧ x'.running = false ∧ x'.halted = true ∧ x'.fault = some r ∧ x'.deferred = [] ∧ x'.pc = x.pc ∧ t.mem = s.mem ∧
        r.code = d.code ∧ r.detail = min (x.deferred.length - 1) 63 ∧ r.pc = d.pc ∧ r.deferred = true ∧ r.seq = true ∧ r.lanes = (if q.kind = .msq then 1 else 2)) ∧
    (x.outs = 0 → x.deferred = [] → ∃ t x', exec .parkComplete s = .next t ∧ look t.seqs q = some x' ∧ x'.wait = .none ∧ x'.running = x.running ∧ x'.pc = x.pc ∧ t.mem = s.mem)) ∧
  ∀ (s : State) (e : Exc) (q : QKey) (x : Sequencer), s.cur = .seq q → look s.seqs q = some x →
    ∃ x' r, look (s.raise e).seqs q = some x' ∧ x'.running = false ∧ x'.halted = true ∧ x'.fault = some r ∧
      r.code = e.code ∧ r.detail = e.detail ∧ r.pc = x.pc ∧ r.deferred = false ∧ r.seq = true ∧ r.lanes = (if q.kind = .msq then 1 else 2) ∧ x'.e = x.e ∧ x'.pc = x.pc

/-- 05 R151, R156, R157; 02 R46; 03 R78, R79; 01 R36: the faults at issue of IADD, CSRW and ERET, which have no effect but the trap. Of IADD the first in order alone is taken: a register past the allocation (ILLEGAL), then POISON before TAG, each with the operand's position, the first source's before the second's of the same code; CSRW of a firmware register and ERET outside handler mode trap with PRIV. -/
def Obligations.FaultsAtIssue : Prop :=
  ∀ (s : State) (m : Bool) (vd va vb : BitVec 8) (ga : BitVec 9) (c : Csr), s.onPath = true →
    ((s.vLimit ≤ vd.toNat ∨ s.vLimit ≤ va.toNat ∨ s.vLimit ≤ vb.toNat) → exec (.iadd m vd va vb) s = .next (s.raise (.of .illegal))) ∧
    (vd.toNat < s.vLimit ∧ va.toNat < s.vLimit ∧ vb.toNat < s.vLimit →
      (s.tagOf va.toNat = .poison → exec (.iadd m vd va vb) s = .next (s.raise (.det .poison 0))) ∧
      (s.tagOf va.toNat ≠ .poison ∧ s.tagOf vb.toNat = .poison → exec (.iadd m vd va vb) s = .next (s.raise (.det .poison 1))) ∧
      (s.tagOf va.toNat ≠ .poison ∧ s.tagOf vb.toNat ≠ .poison → intTag (s.tagOf va.toNat) = false → exec (.iadd m vd va vb) s = .next (s.raise (.det .tag 0))) ∧
      (s.tagOf vb.toNat ≠ .poison ∧ intTag (s.tagOf va.toNat) = true ∧ intTag (s.tagOf vb.toNat) = false → exec (.iadd m vd va vb) s = .next (s.raise (.det .tag 1)))) ∧
    (ga.toNat < s.gLimit ∧ firmwareCsr c = true → exec (.csrw m c ga) s = .next (s.raise (.det .priv c.code.toNat))) ∧
    (s.inHandler = false → exec (.eret m) s = .next (s.raise (.of .priv)))

/-- 02 R44 to R47; 05 R150, R152; 09 R257: CSRR reads a CSR, CSRW writes one that kernels may write, CSRX does both with gd taking the old value; a read of PTIME_LO or GWCT_LO fills the latch of the high half; CLKR reads the core's clock; EVENT hands its record over. -/
def Obligations.SystemRegisters : Prop :=
  ∀ (s : State) (m : Bool) (gd ga : BitVec 9) (c : Csr) (n : BitVec 6) (w : Word),
    (s.uniReady .group false [gd.toNat] [] = true → exec (.csrr m gd c) s = .next (((s.latchCsr c).writeU gd.toNat (s.readCsr c)).finish m 8)) ∧
    (s.uniReady .group false [ga.toNat] [ga.toNat] = true → firmwareCsr c = false →
      exec (.csrw m c ga) s = .next ((s.writeCsr c (s.readU 0 ga.toNat)).finish m 8)) ∧
    (s.uniReady .group false [gd.toNat, ga.toNat] [ga.toNat] = true → firmwareCsr c = false →
      exec (.csrx m gd c ga) s = .next ((((s.latchCsr c).writeU gd.toNat (s.readCsr c)).writeCsr c (s.readU 0 ga.toNat)).finish m 8)) ∧
    (s.arg = .word w → exec .quantumWrite s = .next (s.writeCsr .quantum w) ∧ exec .leaseWrite s = .next (s.writeCsr .lease w)) ∧
    (s.arg = .reg gd → exec .ptimeLoRead s = .next ((s.latchCsr .ptimeLo).writeU gd.toNat (BitVec.ofNat 32 s.ptime)) ∧
      exec .gwctLoRead s = .next ((s.latchCsr .gwctLo).writeU gd.toNat (s.readCsr .gwctLo))) ∧
    (s.uniReady .group false [gd.toNat, gd.toNat + 1] [] = true →
      exec (.clkr m gd) s = .next ((s.writePair gd.toNat (s.coreClock (s.coreOf s.curSeg))).finish m 8)) ∧
    (s.uniReady .group false [ga.toNat] [ga.toNat] = true → 
      let post : State := { s with pendingEvents := s.pendingEvents ++
        [{ who := s.curAgent, before := s.nextTxn, event := eventOf s.chipId 0 (s.taskOf s.curBlk) s.curBid s.curGid n.toNat [s.readU 0 ga.toNat, 0, 0, 0] }] }
      exec (.event m ga n) s = .next (post.finish m 8))

/-- 02 R44 to R47; 04 R123; 09 R257: what the special registers hold for a path of group g. QUANTUM keeps a value from 1 to 1,024 and LEASE one from 128 to 65,000, and a write changes nothing else of the group, no path's age among it; a group starts with QUANTUM 64, LEASE 1,024 and both latches 0; FEAT0 reads 0; a read of PTIME_LO or GWCT_LO latches the high half for the reads that follow; a write of a read-only register is ignored. READSR's words: the slot, the masks of the lanes below and up to the lane, the path's mask, the segment. -/
def Obligations.SpecialWords : Prop :=
  (∀ (v : List VReg) (gs : List Word) (lanes : List Lane) (seg floor gwct : Nat),
    let g := groupStart v gs lanes seg floor gwct
    g.quantum = 64 ∧ g.lease = 1024 ∧ g.ptimeHi = 0 ∧ g.gwctHi = 0 ∧ g.outs = 0) ∧
  ∀ (s : State) (m : Bool) (gd : BitVec 9) (k : GKey) (lanes : Mask) (pc : Word) (g : Group) (w : Word), s.pathIs k lanes pc g → g.view = none →
    s.readCsr .quantum = BitVec.ofNat 32 g.quantum ∧ s.readCsr .lease = BitVec.ofNat 32 g.lease ∧ s.readCsr .outs = BitVec.ofNat 32 g.outs ∧
    s.readCsr .faultrec0 = g.fr0 ∧ s.readCsr .faultrec1 = g.fr1 ∧ s.readCsr .faultrec2 = g.fr2 ∧ s.readCsr .faultrec3 = g.fr3 ∧
    s.readCsr .lanemask = lanes ∧ s.readCsr .groupid = BitVec.ofNat 32 k.gid ∧ s.readCsr .segid = BitVec.ofNat 32 g.seg ∧
    s.readCsr .chipid = BitVec.ofNat 32 s.chipId ∧ s.readCsr .feat0 = 0 ∧
    s.readCsr .ptimeLo = BitVec.ofNat 32 s.ptime ∧ s.readCsr .ptimeHi = g.ptimeHi ∧ s.readCsr .gwctLo = BitVec.ofNat 32 g.gwct ∧ s.readCsr .gwctHi = g.gwctHi ∧
    look (s.writeCsr .quantum w).groups k = some { g with quantum := if w.toNat % 2048 = 0 then 1 else if 1024 < w.toNat % 2048 then 1024 else w.toNat % 2048 } ∧
    look (s.writeCsr .lease w).groups k = some { g with lease := if w.toNat % 131072 < 128 then 128 else if 65000 < w.toNat % 131072 then 65000 else w.toNat % 131072 } ∧
    (∀ c, c ≠ .quantum → c ≠ .lease → s.writeCsr c w = s) ∧
    (s.uniReady .group false [gd.toNat] [] = true →
      exec (.csrr m gd .ptimeLo) s = .next (((s.latchCsr .ptimeLo).writeU gd.toNat (BitVec.ofNat 32 s.ptime)).finish m 8) ∧
      look (s.latchCsr .ptimeLo).groups k = some { g with ptimeHi := BitVec.ofNat 32 (s.ptime / 4294967296) } ∧
      exec (.csrr m gd .gwctLo) s = .next (((s.latchCsr .gwctLo).writeU gd.toNat (BitVec.ofNat 32 g.gwct)).finish m 8) ∧
      look (s.latchCsr .gwctLo).groups k = some { g with gwctHi := BitVec.ofNat 32 (g.gwct / 4294967296) } ∧
      exec (.csrr m gd .ptimeHi) s = .next ((s.writeU gd.toNat g.ptimeHi).finish m 8) ∧
      exec (.csrr m gd .gwctHi) s = .next ((s.writeU gd.toNat g.gwctHi).finish m 8)) ∧
    ∀ l : Nat, s.laneSr .slot l = BitVec.ofNat 32 (k.gid * 32 + l) ∧ s.laneSr .laneMask l = lanes ∧ s.laneSr .segId l = BitVec.ofNat 32 g.seg ∧
      (∀ i, i < 32 → (s.laneSr .below l).getLsbD i = decide (i < l)) ∧ (∀ i, i < 32 → (s.laneSr .upTo l).getLsbD i = decide (i ≤ l))

/-! ### Memory instructions (06) -/

/-- 06 R165 to R178; 02 R52, R53: a lane memory instruction on a path ready for it, whose addresses pass the checks made at issue, takes a table entry with its sector parts, one part a lane for an atomic, and questions to the home of an object for lanes whose offset no pointer holds; the registers it loads become pending in the path's lanes and take their tags, which are the load's or those of an atomic's operand; while the table is full it waits. No memory changes yet. -/
def Obligations.LaneMemoryIssue : Prop :=
  ∀ (s : State) (m : Bool) (data vo vs va vb ge gc : BitVec 8) (off : LaneOffset) (sync : Sync) (hint : Hint) (base : BitVec 9) (size : Size) (tag : Tag) (imm : BitVec 12)
    (dst : Option (BitVec 8)) (rmw : Rmw) (scope : Scope),
    let p := s.readPair 0 base.toNat
    let lanes := lanesOf s.curLanes
    let addr := fun (l : Nat) => ((s.readU 0 base.toNat).toNat : Int) + s.laneIdx off l + imm.toInt
    let objs := s.objAccess p size.bytes lanes (fun l => s.laneIdx off l + imm.toInt)
    let scr := groupParts ((lanes.map (fun l => splitAccess l (addr l).toNat size.bytes)).flatten) []
    let dregs := regs data.toNat size.regs
    let datas := dregs.map (fun j => Opnd.v 4 j anyTag)
    let values := lanes.map (fun l => (l, s.vgroup data.toNat size.regs l))
    let pair := [Opnd.g base.toNat, .g (base.toNat + 1)]
    let inScr := fun (a : Nat → Int) (n : Nat) => ∀ l ∈ lanes, a l % n = 0 ∧ 0 ≤ a l ∧ a l + n ≤ s.scrSize s.curBlk
    let atomAt := fun (l : Nat) => (s.vread 0 vo.toNat l).toInt + imm.toInt
    let atomScr := fun (l : Nat) => ((s.readU 0 base.toNat).toNat : Int) + atomAt l
    let atomObjs := s.objAccess p rmw.bytes lanes atomAt
    let atomRegs := [vo.toNat] ++ regs vs.toNat rmw.operandWords ++ dst.elim [] (fun d => regs d.toNat rmw.words)
    let atomDest := dst.elim Dest.none (fun d => .v d.toNat)
    let atomTags := dst.elim [] (fun d => (List.range rmw.words).map (fun j => (d.toNat + j, s.tagOf (vs.toNat + j))))
    let loadTags := (List.range size.regs).map (fun j => (data.toNat + j, loadTagAt tag j))
    let one := fun (ps : List Piece) => ps.map (fun x => ({ st := .todo, pieces := [x] } : Part))
    let runs := fun (i : Instr) (kind : TxnKind) (parts : List Part) (faults : List (FaultCode × Nat)) (vs : List (Nat × Tag)) (us : List Nat) =>
      (s.entryFree = true → ∃ t, exec i s = .next t ∧ s.tookEntry t kind parts faults ∧ s.pendsV t vs ∧ s.pendsU t us) ∧ (s.entryFree = false → exec i s = .next s)
    (s.laneReady (offV off ++ dregs) [base.toNat, base.toNat + 1] (pair ++ offOpnds off) = true ∧ s.unreachable (ptrId p) = false →
      runs (.ld m data off sync hint base size tag imm) (.load false (.v data.toNat) size sync hint) (groupParts objs.pieces [] ++ objs.asks) objs.faults loadTags []) ∧
    (s.laneReady (offV off ++ dregs) [base.toNat, base.toNat + 1] (pair ++ offOpnds off ++ datas) = true ∧ s.unreachable (ptrId p) = false →
      runs (.st m data off sync hint base size imm) (.store false size.bytes sync values) (groupParts objs.pieces [] ++ objs.asks) objs.faults [] []) ∧
    (s.laneReady (offV off ++ dregs) [base.toNat] (.g base.toNat :: offOpnds off) = true ∧ inScr addr size.bytes →
      runs (.lds m data off sync base size tag imm) (.load true (.v data.toNat) size sync .normal) scr [] loadTags []) ∧
    (s.laneReady (offV off ++ dregs) [base.toNat] (.g base.toNat :: (offOpnds off ++ datas)) = true ∧ inScr addr size.bytes →
      runs (.sts m data off sync base size imm) (.store true size.bytes sync values) scr [] [] []) ∧
    (s.laneReady atomRegs [base.toNat, base.toNat + 1] (pair ++ [.v 0 vo.toNat intTag] ++ rmwOpnds rmw vs.toNat) = true ∧
        (∀ l ∈ lanes, ((ptrOff p : Int) + atomAt l) % rmw.bytes = 0) ∧ s.unreachable (ptrId p) = false →
      runs (.atom m dst vo vs rmw scope base imm) (.rmw false atomDest rmw scope (s.rmwData rmw vs.toNat)) (one atomObjs.pieces ++ atomObjs.asks) atomObjs.faults atomTags []) ∧
    (s.laneReady atomRegs [base.toNat] ([.g base.toNat, .v 0 vo.toNat intTag] ++ rmwOpnds rmw vs.toNat) = true ∧ inScr atomScr rmw.bytes →
      runs (.atoms m dst vo vs rmw scope base imm) (.rmw true atomDest rmw scope (s.rmwData rmw vs.toNat))
        (one ((lanes.map (fun l => splitAccess l (atomScr l).toNat rmw.bytes)).flatten)) [] atomTags []) ∧
    (s.laneReady [va.toNat] [ge.toNat] [.v 0 va.toNat intTag, .g ge.toNat] = true ∧ (s.readU 3 ge.toNat).toNat % 4 = 0 ∧ (s.readU 3 ge.toNat).toNat + 4 ≤ s.scrSize s.curBlk →
      runs (.ballotScratchpad m ge va) (.store true 4 .relaxed [(uniLane, (if s.pendingVote va.toNat then s.undef 1 0 else s.ballotMask va.toNat).toNat)])
        (groupParts (splitAccess uniLane (s.readU 3 ge.toNat).toNat 4) []) [] [] []) ∧
    (s.laneReady (regs data.toNat 3 ++ [va.toNat, vb.toNat]) [gc.toNat, gc.toNat + 1, ge.toNat]
        [.v 0 va.toNat rawTag, .v 1 vb.toNat rawTag, .g gc.toNat, .g (gc.toNat + 1)] = true ∧ s.inRegion = false →
      let table := s.readPair 2 gc.toNat
      let items := lanes.map (fun l => (l, s.vread 0 va.toNat l, s.vread 1 vb.toNat l))
      runs (.trx m data va vb gc ge) (.trx data.toNat ge.toNat table items []) (trxParts table items []) [] ((regs data.toNat 3).map (fun j => (j, .i32))) [ge.toNat])

/-- 06 R171, R172, R177: the same of the uniform memory instructions, of groups and sequencers: one access for the whole issuer, whose g or e registers become pending. -/
def Obligations.UniformMemoryIssue : Prop :=
  ∀ (s : State) (m : Bool) (gd ga gb gc disp : BitVec 9) (sync : Sync) (hint : Hint) (size : Size) (rmw : Rmw) (scope : Scope),
    let p := s.readPair 0 ga.toNat
    let off := (s.readU 1 gb.toNat).toInt + disp.toInt
    let addr := ((s.readU 0 ga.toNat).toNat : Int) + off
    let objs := s.objAccess p size.bytes [uniLane] (fun _ => off)
    let atoms := s.objAccess p rmw.bytes [uniLane] (fun _ => (s.readU 1 gb.toNat).toInt)
    let scr := groupParts (splitAccess uniLane addr.toNat size.bytes) []
    let dregs := regs gd.toNat size.regs
    let value := [(uniLane, s.ugroup gd.toNat size.regs)]
    let three := [ga.toNat, ga.toNat + 1, gb.toNat]
    let inScr := addr % size.bytes = 0 ∧ 0 ≤ addr ∧ addr + size.bytes ≤ s.scrSize s.curBlk
    let operands := (List.range rmw.operandWords).map (fun k => s.readU 2 (gc.toNat + k))
    let runs := fun (i : Instr) (kind : TxnKind) (parts : List Part) (faults : List (FaultCode × Nat)) (us : List Nat) =>
      (s.entryFree = true → ∃ t, exec i s = .next t ∧ s.tookEntry t kind parts faults ∧ s.pendsU t us) ∧ (s.entryFree = false → exec i s = .next s)
    (s.uniReady .any false (dregs ++ three) three = true ∧ s.unreachable (ptrId p) = false →
      runs (.gld m gd ga gb disp size sync hint) (.load false (.g gd.toNat) size sync (s.hintFor hint)) (groupParts objs.pieces [] ++ objs.asks) objs.faults dregs) ∧
    (s.uniReady .any false (dregs ++ three) (three ++ dregs) = true ∧ s.unreachable (ptrId p) = false →
      runs (.gst m gd ga gb disp size sync hint) (.store false size.bytes sync value) (groupParts objs.pieces [] ++ objs.asks) objs.faults []) ∧
    (s.uniReady .any false (dregs ++ [ga.toNat, gb.toNat]) [ga.toNat, gb.toNat] = true ∧ inScr →
      runs (.glds m gd ga gb disp size sync) (.load true (.g gd.toNat) size sync .normal) scr [] dregs) ∧
    (s.uniReady .any false (dregs ++ [ga.toNat, gb.toNat]) ([ga.toNat, gb.toNat] ++ dregs) = true ∧ inScr →
      runs (.gsts m gd ga gb disp size sync) (.store true size.bytes sync value) scr [] []) ∧
    (s.uniReady .any false (regs gd.toNat rmw.words ++ three ++ regs gc.toNat rmw.operandWords) (three ++ regs gc.toNat rmw.operandWords) = true ∧
        ((ptrOff p : Int) + (s.readU 1 gb.toNat).toInt) % rmw.bytes = 0 ∧ s.unreachable (ptrId p) = false →
      runs (.gatom m gd ga gb gc rmw scope) (.rmw false (.g gd.toNat) rmw scope [(uniLane, operands)]) (atoms.pieces.map (fun x => ({ st := .todo, pieces := [x] } : Part)) ++ atoms.asks) atoms.faults (regs gd.toNat rmw.words))

/-- 06 R163: an access is cut only at sector boundaries and loses no byte; its parts have one sector each, no two the same, and together they are its pieces. -/
def Obligations.SectorParts : Prop :=
  (∀ (lane addr size : Nat), 0 < size → size ≤ 16 →
    let ps := splitAccess lane addr size
    (ps.map (fun x => regs x.addr x.len)).flatten = regs addr size ∧ (ps.map (fun x => regs x.idx x.len)).flatten = regs 0 size ∧
    ∀ x ∈ ps, x.lane = lane ∧ 0 < x.len ∧ x.addr / 64 = (x.addr + x.len - 1) / 64) ∧
  (∀ (ps : List Piece),
    ((groupParts ps []).map (fun q => q.pieces)).flatten.Perm ps ∧
    (groupParts ps []).Pairwise (fun a b => ∀ x ∈ a.pieces, ∀ y ∈ b.pieces, x.addr / 64 ≠ y.addr / 64) ∧
    ∀ q ∈ groupParts ps [], q.st = .todo ∧ q.pieces ≠ [] ∧ ∀ x ∈ q.pieces, ∀ y ∈ q.pieces, x.addr / 64 = y.addr / 64)

/-- 06 R161, R166 to R168, R173 to R175; 09 R255, R256: what RESPONSE_RETURN does with one sector part, of one or more lanes in ascending order, of a group's access to an object of this chip that is not cutting over, outside any region and in no M frame. A store puts the lanes' bytes where they stand, of lanes that meet the highest lane's, and changes no other byte. An atomic returns the old value to its destination, if it has one, and stores the new one. A load gives the bytes, which its core's L1 holds or which stand in memory, to its v or g registers, each byte at its place and a value of fewer than 32 bits extended with zeros or its sign, and stores nothing. Tags, other lanes and other registers stand. -/
def Obligations.ObjectAccessPerforms : Prop :=
  ∀ (s : State) (id n : Nat) (t : Txn) (k : GKey) (g : Group) (ps : List Piece) (fill : Bool) (h : Piece → Nat) (d : Desc),
    let part : Part := { st := .todo, pieces := ps, fill := fill }
    s.memOk = true → s.arg = .pair id n → s.txn? id = some t → t.who = .grp k → t.faults = [] → look s.groups k = some g → g.region = none →
    t.parts[n]? = some part → s.partReady t n = true → s.channelRow t part = none → s.unasked t part = [] → d.closed = false →
    ps ≠ [] → (ps.map (fun x => x.lane)).Pairwise (· < ·) →
    (∀ x ∈ ps, 0 < x.len ∧ x.idx + x.len ≤ 16 ∧ s.accessFault t.need t.seen (t.laneAccess x.lane) = none ∧ ∀ i, i < x.len → s.hereAddr (x.addr + i) = some (h x + i, d)) →
    (∀ size sync data, t.kind = .store false size sync data → (∀ x ∈ ps, s.lineHeld (h x / 128) = false) →
      ∃ u, exec .responseReturn s = .next u ∧ ∀ a, u.mem.read a = storedByte (ps.map (fun x => (x, h x))) data s.mem.read a) ∧
    (∀ x dst op sc data, ps = [x] → t.kind = .rmw false dst op sc data → s.lineHeld (h x / 128) = false → s.poisonedAt (h x) = false → x.len = op.bytes → g.destHas dst op.words x.lane →
      let old := natLE (s.bytesAt (h x) x.len)
      ∃ u g', exec .responseReturn s = .next u ∧ look u.groups k = some g' ∧ g.onlyDest g' dst op.words [x.lane] ∧
        (dst ≠ .none → ∀ j, j < op.words → g'.destWord dst j x.lane = BitVec.ofNat 32 (old / 2 ^ (32 * j))) ∧
        (∀ i, i < x.len → u.mem.read (h x + i) = BitVec.ofNat 8 (rmwNew op old ((look data x.lane).getD []) / 2 ^ (8 * i))) ∧
        ∀ a, a < h x ∨ h x + x.len ≤ a → u.mem.read a = s.mem.read a) ∧
    (∀ dst size sync hint, t.kind = .load false dst size sync hint → (∀ x ∈ ps, x.idx + x.len ≤ size.bytes ∧ g.destHas dst size.regs x.lane ∧ (s.served? t part = none → s.poisonedAt (h x) = false)) →
      (∀ r, dst = .g r → ps.length = 1) → dst ≠ .none →
      let byte := fun (x : Piece) (i : Nat) => (s.served? t part).elim (s.byteAt (h x + i)) (fun l => l.data.getD ((h x + i) % 64) 0)
      ∃ u g', exec .responseReturn s = .next u ∧ look u.groups k = some g' ∧ u.mem = s.mem ∧ g.onlyDest g' dst size.regs (ps.map (fun x => x.lane)) ∧ ∀ x ∈ ps, g'.loaded dst size x (byte x))

/-- 06 R162, R166 to R168, R173 to R176; 03 R90: the same of one part in the scratchpad of the group's segment: a store of one or more lanes puts its bytes there and nowhere else, a load gives them to its registers, an atomic returns the old value and stores the new one; bytes of tiles being filled or drained, and those of a matrix command that no MWAIT and barrier of its group cover yet, are apart. -/
def Obligations.ScratchpadAccessPerforms : Prop :=
  ∀ (s : State) (id n : Nat) (t : Txn) (k : GKey) (g : Group) (sg : Segment) (ps : List Piece) (fill : Bool),
    s.memOk = true → s.arg = .pair id n → s.txn? id = some t → t.who = .grp k → look s.groups k = some g → look s.segs ⟨k.blk, g.seg⟩ = some sg →
    t.parts[n]? = some { st := .todo, pieces := ps, fill := fill } → s.partReady t n = true → (ps.map (fun x => x.lane)).Pairwise (· < ·) →
    (∀ x ∈ ps, 0 < x.len ∧ x.idx + x.len ≤ 16 ∧ sg.tileHas x.addr x.len [.filling, .draining] = false) →
    let seen := ∀ x ∈ ps, sg.poison.contains (x.addr / 64) = false ∧ sg.unseenAt x.addr x.len = false
    (∀ size sync data, t.kind = .store true size sync data →
      ∃ u sg', exec .responseReturn s = .next u ∧ look u.segs ⟨k.blk, g.seg⟩ = some sg' ∧ u.mem = s.mem ∧
        (∀ a, sg'.scratch.read a = storedByte (ps.map (fun x => (x, x.addr))) data sg.scratch.read a) ∧ ∀ q, q ≠ ⟨k.blk, g.seg⟩ → look u.segs q = look s.segs q) ∧
    (∀ x dst op sc data, ps = [x] → t.kind = .rmw true dst op sc data → seen → x.len = op.bytes → g.destHas dst op.words x.lane →
      let old := natLE (sg.scratch.bytes x.addr x.len)
      ∃ u g' sg', exec .responseReturn s = .next u ∧ look u.groups k = some g' ∧ look u.segs ⟨k.blk, g.seg⟩ = some sg' ∧ u.mem = s.mem ∧ g.onlyDest g' dst op.words [x.lane] ∧
        (dst ≠ .none → ∀ j, j < op.words → g'.destWord dst j x.lane = BitVec.ofNat 32 (old / 2 ^ (32 * j))) ∧
        (∀ i, i < x.len → sg'.scratch.read (x.addr + i) = BitVec.ofNat 8 (rmwNew op old ((look data x.lane).getD []) / 2 ^ (8 * i))) ∧
        (∀ a, a < x.addr ∨ x.addr + x.len ≤ a → sg'.scratch.read a = sg.scratch.read a) ∧ ∀ q, q ≠ ⟨k.blk, g.seg⟩ → look u.segs q = look s.segs q) ∧
    (∀ dst size sync hint, t.kind = .load true dst size sync hint → seen → (∀ x ∈ ps, x.idx + x.len ≤ size.bytes ∧ g.destHas dst size.regs x.lane) →
      (∀ r, dst = .g r → ps.length = 1) → dst ≠ .none →
      ∃ u g', exec .responseReturn s = .next u ∧ look u.groups k = some g' ∧ u.mem = s.mem ∧ u.segs = s.segs ∧ g.onlyDest g' dst size.regs (ps.map (fun x => x.lane)) ∧
        ∀ x ∈ ps, g'.loaded dst size x (fun i => sg.scratch.read (x.addr + i)))

/-! ### Waits, barriers, handles, counters (05) -/

/-- 05 R138, R139; 08 R246: BARINIT sets the expected count; a group whose arrival holds every lane of its mask counts once, and the count that reaches the expected one inverts the phase; BARWAIT goes on once the phase differs from that of the group's last arrival and what its arrivals release has performed (that gate is the model's: log entry 54), and waits until then; BARSYNC arrives and waits; GSYNC goes on when every lane of its mask presents it, also over several paths: the last that comes lets all go on, the others wait. -/
def Obligations.Barriers : Prop :=
  ∀ (s : State) (m : Bool) (k : BitVec 4) (ga gb : BitVec 9) (key : GKey) (lanes : Mask) (pc : Word) (g : Group) (b : Block), s.pathIs key lanes pc g →
    look s.blocks key.blk = some b → k.toNat < b.bars.length → (∀ v, g.view = some v → v.bars = b.bars) →
    let x := b.bar k.toNat
    let mask := s.readU 1 gb.toNat
    let old := (x.arrivals.find? (fun a => a.gid == key.gid)).elim 0 (fun a => a.lanes)
    let may := x.expected ≠ none ∧ key.gid ∉ x.done ∧ (∀ a ∈ x.arrivals, a.gid = key.gid → a.mask = mask) ∧ lanes &&& ~~~mask = 0 ∧ mask &&& ~~~g.live = 0
    (∀ e : Nat, s.uniReady .any false [ga.toNat] [ga.toNat] = true → (s.readU 0 ga.toNat).toNat = e → x.count = 0 → 1 ≤ e → e ≤ 66 →
      ∃ t b', exec (.barinit m k ga) s = .next t ∧ look t.blocks key.blk = some b' ∧ (b'.bar k.toNat).expected = some e ∧ (b'.bar k.toNat).count = 0 ∧ (b'.bar k.toNat).phase = x.phase) ∧
    (∀ e : Nat, s.uniReady .any false [gb.toNat] [gb.toNat] = true → may → x.expected = some e → x.count < e →
      ∃ t b', exec (.bararv m k gb) s = .next t ∧ look t.blocks key.blk = some b' ∧
        (old ||| lanes = mask → x.count + 1 = e → (b'.bar k.toNat).count = 0 ∧ (b'.bar k.toNat).phase = !x.phase) ∧
        (old ||| lanes = mask → x.count + 1 < e → (b'.bar k.toNat).count = x.count + 1 ∧ (b'.bar k.toNat).phase = x.phase) ∧
        (old ||| lanes ≠ mask → (b'.bar k.toNat).count = x.count ∧ (b'.bar k.toNat).phase = x.phase)) ∧
    (s.uniReady .any true [] [] = true → x.expected ≠ none →
      let seen := (look x.last key.gid).getD x.phase
      (x.phase ≠ seen → s.barClear key.blk k.toNat = true → exec (.barwait m k) s = .next ((s.acquire (.grp key) .block).finish m 8)) ∧
      (x.phase ≠ seen → s.barClear key.blk k.toNat = false → exec (.barwait m k) s = .next (s.pathWait (.bar k.toNat none) m)) ∧
      (x.phase = seen → exec (.barwait m k) s = .next (s.pathWait (.bar k.toNat (some seen)) m))) ∧
    (∀ e : Nat, s.uniReady .any true [gb.toNat] [gb.toNat] = true → may → x.expected = some e → x.count < e →
      ∃ t g', exec (.barsync m k gb) s = .next t ∧ look t.groups key = some g' ∧ ∀ l, l < g.lanes.length → lanes.getLsbD l = true →
        (g'.lane l).pc = (g.lane l).pc ∧ (g'.lane l).wait = .bar k.toNat (if old ||| lanes = mask ∧ x.count + 1 = e then none else some x.phase)) ∧
    (s.uniReady .group true [gb.toNat] [gb.toNat] = true → lanes &&& ~~~mask = 0 → mask &&& ~~~g.live = 0 → g.gsyncClash mask = false →
      let others := ∀ l, l < 32 → mask.getLsbD l = true → lanes.getLsbD l = false → (g.lane l).wait = .gsync mask
      ∃ t g', exec (.gsync m gb) s = .next t ∧ look t.groups key = some g' ∧ t.mem = s.mem ∧ ∀ l, l < g.lanes.length → l < 32 →
        (others → mask.getLsbD l = true → (g'.lane l).pc = (g.lane l).pc + 8 ∧ (g'.lane l).wait = .none) ∧
        (¬others → lanes.getLsbD l = true → (g'.lane l).pc = (g.lane l).pc ∧ (g'.lane l).wait = .gsync mask) ∧
        ((mask.getLsbD l = false ∨ ¬others ∧ lanes.getLsbD l = false) → g'.lane l = g.lane l))

/-- 05 R138, R148; 08 R235: the ends of path-level waits: a barrier's released paths, once what its arrivals release has performed (log entry 54), and a counter's path at its target go on after the instruction at which they waited. -/
def Obligations.PathWaitEnds : Prop :=
  ∀ (s : State) (k : GKey) (g : Group) (b : Block), s.arg = .agent (.grp k) → look s.groups k = some g → look s.blocks k.blk = some b →
    let waiters := fun (p : PathWait → Prop) => ∃ l, l < 32 ∧ p (g.lane l).wait
    let goOn := fun (i : Instr) (p : PathWait → Prop) => ∃ t g', exec i s = .next t ∧ look t.groups k = some g' ∧
      ∀ l, l < g.lanes.length → l < 32 → (p (g.lane l).wait → (g'.lane l).wait = .none ∧ (g'.lane l).pc = (g.lane l).pc + 8) ∧ (¬p (g.lane l).wait → g'.lane l = g.lane l)
    let counted := fun (w : PathWait) => ∃ n, w = .await n ∧ (b.ac n).target.toNat ≤ (b.ac n).count.toNat
    let freed := fun (w : PathWait) => ∃ n, w = .bar n none ∧ s.barClear k.blk n = true
    (waiters freed → goOn .barrierWaitEnd freed) ∧
    (waiters counted → goOn .awaitComplete counted)

/-- 05 R140 to R143; 09 R259: FENCE and MRDY go on past themselves with the group waiting until what was issued before has performed; FENCE_COMPLETE and MRDY_COMPLETE end the wait, no sooner. -/
def Obligations.Fences : Prop :=
  (∀ (s : State) (m : Bool) (kind : FenceKind) (scope : Scope), s.uniReady .any false [] [] = true →
    exec (.fence m kind scope) s = .next ((s.waitAt (.fence kind scope s.nextTxn s.curLanes)).finish m 8) ∧
    exec (.mrdy m) s = .next ((s.waitAt (.mrdy s.nextTxn s.curLanes)).finish m 8)) ∧
  (∀ (s : State) (k : GKey) (g : Group) (kind : FenceKind) (scope : Scope) (before : Nat) (path : Mask), s.arg = .agent (.grp k) → look s.groups k = some g →
    let earlier := s.txns.filter (fun t => t.who == .grp k && decide (t.id < before) && t.access)
    let cleared := s.onGroup k (fun g => { g with wait := .none })
    (g.wait = .fence kind scope before path →
      (kind = .rel → earlier = [] → exec .fenceComplete s = .next cleared) ∧
      (kind = .ar → earlier = [] → exec .fenceComplete s = .next (cleared.acquire (.grp k) scope)) ∧
      (kind = .acq → (∀ t ∈ earlier, t.returns = false) → exec .fenceComplete s = .next (cleared.acquire (.grp k) scope)) ∧
      (kind = .cmp → earlier = [] → g.gwct + (if scope = .pod then 8 else 0) < s.ptime → exec .fenceComplete s = .next (cleared.acquire (.grp k) scope)) ∧
      (kind ≠ .acq → earlier ≠ [] → exec .fenceComplete s = .next s) ∧
      (kind = .acq → (∃ t ∈ earlier, t.returns = true) → exec .fenceComplete s = .next s) ∧
      (kind = .cmp → s.ptime ≤ g.gwct + (if scope = .pod then 8 else 0) → exec .fenceComplete s = .next s)) ∧
    (g.wait = .mrdy before path → (∀ t ∈ s.txns, t.who = .grp k → t.id < before → t.feeds = false) → exec .mrdyComplete s = .next cleared) ∧
    (g.wait = .mrdy before path → (∃ t ∈ s.txns, t.who = .grp k ∧ t.id < before ∧ t.feeds = true) → exec .mrdyComplete s = .next s))

/-- 05 R142, R143; 10 R287: WAITC, drained, does not issue while the channel that holds a word of an M frame is not free, and else goes on with 1 where the word it may read already satisfies its condition and waits otherwise, with a monitor where its home has one free; the wake and a poll that finds the condition give 1, the timeout 0. -/
def Obligations.WaitOnWord : Prop :=
  (∀ (s : State) (m : Bool) (gd ga gb gc : BitVec 9) (cond : Cond) (n32 : Bool) (scope : Scope) (id off : Nat) (d : Desc),
    let p := s.readPair 0 ga.toNat
    let v := s.readU 1 gb.toNat
    let lim := (s.readU 2 gc.toNat).toNat
    s.uniReady .any true [gd.toNat, ga.toNat, ga.toNat + 1, gb.toNat, gc.toNat] [ga.toNat, ga.toNat + 1, gb.toNat, gc.toNat] = true → s.drained = true →
    ptrOff p % 4 = 0 → s.unreachable (ptrId p) = false → s.route splitFuel (ptrId p) (ptrOff p) = .here id off d →
    d.closed = false → off + 4 ≤ d.len → attrR d.attrs = true →
    let w : Waitc := { gd := gd.toNat, id := ptrId p, off := ptrOff p, cond := cond, n32 := n32, value := v, scope := scope, deadline := if lim = 0 then none else some (s.ptime + lim)
                       monitor := s.settleCur.monitorFree (monitorHome d (flat id off) off), hit := false, polledAt := s.ptime, path := s.curLanes, marked := m }
    let holds := wcompare cond n32 (s.monitorRead (ptrId p) (ptrOff p)) v
    let free := s.chansFree [flat (ptrId p) (ptrOff p)]
    let looked := (s.settleCur.countLocal id).openRows [flat (ptrId p) (ptrOff p)]
    (free = false → exec (.waitc m gd ga gb gc cond n32 scope) s = .next s) ∧
    (free = true → holds = true → exec (.waitc m gd ga gb gc cond n32 scope) s = .next (looked.endWaitc s.curAgent w 1)) ∧
    (free = true → holds = false → exec (.waitc m gd ga gb gc cond n32 scope) s = .next (looked.setWaitc s.curAgent w))) ∧
  (∀ (s : State) (k : GKey) (g : Group) (w : Waitc), s.arg = .agent (.grp k) → look s.groups k = some g → g.wait = .waitc w → w.gd < g.g.length →
    let ends := fun (i : Instr) (r : Word) => ∃ t g', exec i s = .next t ∧ look t.groups k = some g' ∧ g'.g.getD w.gd 0 = r ∧
      (w.marked = false → g'.wait = .none) ∧ ∀ l, l < g.lanes.length → w.path.getLsbD l = true → (g'.lane l).pc = (g.lane l).pc + 8
    (w.hit = true → ends .monitorWake 1) ∧ (w.hit = false → exec .monitorWake s = .next s) ∧
    (∀ dl, w.hit = false → w.deadline = some dl → dl ≤ s.ptime → ends .waitcTimeout 0) ∧
    (∀ id off d, w.monitor = false → w.hit = false → w.polledAt + 1024 ≤ s.ptime → s.route splitFuel w.id w.off = .here id off d → d.closed = false → s.chansFree [flat w.id w.off] = true →
      wcompare w.cond w.n32 (s.monitorRead w.id w.off) w.value = true → ends .waitcPoll 1))

/-- 05 R144 to R146: the handle instructions. The status word is 1 while PENDING, 2 when DONE, 3 with its code when FAILED; HWAIT waits for the end, HTEST does not, and seeing an end is an acquire at chip scope; HCANCEL notes a request; HMOV gives the token, and HADOPT makes a handle name a token's operation, or fail with 0x16. -/
def Obligations.Handles : Prop :=
  (∀ (s : State) (m : Bool) (gd : BitVec 9) (k : BitVec 4) (o : Nat) (op : Op), s.readH k.toNat = .names o → look s.ops o = some op →
    let word : Word := match op.st with
      | .pending => 1
      | .done => 2
      | .failed c x => BitVec.ofNat 32 (c * 2 ^ 24 + (if x then 256 else 0) + 3)
    let seen := if op.st = .pending then s else (s.mergeGwct s.curAgent op.gwct).acquire s.curAgent .chip
    (s.uniReady .any true [gd.toNat] [] = true →
      (op.st = .pending → exec (.hwait m gd k) s = .next (s.waitAt (.handle o))) ∧
      (op.st ≠ .pending → exec (.hwait m gd k) s = .next ((seen.writeU gd.toNat word).finish m 8))) ∧
    (s.uniReady .any false [gd.toNat] [] = true →
      exec (.htest m gd k) s = .next ((seen.writeU gd.toNat word).finish m 8) ∧ exec (.hmov m gd k) s = .next ((s.writeU gd.toNat (BitVec.ofNat 32 o)).finish m 8)) ∧
    (s.uniReady .any false [] [] = true →
      exec (.hcancel m k) s = .next ((s.onOp o (fun x => if x.st = .pending then { x with cancel := true } else x)).finish m 8))) ∧
  (∀ (s : State) (m : Bool) (ga : BitVec 9) (k : BitVec 4), s.uniReady .any false [ga.toNat] [ga.toNat] = true →
    let o := (s.readU 0 ga.toNat).toNat
    (s.named o = true ∧ look s.ops o ≠ none → exec (.hadopt m k ga) s = .next ((s.writeH k.toNat (.names o)).finish m 8)) ∧
    (s.named o = false → exec (.hadopt m k ga) s = .next ((s.writeH k.toNat .lost).finish m 8))) ∧
  (∀ (s : State) (w : Agent) (o : Nat), s.arg = .agent w → s.agentWait w = .handle o → (∀ op, look s.ops o = some op → op.st ≠ .pending) →
    exec .handleWaitEnd s = .next (s.clearWait w))

/-- 05 R148, R149; 02 R54, R57; 05 R158: arrival counters; RDV waits while a sequencer program of the block runs, goes on at once where none does, and when the last has ended RDV_COMPLETE lets its path go on, and FORK may follow; the end of a park that has found no fault (one that has: TrapEntry); the delivery of a sequencer's fault to the producer group as it next issues, with its record: its instruction's program counter, DEFERRED as the fault was, SEQ, the sequencer, and the producer's own program counter to resume at. -/
def Obligations.CountersAndJoins : Prop :=
  (∀ (s : State) (m clr : Bool) (k : BitVec 4) (ga : BitVec 9), s.uniReady .any false [ga.toNat] [ga.toNat] = true →
    exec (.acset m k ga clr) s = .next ((s.onBlock s.curBlk (fun b =>
      { b with acs := b.acs.modify k.toNat (fun c => { count := if clr then 0 else c.count, target := s.readU 0 ga.toNat }) })).finish m 8)) ∧
  (∀ (s : State) (m : Bool) (k : BitVec 4) (b : Block), look s.blocks s.curBlk = some b →
    (s.uniReady .any true [] [] = true → (∀ g v, s.curGroup = some g → g.view = some v → v.acs = b.acs) →
      ((b.ac k.toNat).target.toNat ≤ (b.ac k.toNat).count.toNat → exec (.await m k) s = .next ((s.acquire s.curAgent .pod).finish m 8)) ∧
      ((b.ac k.toNat).count.toNat < (b.ac k.toNat).target.toNat → exec (.await m k) s = .next (s.pathWait (.await k.toNat) m))) ∧
    (s.uniReady .producer true [] [] = true →
      ((∀ e ∈ s.seqs, e.1.sg.blk = s.curBlk → e.2.running = false) → exec (.rdv m) s = .next ((s.onBlock s.curBlk (fun b => { b with forked := false })).finish m 8)) ∧
      ((∃ e ∈ s.seqs, e.1.sg.blk = s.curBlk ∧ e.2.running = true) → exec (.rdv m) s = .next (s.pathWait .rdv m)))) ∧
  (∀ (s : State) (k : GKey) (g : Group) (b : Block), s.arg = .agent (.grp k) → look s.groups k = some g → look s.blocks k.blk = some b → (∃ l, l < 32 ∧ (g.lane l).wait = .rdv) →
    ((∃ e ∈ s.seqs, e.1.sg.blk = k.blk ∧ e.2.running = true) → exec .rdvComplete s = .next s) ∧
    ((∀ e ∈ s.seqs, e.1.sg.blk = k.blk → e.2.running = false) → ∃ t g' b', exec .rdvComplete s = .next t ∧ look t.groups k = some g' ∧ look t.blocks k.blk = some b' ∧ b'.forked = false ∧
      ∀ l, l < g.lanes.length → l < 32 → ((g.lane l).wait = .rdv → (g'.lane l).wait = .none ∧ (g'.lane l).pc = (g.lane l).pc + 8) ∧ ((g.lane l).wait ≠ .rdv → g'.lane l = g.lane l))) ∧
  (∀ (s : State) (k : GKey) (g : Group) (lanes : Mask) (resume : Word), s.arg = .agent (.grp k) → look s.groups k = some g → g.wait = .park lanes resume →
    (0 < g.outs → exec .parkComplete s = .next s) ∧
    (g.outs = 0 → g.deferred = [] → g.abort = none → ∃ t g', exec .parkComplete s = .next t ∧ look t.groups k = some g' ∧ g'.wait = .none ∧ g'.lanes = g.lanes ∧ g'.pendV = [] ∧ g'.pendG = [])) ∧
  (∀ (s : State) (k : GKey) (lanes : Mask) (pc : Word) (g : Group) (b : Block) (q : QKey) (r : TrapRec) (vec : Word), s.pathIs k lanes pc g → look s.blocks k.blk = some b →
    s.heldFault k.blk = some (q, r) → s.drained = true → g.handler = none → g.region = none → b.trapv = some vec →
    ∃ t g', exec .sequencerFaultDelivery s = .next t ∧ look t.groups k = some g' ∧ g'.handler = some lanes ∧ g'.fr0 = BitVec.ofNat 32 (r.code.code * 2 ^ 24 + r.detail % 2 ^ 24) ∧
      g'.fr1 = (r.pc &&& 0xFFFFFFFC) ||| (if r.deferred then 2 else 0) ||| (if r.seq then 1 else 0) ∧ g'.fr2 = r.lanes ∧ g'.fr3 = pc &&& 0xFFFFFFFC ∧
      (∀ l, l < g.lanes.length → lanes.getLsbD l = true → (g'.lane l).pc = vec) ∧ (∀ x, look s.seqs q = some x → ∃ x', look t.seqs q = some x' ∧ x'.fault = none))

/-! ### Forwarding regions (06, 09) -/

/-- 06 R181 to R187: RGBEGIN, drained, opens a free slot (the lowest: the model's choice, log entry 28) with the abort target and writes 0 to the reason register, or waits for one; RGEND asks for the commit and waits; RGABORT aborts with EXPLICIT and its code; RGSTAT reads the region's word, 0 outside one. -/
def Obligations.RegionInstructions : Prop :=
  ∀ (s : State) (m : Bool) (gd ga : BitVec 9) (k : GKey) (lanes : Mask) (pc : Word) (g : Group), s.pathIs k lanes pc g →
    let whole := g.live &&& ~~~lanes = 0
    let target := s.readU 0 ga.toNat
    (s.uniReady .region false [gd.toNat, ga.toNat] [ga.toNat] = true → g.region = none → whole → s.drained = true → gd.toNat < g.g.length →
      (∃ a, s.codeAt k.blk target = some a ∧ s.codeWord a = 0x8A000000) →
      (∀ n, s.freeSlot = some n → ∃ t g' r, exec (.rgbegin m gd ga) s = .next t ∧ look t.groups k = some g' ∧ look t.regions n = some r ∧ g'.region = some n ∧ g'.abort = none ∧
        g'.g.getD gd.toNat 0 = 0 ∧ r.owner = k ∧ r.ended = false ∧ r.target = target ∧ r.reason = gd.toNat ∧ r.reads = [] ∧ r.writes = [] ∧ r.preds = [] ∧
        ∀ l, l < g.lanes.length → lanes.getLsbD l = true → (g'.lane l).pc = (g.lane l).pc + 8) ∧
      (s.freeSlot = none → exec (.rgbegin m gd ga) s = .next (s.settleCur.waitAt .rgSlot))) ∧
    (∀ n r, s.uniReady .region false [] [] = true → g.region = some n → look s.regions n = some r → whole → s.drained = true →
      ∃ t g' r', exec (.rgend m) s = .next t ∧ look t.groups k = some g' ∧ g'.wait = .rgCommit lanes (pc + 8) m ∧ look t.regions n = some r' ∧ r'.ended = true) ∧
    (∀ n, s.uniReady .region false [ga.toNat] [ga.toNat] = true → g.region = some n →
      exec (.rgabort m ga) s = .next ((s.abortRegion n (target.toNat % 256 * 256 + 1)).mark m)) ∧
    (s.uniReady .region false [gd.toNat] [] = true →
      exec (.rgstat m gd) s = .next ((s.writeU gd.toNat (g.region.elim 0 s.regionStatus)).finish m 8))

/-- 06 R181, R183, R185; 09 R256, R280, R281: the steps of regions. An ENDED region that waits for its commit, without predecessors and not aborted, commits: its slot is free, no region depends on it, none of its versions is left, every byte they wrote reads as they wrote it and every other byte of committed memory as before, and its group goes on after RGEND; else the step changes nothing. A waiting RGBEGIN issues again when a slot is free. An abort, once OUTS is zero, takes every live lane to the target with the reason in its register and frees the slot. A held write that no region and no earlier write holds back is tried again at its home, those behind it at its line aside: a store of one lane takes effect there. A lease that has expired drops its core's copy. -/
def Obligations.RegionSteps : Prop :=
  (∀ (s : State) (n : Nat) (r : Region) (g : Group) (path : Mask) (resume : Word) (marked : Bool), s.memOk = true → s.arg = .num n → look s.regions n = some r → r.ended = true → r.preds = [] →
    look s.groups r.owner = some g → g.abort = none → g.wait = .rgCommit path resume marked →
    let vs := s.versions.filter (fun v => v.slot == n)
    (vs.map (fun v => v.line)).Nodup → (∀ v ∈ vs, (v.bytes.map Prod.fst).Nodup ∧ ∀ b ∈ v.bytes, b.1 < 128) →
    ∃ t g', exec .regionCommit s = .next t ∧ look t.regions n = none ∧ (∀ e ∈ t.regions, n ∉ e.2.preds) ∧ (∀ v ∈ t.versions, v.slot ≠ n) ∧
      (∀ v ∈ vs, ∀ b ∈ v.bytes, t.mem.read (v.line * 128 + b.1) = b.2) ∧
      (∀ a, (∀ v ∈ vs, ∀ b ∈ v.bytes, v.line * 128 + b.1 ≠ a) → t.mem.read a = s.mem.read a) ∧
      look t.groups r.owner = some g' ∧ g'.region = none ∧ g'.abort = none ∧ (marked = false → g'.wait = .none) ∧
      ∀ l, l < g.lanes.length → path.getLsbD l = true → (g'.lane l).pc = resume) ∧
  (∀ (s : State) (n : Nat) (r : Region), s.arg = .num n → look s.regions n = some r →
    (r.ended = false ∨ r.preds ≠ [] ∨ ∃ g, look s.groups r.owner = some g ∧ g.abort ≠ none) → exec .regionCommit s = .next s) ∧
  (∀ (s : State) (w : Agent), s.arg = .agent w → s.agentWait w = .rgSlot → s.freeSlot ≠ none → exec .regionSlotFreeResume s = .next (s.clearWait w)) ∧
  (∀ (s : State) (k : GKey) (g : Group) (n w : Nat) (r : Region), s.arg = .agent (.grp k) → look s.groups k = some g → g.region = some n → g.abort = some w → g.outs = 0 →
    look s.regions n = some r → r.owner = k → g.trapping = false → r.reason < g.g.length →
    ∃ t g', exec .regionAbortTake s = .next t ∧ look t.groups k = some g' ∧ g'.region = none ∧ g'.abort = none ∧ g'.wait = .none ∧ g'.g.getD r.reason 0 = BitVec.ofNat 32 w ∧
      t.mem = s.mem ∧ look t.regions n = none ∧ ∀ l, l < g.lanes.length → l < 32 → (g.lane l).st = .live → (g'.lane l).pc = r.target) ∧
  (∀ (s : State) (i : Nat) (h : HeldWrite), s.arg = .num i → s.held[i]? = some h →
    let rest := s.held.eraseIdx i
    let u := ({ s with held := rest.filter (fun x => x.line != h.line) } : State).applyHeld h.what
    (s.heldReady i h = true → exec .heldWriteApply s = .next { u with held := u.held ++ rest.filter (fun x => x.line == h.line) }) ∧
    (s.heldReady i h = false → exec .heldWriteApply s = .next s) ∧
    (∀ (id n : Nat) (t0 : Txn) (k : GKey) (g : Group) (x : Piece) (fill : Bool) (a size : Nat) (sync : Sync) (data : List (Nat × Nat)) (d : Desc),
      s.heldReady i h = true → h.what = .part id n → s.memOk = true → s.txn? id = some t0 → t0.who = .grp k → t0.kind = .store false size sync data → t0.faults = [] →
      look s.groups k = some g → g.region = none → t0.parts[n]? = some { st := .held, pieces := [x], fill := fill } → x.idx + x.len ≤ 16 →
      s.route splitFuel (x.addr / 2 ^ 34) (x.addr % 2 ^ 34) = .here (a / 2 ^ 34) (a % 2 ^ 34) d → a / 128 = h.line → s.accessFault t0.need t0.seen (t0.laneAccess x.lane) = none →
      ∃ t, exec .heldWriteApply s = .next t ∧ (∀ j, j < x.len → t.mem.read (a + j) = BitVec.ofNat 8 ((look data x.lane).getD 0 / 2 ^ (8 * (x.idx + j)))) ∧
        ∀ y, y < a ∨ a + x.len ≤ y → t.mem.read y = s.mem.read y)) ∧
  (∀ (s : State) (core sector : Nat), s.arg = .pair core sector →
    exec .leaseExpiry s = .next { s with l1 := s.l1.filter (fun x => !(x.core == core && x.sector == sector && decide (x.expiry < s.ptime))) })

/-! ### Tiles and copies (07 R194 to R204) -/

/-- 07 R194 to R197, R203; 08 R247: the tile commands. TDEF makes an EMPTY tile of its range; TREL, whose naming of the tile is a chip acquire, empties a READY one nothing reads, or starts its armed drain; TSTAT reports a tile, a stream popping; SBIND gives a stream its ring; LAYOUT keeps its block; TILE_WAIT_END lets the instruction issue again. -/
def Obligations.Tiles : Prop :=
  (∀ (s : State) (m : Bool) (tile : BitVec 8) (ga gc : BitVec 9) (tag : Tag) (g : Segment), look s.segs s.curSeg = some g →
    let off := (s.readU 0 ga.toNat).toNat
    let len := (s.readU 2 gc.toNat).toNat
    s.uniReady .any true [ga.toNat, gc.toNat] [ga.toNat, gc.toNat] = true → tag.tileTag = true → off % 256 = 0 → len % 256 = 0 → 0 < len → off + len ≤ s.scrSize s.curBlk →
    (∀ e ∈ g.tiles, e.2.st ≠ .empty → e.1 ≠ tile.toNat ∧ (e.2.off + e.2.len ≤ off ∨ off + len ≤ e.2.off)) →
    ∃ t g' x, exec (.tdef m tile ga gc tag) s = .next t ∧ look t.segs s.curSeg = some g' ∧ look g'.tiles tile.toNat = some x ∧ x.st = .empty ∧ x.tag = tag ∧ x.off = off ∧ x.len = len ∧
      x.err = false ∧ g'.scratch = g.scratch ∧ t.mem = s.mem) ∧
  (∀ (s : State) (m : Bool) (tile : BitVec 8) (x : Tile), s.uniReady .any true [] [] = true → s.tile? s.curSeg tile.toNat = some x → x.st = .ready →
    (s.readersOf s.curSeg s.curAgent tile.toNat = true → exec (.trel m tile) s = .next (s.waitAt (.readers tile.toNat))) ∧
    (s.readersOf s.curSeg s.curAgent tile.toNat = false → x.drain = none →
      exec (.trel m tile) s = .next (((s.nameTile s.curSeg tile.toNat).onTile s.curSeg tile.toNat (fun y => { y with st := .empty, err := false, taken := false })).finish m 8)) ∧
    (∀ o, s.readersOf s.curSeg s.curAgent tile.toNat = false → x.drain = some o → exec (.trel m tile) s =
      .next ((((s.nameTile s.curSeg tile.toNat).onTile s.curSeg tile.toNat (fun y => { y with st := .draining, taken := false })).onOp o (fun y => { y with armed := false })).finish m 8))) ∧
  (∀ (s : State) (m : Bool) (gd : BitVec 9) (spec : TileSpec) (n : Nat) (x : Tile), s.uniReady .any true [gd.toNat, gd.toNat + 1] [] = true →
    s.statTile s.curSeg spec = .use n → s.tile? s.curSeg n = some x →
    exec (.tstat m gd spec) s = .next (((s.popTile s.curSeg spec).writePair gd.toNat (tstatWords n x)).finish m 8)) ∧
  (∀ (s : State) (m : Bool) (k : BitVec 3) (first : BitVec 8) (count : BitVec 9), s.uniReady .any true [] [] = true →
    let ring := regs first.toNat count.toNat
    (∀ n ∈ (s.stream s.curSeg k.toNat).ring ++ ring, ∃ x, s.tile? s.curSeg n = some x ∧ x.st = .empty) → (∀ j, j < 8 → j ≠ k.toNat → ∀ n ∈ ring, n ∉ (s.stream s.curSeg j).ring) →
    exec (.sbind m k first count) s = .next ((s.onSeg s.curSeg (fun g => { g with streams := g.streams.set k.toNat { ring := ring, pos := 0 } })).finish m 8)) ∧
  (∀ (s : State) (m : Bool) (n : BitVec 3) (ga : BitVec 9), s.uniReady .copy true (regs ga.toNat 16) (regs ga.toNat 16) = true →
    exec (.layout m n ga) s = .next ((s.onSeg s.curSeg (fun g => { g with layouts := g.layouts.set n.toNat ((List.range 16).map (fun i => s.readU 0 (ga.toNat + i))) })).finish m 8)) ∧
  (∀ (s : State) (w : Agent) (sg : SKey) (n : Nat) (want : TileState) (x : Tile), s.arg = .agent w → s.agentWait w = .tile sg n want → s.tile? sg n = some x →
    (x.st = want → exec .tileWaitEnd s = .next (s.clearWait w)) ∧ (x.st ≠ want → x.err = false → exec .tileWaitEnd s = .next s))

/-- 07 R190, R191, R198 to R202, R204: a copy whose blocks and ranges pass the checks at issue and whose tiles are ready starts a PENDING operation: CPY and MCAST name it in their handle, CPYC counts in OUTS; a drain is armed. Nothing moves yet. The issuer is a path of the producer group or the copy sequencer. -/
def Obligations.CopyIssue : Prop :=
  (∀ (s : State) (m mcast : Bool) (k : BitVec 4) (gd ga gb : BitVec 9) (key : GKey) (lanes : Mask) (pc : Word) (g : Group), s.pathIs key lanes pc g →
    let blocks := regs ga.toNat 16 ++ regs gb.toNat 16
    let passes := fun (r : Copy × List (Option Exc) × List TileUse × TileSpec) => (∀ e ∈ r.2.1, e = none) ∧ (∀ u ∈ r.2.2.1, ∃ n, u = TileUse.use n)
    let plan := s.copyPlan ga.toNat gb.toNat mcast false
    let counted := s.copyPlan ga.toNat gb.toNat false true
    let o := s.nextOp % 4294967296
    (s.uniReady .copy true blocks blocks = true → passes plan → s.busyHandle k.toNat = none → k.toNat < g.h.length →
      ∃ t g' op, exec (if mcast then .mcast m k ga gb else .cpy m k ga gb) s = .next t ∧ look t.groups key = some g' ∧ g'.h.getD k.toNat .empty = .names o ∧ g'.outs = g.outs ∧
        look t.ops o = some op ∧ op.kind = .copy plan.1 ∧ op.st = .pending ∧ op.armed = (plan.1.skind == 2) ∧ t.mem = s.mem) ∧
    (s.uniReady .copy true (gd.toNat :: blocks) blocks = true → passes counted → s.entryFree = true →
      ∃ t g' op, exec (.cpyc m gd ga gb) s = .next t ∧ look t.groups key = some g' ∧ g'.outs = g.outs + 1 ∧
        look t.ops o = some op ∧ op.kind = .copy counted.1 ∧ op.st = .pending ∧ op.armed = (counted.1.skind == 2) ∧ t.mem = s.mem)) ∧
  (∀ (s : State) (m mcast : Bool) (k : BitVec 4) (gd ga gb : BitVec 9) (q : QKey) (e : Sequencer), s.cur = .seq q → look s.seqs q = some e →
    let blocks := regs ga.toNat 16 ++ regs gb.toNat 16
    let passes := fun (r : Copy × List (Option Exc) × List TileUse × TileSpec) => (∀ x ∈ r.2.1, x = none) ∧ (∀ u ∈ r.2.2.1, ∃ n, u = TileUse.use n)
    let plan := s.copyPlan ga.toNat gb.toNat mcast false
    let counted := s.copyPlan ga.toNat gb.toNat false true
    let o := s.nextOp % 4294967296
    (s.uniReady .copy true blocks blocks = true → passes plan → s.busyHandle k.toNat = none → k.toNat < e.h.length →
      ∃ t e' op, exec (if mcast then .mcast m k ga gb else .cpy m k ga gb) s = .next t ∧ look t.seqs q = some e' ∧ e'.h.getD k.toNat .empty = .names o ∧ e'.outs = e.outs ∧ e'.pc = e.pc + 8 ∧
        look t.ops o = some op ∧ op.kind = .copy plan.1 ∧ op.st = .pending ∧ op.armed = (plan.1.skind == 2) ∧ t.mem = s.mem) ∧
    (s.uniReady .copy true (gd.toNat :: blocks) blocks = true → passes counted → s.entryFree = true →
      ∃ t e' op, exec (.cpyc m gd ga gb) s = .next t ∧ look t.seqs q = some e' ∧ e'.outs = e.outs + 1 ∧ e'.pc = e.pc + 8 ∧
        look t.ops o = some op ∧ op.kind = .copy counted.1 ∧ op.st = .pending ∧ op.armed = (counted.1.skind == 2) ∧ t.mem = s.mem))

/-- 07 R192, R199 to R202: COPY_COMPLETE moves a copy on by one destination sector (the steps are the model's: log entry 15). Of a plain copy of n bytes inside a scratchpad that is not cancelled, the sector's bytes of the destination take the source's, every other byte stands, and after the last sector the operation is DONE; a copy whose outcome is noted ends; CANCEL_BOUNDARY ends a cancelled one, once its remote writes are acknowledged, with FAILED, cancelled. -/
def Obligations.CopySteps : Prop :=
  (∀ (s : State) (o n w : Nat) (op : Op) (c : Copy) (g : Segment), s.memOk = true → s.arg = .num o → look s.ops o = some op → op.kind = .copy c → op.st = .pending → op.armed = false →
    op.cancel = false → op.outcome = none → op.acks = 0 → (op.codes = [] ∨ op.codes = [0]) → look s.segs c.sg = some g → c.skind = 1 → c.dkind = 1 → c.mcast = false → c.stag = .raw → c.dtag = .raw → c.esz = 0 → c.dsz = 1 →
    c.layout = none → c.notify = none → c.start = [0] → c.box = [n] → c.extent = [n] → c.stride = [1] → c.targets = [c.sg] → g.poison = [] →
    (∀ i, i < n → g.tileHas (c.src + i) 1 [.filling] = false ∧ g.tileHas (c.dst + i) 1 [.filling, .draining] = false) → c.sectors[op.stage]? = some w →
    ∃ t g' op', exec .copyComplete s = .next t ∧ look t.segs c.sg = some g' ∧ look t.ops o = some op' ∧ t.mem = s.mem ∧
      (∀ i, i < n → (c.dst + i) / 64 = w → g'.scratch.read (c.dst + i) = g.scratch.read (c.src + i)) ∧
      (∀ a, (a / 64 ≠ w ∨ a < c.dst ∨ c.dst + n ≤ a) → g'.scratch.read a = g.scratch.read a) ∧
      (op.stage + 1 < c.sectors.length → op'.st = .pending ∧ op'.stage = op.stage + 1) ∧ (op.stage + 1 = c.sectors.length → op'.st = .done)) ∧
  (∀ (s : State) (o : Nat) (op : Op) (c : Copy) (st : OpState), s.arg = .num o → look s.ops o = some op → op.kind = .copy c → s.copyMay o op c = true → op.outcome = some st →
    exec .copyComplete s = .next (s.copyEnd o c (op.copyOutcome st))) ∧
  (∀ (s : State) (o : Nat) (op : Op), s.arg = .num o → look s.ops o = some op → op.cancel = true → op.st = .pending → op.armed = false → op.outcome = none →
    (∀ c, op.kind = .copy c →
      (op.acks = 0 → ∃ t op', exec .cancelBoundary s = .next t ∧ look t.ops o = some op' ∧ op'.st = .failed 0 true ∧ t.mem = s.mem) ∧
      (op.acks ≠ 0 → exec .cancelBoundary s = .next (s.onOp o (fun x => { x with outcome := some (.failed 0 true) })))) ∧
    (∀ c, op.kind = .red c → op.acks = 0 → ∃ t op', exec .cancelBoundary s = .next t ∧ look t.ops o = some op' ∧ op'.st = .failed 0 true ∧ t.mem = s.mem))

/-! ### The matrix engine (07 R205 to R214) -/

/-- 07 R205 to R214; 01 R36, R38: a matrix command of a matrix sequencer whose tiles are READY (an output tile EMPTY) and whose tags are a pair that exists joins the engine's queue behind those before it with the values it read, and the sequencer goes on; MWAIT goes on when no command is left, or none that writes its register. That MZERO and MLDT give the tile register its tag at issue is the model's (log entry 34, DEDUCED). -/
def Obligations.MatrixIssue : Prop :=
  ∀ (s : State) (m one sat : Bool) (t : BitVec 2) (gd ga : BitVec 9) (a b : TileSpec) (o : BitVec 8) (stride cores : BitVec 4) (tag : Tag),
    let sg := s.curSeg
    let acc := (s.treg sg t.toNat).tag = .f32p
    let queue := fun (u : State) (c : Gmx) => Host.Outcome.next ((u.queueGmx sg c).finish m 8)
    let r := s.twoTiles sg a b
    let w := (s.readU 0 ga.toNat).toNat
    let tagOf := s.tileTag sg
    let reads := fun (l : List Nat) => s.uniReady .gmx true l l = true
    let pairOk := fun (x y : Nat) => r.1 = .use x ∧ r.2.1 = .use y ∧ tagOf x ≠ .poison ∧ tagOf y ≠ .poison ∧ matK (tagOf x) ≠ 0 ∧ matPair (tagOf x) (tagOf y) = true ∧ acc
    let product := fun (extra : List Nat) (i : Instr) (mk : Nat → Nat → Option (Nat × Nat) → Gmx) =>
      (∀ x y, s.uniReady .gmx true (ga.toNat :: extra) extra = true → pairOk x y → tagOf x ≠ .e2m1x8 → ga = 0 → exec i s = queue r.2.2 (mk x y none)) ∧
      (∀ x y sx sy x' y', s.uniReady .gmx true (ga.toNat :: extra) extra = true → s.struckU ga.toNat = false → pairOk x y → tagOf x = .e2m1x8 →
        specOf (w % 512) = some sx → specOf (w / 65536 % 512) = some sy → (r.2.2.twoTiles sg sx sy).1 = .use x' → (r.2.2.twoTiles sg sx sy).2.1 = .use y' →
        tagOf x' = .e8m0x4 → tagOf y' = .e8m0x4 → exec i s = queue (r.2.2.twoTiles sg sx sy).2.2 (mk x y (some (x', y'))))
    (reads [] → exec (.mzero m t) s = queue (s.tregTag sg t.toNat .f32p) (.mzero t.toNat)) ∧
    product [] (.mma m t ga a b) (fun x y sc => .mma t.toNat x y sc) ∧
    product [gd.toNat] (.mmag m t gd ga a b) (fun x y sc => .mmag t.toNat x y sc (s.readU 1 gd.toNat).toNat) ∧
    product [] (.mmasp m t ga a b) (fun x y sc => .mmasp t.toNat x y sc) ∧
    (reads [gd.toNat, ga.toNat] → acc → s.destTile sg o.toNat = .use o.toNat →
      exec (.msoft m t gd ga o) s = queue (s.fillTile sg o.toNat none) (.msoft t.toNat o.toNat (s.readU 0 gd.toNat) (s.readU 1 ga.toNat).toNat)) ∧
    (reads [ga.toNat] → acc → exec (.mscale m t ga stride) s = queue s (.mscale t.toNat w stride.toNat)) ∧
    (reads [gd.toNat, ga.toNat, ga.toNat + 1] → acc → s.unreachable (ptrId (s.readPair 1 ga.toNat)) = false → s.destTile sg o.toNat = .use o.toNat →
      exec (.mdrain m t sat gd ga o tag) s = queue (s.fillTile sg o.toNat none) (.mdrain t.toNat sat (s.readU 0 gd.toNat) (s.readPair 1 ga.toNat) o.toNat tag s.nextTxn)) ∧
    (∀ x, reads [] → s.srcTile sg a = .use x → (tagOf x = .f32 ∨ tagOf x = .f16x2 ∨ tagOf x = .bf16x2) →
      exec (.mldt m t a) s = queue ((s.popTile sg a).tregTag sg t.toNat .f32p) (.mldt t.toNat x)) ∧
    (reads [ga.toNat] → acc → exec (.mcmerge m t ga cores) s = queue s (.mcmerge t.toNat w cores.toNat)) ∧
    (∀ g, reads [] → look s.segs sg = some g →
      let busy := ∃ c ∈ g.gmx, one = true → gmxWrites c.2 = some t.toNat
      (¬busy → exec (.mwait m one t) s = .next ((s.noteMwait sg (if one then some t.toNat else none)).finish m 8)) ∧ (busy → exec (.mwait m one t) s = .next (s.waitAt (.gmx (if one then some t.toNat else none)))))

/-- 07 R205 to R207, R211; 01 R30, R31: MATRIX_COMMAND_COMPLETE runs the oldest command of a segment's engine: MZERO leaves (0, 0) everywhere, an update folds the sum of its element's products into the pair (s, c); the command leaves the queue and the other tile registers stand. A command whose tile is too small halts the sequencer with TILE_STATE. -/
def Obligations.MatrixRuns : Prop :=
  ∀ (s : State) (sg : SKey) (g : Segment) (pc : Word) (rest : List (Word × Gmx)) (t : Nat), s.arg = .seg sg → look s.segs sg = some g → t < g.tregs.length →
    let runs := fun (val : Nat → Word × Word) => ∃ u g', exec .matrixCommandComplete s = .next u ∧ look u.segs sg = some g' ∧ g'.gmx = rest ∧ u.mem = s.mem ∧
      (∀ n, n < 16384 → (u.treg sg t).at_ n = val n) ∧ ∀ j, j ≠ t → u.treg sg j = s.treg sg j
    (g.gmx = (pc, .mzero t) :: rest → runs (fun _ => (0, 0))) ∧
    (∀ a b, g.gmx = (pc, .mma t a b none) :: rest → 8192 ≤ s.tileLen sg a → 8192 ≤ s.tileLen sg b →
      let row := fun (tile i : Nat) => rowVals (s.tileTag sg tile) (row64 (s.tileArea sg tile 8192) i) (row4 [] i)
      runs (fun n =>
        let e := (s.treg sg t).at_ n
        let p := foldPair e.1.toNat e.2.toNat (treeSum 7 (((row a (n / 128)).zip (row b (n % 128))).map (fun x => Fmt.fp32.rn (x.1.mul x.2))))
        (BitVec.ofNat 32 p.1, BitVec.ofNat 32 p.2))) ∧
    (∀ a b q, g.gmx = (pc, .mma t a b none) :: rest → s.tileLen sg a < 8192 → look s.seqs (msqOf sg) = some q → q.halted = false →
      ∃ u q' r, exec .matrixCommandComplete s = .next u ∧ look u.seqs (msqOf sg) = some q' ∧ q'.halted = true ∧ q'.fault = some r ∧ r.code = .tileState ∧ r.pc = pc)

/-! ### The memory side (07 R215 to R220; 10) -/

/-- 07 R190, R215 to R220: a memory-side command whose block and alignment pass the checks at issue, its handle not PENDING, starts a PENDING operation with the values it read; a scan with a tile result fills that tile. -/
def Obligations.MemorySideIssue : Prop :=
  ∀ (s : State) (m : Bool) (k : BitVec 4) (ga : BitVec 9),
    let P := s.block ga.toNat
    s.uniReady .any true (regs ga.toNat 16) (regs ga.toNat 16) = true → s.busyHandle k.toNat = none →
    let zero := fun (l : List Nat) => ∀ i ∈ l, pw P i = 0
    let reach := fun (p : Nat) => s.unreachable (ptrId p) = false
    let starts := fun (i : Instr) (kind : OpKind) => exec i s = .next (((s.newOp kind false).1.writeH k.toNat (.names (s.nextOp % 4294967296))).finish m 8)
    let fills := fun (i : Instr) (kind : OpKind) (n : Nat) => exec i s =
      .next (((((s.newOp kind false).1.writeH k.toNat (.names (s.nextOp % 4294967296))).fillTile s.curSeg n (some (s.origin (pd P 0))))).finish m 8)
    (∀ two tile : Option Nat, pf P 3 19 0 = 0 → pf P 3 31 28 ≤ 7 → two = (if pf P 3 21 21 = 1 then some (pf P 3 24 22) else none) → (two = none → zero [6, 7]) → zero [12, 13, 14, 15] →
      tile = (if pf P 3 20 20 = 1 then none else some (pw P 9)) → (tile = none → zero [9] ∧ reach (pd P 10)) → (∀ n, tile = some n → zero [10, 11] ∧ n ≤ 255) →
      pd P 0 % 17179869184 % scanBytes (pf P 3 31 28) = 0 → reach (pd P 0) →
      let c : Scan := { sg := s.curSeg, topk := false, src := pd P 0, count := pw P 2, fmt := pf P 3 31 28, op1 := pf P 3 27 25, op2 := two, a1 := P.getD 4 0, b1 := P.getD 5 0, a2 := P.getD 6 0, b2 := P.getD 7 0
                        cap := pw P 8, k := 0, segs := 1, tile := tile, dest := pd P 10, rows := none, away := [], bufs := [], cands := [], nans := 0, written := 0 }
      (tile = none → starts (.wnscan m k ga) (.scan c)) ∧
      (∀ n, tile = some n → s.destTile s.curSeg n = .use n → 16 + 8 * pw P 8 ≤ s.tileLen s.curSeg n → fills (.wnscan m k ga) (.scan c) n)) ∧
    (∀ tile : Option Nat, pw P 2 ≠ 0 → pf P 3 17 0 = 0 → pf P 3 31 28 ≤ 7 → pf P 3 27 19 ≠ 0 → pf P 3 27 19 ≤ 256 → pw P 4 ≠ 0 → pw P 4 ≤ 4096 → zero [5, 6, 7, 8, 12, 13, 14, 15] →
      tile = (if pf P 3 18 18 = 1 then none else some (pw P 9)) → (tile = none → zero [9] ∧ reach (pd P 10)) → (∀ n, tile = some n → zero [10, 11] ∧ n ≤ 255) →
      pd P 0 % 17179869184 % scanBytes (pf P 3 31 28) = 0 → reach (pd P 0) →
      let c : Scan := { sg := s.curSeg, topk := true, src := pd P 0, count := pw P 2 * pw P 4, fmt := pf P 3 31 28, op1 := 0, op2 := none, a1 := 0, b1 := 0, a2 := 0, b2 := 0
                        cap := 0, k := pf P 3 27 19, segs := pw P 4, tile := tile, dest := pd P 10, rows := none, away := [], bufs := [], cands := [], nans := 0, written := 0 }
      (tile = none → starts (.wntopk m k ga) (.scan c)) ∧
      (∀ n, tile = some n → s.destTile s.curSeg n = .use n → 16 + 8 * pf P 3 27 19 * pw P 4 ≤ s.tileLen s.curSeg n → fills (.wntopk m k ga) (.scan c) n)) ∧
    (1 ≤ pw P 2 → pw P 2 ≤ 32 → pd P 0 % 65536 / 2048 + pw P 2 ≤ 32 → (∀ x ∈ microOps P, microOk x = true) → (∃ x ∈ microOps P, bits x.toNat 15 12 = 9) → pd P 0 % 2048 = 0 → reach (pd P 0) →
      starts (.nbx m k ga) (.nbx { base := pd P 0, rows := pw P 2, ops := microOps P, ch := 0, mpc := 0, lc := P.getD 3 0, row := 0
                                   accs := List.replicate 8 { fmt := 0, data := List.replicate 64 0 }, scalars := P.drop 12, placed := false })) ∧
    (1 ≤ pw P 2 → pw P 2 ≤ 65536 → 1 ≤ pw P 3 → pw P 2 % pw P 3 = 0 → 1 ≤ pw P 10 → pw P 10 ≤ 64 → zero [11, 12, 13, 14, 15] → (∀ p ∈ [pd P 0, pd P 4, pd P 6, pd P 8], reach p) →
      starts (.kvseal m k ga) (.kvseal { src := pd P 0, elems := pw P 2, heads := pw P 3, dst := pd P 4, scales := pd P 6, absmax := pd P 8, valid := pw P 10 })) ∧
    (∀ op, redOp (pf P 2 25 22) = some op → pf P 2 30 26 = 0 → pf P 2 18 0 = 0 → zero [6, 7, 8, 9, 10, 11, 12, 13, 14, 15] →
      let ty := AtomType.ofCode (BitVec.ofNat 3 (pf P 2 21 19))
      let z := (Rmw.op op ty).bytes
      let scr := pf P 2 31 31 == 1
      let src := if scr then pw P 0 else pd P 0
      (Rmw.op op ty).ok = true → src % z = 0 → pd P 4 % z = 0 → (scr = true → pw P 1 = 0 ∧ src + pw P 3 * z ≤ s.scrSize s.curBlk) → (scr = false → reach src) → reach (pd P 4) →
      starts (.red m k ga) (.red { sg := s.curSeg, scratch := scr, src := src, op := op, ty := ty, count := pw P 3, dst := pd P 4, next := 0 }))

/-- 07 R215 to R220; 10 R295 to R297, R299, R300, R303: the steps of memory-side operations: a scan that may start tells the chips of its frames elsewhere (10 R292; that a packet does so is the model's: log entry 32) and then gives its rows to the winnowers; the thresher takes what the candidate buffers hold; pairs that have become final are written before the header, which is the last thing a scan writes; an outcome that a scan has met, a fault or a stop by HCANCEL, ends it as it is; a program whose range may be read and written takes a context at its channel; KVSEAL that reads no fault writes what 07 R219 gives and is DONE unless a write fails; RED with no element left is DONE. -/
def Obligations.MemorySideSteps : Prop :=
  ∀ (s : State) (o : Nat) (op : Op), s.arg = .num o → look s.ops o = some op →
    (∀ c, op.kind = .scan c → s.scanMay o op c = true →
      (c.rows = none → op.outcome = none → ∀ rows away, s.scanRows c = .ok (rows, away) → s.newFrames op away ≠ [] →
        ∃ t op', exec .thresherResult s = .next t ∧ look t.ops o = some op' ∧ op'.st = .pending ∧ op'.kind = .scan c ∧ op.acks ≤ op'.acks ∧ t.mem = s.mem) ∧
      (c.rows = none → op.outcome = none → ∀ rows away, s.scanRows c = .ok (rows, away) → s.newFrames op away = [] →
        ∃ t op', exec .thresherResult s = .next t ∧ look t.ops o = some op' ∧ op'.st = .pending ∧ op'.kind = .scan { c with rows := some rows, away := away } ∧ t.mem = s.mem) ∧
      (∀ rows, c.rows = some rows → op.outcome = none → c.bufs ≠ [] →
        exec .thresherResult s = .next (s.onOp o (fun p => { p with kind := .scan { c with cands := c.cands ++ c.bufs.map Prod.snd, bufs := [] } }))) ∧
      (∀ rows, c.rows = some rows → op.outcome = none → c.bufs = [] → s.stalled o rows = [] → c.away = [] → c.fresh ≠ [] → exec .thresherResult s = .next (s.writePairs o c)) ∧
      (c.rows = some [] → op.outcome = none → c.bufs = [] → c.away = [] → c.fresh = [] → exec .thresherResult s = .next (s.writeScan o c)) ∧
      (∀ st, op.outcome = some st → exec .thresherResult s = .next (s.endScan o c st))) ∧
    (∀ n r, op.kind = .nbx n → s.nbxMay o op n = true → s.rangeFault ⟨true, true⟩ n.base (2048 * n.rows) = 0 → s.visitRow n.base = some r →
      exec .nbxContextStart s = .next ((s.onOp o (fun p => { p with kind := .nbx { n with placed := true, ch := chanOf r } })).arriveRow (.program o r))) ∧
    (∀ c xs, op.kind = .kvseal c → s.kvsealMay op c = true → op.outcome = none → s.readAll op c.reads = some (xs, 0) →
      let u := s.eCount c.reads
      let a := u.checkedCells c.dst (c.out xs).1
      let b := (u.eWrite o a.1).checkedCells c.scales (c.out xs).2
      exec .kvsealComplete s = .next (((u.eWrite o a.1).eWrite o b.1).resolve o (endOf (worst [a.2, b.2])))) ∧
    (∀ c, op.kind = .red c → op.st = .pending → op.acks = 0 → s.opWaits o = false → op.outcome = none → c.count ≤ c.next →
      ∃ t op', exec .redComplete s = .next t ∧ look t.ops o = some op' ∧ op'.st = .done ∧ t.mem = s.mem)

/-- 10 R286 to R291; 17 R414: a channel. An access to an M frame waits at its row's channel; a refresh that is due closes the row first; else the highest priority, earliest, goes: at once when its row is open, after a switch otherwise; refresh falls due each period, which is halved above 85 °C until below 80 °C. That a row lies in channel row / 32 % 768 is the model's (log entry 12, DESIGN CHOICE). -/
def Obligations.Channels : Prop :=
  (∀ (s : State) (id n row : Nat) (t : Txn), s.arg = .pair id n → s.demandPart id n = some (t, row) →
    exec .demandAccess s = .next ((s.setPart id n .queued).arriveAt (row / 32 % 768) (match t.kind with
      | .rmw .. => .atomic id n row
      | _ => .demand id n row))) ∧
  (∀ (s : State) (ch : Nat), s.arg = .num ch →
    let c := s.chan ch
    (c.switching = none → c.refreshDue = true → ∃ t, exec .channelBurstSelect s = .next t ∧ (t.chan ch).openRow = none ∧ (t.chan ch).refreshDue = false ∧ (t.chan ch).lastRefresh = s.clock ∧ t.mem = s.mem) ∧
    (∀ a, c.switching = none → c.refreshDue = false → a ∈ c.waiting → (∀ b ∈ c.waiting, a.priority ≤ b.priority) → (∀ b ∈ c.waiting.takeWhile (fun x => x != a), a.priority < b.priority) →
      let t := s.onChan ch (fun c => { c with waiting := c.waiting.erase a })
      (a.row? = c.openRow → exec .channelBurstSelect s = .next (t.burst a)) ∧
      (a.row? ≠ c.openRow → exec .channelBurstSelect s = .next (t.onChan ch (fun c => { c with switching := some a })))) ∧
    (∀ a, c.switching = some a → exec .rowSwitchComplete s = .next ((s.onChan ch (fun c => { c with openRow := a.row?, switching := none })).burst a)) ∧
    (c.nextRefresh ≤ s.clock → ∃ t, exec .refreshDue s = .next t ∧ (t.chan ch).refreshDue = true ∧
      (t.chan ch).nextRefresh = c.nextRefresh + (if s.hot.contains (ch / 32) then 2048 else 4096) ∧ t.mem = s.mem)) ∧
  (∀ (s : State) (stack : Nat) (temp : Word), s.arg = .sensor stack temp → stack < 24 →
    (stack ∉ s.hot → 680 < temp.toInt → ∃ t, exec .dramTempHigh s = .next t ∧ t.hot = s.hot ++ [stack] ∧ t.mem = s.mem) ∧
    (stack ∈ s.hot → temp.toInt < 640 → ∃ t, exec .dramTempNormal s = .next t ∧ stack ∉ t.hot ∧ t.mem = s.mem))

/-! ### Counted commands (07 R190 to R193, R221, R223 to R225; 14; 15) -/

/-- 07 R190, R193, R221, R223, R224, R225; 14 R324: a counted command ready at issue, whose block, pointers and attributes pass the checks, takes a table entry with the values it read and its result registers pending; while the table is full it waits, and a launch whose kernel record lies on another chip asks for its bytes and waits for them. That the launch itself asks at issue, and its checks wait for the answer, is the model's choice (log entry 19, DESIGN CHOICE). -/
def Obligations.CountedCommandIssue : Prop :=
  ∀ (s : State) (m : Bool) (gd ga gb : BitVec 9) (slot : BitVec 3),
    let p := s.readPair 0 ga.toNat
    let q := s.readPair 1 gb.toNat
    let a := s.readU 0 ga.toNat
    let b := s.readU 1 gb.toNat
    let P := s.block ga.toNat
    let d := gd.toNat
    let pair := [ga.toNat, ga.toNat + 1]
    let reach := fun (x : Nat) => s.unreachable (ptrId x) = false
    let attrOk := b.toNat < 128 ∧ ¬(attrL b = true ∧ attrM b = true)
    let granted := ∃ t, look s.tasks (s.taskOf s.curBlk) = some t ∧ (t.p.getD 6 0).getLsbD 3 = true
    let record := (∀ e ∈ recordBad P, e.2 = false) ∧ (pf P 6 3 3 = 1 → granted)
    let runs := fun (i : Instr) (row : Row) (dests reads : List Nat) (c : Counted) =>
      s.uniReady row true (dests.map (d + ·) ++ reads) reads = true →
        (s.entryFree = true → ∃ t, exec i s = .next t ∧ s.tookEntry t (.command d c) [] [] ∧ s.pendsU t (dests.map (d + ·))) ∧ (s.entryFree = false → exec i s = .next s)
    let launches := fun (i : Instr) (reads : List Nat) (r : Except HtsStop (Option Task)) =>
      s.uniReady .group true ([0, 1].map (d + ·) ++ reads) reads = true →
        (∀ t, r = .ok t → (s.entryFree = true → ∃ u, exec i s = .next u ∧ s.tookEntry u (.command d (.launch t)) [] [] ∧ s.pendsU u [d, d + 1]) ∧
          (s.entryFree = false → exec i s = .next (s.farForget (.launch s.curAgent)))) ∧
        (∀ x n, r = .error (.away x n) → exec i s = .next ((s.farWant (.launch s.curAgent) x n).waitAt .hts))
    (attrOk → runs (.oalloc m gd ga gb) .group [0, 2, 3] (pair ++ [gb.toNat]) (.oalloc p b)) ∧
    (reach p → runs (.ofree m gd ga) .group [0] pair (.ofree p)) ∧
    (reach p → runs (.opin m gd ga) .group [0] pair (.opin p)) ∧
    (reach p → runs (.ounpin m gd ga) .group [0] pair (.ounpin p)) ∧
    (reach p → reach q → runs (.ogroup m gd ga gb) .group [0] (pair ++ [gb.toNat, gb.toNat + 1]) (.ogroup p q)) ∧
    (s.validChip (birthOf (ptrId p)) = true → runs (.oloc m gd ga) .group [0, 1, 2, 3] pair (.oloc p)) ∧
    (reach p → runs (.osplit m gd ga gb) .group [0, 2, 3] (pair ++ [gb.toNat]) (.osplit p b)) ∧
    (attrOk → reach p → runs (.oattr m gd ga gb) .group [0] (pair ++ [gb.toNat]) (.oattr p b)) ∧
    (record → launches (.launch m gd ga) (regs ga.toNat 16) (s.admitRecord (.launch s.curAgent) P s.curPrio)) ∧
    (record → launches (.launchb m gd ga gb) (regs ga.toNat 16 ++ [gb.toNat]) (s.admitBucket (.launch s.curAgent) P s.curPrio b)) ∧
    runs (.patch m gd ga gb slot) .group [0] [ga.toNat, gb.toNat] (.patch slot.toNat a b) ∧
    runs (.tdec m gd ga gb) .group [0] [ga.toNat, gb.toNat] (.tdec a b) ∧
    runs (.tkill m gd ga) .group [0] [ga.toNat] (.tkill a) ∧
    runs (.fbstat m gd) .any [0, 1, 2, 3] [] .fbstat ∧
    (granted → pw P 0 < 65536 → (∀ i ∈ 1 :: regs 4 12, pw P i = 0) → reach (pd P 2) →
      runs (.fbplan m gd ga) .any [0] (regs ga.toNat 16) (.fbplan (P.getD 0 0) (pd P 2) (s.nextOp % 4294967296)))

/-- 02 R47, R52; 07 R193, R221, R223; 14 R324, R326, R327, R329; 15 R344, R345, R362, R364, R366, R367: a counted command performs: its registers get its status and results, its entry frees and OUTS falls. OALLOC makes an object of its length and attributes under the next serial; OPIN and OUNPIN count pins; OLOC reads the granary; PATCH fills its slot; TDEC lowers the counter; LAUNCH writes its record at a free index; TKILL ends the task it names; FBSTAT reads the controller; OFREE and OATTR take effect once their invalidation is complete. -/
def Obligations.CountedCommandResult : Prop :=
  ∀ (s : State) (id d : Nat) (t : Txn) (c : Counted) (part : Part), s.txn? id = some t → t.kind = .command d c → t.parts = [part] → part.st = .todo → t.faults = [] →
    let ends := fun (i : Instr) (holds : State → Prop) (vals : List (Nat × Word)) => ∃ u, exec i s = .next u ∧ holds u ∧ u.mem = s.mem ∧ u.txn? id = none ∧
      ∀ k g, t.who = .grp k → look s.groups k = some g → d + 3 < g.g.length →
        ∃ g', look u.groups k = some g' ∧ g'.outs = g.outs - 1 ∧ ∀ e ∈ vals, g'.g.getD (d + e.1) 0 = e.2
    let task := fun (n : Nat) (f : Task → Prop) (u : State) => ∃ x, look u.tasks n = some x ∧ f x
    let object := fun (n : Nat) (f : Desc → Prop) (u : State) => ∃ x, look u.objs n = some x ∧ f x
    (s.arg = .pair id 0 → s.commandReady t c = false → exec .responseReturn s = .next s) ∧
    (s.arg = .pair id 0 → (c = .fbstat ∨ FabCmd.counted id ∉ s.fab.cmds) →
      (∀ size attrs, c = .oalloc size attrs → 1 ≤ size → size ≤ 17179869184 → s.usedFrames + framesOf size ≤ Config.frames → s.nextSerial ≤ 262143 →
        let n := s.chipId * 262144 + s.nextSerial
        ends .responseReturn (fun u => object n (fun x => x.len = size ∧ x.attrs = attrs ∧ x.pins = 0 ∧ x.epoch = 0) u ∧ u.nextSerial = s.nextSerial + 1)
          [(0, 0), (2, BitVec.ofNat 32 (n * 17179869184)), (3, BitVec.ofNat 32 (n * 4))]) ∧
      (∀ ptr n off x, c = .opin ptr → s.route splitFuel (ptrId ptr) (ptrOff ptr) = .here n off x → look s.objs n = some x → x.mig = none → x.left = 0 → x.pins < 65535 →
        ends .responseReturn (object n (fun y => y.pins = x.pins + 1)) [(0, 0)]) ∧
      (∀ ptr n off x, c = .ounpin ptr → s.route splitFuel (ptrId ptr) (ptrOff ptr) = .here n off x → look s.objs n = some x → x.closed = false →
        (0 < x.pins → ends .responseReturn (object n (fun y => y.pins = x.pins - 1)) [(0, 0)]) ∧ (x.pins = 0 → ends .responseReturn (object n (fun y => y.pins = 0)) [(0, 3)])) ∧
      (∀ ptr x, c = .oloc ptr → birthOf (ptrId ptr) = s.chipId → look s.granary (ptrId ptr) = some x →
        ends .responseReturn (fun u => u.objs = s.objs) [(0, 0), (1, BitVec.ofNat 32 x.chip), (2, BitVec.ofNat 32 x.epoch), (3, BitVec.ofNat 32 x.st)]) ∧
      (∀ slot v w x, c = .patch slot v w → s.commandReady t c = true → look s.tasks w.toNat = some x → (x.st = .waiting ∨ x.st = .ready) → x.kernel.pslots / 2 ^ slot % 2 = 1 →
        ends .responseReturn (task w.toNat (fun y => y.slots = x.slots.set slot (some v) ∧ y.counter = x.counter)) [(0, 0)]) ∧
      (∀ w n x, c = .tdec w n → s.commandReady t c = true → look s.tasks w.toNat = some x → (x.st = .waiting ∨ x.st = .ready) →
        (n.toNat ≤ x.counter → ends .responseReturn (task w.toNat (fun y => y.counter = x.counter - n.toNat ∧ y.slots = x.slots)) [(0, 0)]) ∧
        (x.counter < n.toNat → ends .responseReturn (fun u => u.tasks = s.tasks) [(0, 4)])) ∧
      (∀ r i, c = .launch (some r) → s.commandReady t c = true → s.recordFits (.size id) r = some true → s.freeTask = some i →
        ends .responseReturn (task i (fun y => y.p = r.p ∧ y.kernel = r.kernel ∧ y.counter = r.counter ∧ y.slots = r.slots)) [(0, 0), (1, BitVec.ofNat 32 i)]) ∧
      (c = .launch none → s.commandReady t c = true → ends .responseReturn (fun u => u.tasks = s.tasks) [(0, 4), (1, 0xFFFFFFFF)]) ∧
      (∀ w x, c = .tkill w → look s.tasks w.toNat = some x → x.st ≠ .ending → w.toNat ≠ s.taskOf (agentBlk t.who) →
        ∃ u y, exec .responseReturn s = .next u ∧ look u.tasks w.toNat = some y ∧ y.st = .ending ∧ u.mem = s.mem ∧
          y.killer = some (s.chipId, s.taskOf (agentBlk t.who), (look s.blocks (agentBlk t.who)).elim 0 (fun b => b.bid))) ∧
      (c = .fbstat → s.fab.cmds = [.counted id] → ends .responseReturn (fun u => u.fab = { s.fab with cmds := [] }) [(0, s.fab.word), (1, s.fab.locked.setWidth 32), (2, (s.fab.locked >>> 32).setWidth 32), (3, s.fab.plan.setWidth 32)])) ∧
    (s.arg = .pair 0 id →
      (∀ ptr n off x, c = .ofree ptr → s.route splitFuel (ptrId ptr) (ptrOff ptr) = .here n off x → look s.objs n = some x → x.closed = false → s.objWaits n .free = false → x.pins = 0 → birthOf n = s.chipId → s.mem.wf = true →
        ∃ u, exec .invalidationComplete s = .next u ∧ look u.objs n = none ∧ u.txn? id = none ∧ (∀ y, look s.granary n = some y → ∃ y', look u.granary n = some y' ∧ y'.st = 3) ∧
          (∀ a, n * 17179869184 ≤ a → a < (n + 1) * 17179869184 → u.mem.read a = 0) ∧ ∀ a, (a < n * 17179869184 ∨ (n + 1) * 17179869184 ≤ a) → u.mem.read a = s.mem.read a) ∧
      (∀ ptr w n off x, c = .oattr ptr w → s.route splitFuel (ptrId ptr) (ptrOff ptr) = .here n off x → look s.objs n = some x → x.closed = false → s.objWaits n (.attr w) = false →
        ((w ^^^ x.attrs) &&& 0x43#32 = 0 → ends .invalidationComplete (object n (fun y => y.attrs = w)) [(0, 0)]) ∧
        ((w ^^^ x.attrs) &&& 0x43#32 ≠ 0 → ends .invalidationComplete (object n (fun y => y.attrs = x.attrs)) [(0, 3)])))

/-! ### Frames (01 R34; 02 R41; 04 R101; 05 R124) -/

/-- 01 R34; 04 R101, R106: a lane instruction that writes registers only leaves everything as it was but the active lanes of its destination and that register's tag (a vote, its g register), and the program counters of its path; or it takes the trap of a failed check. -/
def Obligations.LaneFrames : Prop :=
  ∀ (s t : State) (i : Instr) (len : Nat) (m : Bool) (vs gs : List Nat) (k : GKey) (lanes : Mask) (pc : Word) (g : Group), s.pathIs k lanes pc g →
    s.laneDests i = some (len, m, vs, gs) → exec i s = .next t →
    (∃ e, t = s.raise e) ∨ s.pathWrote t k lanes g len m vs gs

/-- 05 R124 to R127: the same of a uniform instruction that writes g or e registers only, in a path of a group and in a sequencer. -/
def Obligations.UniformFrames : Prop :=
  ∀ (s t : State) (i : Instr) (len : Nat) (m : Bool) (gs : List Nat), uniformDests i = some (len, m, gs) → exec i s = .next t →
    (∃ e, t = s.raise e) ∨
    (∃ k lanes pc g, s.pathIs k lanes pc g ∧ s.pathWrote t k lanes g len m [] gs) ∨
    (∃ q e, s.cur = .seq q ∧ look s.seqs q = some e ∧ s.seqWrote t q e len m gs)

/-! ### Decoding and encoding (03) -/

/-- 02 R40; 03 R60, R61, R63, R78: words that the spec prints decode to the instructions it prints them for, one or more of each format; reserved ones do not decode. -/
def Obligations.PrintedWords : Prop :=
  let reads := fun (w0 w1 : Word) (i : Instr) => decodeWords w0 w1 = .ok i ∧ encode i = if twoWords w0 then [w0, w1] else [w0]
  reads 0x00050406 0 (.iadd false 5 4 6) ∧ reads 0x40050406 0 (.iadd true 5 4 6) ∧
  reads 0x800A0008 0 (.gmovi false 20 8) ∧ reads 0x8B000000 0 (.nop false) ∧ reads 0x8E000042 0 (.brk false 0x42) ∧
  reads 0x74040300 0x04242010 (.ld true 4 (.scaled 3 2) .relaxed .normal 8 .w32 .f32 16) ∧
  reads 0x30060405 0x86000400 (.ffma false 6 4 5 (.g 12) .rz) ∧
  reads 0x320C1000 0x00390003 (.pack4 false 12 16 .dt8x4 false .rn true) ∧
  reads 0x330A0300 0x94000802 (.shfldn false 10 3 (.g 40) .w8) ∧
  reads 0x38000310 0x044A3000 (.atom false none 3 16 (.cas .b128) .chip 8 0) ∧
  reads 0x3B021403 0x00000080 (.bspillz false 2 20 0x80) ∧
  reads 0xBC0F0000 0x12345678 (.gmovl false 30 0x12345678) ∧
  reads 0xB10A0003 0xFFFFFFEC (.loop false 20 0xFFFFFFEC) ∧
  reads 0xB206_0000 0x00020000 (.csrr false 12 .outs) ∧
  reads 0xB3000003 0x00001005 (.fence false .cmp .pod) ∧
  reads 0xB414_0233 0x060A6C04 (.gatom false 40 8 12 41 (.op .fadd .f32) .chip) ∧
  reads 0xB6040286 0x03801406 (.mdrain false 2 true 8 10 7 .e4m3x4) ∧
  reads 0xB7001000 0x00000801 (.wntopk false 2 64) ∧
  reads 0xB9140500 0x00000002 (.opin false 40 20) ∧
  reads 0xBA0F86C1 0x0E800002 (.patch false 31 27 29 1) ∧
  reads 0xBD000000 0 (.extensionWord false true 0x3D 0 0) ∧
  ∀ w ∈ [(0x95000000#32, 0#32), (0x3C000000, 0), (0x1C050107, 0), (0x30050406, 0x1B)], ∀ i, decodeWords w.1 w.2 ≠ .ok i

/-- 03 R60 to R64, R74, R75: decoding what encoding an instruction word gives is that instruction, at every value of every field that is well-formed, and the bytes that follow are left. -/
def Obligations.DecodeEncode : Prop :=
  ∀ (i : Instr) (rest : List Byte), i.wellFormed = true → i.toRaw ≠ none → decode (encodeBytes i ++ rest) = .ok (i, rest) ∧ (encodeBytes i).length = i.length

/-! ### The step -/

/-- 02 R49 to R51; 03 R62: a step runs the decoded instruction. The bytes of code at a program counter that decode to an instruction are fetched as it; with nothing arriving from outside, a step at an even clock in which one path issues is exec of its instruction as that path, with the path's issue noted and what follows every step; of a pair the loser runs first, then the winner, and both stand, or, where each would make the group wait in a way of its own, one alone, whose wait is then the group's (of two traps the winner's); a trap beside a fence, an MRDY or a WAITC follows that wait; a sequencer's step is exec of its instruction; an arrival's step is exec of it. (The turns by clock are the model's own: log entry 1.) -/
def Obligations.StepRuns : Prop :=
  (∀ (s : State) (blk : Nat) (pc : Word) (a : Nat) (i : Instr) (rest : List Byte), s.codeAt blk pc = some a → s.codeAt blk (pc + 4) = some (a + 4) →
    s.codeUnknown a = false → s.codeUnknown (a + 4) = false → s.poisonedAt a = false → s.poisonedAt (a + 4) = false →
    decode (s.mem.bytes a 8) = .ok (i, rest) → s.fetch blk pc = .ok i) ∧
  (∀ (s : State) (u : Nat) (k : GKey) (p : PathOf) (i : Instr), s.agenda = [] → s.phase = .up → s.clock % 2 = 0 → s.nextPick = some (.one u k p) → s.fetch k.blk p.pc = .ok i →
    step s = thenTidy (exec i ((s.noteIssue u k [p]).asPath k p))) ∧
  (∀ (s t x : State) (u : Nat) (k : GKey) (w l : PathOf) (i j : Instr), s.agenda = [] → s.phase = .up → s.clock % 2 = 0 → s.nextPick = some (.two u k w l) → s.fetch k.blk l.pc = .ok j →
    exec j (((s.noteIssue u k [w, l]).takeView k).asPath k l) = .next t → ({ t with freeCtr := t.freeCtr + 1 } : State).fetch k.blk w.pc = .ok i →
    exec i (({ t with freeCtr := t.freeCtr + 1 } : State).asPath k w) = .next x →
    let alone := (s.noteIssue u k [w, l]).takeView k
    (∀ y r, pairEnd (t.groupWait k) (x.groupWait k) = .trapAfter y r → step s = .next ((x.onGroup k (fun g => { g with wait := y, owedTrap := some r })).endPair k).tidy) ∧
    (∀ i' y, pairEnd (t.groupWait k) (x.groupWait k) = .winnerAlone → alone.fetch k.blk w.pc = .ok i' → exec i' (alone.asPath k w) = .next y → step s = .next (y.endPair k).tidy) ∧
    (pairEnd (t.groupWait k) (x.groupWait k) = .both → step s = .next (x.endPair k).tidy) ∧
    (pairEnd (t.groupWait k) (x.groupWait k) = .loserAlone → step s = .next (t.endPair k).tidy) ∧
    (∀ lanes, pairEnd (t.groupWait k) (x.groupWait k) = .bothThen lanes → step s = .next ((x.onGroup k (fun g => { g with owed := some lanes })).endPair k).tidy)) ∧
  (∀ (s : State) (u : Nat) (q : QKey) (e : Sequencer) (i : Instr), s.agenda = [] → s.phase = .up → s.clock % 2 = 0 → s.nextPick = some (.seq u q) → look s.seqs q = some e → s.fetch q.sg.blk e.pc = .ok i →
    step s = thenTidy (exec i (({ s with lastSlot := u, cur := .seq q }).onTask (s.taskOf q.sg.blk) (fun x => { x with lastProgress := s.ptime })))) ∧
  (∀ (s : State) (i : Instr) (a : StepArg) (rest : List (Instr × StepArg)), s.agenda = (i, a) :: rest → step s = thenTidy (exec i { s with agenda := rest, cur := .idle, arg := a }))

/-- Every step keeps the invariant of a run: object memory, every scratchpad and the routing-table buffer stay in canonical form, and between two steps no instruction is under way. -/
def Obligations.StepKeepsInv : Prop := ∀ (s t : State), s.Inv → step s = .next t → t.Inv

/-- 17 R411; 16 R394; 15 R344: the machine after reset meets the invariant; no object, no task, no event and no routing table exist, every chip's serials begin at 1, the fabric is in RESET and HOSTCTL holds 2. (The values of what 17 R411 does not name, and the firmware's registers, are the model's: log entries 6 and 30.) -/
def Obligations.ResetState : Prop :=
  State.reset.Inv ∧ State.reset.groups = [] ∧ State.reset.tasks = [] ∧ State.reset.objs = [] ∧ State.reset.granary = [] ∧ State.reset.events = [] ∧ State.reset.nextSeq = 0 ∧
  State.reset.nextSerial = 1 ∧ State.reset.ptime = 0 ∧ State.reset.fab.st = .reset ∧ State.reset.fab.live = none ∧ State.reset.fab.locked = 0 ∧ State.reset.host.hostctl = 2 ∧
  State.reset.migratePolicy = 0 ∧ State.reset.stubIdle = 100000 ∧ State.reset.pinGrace = 200 ∧ (∀ a, State.reset.mem.read a = 0) ∧ (∀ q, q < 64 → (State.reset.qp q).st = 0)

/-- 09 R257; 02 R46: pod time never runs back but at a reset, and only a MGMT_WRITE message or a reset changes MIGRATE_POLICY, STUB_IDLE or PIN_GRACE: no instruction of a kernel, no engine and no packet does. -/
def Obligations.PodTimeAndFirmware : Prop :=
  ∀ (s t : State), s.Inv → step s = .next t →
    (∀ e ∈ s.agenda.head?, e.1 ≠ .reset ∧ e.1 ≠ .coldReset ∧ e.1 ≠ .thermalTrip) →
    s.ptime ≤ t.ptime ∧ t.clock = s.clock + 1 ∧
    ((∀ e ∈ s.agenda.head?, e.1 ≠ .mgmtWrite ∧ e.1 ≠ .planctlGo ∧ e.1 ≠ .qpConnect ∧ e.1 ≠ .qpEnd) →
      t.migratePolicy = s.migratePolicy ∧ t.stubIdle = s.stubIdle ∧ t.pinGrace = s.pinGrace)

/-! ### Objects and the fabric (15; 16) -/

/-- 07 R190, R223; 15 R353 to R359, R362, R363, R365: OMOVE and OINV as they issue; a move that is refused or goes nowhere; the end of an invalidation, whether its uses have ended, here and at every other chip of the group (that these are asked by packets is the model's: log entry 36), or its grace has; the passes of a migration and its cut-over; the halving of the affinity counts; the gleaner. -/
def Obligations.ObjectMoves : Prop :=
  (∀ (s : State) (m : Bool) (k : BitVec 4) (ga gb : BitVec 9),
    let p := s.readPair 0 ga.toNat
    let c := s.readU 1 gb.toNat
    let o := s.nextOp % 4294967296
    let started := fun (kind : OpKind) => (s.newOp kind false).1.writeH k.toNat (.names o)
    s.busyHandle k.toNat = none → s.unreachable (ptrId p) = false →
    (s.uniReady .group true [ga.toNat, ga.toNat + 1, gb.toNat] [ga.toNat, ga.toNat + 1, gb.toNat] = true → (c.toNat ≤ 4095 → s.validChip c.toNat = true) →
      exec (.omove m k ga gb) s = .next (((started (.omove (ptrId p) c)).objGo (.op o) p (.move c)).finish m 8) ∧
      (∀ n off d, s.route splitFuel (ptrId p) (ptrOff p) = .here n off d → look s.objs n = some d → d.closed = false →
        (s.moveRefused n = true → ∃ t op, exec (.omove m k ga gb) s = .next t ∧ look t.ops o = some op ∧ op.st = .failed 3 false ∧ t.objs = s.objs ∧ t.mem = s.mem) ∧
        (s.moveRefused n = false → s.moveWaits n = false → c.toNat = s.chipId → c.toNat ≤ 4095 → ∃ t op, exec (.omove m k ga gb) s = .next t ∧ look t.ops o = some op ∧ op.st = .done ∧ t.objs = s.objs ∧ t.mem = s.mem))) ∧
    (s.uniReady .group true [ga.toNat, ga.toNat + 1] [ga.toNat, ga.toNat + 1] = true →
      ∀ n off d, s.route splitFuel (ptrId p) (ptrOff p) = .here n off d → look s.objs n = some d → d.closed = false →
        (d.pins = 0 → exec (.oinv m k ga) s = .next ((started (.oinv n)).finish m 8)) ∧
        (0 < d.pins → s.objWaits n .inval = false →
          ∃ t d' op, exec (.oinv m k ga) s = .next t ∧ look t.objs n = some d' ∧ d'.pins = d.pins ∧
            d'.inv = some { deadline := s.ptime + s.pinGrace.toNat * 1000, asker := .op o, free := false, before := s.nextOp + 1, asked := s.otherChips.length } ∧ look t.ops o = some op ∧ op.st = .pending))) ∧
  (∀ (s : State) (n : Nat) (d : Desc) (i : Inval) (o : Nat) (op : Op), s.arg = .num n → look s.objs n = some d → d.inv = some i → i.free = false → i.asker = .op o → look s.ops o = some op →
    op.st = .pending → op.acks = 0 → op.asker = none →
    (s.inUse n = false → s.quiet n = true → i.asked = 0 → ∃ t d' op', exec .oinvComplete s = .next t ∧ look t.objs n = some d' ∧ d'.pins = 0 ∧ d'.inv = none ∧ look t.ops o = some op' ∧ op'.st = .done ∧ t.mem = s.mem) ∧
    (s.inUse n = true ∨ s.quiet n = false ∨ i.asked ≠ 0 → exec .oinvComplete s = .next s) ∧
    (i.deadline ≤ s.ptime → ∃ t d', exec .pinGraceExpiry s = .next t ∧ look t.objs n = some d' ∧ d'.pins = 0 ∧ d'.inv = none) ∧
    (s.ptime < i.deadline → exec .pinGraceExpiry s = .next s)) ∧
  (∀ (s : State) (lead : Nat) (m : Migration), s.arg = .num lead → s.leads lead = some m →
    let now := fun (t : State) (x : Nat) (f : Migration → Prop) => ∃ d y, look t.objs x = some d ∧ d.mig = some y ∧ f y
    (s.passOver lead = false → exec .migrationPassEnd s = .next s) ∧
    (s.passOver lead = true → s.dirtyCount lead ≤ 16 → (∃ x ∈ s.moving lead, s.running x = true) → exec .migrationPassEnd s = .next s) ∧
    (s.passOver lead = true → s.dirtyCount lead ≤ 16 → (∀ x ∈ s.moving lead, s.running x = false) →
      ∃ t, exec .migrationPassEnd s = .next t ∧ t.mem = s.mem ∧ ∀ x ∈ s.moving lead, now t x (fun y => y.stage = .draining ∧ y.cutting = true)) ∧
    (s.passOver lead = true → 16 < s.dirtyCount lead → m.pass < 8 →
      ∃ t, exec .migrationPassEnd s = .next t ∧ t.mem = s.mem ∧ ∀ x ∈ s.moving lead, now t x (fun y => y.stage = .bulk ∧ y.dirty = [])) ∧
    (s.passOver lead = true → 16 < s.dirtyCount lead → 8 ≤ m.pass →
      ∃ t, exec .migrationPassEnd s = .next t ∧ t.mem = s.mem ∧ ∀ x ∈ s.moving lead, ∃ d, look t.objs x = some d ∧ d.mig = none) ∧
    (s.cutMay lead = false → exec .cutOverDrained s = .next s) ∧
    (m.stage = .draining → s.cutMay lead = true →
      ∃ t, exec .cutOverDrained s = .next t ∧ t.mem = s.mem ∧ now t lead (fun y => y.stage = .finalCopy ∧ y.dirty = []))) ∧
  (∀ (s : State),
    (s.halvedAt + 16777216 ≤ s.ptime → ∃ t, exec .affinityHalving s = .next t ∧ t.halvedAt = s.halvedAt + 16777216 ∧ t.mem = s.mem ∧
      ∀ id d, look s.objs id = some d → ∃ d', look t.objs id = some d' ∧ d'.localCount = d.localCount / 2 ∧ d'.slots = d.slots.map (fun x => (x.1, x.2 / 2))) ∧
    (s.ptime < s.halvedAt + 16777216 → exec .affinityHalving s = .next s)) ∧
  (∀ (s : State) (id : Nat) (x : Stub), s.arg = .num id → look s.stubs id = some x →
    (s.ptime < x.used + s.stubIdle.toNat * 1000 → exec .gleanerVisit s = .next s) ∧
    (x.used + s.stubIdle.toNat * 1000 ≤ s.ptime → x.confirming = false → birthOf id = s.chipId → ∀ e, look s.granary id = some e → x.epoch ≤ e.epoch →
      ∃ t, exec .gleanerVisit s = .next t ∧ look t.stubs id = none ∧ t.objs = s.objs ∧ t.mem = s.mem))

/-- 07 R221; 16 R388 to R392, R394, R395: the fabric controller. Its commands need the grant, else PRIV, and a state that allows them, else their operation fails with 0x14. FBDRAIN drains and marks every locked port; FBDARK keeps the ports of KEEP; FBRELOCK opens the exchange of plan ids; FBOPEN makes the staged table live. A command finds none before it at the controller. The steps that end a drain and a lock, and the SYNC flits of the exchange: once the pod times of every chip of the staged table's group are covered, this chip steps forward to the largest, and once every chip has stepped, the lock completes. (That SYNC flits carry the sets of chips that are covered and that have stepped, and that FBRELOCK takes the lock from the ports of its mask, is the model's: log entry 22.) -/
def Obligations.FabricController : Prop :=
  (∀ (s : State) (m : Bool) (k : BitVec 4) (ga : BitVec 9),
    let P := s.block ga.toNat
    let o := s.nextOp % 4294967296
    let none_ := s.uniReady .any true [] [] = true
    let block := s.uniReady .any true (regs ga.toNat 16) (regs ga.toNat 16) = true
    let fails := fun (i : Instr) => ∃ t op, exec i s = .next t ∧ look t.ops o = some op ∧ op.st = .failed 0x14 false ∧ t.fab = s.fab ∧ t.mem = s.mem
    let goes := fun (i : Instr) (f : Fabric → Prop) => ∃ t, exec i s = .next t ∧ f t.fab ∧ t.mem = s.mem
    let staged := s.fab.staged.elim False (fun x => x.plan.toNat = pw P 2)
    (none_ → s.grantExc ≠ none → ∀ i ∈ [Instr.fbdrain m k, Instr.fbopen m k], exec i s = .next (s.raise (.of .priv))) ∧
    (block → s.grantExc ≠ none → ∀ i ∈ [Instr.fbdark m k ga, Instr.fbrelock m k ga], exec i s = .next (s.raise (.of .priv))) ∧
    (s.grantExc = none → s.busyHandle k.toNat = none → s.fab.cmds = [] →
      (none_ → (s.fab.st = .opened → goes (.fbdrain m k) (fun f => f.st = .draining ∧ f.markers = portList s.fab.locked ∧ f.ops = [o])) ∧ (s.fab.st ≠ .opened → fails (.fbdrain m k))) ∧
      (none_ → (s.fab.st = .locked → goes (.fbopen m k) (fun f => f.st = .opened ∧ f.live = s.fab.staged ∧ f.staged = none)) ∧ (s.fab.st ≠ .locked → fails (.fbopen m k))) ∧
      (block → (∀ i ∈ regs 2 14, pw P i = 0) →
        (s.fab.st = .drained → goes (.fbdark m k ga) (fun f => f.st = .dark ∧ f.keep.toNat = pd P 0 ∧ ∀ e ∈ f.credits, f.keep.getLsbD e.1.1 = true)) ∧
        (s.fab.st ≠ .drained → fails (.fbdark m k ga))) ∧
      (block → (∀ i ∈ regs 3 13, pw P i = 0) → pw P 2 < 65536 →
        ((s.fab.st = .dark ∨ s.fab.st = .lockfail) → staged → goes (.fbrelock m k ga) (fun f => f.st = .locking ∧ f.ops = [o] ∧
          (BitVec.ofNat 64 (pd P 0) ≠ 0 →
            f.relock = some { mask := BitVec.ofNat 64 (pd P 0), done := 0, plan := BitVec.ofNat 16 (pw P 2), deadline := s.ptime + 1000000, lead := 0, known := chipSet [s.chipId], moved := 0 }) ∧ ∀ port, (BitVec.ofNat 64 (pd P 0)).getLsbD port = true → f.locked.getLsbD port = false)) ∧
        ((s.fab.st ≠ .dark ∧ s.fab.st ≠ .lockfail ∨ ¬staged) → fails (.fbrelock m k ga))))) ∧
  (∀ (s : State),
    (s.drainOver = true → ∃ t, exec .fbdrainDone s = .next t ∧ t.fab.st = .drained ∧ t.fab.ops = [] ∧ t.mem = s.mem) ∧ (s.drainOver = false → exec .fbdrainDone s = .next s) ∧
    (∀ r, s.fab.st = .locking → s.fab.relock = some r →
      (s.fab.agreed r = true → ∃ t, exec .relockComplete s = .next t ∧ t.fab.st = .locked ∧ t.fab.relock = none ∧ t.ptime = s.ptime ∧ t.mem = s.mem) ∧
      (s.fab.agreed r = false → exec .relockComplete s = .next s) ∧
      (r.done ≠ r.mask → r.deadline ≤ s.ptime →
        ∃ t, exec .lockTimeout s = .next t ∧ t.fab.st = .lockfail ∧ t.fab.failPorts = (portList (r.mask &&& ~~~r.done)).length ∧ t.fab.relock = none ∧ t.mem = s.mem) ∧
      (r.done = r.mask ∨ s.ptime < r.deadline → exec .lockTimeout s = .next s) ∧
      (∀ port p plan time fresh known moved, s.arg = .packet port p → p.type = .sync → p.body = .sync plan time fresh known moved → r.mask.getLsbD port.toNat = true →
        let r1 := { r with done := r.done ||| (1#64 <<< port.toNat), lead := max r.lead (time.toNat - s.ptime), known := r.known ||| known, moved := r.moved ||| moved }
        let self := chipSet [s.chipId]
        let steps := r1.done = r1.mask ∧ covers r1.known (groupOf s.fab.staged) = true ∧ (0 < r1.lead ∨ covers r1.moved self = false)
        (plan = r.plan → ∃ t, exec .syncFlit s = .next t ∧ t.fab.st = .locking ∧ t.fab.locked.getLsbD port.toNat = true ∧ t.mem = s.mem ∧
          (¬steps → t.fab.relock = some r1 ∧ t.ptime = s.ptime) ∧
          (steps → t.fab.relock = some { r1 with lead := 0, moved := r1.moved ||| self } ∧ t.ptime = s.ptime + r1.lead)) ∧
        (plan ≠ r.plan → ∃ t, exec .syncFlit s = .next t ∧ t.fab.st = .lockfail ∧ t.fab.relock = none ∧ t.mem = s.mem))))

/-- 07 R190, R222; 16 R380, R385, R386, R389, R393; 17 R401: RSEND and RFETCH start a PENDING operation with the values of their block; a neighbour's MARKER that comes in its turn goes back, this chip's own leaves the list; CREDIT adds flit credits, and one for a packet confirms it (that packets are numbered on a link, and that a CREDIT confirms, is the model's: log entry 25); a replay request counts in the port's log and sends its packets again; a circuit switch unlocks its port. -/
def Obligations.TransfersAndLinks : Prop :=
  (∀ (s : State) (m : Bool) (k : BitVec 4) (ga : BitVec 9),
    let P := s.block ga.toNat
    let scr := pf P 0 31 30 == 1
    let src := if scr then pw P 2 else pd P 2
    let zero := fun (l : List Nat) => ∀ i ∈ l, pw P i = 0
    let starts := fun (i : Instr) (kind : OpKind) => exec i s = .next (((s.newOp kind false).1.writeH k.toNat (.names (s.nextOp % 4294967296))).finish m 8)
    s.uniReady .any true (regs ga.toNat 16) (regs ga.toNat 16) = true → s.busyHandle k.toNat = none → pf P 0 25 0 = 0 → 1 ≤ pw P 4 → pw P 4 ≤ 16777216 →
    (pf P 0 31 30 ≤ 1 → zero [1, 10, 11, 12, 13, 14, 15] → (scr = true → pw P 3 = 0 ∧ src + pw P 4 ≤ s.scrSize s.curBlk) → (scr = false → s.unreachable (ptrId src) = false) →
      pw P 5 < 4096 → pw P 6 < 4096 → pw P 9 < 4 → s.validChip (pw P 5) = true →
      starts (.rsend m k ga) (.transfer { fetch := false, sg := s.curSeg, scratch := scr, addr := src, bytes := pw P 4, chip := pw P 5, task := pw P 6, block := pw P 7, seg := pw P 9
                                          ac := pf P 0 29 26, offset := pw P 8, sentTo := 0, waiting := 0 })) ∧
    (pf P 0 31 30 = 1 → zero [1, 2, 3, 5, 12, 13, 14, 15] → pw P 6 < 4096 → pw P 9 < 4 → s.unreachable (ptrId (pd P 10)) = false →
      starts (.rfetch m k ga) (.transfer { fetch := true, sg := s.curSeg, scratch := true, addr := pd P 10, bytes := pw P 4, chip := 0, task := s.taskOf s.curBlk, block := s.curBid, seg := s.curSeg.seg
                                           ac := pf P 0 29 26, offset := pw P 8, sentTo := 0, waiting := 0 }))) ∧
  (∀ (s : State) (port : BitVec 6) (p : Packet), s.arg = .packet port p → s.fab.planOk p = true → p.link = (look s.fab.linkIn port.toNat).getD 0 →
    let s1 := s.onFab (fun f => { f with linkIn := put f.linkIn port.toNat (p.link + 1), asks := without f.asks port.toNat })
    (p.type = .marker → p.body = .marker true → exec .marker s = .next (s1.onFab (fun f => { f with markers := without f.markers port.toNat }))) ∧
    (p.type = .marker → p.body = .marker false → exec .marker s = .next (s1.enqueue (s1.onPort .marker port.toNat (.marker true)))) ∧
    (∀ vc lane n confirms, p.type = .credit → p.body = .credit vc lane n confirms →
      ∃ t, exec .credit s = .next t ∧ (look t.fab.credits (port.toNat, vc, lane)).getD 0 = (look s.fab.credits (port.toNat, vc, lane)).getD 0 + n ∧ t.mem = s.mem ∧
        (confirms = true → look t.fab.fails port.toNat = none) ∧ (confirms = false → t.fab.fails = s.fab.fails ∧ t.fab.replay = s.fab.replay))) ∧
  (∀ (s : State) (port : Nat), s.arg = .num port →
    let n := (look s.fab.fails port).getD 0 + 1
    let mine := s.fab.replay.filter (fun e => e.1 == port)
    ∃ t e, exec .replayRequest s = .next t ∧ look t.host.log (1056 + port) = some e ∧ e.replay = satInc ((look s.host.log (1056 + port)).getD ErrorLog.zero).replay ∧ t.mem = s.mem ∧
      (n ≤ 8 → t.fab.sent = s.fab.sent ++ mine ∧ look t.fab.fails port = some n ∧ t.fab.locked = s.fab.locked) ∧
      (8 < n → t.fab.locked = s.fab.locked &&& ~~~(1#64 <<< port) ∧ look t.fab.fails port = none ∧ t.fab.sent = s.fab.sent)) ∧
  (∀ (s : State) (port : BitVec 6) (peer : Option (BitVec 12 × BitVec 16)), s.arg = .circuit port peer →
    ∃ t, exec .circuitSwitchChange s = .next t ∧ t.fab.locked.getLsbD port.toNat = false ∧ (∀ e ∈ t.fab.sent, e.1 ≠ port.toNat) ∧ (∀ e ∈ t.fab.replay, e.1 ≠ port.toNat) ∧
      (∀ e ∈ t.fab.credits, e.1.1 ≠ port.toNat) ∧ t.mem = s.mem)

/-- 09 R269; 15 R348, R360; 16 R375, R381, R385, R386; 17 R400, R401: packets. Of a port's packets one that has come before is dropped, and one that comes after a gap is not taken (log entry 25); one that carries neither plan id is discarded; one for another chip goes on; one out of its order is held, or dropped where its turn has passed (requests that a chip sends on are exempt: the model's choice, log entry 17). At its home, and in an M frame at its channel, a READ answers with the bytes, a WRITE stores those of its mask, an ATOMIC answers with the old value and stores the new, a FETCH answers with one BULK packet, an OBJECT request acts on the object. (The words of an answer beside these, among them the bytes that exist and the attributes in a READ's, the completion time in a WRITE's and an ATOMIC's and the status numbers, are the model's layout: log entries 24 and 49.) A RESPONSE and a BULK_ACK complete what waits for them; a BULK packet lands in its block's scratchpad and adds its count to the counter. -/
def Obligations.Packets : Prop :=
  (∀ (s : State) (port : BitVec 6) (p : Packet), s.arg = .packet port p →
    let want := (look s.fab.linkIn port.toNat).getD 0
    let s1 := s.onFab (fun f => { f with linkIn := put f.linkIn port.toNat (want + 1), asks := without f.asks port.toNat })
    let turn := (look s.fab.ordIn (p.src.toNat, vcOf p.type)).getD 0
    (p.type ≠ .sync → p.link < want → exec (packetStep p.type) s = .next s) ∧
    (p.type ≠ .sync → want < p.link → exec (packetStep p.type) s = .next (s.onFab (fun f => { f with asks := addTo f.asks port.toNat }))) ∧
    (p.type ≠ .sync → p.link = want → s.fab.planOk p = false → exec (packetStep p.type) s = .next (s1.onFab (fun f => { f with discarded := f.discarded + 1 }))) ∧
    (vcOf p.type ≠ 0 → p.link = want → s.fab.planOk p = true → s.fab.waiting = [] → s.hold.length ≤ Config.holdQueue →
      (p.dst.toNat ≠ s.chipId → exec (packetStep p.type) s = .next ((s1.giveCredit port p).enqueue p)) ∧
      (p.dst.toNat = s.chipId → vcOf p.type ≠ 3 → p.onward = false → p.ord.toNat ≠ turn →
        ((p.ord.toNat + 65536 - turn) % 65536 < 32768 → exec (packetStep p.type) s = .next ((s1.giveCredit port p).onFab (fun f => { f with early := f.early ++ [p] }))) ∧
        (32768 ≤ (p.ord.toNat + 65536 - turn) % 65536 → exec (packetStep p.type) s = .next (s1.giveCredit port p))))) ∧
  (∀ (s : State) (p : Packet) (ptr : Dword) (d : Desc), s.memOk = true → s.arg = .again p →
    let id := ptrId ptr.toNat
    let off := ptrOff ptr.toNat
    let a := flat id off
    let sends := fun (t : State) (r : Packet) => (p.src.toNat, r) ∈ t.fab.queue ∨ (packetStep r.type, StepArg.again r) ∈ t.agenda
    let answers := fun (t : State) (vals : List Word) (data : List Byte) => ∃ r, sends t r ∧ r.tag = p.tag ∧ r.body = .response 0 id s.chipId d.epoch vals ∧ r.payload = data
    let performs := fun (f : State → Prop) =>
      (attrM d.attrs = false → ∃ t, exec (packetStep p.type) s = .next t ∧ f t) ∧
      (attrM d.attrs = true → exec (packetStep p.type) s = .next (s.arriveRow (.request 0 p (rowOf d off))) ∧ f (s.burst (.request 0 p (rowOf d off))))
    look s.objs id = some d → d.split = none → d.closed = false → off < d.len → s.fab.waiting = [] → s.hold.length ≤ Config.holdQueue →
    (∀ n q, p.type = .read → p.body = .read ptr n q → q.kind = .data → 1 ≤ n → off + n ≤ d.len → attrR d.attrs = true → (∀ x ∈ sectorsOf [(a, n)], s.poisonedSector x = false) →
      performs (fun t => answers t [BitVec.ofNat 32 n, d.attrs] (s.bytesAt a n) ∧ t.mem = s.mem)) ∧
    (∀ n q, p.type = .read → p.body = .read ptr n q → q.kind = .probe →
      ∃ t, exec .readPacket s = .next t ∧ answers t [BitVec.ofNat 32 (min n (d.len - off)), d.attrs] [] ∧ t.mem = s.mem) ∧
    (∀ mask x, p.type = .write → p.body = .write ptr mask x → (x.kind ≠ .copy ∨ attrX d.attrs = false) → (∀ i, i < 128 → mask.getLsbD i = true → off + i < d.len) → attrW d.attrs = true → s.lineHeld (a / 128) = false →
      performs (fun t => answers t (timeWords (s.gwctOf d (a / 128))) [] ∧
        (∀ i, i < 128 → mask.getLsbD i = true → t.mem.read (a + i) = p.payload.getD i 0) ∧ ∀ x, (∀ i, i < 128 → mask.getLsbD i = true → x ≠ a + i) → t.mem.read x = s.mem.read x)) ∧
    (∀ r kind y ops, p.type = .atomic → p.body = .atomic ptr r kind y ops → d.fault ⟨true, true⟩ off r.bytes = 0 → (p.src.toNat = s.chipId ∧ kind ≠ .red ∨ attrM d.attrs = true) → s.poisonedAt a = false →
      s.lineHeld (a / 128) = false →
      let old := natLE (s.bytesAt a r.bytes)
      performs (fun t => t.mem = s.mem.cells ((regs a r.bytes).zip (bytesLE r.bytes (rmwNew r old ops))) ∧
        answers t (timeWords (s.gwctOf d (a / 128))) (bytesLE r.bytes old))) ∧
    (∀ n task block seg ac dst, p.type = .fetch → p.body = .fetch ptr n task block seg ac dst → d.fault ⟨true, false⟩ off n = 0 → (∀ x ∈ sectorsOf [(a, n)], s.poisonedSector x = false) →
      performs (fun t => t.mem = s.mem ∧ ∃ r, sends t r ∧ r.tag = p.tag ∧ r.type = .bulk ∧ r.body = .bulk true task block seg ac dst ∧ r.payload = s.bytesAt a n)) ∧
    (p.type = .object → p.body = .object ptr .pin → d.mig = none → d.pins < 65535 →
      ∃ t d', exec .objectPacket s = .next t ∧ look t.objs id = some d' ∧ d'.pins = d.pins + 1 ∧ answers t [] [] ∧ t.mem = s.mem)) ∧
  (∀ (s : State) (p : Packet), s.arg = .again p →
    (∀ id chip epoch vals, p.type = .response → p.body = .response 256 id chip epoch vals → exec .responsePacket s = .next { s with locator := del s.locator id }) ∧
    (∀ o op x dst, look s.ops o = some op → op.kind = .transfer x → op.st = .pending → op.acks = 0 → op.outcome = none → x.waiting = 1 → x.sentTo = x.bytes →
      s.fab.replies.find? (fun r => r.1 == p.tag.toNat) = some (p.tag.toNat, dst, .transfer o) →
      (∀ id chip epoch, p.type = .response → p.body = .response 8 id chip epoch [] → ∃ t op', exec .responsePacket s = .next t ∧ look t.ops o = some op' ∧ op'.st = .failed 8 false ∧ t.mem = s.mem) ∧
      (p.type = .bulkAck → p.body = .ack 0 → ∃ t op', exec .bulkAck s = .next t ∧ look t.ops o = some op' ∧ op'.st = .done ∧ t.mem = s.mem)) ∧
    (∀ task block seg ac off b blk g, p.type = .bulk → p.body = .bulk false task block seg ac off → s.memOk = true → s.blockOf task block = some b → look s.blocks b = some blk →
      look s.segs ⟨b, seg⟩ = some g → off + p.payload.length ≤ blk.scr → g.tileHas off p.payload.length [.filling, .draining] = false → ac < blk.acs.length →
      ∃ t g' blk', exec .bulkPacket s = .next t ∧ look t.segs ⟨b, seg⟩ = some g' ∧ look t.blocks b = some blk' ∧ t.mem = s.mem ∧
        (∀ i, i < p.payload.length → g'.scratch.read (off + i) = p.payload.getD i 0) ∧ (∀ x, x < off ∨ off + p.payload.length ≤ x → g'.scratch.read x = g.scratch.read x) ∧
        (blk'.ac ac).count = (blk.ac ac).count + BitVec.ofNat 32 p.payload.length ∧ (blk'.ac ac).target = (blk.ac ac).target))

/-! ### Threads, blocks and tasks (07 R224 to R227; 08; 14) -/

/-- 07 R224, R226, R227; 08 R234, R236, R237, R240 to R245: FORK gives every sequencer of the block its registers and starts its program; SPAWNQ reads the waiting threads and the budget left; REGROUP drains, waits for the block's other groups and moves the threads in ascending order of their key, and the groups go on when the move is complete; a sheaf starts from the oldest records of a class; a parked group gives its place to a ready one, and one that has been ready for 256 clocks is promoted. The model's own: SHEAF_START forms one group a step and SPAWNQ counts the whole block (log entry 44, DEDUCED); a floor is the chip clock of an instant (log entry 13). -/
def Obligations.ThreadsAndSlots : Prop :=
  (∀ (s : State) (m dsp : Bool) (gd ga : BitVec 9) (key : BitVec 8) (k : GKey) (lanes : Mask) (pc : Word) (g : Group), s.pathIs k lanes pc g →
    (∀ b, look s.blocks k.blk = some b → s.uniReady .producer true (regs ga.toNat 16) (regs ga.toNat 16) = true → s.unjoined = false →
      exec (.fork m ga) s = .next ((s.forkBlock k.blk (s.block ga.toNat)).finish m 8) ∧
      ∀ q e, (q, e) ∈ s.seqs → q.sg.blk = k.blk → ∃ e', (q, e') ∈ ((s.forkBlock k.blk (s.block ga.toNat)).finish m 8).seqs ∧
        e'.e = s.block ga.toNat ++ List.replicate 47 0 ++ [BitVec.ofNat 32 q.sg.seg] ∧ ∀ pc', (if q.kind = .msq then b.msq else b.cst) = some pc' → e'.running = true ∧ e'.halted = false ∧ e'.pc = pc') ∧
    (s.uniReady .group true [gd.toNat] [] = true → exec (.spawnq m gd) s = .next ((s.writeU gd.toNat (s.spawnWord k.blk)).finish m 8)) ∧
    (let mask := s.readPair 0 ga.toNat
     let kn := key.toNat
     let names := (if dsp then [gd.toNat] else []) ++ [ga.toNat, ga.toNat + 1]
     let keys := if dsp then regs kn 3 else [kn]
     s.uniReady .group true names [ga.toNat, ga.toNat + 1] = true → kn < s.vLimit → mask / 2 ^ s.vLimit = 0 → (∀ j ∈ keys, (dsp = true → mask / 2 ^ j % 2 = 1) ∧ s.tagOf j ≠ .poison) → g.live &&& ~~~lanes = 0 →
     (s.drained = false → exec (.regroup m dsp gd ga key) s = .next s.drain) ∧
     (s.drained = true → exec (.regroup m dsp gd ga key) s = .next (s.settleCur.arriveRegroup k (.regroup lanes pc mask kn dsp gd.toNat m) pc mask kn)) ∧
     (s.drained = true → dsp = false → s.aliveGroups k.blk = [(k, g)] → g.wait = .none → g.clobV = [] → (∀ e ∈ s.segs, e.1.blk = k.blk → e.2.spawn = []) → mask / 2 ^ kn % 2 = 1 → kn < g.v.length → kn < 64 →
       let word := fun (x : Group) (l : Nat) => (x.v.getD kn VReg.zero).lanes.getD l 0
       let n := (lanesOf g.live).length
       ∃ t g', exec (.regroup m dsp gd ga key) s = .next t ∧ look t.groups k = some g' ∧ g'.wait = .moving ∧ t.mem = s.mem ∧
         ((List.range n).map (word g')).Perm ((lanesOf g.live).map (word g)) ∧ ((List.range n).map (fun l => (word g' l).toNat)).Pairwise (· ≤ ·) ∧
         (∀ l, l < n → (g'.lane l).st = .live ∧ (g'.lane l).pc = pc + 8) ∧ ∀ l, n ≤ l → (g'.lane l).st = .exited))) ∧
  (∀ (s : State) (k : GKey) (g : Group), s.arg = .num k.blk → look s.groups k = some g → k.gid < 64 → g.ended = false → g.wait = .moving → g.live ≠ 0 →
    ∃ t g', exec .regroupMoveComplete s = .next t ∧ look t.groups k = some g' ∧ g'.wait = .none ∧ g'.floor = s.clock ∧ g'.lanes = g.lanes ∧ t.mem = s.mem ∧
      g'.gwct = maxOf (((s.aliveGroups k.blk).filter (fun e => e.2.wait == .moving)).map (fun e => e.2.gwct))) ∧
  (∀ (s : State) (sg : SKey) (b : Block), s.arg = .seg sg → s.blockRuns sg.blk = true → look s.blocks sg.blk = some b →
    ((s.freeGid sg = none ∨ s.nextSheaf sg false = []) → exec .sheafStart s = .next s) ∧
    (∀ n r rs, s.freeGid sg = some n → s.nextSheaf sg false = r :: rs → 0 < b.vregs →
      ∃ t g', exec .sheafStart s = .next t ∧ look t.groups ⟨sg.blk, n⟩ = some g' ∧ g'.wait = .none ∧ g'.outs = 0 ∧ g'.floor = s.clock ∧ g'.gwct = maxOf ((r :: rs).map (fun x => x.gwct)) ∧ t.mem = s.mem ∧
        ∀ i x, i < 32 → (r :: rs)[i]? = some x → (g'.lane i).st = .live ∧ (g'.lane i).pc = x.xpc ∧ (g'.lane i).ras = x.ras ∧ (g'.v.getD 0 VReg.zero).lanes.getD i 0 = x.thread)) ∧
  (∀ (s : State) (n : Nat) (x : Slot), s.arg = .num n → look s.slots n = some x →
    (x.active.length < 8 → x.pending ≠ [] → exec .groupExchange s = .next (s.fillSlot n)) ∧
    (8 ≤ x.active.length → ∀ a p, x.active.find? s.groupParked = some a → s.readyPending x = some p → exec .groupExchange s = .next (s.exchange n a p)) ∧
    (8 ≤ x.active.length → x.active.find? s.groupParked = none → exec .groupExchange s = .next s) ∧
    (∀ a r p, x.active = a :: r → x.pending.filter s.longReady = [p] → exec .pendingPromotion s = .next (s.exchange n a p)) ∧
    (x.pending.filter s.longReady = [] → exec .pendingPromotion s = .next s))

/-- 02 R41; 08 R229, R232, R233, R249, R250; 14 R317, R322, R327, R330 to R339: the scheduler. Placed blocks start with their groups at the entry; a task that ends leaves when nothing of it runs; victims stop issuing and are saved once quiet; a block whose groups all wait at WAITC swaps out for a waiter, is polled each 1,024 ns and comes back on its cores; a watchdog that is due traps every group of the task. The model's own: the groups of a watchdog trap where their lowest live path stands, those of a swapped-out block in its image (log entry 43); the cores of a cohort, and what a swap-out takes as waiting (log entry 41); the instants of polls and what a block that comes back resumes (log entry 42), all DEDUCED. -/
def Obligations.Scheduling : Prop :=
  (∀ (s : State) (i : Nat) (x : Task) (cluster : Nat) (cores : List Nat) (rest : List (Nat × List Nat)), s.nextAdmission = some (.start i ((cluster, cores) :: rest)) →
    look s.tasks i = some x → (∀ e ∈ s.blocks, e.1 < s.nextUid) →
    ∃ t x' b, exec .blockPlacement s = .next t ∧ look t.tasks i = some x' ∧ x'.st = .running ∧ x'.next = x.next + (rest.length + 1) ∧ x'.active = x.active + (rest.length + 1) ∧
      t.blocks.length = s.blocks.length + (rest.length + 1) ∧ look t.blocks s.nextUid = some b ∧ b.task = i ∧ b.bid = x.next ∧ b.cluster = cluster ∧ b.cores = cores ∧ t.mem = s.mem ∧
      ∀ n, n < x.g0 → ∃ g, look t.groups ⟨s.nextUid, n⟩ = some g ∧ ∀ l, l < 32 → (g.lane l).st = .live ∧ (g.lane l).pc = BitVec.ofNat 32 x.kernel.entry ∧
        (g.v.getD 0 VReg.zero).lanes.getD l 0 = BitVec.ofNat 32 (32 * n + l)) ∧
  (∀ (s : State) (i : Nat) (x : Task), s.arg = .num i → look s.tasks i = some x →
    (x.st = .ending → (∀ e ∈ s.blocks, e.2.task = i → s.blockQuiet e.1 = true) → s.taskOps i = false →
      ∃ t, exec .taskEndingComplete s = .next t ∧ look t.tasks i = none ∧ (∀ e ∈ t.blocks, e.2.task ≠ i) ∧ t.mem = s.mem ∧
        (s.pendingEvents = [] → s.events.length < 4096 → t.events = s.events ++ [{ x.lastEvent s.chipId i with ptime := s.ptime, seq := s.nextSeq }])) ∧
    (x.st ≠ .ending → exec .taskEndingComplete s = .next s) ∧
    (s.watchDue i x = false → exec .watchdog s = .next s) ∧
    (s.watchDue i x = true → ∃ t x', exec .watchdog s = .next t ∧ look t.tasks i = some x' ∧ x'.lastProgress = s.ptime ∧ t.mem = s.mem ∧
      ((s.blocks.map Prod.fst).Nodup → ∀ k g b vec, look s.groups k = some g → look s.blocks k.blk = some b → b.task = i → b.trapv = some vec → k.gid < 64 → g.ended = false → g.wait = .none → g.outs = 0 → g.deferred = [] → g.handler = none → g.region = none →
        ∃ g', look t.groups k = some g' ∧ g'.handler = some g.waitsAt.1 ∧ g'.fr0 = 0x1A000000 ∧ g'.fr1 = g.waitsAt.2 &&& 0xFFFFFFFC ∧ ∀ l, l < g.lanes.length → g.waitsAt.1.getLsbD l = true → (g'.lane l).pc = vec))) ∧
  (∀ (s : State), ∃ t, exec .preemption s = .next t ∧ t.mem = s.mem ∧ ∀ k b, k ∈ s.victims s.ordered → look s.blocks k = some b → ∃ b', look t.blocks k = some b' ∧ b'.stopping = true) ∧
  (∀ (s : State) (n : Nat) (b : Block) (x : Task), s.arg = .num n → look s.blocks n = some b → look s.tasks b.task = some x → x.st ≠ .ending →
    let out := fun (i : Instr) (swapped : Bool) => ∃ t b', exec i s = .next t ∧ look t.blocks n = some b' ∧ b'.saved = true ∧ b'.swapped = swapped ∧ b'.stopping = false ∧ t.mem = s.mem ∧
      ∀ e ∈ t.slots, ∀ k ∈ e.2.active ++ e.2.pending, k.blk ≠ n
    (b.stopping = true → s.blockQuiet n = true → out .saveComplete false) ∧
    (b.stopping = false ∨ s.blockQuiet n = false → exec .saveComplete s = .next s) ∧
    (x.coop = false → b.saved = false → b.stopping = false → s.allMonitors n = true → s.waiter b.prio = true → out .blockSwapOut true) ∧
    (s.waiter b.prio = false → exec .blockSwapOut s = .next s) ∧
    (b.swapped = true → b.polledAt + 1024 ≤ s.ptime → ∃ t b', exec .swappedBlockPoll s = .next t ∧ look t.blocks n = some b' ∧ b'.polledAt = s.ptime ∧ t.mem = s.mem) ∧
    ((b.swapped = false ∨ s.ptime < b.polledAt + 1024) → exec .swappedBlockPoll s = .next s)) ∧
  (∀ (s : State) (n cluster : Nat) (cores : List Nat) (b : Block), s.nextAdmission = some (.restore [n] [(cluster, cores)]) → look s.blocks n = some b →
    ∃ t b', exec .blockRestore s = .next t ∧ look t.blocks n = some b' ∧ b'.saved = false ∧ b'.swapped = false ∧ b'.cluster = cluster ∧ b'.cores = cores ∧ t.mem = s.mem)

/-! ### The host port (17) -/

/-- 14 R328, R340, R341; 17 R406, R407, R410, R411, R413: messages of the host. A task post is answered with its status and, accepted, writes its task; events go out in order, again after 100 µs, and leave when acknowledged; MGMT_READ answers with bytes of the space; MGMT_WRITE writes fields that are RW, refuses others with 3 and offsets outside the table with 4; GO brings the fabric up with the table in PLANBUF or says that it failed; ATTEST is answered with a quote that begins with its nonce. A post that comes while another waits for bytes of another chip waits behind it. A message that is not the host's does nothing. The model's own: a post before the first OPEN is answered STATE before its record is looked at, and the numbers that EVENT messages carry (log entry 46, DEDUCED); the queue of posts behind one that waits (log entry 19, DESIGN CHOICE). -/
def Obligations.HostMessages : Prop :=
  ∀ (s : State) (x : Sender) (seq : Word), s.phase = .up →
    let tells := fun (i : Instr) (r : HostOut) => ∃ t, exec i s = .next t ∧ t.host.out = s.host.out ++ [r] ∧ t.mem = s.mem
    (∀ index p, s.arg = .host (.taskPost x seq index p) →
      (s.fromHost x = false → exec .taskPost s = .next s) ∧
      (s.fromHost x = true → s.host.posts ≠ [] → exec .taskPost s = .next (s.onHost (fun h => { h with posts := h.posts ++ [.taskPost x seq index p] }))) ∧
      (s.fromHost x = true → s.host.posts = [] → s.host.everOpen = false → exec .taskPost s = .next ((s.farForget .post).say (.postStatus seq index 3 0))) ∧
      (s.fromHost x = true → s.host.posts = [] → s.host.everOpen = true → (∀ e ∈ recordBad p, e.2 = false) → ∀ r, s.admitRecord .post p none = .ok (some r) → s.recordFits .post r = some true → index.toNat % 4096 < 2048 →
        (∀ y, look s.tasks (index.toNat % 4096) = some y → exec .taskPost s = .next ((s.farForget .post).say (.postStatus seq index 3 0))) ∧
        (look s.tasks (index.toNat % 4096) = none → ∃ t y, exec .taskPost s = .next t ∧ look t.tasks (index.toNat % 4096) = some y ∧ y.p = r.p ∧ y.kernel = r.kernel ∧ y.counter = r.counter ∧
          t.host.out = s.host.out ++ [.postStatus seq index 0 0] ∧ t.mem = s.mem))) ∧
    (let due := (s.events.filter (fun e => e.sentAt.isNone)).take 28
     (due = [] → exec .eventSend s = .next s) ∧ (due ≠ [] → tells .eventSend (.events s.host.number (due.map EventRec.words)))) ∧
    (let due := (s.events.filter (fun e => e.sentAt.elim false (fun y => decide (y + 100000 ≤ s.ptime)))).take 28
     (due = [] → exec .eventResend s = .next s) ∧ (due ≠ [] → tells .eventResend (.events s.host.number (due.map EventRec.words)))) ∧
    (∀ upto, s.arg = .host (.eventAck x upto) → s.fromHost x = true →
      let keep := s.events.filter (fun e => decide (upto.toNat < e.seq))
      (s.dropped = 0 → exec .eventAck s = .next { s with events := keep }) ∧
      (0 < s.dropped → keep.length < s.events.length → ∃ t, exec .eventAck s = .next t ∧ t.dropped = 0 ∧
        t.events = keep ++ [{ eventOf s.chipId 7 0 0 0 0 [BitVec.ofNat 32 s.dropped, 0, 0, 0] with ptime := s.ptime, seq := s.nextSeq }])) ∧
    (∀ off n, s.arg = .host (.mgmtRead x seq off n) → s.fromHost x = true → n ≤ 1024 → exec .mgmtRead s = .next (s.say (.mgmtResp seq 0 ((regs off n).map s.mgmtByte)))) ∧
    (∀ off w, s.arg = .host (.mgmtWrite x seq off (bytesLE 4 w)) → s.fromHost x = true →
      let v := BitVec.ofNat 32 w
      let writes := fun (f : State → Prop) => ∃ t, exec .mgmtWrite s = .next t ∧ f t ∧ t.host.out = s.host.out ++ [.mgmtResp seq 0 []] ∧ t.mem = s.mem
      (off = 0x100 → writes (fun t => t.migratePolicy = v &&& 1)) ∧ (off = 0x104 → writes (fun t => t.stubIdle = v)) ∧ (off = 0x108 → writes (fun t => t.pinGrace = v)) ∧
      (off = 0x200 → writes (fun t => t.host.hostctl = v &&& 3)) ∧ (off = 0x204 → writes (fun t => t.host.hostport = v &&& 0xFFFF)) ∧
      (off < 0x30 ∨ off = 0x21C → exec .mgmtWrite s = .next (s.say (.mgmtResp seq 3 []))) ∧ (off = 0x10C ∨ 0x50000 ≤ off → exec .mgmtWrite s = .next (s.say (.mgmtResp seq 4 []))) ∧
      (off = 0x218 → v.getLsbD 31 = true →
        (s.fab.st ≠ .reset → exec .planctlGo s = .next (s.say (.mgmtResp seq 3 []))) ∧
        (s.fab.st = .reset → s.host.planState ≠ 1 →
          (∀ tb, parseTable ((regs 0 tableBytes).map s.host.planbuf.read) = some tb → tb.plan = v.setWidth 16 → ∃ t, exec .planctlGo s = .next t ∧ t.fab.st = .opened ∧ t.fab.live = some tb ∧ t.chipId = tb.self ∧
            t.host.planState = 2 ∧ t.host.everOpen = true ∧ t.host.out = s.host.out ++ [.mgmtResp seq 0 []]) ∧
          (parseTable ((regs 0 tableBytes).map s.host.planbuf.read) = none → ∃ t, exec .planctlGo s = .next t ∧ t.fab = s.fab ∧ t.host.planState = 3 ∧ t.chipId = s.chipId ∧ t.host.out = s.host.out ++ [.mgmtResp seq 0 []])))) ∧
    (∀ nonce, s.arg = .host (.attest x seq nonce) → s.fromHost x = true → nonce.length = 32 → ∃ body, exec .attest s = .next (s.say (.quote seq body)) ∧ body.take 32 = nonce ∧ body.length = 480)

/-- 17 R402, R403, R408, R409, R411, R412, R415: queue pairs connect with a fresh R_Key and end without one; an RDMA request with the wrong key or out of sequence, SEND and the atomics; a request with the right key is taken; a transport error leaves a queue pair in state 3. A soft error acts where it strikes and stands in its unit's record, that of a DRAM sector once the scrubber comes to it (17 R404). A reset, cold or let by WARMRST, leaves every field of 17 R411 at its value; at 110 °C the chip goes into reset. The model's own: a request of another PSN is discarded, RPSN advances by the packets of the request and a queue pair works on one request at a time (log entry 47, DEDUCED), what stands after a trip (log entry 48), that a trip is answered before GO too (log entry 48), the unit of a site (log entry 14) and what a poisoned thread record comes back as (log entry 44). -/
def Obligations.HostPortAndReset : Prop :=
  ∀ (s : State) (x : Sender) (seq : Word),
    (∀ q v, s.phase = .up → s.arg = .host (.mgmtWrite x seq (0x414 + 32 * q) (bytesLE 4 v)) → s.fromHost x = true → q < 64 → s.host.qps.length = 64 →
      (v = 1 → (s.qp q).st = 0 → ∃ t, exec .qpConnect s = .next t ∧ (t.qp q).st = 2 ∧ (t.qp q).rkey = Config.rkey q (s.qp q).issued ∧ t.host.out = s.host.out ++ [.mgmtResp seq 0 []] ∧ t.mem = s.mem) ∧
      (v = 0 → ∃ t, exec .qpEnd s = .next t ∧ (t.qp q).st = 0 ∧ (t.qp q).rkey = 0 ∧ t.host.out = s.host.out ++ [.mgmtResp seq 0 []] ∧ t.mem = s.mem)) ∧
    (∀ (q : BitVec 6) (k : Word) (psn : BitVec 24) (ptr : Dword) (data : List Byte) (n : Nat),
      let taken := fun (i : Instr) (bytes : Nat) (r : Rdma) => s.roce = true → (s.qp q.toNat).st = 2 →
        (psn.toNat ≠ (s.qp q.toNat).rpsn.toNat → exec i s = .next s) ∧
        (psn.toNat = (s.qp q.toNat).rpsn.toNat →
          let t := s.onQp q.toNat (fun y => { y with rpsn := BitVec.ofNat 32 ((psn.toNat + max 1 ((bytes + 4095) / 4096)) % 16777216) })
          (k ≠ (s.qp q.toNat).rkey → exec i s = .next (t.say (.nakRemoteAccess q psn))) ∧
          (k = (s.qp q.toNat).rkey → (∃ y ∈ s.host.rdma, y.q = q.toNat) → exec i s = .next (t.onHost (fun h => { h with rdma := h.rdma ++ [r] }))) ∧
          (k = (s.qp q.toNat).rkey → (∀ y ∈ s.host.rdma, y.q ≠ q.toNat) → exec i s = .next ((t.onHost (fun h => { h with rdma := h.rdma ++ [r] })).rdmaStart q.toNat)))
      (s.arg = .host (.rdmaWrite q k psn ptr data) →
        taken .rdmaWrite data.length { q := q.toNat, psn := lastPsn psn data.length, write := true, addr := ptr.toNat, bytes := data.length, data := data, op := none }) ∧
      (s.arg = .host (.rdmaRead q k psn ptr n) → taken .rdmaRead n { q := q.toNat, psn := lastPsn psn n, write := false, addr := ptr.toNat, bytes := n, data := [], op := none }) ∧
      (s.arg = .host (.otherRoce q psn) → s.roce = true → (s.qp q.toNat).st = 2 → exec .roceSendOrAtomic s = .next (s.say (.nakInvalidRequest q psn))) ∧
      (s.arg = .host (.transportError q) → (s.qp q.toNat).st = 2 → s.host.qps.length = 64 → ∃ t, exec .roceSendOrAtomic s = .next t ∧ (t.qp q.toNat).st = 3 ∧ (∀ y ∈ t.host.rdma, y.q ≠ q.toNat) ∧ t.host.out = s.host.out ∧ t.mem = s.mem)) ∧
    (let fresh := fun (t : State) => t.groups = [] ∧ t.blocks = [] ∧ t.segs = [] ∧ t.seqs = [] ∧ t.tasks = [] ∧ t.objs = [] ∧ t.granary = [] ∧ t.stubs = [] ∧ t.locator = [] ∧ t.events = [] ∧ t.nextSeq = 0 ∧
        t.nextSerial = 1 ∧ t.clock = 0 ∧ t.ptime = 0 ∧ t.chipId = 0 ∧ t.migratePolicy = 0 ∧ t.stubIdle = 100000 ∧ t.pinGrace = 200 ∧ t.fab = Fabric.reset ∧ t.host.hostctl = 2 ∧ t.host.log = [] ∧ t.host.everOpen = false
     (∃ t, exec .coldReset s = .next t ∧ fresh t) ∧
     (s.arg = .host (.reset x) →
       (s.fromHost x = true → (s.phase = .tripped ∨ s.phase = .up ∧ s.host.hostctl.getLsbD 0 = true) → ∃ t, exec .reset s = .next t ∧ fresh t) ∧
       (s.phase = .up → s.host.hostctl.getLsbD 0 = false → exec .reset s = .next s) ∧ (s.fromHost x = false → exec .reset s = .next s)) ∧
     ∀ temp, s.arg = .word temp → s.phase ≠ .tripped →
       (880 ≤ temp.toInt → ∃ t, exec .thermalTrip s = .next t ∧ t.phase = .tripped ∧ t.groups = [] ∧ t.tasks = [] ∧ t.objs = [] ∧ t.fab = Fabric.reset) ∧ (temp.toInt < 880 → exec .thermalTrip s = .next s)) ∧
    (∀ (e : ErrorSite) (place : Word) (correctable : Bool), s.arg = .site e place correctable →
      let strikes := fun (f : State → Prop) => ∃ t, exec .softError s = .next t ∧ f t ∧ t.mem = s.mem
      (∀ sector, e = .dram sector → exec .softError s = .next { s with flaws := s.flaws ++ [{ sector := sector, place := place, correctable := correctable }] }) ∧
      (correctable = true → (∀ sector, e ≠ .dram sector) →
        ∀ u, s.logUnit e = some u → strikes (fun t => ∃ r, look t.host.log u = some r ∧ r.corr = satInc ((look s.host.log u).getD ErrorLog.zero).corr ∧ t.groups = s.groups ∧ t.poison = s.poison)) ∧
      (correctable = false → (∀ sector, e ≠ .dram sector) → ∀ u, s.logUnit e = some u → strikes (fun t => ∃ r, look t.host.log u = some r ∧ r.lastAt = place ∧ r.lastTime = BitVec.ofNat 64 s.ptime)) ∧
      (correctable = false →
        (∀ core sector, e = .l1 core sector → strikes (fun t => ∀ y ∈ t.l1, ¬(y.core = core ∧ y.sector = sector))) ∧
        (∀ sector, e = .mem sector → strikes (fun t => sector ∈ t.poison ∧ ∀ y, y ∈ s.poison → y ∈ t.poison)) ∧
        (∀ sg sector g, e = .scratch sg sector → look s.segs sg = some g → strikes (fun t => ∃ g', look t.segs sg = some g' ∧ sector ∈ g'.poison ∧ g'.scratch = g.scratch)) ∧
        (∀ k r g, e = .vreg k r → look s.groups k = some g → r < g.v.length → strikes (fun t => ∃ g', look t.groups k = some g' ∧ (g'.v.getD r VReg.zero).tag = .poison)) ∧
        (∀ sg r g, e = .tileReg sg r → look s.segs sg = some g → r < g.tregs.length → strikes (fun t => (t.treg sg r).tag = .poison)) ∧
        (∀ k r g, e = .greg k r → look s.groups k = some g → strikes (fun t => ∃ g', look t.groups k = some g' ∧ r ∈ g'.struckG ∧ g'.g = g.g)) ∧
        (∀ q r y, e = .ereg q r → look s.seqs q = some y → strikes (fun t => ∃ y', look t.seqs q = some y' ∧ r ∈ y'.struck ∧ y'.e = y.e)) ∧
        (∀ i u y, e = .control i u → look s.tasks i = some y → y.st ≠ .ending → strikes (fun t => ∃ y', look t.tasks i = some y' ∧ y'.st = .ending ∧ y'.fault = some (0, 0, [0x15000000, 0, 0, 0]))) ∧
        (∀ id u, e = .locator id u → strikes (fun t => look t.locator id = none)) ∧
        (∀ sg n rs lost g r, e = .spawn sg n rs lost → look s.segs sg = some g → g.spawn[n]? = some r → strikes (fun t => ∃ g' r', look t.segs sg = some g' ∧ g'.spawn[n]? = some r' ∧
          r'.xpc = r.xpc ∧ r'.lost = (r.lost || lost) ∧ r'.marked = (r.marked || rs.contains 0) ∧ ∀ x ∈ r'.regs, rs.contains x.1 = true → x.2.1 = .poison))))
end

