-- ==== Sys2Proof/Laws/Codes.lean ====
section
/-! SUPPORT. Every field's code reads back as the value it was written for (03 R63 to R72): one lemma a kind of field. -/

namespace Sys2Proof

@[simp] theorem narrow_setWidth {n k : Nat} (x : BitVec k) (h : k ≤ n) : narrow k (x.setWidth n) = some x := by
  have hp : 2 ^ k ≤ 2 ^ n := Nat.pow_le_pow_right (by omega) h
  have hx := x.isLt
  simp [narrow, BitVec.toNat_setWidth, Nat.mod_eq_of_lt (show x.toNat < 2 ^ n by omega), hx]
  exact (BitVec.setWidth_setWidth_of_le _ h).trans (BitVec.setWidth_eq _)

@[simp] theorem bool1_bit1 (b : Bool) : bool1 (bit1 b) = b := by cases b <;> rfl
@[simp] theorem Tag.ofCode_code (x : Tag) : Tag.ofCode x.code = x := by cases x <;> rfl
@[simp] theorem Rounding.ofCode_code (x : Rounding) : Rounding.ofCode x.code = x := by cases x <;> rfl
@[simp] theorem Cond.ofCode_code (x : Cond) : Cond.ofCode? x.code = some x := by cases x <;> rfl
@[simp] theorem Scope.ofCode_code (x : Scope) : Scope.ofCode? x.code = some x := by cases x <;> rfl
@[simp] theorem Hint.ofCode_code (x : Hint) : Hint.ofCode? x.code = some x := by cases x <;> rfl
@[simp] theorem Size.ofCode_code (x : Size) : Size.ofCode? x.code = some x := by cases x <;> rfl
@[simp] theorem FenceKind.ofCode_code (x : FenceKind) : FenceKind.ofCode? x.code = some x := by cases x <;> rfl
@[simp] theorem SegWidth.ofCode_code (x : SegWidth) : SegWidth.ofCode? x.code = some x := by cases x <;> rfl
@[simp] theorem LaneSr.ofCode_code (x : LaneSr) : LaneSr.ofCode? x.code = some x := by cases x <;> rfl
@[simp] theorem ReduxOp.ofCode_code (x : ReduxOp) : ReduxOp.ofCode? x.code = some x := by cases x <;> rfl
@[simp] theorem AtomOp.ofCode_code (x : AtomOp) : AtomOp.ofCode? x.code = some x := by cases x <;> rfl
@[simp] theorem AtomType.ofCode_code (x : AtomType) : AtomType.ofCode x.code = x := by cases x <;> rfl
@[simp] theorem CasType.ofCode_code (x : CasType) : CasType.ofCode? x.code = some x := by cases x <;> rfl
@[simp] theorem Csr.ofCode_code (x : Csr) : Csr.ofCode? x.code = some x := by cases x <;> rfl

@[simp] theorem Src.ofCode_code (x : Src) : Src.ofCode x.code = x := by
  cases x with
  | v r => revert r; decide +kernel
  | g r => revert r; decide +kernel
@[simp] theorem gSpec_gSpec (g : BitVec 8) : gSpec? (gSpec g) = some g := by revert g; decide +kernel
@[simp] theorem TileSpec.ofCode_code (x : TileSpec) : TileSpec.ofCode? x.code = some x := by
  cases x with
  | tile n => revert n; decide +kernel
  | stream k => revert k; decide +kernel
theorem LaneOffset.ofCodes_codes (x : LaneOffset) (h : x.ok = true) : LaneOffset.ofCodes? x.reg x.lsc = some x := by
  cases x with
  | none => rfl
  | scaled o k =>
    simp only [LaneOffset.ok, decide_eq_true_eq] at h
    have : k ≠ 7#3 := by intro hk; subst hk; exact absurd h (by decide)
    simp [LaneOffset.ofCodes?, LaneOffset.reg, LaneOffset.lsc, this, h]
@[simp] theorem Sync.ofCodes_codes (x : Sync) : Sync.ofCodes? x.ord x.scp = some x := by
  cases x with
  | relaxed => rfl
  | acquire s => cases s <;> rfl
  | release s => cases s <;> rfl
@[simp] theorem Rmw.ofCodes_codes (x : Rmw) : Rmw.ofCodes? x.opCode x.tyCode = some x := by
  cases x with
  | op o t => cases o <;> cases t <;> rfl
  | cas t => cases t <;> rfl
@[simp] theorem dst_codes (x : Option (BitVec 8)) : dst? (dstReg x) (dstRet x) = some x := by cases x <;> rfl

end Sys2Proof
end

