-- ==== Sys2Proof/Laws/Issue.lean ====
section
/-! SUPPORT. What issuing comes to: an issuer that is ready runs the effect, one whose check fails takes the trap. -/

namespace Sys2Proof.Machine

theorem firstExc_cons_none (l : List (Option Exc)) : firstExc (none :: l) = firstExc l := rfl

/-- A list of checks none of which fails. -/
theorem firstExc_none {l : List (Option Exc)} (h : ∀ x ∈ l, x = none) : firstExc l = none := by
  induction l with
  | nil => rfl
  | cons x r ih =>
    rw [h x (List.mem_cons_self ..), firstExc_cons_none]
    exact ih (fun y hy => h y (List.mem_cons_of_mem _ hy))

/-- The first failing check stands before those that follow. -/
theorem firstExc_append_none {a b : List (Option Exc)} (h : firstExc a = none) : firstExc (a ++ b) = firstExc b := by
  induction a with
  | nil => rfl
  | cons x r ih =>
    cases x with
    | none => exact ih h
    | some e => exact absurd h (by simp [firstExc])

theorem excIf_false {b : Bool} {e : Exc} (h : b = false) : excIf b e = none := by simp [excIf, h]

theorem issue_next {s : State} {checks : List (Option Exc)} {eff : State → State} (hr : s.resident = true) (hc : firstExc checks = none) :
    issue s checks eff = .next (eff s) := by
  unfold State.resident at hr
  unfold issue
  split at hr <;> simp_all <;> obtain ⟨x, hx⟩ := Option.isSome_iff_exists.1 hr <;> simp [hx]

theorem issue_raise {s : State} {checks : List (Option Exc)} {eff : State → State} {e : Exc} (hr : s.resident = true) (hc : firstExc checks = some e) :
    issue s checks eff = .next (s.raise e) := by
  unfold State.resident at hr
  unfold issue
  split at hr <;> simp_all <;> obtain ⟨x, hx⟩ := Option.isSome_iff_exists.1 hr <;> simp [hx]

/-- With an issuer resident an instruction always has a next state: its effect, or the trap of its first failing check. -/
theorem issue_total {s : State} (hr : s.resident = true) (checks : List (Option Exc)) (eff : State → State) : ∃ t, issue s checks eff = .next t := by
  cases h : firstExc checks with
  | none => exact ⟨_, issue_next hr h⟩
  | some e => exact ⟨_, issue_raise hr h⟩

theorem resident_of_onPath {s : State} (h : s.onPath = true) : s.resident = true := by
  unfold State.onPath at h
  unfold State.resident
  split at h <;> simp_all

theorem rowExc_none {s : State} {row : Row} (h : s.mayIssue row = true) : s.rowExc row = none := by
  unfold State.mayIssue at h
  unfold State.rowExc
  cases hc : s.cur <;> cases row <;> simp_all [excIf]

theorem nameExc_none {s : State} {vs gs : List Nat} (hv : vs.all (fun r => decide (r < s.vLimit)) = true) (hg : gs.all (fun r => decide (r < s.gLimit)) = true) :
    s.nameExc vs gs = none := by
  apply excIf_false
  simp only [List.all_eq_true, decide_eq_true_eq] at hv hg
  simp only [Bool.or_eq_false_iff, List.any_eq_false, decide_eq_true_eq, not_le]
  exact ⟨hv, hg⟩

theorem struckExc_none {s : State} {reads : List Nat} (h : reads.all (fun r => !s.struckU r) = true) : s.struckExc reads = none := by
  have : reads.filter s.struckU = [] := by
    rw [List.filter_eq_nil_iff]
    simpa using h
  simp [State.struckExc, this]

theorem sourceExcs_none {s : State} {ops : List Opnd} (h : ops.all s.srcReady = true) : firstExc (s.sourceExcs ops) = none := by
  apply firstExc_none
  intro x hx
  simp only [State.sourceExcs, List.mem_append, List.mem_map] at hx
  simp only [List.all_eq_true] at h
  rcases hx with ⟨o, ho, rfl⟩ | ⟨o, ho, rfl⟩ <;> have hs := h o ho <;> cases o <;>
    simp_all [State.srcReady, State.poisonExc, State.tagExc, State.struckExc, excIf]

/-- A path that is ready for a lane instruction, whose own checks pass, runs its effect and goes on. -/
theorem lan_next {s : State} {m : Bool} {len : Nat} {vs gs : List Nat} {ops : List Opnd} {own : List (Option Exc)} {eff : State → State}
    (h : s.laneReady vs gs ops = true) (ho : firstExc own = none) : lan s m len vs gs ops own eff = .next ((eff s).finish m len) := by
  simp only [State.laneReady, Bool.and_eq_true] at h
  obtain ⟨⟨⟨hp, hv⟩, hg⟩, hs⟩ := h
  have hrow : s.rowExc .group = none := rowExc_none (by unfold State.onPath at hp; unfold State.mayIssue; split at hp <;> simp_all)
  refine issue_next (resident_of_onPath hp) ?_
  rw [firstExc_append_none, ho]
  rw [firstExc_append_none, sourceExcs_none hs]
  rw [nameExc_none hv hg, hrow]
  rfl

/-- A path that is ready for a lane memory instruction runs its effect. -/
theorem lanMem_next {s : State} {vs gs : List Nat} {ops : List Opnd} {own : List (Option Exc)} {eff : State → State}
    (h : s.laneReady vs gs ops = true) (ho : firstExc own = none) : lanMem s vs gs ops own eff = .next (eff s) := by
  simp only [State.laneReady, Bool.and_eq_true] at h
  obtain ⟨⟨⟨hp, hv⟩, hg⟩, hs⟩ := h
  have hrow : s.rowExc .group = none := rowExc_none (by unfold State.onPath at hp; unfold State.mayIssue; split at hp <;> simp_all)
  refine issue_next (resident_of_onPath hp) ?_
  rw [firstExc_append_none, ho]
  rw [firstExc_append_none, sourceExcs_none hs]
  rw [nameExc_none hv hg, hrow]
  rfl

theorem uniChecks_none {s : State} {row : Row} {closed : Bool} {names reads : List Nat} {own : List (Option Exc)}
    (h : s.uniReady row closed names reads = true) (ho : firstExc own = none) :
    firstExc ([s.nameExc [] names, s.rowExc row, s.closedExc closed, s.struckExc reads] ++ own) = none := by
  simp only [State.uniReady, Bool.and_eq_true, Bool.not_eq_true'] at h
  obtain ⟨⟨⟨⟨hr, hm⟩, hc⟩, hn⟩, hs⟩ := h
  rw [firstExc_append_none, ho]
  rw [nameExc_none (s := s) (vs := []) (by rfl) hn, rowExc_none hm, struckExc_none hs, State.closedExc, excIf_false hc]
  rfl

/-- An issuer that is ready for a uniform instruction, whose own checks pass, runs its effect and goes on. -/
theorem uni_next {s : State} {m : Bool} {len : Nat} {row : Row} {closed : Bool} {names reads : List Nat} {own : List (Option Exc)} {eff : State → State}
    (h : s.uniReady row closed names reads = true) (ho : firstExc own = none) : uni s m len row closed names reads own eff = .next ((eff s).finish m len) :=
  issue_next (by simp only [State.uniReady, Bool.and_eq_true] at h; exact h.1.1.1.1) (uniChecks_none h ho)

/-- The same for one that places the program counter itself. -/
theorem uniJump_next {s : State} {row : Row} {closed : Bool} {names reads : List Nat} {own : List (Option Exc)} {eff : State → State}
    (h : s.uniReady row closed names reads = true) (ho : firstExc own = none) : uniJump s row closed names reads own eff = .next (eff s) :=
  issue_next (by simp only [State.uniReady, Bool.and_eq_true] at h; exact h.1.1.1.1) (uniChecks_none h ho)

/-- The same for instructions with no faults of their own. -/
theorem lan_run {s : State} {m : Bool} {len : Nat} {vs gs : List Nat} {ops : List Opnd} {eff : State → State} (h : s.laneReady vs gs ops = true) :
    lan s m len vs gs ops [] eff = .next ((eff s).finish m len) := lan_next h rfl

theorem uni_run {s : State} {m : Bool} {len : Nat} {row : Row} {closed : Bool} {names reads : List Nat} {eff : State → State}
    (h : s.uniReady row closed names reads = true) : uni s m len row closed names reads [] eff = .next ((eff s).finish m len) := uni_next h rfl

theorem uniJump_run {s : State} {row : Row} {closed : Bool} {names reads : List Nat} {eff : State → State}
    (h : s.uniReady row closed names reads = true) : uniJump s row closed names reads [] eff = .next (eff s) := uniJump_next h rfl

end Sys2Proof.Machine
end

