-- ==== Sys2Proof/Laws/Memory.lean ====
section
/-! SUPPORT. The canonical form of memory and what each memory operation does to it and to the byte at an address. -/

namespace Sys2Proof.Machine

theorem Memory.above_mono {lo lo' : Nat} (h : lo' ≤ lo) : ∀ {m : Memory}, Memory.above lo m = true → Memory.above lo' m = true
  | [], _ => rfl
  | (x, c) :: r, hm => by
    simp only [Memory.above, Bool.and_eq_true, decide_eq_true_eq] at hm ⊢
    exact ⟨⟨by omega, hm.1.2⟩, hm.2⟩

theorem Memory.above_write {lo a : Nat} (b : Byte) (h : lo ≤ a) : ∀ {m : Memory}, Memory.above lo m = true → Memory.above lo (m.write a b) = true := by
  intro m
  induction m generalizing lo with
  | nil =>
    intro _
    simp only [Memory.write]
    split
    · rfl
    · rename_i hb
      simp only [Memory.above, Bool.and_eq_true, decide_eq_true_eq]
      exact ⟨⟨h, by simpa using hb⟩, trivial⟩
  | cons e r ih =>
    obtain ⟨x, c⟩ := e
    intro hm
    simp only [Memory.above, Bool.and_eq_true, decide_eq_true_eq] at hm
    obtain ⟨⟨h1, h2⟩, h3⟩ := hm
    simp only [Memory.write]
    split
    · rename_i hlt
      split
      · simp only [Memory.above, Bool.and_eq_true, decide_eq_true_eq]
        exact ⟨⟨h1, h2⟩, h3⟩
      · rename_i hb
        simp only [Memory.above, Bool.and_eq_true, decide_eq_true_eq]
        exact ⟨⟨h, by simpa using hb⟩, ⟨by omega, h2⟩, h3⟩
    · split
      · rename_i heq
        subst heq
        split
        · exact Memory.above_mono (by omega) h3
        · rename_i hb
          simp only [Memory.above, Bool.and_eq_true, decide_eq_true_eq]
          exact ⟨⟨h, by simpa using hb⟩, h3⟩
      · simp only [Memory.above, Bool.and_eq_true, decide_eq_true_eq]
        exact ⟨⟨h1, h2⟩, ih (by omega) h3⟩

/-- A write keeps the canonical form. -/
@[simp] theorem Memory.wf_write {m : Memory} (h : m.wf = true) (a : Nat) (b : Byte) : (m.write a b).wf = true :=
  Memory.above_write b (Nat.zero_le a) h

/-- Writing bytes keeps the canonical form. -/
@[simp] theorem Memory.wf_put {m : Memory} (h : m.wf = true) (a : Nat) (bs : List Byte) : (m.put a bs).wf = true := by
  induction bs generalizing m a with
  | nil => exact h
  | cons b bs ih => exact ih (Memory.wf_write h a b) (a + 1)

/-- Writing cells keeps the canonical form. -/
@[simp] theorem Memory.wf_cells {m : Memory} (h : m.wf = true) (cs : List (Nat × Byte)) : (m.cells cs).wf = true := by
  induction cs generalizing m with
  | nil => exact h
  | cons c cs ih => exact ih (Memory.wf_write h c.1 c.2)

theorem Memory.above_filter {lo : Nat} (p : Nat × Byte → Bool) : ∀ {m : Memory}, Memory.above lo m = true → Memory.above lo (m.filter p) = true
  | [], _ => rfl
  | (x, c) :: r, hm => by
    simp only [Memory.above, Bool.and_eq_true, decide_eq_true_eq] at hm
    have hr := Memory.above_filter p hm.2
    by_cases hp : p (x, c) = true
    · rw [List.filter_cons_of_pos hp]
      simp only [Memory.above, Bool.and_eq_true, decide_eq_true_eq]
      exact ⟨hm.1, hr⟩
    · rw [List.filter_cons_of_neg hp]
      exact Memory.above_mono (by omega) hr

/-- Dropping cells keeps the canonical form. -/
@[simp] theorem Memory.wf_filter {m : Memory} (h : m.wf = true) (p : Nat × Byte → Bool) : Memory.wf (m.filter p) = true := Memory.above_filter p h

@[simp] theorem Memory.wf_nil : Memory.wf [] = true := rfl

theorem Memory.read_below {lo a : Nat} (h : a < lo) : ∀ {m : Memory}, Memory.above lo m = true → m.read a = 0
  | [], _ => rfl
  | (x, c) :: r, hm => by
    simp only [Memory.above, Bool.and_eq_true, decide_eq_true_eq] at hm
    simp only [Memory.read]
    rw [if_neg (by omega), if_pos (by omega)]

theorem Memory.read_write_above {lo a c : Nat} (b : Byte) : ∀ {m : Memory}, Memory.above lo m = true → (m.write a b).read c = if c = a then b else m.read c := by
  intro m
  induction m generalizing lo with
  | nil =>
    intro _
    simp only [Memory.write]
    split
    · rename_i hb
      simp [Memory.read, hb]
    · simp only [Memory.read]
      by_cases hc : c = a
      · subst hc; simp
      · simp [hc, Ne.symm hc]
  | cons e r ih =>
    obtain ⟨x, d⟩ := e
    intro hm
    simp only [Memory.above, Bool.and_eq_true, decide_eq_true_eq] at hm
    obtain ⟨⟨h1, h2⟩, h3⟩ := hm
    simp only [Memory.write]
    by_cases hax : a < x
    · rw [if_pos hax]
      by_cases hb : b = 0
      · rw [if_pos hb]
        by_cases hc : c = a
        · subst hc
          simp [Memory.read, hb, show x ≠ c by omega, hax]
        · rw [if_neg hc]
      · rw [if_neg hb]
        by_cases hc : c = a
        · subst hc
          simp [Memory.read]
        · rw [if_neg hc]
          by_cases hlt : c < a
          · simp [Memory.read, Ne.symm hc, hlt, show x ≠ c by omega, show c < x by omega]
          · conv_lhs => rw [Memory.read]
            rw [if_neg (Ne.symm hc), if_neg hlt]
    · rw [if_neg hax]
      by_cases he : a = x
      · rw [if_pos he]
        subst he
        by_cases hb : b = 0
        · rw [if_pos hb]
          by_cases hc : c = a
          · subst hc
            rw [if_pos rfl, hb]
            exact Memory.read_below (by omega) h3
          · rw [if_neg hc]
            simp only [Memory.read, if_neg (Ne.symm hc)]
            by_cases hlt : c < a
            · rw [if_pos hlt]
              exact Memory.read_below (by omega) h3
            · rw [if_neg hlt]
        · rw [if_neg hb]
          simp only [Memory.read]
          by_cases hc : c = a
          · subst hc; simp
          · simp [hc, Ne.symm hc]
      · rw [if_neg he]
        simp only [Memory.read]
        rw [ih h3]
        by_cases hxc : x = c
        · subst hxc
          simp [Ne.symm he]
        · rw [if_neg hxc, if_neg hxc]
          by_cases hlt : c < x
          · rw [if_pos hlt, if_pos hlt, if_neg (by omega)]
          · rw [if_neg hlt, if_neg hlt]

/-- The byte at an address after a write. -/
theorem Memory.read_write {m : Memory} (h : m.wf = true) (a c : Nat) (b : Byte) : (m.write a b).read c = if c = a then b else m.read c :=
  Memory.read_write_above b h

/-- A write leaves every other byte. -/
theorem Memory.read_write_other {m : Memory} (h : m.wf = true) {a c : Nat} (b : Byte) (hc : c ≠ a) : (m.write a b).read c = m.read c := by
  rw [Memory.read_write h, if_neg hc]

/-- Writing bytes leaves every byte outside them. -/
theorem Memory.read_put_other {m : Memory} (h : m.wf = true) (a c : Nat) (bs : List Byte) (hc : c < a ∨ a + bs.length ≤ c) : (m.put a bs).read c = m.read c := by
  induction bs generalizing m a with
  | nil => rfl
  | cons b bs ih =>
    simp only [List.length_cons] at hc
    rw [Memory.put, ih (Memory.wf_write h a b) (a + 1) (by omega), Memory.read_write_other h b (by omega)]

/-- A byte that has been written reads as it was written. -/
theorem Memory.read_put {m : Memory} (h : m.wf = true) (a i : Nat) (bs : List Byte) (hi : i < bs.length) : (m.put a bs).read (a + i) = bs.getD i 0 := by
  induction bs generalizing m a i with
  | nil => exact absurd hi (by simp)
  | cons b bs ih =>
    cases i with
    | zero =>
      rw [Memory.put, Memory.read_put_other (Memory.wf_write h a b) (a + 1) (a + 0) bs (by omega), Memory.read_write h]
      simp
    | succ i =>
      have := ih (Memory.wf_write h a b) (a + 1) i (by simpa using hi)
      rw [Memory.put, show a + (i + 1) = a + 1 + i by omega, this]
      simp

/-- Writing cells leaves every byte that no cell names. -/
theorem Memory.read_cells_other {m : Memory} (h : m.wf = true) (c : Nat) (cs : List (Nat × Byte)) (hc : ∀ e ∈ cs, e.1 ≠ c) : (m.cells cs).read c = m.read c := by
  induction cs generalizing m with
  | nil => rfl
  | cons e cs ih =>
    rw [Memory.cells, ih (Memory.wf_write h e.1 e.2) (fun x hx => hc x (List.mem_cons_of_mem _ hx)),
      Memory.read_write_other h e.2 (Ne.symm (hc e (List.mem_cons_self ..)))]

end Sys2Proof.Machine
end

