-- ==== Sys2Proof/Laws/Keeps.lean ====
section
/-! SUPPORT. What every operation keeps, and the tables it keeps it through: canonical memories, a pod-time offset that never falls, and the step's own registers, the clock and the firmware's CSRs as they were. -/

namespace Sys2Proof.Machine

/-- The parts of `Keeps`: canonical memories, a pod-time offset that has not fallen, and fields that only a step's frame, the firmware or a reset changes. -/
def KeepsP (base : State) (mem : Memory) (segs : List (SKey × Segment)) (pb : Memory) (off : Nat)
    (cur : Issuer) (arg : StepArg) (clock ctr resets : Nat) (mp si pg : Word) : Prop :=
  mem.wf = true ∧ (∀ e ∈ segs, e.2.scratch.wf = true) ∧ pb.wf = true ∧ base.ptimeOff ≤ off ∧
    cur = base.cur ∧ arg = base.arg ∧ clock = base.clock ∧ ctr = base.freeCtr ∧ resets = base.resets ∧
    mp = base.migratePolicy ∧ si = base.stubIdle ∧ pg = base.pinGrace

/-- A state keeps what a base state had. -/
abbrev Keeps (base s : State) : Prop :=
  KeepsP base s.mem s.segs s.host.planbuf s.ptimeOff s.cur s.arg s.clock s.freeCtr s.resets s.migratePolicy s.stubIdle s.pinGrace

theorem put_scratch {segs : List (SKey × Segment)} (h : ∀ e ∈ segs, e.2.scratch.wf = true) (k : SKey) (g : Segment)
    (hg : g.scratch.wf = true) : ∀ e ∈ put segs k g, e.2.scratch.wf = true := by
  induction segs with
  | nil => simp [put, hg]
  | cons x r ih =>
    intro e he
    simp only [put] at he
    split at he
    · rcases List.mem_cons.1 he with rfl | he
      · exact hg
      · exact h e (List.mem_cons_of_mem _ he)
    · rcases List.mem_cons.1 he with rfl | he
      · exact h _ (List.mem_cons_self ..)
      · exact ih (fun y hy => h y (List.mem_cons_of_mem _ hy)) e he

theorem look_mem {κ α : Type} [DecidableEq κ] {l : List (κ × α)} {k : κ} {a : α} (h : look l k = some a) : (k, a) ∈ l := by
  induction l with
  | nil => simp [look] at h
  | cons x r ih =>
    simp only [look] at h
    split at h
    · rename_i hk
      cases h
      rw [← hk]
      exact List.mem_cons_self ..
    · exact List.mem_cons_of_mem _ (ih h)

theorem upd_scratch {segs : List (SKey × Segment)} (h : ∀ e ∈ segs, e.2.scratch.wf = true) (k : SKey) (f : Segment → Segment)
    (hf : ∀ g, g.scratch.wf = true → (f g).scratch.wf = true) : ∀ e ∈ upd segs k f, e.2.scratch.wf = true := by
  unfold upd
  split
  · exact h
  · rename_i a ha
    exact put_scratch h k _ (hf a (h _ (look_mem ha)))

/-- A fold of steps that keep. -/
@[simp] theorem foldl_keeps {α : Type} {base : State} (f : State → α → State) (hf : ∀ t x, Keeps base t → Keeps base (f t x)) :
    ∀ (l : List α) (s : State), Keeps base s → Keeps base (l.foldl f s)
  | [], _, h => h
  | x :: r, s, h => foldl_keeps f hf r (f s x) (hf s x h)

/-- A fold that carries something beside the state. -/
theorem foldl_fst_keeps {α β : Type} {base : State} (f : State × β → α → State × β) (hf : ∀ r x, Keeps base r.1 → Keeps base (f r x).1) :
    ∀ (l : List α) (r : State × β), Keeps base r.1 → Keeps base (l.foldl f r).1
  | [], _, h => h
  | x :: l, r, h => foldl_fst_keeps f hf l (f r x) (hf r x h)

/-- Pod time moves forward. -/
@[simp] theorem State.forward_keeps {base : State} (s : State) (n : Nat) (h : Keeps base s) : Keeps base (s.forward n) :=
  ⟨h.1, h.2.1, h.2.2.1, Nat.le_trans h.2.2.2.1 (Nat.le_add_right _ _), h.2.2.2.2⟩

@[simp] theorem State.onSeg_keeps {base s : State} (h : Keeps base s) (k : SKey) (f : Segment → Segment)
    (hf : ∀ g, g.scratch.wf = true → (f g).scratch.wf = true) : Keeps base (s.onSeg k f) :=
  ⟨h.1, upd_scratch h.2.1 k f hf, h.2.2⟩

@[simp] theorem keeps_ite {base s t : State} {c : Prop} [Decidable c] (hs : Keeps base s) (ht : Keeps base t) : Keeps base (if c then s else t) := by
  split <;> assumption

@[simp] theorem keeps_elim {α : Type} {base s : State} {f : α → State} {o : Option α} (hs : Keeps base s) (hf : ∀ x, Keeps base (f x)) : Keeps base (o.elim s f) := by
  cases o
  · exact hs
  · exact hf _

/-- Where an outcome has a next state, it keeps. -/
def KeepsOut (base : State) : Out → Prop
  | .next t => Keeps base t
  | .fault _ => True
  | .refused _ => True

@[simp] theorem keepsOut_next {base t : State} : KeepsOut base (.next t) ↔ Keeps base t := Iff.rfl
@[simp] theorem keepsOut_fault {base : State} (f : Fault) : KeepsOut base (.fault f) := trivial
@[simp] theorem keepsOut_refused {base : State} (r : Refusal) : KeepsOut base (.refused r) := trivial

end Sys2Proof.Machine
end

