-- ==== Sys2Proof/Laws/KeepsCore.lean ====
section
/-! SUPPORT. What the operations of the issuing core keep, one lemma an operation. -/

set_option linter.all false

namespace Sys2Proof.Machine

@[simp] theorem State.setGroup_keeps {base : State} (s : State) (k : GKey) (g : Group) (hk0 : Keeps base s) : Keeps base (State.setGroup s k g) := by
  exact hk0

@[simp] theorem State.onGroup_keeps {base : State} (s : State) (k : GKey) (f : Group → Group) (hk0 : Keeps base s) : Keeps base (State.onGroup s k f) := by
  exact hk0

@[simp] theorem State.onSeq_keeps {base : State} (s : State) (q : QKey) (f : Sequencer → Sequencer) (hk0 : Keeps base s) : Keeps base (State.onSeq s q f) := by
  exact hk0

@[simp] theorem State.onBlock_keeps {base : State} (s : State) (b : Nat) (f : Block → Block) (hk0 : Keeps base s) : Keeps base (State.onBlock s b f) := by
  exact hk0

@[simp] theorem State.onOp_keeps {base : State} (s : State) (o : Nat) (f : Op → Op) (hk0 : Keeps base s) : Keeps base (State.onOp s o f) := by
  exact hk0

@[simp] theorem State.onTask_keeps {base : State} (s : State) (t : Nat) (f : Task → Task) (hk0 : Keeps base s) : Keeps base (State.onTask s t f) := by
  exact hk0

@[simp] theorem State.writeU_keeps {base : State} (s : State) (r : Nat) (w : Word) (hk0 : Keeps base s) : Keeps base (State.writeU s r w) := by
  unfold State.writeU
  (repeat' split) <;> simp [*]

@[simp] theorem State.writePair_keeps {base : State} (s : State) (r : Nat) (x : Nat) (hk0 : Keeps base s) : Keeps base (State.writePair s r x) := by
  simp [State.writePair, hk0]

@[simp] theorem State.writeH_keeps {base : State} (s : State) (k : Nat) (h : Handle) (hk0 : Keeps base s) : Keeps base (State.writeH s k h) := by
  unfold State.writeH
  (repeat' split) <;> simp [*]

@[simp] theorem State.abortOne_keeps {base : State} (s : State) (slot w : Nat) (hk0 : Keeps base s) : Keeps base (State.abortOne s slot w) := by
  unfold State.abortOne
  (repeat' split) <;> simp [*]

@[simp] theorem State.abortAll_keeps {base : State} (s : State) (own : List (Nat × Nat)) (hk0 : Keeps base s) : Keeps base (State.abortAll s own) := by
  unfold State.abortAll
  (repeat' split) <;> simp_all [Keeps]

@[simp] theorem State.abortRegion_keeps {base : State} (s : State) (slot w : Nat) (hk0 : Keeps base s) : Keeps base (State.abortRegion s slot w) := by
  simp [State.abortRegion, hk0]

@[simp] theorem State.takeAbort_keeps {base : State} (s : State) (k : GKey) (hk0 : Keeps base s) : Keeps base (State.takeAbort s k) := by
  unfold State.takeAbort
  (repeat' split) <;> simp [*]

@[simp] theorem State.dropRegion_keeps {base : State} (s : State) (slot : Nat) (hk0 : Keeps base s) : Keeps base (State.dropRegion s slot) := by
  unfold State.dropRegion
  (repeat' split) <;> simp_all [Keeps]

@[simp] theorem State.endTask_keeps {base : State} (s : State) (t : Nat) (killer : Option (Nat × Nat × Nat)) (fault : Option (Nat × Nat × List Word)) (hk0 : Keeps base s) : Keeps base (State.endTask s t killer fault) := by
  unfold State.endTask
  (repeat' split) <;> simp_all [Keeps]

@[simp] theorem State.trapRegion_keeps {base : State} (s : State) (k : GKey) (r : TrapRec) (hk0 : Keeps base s) : Keeps base (State.trapRegion s k r).1 := by
  unfold State.trapRegion
  (repeat' split) <;> simp [*]

@[simp] theorem State.enterTrap_keeps {base : State} (s : State) (k : GKey) (r : TrapRec) (hk0 : Keeps base s) : Keeps base (State.enterTrap s k r) := by
  unfold State.enterTrap
  try dsimp only
  (repeat' first | assumption | split | (with_reducible apply foldl_keeps; intro _ _ _) | (with_reducible apply issue_keeps; · assumption) | (with_reducible apply uni_keeps; · assumption) | (with_reducible apply uniJump_keeps; · assumption) | (with_reducible apply withTiles_keeps; · assumption) | intro _ | dsimp only) <;> first | assumption | (simp (maxDischargeDepth := 40) +contextual [*]; done) | (simp (maxDischargeDepth := 40) +contextual [Keeps, *]; done)

@[simp] theorem State.leaveTrap_keeps {base : State} (s : State) (k : GKey) (lanes : Mask) (hk0 : Keeps base s) : Keeps base (State.leaveTrap s k lanes) := by
  exact hk0

@[simp] theorem State.mark_keeps {base : State} (s : State) (m : Bool) (hk0 : Keeps base s) : Keeps base (State.mark s m) := by
  unfold State.mark
  (repeat' split) <;> simp [*]

@[simp] theorem State.advance_keeps {base : State} (s : State) (len : Nat) (hk0 : Keeps base s) : Keeps base (State.advance s len) := by
  unfold State.advance
  (repeat' split) <;> simp [*]

@[simp] theorem State.jump_keeps {base : State} (s : State) (pc : Word) (hk0 : Keeps base s) : Keeps base (State.jump s pc) := by
  unfold State.jump
  (repeat' split) <;> simp [*]

@[simp] theorem State.finish_keeps {base : State} (s : State) (m : Bool) (len : Nat) (hk0 : Keeps base s) : Keeps base (State.finish s m len) := by
  simp [State.finish, hk0]

@[simp] theorem State.drain_keeps {base : State} (s : State) (hk0 : Keeps base s) : Keeps base (State.drain s) := by
  unfold State.drain
  (repeat' split) <;> simp [*]

@[simp] theorem State.waitAt_keeps {base : State} (s : State) (w : Wait) (hk0 : Keeps base s) : Keeps base (State.waitAt s w) := by
  unfold State.waitAt
  (repeat' split) <;> simp [*]

@[simp] theorem State.pathWait_keeps {base : State} (s : State) (w : PathWait) (m : Bool) (hk0 : Keeps base s) : Keeps base (State.pathWait s w m) := by
  unfold State.pathWait
  (repeat' split) <;> simp [*]

@[simp] theorem State.noteWatch_keeps {base : State} (s : State) (k : GKey) (c : FaultCode) (hk0 : Keeps base s) : Keeps base (State.noteWatch s k c) := by
  simp [State.noteWatch, hk0]

@[simp] theorem State.unpark_keeps {base : State} (s : State) (k : GKey) (hk0 : Keeps base s) : Keeps base (State.unpark s k) := by
  unfold State.unpark
  try dsimp only
  (repeat' first | assumption | split | (with_reducible apply foldl_keeps; intro _ _ _) | (with_reducible apply issue_keeps; · assumption) | (with_reducible apply uni_keeps; · assumption) | (with_reducible apply uniJump_keeps; · assumption) | (with_reducible apply withTiles_keeps; · assumption) | intro _ | dsimp only) <;> first | assumption | (simp (maxDischargeDepth := 40) +contextual [*]; done) | (simp (maxDischargeDepth := 40) +contextual [Keeps, *]; done)

@[simp] theorem State.raise_keeps {base : State} (s : State) (e : Exc) (hk0 : Keeps base s) : Keeps base (State.raise s e) := by
  unfold State.raise
  (repeat' split) <;> simp [*]

@[simp] theorem State.unparkSeq_keeps {base : State} (s : State) (q : QKey) (hk0 : Keeps base s) : Keeps base (State.unparkSeq s q) := by
  unfold State.unparkSeq
  (repeat' split) <;> simp [*]

@[simp] theorem issue_keeps {base : State} (s : State) (checks : List (Option Exc)) (eff : State → State) (hk0 : Keeps base s) (heff : ∀ t, Keeps base t → Keeps base (eff t)) : KeepsOut base (issue s checks eff) := by
  unfold issue
  (repeat' split) <;> simp [*]

@[simp] theorem uni_keeps {base : State} (s : State) (m : Bool) (len : Nat) (row : Row) (closed : Bool) (names reads : List Nat) (own : List (Option Exc)) (eff : State → State) (hk0 : Keeps base s) (heff : ∀ t, Keeps base t → Keeps base (eff t)) : KeepsOut base (uni s m len row closed names reads own eff) := by
  unfold uni
  try dsimp only
  (repeat' first | assumption | split | (with_reducible apply foldl_keeps; intro _ _ _) | (with_reducible apply issue_keeps; · assumption) | (with_reducible apply uni_keeps; · assumption) | (with_reducible apply uniJump_keeps; · assumption) | (with_reducible apply withTiles_keeps; · assumption) | intro _ | dsimp only) <;> first | assumption | (simp (maxDischargeDepth := 40) +contextual [*]; done) | (simp (maxDischargeDepth := 40) +contextual [Keeps, *]; done)

@[simp] theorem uniJump_keeps {base : State} (s : State) (row : Row) (closed : Bool) (names reads : List Nat) (own : List (Option Exc)) (eff : State → State) (hk0 : Keeps base s) (heff : ∀ t, Keeps base t → Keeps base (eff t)) : KeepsOut base (uniJump s row closed names reads own eff) := by
  unfold uniJump
  (repeat' split) <;> simp_all [Keeps]

@[simp] theorem State.vwrite_keeps {base : State} (s : State) (r : Nat) (t : Tag) (f : Nat → Word) (hk0 : Keeps base s) : Keeps base (State.vwrite s r t f) := by
  unfold State.vwrite
  (repeat' split) <;> simp [*]

@[simp] theorem lan_keeps {base : State} (s : State) (m : Bool) (len : Nat) (vs gs : List Nat) (ops : List Opnd) (own : List (Option Exc)) (eff : State → State) (hk0 : Keeps base s) (heff : ∀ t, Keeps base t → Keeps base (eff t)) : KeepsOut base (lan s m len vs gs ops own eff) := by
  unfold lan
  try dsimp only
  (repeat' first | assumption | split | (with_reducible apply foldl_keeps; intro _ _ _) | (with_reducible apply issue_keeps; · assumption) | (with_reducible apply uni_keeps; · assumption) | (with_reducible apply uniJump_keeps; · assumption) | (with_reducible apply withTiles_keeps; · assumption) | intro _ | dsimp only) <;> first | assumption | (simp (maxDischargeDepth := 40) +contextual [*]; done) | (simp (maxDischargeDepth := 40) +contextual [Keeps, *]; done)

@[simp] theorem State.fwrite_keeps {base : State} (s : State) (vd : Nat) (t : Tag) (f : Nat → Nat) (hk0 : Keeps base s) : Keeps base (State.fwrite s vd t f) := by
  unfold State.fwrite
  (repeat' split) <;> simp [*]

@[simp] theorem State.onCur_keeps {base : State} (s : State) (f : Group → Group) (hk0 : Keeps base s) : Keeps base (State.onCur s f) := by
  unfold State.onCur
  (repeat' split) <;> simp [*]

@[simp] theorem State.latchCsr_keeps {base : State} (s : State) (c : Csr) (hk0 : Keeps base s) : Keeps base (State.latchCsr s c) := by
  unfold State.latchCsr
  (repeat' split) <;> simp [*]

@[simp] theorem State.writeCsr_keeps {base : State} (s : State) (c : Csr) (w : Word) (hk0 : Keeps base s) : Keeps base (State.writeCsr s c w) := by
  unfold State.writeCsr
  (repeat' split) <;> simp [*]

@[simp] theorem State.takeEvent_keeps {base : State} (s : State) (e : EventRec) (hk0 : Keeps base s) : Keeps base (State.takeEvent s e) := by
  exact hk0

@[simp] theorem State.takeUser_keeps {base : State} (s : State) (e : EventRec) (hk0 : Keeps base s) : Keeps base (State.takeUser s e) := by
  simp [State.takeUser, hk0]

@[simp] theorem State.postEvent_keeps {base : State} (s : State) (e : EventRec) (hk0 : Keeps base s) : Keeps base (State.postEvent s e) := by
  simp [State.postEvent, hk0]

@[simp] theorem State.farWant_keeps {base : State} (s : State) (w : FarBy) (a n : Nat) (hk0 : Keeps base s) : Keeps base (State.farWant s w a n) := by
  simp [State.farWant, hk0]

@[simp] theorem State.farForget_keeps {base : State} (s : State) (w : FarBy) (hk0 : Keeps base s) : Keeps base (State.farForget s w) := by
  exact hk0

@[simp] theorem State.codeWant_keeps {base : State} (s : State) (blk : Nat) (pc : Word) (hk0 : Keeps base s) : Keeps base (State.codeWant s blk pc) := by
  unfold State.codeWant
  (repeat' split) <;> simp [*]

@[simp] theorem State.onSlot_keeps {base : State} (s : State) (n : Nat) (f : Slot → Slot) (hk0 : Keeps base s) : Keeps base (State.onSlot s n f) := by
  exact hk0

@[simp] theorem State.entered_keeps {base : State} (s : State) (k : GKey) (hk0 : Keeps base s) : Keeps base (State.entered s k) := by
  exact hk0

@[simp] theorem State.exchange_keeps {base : State} (s : State) (n : Nat) (out into : GKey) (hk0 : Keeps base s) : Keeps base (State.exchange s n out into) := by
  exact hk0

@[simp] theorem State.fillSlot_keeps {base : State} (s : State) (n : Nat) (hk0 : Keeps base s) : Keeps base (State.fillSlot s n) := by
  unfold State.fillSlot
  (repeat' split) <;> simp [*]

@[simp] theorem State.endGroup_keeps {base : State} (s : State) (k : GKey) (hk0 : Keeps base s) : Keeps base (State.endGroup s k) := by
  exact hk0

@[simp] theorem State.checkEnd_keeps {base : State} (s : State) (k : GKey) (hk0 : Keeps base s) : Keeps base (State.checkEnd s k) := by
  unfold State.checkEnd
  (repeat' split) <;> simp [*]

@[simp] theorem State.blurArea_keeps {base : State} (s : State) (i : Nat) (hk0 : Keeps base s) : Keeps base (State.blurArea s i) := by
  unfold State.blurArea
  (repeat' split) <;> simp [*]

@[simp] theorem uniGo_keeps {base : State} (s : State) (m : Bool) (names reads : List Nat) (target : Word) (hk0 : Keeps base s) : KeepsOut base (uniGo s m names reads target) := by
  unfold uniGo
  try dsimp only
  (repeat' first | assumption | split | (with_reducible apply foldl_keeps; intro _ _ _) | (with_reducible apply issue_keeps; · assumption) | (with_reducible apply uni_keeps; · assumption) | (with_reducible apply uniJump_keeps; · assumption) | (with_reducible apply withTiles_keeps; · assumption) | intro _ | dsimp only) <;> first | assumption | (simp (maxDischargeDepth := 40) +contextual [*]; done) | (simp (maxDischargeDepth := 40) +contextual [Keeps, *]; done)

@[simp] theorem State.settleCur_keeps {base : State} (s : State) (hk0 : Keeps base s) : Keeps base (State.settleCur s) := by
  unfold State.settleCur
  (repeat' split) <;> simp [*]

@[simp] theorem State.exitLanes_keeps {base : State} (s : State) (hk0 : Keeps base s) : Keeps base (State.exitLanes s) := by
  unfold State.exitLanes
  (repeat' split) <;> simp [*]

@[simp] theorem State.moveLanes_keeps {base : State} (s : State) (f : Nat → Word) (hk0 : Keeps base s) : Keeps base (State.moveLanes s f) := by
  unfold State.moveLanes
  (repeat' split) <;> simp [*]

@[simp] theorem laneBranch_keeps {base : State} (s : State) (m : Bool) (va : BitVec 8) (off : BitVec 32) (z : Bool) (hk0 : Keeps base s) : KeepsOut base (laneBranch s m va off z) := by
  unfold laneBranch
  try dsimp only
  (repeat' first | assumption | split | (with_reducible apply foldl_keeps; intro _ _ _) | (with_reducible apply issue_keeps; · assumption) | (with_reducible apply uni_keeps; · assumption) | (with_reducible apply uniJump_keeps; · assumption) | (with_reducible apply withTiles_keeps; · assumption) | intro _ | dsimp only) <;> first | assumption | (simp (maxDischargeDepth := 40) +contextual [*]; done) | (simp (maxDischargeDepth := 40) +contextual [Keeps, *]; done)

@[simp] theorem State.pushRas_keeps {base : State} (s : State) (lanes : Mask) (pc : Word) (hk0 : Keeps base s) : Keeps base (State.pushRas s lanes pc) := by
  unfold State.pushRas
  (repeat' split) <;> simp [*]

@[simp] theorem State.freeze_keeps {base : State} (s : State) (lanes : Mask) (hk0 : Keeps base s) : Keeps base (State.freeze s lanes) := by
  unfold State.freeze
  (repeat' split) <;> simp [*]

@[simp] theorem indirect_keeps {base : State} (s : State) (m : Bool) (va : BitVec 8) (push : Bool) (hk0 : Keeps base s) : KeepsOut base (indirect s m va push) := by
  unfold indirect
  try dsimp only
  (repeat' first | assumption | split | (with_reducible apply foldl_keeps; intro _ _ _) | (with_reducible apply issue_keeps; · assumption) | (with_reducible apply uni_keeps; · assumption) | (with_reducible apply uniJump_keeps; · assumption) | (with_reducible apply withTiles_keeps; · assumption) | intro _ | dsimp only) <;> first | assumption | (simp (maxDischargeDepth := 40) +contextual [*]; done) | (simp (maxDischargeDepth := 40) +contextual [Keeps, *]; done)

@[simp] theorem State.spill_keeps {base : State} (s : State) (k : GKey) (x : Mask) (xpc : Word) (mask : Nat) (hk0 : Keeps base s) : Keeps base (State.spill s k x xpc mask) := by
  unfold State.spill
  try dsimp only
  (repeat' first | assumption | split | (with_reducible apply foldl_keeps; intro _ _ _) | (with_reducible apply issue_keeps; · assumption) | (with_reducible apply uni_keeps; · assumption) | (with_reducible apply uniJump_keeps; · assumption) | (with_reducible apply withTiles_keeps; · assumption) | intro _ | dsimp only) <;> first | assumption | (simp (maxDischargeDepth := 40) +contextual [*]; done) | (simp (maxDischargeDepth := 40) +contextual [Keeps, *]; done)

@[simp] theorem spillBranch_keeps {base : State} (s : State) (m : Bool) (va gp : BitVec 8) (off : BitVec 32) (z : Bool) (hk0 : Keeps base s) : KeepsOut base (spillBranch s m va gp off z) := by
  unfold spillBranch
  try dsimp only
  (repeat' first | assumption | split | (with_reducible apply foldl_keeps; intro _ _ _) | (with_reducible apply issue_keeps; · assumption) | (with_reducible apply uni_keeps; · assumption) | (with_reducible apply uniJump_keeps; · assumption) | (with_reducible apply withTiles_keeps; · assumption) | intro _ | dsimp only) <;> first | assumption | (simp (maxDischargeDepth := 40) +contextual [*]; done) | (simp (maxDischargeDepth := 40) +contextual [Keeps, *]; done)

@[simp] theorem State.onFab_keeps {base : State} (s : State) (f : Fabric → Fabric) (hk0 : Keeps base s) : Keeps base (State.onFab s f) := by
  exact hk0

@[simp] theorem State.transmit_keeps {base : State} (s : State) (p : Packet) (hk0 : Keeps base s) : Keeps base (State.transmit s p) := by
  unfold State.transmit
  (repeat' split) <;> simp [*]

@[simp] theorem State.enqueue_keeps {base : State} (s : State) (p : Packet) (hk0 : Keeps base s) : Keeps base (State.enqueue s p) := by
  simp [State.enqueue, hk0]

@[simp] theorem State.useLocator_keeps {base : State} (s : State) (p : Packet) (hk0 : Keeps base s) : Keeps base (State.useLocator s p) := by
  unfold State.useLocator
  (repeat' split) <;> simp [*]

@[simp] theorem State.sendFirst_keeps {base : State} (s : State) (p : Packet) (hk0 : Keeps base s) : Keeps base (State.sendFirst s p) := by
  unfold State.sendFirst
  (repeat' split) <;> simp [*]

@[simp] theorem State.request_keeps {base : State} (s : State) (p : Packet) (r : Reply) (hk0 : Keeps base s) : Keeps base (State.request s p r) := by
  unfold State.request
  (repeat' split) <;> simp_all [Keeps]

@[simp] theorem State.coreRequest_keeps {base : State} (s : State) (core id : Nat) (p : Packet) (r : Reply) (hk0 : Keeps base s) : Keeps base (State.coreRequest s core id p r) := by
  unfold State.coreRequest
  (repeat' split) <;> simp_all [Keeps]

@[simp] theorem State.forgetWaits_keeps {base : State} (s : State) (w : Agent) (hk0 : Keeps base s) : Keeps base (State.forgetWaits s w) := by
  exact hk0

@[simp] theorem State.respond_keeps {base : State} (s : State) (p : Packet) (status : Nat) (id epoch : Nat) (values : List Word) (data : List Byte) (hk0 : Keeps base s) : Keeps base (State.respond s p status id epoch values data) := by
  simp [State.respond, hk0]

@[simp] theorem State.onChan_keeps {base : State} (s : State) (ch : Nat) (f : Channel → Channel) (hk0 : Keeps base s) : Keeps base (State.onChan s ch f) := by
  exact hk0

@[simp] theorem State.arriveAt_keeps {base : State} (s : State) (ch : Nat) (a : Activity) (hk0 : Keeps base s) : Keeps base (State.arriveAt s ch a) := by
  exact hk0

@[simp] theorem State.arriveRow_keeps {base : State} (s : State) (a : Activity) (hk0 : Keeps base s) : Keeps base (State.arriveRow s a) := by
  simp [State.arriveRow, hk0]

@[simp] theorem State.openRows_keeps {base : State} (s : State) (addrs : List Nat) (hk0 : Keeps base s) : Keeps base (State.openRows s addrs) := by
  unfold State.openRows
  (repeat' split) <;> simp_all [Keeps]

@[simp] theorem State.unblur_keeps {base : State} (s : State) (cells : List (Nat × Byte)) (hk0 : Keeps base s) : Keeps base (State.unblur s cells) := by
  simp [State.unblur, hk0]

@[simp] theorem State.regionRecord_keeps {base : State} (s : State) (slot line : Nat) (es : List Nat) (rd wr : Bool) (hk0 : Keeps base s) : Keeps base (State.regionRecord s slot line es rd wr) := by
  exact hk0

@[simp] theorem State.versionWrite_keeps {base : State} (s : State) (slot line : Nat) (cells : List (Nat × Byte)) (hk0 : Keeps base s) : Keeps base (State.versionWrite s slot line cells) := by
  simp [State.versionWrite, hk0]

@[simp] theorem State.strike_keeps {base : State} (s : State) (lines : List Nat) (hk0 : Keeps base s) : Keeps base (State.strike s lines) := by
  simp [State.strike, hk0]

@[simp] theorem State.unpoison_keeps {base : State} (s : State) (cells : List (Nat × Byte)) (hk0 : Keeps base s) : Keeps base (State.unpoison s cells) := by
  exact hk0

@[simp] theorem State.dirty_keeps {base : State} (s : State) (cells : List (Nat × Byte)) (hk0 : Keeps base s) : Keeps base (State.dirty s cells) := by
  simp [State.dirty, hk0]

@[simp] theorem State.notifyOwn_keeps {base : State} (s : State) (cells : List (Nat × Byte)) (hk0 : Keeps base s) : Keeps base (State.notifyOwn s cells) := by
  exact hk0

@[simp] theorem State.notifyRemote_keeps {base : State} (s : State) (cells : List (Nat × Byte)) (hk0 : Keeps base s) : Keeps base (State.notifyRemote s cells) := by
  unfold State.notifyRemote
  (repeat' split) <;> simp_all [Keeps]

@[simp] theorem State.markStale_keeps {base : State} (s : State) (cells : List (Nat × Byte)) (hk0 : Keeps base s) : Keeps base (State.markStale s cells) := by
  exact hk0

@[simp] theorem State.landCells_keeps {base : State} (s : State) (cells : List (Nat × Byte)) (hk0 : Keeps base s) : Keeps base (State.landCells s cells) := by
  have h1 : Keeps base { s with mem := s.mem.cells cells } := ⟨Memory.wf_cells hk0.1 _, hk0.2⟩
  unfold State.landCells
  simp (maxDischargeDepth := 40) [h1]

@[simp] theorem State.commitCells_keeps {base : State} (s : State) (cells : List (Nat × Byte)) (hk0 : Keeps base s) : Keeps base (State.commitCells s cells) := by
  simp [State.commitCells, hk0]

@[simp] theorem State.mergeGwct_keeps {base : State} (s : State) (w : Agent) (x : Nat) (hk0 : Keeps base s) : Keeps base (State.mergeGwct s w x) := by
  unfold State.mergeGwct
  (repeat' split) <;> simp [*]

@[simp] theorem State.acquire_keeps {base : State} (s : State) (w : Agent) (sc : Scope) (hk0 : Keeps base s) : Keeps base (State.acquire s w sc) := by
  unfold State.acquire
  (repeat' split) <;> simp [*]

@[simp] theorem State.dropCopies_keeps {base : State} (s : State) (core : Nat) (sectors : List Nat) (hk0 : Keeps base s) : Keeps base (State.dropCopies s core sectors) := by
  exact hk0

@[simp] theorem State.rankL1_keeps {base : State} (s : State) (core : Nat) (lines : List Nat) (h : Hint) (hk0 : Keeps base s) : Keeps base (State.rankL1 s core lines h) := by
  exact hk0

@[simp] theorem State.dropL1_keeps {base : State} (s : State) (core : Nat) (sectors : List Nat) (hk0 : Keeps base s) : Keeps base (State.dropL1 s core sectors) := by
  exact hk0

@[simp] theorem State.farSend_keeps {base : State} (s : State) (r : FarRead) (hk0 : Keeps base s) : Keeps base (State.farSend s r) := by
  unfold State.farSend
  (repeat' split) <;> simp_all [Keeps]

@[simp] theorem State.farGot_keeps {base : State} (s : State) (w : FarBy) (a status : Nat) (data : List Byte) (hk0 : Keeps base s) : Keeps base (State.farGot s w a status data) := by
  exact hk0

@[simp] theorem State.onTxn_keeps {base : State} (s : State) (id : Nat) (f : Txn → Txn) (hk0 : Keeps base s) : Keeps base (State.onTxn s id f) := by
  exact hk0

@[simp] theorem State.setPart_keeps {base : State} (s : State) (id n : Nat) (st : PartState) (hk0 : Keeps base s) : Keeps base (State.setPart s id n st) := by
  exact hk0

@[simp] theorem State.defer_keeps {base : State} (s : State) (w : Agent) (d : Deferred) (hk0 : Keeps base s) : Keeps base (State.defer s w d) := by
  unfold State.defer
  (repeat' split) <;> simp [*]

@[simp] theorem State.closeTxn_keeps {base : State} (s : State) (id : Nat) (hk0 : Keeps base s) : Keeps base (State.closeTxn s id) := by
  unfold State.closeTxn
  (repeat' split) <;> simp [*]

@[simp] theorem State.partDone_keeps {base : State} (s : State) (id n : Nat) (hk0 : Keeps base s) : Keeps base (State.partDone s id n) := by
  simp [State.partDone, hk0]

@[simp] theorem State.destMod_keeps {base : State} (s : State) (w : Agent) (d : Dest) (k l : Nat) (f : Word → Word) (hk0 : Keeps base s) : Keeps base (State.destMod s w d k l f) := by
  unfold State.destMod
  (repeat' split) <;> simp [*]

@[simp] theorem State.destLose_keeps {base : State} (s : State) (w : Agent) (d : Dest) (n l : Nat) (hk0 : Keeps base s) : Keeps base (State.destLose s w d n l) := by
  unfold State.destLose
  (repeat' split) <;> simp [*]

@[simp] theorem State.destBytes_keeps {base : State} (s : State) (w : Agent) (d : Dest) (z : Size) (p : Piece) (bs : List Byte) (hk0 : Keeps base s) : Keeps base (State.destBytes s w d z p bs) := by
  unfold State.destBytes
  try dsimp only
  (repeat' first | assumption | split | (with_reducible apply foldl_keeps; intro _ _ _) | (with_reducible apply issue_keeps; · assumption) | (with_reducible apply uni_keeps; · assumption) | (with_reducible apply uniJump_keeps; · assumption) | (with_reducible apply withTiles_keeps; · assumption) | intro _ | dsimp only) <;> first | assumption | (simp (maxDischargeDepth := 40) +contextual [*]; done) | (simp (maxDischargeDepth := 40) +contextual [Keeps, *]; done)

@[simp] theorem State.destPoison_keeps {base : State} (s : State) (t : Txn) (d : Dest) (n : Nat) (hk0 : Keeps base s) : Keeps base (State.destPoison s t d n) := by
  unfold State.destPoison
  (repeat' split) <;> simp [*]

@[simp] theorem State.checkPart_keeps {base : State} (s : State) (t : Txn) (p : Part) (hk0 : Keeps base s) : Keeps base (State.checkPart s t p) := by
  unfold State.checkPart
  try dsimp only
  (repeat' first | assumption | split | (with_reducible apply foldl_keeps; intro _ _ _) | (with_reducible apply issue_keeps; · assumption) | (with_reducible apply uni_keeps; · assumption) | (with_reducible apply uniJump_keeps; · assumption) | (with_reducible apply withTiles_keeps; · assumption) | intro _ | dsimp only) <;> first | assumption | (simp (maxDischargeDepth := 40) +contextual [*]; done) | (simp (maxDischargeDepth := 40) +contextual [Keeps, *]; done)

@[simp] theorem State.regionAccess_keeps {base : State} (s : State) (w : Agent) (ps : List Piece) (rd wr : Bool) (hk0 : Keeps base s) : Keeps base (State.regionAccess s w ps rd wr).1 := by
  unfold State.regionAccess
  try dsimp only
  (repeat' first | assumption | split | (with_reducible apply foldl_keeps; intro _ _ _) | (with_reducible apply issue_keeps; · assumption) | (with_reducible apply uni_keeps; · assumption) | (with_reducible apply uniJump_keeps; · assumption) | (with_reducible apply withTiles_keeps; · assumption) | intro _ | dsimp only) <;> first | assumption | (simp (maxDischargeDepth := 40) +contextual [*]; done) | (simp (maxDischargeDepth := 40) +contextual [Keeps, *]; done)

@[simp] theorem State.scrWrite_keeps {base : State} (s : State) (sg : SKey) (a : Nat) (bs : List Byte) (lane : Nat) (hk0 : Keeps base s) : Keeps base (State.scrWrite s sg a bs lane) := by
  unfold State.scrWrite
  (repeat' split) <;> simp_all [Keeps]

@[simp] theorem State.scrClean_keeps {base : State} (s : State) (sg : SKey) (ranges : List (Nat × Nat)) (hk0 : Keeps base s) : Keeps base (State.scrClean s sg ranges) := by
  simp [State.scrClean, hk0]

@[simp] theorem State.openTxn_keeps {base : State} (s : State) (m : Bool) (len : Nat) (kind : TxnKind) (parts : List Part) (faults : List (FaultCode × Nat)) (pre : State → State) (hk0 : Keeps base s) (hpre : ∀ t, Keeps base t → Keeps base (pre t)) : Keeps base (State.openTxn s m len kind parts faults pre) := by
  unfold State.openTxn
  try dsimp only
  (repeat' first | assumption | split | (with_reducible apply foldl_keeps; intro _ _ _) | (with_reducible apply issue_keeps; · assumption) | (with_reducible apply uni_keeps; · assumption) | (with_reducible apply uniJump_keeps; · assumption) | (with_reducible apply withTiles_keeps; · assumption) | intro _ | dsimp only) <;> first | assumption | (simp (maxDischargeDepth := 40) +contextual [*]; done) | (simp (maxDischargeDepth := 40) +contextual [Keeps, *]; done)

@[simp] theorem State.pendV_keeps {base : State} (s : State) (r n : Nat) (t : Tag) (hk0 : Keeps base s) : Keeps base (State.pendV s r n t) := by
  unfold State.pendV
  try dsimp only
  (repeat' first | assumption | split | (with_reducible apply foldl_keeps; intro _ _ _) | (with_reducible apply issue_keeps; · assumption) | (with_reducible apply uni_keeps; · assumption) | (with_reducible apply uniJump_keeps; · assumption) | (with_reducible apply withTiles_keeps; · assumption) | intro _ | dsimp only) <;> first | assumption | (simp (maxDischargeDepth := 40) +contextual [*]; done) | (simp (maxDischargeDepth := 40) +contextual [Keeps, *]; done)

@[simp] theorem State.pendU_keeps {base : State} (s : State) (r n : Nat) (hk0 : Keeps base s) : Keeps base (State.pendU s r n) := by
  unfold State.pendU
  try dsimp only
  (repeat' first | assumption | split | (with_reducible apply foldl_keeps; intro _ _ _) | (with_reducible apply issue_keeps; · assumption) | (with_reducible apply uni_keeps; · assumption) | (with_reducible apply uniJump_keeps; · assumption) | (with_reducible apply withTiles_keeps; · assumption) | intro _ | dsimp only) <;> first | assumption | (simp (maxDischargeDepth := 40) +contextual [*]; done) | (simp (maxDischargeDepth := 40) +contextual [Keeps, *]; done)

@[simp] theorem lanMem_keeps {base : State} (s : State) (vs gs : List Nat) (ops : List Opnd) (own : List (Option Exc)) (eff : State → State) (hk0 : Keeps base s) (heff : ∀ t, Keeps base t → Keeps base (eff t)) : KeepsOut base (lanMem s vs gs ops own eff) := by
  unfold lanMem
  (repeat' split) <;> simp_all [Keeps]

@[simp] theorem State.dropFor_keeps {base : State} (s : State) (h : Hint) (ps : List Piece) (hk0 : Keeps base s) : Keeps base (State.dropFor s h ps) := by
  exact hk0

@[simp] theorem State.pendRmw_keeps {base : State} (s : State) (dst : Option (BitVec 8)) (r : Rmw) (vs : Nat) (hk0 : Keeps base s) : Keeps base (State.pendRmw s dst r vs) := by
  unfold State.pendRmw
  try dsimp only
  (repeat' first | assumption | split | (with_reducible apply foldl_keeps; intro _ _ _) | (with_reducible apply issue_keeps; · assumption) | (with_reducible apply uni_keeps; · assumption) | (with_reducible apply uniJump_keeps; · assumption) | (with_reducible apply withTiles_keeps; · assumption) | intro _ | dsimp only) <;> first | assumption | (simp (maxDischargeDepth := 40) +contextual [*]; done) | (simp (maxDischargeDepth := 40) +contextual [Keeps, *]; done)

@[simp] theorem State.sendPart_keeps {base : State} (s : State) (t : Txn) (n : Nat) (good : List Piece) (chip : Nat) (g : Bool) (id off : Nat) (hk0 : Keeps base s) : Keeps base (State.sendPart s t n good chip g id off) := by
  simp [State.sendPart, hk0]

@[simp] theorem State.countLocalN_keeps {base : State} (s : State) (id n : Nat) (hk0 : Keeps base s) : Keeps base (State.countLocalN s id n) := by
  exact hk0

@[simp] theorem State.countLocal_keeps {base : State} (s : State) (id : Nat) (hk0 : Keeps base s) : Keeps base (State.countLocal s id) := by
  exact hk0

@[simp] theorem State.refreshL1_keeps {base : State} (s : State) (core sec : Nat) (hk0 : Keeps base s) : Keeps base (State.refreshL1 s core sec) := by
  simp [State.refreshL1, hk0]

@[simp] theorem State.installL1_keeps {base : State} (s : State) (x : L1Sector) (hk0 : Keeps base s) : Keeps base (State.installL1 s x) := by
  exact hk0

@[simp] theorem State.l1After_keeps {base : State} (s : State) (t : Txn) (p : Part) (a : Nat) (d : Desc) (sync : Sync) (hint : Hint) (hk0 : Keeps base s) : Keeps base (State.l1After s t p a d sync hint) := by
  unfold State.l1After
  try dsimp only
  (repeat' first | assumption | split | (with_reducible apply foldl_keeps; intro _ _ _) | (with_reducible apply issue_keeps; · assumption) | (with_reducible apply uni_keeps; · assumption) | (with_reducible apply uniJump_keeps; · assumption) | (with_reducible apply withTiles_keeps; · assumption) | intro _ | dsimp only) <;> first | assumption | (simp (maxDischargeDepth := 40) +contextual [*]; done) | (simp (maxDischargeDepth := 40) +contextual [Keeps, *]; done)

@[simp] theorem State.acquireOf_keeps {base : State} (s : State) (w : Agent) (y : Sync) (hk0 : Keeps base s) : Keeps base (State.acquireOf s w y) := by
  unfold State.acquireOf
  (repeat' split) <;> simp [*]

@[simp] theorem State.deliver_keeps {base : State} (s : State) (t : Txn) (d : Dest) (z : Size) (ps : List Piece) (f : Nat → Byte) (hk0 : Keeps base s) : Keeps base (State.deliver s t d z ps f) := by
  unfold State.deliver
  (repeat' split) <;> simp_all [Keeps]

@[simp] theorem State.homeLoad_keeps {base : State} (s : State) (t : Txn) (good : List Piece) (a : Nat) (d : Dest) (z : Size) (f : Nat → Byte) (hk0 : Keeps base s) : Keeps base (State.homeLoad s t good a d z f) := by
  simp [State.homeLoad, hk0]

@[simp] theorem State.loadServed_keeps {base : State} (s : State) (t : Txn) (n : Nat) (good : List Piece) (x : L1Sector) (d : Dest) (z : Size) (h : Hint) (hk0 : Keeps base s) : Keeps base (State.loadServed s t n good x d z h) := by
  unfold State.loadServed
  try dsimp only
  (repeat' first | assumption | split | (with_reducible apply foldl_keeps; intro _ _ _) | (with_reducible apply issue_keeps; · assumption) | (with_reducible apply uni_keeps; · assumption) | (with_reducible apply uniJump_keeps; · assumption) | (with_reducible apply withTiles_keeps; · assumption) | intro _ | dsimp only) <;> first | assumption | (simp (maxDischargeDepth := 40) +contextual [*]; done) | (simp (maxDischargeDepth := 40) +contextual [Keeps, *]; done)

@[simp] theorem State.loadHere_keeps {base : State} (s : State) (t : Txn) (n : Nat) (p : Part) (good : List Piece) (a : Nat) (ds : Desc) (d : Dest) (z : Size) (y : Sync) (h : Hint) (hk0 : Keeps base s) : Keeps base (State.loadHere s t n p good a ds d z y h) := by
  unfold State.loadHere
  try dsimp only
  skip
  have hr := State.regionAccess_keeps s t.who good true false hk0
  split <;> (rename_i hq; rw [hq] at hr; (repeat' first | assumption | split | (with_reducible apply foldl_keeps; intro _ _ _) | intro _ | dsimp only) <;> first | assumption | (simp (maxDischargeDepth := 40) +contextual [*]; done) | (simp (maxDischargeDepth := 40) +contextual [Keeps, *]; done))

@[simp] theorem State.storeHere_keeps {base : State} (s : State) (t : Txn) (n : Nat) (good : List Piece) (a : Nat) (ds : Desc) (data : List (Nat × Nat)) (hk0 : Keeps base s) : Keeps base (State.storeHere s t n good a ds data) := by
  unfold State.storeHere
  try dsimp only
  skip
  have hr := State.regionAccess_keeps s t.who good false true hk0
  split <;> (rename_i hq; rw [hq] at hr; (repeat' first | assumption | split | (with_reducible apply foldl_keeps; intro _ _ _) | intro _ | dsimp only) <;> first | assumption | (simp (maxDischargeDepth := 40) +contextual [*]; done) | (simp (maxDischargeDepth := 40) +contextual [Keeps, *]; done))

@[simp] theorem State.returnOld_keeps {base : State} (s : State) (w : Agent) (d : Dest) (r : Rmw) (lane old : Nat) (hk0 : Keeps base s) : Keeps base (State.returnOld s w d r lane old) := by
  unfold State.returnOld
  (repeat' split) <;> simp_all [Keeps]

@[simp] theorem State.atomHere_keeps {base : State} (s : State) (t : Txn) (n : Nat) (x : Piece) (a : Nat) (ds : Desc) (d : Dest) (r : Rmw) (sc : Scope) (ops : List Word) (hk0 : Keeps base s) : Keeps base (State.atomHere s t n x a ds d r sc ops) := by
  unfold State.atomHere
  try dsimp only
  skip
  have hr := State.regionAccess_keeps s t.who [x] true true hk0
  split <;> (rename_i hq; rw [hq] at hr; (repeat' first | assumption | split | (with_reducible apply foldl_keeps; intro _ _ _) | intro _ | dsimp only) <;> first | assumption | (simp (maxDischargeDepth := 40) +contextual [*]; done) | (simp (maxDischargeDepth := 40) +contextual [Keeps, *]; done))

@[simp] theorem State.trxNote_keeps {base : State} (s : State) (id : Nat) (cs : List (Nat × Option Byte)) (hk0 : Keeps base s) : Keeps base (State.trxNote s id cs) := by
  exact hk0

@[simp] theorem State.trxFinish_keeps {base : State} (s : State) (t : Txn) (vd ge tb : Nat) (items : List (Nat × Word × Word)) (cells : List (Nat × Option Byte)) (hk0 : Keeps base s) : Keeps base (State.trxFinish s t vd ge tb items cells) := by
  unfold State.trxFinish
  try dsimp only
  (repeat' first | assumption | split | (with_reducible apply foldl_keeps; intro _ _ _) | (with_reducible apply issue_keeps; · assumption) | (with_reducible apply uni_keeps; · assumption) | (with_reducible apply uniJump_keeps; · assumption) | (with_reducible apply withTiles_keeps; · assumption) | intro _ | dsimp only) <;> first | assumption | (simp (maxDischargeDepth := 40) +contextual [*]; done) | (simp (maxDischargeDepth := 40) +contextual [Keeps, *]; done)

@[simp] theorem State.trxNext_keeps {base : State} (s : State) (id n : Nat) (hk0 : Keeps base s) : Keeps base (State.trxNext s id n) := by
  unfold State.trxNext
  try dsimp only
  (repeat' first | assumption | split | (with_reducible apply foldl_keeps; intro _ _ _) | (with_reducible apply issue_keeps; · assumption) | (with_reducible apply uni_keeps; · assumption) | (with_reducible apply uniJump_keeps; · assumption) | (with_reducible apply withTiles_keeps; · assumption) | intro _ | dsimp only) <;> first | assumption | (simp (maxDischargeDepth := 40) +contextual [*]; done) | (simp (maxDischargeDepth := 40) +contextual [Keeps, *]; done)

@[simp] theorem State.trxPart_keeps {base : State} (s : State) (t : Txn) (n : Nat) (p : Part) (hk0 : Keeps base s) : Keeps base (State.trxPart s t n p) := by
  unfold State.trxPart
  try dsimp only
  (repeat' first | assumption | split | (with_reducible apply foldl_keeps; intro _ _ _) | (with_reducible apply issue_keeps; · assumption) | (with_reducible apply uni_keeps; · assumption) | (with_reducible apply uniJump_keeps; · assumption) | (with_reducible apply withTiles_keeps; · assumption) | intro _ | dsimp only) <;> first | assumption | (simp (maxDischargeDepth := 40) +contextual [*]; done) | (simp (maxDischargeDepth := 40) +contextual [Keeps, *]; done)

@[simp] theorem State.scrPart_keeps {base : State} (s : State) (t : Txn) (n : Nat) (p : Part) (hk0 : Keeps base s) : Keeps base (State.scrPart s t n p) := by
  unfold State.scrPart
  try dsimp only
  (repeat' first | assumption | split | (with_reducible apply foldl_keeps; intro _ _ _) | (with_reducible apply issue_keeps; · assumption) | (with_reducible apply uni_keeps; · assumption) | (with_reducible apply uniJump_keeps; · assumption) | (with_reducible apply withTiles_keeps; · assumption) | intro _ | dsimp only) <;> first | assumption | (simp (maxDischargeDepth := 40) +contextual [*]; done) | (simp (maxDischargeDepth := 40) +contextual [Keeps, *]; done)

@[simp] theorem State.probeNote_keeps {base : State} (s : State) (t : Txn) (n : Nat) (x : Piece) (found : Option (Nat × Word)) (hk0 : Keeps base s) : Keeps base (State.probeNote s t n x found) := by
  unfold State.probeNote
  try dsimp only
  (repeat' first | assumption | split | (with_reducible apply foldl_keeps; intro _ _ _) | (with_reducible apply issue_keeps; · assumption) | (with_reducible apply uni_keeps; · assumption) | (with_reducible apply uniJump_keeps; · assumption) | (with_reducible apply withTiles_keeps; · assumption) | intro _ | dsimp only) <;> first | assumption | (simp (maxDischargeDepth := 40) +contextual [*]; done) | (simp (maxDischargeDepth := 40) +contextual [Keeps, *]; done)

@[simp] theorem State.probePart_keeps {base : State} (s : State) (t : Txn) (n : Nat) (p : Part) (hk0 : Keeps base s) : Keeps base (State.probePart s t n p) := by
  unfold State.probePart
  (repeat' split) <;> simp [*]

@[simp] theorem State.objPart_keeps {base : State} (s : State) (t : Txn) (n : Nat) (p : Part) (hk0 : Keeps base s) : Keeps base (State.objPart s t n p) := by
  unfold State.objPart
  try dsimp only
  (repeat' first | assumption | split | (with_reducible apply foldl_keeps; intro _ _ _) | (with_reducible apply issue_keeps; · assumption) | (with_reducible apply uni_keeps; · assumption) | (with_reducible apply uniJump_keeps; · assumption) | (with_reducible apply withTiles_keeps; · assumption) | intro _ | dsimp only) <;> first | assumption | (simp (maxDischargeDepth := 40) +contextual [*]; done) | (simp (maxDischargeDepth := 40) +contextual [Keeps, *]; done)

@[simp] theorem State.performPart_keeps {base : State} (s : State) (t : Txn) (n : Nat) (hk0 : Keeps base s) : Keeps base (State.performPart s t n) := by
  unfold State.performPart
  (repeat' split) <;> simp [*]

end Sys2Proof.Machine
end

