-- ==== Sys2Proof/Laws/KeepsUnits.lean ====
section
/-! SUPPORT. What the operations of the engines, the sequencers and the memory side keep, one lemma an operation. -/

set_option linter.all false

namespace Sys2Proof.Machine

@[simp] theorem State.endPathWait_keeps {base : State} (s : State) (k : GKey) (lanes : Mask) (hk0 : Keeps base s) : Keeps base (State.endPathWait s k lanes) := by
  exact hk0

@[simp] theorem State.endSeqWait_keeps {base : State} (s : State) (q : QKey) (hk0 : Keeps base s) : Keeps base (State.endSeqWait s q) := by
  exact hk0

@[simp] theorem State.payOwed_keeps {base : State} (s : State) (hk0 : Keeps base s) : Keeps base (State.payOwed s) := by
  exact hk0

@[simp] theorem State.bringSeen_keeps {base : State} (s : State) (q : QKey) (k : Nat) (hk0 : Keeps base s) : Keeps base (State.bringSeen s q k) := by
  simp [State.bringSeen, hk0]

@[simp] theorem State.makeSeen_keeps {base : State} (s : State) (blk k : Nat) (hk0 : Keeps base s) : Keeps base (State.makeSeen s blk k) := by
  refine ⟨hk0.1, ?_, hk0.2.2⟩
  intro e he
  simp only [State.makeSeen, List.mem_map] at he
  obtain ⟨x, hx, rfl⟩ := he
  split <;> exact hk0.2.1 x hx

@[simp] theorem State.completePhase_keeps {base : State} (s : State) (blk k : Nat) (hk0 : Keeps base s) : Keeps base (State.completePhase s blk k) := by
  unfold State.completePhase
  try dsimp only
  (repeat' first | assumption | split | (with_reducible apply foldl_keeps; intro _ _ _) | (with_reducible apply issue_keeps; · assumption) | (with_reducible apply uni_keeps; · assumption) | (with_reducible apply uniJump_keeps; · assumption) | (with_reducible apply withTiles_keeps; · assumption) | intro _ | dsimp only) <;> first | assumption | (simp (maxDischargeDepth := 40) +contextual [*]; done) | (simp (maxDischargeDepth := 40) +contextual [Keeps, *]; done)

@[simp] theorem State.arrive_keeps {base : State} (s : State) (k gb : Nat) (hk0 : Keeps base s) : Keeps base (State.arrive s k gb) := by
  unfold State.arrive
  try dsimp only
  (repeat' first | assumption | split | (with_reducible apply foldl_keeps; intro _ _ _) | (with_reducible apply issue_keeps; · assumption) | (with_reducible apply uni_keeps; · assumption) | (with_reducible apply uniJump_keeps; · assumption) | (with_reducible apply withTiles_keeps; · assumption) | intro _ | dsimp only) <;> first | assumption | (simp (maxDischargeDepth := 40) +contextual [*]; done) | (simp (maxDischargeDepth := 40) +contextual [Keeps, *]; done)

@[simp] theorem State.barWait_keeps {base : State} (s : State) (k : Nat) (phase m : Bool) (hk0 : Keeps base s) : Keeps base (State.barWait s k phase m) := by
  unfold State.barWait
  (repeat' split) <;> simp [*]

@[simp] theorem State.barJoin_keeps {base : State} (s : State) (k : Nat) (phase m : Bool) (hk0 : Keeps base s) : Keeps base (State.barJoin s k phase m) := by
  simp [State.barJoin, hk0]

@[simp] theorem State.gsyncRelease_keeps {base : State} (s : State) (k : GKey) (mask : Mask) (hk0 : Keeps base s) : Keeps base (State.gsyncRelease s k mask) := by
  unfold State.gsyncRelease
  (repeat' split) <;> simp [*]

@[simp] theorem State.clearWait_keeps {base : State} (s : State) (w : Agent) (hk0 : Keeps base s) : Keeps base (State.clearWait s w) := by
  unfold State.clearWait
  (repeat' split) <;> simp [*]

@[simp] theorem State.endWaitc_keeps {base : State} (s : State) (w : Agent) (x : Waitc) (result : Word) (hk0 : Keeps base s) : Keeps base (State.endWaitc s w x result) := by
  unfold State.endWaitc
  try dsimp only
  (repeat' first | assumption | split | (with_reducible apply foldl_keeps; intro _ _ _) | (with_reducible apply issue_keeps; · assumption) | (with_reducible apply uni_keeps; · assumption) | (with_reducible apply uniJump_keeps; · assumption) | (with_reducible apply withTiles_keeps; · assumption) | intro _ | dsimp only) <;> first | assumption | (simp (maxDischargeDepth := 40) +contextual [*]; done) | (simp (maxDischargeDepth := 40) +contextual [Keeps, *]; done)

@[simp] theorem State.failWaitc_keeps {base : State} (s : State) (w : Agent) (x : Waitc) (c : FaultCode) (hk0 : Keeps base s) : Keeps base (State.failWaitc s w x c) := by
  unfold State.failWaitc
  try dsimp only
  (repeat' first | assumption | split | (with_reducible apply foldl_keeps; intro _ _ _) | (with_reducible apply issue_keeps; · assumption) | (with_reducible apply uni_keeps; · assumption) | (with_reducible apply uniJump_keeps; · assumption) | (with_reducible apply withTiles_keeps; · assumption) | intro _ | dsimp only) <;> first | assumption | (simp (maxDischargeDepth := 40) +contextual [*]; done) | (simp (maxDischargeDepth := 40) +contextual [Keeps, *]; done)

@[simp] theorem State.setWaitc_keeps {base : State} (s : State) (w : Agent) (x : Waitc) (hk0 : Keeps base s) : Keeps base (State.setWaitc s w x) := by
  unfold State.setWaitc
  (repeat' split) <;> simp [*]

@[simp] theorem State.lookWaitc_keeps {base : State} (s : State) (w : Agent) (x : Waitc) (hk0 : Keeps base s) : Keeps base (State.lookWaitc s w x) := by
  unfold State.lookWaitc
  try dsimp only
  (repeat' first | assumption | split | (with_reducible apply foldl_keeps; intro _ _ _) | (with_reducible apply issue_keeps; · assumption) | (with_reducible apply uni_keeps; · assumption) | (with_reducible apply uniJump_keeps; · assumption) | (with_reducible apply withTiles_keeps; · assumption) | intro _ | dsimp only) <;> first | assumption | (simp (maxDischargeDepth := 40) +contextual [*]; done) | (simp (maxDischargeDepth := 40) +contextual [Keeps, *]; done)

@[simp] theorem State.sweepOps_keeps {base : State} (s : State) (hk0 : Keeps base s) : Keeps base (State.sweepOps s) := by
  exact hk0

@[simp] theorem State.observe_keeps {base : State} (s : State) (h : Handle) (hk0 : Keeps base s) : Keeps base (State.observe s h) := by
  unfold State.observe
  (repeat' split) <;> simp [*]

@[simp] theorem State.newOp_keeps {base : State} (s : State) (kind : OpKind) (armed : Bool) (hk0 : Keeps base s) : Keeps base (State.newOp s kind armed).1 := by
  exact hk0

@[simp] theorem future_keeps {base : State} (s : State) (m : Bool) (row : Row) (k : BitVec 4) (names : List Nat) (own : List (Option Exc)) (kind : State → OpKind) (eff : State → Nat → State) (hk0 : Keeps base s) (heff : ∀ t n, Keeps base t → Keeps base (eff t n)) : KeepsOut base (future s m row k names own kind eff) := by
  unfold future
  try dsimp only
  (repeat' first | assumption | split | (with_reducible apply foldl_keeps; intro _ _ _) | (with_reducible apply issue_keeps; · assumption) | (with_reducible apply uni_keeps; · assumption) | (with_reducible apply uniJump_keeps; · assumption) | (with_reducible apply withTiles_keeps; · assumption) | intro _ | dsimp only) <;> first | assumption | (simp (maxDischargeDepth := 40) +contextual [*]; done) | (simp (maxDischargeDepth := 40) +contextual [Keeps, *]; done)

@[simp] theorem State.onTile_keeps {base : State} (s : State) (sg : SKey) (n : Nat) (f : Tile → Tile) (hk0 : Keeps base s) : Keeps base (State.onTile s sg n f) := by
  simp [State.onTile, hk0]

@[simp] theorem uniTile_keeps {base : State} (s : State) (row : Row) (ill : Bool) (names reads : List Nat) (own : List (Option Exc)) (eff : State → State) (hk0 : Keeps base s) (heff : ∀ t, Keeps base t → Keeps base (eff t)) : KeepsOut base (uniTile s row ill names reads own eff) := by
  unfold uniTile
  (repeat' split) <;> simp_all [Keeps]

@[simp] theorem State.nameTile_keeps {base : State} (s : State) (sg : SKey) (n : Nat) (hk0 : Keeps base s) : Keeps base (State.nameTile s sg n) := by
  unfold State.nameTile
  (repeat' split) <;> simp [*]

@[simp] theorem State.popTile_keeps {base : State} (s : State) (sg : SKey) (spec : TileSpec) (hk0 : Keeps base s) : Keeps base (State.popTile s sg spec) := by
  unfold State.popTile
  try dsimp only
  (repeat' first | assumption | split | (with_reducible apply foldl_keeps; intro _ _ _) | (with_reducible apply issue_keeps; · assumption) | (with_reducible apply uni_keeps; · assumption) | (with_reducible apply uniJump_keeps; · assumption) | (with_reducible apply withTiles_keeps; · assumption) | intro _ | dsimp only) <;> first | assumption | (simp (maxDischargeDepth := 40) +contextual [*]; done) | (simp (maxDischargeDepth := 40) +contextual [Keeps, *]; done)

@[simp] theorem withTiles_keeps {base : State} (t : State) (us : List TileUse) (eff : State → State) (hk0 : Keeps base t) (heff : ∀ t, Keeps base t → Keeps base (eff t)) : Keeps base (withTiles t us eff) := by
  unfold withTiles
  (repeat' split) <;> simp [*]

@[simp] theorem State.fillTile_keeps {base : State} (s : State) (sg : SKey) (n : Nat) (origin : Option Nat) (hk0 : Keeps base s) : Keeps base (State.fillTile s sg n origin) := by
  simp [State.fillTile, hk0]

@[simp] theorem State.tileDone_keeps {base : State} (s : State) (sg : SKey) (n code : Nat) (hk0 : Keeps base s) : Keeps base (State.tileDone s sg n code) := by
  simp [State.tileDone, hk0]

@[simp] theorem State.tileCancel_keeps {base : State} (s : State) (sg : SKey) (n : Nat) (hk0 : Keeps base s) : Keeps base (State.tileCancel s sg n) := by
  simp [State.tileCancel, hk0]

@[simp] theorem State.tileDrained_keeps {base : State} (s : State) (sg : SKey) (n : Nat) (hk0 : Keeps base s) : Keeps base (State.tileDrained s sg n) := by
  simp [State.tileDrained, hk0]

@[simp] theorem State.makeReady_keeps {base : State} (s : State) (i : Nat) (hk0 : Keeps base s) : Keeps base (State.makeReady s i) := by
  exact hk0

@[simp] theorem State.decTask_keeps {base : State} (s : State) (i amount : Nat) (hk0 : Keeps base s) : Keeps base (State.decTask s i amount).1 := by
  unfold State.decTask
  (repeat' split) <;> simp [*]

@[simp] theorem State.eAskAs_keeps {base : State} (s : State) (o : Nat) (type : PacketType) (body : Dword → Nat → PBody) (ranges : List (Nat × Nat)) (hk0 : Keeps base s) : Keeps base (State.eAskAs s o type body ranges) := by
  unfold State.eAskAs
  try dsimp only
  (repeat' first | assumption | split | (with_reducible apply foldl_keeps; intro _ _ _) | (with_reducible apply issue_keeps; · assumption) | (with_reducible apply uni_keeps; · assumption) | (with_reducible apply uniJump_keeps; · assumption) | (with_reducible apply withTiles_keeps; · assumption) | intro _ | dsimp only) <;> first | assumption | (simp (maxDischargeDepth := 40) +contextual [*]; done) | (simp (maxDischargeDepth := 40) +contextual [Keeps, *]; done)

@[simp] theorem State.enterFrames_keeps {base : State} (s : State) (o : Nat) (l : List (Nat × Nat)) (hk0 : Keeps base s) : Keeps base (State.enterFrames s o l) := by
  unfold State.enterFrames
  try dsimp only
  (repeat' first | assumption | split | (with_reducible apply foldl_keeps; intro _ _ _) | (with_reducible apply issue_keeps; · assumption) | (with_reducible apply uni_keeps; · assumption) | (with_reducible apply uniJump_keeps; · assumption) | (with_reducible apply withTiles_keeps; · assumption) | intro _ | dsimp only) <;> first | assumption | (simp (maxDischargeDepth := 40) +contextual [*]; done) | (simp (maxDischargeDepth := 40) +contextual [Keeps, *]; done)

@[simp] theorem State.departFrames_keeps {base : State} (s : State) (o : Nat) (hk0 : Keeps base s) : Keeps base (State.departFrames s o) := by
  unfold State.departFrames
  try dsimp only
  (repeat' first | assumption | split | (with_reducible apply foldl_keeps; intro _ _ _) | (with_reducible apply keeps_elim) | (with_reducible apply State.entered_keeps) | (with_reducible apply State.request_keeps) | (with_reducible apply State.onOp_keeps) | intro _ | dsimp only) <;> first | assumption | (simp (maxDischargeDepth := 40) +contextual [*]; done) | (simp (maxDischargeDepth := 40) +contextual [Keeps, *]; done)

@[simp] theorem State.eAsk_keeps {base : State} (s : State) (o : Nat) (ranges : List (Nat × Nat)) (hk0 : Keeps base s) : Keeps base (State.eAsk s o ranges) := by
  simp [State.eAsk, hk0]

@[simp] theorem State.opGwct_keeps {base : State} (s : State) (o line : Nat) (d : Desc) (hk0 : Keeps base s) : Keeps base (State.opGwct s o line d) := by
  exact hk0

@[simp] theorem State.eCount_keeps {base : State} (s : State) (ranges : List (Nat × Nat)) (hk0 : Keeps base s) : Keeps base (State.eCount s ranges) := by
  unfold State.eCount
  try dsimp only
  (repeat' first | assumption | split | (with_reducible apply foldl_keeps; intro _ _ _) | (with_reducible apply issue_keeps; · assumption) | (with_reducible apply uni_keeps; · assumption) | (with_reducible apply uniJump_keeps; · assumption) | (with_reducible apply withTiles_keeps; · assumption) | intro _ | dsimp only) <;> first | assumption | (simp (maxDischargeDepth := 40) +contextual [*]; done) | (simp (maxDischargeDepth := 40) +contextual [Keeps, *]; done)

@[simp] theorem State.eWriteAs_keeps {base : State} (s : State) (k : AccessKind) (o : Nat) (cells : List (Nat × Byte)) (hk0 : Keeps base s) : Keeps base (State.eWriteAs s k o cells) := by
  unfold State.eWriteAs
  try dsimp only
  (repeat' first | assumption | split | (with_reducible apply foldl_keeps; intro _ _ _) | (with_reducible apply issue_keeps; · assumption) | (with_reducible apply uni_keeps; · assumption) | (with_reducible apply uniJump_keeps; · assumption) | (with_reducible apply withTiles_keeps; · assumption) | intro _ | dsimp only) <;> first | assumption | (simp (maxDischargeDepth := 40) +contextual [*]; done) | (simp (maxDischargeDepth := 40) +contextual [Keeps, *]; done)

@[simp] theorem State.eWrite_keeps {base : State} (s : State) (o : Nat) (cells : List (Nat × Byte)) (hk0 : Keeps base s) : Keeps base (State.eWrite s o cells) := by
  unfold State.eWrite
  try dsimp only
  (repeat' first | assumption | split | (with_reducible apply foldl_keeps; intro _ _ _) | (with_reducible apply issue_keeps; · assumption) | (with_reducible apply uni_keeps; · assumption) | (with_reducible apply uniJump_keeps; · assumption) | (with_reducible apply withTiles_keeps; · assumption) | intro _ | dsimp only) <;> first | assumption | (simp (maxDischargeDepth := 40) +contextual [*]; done) | (simp (maxDischargeDepth := 40) +contextual [Keeps, *]; done)

@[simp] theorem State.resolve_keeps {base : State} (s : State) (o : Nat) (st : OpState) (hk0 : Keeps base s) : Keeps base (State.resolve s o st) := by
  exact hk0

@[simp] theorem State.copyTiles_keeps {base : State} (s : State) (c : Copy) (spec : TileSpec) (o : Nat) (hk0 : Keeps base s) : Keeps base (State.copyTiles s c spec o) := by
  unfold State.copyTiles
  try dsimp only
  (repeat' first | assumption | split | (with_reducible apply foldl_keeps; intro _ _ _) | (with_reducible apply issue_keeps; · assumption) | (with_reducible apply uni_keeps; · assumption) | (with_reducible apply uniJump_keeps; · assumption) | (with_reducible apply withTiles_keeps; · assumption) | intro _ | dsimp only) <;> first | assumption | (simp (maxDischargeDepth := 40) +contextual [*]; done) | (simp (maxDischargeDepth := 40) +contextual [Keeps, *]; done)

@[simp] theorem copyFuture_keeps {base : State} (s : State) (m : Bool) (k : BitVec 4) (ga gb : BitVec 9) (mcast : Bool) (hk0 : Keeps base s) : KeepsOut base (copyFuture s m k ga gb mcast) := by
  unfold copyFuture
  try dsimp only
  (repeat' first | assumption | split | (with_reducible apply foldl_keeps; intro _ _ _) | (with_reducible apply issue_keeps; · assumption) | (with_reducible apply uni_keeps; · assumption) | (with_reducible apply uniJump_keeps; · assumption) | (with_reducible apply withTiles_keeps; · assumption) | intro _ | dsimp only) <;> first | assumption | (simp (maxDischargeDepth := 40) +contextual [*]; done) | (simp (maxDischargeDepth := 40) +contextual [Keeps, *]; done)

@[simp] theorem State.scrCells_keeps {base : State} (s : State) (sg : SKey) (cells : List (Nat × Byte)) (own : Bool) (hk0 : Keeps base s) : Keeps base (State.scrCells s sg cells own) := by
  unfold State.scrCells
  try dsimp only
  (repeat' first | assumption | split | (with_reducible apply foldl_keeps; intro _ _ _) | (with_reducible apply issue_keeps; · assumption) | (with_reducible apply uni_keeps; · assumption) | (with_reducible apply uniJump_keeps; · assumption) | (with_reducible apply withTiles_keeps; · assumption) | intro _ | dsimp only) <;> first | assumption | (simp (maxDischargeDepth := 40) +contextual [*]; done) | (simp (maxDischargeDepth := 40) +contextual [Keeps, *]; done)

@[simp] theorem State.oweGwct_keeps {base : State} (s : State) (w : Agent) (x : Nat) (hk0 : Keeps base s) : Keeps base (State.oweGwct s w x) := by
  unfold State.oweGwct
  (repeat' split) <;> simp [*]

@[simp] theorem State.tilesEnd_keeps {base : State} (s : State) (c : Copy) (ks : List SKey) (codes : List Nat) (code : Nat) (hk0 : Keeps base s) : Keeps base (State.tilesEnd s c ks codes code) := by
  unfold State.tilesEnd
  try dsimp only
  (repeat' first | assumption | split | (with_reducible apply foldl_keeps; intro _ _ _) | (with_reducible apply issue_keeps; · assumption) | (with_reducible apply uni_keeps; · assumption) | (with_reducible apply uniJump_keeps; · assumption) | (with_reducible apply withTiles_keeps; · assumption) | intro _ | dsimp only) <;> first | assumption | (simp (maxDischargeDepth := 40) +contextual [*]; done) | (simp (maxDischargeDepth := 40) +contextual [Keeps, *]; done)

@[simp] theorem State.copyEnd_keeps {base : State} (s : State) (o : Nat) (c : Copy) (st : OpState) (hk0 : Keeps base s) : Keeps base (State.copyEnd s o c st) := by
  unfold State.copyEnd
  try dsimp only
  (repeat' first | assumption | split | (with_reducible apply foldl_keeps; intro _ _ _) | (with_reducible apply issue_keeps; · assumption) | (with_reducible apply uni_keeps; · assumption) | (with_reducible apply uniJump_keeps; · assumption) | (with_reducible apply withTiles_keeps; · assumption) | intro _ | dsimp only) <;> first | assumption | (simp (maxDischargeDepth := 40) +contextual [*]; done) | (simp (maxDischargeDepth := 40) +contextual [Keeps, *]; done)

@[simp] theorem State.eWriteEach_keeps {base : State} (s : State) (o : Nat) (elems : List (List (Nat × Byte))) (hk0 : Keeps base s) : Keeps base (State.eWriteEach s o elems) := by
  unfold State.eWriteEach
  (repeat' split) <;> simp_all [Keeps]

@[simp] theorem State.copyWrite_keeps {base : State} (s : State) (o i : Nat) (c : Copy) (elems : List (List (Nat × Byte))) (hk0 : Keeps base s) : Keeps base (State.copyWrite s o i c elems) := by
  unfold State.copyWrite
  (repeat' split) <;> simp_all [Keeps]

@[simp] theorem State.copyMove_keeps {base : State} (s : State) (o : Nat) (op : Op) (c : Copy) (out : List (Nat × Nat × List Byte)) (hk0 : Keeps base s) : Keeps base (State.copyMove s o op c out) := by
  unfold State.copyMove
  try dsimp only
  (repeat' first | assumption | split | (with_reducible apply foldl_keeps; intro _ _ _) | (with_reducible apply issue_keeps; · assumption) | (with_reducible apply uni_keeps; · assumption) | (with_reducible apply uniJump_keeps; · assumption) | (with_reducible apply withTiles_keeps; · assumption) | intro _ | dsimp only) <;> first | assumption | (simp (maxDischargeDepth := 40) +contextual [*]; done) | (simp (maxDischargeDepth := 40) +contextual [Keeps, *]; done)

@[simp] theorem State.askStop_keeps {base : State} (s : State) (o : Nat) (n : Nbx) (hk0 : Keeps base s) : Keeps base (State.askStop s o n) := by
  unfold State.askStop
  (repeat' split) <;> simp [*]

@[simp] theorem State.setTreg_keeps {base : State} (s : State) (sg : SKey) (t : Nat) (x : Tag) (f : Nat → Word × Word) (hk0 : Keeps base s) : Keeps base (State.setTreg s sg t x f) := by
  simp [State.setTreg, hk0]

@[simp] theorem State.tregTag_keeps {base : State} (s : State) (sg : SKey) (t : Nat) (x : Tag) (hk0 : Keeps base s) : Keeps base (State.tregTag s sg t x) := by
  simp [State.tregTag, hk0]

@[simp] theorem State.poisonScr_keeps {base : State} (s : State) (sg : SKey) (ranges : List (Nat × Nat)) (hk0 : Keeps base s) : Keeps base (State.poisonScr s sg ranges) := by
  simp [State.poisonScr, hk0]

@[simp] theorem State.queueGmx_keeps {base : State} (s : State) (sg : SKey) (c : Gmx) (hk0 : Keeps base s) : Keeps base (State.queueGmx s sg c) := by
  simp [State.queueGmx, hk0]

@[simp] theorem State.twoTiles_keeps {base : State} (s : State) (sg : SKey) (a b : TileSpec) (hk0 : Keeps base s) : Keeps base (State.twoTiles s sg a b).2.2 := by
  simp [State.twoTiles, hk0]

@[simp] theorem unlessExc_keeps {base : State} (s : State) (l : List (Option Exc)) (t : State) (hk0 : Keeps base s) (hkt : Keeps base t) : Keeps base (unlessExc s l t) := by
  unfold unlessExc
  (repeat' split) <;> simp [*]

@[simp] theorem mmaIssue_keeps {base : State} (s : State) (m : Bool) (t : BitVec 2) (ga : BitVec 9) (a b : TileSpec) (extra : List Nat) (mk : Nat → Nat → Option (Nat × Nat) → Gmx) (hk0 : Keeps base s) : KeepsOut base (mmaIssue s m t ga a b extra mk) := by
  unfold mmaIssue
  try dsimp only
  (repeat' first | assumption | split | (with_reducible apply foldl_keeps; intro _ _ _) | (with_reducible apply issue_keeps; · assumption) | (with_reducible apply uni_keeps; · assumption) | (with_reducible apply uniJump_keeps; · assumption) | (with_reducible apply withTiles_keeps; · assumption) | intro _ | dsimp only) <;> first | assumption | (simp (maxDischargeDepth := 40) +contextual [*]; done) | (simp (maxDischargeDepth := 40) +contextual [Keeps, *]; done)

@[simp] theorem State.noteMwait_keeps {base : State} (s : State) (sg : SKey) (t : Option Nat) (hk0 : Keeps base s) : Keeps base (State.noteMwait s sg t) := by
  simp [State.noteMwait, hk0]

@[simp] theorem State.gmxFault_keeps {base : State} (s : State) (sg : SKey) (code : FaultCode) (keep : Bool := false) (hk0 : Keeps base s) : Keeps base (State.gmxFault s sg code keep) := by
  unfold State.gmxFault
  try dsimp only
  (repeat' first | assumption | split | (with_reducible apply foldl_keeps; intro _ _ _) | (with_reducible apply issue_keeps; · assumption) | (with_reducible apply uni_keeps; · assumption) | (with_reducible apply uniJump_keeps; · assumption) | (with_reducible apply withTiles_keeps; · assumption) | intro _ | dsimp only) <;> first | assumption | (simp (maxDischargeDepth := 40) +contextual [*]; done) | (simp (maxDischargeDepth := 40) +contextual [Keeps, *]; done)

@[simp] theorem State.gmxDone_keeps {base : State} (s : State) (sg : SKey) (hk0 : Keeps base s) : Keeps base (State.gmxDone s sg) := by
  simp [State.gmxDone, hk0]

@[simp] theorem State.gmxResult_keeps {base : State} (s : State) (sg : SKey) (fault : Option FaultCode) (t : State) (hk0 : Keeps base s) (hkt : Keeps base t) : Keeps base (State.gmxResult s sg fault t) := by
  unfold State.gmxResult
  (repeat' split) <;> simp [*]

@[simp] theorem State.runMma_keeps {base : State} (s : State) (sg : SKey) (t b : Nat) (sc : Option (Nat × Nat)) (badA : Bool) (A : List (List (Option Val))) (hk0 : Keeps base s) : Keeps base (State.runMma s sg t b sc badA A) := by
  simp [State.runMma, hk0]

@[simp] theorem State.scrBytes_keeps {base : State} (s : State) (sg : SKey) (at_ : Nat) (bs : List Byte) (own : Bool) (hk0 : Keeps base s) : Keeps base (State.scrBytes s sg at_ bs own) := by
  simp [State.scrBytes, hk0]

@[simp] theorem State.tileFilled_keeps {base : State} (s : State) (sg : SKey) (o : Nat) (bad : Bool) (hk0 : Keeps base s) : Keeps base (State.tileFilled s sg o bad) := by
  unfold State.tileFilled
  (repeat' split) <;> simp [*]

@[simp] theorem State.runMsoft_keeps {base : State} (s : State) (sg : SKey) (t o : Nat) (k : Word) (rows : Nat) (hk0 : Keeps base s) : Keeps base (State.runMsoft s sg t o k rows) := by
  unfold State.runMsoft
  try dsimp only
  (repeat' first | assumption | split | (with_reducible apply foldl_keeps; intro _ _ _) | (with_reducible apply issue_keeps; · assumption) | (with_reducible apply uni_keeps; · assumption) | (with_reducible apply uniJump_keeps; · assumption) | (with_reducible apply withTiles_keeps; · assumption) | intro _ | dsimp only) <;> first | assumption | (simp (maxDischargeDepth := 40) +contextual [*]; done) | (simp (maxDischargeDepth := 40) +contextual [Keeps, *]; done)

@[simp] theorem State.runMdrain_keeps {base : State} (s : State) (sg : SKey) (t : Nat) (sat : Bool) (k : Word) (o : Nat) (tag : Tag) (hk0 : Keeps base s) : Keeps base (State.runMdrain s sg t sat k o tag) := by
  unfold State.runMdrain
  try dsimp only
  (repeat' first | assumption | split | (with_reducible apply foldl_keeps; intro _ _ _) | (with_reducible apply issue_keeps; · assumption) | (with_reducible apply uni_keeps; · assumption) | (with_reducible apply uniJump_keeps; · assumption) | (with_reducible apply withTiles_keeps; · assumption) | intro _ | dsimp only) <;> first | assumption | (simp (maxDischargeDepth := 40) +contextual [*]; done) | (simp (maxDischargeDepth := 40) +contextual [Keeps, *]; done)

@[simp] theorem State.amaxSent_keeps {base : State} (s : State) (sg : SKey) (on : Bool) (hk0 : Keeps base s) : Keeps base (State.amaxSent s sg on) := by
  simp [State.amaxSent, hk0]

@[simp] theorem State.runAmax_keeps {base : State} (s : State) (sg : SKey) (ptr : Nat) (x : Word) (sent : Bool) (code : Option Nat) (before : Nat) (hk0 : Keeps base s) : Keeps base (State.runAmax s sg ptr x sent code before) := by
  unfold State.runAmax
  (repeat' split) <;> simp [*]

@[simp] theorem State.amaxBurst_keeps {base : State} (s : State) (sg : SKey) (hk0 : Keeps base s) : Keeps base (State.amaxBurst s sg) := by
  unfold State.amaxBurst
  try dsimp only
  (repeat' first | assumption | split | (with_reducible apply foldl_keeps; intro _ _ _) | (with_reducible apply issue_keeps; · assumption) | (with_reducible apply uni_keeps; · assumption) | (with_reducible apply uniJump_keeps; · assumption) | (with_reducible apply withTiles_keeps; · assumption) | intro _ | dsimp only) <;> first | assumption | (simp (maxDischargeDepth := 40) +contextual [*]; done) | (simp (maxDischargeDepth := 40) +contextual [Keeps, *]; done)

@[simp] theorem State.runMldt_keeps {base : State} (s : State) (sg : SKey) (t a : Nat) (hk0 : Keeps base s) : Keeps base (State.runMldt s sg t a) := by
  simp [State.runMldt, hk0]

@[simp] theorem State.mergeFault_keeps {base : State} (s : State) (l : List SKey) (hk0 : Keeps base s) : Keeps base (State.mergeFault s l) := by
  unfold State.mergeFault
  try dsimp only
  (repeat' first | assumption | split | (with_reducible apply foldl_keeps; intro _ _ _) | (with_reducible apply issue_keeps; · assumption) | (with_reducible apply uni_keeps; · assumption) | (with_reducible apply uniJump_keeps; · assumption) | (with_reducible apply withTiles_keeps; · assumption) | intro _ | dsimp only) <;> first | assumption | (simp (maxDischargeDepth := 40) +contextual [*]; done) | (simp (maxDischargeDepth := 40) +contextual [Keeps, *]; done)

@[simp] theorem State.runMerge_keeps {base : State} (s : State) (sg : SKey) (rows cores : Nat) (hk0 : Keeps base s) : Keeps base (State.runMerge s sg rows cores) := by
  unfold State.runMerge
  try dsimp only
  (repeat' first | assumption | split | (with_reducible apply foldl_keeps; intro _ _ _) | (with_reducible apply issue_keeps; · assumption) | (with_reducible apply uni_keeps; · assumption) | (with_reducible apply uniJump_keeps; · assumption) | (with_reducible apply withTiles_keeps; · assumption) | intro _ | dsimp only) <;> first | assumption | (simp (maxDischargeDepth := 40) +contextual [*]; done) | (simp (maxDischargeDepth := 40) +contextual [Keeps, *]; done)

@[simp] theorem State.runGmx_keeps {base : State} (s : State) (sg : SKey) (hk0 : Keeps base s) : ∀ fu, Keeps base (State.runGmx s sg fu) := by
  unfold State.runGmx
  try dsimp only
  (repeat' first | assumption | split | (with_reducible apply foldl_keeps; intro _ _ _) | (with_reducible apply issue_keeps; · assumption) | (with_reducible apply uni_keeps; · assumption) | (with_reducible apply uniJump_keeps; · assumption) | (with_reducible apply withTiles_keeps; · assumption) | intro _ | dsimp only) <;> first | assumption | (simp (maxDischargeDepth := 40) +contextual [*]; done) | (simp (maxDischargeDepth := 40) +contextual [Keeps, *]; done)

@[simp] theorem scanIssue_keeps {base : State} (s : State) (m : Bool) (k : BitVec 4) (ga : BitVec 9) (bad : List (Nat × Bool)) (c : Scan) (need : Nat) (hk0 : Keeps base s) : KeepsOut base (scanIssue s m k ga bad c need) := by
  unfold scanIssue
  try dsimp only
  (repeat' first | assumption | split | (with_reducible apply foldl_keeps; intro _ _ _) | (with_reducible apply issue_keeps; · assumption) | (with_reducible apply uni_keeps; · assumption) | (with_reducible apply uniJump_keeps; · assumption) | (with_reducible apply withTiles_keeps; · assumption) | intro _ | dsimp only) <;> first | assumption | (simp (maxDischargeDepth := 40) +contextual [*]; done) | (simp (maxDischargeDepth := 40) +contextual [Keeps, *]; done)

@[simp] theorem State.visitRows_keeps {base : State} (s : State) (o : Nat) (rows : List (Nat × Nat)) (chs : List Nat) (hk0 : Keeps base s) : Keeps base (State.visitRows s o rows chs) := by
  unfold State.visitRows
  try dsimp only
  (repeat' first | assumption | split | (with_reducible apply foldl_keeps; intro _ _ _) | (with_reducible apply issue_keeps; · assumption) | (with_reducible apply uni_keeps; · assumption) | (with_reducible apply uniJump_keeps; · assumption) | (with_reducible apply withTiles_keeps; · assumption) | intro _ | dsimp only) <;> first | assumption | (simp (maxDischargeDepth := 40) +contextual [*]; done) | (simp (maxDischargeDepth := 40) +contextual [Keeps, *]; done)

@[simp] theorem State.startScan_keeps {base : State} (s : State) (o : Nat) (op : Op) (c : Scan) (hk0 : Keeps base s) : Keeps base (State.startScan s o op c) := by
  unfold State.startScan
  try dsimp only
  (repeat' first | assumption | split | (with_reducible apply foldl_keeps; intro _ _ _) | (with_reducible apply issue_keeps; · assumption) | (with_reducible apply uni_keeps; · assumption) | (with_reducible apply uniJump_keeps; · assumption) | (with_reducible apply withTiles_keeps; · assumption) | intro _ | dsimp only) <;> first | assumption | (simp (maxDischargeDepth := 40) +contextual [*]; done) | (simp (maxDischargeDepth := 40) +contextual [Keeps, *]; done)

@[simp] theorem State.winnowVisit_keeps {base : State} (s : State) (o row : Nat) (hk0 : Keeps base s) : Keeps base (State.winnowVisit s o row) := by
  unfold State.winnowVisit
  try dsimp only
  (repeat' first | assumption | split | (with_reducible apply foldl_keeps; intro _ _ _) | (with_reducible apply issue_keeps; · assumption) | (with_reducible apply uni_keeps; · assumption) | (with_reducible apply uniJump_keeps; · assumption) | (with_reducible apply withTiles_keeps; · assumption) | intro _ | dsimp only) <;> first | assumption | (simp (maxDischargeDepth := 40) +contextual [*]; done) | (simp (maxDischargeDepth := 40) +contextual [Keeps, *]; done)

@[simp] theorem State.endScan_keeps {base : State} (s : State) (o : Nat) (c : Scan) (st : OpState) (hk0 : Keeps base s) : Keeps base (State.endScan s o c st) := by
  unfold State.endScan
  try dsimp only
  (repeat' first | assumption | split | (with_reducible apply foldl_keeps; intro _ _ _) | (with_reducible apply issue_keeps; · assumption) | (with_reducible apply uni_keeps; · assumption) | (with_reducible apply uniJump_keeps; · assumption) | (with_reducible apply withTiles_keeps; · assumption) | intro _ | dsimp only) <;> first | assumption | (simp (maxDischargeDepth := 40) +contextual [*]; done) | (simp (maxDischargeDepth := 40) +contextual [Keeps, *]; done)

@[simp] theorem State.writeResult_keeps {base : State} (s : State) (o : Nat) (c : Scan) (at_ : Nat) (bs : List Byte) (next : State → State) (hk0 : Keeps base s) (hnext : ∀ t, Keeps base t → Keeps base (next t)) : Keeps base (State.writeResult s o c at_ bs next) := by
  unfold State.writeResult
  try dsimp only
  (repeat' first | assumption | split | (with_reducible apply foldl_keeps; intro _ _ _) | (with_reducible apply issue_keeps; · assumption) | (with_reducible apply uni_keeps; · assumption) | (with_reducible apply uniJump_keeps; · assumption) | (with_reducible apply withTiles_keeps; · assumption) | intro _ | dsimp only) <;> first | assumption | (simp (maxDischargeDepth := 40) +contextual [*]; done) | (simp (maxDischargeDepth := 40) +contextual [Keeps, *]; done)

@[simp] theorem State.writePairs_keeps {base : State} (s : State) (o : Nat) (c : Scan) (hk0 : Keeps base s) : Keeps base (State.writePairs s o c) := by
  unfold State.writePairs
  (repeat' split) <;> simp_all [Keeps]

@[simp] theorem State.writeScan_keeps {base : State} (s : State) (o : Nat) (c : Scan) (hk0 : Keeps base s) : Keeps base (State.writeScan s o c) := by
  unfold State.writeScan
  (repeat' split) <;> simp_all [Keeps]

@[simp] theorem State.readAway_keeps {base : State} (s : State) (o : Nat) (op : Op) (c : Scan) (a : Nat) (rest : List Nat) (hk0 : Keeps base s) : Keeps base (State.readAway s o op c a rest) := by
  unfold State.readAway
  try dsimp only
  (repeat' first | assumption | split | (with_reducible apply foldl_keeps; intro _ _ _) | (with_reducible apply issue_keeps; · assumption) | (with_reducible apply uni_keeps; · assumption) | (with_reducible apply uniJump_keeps; · assumption) | (with_reducible apply withTiles_keeps; · assumption) | intro _ | dsimp only) <;> first | assumption | (simp (maxDischargeDepth := 40) +contextual [*]; done) | (simp (maxDischargeDepth := 40) +contextual [Keeps, *]; done)

@[simp] theorem State.scanGot_keeps {base : State} (s : State) (o a status : Nat) (vals : List Word) (data : List Byte) (hk0 : Keeps base s) : Keeps base (State.scanGot s o a status vals data) := by
  exact hk0

@[simp] theorem State.thresh_keeps {base : State} (s : State) (o : Nat) (op : Op) (c : Scan) (rows : List (Nat × Nat)) (hk0 : Keeps base s) : Keeps base (State.thresh s o op c rows) := by
  unfold State.thresh
  (repeat' split) <;> simp [*]

@[simp] theorem State.nbxEnd_keeps {base : State} (s : State) (o : Nat) (st : OpState) (hk0 : Keeps base s) : Keeps base (State.nbxEnd s o st) := by
  unfold State.nbxEnd
  (repeat' split) <;> simp [*]

@[simp] theorem State.sendProgram_keeps {base : State} (s : State) (o : Nat) (n : Nbx) (c : Nat) (g : Bool) (id off : Nat) (hk0 : Keeps base s) : Keeps base (State.sendProgram s o n c g id off) := by
  unfold State.sendProgram
  (repeat' split) <;> simp [*]

@[simp] theorem State.nbxFail_keeps {base : State} (s : State) (o code : Nat) (hk0 : Keeps base s) : Keeps base (State.nbxFail s o code) := by
  simp [State.nbxFail, hk0]

@[simp] theorem State.nbxRun_keeps {base : State} (s : State) (o : Nat) (n : Nbx) (hk0 : Keeps base s) : ∀ fu, Keeps base (State.nbxRun s o n fu) := by
  intro fuel
  induction fuel generalizing s n with
  | zero => simp [State.nbxRun, hk0]
  | succ fuel ih =>
    simp only [State.nbxRun]
    generalize microStep n _ = r
    have ht : ∀ t : State, t = (match r.2.2 with | none => if (n.ops.getD n.mpc 0x9000).toNat / 4096 ∈ [0, 1, 6] then s.eCount [(n.base + 2048 * n.row, 1)] else s | some (i, bs) => s.eWrite o ((regs (n.base + 2048 * n.row + 64 * i) 64).zip bs)) → Keeps base t := by
      rintro t rfl
      (repeat' first | assumption | split | (with_reducible apply foldl_keeps; intro _ _ _) | intro _ | dsimp only) <;> first | assumption | (simp (maxDischargeDepth := 40) +contextual [*]; done) | (simp (maxDischargeDepth := 40) +contextual [Keeps, *]; done)
    generalize hu : (match r.2.2 with | none => _ | some (i, bs) => _ : State) = u
    have hk1 := ht u hu.symm
    (repeat' first | assumption | split | (with_reducible apply foldl_keeps; intro _ _ _) | intro _ | dsimp only) <;> first | assumption | (simp (maxDischargeDepth := 40) +contextual [*]; done) | (simp (maxDischargeDepth := 40) +contextual [Keeps, *]; done)

@[simp] theorem State.programVisit_keeps {base : State} (s : State) (o : Nat) (hk0 : Keeps base s) : Keeps base (State.programVisit s o) := by
  unfold State.programVisit
  (repeat' split) <;> simp [*]

@[simp] theorem State.endRed_keeps {base : State} (s : State) (o : Nat) (st : OpState) (hk0 : Keeps base s) : Keeps base (State.endRed s o st) := by
  simp [State.endRed, hk0]

@[simp] theorem State.redBurst_keeps {base : State} (s : State) (o : Nat) (hk0 : Keeps base s) : Keeps base (State.redBurst s o) := by
  unfold State.redBurst
  try dsimp only
  (repeat' first | assumption | split | (with_reducible apply foldl_keeps; intro _ _ _) | (with_reducible apply issue_keeps; · assumption) | (with_reducible apply uni_keeps; · assumption) | (with_reducible apply uniJump_keeps; · assumption) | (with_reducible apply withTiles_keeps; · assumption) | intro _ | dsimp only) <;> first | assumption | (simp (maxDischargeDepth := 40) +contextual [*]; done) | (simp (maxDischargeDepth := 40) +contextual [Keeps, *]; done)

end Sys2Proof.Machine
end

