-- ==== Sys2Proof/Laws/KeepsObjects.lean ====
section
/-! SUPPORT. What the operations of object space, the channels and the fabric keep, one lemma an operation. -/

set_option linter.all false

namespace Sys2Proof.Machine

@[simp] theorem State.endCommand_keeps {base : State} (s : State) (n status : Nat) (vals : List Word) (hk0 : Keeps base s) : Keeps base (State.endCommand s n status vals) := by
  unfold State.endCommand
  try dsimp only
  (repeat' first | assumption | split | (with_reducible apply foldl_keeps; intro _ _ _) | (with_reducible apply issue_keeps; · assumption) | (with_reducible apply uni_keeps; · assumption) | (with_reducible apply uniJump_keeps; · assumption) | (with_reducible apply withTiles_keeps; · assumption) | intro _ | dsimp only) <;> first | assumption | (simp (maxDischargeDepth := 40) +contextual [*]; done) | (simp (maxDischargeDepth := 40) +contextual [Keeps, *]; done)

@[simp] theorem State.answerObj_keeps {base : State} (s : State) (a : Asker) (id status : Nat) (vals : List Word) (hk0 : Keeps base s) : Keeps base (State.answerObj s a id status vals) := by
  unfold State.answerObj
  (repeat' split) <;> simp [*]

@[simp] theorem State.asking_keeps {base : State} (s : State) (a : Asker) (hk0 : Keeps base s) : Keeps base (State.asking s a) := by
  unfold State.asking
  (repeat' split) <;> simp [*]

@[simp] theorem State.askChip_keeps {base : State} (s : State) (chip id : Nat) (cmd : ObjCmd) (r : Reply) (hk0 : Keeps base s) : Keeps base (State.askChip s chip id cmd r) := by
  simp [State.askChip, hk0]

@[simp] theorem State.onGran_keeps {base : State} (s : State) (id : Nat) (f : Granary → Granary) (hk0 : Keeps base s) : Keeps base (State.onGran s id f) := by
  exact hk0

@[simp] theorem State.newSerial_keeps {base : State} (s : State) (chip : Nat) (hk0 : Keeps base s) : ∀ r, State.newSerial s chip = some r → Keeps base r.1 := by
  unfold State.newSerial
  split <;> intro r hr <;> cases hr
  exact hk0

@[simp] theorem State.granAsk_keeps {base : State} (s : State) (who id : Nat) (cmd : ObjCmd) (hk0 : Keeps base s) : ∀ r, State.granAsk s who id cmd = some r → Keeps base r.1 := by
  unfold State.granAsk
  have hn := State.newSerial_keeps s who hk0
  (repeat' split) <;> intro r hr <;> cases hr <;> first | exact hk0 | exact State.onGran_keeps s _ _ hk0 | (rename_i hq; exact hn _ hq)

@[simp] theorem State.atGranary_keeps {base : State} (s : State) (id : Nat) (cmd : ObjCmd) (r : Reply) (here : State → Nat → List Word → State) (hk0 : Keeps base s) (hhere : ∀ t n ws, Keeps base t → Keeps base (here t n ws)) : Keeps base (State.atGranary s id cmd r here) := by
  unfold State.atGranary
  have hn := State.granAsk_keeps s s.chipId id cmd hk0
  split
  · split
    · exact hk0
    · rename_i hq
      exact hhere _ _ _ (hn _ hq)
  · exact State.askChip_keeps _ _ _ _ _ hk0

@[simp] theorem State.allocate_keeps {base : State} (s : State) (n size : Nat) (attrs : Word) (hk0 : Keeps base s) : Keeps base (State.allocate s n size attrs) := by
  unfold State.allocate
  have hn := State.newSerial_keeps s s.chipId hk0
  split
  · simp [hk0]
  split
  · simp [hk0]
  split
  · simp [hk0]
  · rename_i hq
    have := hn _ hq
    simp [this]

@[simp] theorem State.dropObject_keeps {base : State} (s : State) (id : Nat) (hk0 : Keeps base s) : Keeps base (State.dropObject s id) := by
  have h1 : Keeps base { s with mem := s.mem.filter (fun c => !inObject 1 id c.1) } := ⟨Memory.wf_filter hk0.1 _, hk0.2⟩
  exact h1

@[simp] theorem State.ungroup_keeps {base : State} (s : State) (id : Nat) (hk0 : Keeps base s) : Keeps base (State.ungroup s id) := by
  unfold State.ungroup
  (repeat' split) <;> simp [*]

@[simp] theorem State.splitObject_keeps {base : State} (s : State) (id b up : Nat) (hk0 : Keeps base s) : Keeps base (State.splitObject s id b up) := by
  unfold State.splitObject
  split
  · exact hk0
  · have h1 : ∀ cs p, Keeps base { s with mem := Memory.cells (s.mem.filter p) cs } := fun cs p => ⟨Memory.wf_cells (Memory.wf_filter hk0.1 _) _, hk0.2⟩
    exact h1 _ _

@[simp] theorem State.releaseHold_keeps {base : State} (s : State) (id : Nat) (hk0 : Keeps base s) : Keeps base (State.releaseHold s id) := by
  exact hk0

@[simp] theorem State.freeObject_keeps {base : State} (s : State) (a : Asker) (id : Nat) (hk0 : Keeps base s) : Keeps base (State.freeObject s a id) := by
  unfold State.freeObject
  try dsimp only
  (repeat' first | assumption | split | (with_reducible apply foldl_keeps; intro _ _ _) | (with_reducible apply issue_keeps; · assumption) | (with_reducible apply uni_keeps; · assumption) | (with_reducible apply uniJump_keeps; · assumption) | (with_reducible apply withTiles_keeps; · assumption) | intro _ | dsimp only) <;> first | assumption | (simp (maxDischargeDepth := 40) +contextual [*]; done) | (simp (maxDischargeDepth := 40) +contextual [Keeps, *]; done)

@[simp] theorem State.endInval_keeps {base : State} (s : State) (id : Nat) (i : Inval) (hk0 : Keeps base s) : Keeps base (State.endInval s id i) := by
  unfold State.endInval
  try dsimp only
  (repeat' first | assumption | split | (with_reducible apply foldl_keeps; intro _ _ _) | (with_reducible apply issue_keeps; · assumption) | (with_reducible apply uni_keeps; · assumption) | (with_reducible apply uniJump_keeps; · assumption) | (with_reducible apply withTiles_keeps; · assumption) | intro _ | dsimp only) <;> first | assumption | (simp (maxDischargeDepth := 40) +contextual [*]; done) | (simp (maxDischargeDepth := 40) +contextual [Keeps, *]; done)

@[simp] theorem State.revokeFills_keeps {base : State} (s : State) (id : Nat) (hk0 : Keeps base s) : Keeps base (State.revokeFills s id) := by
  unfold State.revokeFills
  try dsimp only
  (repeat' first | assumption | split | (with_reducible apply foldl_keeps; intro _ _ _) | (with_reducible apply issue_keeps; · assumption) | (with_reducible apply uni_keeps; · assumption) | (with_reducible apply uniJump_keeps; · assumption) | (with_reducible apply withTiles_keeps; · assumption) | intro _ | dsimp only) <;> first | assumption | (simp (maxDischargeDepth := 40) +contextual [*]; done) | (simp (maxDischargeDepth := 40) +contextual [Keeps, *]; done)

@[simp] theorem State.answerRevoke_keeps {base : State} (s : State) (id : Nat) (hk0 : Keeps base s) : Keeps base (State.answerRevoke s id) := by
  unfold State.answerRevoke
  (repeat' split) <;> simp [*]

@[simp] theorem State.noteRevoke_keeps {base : State} (s : State) (id deadline : Nat) (p : Packet) (hk0 : Keeps base s) : Keeps base (State.noteRevoke s id deadline p) := by
  simp [State.noteRevoke, hk0]

@[simp] theorem State.endRevoke_keeps {base : State} (s : State) (id : Nat) (hk0 : Keeps base s) : Keeps base (State.endRevoke s id) := by
  unfold State.endRevoke
  (repeat' split) <;> simp_all [Keeps]

@[simp] theorem State.onRevoked_keeps {base : State} (s : State) (id : Nat) (hk0 : Keeps base s) : Keeps base (State.onRevoked s id) := by
  exact hk0

@[simp] theorem State.onMig_keeps {base : State} (s : State) (id : Nat) (f : Migration → Migration) (hk0 : Keeps base s) : Keeps base (State.onMig s id f) := by
  exact hk0

@[simp] theorem State.nextMigRow_keeps {base : State} (s : State) (id : Nat) (hk0 : Keeps base s) : Keeps base (State.nextMigRow s id) := by
  unfold State.nextMigRow
  (repeat' split) <;> simp [*]

@[simp] theorem State.startMigration_keeps {base : State} (s : State) (id dest : Nat) (a : Option Asker) (hk0 : Keeps base s) : Keeps base (State.startMigration s id dest a) := by
  unfold State.startMigration
  try dsimp only
  (repeat' first | assumption | split | (with_reducible apply foldl_keeps; intro _ _ _) | (with_reducible apply issue_keeps; · assumption) | (with_reducible apply uni_keeps; · assumption) | (with_reducible apply uniJump_keeps; · assumption) | (with_reducible apply withTiles_keeps; · assumption) | intro _ | dsimp only) <;> first | assumption | (simp (maxDischargeDepth := 40) +contextual [*]; done) | (simp (maxDischargeDepth := 40) +contextual [Keeps, *]; done)

@[simp] theorem State.abandon_keeps {base : State} (s : State) (lead status : Nat) (hk0 : Keeps base s) : Keeps base (State.abandon s lead status) := by
  unfold State.abandon
  dsimp only
  have hf : Keeps base ((s.moving lead).foldl _ s) := foldl_keeps (base := base) (fun t x =>
    match (look t.objs x).elim none (fun d => d.mig) with
    | none => t
    | some m =>
      let mine := fun (y : Activity) => match y with | .migrate i _ _ => i == x | _ => false
      let t := { t with
        objs := upd t.objs x (fun d => { d with mig := none })
        channels := t.channels.map (fun (e : Nat × Channel) => (e.1, { e.2 with
          waiting := e.2.waiting.filter (fun y => !mine y)
          switching := if e.2.switching.elim false mine then none else e.2.switching })) }
      ((t.askChip m.dest x .release .ignore).atGranary x (.migrating false) .ignore (fun u _ _ => u)).releaseHold x) (by
      intro t x ht
      (repeat' first | assumption | split | (with_reducible apply foldl_keeps; intro _ _ _) | intro _ | dsimp only) <;> first | assumption | (simp (maxDischargeDepth := 40) +contextual [*]; done) | (simp (maxDischargeDepth := 40) +contextual [Keeps, *]; done)) _ s hk0
  exact keeps_elim hf (fun a => State.answerObj_keeps _ _ _ _ _ hf)

@[simp] theorem State.onReserved_keeps {base : State} (s : State) (id dest status : Nat) (hk0 : Keeps base s) : Keeps base (State.onReserved s id dest status) := by
  unfold State.onReserved
  try dsimp only
  (repeat' first | assumption | split | (with_reducible apply foldl_keeps; intro _ _ _) | (with_reducible apply issue_keeps; · assumption) | (with_reducible apply uni_keeps; · assumption) | (with_reducible apply uniJump_keeps; · assumption) | (with_reducible apply withTiles_keeps; · assumption) | intro _ | dsimp only) <;> first | assumption | (simp (maxDischargeDepth := 40) +contextual [*]; done) | (simp (maxDischargeDepth := 40) +contextual [Keeps, *]; done)

@[simp] theorem State.sendRow_keeps {base : State} (s : State) (id dest row : Nat) (hk0 : Keeps base s) : Keeps base (State.sendRow s id dest row) := by
  simp [State.sendRow, hk0]

@[simp] theorem State.migrateVisit_keeps {base : State} (s : State) (id row : Nat) (hk0 : Keeps base s) : Keeps base (State.migrateVisit s id row) := by
  unfold State.migrateVisit
  try dsimp only
  (repeat' first | assumption | split | (with_reducible apply foldl_keeps; intro _ _ _) | (with_reducible apply issue_keeps; · assumption) | (with_reducible apply uni_keeps; · assumption) | (with_reducible apply uniJump_keeps; · assumption) | (with_reducible apply withTiles_keeps; · assumption) | intro _ | dsimp only) <;> first | assumption | (simp (maxDischargeDepth := 40) +contextual [*]; done) | (simp (maxDischargeDepth := 40) +contextual [Keeps, *]; done)

@[simp] theorem State.abortObjects_keeps {base : State} (s : State) (ids : List Nat) (hk0 : Keeps base s) : Keeps base (State.abortObjects s ids) := by
  simp [State.abortObjects, hk0]

@[simp] theorem State.finalCopy_keeps {base : State} (s : State) (lead : Nat) (hk0 : Keeps base s) : Keeps base (State.finalCopy s lead) := by
  unfold State.finalCopy
  try dsimp only
  (repeat' first | assumption | split | (with_reducible apply foldl_keeps; intro _ _ _) | (with_reducible apply issue_keeps; · assumption) | (with_reducible apply uni_keeps; · assumption) | (with_reducible apply uniJump_keeps; · assumption) | (with_reducible apply withTiles_keeps; · assumption) | intro _ | dsimp only) <;> first | assumption | (simp (maxDischargeDepth := 40) +contextual [*]; done) | (simp (maxDischargeDepth := 40) +contextual [Keeps, *]; done)

@[simp] theorem State.granaryMoved_keeps {base : State} (s : State) (id : Nat) (hk0 : Keeps base s) : Keeps base (State.granaryMoved s id) := by
  unfold State.granaryMoved
  try dsimp only
  (repeat' first | assumption | split | (with_reducible apply foldl_keeps; intro _ _ _) | (with_reducible apply issue_keeps; · assumption) | (with_reducible apply uni_keeps; · assumption) | (with_reducible apply uniJump_keeps; · assumption) | (with_reducible apply withTiles_keeps; · assumption) | intro _ | dsimp only) <;> first | assumption | (simp (maxDischargeDepth := 40) +contextual [*]; done) | (simp (maxDischargeDepth := 40) +contextual [Keeps, *]; done)

@[simp] theorem State.moveGranaries_keeps {base : State} (s : State) (lead : Nat) (hk0 : Keeps base s) : Keeps base (State.moveGranaries s lead) := by
  unfold State.moveGranaries
  try dsimp only
  (repeat' first | assumption | split | (with_reducible apply foldl_keeps; intro _ _ _) | (with_reducible apply issue_keeps; · assumption) | (with_reducible apply uni_keeps; · assumption) | (with_reducible apply uniJump_keeps; · assumption) | (with_reducible apply withTiles_keeps; · assumption) | intro _ | dsimp only) <;> first | assumption | (simp (maxDischargeDepth := 40) +contextual [*]; done) | (simp (maxDischargeDepth := 40) +contextual [Keeps, *]; done)

@[simp] theorem State.sendLeases_keeps {base : State} (s : State) (dest id : Nat) (lx : List (Nat × Nat)) (hk0 : Keeps base s) : Keeps base (State.sendLeases s dest id lx) := by
  unfold State.sendLeases
  (repeat' split) <;> simp_all [Keeps]

@[simp] theorem State.leaveMonitor_keeps {base : State} (s : State) (id : Nat) (w : Agent) (hk0 : Keeps base s) : Keeps base (State.leaveMonitor s id w).1 := by
  unfold State.leaveMonitor
  (repeat' split) <;> simp [*]

@[simp] theorem State.leaveMonitors_keeps {base : State} (s : State) (id : Nat) (hk0 : Keeps base s) : Keeps base (State.leaveMonitors s id).1 := by
  unfold State.leaveMonitors
  dsimp only
  refine State.onFab_keeps _ _ (foldl_fst_keeps _ ?_ _ _ hk0)
  intro r x h
  exact State.leaveMonitor_keeps _ _ _ h

@[simp] theorem State.leave_keeps {base : State} (s : State) (id : Nat) (hk0 : Keeps base s) : Keeps base (State.leave s id) := by
  unfold State.leave
  try dsimp only
  (repeat' first | assumption | split | (with_reducible apply foldl_keeps; intro _ _ _) | (with_reducible apply issue_keeps; · assumption) | (with_reducible apply uni_keeps; · assumption) | (with_reducible apply uniJump_keeps; · assumption) | (with_reducible apply withTiles_keeps; · assumption) | intro _ | dsimp only) <;> first | assumption | (simp (maxDischargeDepth := 40) +contextual [*]; done) | (simp (maxDischargeDepth := 40) +contextual [Keeps, *]; done)

@[simp] theorem State.onRowAck_keeps {base : State} (s : State) (id status : Nat) (hk0 : Keeps base s) : Keeps base (State.onRowAck s id status) := by
  unfold State.onRowAck
  (repeat' split) <;> simp [*]

@[simp] theorem State.drainMigrations_keeps {base : State} (s : State) (hk0 : Keeps base s) : Keeps base (State.drainMigrations s) := by
  unfold State.drainMigrations
  (repeat' split) <;> simp_all [Keeps]

@[simp] theorem State.destAsk_keeps {base : State} (s : State) (id : Nat) (cmd : ObjCmd) (hk0 : Keeps base s) : ∀ r, State.destAsk s id cmd = some r → Keeps base r.1 := by
  unfold State.destAsk
  (repeat' split) <;> simp_all [Keeps]

@[simp] theorem State.heldDone_keeps {base : State} (s : State) (id : Nat) (hk0 : Keeps base s) : Keeps base (State.heldDone s id) := by
  unfold State.heldDone
  (repeat' split) <;> simp [*]

@[simp] theorem State.landRow_keeps {base : State} (s : State) (id off : Nat) (poison : BitVec 64) (bs : List Byte) (hk0 : Keeps base s) : Keeps base (State.landRow s id off poison bs) := by
  unfold State.landRow
  (repeat' split) <;> first | exact hk0 | exact ⟨Memory.wf_put hk0.1 _ _, hk0.2⟩

@[simp] theorem State.affinityAsk_keeps {base : State} (s : State) (lead : Nat) (hk0 : Keeps base s) : Keeps base (State.affinityAsk s lead) := by
  unfold State.affinityAsk
  (repeat' split) <;> simp [*]

@[simp] theorem State.countRemote_keeps {base : State} (s : State) (id chip : Nat) (hk0 : Keeps base s) : Keeps base (State.countRemote s id chip) := by
  simp [State.countRemote, hk0]

@[simp] theorem State.onConfirmed_keeps {base : State} (s : State) (id status : Nat) (hk0 : Keeps base s) : Keeps base (State.onConfirmed s id status) := by
  unfold State.onConfirmed
  (repeat' split) <;> simp [*]

@[simp] theorem State.pinObject_keeps {base : State} (s : State) (a : Asker) (id : Nat) (d : Desc) (hk0 : Keeps base s) : Keeps base (State.pinObject s a id d) := by
  simp [State.pinObject, hk0]

@[simp] theorem State.unpinObject_keeps {base : State} (s : State) (a : Asker) (id : Nat) (d : Desc) (hk0 : Keeps base s) : Keeps base (State.unpinObject s a id d) := by
  simp [State.unpinObject, hk0]

@[simp] theorem State.attrObject_keeps {base : State} (s : State) (a : Asker) (id : Nat) (d : Desc) (w : Word) (hk0 : Keeps base s) : Keeps base (State.attrObject s a id d w) := by
  simp [State.attrObject, hk0]

@[simp] theorem State.askSplit_keeps {base : State} (s : State) (a : Asker) (id : Nat) (d : Desc) (b : Nat) (hk0 : Keeps base s) : Keeps base (State.askSplit s a id d b) := by
  unfold State.askSplit
  try dsimp only
  (repeat' first | assumption | split | (with_reducible apply foldl_keeps; intro _ _ _) | (with_reducible apply issue_keeps; · assumption) | (with_reducible apply uni_keeps; · assumption) | (with_reducible apply uniJump_keeps; · assumption) | (with_reducible apply withTiles_keeps; · assumption) | intro _ | dsimp only) <;> first | assumption | (simp (maxDischargeDepth := 40) +contextual [*]; done) | (simp (maxDischargeDepth := 40) +contextual [Keeps, *]; done)

@[simp] theorem State.onSerial_keeps {base : State} (s : State) (id b : Nat) (a : Asker) (status : Nat) (vals : List Word) (hk0 : Keeps base s) : Keeps base (State.onSerial s id b a status vals) := by
  simp [State.onSerial, hk0]

@[simp] theorem State.splitNow_keeps {base : State} (s : State) (id : Nat) (hk0 : Keeps base s) : Keeps base (State.splitNow s id) := by
  unfold State.splitNow
  (repeat' split) <;> simp [*]

@[simp] theorem State.onGrouped_keeps {base : State} (s : State) (id : Nat) (a : Asker) (status : Nat) (vals : List Word) (hk0 : Keeps base s) : Keeps base (State.onGrouped s id a status vals) := by
  simp [State.onGrouped, hk0]

@[simp] theorem State.groupObject_keeps {base : State} (s : State) (a : Asker) (id : Nat) (d : Desc) (other : Nat) (hk0 : Keeps base s) : Keeps base (State.groupObject s a id d other) := by
  unfold State.groupObject
  (repeat' split) <;> simp_all [Keeps]

@[simp] theorem State.moveObject_keeps {base : State} (s : State) (a : Asker) (id : Nat) (d : Desc) (chip : Word) (hk0 : Keeps base s) : Keeps base (State.moveObject s a id d chip) := by
  unfold State.moveObject
  try dsimp only
  (repeat' first | assumption | split | (with_reducible apply foldl_keeps; intro _ _ _) | (with_reducible apply issue_keeps; · assumption) | (with_reducible apply uni_keeps; · assumption) | (with_reducible apply uniJump_keeps; · assumption) | (with_reducible apply withTiles_keeps; · assumption) | intro _ | dsimp only) <;> first | assumption | (simp (maxDischargeDepth := 40) +contextual [*]; done) | (simp (maxDischargeDepth := 40) +contextual [Keeps, *]; done)

@[simp] theorem State.beginInval_keeps {base : State} (s : State) (a : Asker) (id : Nat) (d : Desc) (free : Bool) (hk0 : Keeps base s) : Keeps base (State.beginInval s a id d free) := by
  unfold State.beginInval
  (repeat' split) <;> simp_all [Keeps]

@[simp] theorem State.objHere_keeps {base : State} (s : State) (a : Asker) (id : Nat) (cmd : ObjCmd) (hk0 : Keeps base s) : Keeps base (State.objHere s a id cmd) := by
  unfold State.objHere
  (repeat' split) <;> simp [*]

@[simp] theorem State.objGo_keeps {base : State} (s : State) (a : Asker) (ptr : Nat) (cmd : ObjCmd) (hk0 : Keeps base s) : Keeps base (State.objGo s a ptr cmd) := by
  unfold State.objGo
  (repeat' split) <;> simp [*]

@[simp] theorem State.locate_keeps {base : State} (s : State) (n ptr : Nat) (hk0 : Keeps base s) : Keeps base (State.locate s n ptr) := by
  unfold State.locate
  (repeat' split) <;> simp_all [Keeps]

@[simp] theorem State.runObject_keeps {base : State} (s : State) (n : Nat) (c : Counted) (hk0 : Keeps base s) : Keeps base (State.runObject s n c) := by
  unfold State.runObject
  (repeat' split) <;> simp [*]

@[simp] theorem State.objReply_keeps {base : State} (s : State) (r : Reply) (id status : Nat) (vals : List Word) (hk0 : Keeps base s) : Keeps base (State.objReply s r id status vals) := by
  unfold State.objReply
  (repeat' split) <;> simp [*]

@[simp] theorem counted_keeps {base : State} (s : State) (m : Bool) (row : Row) (gd : Nat) (reads : List Nat) (own : List (Option Exc)) (c : Counted) (hk0 : Keeps base s) : KeepsOut base (counted s m row gd reads own c) := by
  unfold counted
  try dsimp only
  (repeat' first | assumption | split | (with_reducible apply foldl_keeps; intro _ _ _) | (with_reducible apply issue_keeps; · assumption) | (with_reducible apply uni_keeps; · assumption) | (with_reducible apply uniJump_keeps; · assumption) | (with_reducible apply withTiles_keeps; · assumption) | intro _ | dsimp only) <;> first | assumption | (simp (maxDischargeDepth := 40) +contextual [*]; done) | (simp (maxDischargeDepth := 40) +contextual [Keeps, *]; done)

@[simp] theorem State.fabricEvent_keeps {base : State} (s : State) (hk0 : Keeps base s) : Keeps base (State.fabricEvent s) := by
  simp [State.fabricEvent, hk0]

@[simp] theorem State.setFab_keeps {base : State} (s : State) (st : FabState) (hk0 : Keeps base s) : Keeps base (State.setFab s st) := by
  simp [State.setFab, hk0]

@[simp] theorem State.takeReply_keeps {base : State} (s : State) (tag : Nat) (bulk : Bool) (hk0 : Keeps base s) : ∀ r, State.takeReply s tag bulk = some r → Keeps base r.2 := by
  unfold State.takeReply
  split <;> intro r hr <;> cases hr
  exact State.onFab_keeps s _ hk0

@[simp] theorem State.locate?_keeps {base : State} (s : State) (id chip epoch : Nat) (hk0 : Keeps base s) : Keeps base (State.locate? s id chip epoch) := by
  unfold State.locate?
  (repeat' split) <;> simp [*]

@[simp] theorem State.lanesFail_keeps {base : State} (s : State) (t : Txn) (c : FaultCode) (ps : List Piece) (hk0 : Keeps base s) : Keeps base (State.lanesFail s t c ps) := by
  unfold State.lanesFail
  try dsimp only
  (repeat' first | assumption | split | (with_reducible apply foldl_keeps; intro _ _ _) | (with_reducible apply issue_keeps; · assumption) | (with_reducible apply uni_keeps; · assumption) | (with_reducible apply uniJump_keeps; · assumption) | (with_reducible apply withTiles_keeps; · assumption) | intro _ | dsimp only) <;> first | assumption | (simp (maxDischargeDepth := 40) +contextual [*]; done) | (simp (maxDischargeDepth := 40) +contextual [Keeps, *]; done)

@[simp] theorem State.loadReply_keeps {base : State} (s : State) (t : Txn) (n lo status : Nat) (vals : List Word) (data : List Byte) (p : Part) (d : Dest) (z : Size) (y : Sync) (hk0 : Keeps base s) : Keeps base (State.loadReply s t n lo status vals data p d z y) := by
  unfold State.loadReply
  try dsimp only
  (repeat' first | assumption | split | (with_reducible apply foldl_keeps; intro _ _ _) | (with_reducible apply issue_keeps; · assumption) | (with_reducible apply uni_keeps; · assumption) | (with_reducible apply uniJump_keeps; · assumption) | (with_reducible apply withTiles_keeps; · assumption) | intro _ | dsimp only) <;> first | assumption | (simp (maxDischargeDepth := 40) +contextual [*]; done) | (simp (maxDischargeDepth := 40) +contextual [Keeps, *]; done)

@[simp] theorem State.partReply_keeps {base : State} (s : State) (id n lo status : Nat) (vals : List Word) (data : List Byte) (hk0 : Keeps base s) : Keeps base (State.partReply s id n lo status vals data) := by
  unfold State.partReply
  try dsimp only
  (repeat' first | assumption | split | (with_reducible apply foldl_keeps; intro _ _ _) | (with_reducible apply issue_keeps; · assumption) | (with_reducible apply uni_keeps; · assumption) | (with_reducible apply uniJump_keeps; · assumption) | (with_reducible apply withTiles_keeps; · assumption) | intro _ | dsimp only) <;> first | assumption | (simp (maxDischargeDepth := 40) +contextual [*]; done) | (simp (maxDischargeDepth := 40) +contextual [Keeps, *]; done)

@[simp] theorem State.waitReply_keeps {base : State} (s : State) (w : Agent) (status : Nat) (vals : List Word) (data : List Byte) (hk0 : Keeps base s) : Keeps base (State.waitReply s w status vals data) := by
  unfold State.waitReply
  (repeat' split) <;> simp [*]

@[simp] theorem State.engineGot_keeps {base : State} (s : State) (o a n status : Nat) (coded : Bool) (vals : List Word) (data : List Byte) (hk0 : Keeps base s) : Keeps base (State.engineGot s o a n status coded vals data) := by
  exact hk0

@[simp] theorem State.engineAck_keeps {base : State} (s : State) (o status : Nat) (vals : List Word) (hk0 : Keeps base s) : Keeps base (State.engineAck s o status vals) := by
  exact hk0

@[simp] theorem State.endTransfer_keeps {base : State} (s : State) (o : Nat) (hk0 : Keeps base s) : Keeps base (State.endTransfer s o) := by
  unfold State.endTransfer
  (repeat' split) <;> simp [*]

@[simp] theorem State.failTransfer_keeps {base : State} (s : State) (o code : Nat) (hk0 : Keeps base s) : Keeps base (State.failTransfer s o code) := by
  simp [State.failTransfer, hk0]

@[simp] theorem State.transferAck_keeps {base : State} (s : State) (o status : Nat) (hk0 : Keeps base s) : Keeps base (State.transferAck s o status) := by
  unfold State.transferAck
  (repeat' split) <;> simp [*]

@[simp] theorem State.feedSend_keeps {base : State} (s : State) (o : Nat) (op : Op) (t : Transfer) (hk0 : Keeps base s) : Keeps base (State.feedSend s o op t) := by
  unfold State.feedSend
  try dsimp only
  (repeat' first | assumption | split | (with_reducible apply foldl_keeps; intro _ _ _) | (with_reducible apply issue_keeps; · assumption) | (with_reducible apply uni_keeps; · assumption) | (with_reducible apply uniJump_keeps; · assumption) | (with_reducible apply withTiles_keeps; · assumption) | intro _ | dsimp only) <;> first | assumption | (simp (maxDischargeDepth := 40) +contextual [*]; done) | (simp (maxDischargeDepth := 40) +contextual [Keeps, *]; done)

@[simp] theorem State.feedFetch_keeps {base : State} (s : State) (o : Nat) (t : Transfer) (hk0 : Keeps base s) : Keeps base (State.feedFetch s o t) := by
  unfold State.feedFetch
  try dsimp only
  (repeat' first | assumption | split | (with_reducible apply foldl_keeps; intro _ _ _) | (with_reducible apply issue_keeps; · assumption) | (with_reducible apply uni_keeps; · assumption) | (with_reducible apply uniJump_keeps; · assumption) | (with_reducible apply withTiles_keeps; · assumption) | intro _ | dsimp only) <;> first | assumption | (simp (maxDischargeDepth := 40) +contextual [*]; done) | (simp (maxDischargeDepth := 40) +contextual [Keeps, *]; done)

@[simp] theorem State.feedOne_keeps {base : State} (s : State) (o : Nat) (hk0 : Keeps base s) : Keeps base (State.feedOne s o) := by
  unfold State.feedOne
  (repeat' split) <;> simp [*]

@[simp] theorem State.feed_keeps {base : State} (s : State) (hk0 : Keeps base s) : Keeps base (State.feed s) := by
  unfold State.feed
  (repeat' split) <;> simp_all [Keeps]

@[simp] theorem State.landBulk_keeps {base : State} (s : State) (sg : SKey) (ac off : Nat) (bs : List Byte) (hk0 : Keeps base s) : Keeps base (State.landBulk s sg ac off bs).1 := by
  unfold State.landBulk
  try dsimp only
  (repeat' first | assumption | split | (with_reducible apply foldl_keeps; intro _ _ _) | (with_reducible apply issue_keeps; · assumption) | (with_reducible apply uni_keeps; · assumption) | (with_reducible apply uniJump_keeps; · assumption) | (with_reducible apply withTiles_keeps; · assumption) | intro _ | dsimp only) <;> first | assumption | (simp (maxDischargeDepth := 40) +contextual [*]; done) | (simp (maxDischargeDepth := 40) +contextual [Keeps, *]; done)

@[simp] theorem State.sendOn_keeps {base : State} (s : State) (p : Packet) (c : Nat) (hk0 : Keeps base s) : Keeps base (State.sendOn s p c) := by
  simp [State.sendOn, hk0]

@[simp] theorem State.readHome_keeps {base : State} (s : State) (p : Packet) (id off n : Nat) (kind : AccessKind) (d : Desc) (hk0 : Keeps base s) : Keeps base (State.readHome s p id off n kind d) := by
  unfold State.readHome
  try dsimp only
  (repeat' first | assumption | split | (with_reducible apply foldl_keeps; intro _ _ _) | (with_reducible apply issue_keeps; · assumption) | (with_reducible apply uni_keeps; · assumption) | (with_reducible apply uniJump_keeps; · assumption) | (with_reducible apply withTiles_keeps; · assumption) | intro _ | dsimp only) <;> first | assumption | (simp (maxDischargeDepth := 40) +contextual [*]; done) | (simp (maxDischargeDepth := 40) +contextual [Keeps, *]; done)

@[simp] theorem State.writeHome_keeps {base : State} (s : State) (p : Packet) (port : BitVec 6) (id off : Nat) (mask : BitVec 128) (kind : AccessKind) (d : Desc) (hk0 : Keeps base s) : Keeps base (State.writeHome s p port id off mask kind d) := by
  unfold State.writeHome
  try dsimp only
  (repeat' first | assumption | split | (with_reducible apply foldl_keeps; intro _ _ _) | (with_reducible apply issue_keeps; · assumption) | (with_reducible apply uni_keeps; · assumption) | (with_reducible apply uniJump_keeps; · assumption) | (with_reducible apply withTiles_keeps; · assumption) | intro _ | dsimp only) <;> first | assumption | (simp (maxDischargeDepth := 40) +contextual [*]; done) | (simp (maxDischargeDepth := 40) +contextual [Keeps, *]; done)

@[simp] theorem State.atomicHome_keeps {base : State} (s : State) (p : Packet) (port : BitVec 6) (id off : Nat) (r : Rmw) (kind : AccessKind) (ops : List Word) (d : Desc) (hk0 : Keeps base s) : Keeps base (State.atomicHome s p port id off r kind ops d) := by
  unfold State.atomicHome
  try dsimp only
  (repeat' first | assumption | split | (with_reducible apply foldl_keeps; intro _ _ _) | (with_reducible apply issue_keeps; · assumption) | (with_reducible apply uni_keeps; · assumption) | (with_reducible apply uniJump_keeps; · assumption) | (with_reducible apply withTiles_keeps; · assumption) | intro _ | dsimp only) <;> first | assumption | (simp (maxDischargeDepth := 40) +contextual [*]; done) | (simp (maxDischargeDepth := 40) +contextual [Keeps, *]; done)

@[simp] theorem State.monitorSet_keeps {base : State} (s : State) (p : Packet) (id off : Nat) (c : Cond) (n32 : Bool) (v : Word) (d : Desc) (hk0 : Keeps base s) : Keeps base (State.monitorSet s p id off c n32 v d) := by
  unfold State.monitorSet
  (repeat' split) <;> simp [*]

@[simp] theorem State.fetchHome_keeps {base : State} (s : State) (p : Packet) (id off n task block seg ac dst : Nat) (d : Desc) (hk0 : Keeps base s) : Keeps base (State.fetchHome s p id off n task block seg ac dst d) := by
  unfold State.fetchHome
  try dsimp only
  (repeat' first | assumption | split | (with_reducible apply foldl_keeps; intro _ _ _) | (with_reducible apply issue_keeps; · assumption) | (with_reducible apply uni_keeps; · assumption) | (with_reducible apply uniJump_keeps; · assumption) | (with_reducible apply withTiles_keeps; · assumption) | intro _ | dsimp only) <;> first | assumption | (simp (maxDischargeDepth := 40) +contextual [*]; done) | (simp (maxDischargeDepth := 40) +contextual [Keeps, *]; done)

@[simp] theorem State.enterHome_keeps {base : State} (s : State) (p : Packet) (id off n : Nat) (d : Desc) (hk0 : Keeps base s) : Keeps base (State.enterHome s p id off n d) := by
  unfold State.enterHome
  try dsimp only
  (repeat' first | assumption | split | (with_reducible apply foldl_keeps; intro _ _ _) | (with_reducible apply issue_keeps; · assumption) | (with_reducible apply uni_keeps; · assumption) | (with_reducible apply uniJump_keeps; · assumption) | (with_reducible apply withTiles_keeps; · assumption) | intro _ | dsimp only) <;> first | assumption | (simp (maxDischargeDepth := 40) +contextual [*]; done) | (simp (maxDischargeDepth := 40) +contextual [Keeps, *]; done)

@[simp] theorem State.departHome_keeps {base : State} (s : State) (p : Packet) (id o : Nat) (d : Desc) (hk0 : Keeps base s) : Keeps base (State.departHome s p id o d) := by
  simp [State.departHome, hk0]

@[simp] theorem State.visitHome_keeps {base : State} (s : State) (p : Packet) (port : BitVec 6) (id off n : Nat) (c : Scan) (d : Desc) (hk0 : Keeps base s) : Keeps base (State.visitHome s p port id off n c d) := by
  unfold State.visitHome
  try dsimp only
  (repeat' first | assumption | split | (with_reducible apply foldl_keeps; intro _ _ _) | (with_reducible apply issue_keeps; · assumption) | (with_reducible apply uni_keeps; · assumption) | (with_reducible apply uniJump_keeps; · assumption) | (with_reducible apply withTiles_keeps; · assumption) | intro _ | dsimp only) <;> first | assumption | (simp (maxDischargeDepth := 40) +contextual [*]; done) | (simp (maxDischargeDepth := 40) +contextual [Keeps, *]; done)

@[simp] theorem State.programHome_keeps {base : State} (s : State) (p : Packet) (id off rows : Nat) (ops : List (BitVec 16)) (lc : Word) (scalars : List Word) (hk0 : Keeps base s) : Keeps base (State.programHome s p id off rows ops lc scalars) := by
  exact hk0

@[simp] theorem State.stopHome_keeps {base : State} (s : State) (p : Packet) (id o : Nat) (d : Desc) (hk0 : Keeps base s) : Keeps base (State.stopHome s p id o d) := by
  simp [State.stopHome, hk0]

@[simp] theorem State.performNow_keeps {base : State} (s : State) (p : Packet) (port : BitVec 6) (id off : Nat) (d : Desc) (hk0 : Keeps base s) : Keeps base (State.performNow s p port id off d) := by
  unfold State.performNow
  (repeat' split) <;> simp [*]

@[simp] theorem State.perform_keeps {base : State} (s : State) (p : Packet) (port : BitVec 6) (id off : Nat) (d : Desc) (hk0 : Keeps base s) : Keeps base (State.perform s p port id off d) := by
  simp [State.perform, hk0]

@[simp] theorem State.holdRequest_keeps {base : State} (s : State) (p : Packet) (hk0 : Keeps base s) : Keeps base (State.holdRequest s p) := by
  exact hk0

@[simp] theorem State.atHome_keeps {base : State} (s : State) (p : Packet) (port : BitVec 6) (id off : Nat) (d : Desc) (hk0 : Keeps base s) : Keeps base (State.atHome s p port id off d) := by
  unfold State.atHome
  (repeat' split) <;> simp [*]

@[simp] theorem State.followStub_keeps {base : State} (s : State) (p : Packet) (id : Nat) (x : Stub) (hk0 : Keeps base s) : Keeps base (State.followStub s p id x) := by
  simp [State.followStub, hk0]

@[simp] theorem State.receive_keeps {base : State} (s : State) (p : Packet) (port : BitVec 6) (hk0 : Keeps base s) : ∀ fu fv fw, Keeps base (State.receive s p port fu fv fw) := by
  intro n
  induction n generalizing p s with
  | zero => intro i j; simp [State.receive, hk0]
  | succ n ih =>
    intro i j
    simp only [State.receive]
    (repeat' first | assumption | split | (with_reducible apply foldl_keeps; intro _ _ _) | intro _ | dsimp only) <;> first | assumption | (simp (maxDischargeDepth := 40) +contextual [*]; done) | (simp (maxDischargeDepth := 40) +contextual [Keeps, *]; done)

@[simp] theorem State.receiveObject_keeps {base : State} (s : State) (p : Packet) (port : BitVec 6) (ptr : Dword) (c : ObjCmd) (hk0 : Keeps base s) : Keeps base (State.receiveObject s p port ptr c) := by
  unfold State.receiveObject
  have hn := State.granAsk_keeps s p.src.toNat (ptrId ptr.toNat) c hk0
  have hd := State.destAsk_keeps s (ptrId ptr.toNat) c hk0
  dsimp only
  (repeat' split) <;> first | exact hk0 | (rename_i hq; exact State.respond_keeps _ _ _ _ _ _ _ (hn _ hq)) | (rename_i hq; exact State.respond_keeps _ _ _ _ _ _ _ (hd _ hq)) | simp [hk0]

@[simp] theorem State.receiveRequest_keeps {base : State} (s : State) (p : Packet) (port : BitVec 6) (hk0 : Keeps base s) : Keeps base (State.receiveRequest s p port) := by
  unfold State.receiveRequest
  (repeat' split) <;> simp [*]

@[simp] theorem State.giveCredit_keeps {base : State} (s : State) (port : BitVec 6) (p : Packet) (hk0 : Keeps base s) : Keeps base (State.giveCredit s port p) := by
  simp [State.giveCredit, hk0]

@[simp] theorem State.firstCredits_keeps {base : State} (s : State) (port : Nat) (hk0 : Keeps base s) : Keeps base (State.firstCredits s port) := by
  unfold State.firstCredits
  try dsimp only
  (repeat' first | assumption | split | (with_reducible apply foldl_keeps; intro _ _ _) | (with_reducible apply issue_keeps; · assumption) | (with_reducible apply uni_keeps; · assumption) | (with_reducible apply uniJump_keeps; · assumption) | (with_reducible apply withTiles_keeps; · assumption) | intro _ | dsimp only) <;> first | assumption | (simp (maxDischargeDepth := 40) +contextual [*]; done) | (simp (maxDischargeDepth := 40) +contextual [Keeps, *]; done)

@[simp] theorem State.drainEarly_keeps {base : State} (s : State) (src vc : Nat) (hk0 : Keeps base s) : ∀ fu, Keeps base (State.drainEarly s src vc fu) := by
  intro n
  induction n generalizing s with
  | zero => exact hk0
  | succ n ih =>
    simp only [State.drainEarly]
    split
    · exact hk0
    · exact ih _ hk0

@[simp] theorem State.inTurn_keeps {base : State} (s : State) (port : BitVec 6) (p : Packet) (run : State → BitVec 6 → Packet → State) (hk0 : Keeps base s) (hrun : ∀ t n ws, Keeps base t → Keeps base (run t n ws)) : Keeps base (State.inTurn s port p run) := by
  unfold State.inTurn
  try dsimp only
  (repeat' first | assumption | split | (with_reducible apply foldl_keeps; intro _ _ _) | (with_reducible apply issue_keeps; · assumption) | (with_reducible apply uni_keeps; · assumption) | (with_reducible apply uniJump_keeps; · assumption) | (with_reducible apply withTiles_keeps; · assumption) | intro _ | dsimp only) <;> first | assumption | (simp (maxDischargeDepth := 40) +contextual [*]; done) | (simp (maxDischargeDepth := 40) +contextual [Keeps, *]; done)

@[simp] theorem State.orWait_keeps {base : State} (s : State) (at_ : Option (BitVec 6)) (p : Packet) (t : State) (hk0 : Keeps base s) (hkt : Keeps base t) : Keeps base (State.orWait s at_ p t) := by
  unfold State.orWait
  (repeat' split) <;> simp [*]

@[simp] theorem State.takePacket_keeps {base : State} (s : State) (port : BitVec 6) (p : Packet) (run : State → BitVec 6 → Packet → State) (hk0 : Keeps base s) (hrun : ∀ t n ws, Keeps base t → Keeps base (run t n ws)) : Keeps base (State.takePacket s port p run) := by
  unfold State.takePacket
  (repeat' split) <;> simp_all [Keeps]

@[simp] theorem State.packetCame_keeps {base : State} (s : State) (type : PacketType) (port : BitVec 6) (p : Packet) (run : State → BitVec 6 → Packet → State) (hk0 : Keeps base s) (hrun : ∀ t n ws, Keeps base t → Keeps base (run t n ws)) : Keeps base (State.packetCame s type port p run) := by
  unfold State.packetCame
  try dsimp only
  (repeat' first | assumption | split | (with_reducible apply foldl_keeps; intro _ _ _) | (with_reducible apply issue_keeps; · assumption) | (with_reducible apply uni_keeps; · assumption) | (with_reducible apply uniJump_keeps; · assumption) | (with_reducible apply withTiles_keeps; · assumption) | intro _ | dsimp only) <;> first | assumption | (simp (maxDischargeDepth := 40) +contextual [*]; done) | (simp (maxDischargeDepth := 40) +contextual [Keeps, *]; done)

@[simp] theorem State.inLink_keeps {base : State} (s : State) (port : BitVec 6) (type : PacketType) (link : Nat) (next : State → State) (hk0 : Keeps base s) (hnext : ∀ t, Keeps base t → Keeps base (next t)) : Keeps base (State.inLink s port type link next) := by
  unfold State.inLink
  try dsimp only
  (repeat' first | assumption | split | (with_reducible apply foldl_keeps; intro _ _ _) | (with_reducible apply issue_keeps; · assumption) | (with_reducible apply uni_keeps; · assumption) | (with_reducible apply uniJump_keeps; · assumption) | (with_reducible apply withTiles_keeps; · assumption) | intro _ | dsimp only) <;> first | assumption | (simp (maxDischargeDepth := 40) +contextual [*]; done) | (simp (maxDischargeDepth := 40) +contextual [Keeps, *]; done)

@[simp] theorem State.packetIn_keeps {base : State} (s : State) (type : PacketType) (run : State → BitVec 6 → Packet → State) (hk0 : Keeps base s) (hrun : ∀ t n ws, Keeps base t → Keeps base (run t n ws)) : Keeps base (State.packetIn s type run) := by
  unfold State.packetIn
  try dsimp only
  (repeat' first | assumption | split | (with_reducible apply foldl_keeps; intro _ _ _) | (with_reducible apply issue_keeps; · assumption) | (with_reducible apply uni_keeps; · assumption) | (with_reducible apply uniJump_keeps; · assumption) | (with_reducible apply withTiles_keeps; · assumption) | intro _ | dsimp only) <;> first | assumption | (simp (maxDischargeDepth := 40) +contextual [*]; done) | (simp (maxDischargeDepth := 40) +contextual [Keeps, *]; done)

@[simp] theorem State.retryWaiting_keeps {base : State} (s : State) (hk0 : Keeps base s) : Keeps base (State.retryWaiting s) := by
  unfold State.retryWaiting
  try dsimp only
  (repeat' first | assumption | split | (with_reducible apply foldl_keeps; intro _ _ _) | (with_reducible apply issue_keeps; · assumption) | (with_reducible apply uni_keeps; · assumption) | (with_reducible apply uniJump_keeps; · assumption) | (with_reducible apply withTiles_keeps; · assumption) | intro _ | dsimp only) <;> first | assumption | (simp (maxDischargeDepth := 40) +contextual [*]; done) | (simp (maxDischargeDepth := 40) +contextual [Keeps, *]; done)

@[simp] theorem State.finishReply_keeps {base : State} (s : State) (r : Reply) (status id : Nat) (coded : Bool) (vals : List Word) (data : List Byte) (hk0 : Keeps base s) : Keeps base (State.finishReply s r status id coded vals data) := by
  unfold State.finishReply
  (repeat' split) <;> simp [*]

@[simp] theorem State.response_keeps {base : State} (s : State) (p : Packet) (hk0 : Keeps base s) : Keeps base (State.response s p) := by
  unfold State.response
  have hn := State.takeReply_keeps s p.tag.toNat false hk0
  split
  · split
    · exact hk0
    · split
      · exact hk0
      · rename_i hq
        have := hn _ hq
        simp (maxDischargeDepth := 40) [this]
  · exact hk0

@[simp] theorem State.bulkSent_keeps {base : State} (s : State) (p : Packet) (task block seg ac off : Nat) (hk0 : Keeps base s) : Keeps base (State.bulkSent s p task block seg ac off) := by
  unfold State.bulkSent
  (repeat' split) <;> simp [*]

@[simp] theorem State.bulkFetched_keeps {base : State} (s : State) (p : Packet) (ac off : Nat) (hk0 : Keeps base s) : Keeps base (State.bulkFetched s p ac off) := by
  unfold State.bulkFetched
  have hn := State.takeReply_keeps s p.tag.toNat false hk0
  split
  · rename_i hq
    have ht := hn _ hq
    clear hn hq
    (repeat' first | assumption | split | (with_reducible apply foldl_keeps; intro _ _ _) | intro _ | dsimp only) <;> first | assumption | (simp (maxDischargeDepth := 40) +contextual [*]; done) | (simp (maxDischargeDepth := 40) +contextual [Keeps, *]; done)
  · rename_i hq
    exact hn _ hq
  · exact hk0

@[simp] theorem State.endControl_keeps {base : State} (s : State) (st : OpState) (hk0 : Keeps base s) : Keeps base (State.endControl s st) := by
  unfold State.endControl
  try dsimp only
  (repeat' first | assumption | split | (with_reducible apply foldl_keeps; intro _ _ _) | (with_reducible apply issue_keeps; · assumption) | (with_reducible apply uni_keeps; · assumption) | (with_reducible apply uniJump_keeps; · assumption) | (with_reducible apply withTiles_keeps; · assumption) | intro _ | dsimp only) <;> first | assumption | (simp (maxDischargeDepth := 40) +contextual [*]; done) | (simp (maxDischargeDepth := 40) +contextual [Keeps, *]; done)

@[simp] theorem State.lockFail_keeps {base : State} (s : State) (n : Nat) (hk0 : Keeps base s) : Keeps base (State.lockFail s n) := by
  unfold State.lockFail
  try dsimp only
  (repeat' first | assumption | split | (with_reducible apply foldl_keeps; intro _ _ _) | (with_reducible apply issue_keeps; · assumption) | (with_reducible apply uni_keeps; · assumption) | (with_reducible apply uniJump_keeps; · assumption) | (with_reducible apply withTiles_keeps; · assumption) | intro _ | dsimp only) <;> first | assumption | (simp (maxDischargeDepth := 40) +contextual [*]; done) | (simp (maxDischargeDepth := 40) +contextual [Keeps, *]; done)

@[simp] theorem State.sendSync_keeps {base : State} (s : State) (mask : BitVec 64) (plan : BitVec 16) (time : Nat) (known moved : BitVec 4096) (hk0 : Keeps base s) : Keeps base (State.sendSync s mask plan time known moved) := by
  unfold State.sendSync
  (repeat' split) <;> simp_all [Keeps]

@[simp] theorem State.tellSync_keeps {base : State} (s : State) (r : Relock) (mask : BitVec 64) (hk0 : Keeps base s) : Keeps base (State.tellSync s r mask) := by
  simp [State.tellSync, hk0]

@[simp] theorem State.lateSync_keeps {base : State} (s : State) (port : Nat) (plan : BitVec 16) (time : Nat) (fresh : Bool) (known moved : BitVec 4096) (hk0 : Keeps base s) : Keeps base (State.lateSync s port plan time fresh known moved) := by
  unfold State.lateSync
  dsimp only
  (repeat' first | assumption | split | (with_reducible apply keeps_ite) | (with_reducible apply State.onFab_keeps) | (with_reducible apply State.sendSync_keeps) | (with_reducible apply State.firstCredits_keeps) | (with_reducible apply State.forward_keeps))

@[simp] theorem State.tryStep_keeps {base : State} (s : State) (hk0 : Keeps base s) : Keeps base (State.tryStep s) := by
  unfold State.tryStep
  dsimp only
  (repeat' first | assumption | split | (with_reducible apply State.tellSync_keeps) | (with_reducible apply State.onFab_keeps) | (with_reducible apply State.forward_keeps))

@[simp] theorem State.relockSync_keeps {base : State} (s : State) (r : Relock) (port time : Nat) (fresh : Bool) (known moved : BitVec 4096) (hk0 : Keeps base s) : Keeps base (State.relockSync s r port time fresh known moved) := by
  unfold State.relockSync
  try dsimp only
  (repeat' first | assumption | split | (with_reducible apply foldl_keeps; intro _ _ _) | (with_reducible apply issue_keeps; · assumption) | (with_reducible apply uni_keeps; · assumption) | (with_reducible apply uniJump_keeps; · assumption) | (with_reducible apply withTiles_keeps; · assumption) | intro _ | dsimp only) <;> first | assumption | (simp (maxDischargeDepth := 40) +contextual [*]; done) | (simp (maxDischargeDepth := 40) +contextual [Keeps, *]; done)

@[simp] theorem State.beginDrain_keeps {base : State} (s : State) (o : Nat) (hk0 : Keeps base s) : Keeps base (State.beginDrain s o) := by
  unfold State.beginDrain
  try dsimp only
  (repeat' first | assumption | split | (with_reducible apply foldl_keeps; intro _ _ _) | (with_reducible apply issue_keeps; · assumption) | (with_reducible apply uni_keeps; · assumption) | (with_reducible apply uniJump_keeps; · assumption) | (with_reducible apply withTiles_keeps; · assumption) | intro _ | dsimp only) <;> first | assumption | (simp (maxDischargeDepth := 40) +contextual [*]; done) | (simp (maxDischargeDepth := 40) +contextual [Keeps, *]; done)

@[simp] theorem State.goDark_keeps {base : State} (s : State) (o : Nat) (keep : BitVec 64) (hk0 : Keeps base s) : Keeps base (State.goDark s o keep) := by
  unfold State.goDark
  try dsimp only
  (repeat' first | assumption | split | (with_reducible apply foldl_keeps; intro _ _ _) | (with_reducible apply issue_keeps; · assumption) | (with_reducible apply uni_keeps; · assumption) | (with_reducible apply uniJump_keeps; · assumption) | (with_reducible apply withTiles_keeps; · assumption) | intro _ | dsimp only) <;> first | assumption | (simp (maxDischargeDepth := 40) +contextual [*]; done) | (simp (maxDischargeDepth := 40) +contextual [Keeps, *]; done)

@[simp] theorem State.beginRelock_keeps {base : State} (s : State) (o : Nat) (mask : BitVec 64) (plan : BitVec 16) (hk0 : Keeps base s) : Keeps base (State.beginRelock s o mask plan) := by
  unfold State.beginRelock
  try dsimp only
  (repeat' first | assumption | split | (with_reducible apply foldl_keeps; intro _ _ _) | (with_reducible apply issue_keeps; · assumption) | (with_reducible apply uni_keeps; · assumption) | (with_reducible apply uniJump_keeps; · assumption) | (with_reducible apply withTiles_keeps; · assumption) | intro _ | dsimp only) <;> first | assumption | (simp (maxDischargeDepth := 40) +contextual [*]; done) | (simp (maxDischargeDepth := 40) +contextual [Keeps, *]; done)

@[simp] theorem State.dropMonitor_keeps {base : State} (s : State) (e : Nat × Nat × Reply) (hk0 : Keeps base s) : Keeps base (State.dropMonitor s e) := by
  unfold State.dropMonitor
  (repeat' split) <;> simp [*]

@[simp] theorem State.dropHeld_keeps {base : State} (s : State) (e : Nat × Packet) (hk0 : Keeps base s) : Keeps base (State.dropHeld s e) := by
  unfold State.dropHeld
  try dsimp only
  (repeat' first | assumption | split | (with_reducible apply foldl_keeps; intro _ _ _) | (with_reducible apply issue_keeps; · assumption) | (with_reducible apply uni_keeps; · assumption) | (with_reducible apply uniJump_keeps; · assumption) | (with_reducible apply withTiles_keeps; · assumption) | intro _ | dsimp only) <;> first | assumption | (simp (maxDischargeDepth := 40) +contextual [*]; done) | (simp (maxDischargeDepth := 40) +contextual [Keeps, *]; done)

@[simp] theorem State.openFabric_keeps {base : State} (s : State) (hk0 : Keeps base s) : Keeps base (State.openFabric s) := by
  unfold State.openFabric
  try dsimp only
  (repeat' first | assumption | split | (with_reducible apply foldl_keeps; intro _ _ _) | (with_reducible apply issue_keeps; · assumption) | (with_reducible apply uni_keeps; · assumption) | (with_reducible apply uniJump_keeps; · assumption) | (with_reducible apply withTiles_keeps; · assumption) | intro _ | dsimp only) <;> first | assumption | (simp (maxDischargeDepth := 40) +contextual [*]; done) | (simp (maxDischargeDepth := 40) +contextual [Keeps, *]; done)

@[simp] theorem State.refuseControl_keeps {base : State} (s : State) (o : Nat) (hk0 : Keeps base s) : Keeps base (State.refuseControl s o) := by
  exact hk0

/-- A command that the controller applies keeps. -/
@[simp] theorem State.applyCmd_keeps {base : State} (s : State) (c : FabCmd) (h : Keeps base s) : Keeps base (s.applyCmd c) := by
  cases c <;> simp only [State.applyCmd] <;> (try split) <;>
    with_reducible first
      | exact h
      | exact State.beginDrain_keeps _ _ h
      | exact State.goDark_keeps _ _ _ h
      | exact State.beginRelock_keeps _ _ _ _ h
      | exact State.resolve_keeps _ _ _ (State.openFabric_keeps _ h)
      | exact State.refuseControl_keeps _ _ h

/-- Every command that the controller applies keeps. -/
@[simp] theorem State.runControl_keeps {base : State} : ∀ (n : Nat) (s : State), Keeps base s → Keeps base (State.runControl n s)
  | 0, _, h => h
  | n + 1, s, h => by
    unfold State.runControl
    split
    · exact h
    · split
      · exact h
      · exact State.runControl_keeps n _ (State.onFab_keeps _ _ h)
    · exact State.runControl_keeps n _ (State.applyCmd_keeps _ _ (State.onFab_keeps _ _ h))

@[simp] theorem State.toControl_keeps {base : State} (s : State) (c : FabCmd) (hk0 : Keeps base s) : Keeps base (State.toControl s c) := by
  exact State.runControl_keeps _ _ (State.onFab_keeps _ _ hk0)

@[simp] theorem State.controlDone_keeps {base : State} (s : State) (n : Nat) (hk0 : Keeps base s) : Keeps base (State.controlDone s n) := by
  unfold State.controlDone
  dsimp only
  split
  · exact State.runControl_keeps _ _ (State.onFab_keeps _ _ hk0)
  · exact hk0

@[simp] theorem control_keeps {base : State} (s : State) (m : Bool) (k : BitVec 4) (names : List Nat) (own : List (Option Exc)) (c : Nat → FabCmd) (hk0 : Keeps base s) : KeepsOut base (control s m k names own c) := by
  unfold control
  try dsimp only
  (repeat' first | assumption | split | (with_reducible apply foldl_keeps; intro _ _ _) | (with_reducible apply issue_keeps; · assumption) | (with_reducible apply uni_keeps; · assumption) | (with_reducible apply uniJump_keeps; · assumption) | (with_reducible apply withTiles_keeps; · assumption) | intro _ | dsimp only) <;> first | assumption | (simp (maxDischargeDepth := 40) +contextual [*]; done) | (simp (maxDischargeDepth := 40) +contextual [Keeps, *]; done)

@[simp] theorem State.openControl_keeps {base : State} (s : State) (m : Bool) (gd : Nat) (c : Counted) (hk0 : Keeps base s) : Keeps base (State.openControl s m gd c) := by
  unfold State.openControl
  try dsimp only
  (repeat' first | assumption | split | (with_reducible apply foldl_keeps; intro _ _ _) | (with_reducible apply issue_keeps; · assumption) | (with_reducible apply uni_keeps; · assumption) | (with_reducible apply uniJump_keeps; · assumption) | (with_reducible apply withTiles_keeps; · assumption) | intro _ | dsimp only) <;> first | assumption | (simp (maxDischargeDepth := 40) +contextual [*]; done) | (simp (maxDischargeDepth := 40) +contextual [Keeps, *]; done)

@[simp] theorem State.stage_keeps {base : State} (s : State) (plan : Word) (bs : List Byte) (hk0 : Keeps base s) : Keeps base (State.stage s plan bs).1 := by
  unfold State.stage
  (repeat' split) <;> simp [*]

@[simp] theorem State.runFbplan_keeps {base : State} (s : State) (n : Nat) (plan : Word) (ptr o : Nat) (hk0 : Keeps base s) : Keeps base (State.runFbplan s n plan ptr o) := by
  unfold State.runFbplan
  dsimp only
  generalize chunks ptr tableBytes = ch
  generalize ptrOff ptr + tableBytes = off
  generalize 2 ^ 34 = lim
  (repeat' first | exact hk0 | split) <;> simp (maxDischargeDepth := 40) [hk0]

@[simp] theorem State.onLog_keeps {base : State} (s : State) (u : Nat) (f : ErrorLog → ErrorLog) (hk0 : Keeps base s) : Keeps base (State.onLog s u f) := by
  exact hk0

@[simp] theorem State.requestBurst_keeps {base : State} (s : State) (p : Packet) (port : BitVec 6) (hk0 : Keeps base s) : Keeps base (State.requestBurst s p port) := by
  unfold State.requestBurst
  (repeat' split) <;> simp [*]

@[simp] theorem State.scrubVisit_keeps {base : State} (s : State) (row : Nat) (hk0 : Keeps base s) : Keeps base (State.scrubVisit s row) := by
  unfold State.scrubVisit
  try dsimp only
  (repeat' first | assumption | split | (with_reducible apply foldl_keeps; intro _ _ _) | (with_reducible apply issue_keeps; · assumption) | (with_reducible apply uni_keeps; · assumption) | (with_reducible apply uniJump_keeps; · assumption) | (with_reducible apply withTiles_keeps; · assumption) | intro _ | dsimp only) <;> first | assumption | (simp (maxDischargeDepth := 40) +contextual [*]; done) | (simp (maxDischargeDepth := 40) +contextual [Keeps, *]; done)

@[simp] theorem State.burst_keeps {base : State} (s : State) (a : Activity) (hk0 : Keeps base s) : Keeps base (State.burst s a) := by
  unfold State.burst
  (repeat' split) <;> simp [*]

@[simp] theorem State.refresh_keeps {base : State} (s : State) (ch : Nat) (hk0 : Keeps base s) : Keeps base (State.refresh s ch) := by
  exact hk0

@[simp] theorem State.rate_keeps {base : State} (s : State) (stack doubled : Nat) (temp : Word) (hk0 : Keeps base s) : Keeps base (State.rate s stack doubled temp) := by
  unfold State.rate
  try dsimp only
  (repeat' first | assumption | split | (with_reducible apply foldl_keeps; intro _ _ _) | (with_reducible apply issue_keeps; · assumption) | (with_reducible apply uni_keeps; · assumption) | (with_reducible apply uniJump_keeps; · assumption) | (with_reducible apply withTiles_keeps; · assumption) | intro _ | dsimp only) <;> first | assumption | (simp (maxDischargeDepth := 40) +contextual [*]; done) | (simp (maxDischargeDepth := 40) +contextual [Keeps, *]; done)

end Sys2Proof.Machine
end

