-- ==== Sys2Proof/Laws/KeepsTasks.lean ====
section
/-! SUPPORT. What the operations of tasks, blocks, the host port and the step itself keep, one lemma an operation. -/

set_option linter.all false

namespace Sys2Proof.Machine

@[simp] theorem State.askSizes_keeps {base : State} (s : State) (w : FarBy) (t : Task) (hk0 : Keeps base s) : Keeps base (State.askSizes s w t) := by
  unfold State.askSizes
  (repeat' split) <;> simp_all [Keeps]

@[simp] theorem State.install_keeps {base : State} (s : State) (i : Nat) (t : Task) (hk0 : Keeps base s) : Keeps base (State.install s i t) := by
  simp [State.install, hk0]

@[simp] theorem State.runLaunch_keeps {base : State} (s : State) (n : Nat) (t : Option Task) (hk0 : Keeps base s) : Keeps base (State.runLaunch s n t) := by
  unfold State.runLaunch
  split
  · exact State.endCommand_keeps _ _ _ _ hk0
  split
  · exact State.askSizes_keeps _ _ _ hk0
  · exact State.endCommand_keeps _ _ _ _ (State.farForget_keeps _ _ hk0)
  split
  · exact State.endCommand_keeps _ _ _ _ (State.farForget_keeps _ _ hk0)
  · exact State.endCommand_keeps _ _ _ _ (State.install_keeps _ _ _ (State.farForget_keeps _ _ hk0))

@[simp] theorem launch_keeps {base : State} (s : State) (m : Bool) (gd : Nat) (names : List Nat) (p : List Word) (r : Except HtsStop (Option Task)) (hk0 : Keeps base s) : KeepsOut base (launch s m gd names p r) := by
  unfold launch
  try dsimp only
  (repeat' first | assumption | split | (with_reducible apply foldl_keeps; intro _ _ _) | (with_reducible apply issue_keeps; · assumption) | (with_reducible apply uni_keeps; · assumption) | (with_reducible apply uniJump_keeps; · assumption) | (with_reducible apply withTiles_keeps; · assumption) | intro _ | dsimp only) <;> first | assumption | (simp (maxDischargeDepth := 40) +contextual [*]; done) | (simp (maxDischargeDepth := 40) +contextual [Keeps, *]; done)

@[simp] theorem State.patchTask_keeps {base : State} (s : State) (slot : Nat) (value : Word) (i : Nat) (hk0 : Keeps base s) : Keeps base (State.patchTask s slot value i).1 := by
  unfold State.patchTask
  (repeat' split) <;> simp [*]

@[simp] theorem State.endPoisoned_keeps {base : State} (s : State) (i : Nat) (hk0 : Keeps base s) : Keeps base (State.endPoisoned s i) := by
  simp [State.endPoisoned, hk0]

@[simp] theorem State.runKill_keeps {base : State} (s : State) (n : Nat) (i : Nat) (hk0 : Keeps base s) : Keeps base (State.runKill s n i) := by
  unfold State.runKill
  try dsimp only
  (repeat' first | assumption | split | (with_reducible apply foldl_keeps; intro _ _ _) | (with_reducible apply keeps_elim) | (with_reducible apply State.endCommand_keeps) | (with_reducible apply State.endTask_keeps) | (with_reducible apply State.partDone_keeps) | intro _ | dsimp only) <;> first | assumption | (simp (maxDischargeDepth := 40) +contextual [*]; done) | (simp (maxDischargeDepth := 40) +contextual [Keeps, *]; done)

@[simp] theorem State.forkBlock_keeps {base : State} (s : State) (blk : Nat) (words : List Word) (hk0 : Keeps base s) : Keeps base (State.forkBlock s blk words) := by
  unfold State.forkBlock
  (repeat' split) <;> simp [*]

@[simp] theorem State.runCommand_keeps {base : State} (s : State) (n : Nat) (t : Txn) (c : Counted) (hk0 : Keeps base s) : Keeps base (State.runCommand s n t c) := by
  unfold State.runCommand
  try dsimp only
  (repeat' first | assumption | split | (with_reducible apply foldl_keeps; intro _ _ _) | (with_reducible apply keeps_elim) | (with_reducible apply State.endCommand_keeps) | (with_reducible apply State.runFbplan_keeps) | (with_reducible apply launch_keeps) | (with_reducible apply State.runLaunch_keeps) | (with_reducible apply State.patchTask_keeps) | (with_reducible apply State.decTask_keeps) | (with_reducible apply State.runKill_keeps) | (with_reducible apply State.runObject_keeps) | intro _ | dsimp only) <;> first | assumption | (simp (maxDischargeDepth := 40) +contextual [*]; done) | (simp (maxDischargeDepth := 40) +contextual [Keeps, *]; done)

@[simp] theorem State.bindGroup_keeps {base : State} (s : State) (k : GKey) (core : Nat) (hk0 : Keeps base s) : Keeps base (State.bindGroup s k core) := by
  exact hk0

@[simp] theorem State.startGroup_keeps {base : State} (s : State) (blk : Nat) (b : Block) (n : Nat) (hk0 : Keeps base s) : Keeps base (State.startGroup s blk b n) := by
  exact hk0

@[simp] theorem State.startBlock_keeps {base : State} (s : State) (i : Nat) (t : Task) (bid cluster : Nat) (cores : List Nat) (hk0 : Keeps base s) : Keeps base (State.startBlock s i t bid cluster cores) := by
  unfold State.startBlock
  dsimp only
  apply foldl_keeps
  · intro t n ht
    exact State.startGroup_keeps _ _ _ _ ht
  · refine ⟨hk0.1, ?_, hk0.2.2⟩
    intro e he
    rcases List.mem_append.1 he with he | he
    · exact hk0.2.1 e he
    · obtain ⟨x, -, rfl⟩ := List.mem_map.1 he
      rfl

@[simp] theorem State.widenSpans_keeps {base : State} (s : State) (task : Nat) (hk0 : Keeps base s) : Keeps base (State.widenSpans s task) := by
  exact hk0

@[simp] theorem State.startBlocks_keeps {base : State} (s : State) (i : Nat) (at_ : List (Nat × List Nat)) (hk0 : Keeps base s) : Keeps base (State.startBlocks s i at_) := by
  unfold State.startBlocks
  try dsimp only
  (repeat' first | assumption | split | (with_reducible apply foldl_keeps; intro _ _ _) | (with_reducible apply issue_keeps; · assumption) | (with_reducible apply uni_keeps; · assumption) | (with_reducible apply uniJump_keeps; · assumption) | (with_reducible apply withTiles_keeps; · assumption) | intro _ | dsimp only) <;> first | assumption | (simp (maxDischargeDepth := 40) +contextual [*]; done) | (simp (maxDischargeDepth := 40) +contextual [Keeps, *]; done)

@[simp] theorem State.trapWaiting_keeps {base : State} (s : State) (k : GKey) (c : FaultCode) (hk0 : Keeps base s) : Keeps base (State.trapWaiting s k c) := by
  unfold State.trapWaiting
  (repeat' split) <;> simp [*]

@[simp] theorem State.deliverKept_keeps {base : State} (s : State) (k : GKey) (hk0 : Keeps base s) : Keeps base (State.deliverKept s k) := by
  unfold State.deliverKept
  generalize look s.groups k = o
  cases o with
  | none => exact hk0
  | some g =>
    dsimp only
    generalize g.wait = w
    cases w <;> dsimp only <;> first | exact State.unpark_keeps _ _ hk0 | (split <;> first | exact hk0 | (split <;> first | exact State.onGroup_keeps _ _ _ hk0 | exact State.trapWaiting_keeps _ _ _ hk0))

@[simp] theorem State.rewait_keeps {base : State} (s : State) (w : Agent) (hk0 : Keeps base s) : Keeps base (State.rewait s w) := by
  unfold State.rewait
  try dsimp only
  (repeat' first | assumption | split | (with_reducible apply foldl_keeps; intro _ _ _) | (with_reducible apply issue_keeps; · assumption) | (with_reducible apply uni_keeps; · assumption) | (with_reducible apply uniJump_keeps; · assumption) | (with_reducible apply withTiles_keeps; · assumption) | intro _ | dsimp only) <;> first | assumption | (simp (maxDischargeDepth := 40) +contextual [*]; done) | (simp (maxDischargeDepth := 40) +contextual [Keeps, *]; done)

@[simp] theorem State.restoreBlock_keeps {base : State} (s : State) (blk cluster : Nat) (cores : List Nat) (hk0 : Keeps base s) : Keeps base (State.restoreBlock s blk cluster cores) := by
  unfold State.restoreBlock
  try dsimp only
  (repeat' first | assumption | split | (with_reducible apply foldl_keeps; intro _ _ _) | (with_reducible apply issue_keeps; · assumption) | (with_reducible apply uni_keeps; · assumption) | (with_reducible apply uniJump_keeps; · assumption) | (with_reducible apply withTiles_keeps; · assumption) | intro _ | dsimp only) <;> first | assumption | (simp (maxDischargeDepth := 40) +contextual [*]; done) | (simp (maxDischargeDepth := 40) +contextual [Keeps, *]; done)

@[simp] theorem State.stopBlocks_keeps {base : State} (s : State) (blks : List Nat) (hk0 : Keeps base s) : Keeps base (State.stopBlocks s blks) := by
  unfold State.stopBlocks
  try dsimp only
  (repeat' first | assumption | split | (with_reducible apply foldl_keeps; intro _ _ _) | (with_reducible apply issue_keeps; · assumption) | (with_reducible apply uni_keeps; · assumption) | (with_reducible apply uniJump_keeps; · assumption) | (with_reducible apply withTiles_keeps; · assumption) | intro _ | dsimp only) <;> first | assumption | (simp (maxDischargeDepth := 40) +contextual [*]; done) | (simp (maxDischargeDepth := 40) +contextual [Keeps, *]; done)

@[simp] theorem State.forgetBlock_keeps {base : State} (s : State) (blk : Nat) (hk0 : Keeps base s) : Keeps base (State.forgetBlock s blk) := by
  unfold State.forgetBlock
  try dsimp only
  (repeat' first | assumption | split | (with_reducible apply foldl_keeps; intro _ _ _) | (with_reducible apply issue_keeps; · assumption) | (with_reducible apply uni_keeps; · assumption) | (with_reducible apply uniJump_keeps; · assumption) | (with_reducible apply withTiles_keeps; · assumption) | intro _ | dsimp only) <;> first | assumption | (simp (maxDischargeDepth := 40) +contextual [*]; done) | (simp (maxDischargeDepth := 40) +contextual [Keeps, *]; done)

@[simp] theorem State.saveBlock_keeps {base : State} (s : State) (blk : Nat) (swap : Bool) (hk0 : Keeps base s) : Keeps base (State.saveBlock s blk swap) := by
  unfold State.saveBlock
  try dsimp only
  (repeat' first | assumption | split | (with_reducible apply foldl_keeps; intro _ _ _) | (with_reducible apply issue_keeps; · assumption) | (with_reducible apply uni_keeps; · assumption) | (with_reducible apply uniJump_keeps; · assumption) | (with_reducible apply withTiles_keeps; · assumption) | intro _ | dsimp only) <;> first | assumption | (simp (maxDischargeDepth := 40) +contextual [*]; done) | (simp (maxDischargeDepth := 40) +contextual [Keeps, *]; done)

@[simp] theorem State.pollGroup_keeps {base : State} (s : State) (k : GKey) (hk0 : Keeps base s) : Keeps base (State.pollGroup s k) := by
  unfold State.pollGroup
  (repeat' split) <;> simp [*]

@[simp] theorem State.removeBlock_keeps {base : State} (s : State) (blk : Nat) (hk0 : Keeps base s) : Keeps base (State.removeBlock s blk) := by
  exact State.forgetBlock_keeps _ _ ⟨hk0.1, fun e he => hk0.2.1 e (List.mem_filter.1 he).1, hk0.2.2⟩

@[simp] theorem State.runOut_keeps {base : State} (s : State) (sg : SKey) (hk0 : Keeps base s) : ∀ fu, Keeps base (State.runOut s sg fu) := by
  intro n
  induction n generalizing s with
  | zero => exact hk0
  | succ n ih =>
    simp only [State.runOut]
    split
    · exact hk0
    · exact ih _ (State.runGmx_keeps _ _ hk0 _)

@[simp] theorem State.endBlock_keeps {base : State} (s : State) (blk : Nat) (b : Block) (hk0 : Keeps base s) : Keeps base (State.endBlock s blk b) := by
  unfold State.endBlock
  try dsimp only
  (repeat' first | assumption | split | (with_reducible apply foldl_keeps; intro _ _ _) | (with_reducible apply issue_keeps; · assumption) | (with_reducible apply uni_keeps; · assumption) | (with_reducible apply uniJump_keeps; · assumption) | (with_reducible apply withTiles_keeps; · assumption) | intro _ | dsimp only) <;> first | assumption | (simp (maxDischargeDepth := 40) +contextual [*]; done) | (simp (maxDischargeDepth := 40) +contextual [Keeps, *]; done)

@[simp] theorem State.finishTask_keeps {base : State} (s : State) (i : Nat) (t : Task) (hk0 : Keeps base s) : Keeps base (State.finishTask s i t) := by
  simp [State.finishTask, hk0]

@[simp] theorem State.sweepTasks_keeps {base : State} (s : State) (hk0 : Keeps base s) : Keeps base (State.sweepTasks s) := by
  unfold State.sweepTasks
  try dsimp only
  (repeat' first | assumption | split | (with_reducible apply foldl_keeps; intro _ _ _) | (with_reducible apply issue_keeps; · assumption) | (with_reducible apply uni_keeps; · assumption) | (with_reducible apply uniJump_keeps; · assumption) | (with_reducible apply withTiles_keeps; · assumption) | intro _ | dsimp only) <;> first | assumption | (simp (maxDischargeDepth := 40) +contextual [*]; done) | (simp (maxDischargeDepth := 40) +contextual [Keeps, *]; done)

@[simp] theorem State.endMove_keeps {base : State} (s : State) (blk : Nat) (hk0 : Keeps base s) : Keeps base (State.endMove s blk) := by
  unfold State.endMove
  try dsimp only
  (repeat' first | assumption | split | (with_reducible apply foldl_keeps; intro _ _ _) | (with_reducible apply issue_keeps; · assumption) | (with_reducible apply uni_keeps; · assumption) | (with_reducible apply uniJump_keeps; · assumption) | (with_reducible apply withTiles_keeps; · assumption) | intro _ | dsimp only) <;> first | assumption | (simp (maxDischargeDepth := 40) +contextual [*]; done) | (simp (maxDischargeDepth := 40) +contextual [Keeps, *]; done)

@[simp] theorem State.startSheaf_keeps {base : State} (s : State) (sg : SKey) (b : Block) (gid : Nat) (rs : List Spawn) (hk0 : Keeps base s) : Keeps base (State.startSheaf s sg b gid rs) := by
  unfold State.startSheaf
  try dsimp only
  (repeat' first | assumption | split | (with_reducible apply foldl_keeps; intro _ _ _) | (with_reducible apply issue_keeps; · assumption) | (with_reducible apply uni_keeps; · assumption) | (with_reducible apply uniJump_keeps; · assumption) | (with_reducible apply withTiles_keeps; · assumption) | intro _ | dsimp only) <;> first | assumption | (simp (maxDischargeDepth := 40) +contextual [*]; done) | (simp (maxDischargeDepth := 40) +contextual [Keeps, *]; done)

@[simp] theorem State.sheafStep_keeps {base : State} (s : State) (sg : SKey) (all : Bool) (hk0 : Keeps base s) : Keeps base (State.sheafStep s sg all) := by
  unfold State.sheafStep
  (repeat' split) <;> simp [*]

@[simp] theorem State.startAll_keeps {base : State} (s : State) (sg : SKey) (hk0 : Keeps base s) : ∀ fu, Keeps base (State.startAll s sg fu) := by
  intro n
  induction n generalizing s with
  | zero => exact hk0
  | succ n ih => exact ih _ (State.sheafStep_keeps _ _ _ hk0)

@[simp] theorem State.regroupTrap_keeps {base : State} (s : State) (c : FaultCode) (k : GKey) (hk0 : Keeps base s) : Keeps base (State.regroupTrap s c k) := by
  unfold State.regroupTrap
  (repeat' split) <;> simp [*]

@[simp] theorem State.regroupTraps_keeps {base : State} (s : State) (blk : Nat) (c : FaultCode) (hk0 : Keeps base s) : Keeps base (State.regroupTraps s blk c) := by
  unfold State.regroupTraps
  (repeat' split) <;> simp_all [Keeps]

@[simp] theorem State.regroupMove_keeps {base : State} (s : State) (gs : List (GKey × Group)) (pc : Word) (mask key : Nat) (dsp : Bool) (hk0 : Keeps base s) : Keeps base (State.regroupMove s gs pc mask key dsp) := by
  unfold State.regroupMove
  (repeat' split) <;> simp_all [Keeps]

@[simp] theorem State.tryRegroup_keeps {base : State} (s : State) (blk : Nat) (hk0 : Keeps base s) : Keeps base (State.tryRegroup s blk) := by
  unfold State.tryRegroup
  try dsimp only
  (repeat' first | assumption | split | (with_reducible apply foldl_keeps; intro _ _ _) | (with_reducible apply issue_keeps; · assumption) | (with_reducible apply uni_keeps; · assumption) | (with_reducible apply uniJump_keeps; · assumption) | (with_reducible apply withTiles_keeps; · assumption) | intro _ | dsimp only) <;> first | assumption | (simp (maxDischargeDepth := 40) +contextual [*]; done) | (simp (maxDischargeDepth := 40) +contextual [Keeps, *]; done)

@[simp] theorem State.arriveRegroup_keeps {base : State} (s : State) (k : GKey) (w : Wait) (pc : Word) (mask key : Nat) (hk0 : Keeps base s) : Keeps base (State.arriveRegroup s k w pc mask key) := by
  unfold State.arriveRegroup
  try dsimp only
  (repeat' first | assumption | split | (with_reducible apply foldl_keeps; intro _ _ _) | (with_reducible apply issue_keeps; · assumption) | (with_reducible apply uni_keeps; · assumption) | (with_reducible apply uniJump_keeps; · assumption) | (with_reducible apply withTiles_keeps; · assumption) | intro _ | dsimp only) <;> first | assumption | (simp (maxDischargeDepth := 40) +contextual [*]; done) | (simp (maxDischargeDepth := 40) +contextual [Keeps, *]; done)

@[simp] theorem State.trackReady_keeps {base : State} (s : State) (hk0 : Keeps base s) : Keeps base (State.trackReady s) := by
  unfold State.trackReady
  try dsimp only
  (repeat' first | assumption | split | (with_reducible apply foldl_keeps; intro _ _ _) | (with_reducible apply issue_keeps; · assumption) | (with_reducible apply uni_keeps; · assumption) | (with_reducible apply uniJump_keeps; · assumption) | (with_reducible apply withTiles_keeps; · assumption) | intro _ | dsimp only) <;> first | assumption | (simp (maxDischargeDepth := 40) +contextual [*]; done) | (simp (maxDischargeDepth := 40) +contextual [Keeps, *]; done)

@[simp] theorem State.applyHeld_keeps {base : State} (s : State) (h : Held) (hk0 : Keeps base s) : Keeps base (State.applyHeld s h) := by
  unfold State.applyHeld
  try dsimp only
  (repeat' first | assumption | split | (with_reducible apply foldl_keeps; intro _ _ _) | (with_reducible apply keeps_elim) | (with_reducible apply State.performPart_keeps) | (with_reducible apply State.requestBurst_keeps) | intro _ | dsimp only) <;> first | assumption | (simp (maxDischargeDepth := 40) +contextual [*]; done) | (simp (maxDischargeDepth := 40) +contextual [Keeps, *]; done)

@[simp] theorem State.logError_keeps {base : State} (s : State) (x : ErrorSite) (place : Word) (poisons : Bool) (hk0 : Keeps base s) : Keeps base (State.logError s x place poisons) := by
  unfold State.logError
  try dsimp only
  (repeat' first | assumption | split | (with_reducible apply foldl_keeps; intro _ _ _) | (with_reducible apply keeps_elim) | (with_reducible apply State.onLog_keeps) | intro _ | dsimp only) <;> first | assumption | (simp (maxDischargeDepth := 40) +contextual [*]; done) | (simp (maxDischargeDepth := 40) +contextual [Keeps, *]; done)

@[simp] theorem State.softError_keeps {base : State} (s : State) (x : ErrorSite) (place : Word) (hk0 : Keeps base s) : Keeps base (State.softError s x place) := by
  unfold State.softError
  (repeat' split) <;> simp [*]

@[simp] theorem State.onHost_keeps {base : State} (s : State) (f : HostPort → HostPort) (hk0 : Keeps base s) (hf : ∀ g, g.planbuf.wf = true → (f g).planbuf.wf = true) : Keeps base (State.onHost s f) := by
  exact ⟨hk0.1, hk0.2.1, hf _ hk0.2.2.1, hk0.2.2.2⟩

@[simp] theorem State.say_keeps {base : State} (s : State) (m : HostOut) (hk0 : Keeps base s) : Keeps base (State.say s m) := by
  exact hk0

theorem State.postAsks_keeps {base : State} (s : State) (p : List Word) (hk0 : Keeps base s) : ∀ r, State.postAsks s p = some r → Keeps base r := by
  unfold State.postAsks
  (repeat' split) <;> intro r hr <;> cases hr
  · exact State.farWant_keeps _ _ _ _ hk0
  · exact State.askSizes_keeps _ _ _ hk0

@[simp] theorem State.applyPost_keeps {base : State} (s : State) (seq index : Word) (p : List Word) (hk0 : Keeps base s) : Keeps base (State.applyPost s seq index p) := by
  unfold State.applyPost
  try dsimp only
  (repeat' first | assumption | split | (with_reducible apply foldl_keeps; intro _ _ _) | (with_reducible apply issue_keeps; · assumption) | (with_reducible apply uni_keeps; · assumption) | (with_reducible apply uniJump_keeps; · assumption) | (with_reducible apply withTiles_keeps; · assumption) | intro _ | dsimp only) <;> first | assumption | (simp (maxDischargeDepth := 40) +contextual [*]; done) | (simp (maxDischargeDepth := 40) +contextual [Keeps, *]; done)

@[simp] theorem State.retryPosts_keeps {base : State} (s : State) (hk0 : Keeps base s) : Keeps base (State.retryPosts s) := by
  simp [State.retryPosts, hk0]

@[simp] theorem State.sendEvents_keeps {base : State} (s : State) (due : EventRec → Bool) (hk0 : Keeps base s) : Keeps base (State.sendEvents s due) := by
  unfold State.sendEvents
  (repeat' split) <;> simp [*]

@[simp] theorem State.onQp_keeps {base : State} (s : State) (q : Nat) (f : QueuePair → QueuePair) (hk0 : Keeps base s) : Keeps base (State.onQp s q f) := by
  exact hk0

@[simp] theorem State.connectQp_keeps {base : State} (s : State) (q : Nat) (hk0 : Keeps base s) : Keeps base (State.connectQp s q) := by
  exact hk0

@[simp] theorem State.endQp_keeps {base : State} (s : State) (q : Nat) (hk0 : Keeps base s) : Keeps base (State.endQp s q) := by
  exact hk0

@[simp] theorem State.bringUp_keeps {base : State} (s : State) (hk0 : Keeps base s) : Keeps base (State.bringUp s) := by
  unfold State.bringUp
  generalize parseTable _ = r
  cases r with
  | none => exact State.onHost_keeps _ _ hk0 (fun _ h => h)
  | some t =>
    dsimp only
    split
    · exact State.onHost_keeps _ _ hk0 (fun _ h => h)
    · refine State.onHost_keeps _ _ (State.sendSync_keeps _ _ _ _ _ _ (State.setFab_keeps _ _ (State.onFab_keeps _ _ ?_))) (fun _ h => h)
      exact hk0

/-- A management write of the firmware's space changes no memory. -/
@[simp] theorem State.mgmtSet_keeps {base : State} (s : State) (e : Nat × Word) (hk0 : Keeps base s) :
    Keeps { base with migratePolicy := (s.mgmtSet e).migratePolicy, stubIdle := (s.mgmtSet e).stubIdle, pinGrace := (s.mgmtSet e).pinGrace } (s.mgmtSet e) := by
  have lift : ∀ t : State, Keeps base t → Keeps { base with migratePolicy := t.migratePolicy, stubIdle := t.stubIdle, pinGrace := t.pinGrace } t :=
    fun t h => ⟨h.1, h.2.1, h.2.2.1, h.2.2.2.1, h.2.2.2.2.1, h.2.2.2.2.2.1, h.2.2.2.2.2.2.1, h.2.2.2.2.2.2.2.1, h.2.2.2.2.2.2.2.2.1, rfl, rfl, rfl⟩
  have hh : ∀ f : HostPort → HostPort, (∀ h, h.planbuf.wf = true → (f h).planbuf.wf = true) → Keeps base (s.onHost f) := fun f hf => State.onHost_keeps _ _ hk0 hf
  have h1 : Keeps { base with migratePolicy := e.2 &&& 1, stubIdle := s.stubIdle, pinGrace := s.pinGrace } { s with migratePolicy := e.2 &&& 1 } :=
    ⟨hk0.1, hk0.2.1, hk0.2.2.1, hk0.2.2.2.1, hk0.2.2.2.2.1, hk0.2.2.2.2.2.1, hk0.2.2.2.2.2.2.1, hk0.2.2.2.2.2.2.2.1, hk0.2.2.2.2.2.2.2.2.1, rfl, rfl, rfl⟩
  have h2 : Keeps { base with migratePolicy := s.migratePolicy, stubIdle := e.2, pinGrace := s.pinGrace } { s with stubIdle := e.2 } :=
    ⟨hk0.1, hk0.2.1, hk0.2.2.1, hk0.2.2.2.1, hk0.2.2.2.2.1, hk0.2.2.2.2.2.1, hk0.2.2.2.2.2.2.1, hk0.2.2.2.2.2.2.2.1, hk0.2.2.2.2.2.2.2.2.1, rfl, rfl, rfl⟩
  have h3 : Keeps { base with migratePolicy := s.migratePolicy, stubIdle := s.stubIdle, pinGrace := e.2 } { s with pinGrace := e.2 } :=
    ⟨hk0.1, hk0.2.1, hk0.2.2.1, hk0.2.2.2.1, hk0.2.2.2.2.1, hk0.2.2.2.2.2.1, hk0.2.2.2.2.2.2.1, hk0.2.2.2.2.2.2.2.1, hk0.2.2.2.2.2.2.2.2.1, rfl, rfl, rfl⟩
  by_cases c1 : e.1 = 0x100
  · have hx : s.mgmtSet e = { s with migratePolicy := e.2 &&& 1 } := if_pos c1
    rw [hx]; exact h1
  by_cases c2 : e.1 = 0x104
  · have hx : s.mgmtSet e = { s with stubIdle := e.2 } := (if_neg c1).trans (if_pos c2)
    rw [hx]; exact h2
  by_cases c3 : e.1 = 0x108
  · have hx : s.mgmtSet e = { s with pinGrace := e.2 } := (if_neg c1).trans ((if_neg c2).trans (if_pos c3))
    rw [hx]; exact h3
  refine lift _ ?_
  unfold State.mgmtSet
  dsimp only
  rw [if_neg c1, if_neg c2, if_neg c3]
  repeat' (with_reducible apply keeps_ite)
  · exact hh _ (fun _ h => h)
  · exact hh _ (fun _ h => h)
  · exact hh _ (fun _ h => h)
  · exact State.bringUp_keeps _ (hh _ (fun _ h => h))
  · exact hh _ (fun _ h => h)
  · exact State.onQp_keeps _ _ _ hk0
  · exact State.onQp_keeps _ _ _ hk0
  · exact State.endQp_keeps _ _ hk0
  · exact State.connectQp_keeps _ _ hk0
  · exact hk0
  · exact hk0
  · split <;> first | exact State.onLog_keeps _ _ _ hk0 | exact hk0
  · exact hh _ (fun _ h => Memory.wf_put h _ _)
  · exact hk0

/-- A management write changes no memory and no counter but the firmware's three CSRs. -/
theorem State.mgmtWrite_keeps {base : State} (s : State) (seq : Word) (off : Nat) (data : List Byte) (hk0 : Keeps base s) :
    ∃ mp si pg, Keeps { base with migratePolicy := mp, stubIdle := si, pinGrace := pg } (s.mgmtWrite seq off data) := by
  have hs : ∀ (b t : State) m, Keeps b t → Keeps b (t.say m) := fun _ _ _ h => State.say_keeps _ _ h
  have h0 : ∀ m, ∃ mp si pg, Keeps { base with migratePolicy := mp, stubIdle := si, pinGrace := pg } (s.say m) :=
    fun m => ⟨base.migratePolicy, base.stubIdle, base.pinGrace, hs _ _ _ hk0⟩
  have hf : ∀ (l : List (Nat × Word)) (t : State) mp si pg, Keeps { base with migratePolicy := mp, stubIdle := si, pinGrace := pg } t →
      ∃ mp si pg, Keeps { base with migratePolicy := mp, stubIdle := si, pinGrace := pg } (l.foldl State.mgmtSet t) := by
    intro l
    induction l with
    | nil => exact fun t mp si pg h => ⟨mp, si, pg, h⟩
    | cons e r ih => exact fun t mp si pg h => ih _ _ _ _ (State.mgmtSet_keeps (base := { base with migratePolicy := mp, stubIdle := si, pinGrace := pg }) t e h)
  unfold State.mgmtWrite
  dsimp only
  split
  · exact h0 _
  split
  · exact h0 _
  split
  · exact h0 _
  · obtain ⟨mp, si, pg, h⟩ := hf (s.mgmtWords off data) s _ _ _ hk0
    exact ⟨mp, si, pg, hs _ _ _ h⟩

@[simp] theorem State.sayTripped_keeps {base : State} (s : State) (seq : Word) (hk0 : Keeps base s) : Keeps base (State.sayTripped s seq) := by
  exact hk0

/-- So does the management write that has arrived. -/
theorem State.onMgmtWrite_keeps {base : State} (s : State) (k : MgmtKind) (hk0 : Keeps base s) :
    ∃ mp si pg, Keeps { base with migratePolicy := mp, stubIdle := si, pinGrace := pg } (s.onMgmtWrite k) := by
  have h0 : ∃ mp si pg, Keeps { base with migratePolicy := mp, stubIdle := si, pinGrace := pg } s := ⟨_, _, _, hk0⟩
  have hs : ∀ m, ∃ mp si pg, Keeps { base with migratePolicy := mp, stubIdle := si, pinGrace := pg } (s.say m) := fun m => ⟨_, _, _, State.say_keeps s m hk0⟩
  unfold State.onMgmtWrite
  (repeat' split) <;> first | exact h0 | exact hs _ | exact State.mgmtWrite_keeps _ _ _ _ hk0

@[simp] theorem State.rdmaEnd_keeps {base : State} (s : State) (r : Rdma) (m : HostOut) (hk0 : Keeps base s) : Keeps base (State.rdmaEnd s r m) := by
  exact hk0

@[simp] theorem State.rdmaNak_keeps {base : State} (s : State) (r : Rdma) (hk0 : Keeps base s) : Keeps base (State.rdmaNak s r) := by
  exact hk0

@[simp] theorem State.rdmaFinish_keeps {base : State} (s : State) (r : Rdma) (hk0 : Keeps base s) : Keeps base (State.rdmaFinish s r) := by
  unfold State.rdmaFinish
  (repeat' split) <;> simp [*]

@[simp] theorem State.sweepRdma_keeps {base : State} (s : State) (hk0 : Keeps base s) : Keeps base (State.sweepRdma s) := by
  unfold State.sweepRdma
  (repeat' split) <;> simp_all [Keeps]

@[simp] theorem State.rdmaStart_keeps {base : State} (s : State) (q : Nat) (hk0 : Keeps base s) : Keeps base (State.rdmaStart s q) := by
  unfold State.rdmaStart
  try dsimp only
  (repeat' first | assumption | split | (with_reducible apply foldl_keeps; intro _ _ _) | (with_reducible apply issue_keeps; · assumption) | (with_reducible apply uni_keeps; · assumption) | (with_reducible apply uniJump_keeps; · assumption) | (with_reducible apply withTiles_keeps; · assumption) | intro _ | dsimp only) <;> first | assumption | (simp (maxDischargeDepth := 40) +contextual [*]; done) | (simp (maxDischargeDepth := 40) +contextual [Keeps, *]; done)

@[simp] theorem State.rdmaArrive_keeps {base : State} (s : State) (q : BitVec 6) (rkey : Word) (psn : BitVec 24) (r : Rdma) (hk0 : Keeps base s) : Keeps base (State.rdmaArrive s q rkey psn r) := by
  unfold State.rdmaArrive
  try dsimp only
  (repeat' first | assumption | split | (with_reducible apply foldl_keeps; intro _ _ _) | (with_reducible apply issue_keeps; · assumption) | (with_reducible apply uni_keeps; · assumption) | (with_reducible apply uniJump_keeps; · assumption) | (with_reducible apply withTiles_keeps; · assumption) | intro _ | dsimp only) <;> first | assumption | (simp (maxDischargeDepth := 40) +contextual [*]; done) | (simp (maxDischargeDepth := 40) +contextual [Keeps, *]; done)

@[simp] theorem State.qpError_keeps {base : State} (s : State) (q : Nat) (hk0 : Keeps base s) : Keeps base (State.qpError s q) := by
  unfold State.qpError
  (repeat' split) <;> simp [*]

/-- After a reset no memory lists anything. -/
@[simp] theorem State.afterReset_memOk (s : State) : s.afterReset.memOk = true := rfl

@[simp] theorem State.noteIssue_keeps {base : State} (s : State) (u : Nat) (k : GKey) (out : List PathOf) (hk0 : Keeps base s) : Keeps base (State.noteIssue s u k out) := by
  exact hk0

@[simp] theorem State.takeView_keeps {base : State} (s : State) (k : GKey) (hk0 : Keeps base s) : Keeps base (State.takeView s k) := by
  exact hk0

@[simp] theorem State.endPair_keeps {base : State} (s : State) (k : GKey) (hk0 : Keeps base s) : Keeps base (State.endPair s k) := by
  unfold State.endPair
  try dsimp only
  (repeat' first | assumption | split | (with_reducible apply foldl_keeps; intro _ _ _) | (with_reducible apply issue_keeps; · assumption) | (with_reducible apply uni_keeps; · assumption) | (with_reducible apply uniJump_keeps; · assumption) | (with_reducible apply withTiles_keeps; · assumption) | intro _ | dsimp only) <;> first | assumption | (simp (maxDischargeDepth := 40) +contextual [*]; done) | (simp (maxDischargeDepth := 40) +contextual [Keeps, *]; done)

@[simp] theorem State.askCode_keeps {base : State} (s : State) (hk0 : Keeps base s) : Keeps base (State.askCode s) := by
  unfold State.askCode
  try dsimp only
  (repeat' first | assumption | split | (with_reducible apply foldl_keeps; intro _ _ _) | (with_reducible apply issue_keeps; · assumption) | (with_reducible apply uni_keeps; · assumption) | (with_reducible apply uniJump_keeps; · assumption) | (with_reducible apply withTiles_keeps; · assumption) | intro _ | dsimp only) <;> first | assumption | (simp (maxDischargeDepth := 40) +contextual [*]; done) | (simp (maxDischargeDepth := 40) +contextual [Keeps, *]; done)

@[simp] theorem State.wakeFar_keeps {base : State} (s : State) (hk0 : Keeps base s) : Keeps base (State.wakeFar s) := by
  exact hk0

@[simp] theorem State.farSteps_keeps {base : State} (s : State) (hk0 : Keeps base s) : Keeps base (State.farSteps s) := by
  unfold State.farSteps
  try dsimp only
  (repeat' first | assumption | split | (with_reducible apply foldl_keeps; intro _ _ _) | (with_reducible apply issue_keeps; · assumption) | (with_reducible apply uni_keeps; · assumption) | (with_reducible apply uniJump_keeps; · assumption) | (with_reducible apply withTiles_keeps; · assumption) | intro _ | dsimp only) <;> first | assumption | (simp (maxDischargeDepth := 40) +contextual [*]; done) | (simp (maxDischargeDepth := 40) +contextual [Keeps, *]; done)

/-- Events that may enter the arbiter enter it. -/
@[simp] theorem State.flushEvents_keeps {base : State} (n : Nat) : ∀ (s : State), Keeps base s → Keeps base (State.flushEvents n s) := by
  induction n with
  | zero => exact fun s h => h
  | succ n ih =>
    intro s h
    simp only [State.flushEvents]
    split
    · exact h
    · (repeat' split) <;> first
        | exact h
        | (apply ih; exact State.takeUser_keeps _ _ h)
        | (apply ih; exact State.takeEvent_keeps _ _ h)
        | (apply ih; exact h)

/-- The fabric sends what may leave. -/
@[simp] theorem State.pump_keeps {base : State} (n : Nat) : ∀ (s : State), Keeps base s → Keeps base (State.pump n s) := by
  induction n with
  | zero => exact fun s h => h
  | succ n ih =>
    intro s h
    simp only [State.pump]
    split
    · exact h
    · exact ih _ (State.transmit_keeps _ _ h)

/-- What follows within a step keeps, but for the step's own registers, the clock and the counter of free values. -/
@[simp] theorem State.tidy_keeps {base : State} (s : State) (hk0 : Keeps base s) : Keeps { base with cur := .idle, arg := .none, clock := s.clock + 1, freeCtr := s.freeCtr + 1 } s.tidy := by
  unfold State.tidy
  dsimp only
  refine State.trackReady_keeps _ (State.farSteps_keeps _ (foldl_keeps _ (fun t x ht => State.tryRegroup_keeps t x ht) _ _ (State.sweepTasks_keeps _ (State.pump_keeps _ _ (State.retryWaiting_keeps _ (State.runControl_keeps _ _ ?_))))))
  all_goals refine State.feed_keeps _ (State.sweepOps_keeps _ (State.sweepRdma_keeps _ (State.payOwed_keeps _ (State.flushEvents_keeps _ _ ?_))))
  exact ⟨hk0.1, hk0.2.1, hk0.2.2.1, hk0.2.2.2.1, rfl, rfl, rfl, rfl, hk0.2.2.2.2.2.2.2.2.1, hk0.2.2.2.2.2.2.2.2.2.1, hk0.2.2.2.2.2.2.2.2.2.2.1, hk0.2.2.2.2.2.2.2.2.2.2.2⟩

end Sys2Proof.Machine
end

