-- ==== Sys2Proof/Laws/KeepsExec.lean ====
section
/-! SUPPORT. What the other meanings keep, one lemma a meaning. -/

set_option linter.all false

namespace Sys2Proof.Machine

@[simp] theorem execJmp_keeps {base : State} (m : Bool) (off : BitVec 24) (s : State) (hk0 : Keeps base s) : KeepsOut base (execJmp m off s) := by
  simp [execJmp, hk0]

@[simp] theorem execGbr_keeps {base : State} (m : Bool) (ga gb : BitVec 9) (cond : Cond) (off : BitVec 32) (s : State) (hk0 : Keeps base s) : KeepsOut base (execGbr m ga gb cond off s) := by
  simp [execGbr, hk0]

@[simp] theorem execGbrn_keeps {base : State} (m : Bool) (ga gb : BitVec 9) (cond : Cond) (off : BitVec 32) (s : State) (hk0 : Keeps base s) : KeepsOut base (execGbrn m ga gb cond off s) := by
  simp [execGbrn, hk0]

@[simp] theorem execGbrz_keeps {base : State} (m : Bool) (ga : BitVec 9) (cond : Cond) (off : BitVec 32) (s : State) (hk0 : Keeps base s) : KeepsOut base (execGbrz m ga cond off s) := by
  simp [execGbrz, hk0]

@[simp] theorem execLoop_keeps {base : State} (m : Bool) (ga : BitVec 9) (off : BitVec 32) (s : State) (hk0 : Keeps base s) : KeepsOut base (execLoop m ga off s) := by
  first | (unfold execLoop; simp (maxDischargeDepth := 40) [*]; done) | (unfold execLoop; (try dsimp only); (repeat' first | assumption | split | (with_reducible apply foldl_keeps; intro _ _ _) | (with_reducible apply lan_keeps; · assumption) | (with_reducible apply issue_keeps; · assumption) | (with_reducible apply uni_keeps; · assumption) | (with_reducible apply uniJump_keeps; · assumption) | (with_reducible apply withTiles_keeps; · assumption) | intro _ | dsimp only) <;> first | assumption | (simp (maxDischargeDepth := 40) +contextual [*]; done) | (simp (maxDischargeDepth := 40) +contextual [Keeps, *]; done))

@[simp] theorem execLand_keeps {base : State} (m : Bool) (s : State) (hk0 : Keeps base s) : KeepsOut base (execLand m s) := by
  simp [execLand, hk0]

@[simp] theorem execNop_keeps {base : State} (m : Bool) (s : State) (hk0 : Keeps base s) : KeepsOut base (execNop m s) := by
  simp [execNop, hk0]

@[simp] theorem execExit_keeps {base : State} (_m : Bool) (s : State) (hk0 : Keeps base s) : KeepsOut base (execExit _m s) := by
  first | (unfold execExit; simp (maxDischargeDepth := 40) [*]; done) | (unfold execExit; (try dsimp only); (repeat' first | assumption | split | (with_reducible apply foldl_keeps; intro _ _ _) | (with_reducible apply lan_keeps; · assumption) | (with_reducible apply issue_keeps; · assumption) | (with_reducible apply uni_keeps; · assumption) | (with_reducible apply uniJump_keeps; · assumption) | (with_reducible apply withTiles_keeps; · assumption) | intro _ | dsimp only) <;> first | assumption | (simp (maxDischargeDepth := 40) +contextual [*]; done) | (simp (maxDischargeDepth := 40) +contextual [Keeps, *]; done))

@[simp] theorem execYield_keeps {base : State} (m : Bool) (s : State) (hk0 : Keeps base s) : KeepsOut base (execYield m s) := by
  first | (unfold execYield; simp (maxDischargeDepth := 40) [*]; done) | (unfold execYield; (try dsimp only); (repeat' first | assumption | split | (with_reducible apply foldl_keeps; intro _ _ _) | (with_reducible apply lan_keeps; · assumption) | (with_reducible apply issue_keeps; · assumption) | (with_reducible apply uni_keeps; · assumption) | (with_reducible apply uniJump_keeps; · assumption) | (with_reducible apply withTiles_keeps; · assumption) | intro _ | dsimp only) <;> first | assumption | (simp (maxDischargeDepth := 40) +contextual [*]; done) | (simp (maxDischargeDepth := 40) +contextual [Keeps, *]; done))

@[simp] theorem execBrk_keeps {base : State} (_m : Bool) (code : BitVec 24) (s : State) (hk0 : Keeps base s) : KeepsOut base (execBrk _m code s) := by
  simp [execBrk, hk0]

@[simp] theorem execTrap_keeps {base : State} (m : Bool) (ga gb : BitVec 9) (cond : Cond) (code : BitVec 6) (s : State) (hk0 : Keeps base s) : KeepsOut base (execTrap m ga gb cond code s) := by
  simp [execTrap, hk0]

@[simp] theorem execEret_keeps {base : State} (m : Bool) (s : State) (hk0 : Keeps base s) : KeepsOut base (execEret m s) := by
  first | (unfold execEret; simp (maxDischargeDepth := 40) [*]; done) | (unfold execEret; (try dsimp only); (repeat' first | assumption | split | (with_reducible apply foldl_keeps; intro _ _ _) | (with_reducible apply lan_keeps; · assumption) | (with_reducible apply issue_keeps; · assumption) | (with_reducible apply uni_keeps; · assumption) | (with_reducible apply uniJump_keeps; · assumption) | (with_reducible apply withTiles_keeps; · assumption) | intro _ | dsimp only) <;> first | assumption | (simp (maxDischargeDepth := 40) +contextual [*]; done) | (simp (maxDischargeDepth := 40) +contextual [Keeps, *]; done))

@[simp] theorem execEndSeq_keeps {base : State} (_m : Bool) (s : State) (hk0 : Keeps base s) : KeepsOut base (execEndSeq _m s) := by
  first | (unfold execEndSeq; simp (maxDischargeDepth := 40) [*]; done) | (unfold execEndSeq; (try dsimp only); (repeat' first | assumption | split | (with_reducible apply foldl_keeps; intro _ _ _) | (with_reducible apply lan_keeps; · assumption) | (with_reducible apply issue_keeps; · assumption) | (with_reducible apply uni_keeps; · assumption) | (with_reducible apply uniJump_keeps; · assumption) | (with_reducible apply withTiles_keeps; · assumption) | intro _ | dsimp only) <;> first | assumption | (simp (maxDischargeDepth := 40) +contextual [*]; done) | (simp (maxDischargeDepth := 40) +contextual [Keeps, *]; done))

@[simp] theorem execExtensionWord_keeps {base : State} (_m : Bool) (_set : Bool) (maj : BitVec 6) (_rest : BitVec 24) (_w1 : Word) (s : State) (hk0 : Keeps base s) : KeepsOut base (execExtensionWord _m _set maj _rest _w1 s) := by
  simp [execExtensionWord, hk0]

@[simp] theorem execBrz_keeps {base : State} (m : Bool) (va : BitVec 8) (off : BitVec 32) (s : State) (hk0 : Keeps base s) : KeepsOut base (execBrz m va off s) := by
  simp [execBrz, hk0]

@[simp] theorem execBrnz_keeps {base : State} (m : Bool) (va : BitVec 8) (off : BitVec 32) (s : State) (hk0 : Keeps base s) : KeepsOut base (execBrnz m va off s) := by
  simp [execBrnz, hk0]

@[simp] theorem execCall_keeps {base : State} (m : Bool) (off : BitVec 32) (s : State) (hk0 : Keeps base s) : KeepsOut base (execCall m off s) := by
  first | (unfold execCall; simp (maxDischargeDepth := 40) [*]; done) | (unfold execCall; (try dsimp only); (repeat' first | assumption | split | (with_reducible apply foldl_keeps; intro _ _ _) | (with_reducible apply lan_keeps; · assumption) | (with_reducible apply issue_keeps; · assumption) | (with_reducible apply uni_keeps; · assumption) | (with_reducible apply uniJump_keeps; · assumption) | (with_reducible apply withTiles_keeps; · assumption) | intro _ | dsimp only) <;> first | assumption | (simp (maxDischargeDepth := 40) +contextual [*]; done) | (simp (maxDischargeDepth := 40) +contextual [Keeps, *]; done))

@[simp] theorem execRet_keeps {base : State} (m : Bool) (s : State) (hk0 : Keeps base s) : KeepsOut base (execRet m s) := by
  first | (unfold execRet; simp (maxDischargeDepth := 40) [*]; done) | (unfold execRet; (try dsimp only); (repeat' first | assumption | split | (with_reducible apply foldl_keeps; intro _ _ _) | (with_reducible apply lan_keeps; · assumption) | (with_reducible apply issue_keeps; · assumption) | (with_reducible apply uni_keeps; · assumption) | (with_reducible apply uniJump_keeps; · assumption) | (with_reducible apply withTiles_keeps; · assumption) | intro _ | dsimp only) <;> first | assumption | (simp (maxDischargeDepth := 40) +contextual [*]; done) | (simp (maxDischargeDepth := 40) +contextual [Keeps, *]; done))

@[simp] theorem execBrx_keeps {base : State} (m : Bool) (va : BitVec 8) (s : State) (hk0 : Keeps base s) : KeepsOut base (execBrx m va s) := by
  simp [execBrx, hk0]

@[simp] theorem execCallx_keeps {base : State} (m : Bool) (va : BitVec 8) (s : State) (hk0 : Keeps base s) : KeepsOut base (execCallx m va s) := by
  simp [execCallx, hk0]

@[simp] theorem execBspillz_keeps {base : State} (m : Bool) (va gp : BitVec 8) (off : BitVec 32) (s : State) (hk0 : Keeps base s) : KeepsOut base (execBspillz m va gp off s) := by
  simp [execBspillz, hk0]

@[simp] theorem execBspillnz_keeps {base : State} (m : Bool) (va gp : BitVec 8) (off : BitVec 32) (s : State) (hk0 : Keeps base s) : KeepsOut base (execBspillnz m va gp off s) := by
  simp [execBspillnz, hk0]

@[simp] theorem execCsrr_keeps {base : State} (m : Bool) (gd : BitVec 9) (csr : Csr) (s : State) (hk0 : Keeps base s) : KeepsOut base (execCsrr m gd csr s) := by
  first | (unfold execCsrr; simp (maxDischargeDepth := 40) [*]; done) | (unfold execCsrr; (try dsimp only); (repeat' first | assumption | split | (with_reducible apply foldl_keeps; intro _ _ _) | (with_reducible apply lan_keeps; · assumption) | (with_reducible apply issue_keeps; · assumption) | (with_reducible apply uni_keeps; · assumption) | (with_reducible apply uniJump_keeps; · assumption) | (with_reducible apply withTiles_keeps; · assumption) | intro _ | dsimp only) <;> first | assumption | (simp (maxDischargeDepth := 40) +contextual [*]; done) | (simp (maxDischargeDepth := 40) +contextual [Keeps, *]; done))

@[simp] theorem execCsrw_keeps {base : State} (m : Bool) (csr : Csr) (ga : BitVec 9) (s : State) (hk0 : Keeps base s) : KeepsOut base (execCsrw m csr ga s) := by
  first | (unfold execCsrw; simp (maxDischargeDepth := 40) [*]; done) | (unfold execCsrw; (try dsimp only); (repeat' first | assumption | split | (with_reducible apply foldl_keeps; intro _ _ _) | (with_reducible apply lan_keeps; · assumption) | (with_reducible apply issue_keeps; · assumption) | (with_reducible apply uni_keeps; · assumption) | (with_reducible apply uniJump_keeps; · assumption) | (with_reducible apply withTiles_keeps; · assumption) | intro _ | dsimp only) <;> first | assumption | (simp (maxDischargeDepth := 40) +contextual [*]; done) | (simp (maxDischargeDepth := 40) +contextual [Keeps, *]; done))

@[simp] theorem execCsrx_keeps {base : State} (m : Bool) (gd : BitVec 9) (csr : Csr) (ga : BitVec 9) (s : State) (hk0 : Keeps base s) : KeepsOut base (execCsrx m gd csr ga s) := by
  first | (unfold execCsrx; simp (maxDischargeDepth := 40) [*]; done) | (unfold execCsrx; (try dsimp only); (repeat' first | assumption | split | (with_reducible apply foldl_keeps; intro _ _ _) | (with_reducible apply lan_keeps; · assumption) | (with_reducible apply issue_keeps; · assumption) | (with_reducible apply uni_keeps; · assumption) | (with_reducible apply uniJump_keeps; · assumption) | (with_reducible apply withTiles_keeps; · assumption) | intro _ | dsimp only) <;> first | assumption | (simp (maxDischargeDepth := 40) +contextual [*]; done) | (simp (maxDischargeDepth := 40) +contextual [Keeps, *]; done))

@[simp] theorem execClkr_keeps {base : State} (m : Bool) (gd : BitVec 9) (s : State) (hk0 : Keeps base s) : KeepsOut base (execClkr m gd s) := by
  unfold execClkr
  (repeat' split) <;> simp_all [Keeps]

@[simp] theorem execQuantumWrite_keeps {base : State} (s : State) (hk0 : Keeps base s) : KeepsOut base (execQuantumWrite s) := by
  unfold execQuantumWrite
  (repeat' split) <;> simp [*]

@[simp] theorem execLeaseWrite_keeps {base : State} (s : State) (hk0 : Keeps base s) : KeepsOut base (execLeaseWrite s) := by
  unfold execLeaseWrite
  (repeat' split) <;> simp [*]

@[simp] theorem execPtimeLoRead_keeps {base : State} (s : State) (hk0 : Keeps base s) : KeepsOut base (execPtimeLoRead s) := by
  unfold execPtimeLoRead
  (repeat' split) <;> simp [*]

@[simp] theorem execGwctLoRead_keeps {base : State} (s : State) (hk0 : Keeps base s) : KeepsOut base (execGwctLoRead s) := by
  unfold execGwctLoRead
  (repeat' split) <;> simp [*]

@[simp] theorem execEvent_keeps {base : State} (m : Bool) (ga : BitVec 9) (n : BitVec 6) (s : State) (hk0 : Keeps base s) : KeepsOut base (execEvent m ga n s) := by
  simp [execEvent, hk0]

@[simp] theorem execLd_keeps {bs : State} (m : Bool) (data : BitVec 8) (off : LaneOffset) (sync : Sync) (hint : Hint) (base : BitVec 9) (size : Size) (ltag : Tag) (imm : BitVec 12) (s : State) (hk0 : Keeps bs s) : KeepsOut bs (execLd m data off sync hint base size ltag imm s) := by
  first | (unfold execLd; simp (maxDischargeDepth := 40) [*]; done) | (unfold execLd; (try dsimp only); (repeat' first | assumption | split | (with_reducible apply foldl_keeps; intro _ _ _) | (with_reducible apply lan_keeps; · assumption) | (with_reducible apply issue_keeps; · assumption) | (with_reducible apply uni_keeps; · assumption) | (with_reducible apply uniJump_keeps; · assumption) | (with_reducible apply withTiles_keeps; · assumption) | intro _ | dsimp only) <;> first | assumption | (simp (maxDischargeDepth := 40) +contextual [*]; done) | (simp (maxDischargeDepth := 40) +contextual [Keeps, *]; done))

@[simp] theorem execLds_keeps {bs : State} (m : Bool) (data : BitVec 8) (off : LaneOffset) (sync : Sync) (base : BitVec 9) (size : Size) (ltag : Tag) (imm : BitVec 12) (s : State) (hk0 : Keeps bs s) : KeepsOut bs (execLds m data off sync base size ltag imm s) := by
  first | (unfold execLds; simp (maxDischargeDepth := 40) [*]; done) | (unfold execLds; (try dsimp only); (repeat' first | assumption | split | (with_reducible apply foldl_keeps; intro _ _ _) | (with_reducible apply lan_keeps; · assumption) | (with_reducible apply issue_keeps; · assumption) | (with_reducible apply uni_keeps; · assumption) | (with_reducible apply uniJump_keeps; · assumption) | (with_reducible apply withTiles_keeps; · assumption) | intro _ | dsimp only) <;> first | assumption | (simp (maxDischargeDepth := 40) +contextual [*]; done) | (simp (maxDischargeDepth := 40) +contextual [Keeps, *]; done))

@[simp] theorem execSt_keeps {bs : State} (m : Bool) (data : BitVec 8) (off : LaneOffset) (sync : Sync) (_hint : Hint) (base : BitVec 9) (size : Size) (imm : BitVec 12) (s : State) (hk0 : Keeps bs s) : KeepsOut bs (execSt m data off sync _hint base size imm s) := by
  first | (unfold execSt; simp (maxDischargeDepth := 40) [*]; done) | (unfold execSt; (try dsimp only); (repeat' first | assumption | split | (with_reducible apply foldl_keeps; intro _ _ _) | (with_reducible apply lan_keeps; · assumption) | (with_reducible apply issue_keeps; · assumption) | (with_reducible apply uni_keeps; · assumption) | (with_reducible apply uniJump_keeps; · assumption) | (with_reducible apply withTiles_keeps; · assumption) | intro _ | dsimp only) <;> first | assumption | (simp (maxDischargeDepth := 40) +contextual [*]; done) | (simp (maxDischargeDepth := 40) +contextual [Keeps, *]; done))

@[simp] theorem execSts_keeps {bs : State} (m : Bool) (data : BitVec 8) (off : LaneOffset) (sync : Sync) (base : BitVec 9) (size : Size) (imm : BitVec 12) (s : State) (hk0 : Keeps bs s) : KeepsOut bs (execSts m data off sync base size imm s) := by
  unfold execSts
  (repeat' split) <;> simp_all [Keeps]

@[simp] theorem execAtom_keeps {bs : State} (m : Bool) (dst : Option (BitVec 8)) (vo vs : BitVec 8) (rmw : Rmw) (scope : Scope) (base : BitVec 9) (imm : BitVec 12) (s : State) (hk0 : Keeps bs s) : KeepsOut bs (execAtom m dst vo vs rmw scope base imm s) := by
  first | (unfold execAtom; simp (maxDischargeDepth := 40) [*]; done) | (unfold execAtom; (try dsimp only); (repeat' first | assumption | split | (with_reducible apply foldl_keeps; intro _ _ _) | (with_reducible apply lan_keeps; · assumption) | (with_reducible apply issue_keeps; · assumption) | (with_reducible apply uni_keeps; · assumption) | (with_reducible apply uniJump_keeps; · assumption) | (with_reducible apply withTiles_keeps; · assumption) | intro _ | dsimp only) <;> first | assumption | (simp (maxDischargeDepth := 40) +contextual [*]; done) | (simp (maxDischargeDepth := 40) +contextual [Keeps, *]; done))

@[simp] theorem execAtoms_keeps {bs : State} (m : Bool) (dst : Option (BitVec 8)) (vo vs : BitVec 8) (rmw : Rmw) (scope : Scope) (base : BitVec 9) (imm : BitVec 12) (s : State) (hk0 : Keeps bs s) : KeepsOut bs (execAtoms m dst vo vs rmw scope base imm s) := by
  first | (unfold execAtoms; simp (maxDischargeDepth := 40) [*]; done) | (unfold execAtoms; (try dsimp only); (repeat' first | assumption | split | (with_reducible apply foldl_keeps; intro _ _ _) | (with_reducible apply lan_keeps; · assumption) | (with_reducible apply issue_keeps; · assumption) | (with_reducible apply uni_keeps; · assumption) | (with_reducible apply uniJump_keeps; · assumption) | (with_reducible apply withTiles_keeps; · assumption) | intro _ | dsimp only) <;> first | assumption | (simp (maxDischargeDepth := 40) +contextual [*]; done) | (simp (maxDischargeDepth := 40) +contextual [Keeps, *]; done))

@[simp] theorem execGld_keeps {base : State} (m : Bool) (gd ga gb disp : BitVec 9) (size : Size) (sync : Sync) (hint : Hint) (s : State) (hk0 : Keeps base s) : KeepsOut base (execGld m gd ga gb disp size sync hint s) := by
  first | (unfold execGld; simp (maxDischargeDepth := 40) [*]; done) | (unfold execGld; (try dsimp only); (repeat' first | assumption | split | (with_reducible apply foldl_keeps; intro _ _ _) | (with_reducible apply lan_keeps; · assumption) | (with_reducible apply issue_keeps; · assumption) | (with_reducible apply uni_keeps; · assumption) | (with_reducible apply uniJump_keeps; · assumption) | (with_reducible apply withTiles_keeps; · assumption) | intro _ | dsimp only) <;> first | assumption | (simp (maxDischargeDepth := 40) +contextual [*]; done) | (simp (maxDischargeDepth := 40) +contextual [Keeps, *]; done))

@[simp] theorem execGst_keeps {base : State} (m : Bool) (gd ga gb disp : BitVec 9) (size : Size) (sync : Sync) (_hint : Hint) (s : State) (hk0 : Keeps base s) : KeepsOut base (execGst m gd ga gb disp size sync _hint s) := by
  first | (unfold execGst; simp (maxDischargeDepth := 40) [*]; done) | (unfold execGst; (try dsimp only); (repeat' first | assumption | split | (with_reducible apply foldl_keeps; intro _ _ _) | (with_reducible apply lan_keeps; · assumption) | (with_reducible apply issue_keeps; · assumption) | (with_reducible apply uni_keeps; · assumption) | (with_reducible apply uniJump_keeps; · assumption) | (with_reducible apply withTiles_keeps; · assumption) | intro _ | dsimp only) <;> first | assumption | (simp (maxDischargeDepth := 40) +contextual [*]; done) | (simp (maxDischargeDepth := 40) +contextual [Keeps, *]; done))

@[simp] theorem execGlds_keeps {base : State} (m : Bool) (gd ga gb disp : BitVec 9) (size : Size) (sync : Sync) (s : State) (hk0 : Keeps base s) : KeepsOut base (execGlds m gd ga gb disp size sync s) := by
  first | (unfold execGlds; simp (maxDischargeDepth := 40) [*]; done) | (unfold execGlds; (try dsimp only); (repeat' first | assumption | split | (with_reducible apply foldl_keeps; intro _ _ _) | (with_reducible apply lan_keeps; · assumption) | (with_reducible apply issue_keeps; · assumption) | (with_reducible apply uni_keeps; · assumption) | (with_reducible apply uniJump_keeps; · assumption) | (with_reducible apply withTiles_keeps; · assumption) | intro _ | dsimp only) <;> first | assumption | (simp (maxDischargeDepth := 40) +contextual [*]; done) | (simp (maxDischargeDepth := 40) +contextual [Keeps, *]; done))

@[simp] theorem execGsts_keeps {base : State} (m : Bool) (gd ga gb disp : BitVec 9) (size : Size) (sync : Sync) (s : State) (hk0 : Keeps base s) : KeepsOut base (execGsts m gd ga gb disp size sync s) := by
  unfold execGsts
  (repeat' split) <;> simp_all [Keeps]

@[simp] theorem execGatom_keeps {base : State} (m : Bool) (gd ga gb gc : BitVec 9) (rmw : Rmw) (scope : Scope) (s : State) (hk0 : Keeps base s) : KeepsOut base (execGatom m gd ga gb gc rmw scope s) := by
  first | (unfold execGatom; simp (maxDischargeDepth := 40) [*]; done) | (unfold execGatom; (try dsimp only); (repeat' first | assumption | split | (with_reducible apply foldl_keeps; intro _ _ _) | (with_reducible apply lan_keeps; · assumption) | (with_reducible apply issue_keeps; · assumption) | (with_reducible apply uni_keeps; · assumption) | (with_reducible apply uniJump_keeps; · assumption) | (with_reducible apply withTiles_keeps; · assumption) | intro _ | dsimp only) <;> first | assumption | (simp (maxDischargeDepth := 40) +contextual [*]; done) | (simp (maxDischargeDepth := 40) +contextual [Keeps, *]; done))

@[simp] theorem execBallotScratchpad_keeps {base : State} (m : Bool) (ge va : BitVec 8) (s : State) (hk0 : Keeps base s) : KeepsOut base (execBallotScratchpad m ge va s) := by
  unfold execBallotScratchpad
  (repeat' split) <;> simp_all [Keeps]

@[simp] theorem execTrx_keeps {base : State} (m : Bool) (vd va vb gc ge : BitVec 8) (s : State) (hk0 : Keeps base s) : KeepsOut base (execTrx m vd va vb gc ge s) := by
  first | (unfold execTrx; simp (maxDischargeDepth := 40) [*]; done) | (unfold execTrx; (try dsimp only); (repeat' first | assumption | split | (with_reducible apply foldl_keeps; intro _ _ _) | (with_reducible apply lan_keeps; · assumption) | (with_reducible apply issue_keeps; · assumption) | (with_reducible apply uni_keeps; · assumption) | (with_reducible apply uniJump_keeps; · assumption) | (with_reducible apply withTiles_keeps; · assumption) | intro _ | dsimp only) <;> first | assumption | (simp (maxDischargeDepth := 40) +contextual [*]; done) | (simp (maxDischargeDepth := 40) +contextual [Keeps, *]; done))

@[simp] theorem execLeaseExpiry_keeps {base : State} (s : State) (hk0 : Keeps base s) : KeepsOut base (execLeaseExpiry s) := by
  unfold execLeaseExpiry
  (repeat' split) <;> simp_all [Keeps]

@[simp] theorem execBarinit_keeps {base : State} (m : Bool) (k : BitVec 4) (ga : BitVec 9) (s : State) (hk0 : Keeps base s) : KeepsOut base (execBarinit m k ga s) := by
  unfold execBarinit
  (repeat' split) <;> simp_all [Keeps]

@[simp] theorem execBararv_keeps {base : State} (m : Bool) (k : BitVec 4) (gb : BitVec 9) (s : State) (hk0 : Keeps base s) : KeepsOut base (execBararv m k gb s) := by
  unfold execBararv
  (repeat' split) <;> simp_all [Keeps]

@[simp] theorem execBarwait_keeps {base : State} (m : Bool) (k : BitVec 4) (s : State) (hk0 : Keeps base s) : KeepsOut base (execBarwait m k s) := by
  unfold execBarwait
  (repeat' split) <;> simp_all [Keeps]

@[simp] theorem execBarsync_keeps {base : State} (m : Bool) (k : BitVec 4) (gb : BitVec 9) (s : State) (hk0 : Keeps base s) : KeepsOut base (execBarsync m k gb s) := by
  first | (unfold execBarsync; simp (maxDischargeDepth := 40) [*]; done) | (unfold execBarsync; (try dsimp only); (repeat' first | assumption | split | (with_reducible apply foldl_keeps; intro _ _ _) | (with_reducible apply lan_keeps; · assumption) | (with_reducible apply issue_keeps; · assumption) | (with_reducible apply uni_keeps; · assumption) | (with_reducible apply uniJump_keeps; · assumption) | (with_reducible apply withTiles_keeps; · assumption) | intro _ | dsimp only) <;> first | assumption | (simp (maxDischargeDepth := 40) +contextual [*]; done) | (simp (maxDischargeDepth := 40) +contextual [Keeps, *]; done))

@[simp] theorem execBarrierWaitEnd_keeps {base : State} (s : State) (hk0 : Keeps base s) : KeepsOut base (execBarrierWaitEnd s) := by
  unfold execBarrierWaitEnd
  (repeat' split) <;> simp [*]

@[simp] theorem execGsync_keeps {base : State} (m : Bool) (gb : BitVec 9) (s : State) (hk0 : Keeps base s) : KeepsOut base (execGsync m gb s) := by
  first | (unfold execGsync; simp (maxDischargeDepth := 40) [*]; done) | (unfold execGsync; (try dsimp only); (repeat' first | assumption | split | (with_reducible apply foldl_keeps; intro _ _ _) | (with_reducible apply lan_keeps; · assumption) | (with_reducible apply issue_keeps; · assumption) | (with_reducible apply uni_keeps; · assumption) | (with_reducible apply uniJump_keeps; · assumption) | (with_reducible apply withTiles_keeps; · assumption) | intro _ | dsimp only) <;> first | assumption | (simp (maxDischargeDepth := 40) +contextual [*]; done) | (simp (maxDischargeDepth := 40) +contextual [Keeps, *]; done))

@[simp] theorem execFence_keeps {base : State} (m : Bool) (kind : FenceKind) (scope : Scope) (s : State) (hk0 : Keeps base s) : KeepsOut base (execFence m kind scope s) := by
  unfold execFence
  (repeat' split) <;> simp_all [Keeps]

@[simp] theorem execFenceComplete_keeps {base : State} (s : State) (hk0 : Keeps base s) : KeepsOut base (execFenceComplete s) := by
  unfold execFenceComplete
  (repeat' split) <;> simp [*]

@[simp] theorem execMrdy_keeps {base : State} (m : Bool) (s : State) (hk0 : Keeps base s) : KeepsOut base (execMrdy m s) := by
  unfold execMrdy
  (repeat' split) <;> simp_all [Keeps]

@[simp] theorem execMrdyComplete_keeps {base : State} (s : State) (hk0 : Keeps base s) : KeepsOut base (execMrdyComplete s) := by
  unfold execMrdyComplete
  (repeat' split) <;> simp [*]

@[simp] theorem execWaitc_keeps {base : State} (m : Bool) (gd ga gb gc : BitVec 9) (cond : Cond) (n32 : Bool) (scope : Scope) (s : State) (hk0 : Keeps base s) : KeepsOut base (execWaitc m gd ga gb gc cond n32 scope s) := by
  first | (unfold execWaitc; simp (maxDischargeDepth := 40) [*]; done) | (unfold execWaitc; (try dsimp only); (repeat' first | assumption | split | (with_reducible apply foldl_keeps; intro _ _ _) | (with_reducible apply lan_keeps; · assumption) | (with_reducible apply issue_keeps; · assumption) | (with_reducible apply uni_keeps; · assumption) | (with_reducible apply uniJump_keeps; · assumption) | (with_reducible apply withTiles_keeps; · assumption) | intro _ | dsimp only) <;> first | assumption | (simp (maxDischargeDepth := 40) +contextual [*]; done) | (simp (maxDischargeDepth := 40) +contextual [Keeps, *]; done))

@[simp] theorem execMonitorWake_keeps {base : State} (s : State) (hk0 : Keeps base s) : KeepsOut base (execMonitorWake s) := by
  unfold execMonitorWake
  (repeat' split) <;> simp [*]

@[simp] theorem execWaitcTimeout_keeps {base : State} (s : State) (hk0 : Keeps base s) : KeepsOut base (execWaitcTimeout s) := by
  unfold execWaitcTimeout
  (repeat' split) <;> simp [*]

@[simp] theorem execWaitcPoll_keeps {base : State} (s : State) (hk0 : Keeps base s) : KeepsOut base (execWaitcPoll s) := by
  unfold execWaitcPoll
  (repeat' split) <;> simp [*]

@[simp] theorem execHwait_keeps {base : State} (m : Bool) (gd : BitVec 9) (k : BitVec 4) (s : State) (hk0 : Keeps base s) : KeepsOut base (execHwait m gd k s) := by
  first | (unfold execHwait; simp (maxDischargeDepth := 40) [*]; done) | (unfold execHwait; (try dsimp only); (repeat' first | assumption | split | (with_reducible apply foldl_keeps; intro _ _ _) | (with_reducible apply lan_keeps; · assumption) | (with_reducible apply issue_keeps; · assumption) | (with_reducible apply uni_keeps; · assumption) | (with_reducible apply uniJump_keeps; · assumption) | (with_reducible apply withTiles_keeps; · assumption) | intro _ | dsimp only) <;> first | assumption | (simp (maxDischargeDepth := 40) +contextual [*]; done) | (simp (maxDischargeDepth := 40) +contextual [Keeps, *]; done))

@[simp] theorem execHtest_keeps {base : State} (m : Bool) (gd : BitVec 9) (k : BitVec 4) (s : State) (hk0 : Keeps base s) : KeepsOut base (execHtest m gd k s) := by
  first | (unfold execHtest; simp (maxDischargeDepth := 40) [*]; done) | (unfold execHtest; (try dsimp only); (repeat' first | assumption | split | (with_reducible apply foldl_keeps; intro _ _ _) | (with_reducible apply lan_keeps; · assumption) | (with_reducible apply issue_keeps; · assumption) | (with_reducible apply uni_keeps; · assumption) | (with_reducible apply uniJump_keeps; · assumption) | (with_reducible apply withTiles_keeps; · assumption) | intro _ | dsimp only) <;> first | assumption | (simp (maxDischargeDepth := 40) +contextual [*]; done) | (simp (maxDischargeDepth := 40) +contextual [Keeps, *]; done))

@[simp] theorem execHcancel_keeps {base : State} (m : Bool) (k : BitVec 4) (s : State) (hk0 : Keeps base s) : KeepsOut base (execHcancel m k s) := by
  unfold execHcancel
  (repeat' split) <;> simp_all [Keeps]

@[simp] theorem execHmov_keeps {base : State} (m : Bool) (gd : BitVec 9) (k : BitVec 4) (s : State) (hk0 : Keeps base s) : KeepsOut base (execHmov m gd k s) := by
  unfold execHmov
  (repeat' split) <;> simp_all [Keeps]

@[simp] theorem execHadopt_keeps {base : State} (m : Bool) (k : BitVec 4) (ga : BitVec 9) (s : State) (hk0 : Keeps base s) : KeepsOut base (execHadopt m k ga s) := by
  unfold execHadopt
  (repeat' split) <;> simp_all [Keeps]

@[simp] theorem execHandleWaitEnd_keeps {base : State} (s : State) (hk0 : Keeps base s) : KeepsOut base (execHandleWaitEnd s) := by
  unfold execHandleWaitEnd
  (repeat' split) <;> simp [*]

@[simp] theorem execAcset_keeps {base : State} (m : Bool) (k : BitVec 4) (ga : BitVec 9) (clr : Bool) (s : State) (hk0 : Keeps base s) : KeepsOut base (execAcset m k ga clr s) := by
  unfold execAcset
  (repeat' split) <;> simp_all [Keeps]

@[simp] theorem execAwait_keeps {base : State} (m : Bool) (k : BitVec 4) (s : State) (hk0 : Keeps base s) : KeepsOut base (execAwait m k s) := by
  first | (unfold execAwait; simp (maxDischargeDepth := 40) [*]; done) | (unfold execAwait; (try dsimp only); (repeat' first | assumption | split | (with_reducible apply foldl_keeps; intro _ _ _) | (with_reducible apply lan_keeps; · assumption) | (with_reducible apply issue_keeps; · assumption) | (with_reducible apply uni_keeps; · assumption) | (with_reducible apply uniJump_keeps; · assumption) | (with_reducible apply withTiles_keeps; · assumption) | intro _ | dsimp only) <;> first | assumption | (simp (maxDischargeDepth := 40) +contextual [*]; done) | (simp (maxDischargeDepth := 40) +contextual [Keeps, *]; done))

@[simp] theorem execAwaitComplete_keeps {base : State} (s : State) (hk0 : Keeps base s) : KeepsOut base (execAwaitComplete s) := by
  unfold execAwaitComplete
  (repeat' split) <;> simp [*]

@[simp] theorem execRdv_keeps {base : State} (m : Bool) (s : State) (hk0 : Keeps base s) : KeepsOut base (execRdv m s) := by
  first | (unfold execRdv; simp (maxDischargeDepth := 40) [*]; done) | (unfold execRdv; (try dsimp only); (repeat' first | assumption | split | (with_reducible apply foldl_keeps; intro _ _ _) | (with_reducible apply lan_keeps; · assumption) | (with_reducible apply issue_keeps; · assumption) | (with_reducible apply uni_keeps; · assumption) | (with_reducible apply uniJump_keeps; · assumption) | (with_reducible apply withTiles_keeps; · assumption) | intro _ | dsimp only) <;> first | assumption | (simp (maxDischargeDepth := 40) +contextual [*]; done) | (simp (maxDischargeDepth := 40) +contextual [Keeps, *]; done))

@[simp] theorem execRdvComplete_keeps {base : State} (s : State) (hk0 : Keeps base s) : KeepsOut base (execRdvComplete s) := by
  first | (unfold execRdvComplete; simp (maxDischargeDepth := 40) [*]; done) | (unfold execRdvComplete; (try dsimp only); (repeat' first | assumption | split | (with_reducible apply foldl_keeps; intro _ _ _) | (with_reducible apply lan_keeps; · assumption) | (with_reducible apply issue_keeps; · assumption) | (with_reducible apply uni_keeps; · assumption) | (with_reducible apply uniJump_keeps; · assumption) | (with_reducible apply withTiles_keeps; · assumption) | intro _ | dsimp only) <;> first | assumption | (simp (maxDischargeDepth := 40) +contextual [*]; done) | (simp (maxDischargeDepth := 40) +contextual [Keeps, *]; done))

@[simp] theorem execParkComplete_keeps {base : State} (s : State) (hk0 : Keeps base s) : KeepsOut base (execParkComplete s) := by
  unfold execParkComplete
  (repeat' split) <;> simp [*]

@[simp] theorem execSequencerFaultDelivery_keeps {base : State} (s : State) (hk0 : Keeps base s) : KeepsOut base (execSequencerFaultDelivery s) := by
  unfold execSequencerFaultDelivery
  (repeat' split) <;> simp [*]

@[simp] theorem execRgbegin_keeps {base : State} (m : Bool) (gd ga : BitVec 9) (s : State) (hk0 : Keeps base s) : KeepsOut base (execRgbegin m gd ga s) := by
  unfold execRgbegin
  try dsimp only
  (repeat' first | assumption | split | (with_reducible apply foldl_keeps; intro _ _ _) | (with_reducible apply keeps_elim) | (with_reducible apply uniJump_keeps) | (with_reducible apply State.codeWant_keeps) | (with_reducible apply State.pathWait_keeps) | (with_reducible apply State.settleCur_keeps) | (with_reducible apply State.onGroup_keeps) | (with_reducible apply State.writeU_keeps) | (with_reducible apply State.finish_keeps) | (with_reducible apply State.waitAt_keeps) | (with_reducible apply State.drain_keeps) | intro _ | dsimp only) <;> first | assumption | (simp (maxDischargeDepth := 40) +contextual [*]; done) | (simp (maxDischargeDepth := 40) +contextual [Keeps, *]; done)

@[simp] theorem execRegionSlotFreeResume_keeps {base : State} (s : State) (hk0 : Keeps base s) : KeepsOut base (execRegionSlotFreeResume s) := by
  unfold execRegionSlotFreeResume
  (repeat' split) <;> simp [*]

@[simp] theorem execRgend_keeps {base : State} (m : Bool) (s : State) (hk0 : Keeps base s) : KeepsOut base (execRgend m s) := by
  first | (unfold execRgend; simp (maxDischargeDepth := 40) [*]; done) | (unfold execRgend; (try dsimp only); (repeat' first | assumption | split | (with_reducible apply foldl_keeps; intro _ _ _) | (with_reducible apply lan_keeps; · assumption) | (with_reducible apply issue_keeps; · assumption) | (with_reducible apply uni_keeps; · assumption) | (with_reducible apply uniJump_keeps; · assumption) | (with_reducible apply withTiles_keeps; · assumption) | intro _ | dsimp only) <;> first | assumption | (simp (maxDischargeDepth := 40) +contextual [*]; done) | (simp (maxDischargeDepth := 40) +contextual [Keeps, *]; done))

@[simp] theorem execRgabort_keeps {base : State} (m : Bool) (ga : BitVec 9) (s : State) (hk0 : Keeps base s) : KeepsOut base (execRgabort m ga s) := by
  first | (unfold execRgabort; simp (maxDischargeDepth := 40) [*]; done) | (unfold execRgabort; (try dsimp only); (repeat' first | assumption | split | (with_reducible apply foldl_keeps; intro _ _ _) | (with_reducible apply lan_keeps; · assumption) | (with_reducible apply issue_keeps; · assumption) | (with_reducible apply uni_keeps; · assumption) | (with_reducible apply uniJump_keeps; · assumption) | (with_reducible apply withTiles_keeps; · assumption) | intro _ | dsimp only) <;> first | assumption | (simp (maxDischargeDepth := 40) +contextual [*]; done) | (simp (maxDischargeDepth := 40) +contextual [Keeps, *]; done))

@[simp] theorem execRgstat_keeps {base : State} (m : Bool) (gd : BitVec 9) (s : State) (hk0 : Keeps base s) : KeepsOut base (execRgstat m gd s) := by
  unfold execRgstat
  (repeat' split) <;> simp_all [Keeps]

@[simp] theorem execRegionAbortTake_keeps {base : State} (s : State) (hk0 : Keeps base s) : KeepsOut base (execRegionAbortTake s) := by
  unfold execRegionAbortTake
  (repeat' split) <;> simp [*]

@[simp] theorem execTdef_keeps {base : State} (m : Bool) (tile : BitVec 8) (ga gc : BitVec 9) (tag : Tag) (s : State) (hk0 : Keeps base s) : KeepsOut base (execTdef m tile ga gc tag s) := by
  unfold execTdef
  (repeat' split) <;> simp_all [Keeps]

@[simp] theorem execTstat_keeps {base : State} (m : Bool) (gd : BitVec 9) (spec : TileSpec) (s : State) (hk0 : Keeps base s) : KeepsOut base (execTstat m gd spec s) := by
  unfold execTstat
  try dsimp only
  (repeat' first | assumption | split | (with_reducible apply foldl_keeps; intro _ _ _) | (with_reducible apply keeps_elim) | (with_reducible apply uniTile_keeps) | (with_reducible apply State.raise_keeps) | (with_reducible apply State.waitAt_keeps) | (with_reducible apply State.popTile_keeps) | (with_reducible apply State.writePair_keeps) | (with_reducible apply State.finish_keeps) | intro _ | dsimp only) <;> first | assumption | (simp (maxDischargeDepth := 40) +contextual [*]; done) | (simp (maxDischargeDepth := 40) +contextual [Keeps, *]; done)

@[simp] theorem execSbind_keeps {base : State} (m : Bool) (k : BitVec 3) (first : BitVec 8) (count : BitVec 9) (s : State) (hk0 : Keeps base s) : KeepsOut base (execSbind m k first count s) := by
  first | (unfold execSbind; simp (maxDischargeDepth := 40) [*]; done) | (unfold execSbind; (try dsimp only); (repeat' first | assumption | split | (with_reducible apply foldl_keeps; intro _ _ _) | (with_reducible apply lan_keeps; · assumption) | (with_reducible apply issue_keeps; · assumption) | (with_reducible apply uni_keeps; · assumption) | (with_reducible apply uniJump_keeps; · assumption) | (with_reducible apply withTiles_keeps; · assumption) | intro _ | dsimp only) <;> first | assumption | (simp (maxDischargeDepth := 40) +contextual [*]; done) | (simp (maxDischargeDepth := 40) +contextual [Keeps, *]; done))

@[simp] theorem execLayout_keeps {base : State} (m : Bool) (n : BitVec 3) (ga : BitVec 9) (s : State) (hk0 : Keeps base s) : KeepsOut base (execLayout m n ga s) := by
  unfold execLayout
  (repeat' split) <;> simp_all [Keeps]

@[simp] theorem execCpy_keeps {base : State} (m : Bool) (k : BitVec 4) (ga gb : BitVec 9) (s : State) (hk0 : Keeps base s) : KeepsOut base (execCpy m k ga gb s) := by
  simp [execCpy, hk0]

@[simp] theorem execMcast_keeps {base : State} (m : Bool) (k : BitVec 4) (ga gb : BitVec 9) (s : State) (hk0 : Keeps base s) : KeepsOut base (execMcast m k ga gb s) := by
  simp [execMcast, hk0]

@[simp] theorem execCpyc_keeps {base : State} (m : Bool) (gd ga gb : BitVec 9) (s : State) (hk0 : Keeps base s) : KeepsOut base (execCpyc m gd ga gb s) := by
  first | (unfold execCpyc; simp (maxDischargeDepth := 40) [*]; done) | (unfold execCpyc; (try dsimp only); (repeat' first | assumption | split | (with_reducible apply foldl_keeps; intro _ _ _) | (with_reducible apply lan_keeps; · assumption) | (with_reducible apply issue_keeps; · assumption) | (with_reducible apply uni_keeps; · assumption) | (with_reducible apply uniJump_keeps; · assumption) | (with_reducible apply withTiles_keeps; · assumption) | intro _ | dsimp only) <;> first | assumption | (simp (maxDischargeDepth := 40) +contextual [*]; done) | (simp (maxDischargeDepth := 40) +contextual [Keeps, *]; done))

@[simp] theorem execCopyComplete_keeps {base : State} (s : State) (hk0 : Keeps base s) : KeepsOut base (execCopyComplete s) := by
  unfold execCopyComplete
  (repeat' split) <;> simp [*]

@[simp] theorem execTrel_keeps {base : State} (m : Bool) (tile : BitVec 8) (s : State) (hk0 : Keeps base s) : KeepsOut base (execTrel m tile s) := by
  unfold execTrel
  try dsimp only
  (repeat' first | assumption | split | (with_reducible apply foldl_keeps; intro _ _ _) | (with_reducible apply keeps_elim) | (with_reducible apply uniTile_keeps) | (with_reducible apply State.waitAt_keeps) | (with_reducible apply State.nameTile_keeps) | (with_reducible apply State.drain_keeps) | (with_reducible apply State.onTile_keeps) | (with_reducible apply State.finish_keeps) | (with_reducible apply State.onOp_keeps) | intro _ | dsimp only) <;> first | assumption | (simp (maxDischargeDepth := 40) +contextual [*]; done) | (simp (maxDischargeDepth := 40) +contextual [Keeps, *]; done)

@[simp] theorem execTileWaitEnd_keeps {base : State} (s : State) (hk0 : Keeps base s) : KeepsOut base (execTileWaitEnd s) := by
  unfold execTileWaitEnd
  (repeat' split) <;> simp [*]

@[simp] theorem execCancelBoundary_keeps {base : State} (s : State) (hk0 : Keeps base s) : KeepsOut base (execCancelBoundary s) := by
  first | (unfold execCancelBoundary; simp (maxDischargeDepth := 40) [*]; done) | (unfold execCancelBoundary; (try dsimp only); (repeat' first | assumption | split | (with_reducible apply foldl_keeps; intro _ _ _) | (with_reducible apply lan_keeps; · assumption) | (with_reducible apply issue_keeps; · assumption) | (with_reducible apply uni_keeps; · assumption) | (with_reducible apply uniJump_keeps; · assumption) | (with_reducible apply withTiles_keeps; · assumption) | intro _ | dsimp only) <;> first | assumption | (simp (maxDischargeDepth := 40) +contextual [*]; done) | (simp (maxDischargeDepth := 40) +contextual [Keeps, *]; done))

@[simp] theorem execMzero_keeps {base : State} (m : Bool) (t : BitVec 2) (s : State) (hk0 : Keeps base s) : KeepsOut base (execMzero m t s) := by
  first | (unfold execMzero; simp (maxDischargeDepth := 40) [*]; done) | (unfold execMzero; (try dsimp only); (repeat' first | assumption | split | (with_reducible apply foldl_keeps; intro _ _ _) | (with_reducible apply lan_keeps; · assumption) | (with_reducible apply issue_keeps; · assumption) | (with_reducible apply uni_keeps; · assumption) | (with_reducible apply uniJump_keeps; · assumption) | (with_reducible apply withTiles_keeps; · assumption) | intro _ | dsimp only) <;> first | assumption | (simp (maxDischargeDepth := 40) +contextual [*]; done) | (simp (maxDischargeDepth := 40) +contextual [Keeps, *]; done))

@[simp] theorem execMma_keeps {base : State} (m : Bool) (t : BitVec 2) (ga : BitVec 9) (a b : TileSpec) (s : State) (hk0 : Keeps base s) : KeepsOut base (execMma m t ga a b s) := by
  simp [execMma, hk0]

@[simp] theorem execMmag_keeps {base : State} (m : Bool) (t : BitVec 2) (gd ga : BitVec 9) (a b : TileSpec) (s : State) (hk0 : Keeps base s) : KeepsOut base (execMmag m t gd ga a b s) := by
  simp [execMmag, hk0]

@[simp] theorem execMmasp_keeps {base : State} (m : Bool) (t : BitVec 2) (ga : BitVec 9) (a b : TileSpec) (s : State) (hk0 : Keeps base s) : KeepsOut base (execMmasp m t ga a b s) := by
  simp [execMmasp, hk0]

@[simp] theorem execMsoft_keeps {base : State} (m : Bool) (t : BitVec 2) (gd ga : BitVec 9) (o : BitVec 8) (s : State) (hk0 : Keeps base s) : KeepsOut base (execMsoft m t gd ga o s) := by
  first | (unfold execMsoft; simp (maxDischargeDepth := 40) [*]; done) | (unfold execMsoft; (try dsimp only); (repeat' first | assumption | split | (with_reducible apply foldl_keeps; intro _ _ _) | (with_reducible apply lan_keeps; · assumption) | (with_reducible apply issue_keeps; · assumption) | (with_reducible apply uni_keeps; · assumption) | (with_reducible apply uniJump_keeps; · assumption) | (with_reducible apply withTiles_keeps; · assumption) | intro _ | dsimp only) <;> first | assumption | (simp (maxDischargeDepth := 40) +contextual [*]; done) | (simp (maxDischargeDepth := 40) +contextual [Keeps, *]; done))

@[simp] theorem execMscale_keeps {base : State} (m : Bool) (t : BitVec 2) (ga : BitVec 9) (stride : BitVec 4) (s : State) (hk0 : Keeps base s) : KeepsOut base (execMscale m t ga stride s) := by
  unfold execMscale
  (repeat' split) <;> simp_all [Keeps]

@[simp] theorem execMdrain_keeps {base : State} (m : Bool) (t : BitVec 2) (sat : Bool) (gd ga : BitVec 9) (o : BitVec 8) (tag : Tag) (s : State) (hk0 : Keeps base s) : KeepsOut base (execMdrain m t sat gd ga o tag s) := by
  first | (unfold execMdrain; simp (maxDischargeDepth := 40) [*]; done) | (unfold execMdrain; (try dsimp only); (repeat' first | assumption | split | (with_reducible apply foldl_keeps; intro _ _ _) | (with_reducible apply lan_keeps; · assumption) | (with_reducible apply issue_keeps; · assumption) | (with_reducible apply uni_keeps; · assumption) | (with_reducible apply uniJump_keeps; · assumption) | (with_reducible apply withTiles_keeps; · assumption) | intro _ | dsimp only) <;> first | assumption | (simp (maxDischargeDepth := 40) +contextual [*]; done) | (simp (maxDischargeDepth := 40) +contextual [Keeps, *]; done))

@[simp] theorem execMwait_keeps {base : State} (m one : Bool) (t : BitVec 2) (s : State) (hk0 : Keeps base s) : KeepsOut base (execMwait m one t s) := by
  first | (unfold execMwait; simp (maxDischargeDepth := 40) [*]; done) | (unfold execMwait; (try dsimp only); (repeat' first | assumption | split | (with_reducible apply foldl_keeps; intro _ _ _) | (with_reducible apply lan_keeps; · assumption) | (with_reducible apply issue_keeps; · assumption) | (with_reducible apply uni_keeps; · assumption) | (with_reducible apply uniJump_keeps; · assumption) | (with_reducible apply withTiles_keeps; · assumption) | intro _ | dsimp only) <;> first | assumption | (simp (maxDischargeDepth := 40) +contextual [*]; done) | (simp (maxDischargeDepth := 40) +contextual [Keeps, *]; done))

@[simp] theorem execMldt_keeps {base : State} (m : Bool) (t : BitVec 2) (a : TileSpec) (s : State) (hk0 : Keeps base s) : KeepsOut base (execMldt m t a s) := by
  first | (unfold execMldt; simp (maxDischargeDepth := 40) [*]; done) | (unfold execMldt; (try dsimp only); (repeat' first | assumption | split | (with_reducible apply foldl_keeps; intro _ _ _) | (with_reducible apply lan_keeps; · assumption) | (with_reducible apply issue_keeps; · assumption) | (with_reducible apply uni_keeps; · assumption) | (with_reducible apply uniJump_keeps; · assumption) | (with_reducible apply withTiles_keeps; · assumption) | intro _ | dsimp only) <;> first | assumption | (simp (maxDischargeDepth := 40) +contextual [*]; done) | (simp (maxDischargeDepth := 40) +contextual [Keeps, *]; done))

@[simp] theorem execMcmerge_keeps {base : State} (m : Bool) (t : BitVec 2) (ga : BitVec 9) (cores : BitVec 4) (s : State) (hk0 : Keeps base s) : KeepsOut base (execMcmerge m t ga cores s) := by
  unfold execMcmerge
  (repeat' split) <;> simp_all [Keeps]

@[simp] theorem execMatrixCommandComplete_keeps {base : State} (s : State) (hk0 : Keeps base s) : KeepsOut base (execMatrixCommandComplete s) := by
  unfold execMatrixCommandComplete
  (repeat' split) <;> simp [*]

@[simp] theorem execWnscan_keeps {base : State} (m : Bool) (k : BitVec 4) (ga : BitVec 9) (s : State) (hk0 : Keeps base s) : KeepsOut base (execWnscan m k ga s) := by
  simp [execWnscan, hk0]

@[simp] theorem execWntopk_keeps {base : State} (m : Bool) (k : BitVec 4) (ga : BitVec 9) (s : State) (hk0 : Keeps base s) : KeepsOut base (execWntopk m k ga s) := by
  simp [execWntopk, hk0]

@[simp] theorem execThresherResult_keeps {base : State} (s : State) (hk0 : Keeps base s) : KeepsOut base (execThresherResult s) := by
  unfold execThresherResult
  (repeat' split) <;> simp [*]

@[simp] theorem execNbx_keeps {base : State} (m : Bool) (k : BitVec 4) (ga : BitVec 9) (s : State) (hk0 : Keeps base s) : KeepsOut base (execNbx m k ga s) := by
  simp [execNbx, hk0]

@[simp] theorem execNbxContextStart_keeps {base : State} (s : State) (hk0 : Keeps base s) : KeepsOut base (execNbxContextStart s) := by
  unfold execNbxContextStart
  (repeat' split) <;> simp [*]

@[simp] theorem execKvseal_keeps {base : State} (m : Bool) (k : BitVec 4) (ga : BitVec 9) (s : State) (hk0 : Keeps base s) : KeepsOut base (execKvseal m k ga s) := by
  simp [execKvseal, hk0]

@[simp] theorem execKvsealComplete_keeps {base : State} (s : State) (hk0 : Keeps base s) : KeepsOut base (execKvsealComplete s) := by
  first | (unfold execKvsealComplete; simp (maxDischargeDepth := 40) [*]; done) | (unfold execKvsealComplete; (try dsimp only); (repeat' first | assumption | split | (with_reducible apply foldl_keeps; intro _ _ _) | (with_reducible apply lan_keeps; · assumption) | (with_reducible apply issue_keeps; · assumption) | (with_reducible apply uni_keeps; · assumption) | (with_reducible apply uniJump_keeps; · assumption) | (with_reducible apply withTiles_keeps; · assumption) | intro _ | dsimp only) <;> first | assumption | (simp (maxDischargeDepth := 40) +contextual [*]; done) | (simp (maxDischargeDepth := 40) +contextual [Keeps, *]; done))

@[simp] theorem execRed_keeps {base : State} (m : Bool) (k : BitVec 4) (ga : BitVec 9) (s : State) (hk0 : Keeps base s) : KeepsOut base (execRed m k ga s) := by
  simp [execRed, hk0]

@[simp] theorem execRedComplete_keeps {base : State} (s : State) (hk0 : Keeps base s) : KeepsOut base (execRedComplete s) := by
  first | (unfold execRedComplete; simp (maxDischargeDepth := 40) [*]; done) | (unfold execRedComplete; (try dsimp only); (repeat' first | assumption | split | (with_reducible apply foldl_keeps; intro _ _ _) | (with_reducible apply lan_keeps; · assumption) | (with_reducible apply issue_keeps; · assumption) | (with_reducible apply uni_keeps; · assumption) | (with_reducible apply uniJump_keeps; · assumption) | (with_reducible apply withTiles_keeps; · assumption) | intro _ | dsimp only) <;> first | assumption | (simp (maxDischargeDepth := 40) +contextual [*]; done) | (simp (maxDischargeDepth := 40) +contextual [Keeps, *]; done))

@[simp] theorem execOinvComplete_keeps {base : State} (s : State) (hk0 : Keeps base s) : KeepsOut base (execOinvComplete s) := by
  unfold execOinvComplete
  (repeat' split) <;> simp [*]

@[simp] theorem execPinGraceExpiry_keeps {base : State} (s : State) (hk0 : Keeps base s) : KeepsOut base (execPinGraceExpiry s) := by
  first | (unfold execPinGraceExpiry; simp (maxDischargeDepth := 40) [*]; done) | (unfold execPinGraceExpiry; (try dsimp only); (repeat' first | assumption | split | (with_reducible apply foldl_keeps; intro _ _ _) | (with_reducible apply lan_keeps; · assumption) | (with_reducible apply issue_keeps; · assumption) | (with_reducible apply uni_keeps; · assumption) | (with_reducible apply uniJump_keeps; · assumption) | (with_reducible apply withTiles_keeps; · assumption) | intro _ | dsimp only) <;> first | assumption | (simp (maxDischargeDepth := 40) +contextual [*]; done) | (simp (maxDischargeDepth := 40) +contextual [Keeps, *]; done))

@[simp] theorem execMigrationPassEnd_keeps {base : State} (s : State) (hk0 : Keeps base s) : KeepsOut base (execMigrationPassEnd s) := by
  first | (unfold execMigrationPassEnd; simp (maxDischargeDepth := 40) [*]; done) | (unfold execMigrationPassEnd; (try dsimp only); (repeat' first | assumption | split | (with_reducible apply foldl_keeps; intro _ _ _) | (with_reducible apply lan_keeps; · assumption) | (with_reducible apply issue_keeps; · assumption) | (with_reducible apply uni_keeps; · assumption) | (with_reducible apply uniJump_keeps; · assumption) | (with_reducible apply withTiles_keeps; · assumption) | intro _ | dsimp only) <;> first | assumption | (simp (maxDischargeDepth := 40) +contextual [*]; done) | (simp (maxDischargeDepth := 40) +contextual [Keeps, *]; done))

@[simp] theorem execCutOverDrained_keeps {base : State} (s : State) (hk0 : Keeps base s) : KeepsOut base (execCutOverDrained s) := by
  unfold execCutOverDrained
  (repeat' split) <;> simp_all [Keeps]

@[simp] theorem execAffinityHalving_keeps {base : State} (s : State) (hk0 : Keeps base s) : KeepsOut base (execAffinityHalving s) := by
  unfold execAffinityHalving
  (repeat' split) <;> simp_all [Keeps]

@[simp] theorem execGleanerVisit_keeps {base : State} (s : State) (hk0 : Keeps base s) : KeepsOut base (execGleanerVisit s) := by
  unfold execGleanerVisit
  (repeat' split) <;> simp_all [Keeps]

@[simp] theorem execOalloc_keeps {base : State} (m : Bool) (gd ga gb : BitVec 9) (s : State) (hk0 : Keeps base s) : KeepsOut base (execOalloc m gd ga gb s) := by
  simp [execOalloc, hk0]

@[simp] theorem execOfree_keeps {base : State} (m : Bool) (gd ga : BitVec 9) (s : State) (hk0 : Keeps base s) : KeepsOut base (execOfree m gd ga s) := by
  simp [execOfree, hk0]

@[simp] theorem execOpin_keeps {base : State} (m : Bool) (gd ga : BitVec 9) (s : State) (hk0 : Keeps base s) : KeepsOut base (execOpin m gd ga s) := by
  simp [execOpin, hk0]

@[simp] theorem execOunpin_keeps {base : State} (m : Bool) (gd ga : BitVec 9) (s : State) (hk0 : Keeps base s) : KeepsOut base (execOunpin m gd ga s) := by
  simp [execOunpin, hk0]

@[simp] theorem execOgroup_keeps {base : State} (m : Bool) (gd ga gb : BitVec 9) (s : State) (hk0 : Keeps base s) : KeepsOut base (execOgroup m gd ga gb s) := by
  simp [execOgroup, hk0]

@[simp] theorem execOloc_keeps {base : State} (m : Bool) (gd ga : BitVec 9) (s : State) (hk0 : Keeps base s) : KeepsOut base (execOloc m gd ga s) := by
  simp [execOloc, hk0]

@[simp] theorem execOsplit_keeps {base : State} (m : Bool) (gd ga gb : BitVec 9) (s : State) (hk0 : Keeps base s) : KeepsOut base (execOsplit m gd ga gb s) := by
  simp [execOsplit, hk0]

@[simp] theorem execOattr_keeps {base : State} (m : Bool) (gd ga gb : BitVec 9) (s : State) (hk0 : Keeps base s) : KeepsOut base (execOattr m gd ga gb s) := by
  simp [execOattr, hk0]

@[simp] theorem execOmove_keeps {base : State} (m : Bool) (k : BitVec 4) (ga gb : BitVec 9) (s : State) (hk0 : Keeps base s) : KeepsOut base (execOmove m k ga gb s) := by
  unfold execOmove
  (repeat' split) <;> simp_all [Keeps]

@[simp] theorem execOinv_keeps {base : State} (m : Bool) (k : BitVec 4) (ga : BitVec 9) (s : State) (hk0 : Keeps base s) : KeepsOut base (execOinv m k ga s) := by
  first | (unfold execOinv; simp (maxDischargeDepth := 40) [*]; done) | (unfold execOinv; (try dsimp only); (repeat' first | assumption | split | (with_reducible apply foldl_keeps; intro _ _ _) | (with_reducible apply lan_keeps; · assumption) | (with_reducible apply issue_keeps; · assumption) | (with_reducible apply uni_keeps; · assumption) | (with_reducible apply uniJump_keeps; · assumption) | (with_reducible apply withTiles_keeps; · assumption) | intro _ | dsimp only) <;> first | assumption | (simp (maxDischargeDepth := 40) +contextual [*]; done) | (simp (maxDischargeDepth := 40) +contextual [Keeps, *]; done))

@[simp] theorem execReadPacket_keeps {base : State} (s : State) (hk0 : Keeps base s) : KeepsOut base (execReadPacket s) := by
  unfold execReadPacket
  (repeat' split) <;> simp_all [Keeps]

@[simp] theorem execWritePacket_keeps {base : State} (s : State) (hk0 : Keeps base s) : KeepsOut base (execWritePacket s) := by
  unfold execWritePacket
  (repeat' split) <;> simp_all [Keeps]

@[simp] theorem execAtomicPacket_keeps {base : State} (s : State) (hk0 : Keeps base s) : KeepsOut base (execAtomicPacket s) := by
  unfold execAtomicPacket
  (repeat' split) <;> simp_all [Keeps]

@[simp] theorem execFetchPacket_keeps {base : State} (s : State) (hk0 : Keeps base s) : KeepsOut base (execFetchPacket s) := by
  unfold execFetchPacket
  (repeat' split) <;> simp_all [Keeps]

@[simp] theorem execObjectPacket_keeps {base : State} (s : State) (hk0 : Keeps base s) : KeepsOut base (execObjectPacket s) := by
  unfold execObjectPacket
  (repeat' split) <;> simp_all [Keeps]

@[simp] theorem execResponsePacket_keeps {base : State} (s : State) (hk0 : Keeps base s) : KeepsOut base (execResponsePacket s) := by
  unfold execResponsePacket
  (repeat' split) <;> simp_all [Keeps]

@[simp] theorem execRelockComplete_keeps {base : State} (s : State) (hk0 : Keeps base s) : KeepsOut base (execRelockComplete s) := by
  first | (unfold execRelockComplete; simp (maxDischargeDepth := 40) [*]; done) | (unfold execRelockComplete; (try dsimp only); (repeat' first | assumption | split | (with_reducible apply foldl_keeps; intro _ _ _) | (with_reducible apply lan_keeps; · assumption) | (with_reducible apply issue_keeps; · assumption) | (with_reducible apply uni_keeps; · assumption) | (with_reducible apply uniJump_keeps; · assumption) | (with_reducible apply withTiles_keeps; · assumption) | intro _ | dsimp only) <;> first | assumption | (simp (maxDischargeDepth := 40) +contextual [*]; done) | (simp (maxDischargeDepth := 40) +contextual [Keeps, *]; done))

@[simp] theorem execLockTimeout_keeps {base : State} (s : State) (hk0 : Keeps base s) : KeepsOut base (execLockTimeout s) := by
  unfold execLockTimeout
  (repeat' split) <;> simp [*]

@[simp] theorem execFbdrainDone_keeps {base : State} (s : State) (hk0 : Keeps base s) : KeepsOut base (execFbdrainDone s) := by
  unfold execFbdrainDone
  (repeat' split) <;> simp [*]

@[simp] theorem execFbdrain_keeps {base : State} (m : Bool) (k : BitVec 4) (s : State) (hk0 : Keeps base s) : KeepsOut base (execFbdrain m k s) := by
  first | (unfold execFbdrain; simp (maxDischargeDepth := 40) [*]; done) | (unfold execFbdrain; (try dsimp only); (repeat' first | assumption | split | (with_reducible apply foldl_keeps; intro _ _ _) | (with_reducible apply lan_keeps; · assumption) | (with_reducible apply issue_keeps; · assumption) | (with_reducible apply uni_keeps; · assumption) | (with_reducible apply uniJump_keeps; · assumption) | (with_reducible apply withTiles_keeps; · assumption) | intro _ | dsimp only) <;> first | assumption | (simp (maxDischargeDepth := 40) +contextual [*]; done) | (simp (maxDischargeDepth := 40) +contextual [Keeps, *]; done))

@[simp] theorem execFbdark_keeps {base : State} (m : Bool) (k : BitVec 4) (ga : BitVec 9) (s : State) (hk0 : Keeps base s) : KeepsOut base (execFbdark m k ga s) := by
  first | (unfold execFbdark; simp (maxDischargeDepth := 40) [*]; done) | (unfold execFbdark; (try dsimp only); (repeat' first | assumption | split | (with_reducible apply foldl_keeps; intro _ _ _) | (with_reducible apply lan_keeps; · assumption) | (with_reducible apply issue_keeps; · assumption) | (with_reducible apply uni_keeps; · assumption) | (with_reducible apply uniJump_keeps; · assumption) | (with_reducible apply withTiles_keeps; · assumption) | intro _ | dsimp only) <;> first | assumption | (simp (maxDischargeDepth := 40) +contextual [*]; done) | (simp (maxDischargeDepth := 40) +contextual [Keeps, *]; done))

@[simp] theorem execFbrelock_keeps {base : State} (m : Bool) (k : BitVec 4) (ga : BitVec 9) (s : State) (hk0 : Keeps base s) : KeepsOut base (execFbrelock m k ga s) := by
  first | (unfold execFbrelock; simp (maxDischargeDepth := 40) [*]; done) | (unfold execFbrelock; (try dsimp only); (repeat' first | assumption | split | (with_reducible apply foldl_keeps; intro _ _ _) | (with_reducible apply lan_keeps; · assumption) | (with_reducible apply issue_keeps; · assumption) | (with_reducible apply uni_keeps; · assumption) | (with_reducible apply uniJump_keeps; · assumption) | (with_reducible apply withTiles_keeps; · assumption) | intro _ | dsimp only) <;> first | assumption | (simp (maxDischargeDepth := 40) +contextual [*]; done) | (simp (maxDischargeDepth := 40) +contextual [Keeps, *]; done))

@[simp] theorem execFbopen_keeps {base : State} (m : Bool) (k : BitVec 4) (s : State) (hk0 : Keeps base s) : KeepsOut base (execFbopen m k s) := by
  first | (unfold execFbopen; simp (maxDischargeDepth := 40) [*]; done) | (unfold execFbopen; (try dsimp only); (repeat' first | assumption | split | (with_reducible apply foldl_keeps; intro _ _ _) | (with_reducible apply lan_keeps; · assumption) | (with_reducible apply issue_keeps; · assumption) | (with_reducible apply uni_keeps; · assumption) | (with_reducible apply uniJump_keeps; · assumption) | (with_reducible apply withTiles_keeps; · assumption) | intro _ | dsimp only) <;> first | assumption | (simp (maxDischargeDepth := 40) +contextual [*]; done) | (simp (maxDischargeDepth := 40) +contextual [Keeps, *]; done))

@[simp] theorem execFbstat_keeps {base : State} (m : Bool) (gd : BitVec 9) (s : State) (hk0 : Keeps base s) : KeepsOut base (execFbstat m gd s) := by
  first | (unfold execFbstat; simp (maxDischargeDepth := 40) [*]; done) | (unfold execFbstat; (try dsimp only); (repeat' first | assumption | split | (with_reducible apply foldl_keeps; intro _ _ _) | (with_reducible apply lan_keeps; · assumption) | (with_reducible apply issue_keeps; · assumption) | (with_reducible apply uni_keeps; · assumption) | (with_reducible apply uniJump_keeps; · assumption) | (with_reducible apply withTiles_keeps; · assumption) | intro _ | dsimp only) <;> first | assumption | (simp (maxDischargeDepth := 40) +contextual [*]; done) | (simp (maxDischargeDepth := 40) +contextual [Keeps, *]; done))

@[simp] theorem execFbplan_keeps {base : State} (m : Bool) (gd ga : BitVec 9) (s : State) (hk0 : Keeps base s) : KeepsOut base (execFbplan m gd ga s) := by
  first | (unfold execFbplan; simp (maxDischargeDepth := 40) [*]; done) | (unfold execFbplan; (try dsimp only); (repeat' first | assumption | split | (with_reducible apply foldl_keeps; intro _ _ _) | (with_reducible apply lan_keeps; · assumption) | (with_reducible apply issue_keeps; · assumption) | (with_reducible apply uni_keeps; · assumption) | (with_reducible apply uniJump_keeps; · assumption) | (with_reducible apply withTiles_keeps; · assumption) | intro _ | dsimp only) <;> first | assumption | (simp (maxDischargeDepth := 40) +contextual [*]; done) | (simp (maxDischargeDepth := 40) +contextual [Keeps, *]; done))

@[simp] theorem execRsend_keeps {base : State} (m : Bool) (k : BitVec 4) (ga : BitVec 9) (s : State) (hk0 : Keeps base s) : KeepsOut base (execRsend m k ga s) := by
  simp [execRsend, hk0]

@[simp] theorem execRfetch_keeps {base : State} (m : Bool) (k : BitVec 4) (ga : BitVec 9) (s : State) (hk0 : Keeps base s) : KeepsOut base (execRfetch m k ga s) := by
  simp [execRfetch, hk0]

@[simp] theorem execReplayRequest_keeps {base : State} (s : State) (hk0 : Keeps base s) : KeepsOut base (execReplayRequest s) := by
  first | (unfold execReplayRequest; simp (maxDischargeDepth := 40) [*]; done) | (unfold execReplayRequest; (try dsimp only); (repeat' first | assumption | split | (with_reducible apply foldl_keeps; intro _ _ _) | (with_reducible apply lan_keeps; · assumption) | (with_reducible apply issue_keeps; · assumption) | (with_reducible apply uni_keeps; · assumption) | (with_reducible apply uniJump_keeps; · assumption) | (with_reducible apply withTiles_keeps; · assumption) | intro _ | dsimp only) <;> first | assumption | (simp (maxDischargeDepth := 40) +contextual [*]; done) | (simp (maxDischargeDepth := 40) +contextual [Keeps, *]; done))

@[simp] theorem execCircuitSwitchChange_keeps {base : State} (s : State) (hk0 : Keeps base s) : KeepsOut base (execCircuitSwitchChange s) := by
  unfold execCircuitSwitchChange
  (repeat' split) <;> simp [*]

@[simp] theorem execDemandAccess_keeps {base : State} (s : State) (hk0 : Keeps base s) : KeepsOut base (execDemandAccess s) := by
  unfold execDemandAccess
  (repeat' split) <;> simp [*]

@[simp] theorem execChannelBurstSelect_keeps {base : State} (s : State) (hk0 : Keeps base s) : KeepsOut base (execChannelBurstSelect s) := by
  first | (unfold execChannelBurstSelect; simp (maxDischargeDepth := 40) [*]; done) | (unfold execChannelBurstSelect; (try dsimp only); (repeat' first | assumption | split | (with_reducible apply foldl_keeps; intro _ _ _) | (with_reducible apply lan_keeps; · assumption) | (with_reducible apply issue_keeps; · assumption) | (with_reducible apply uni_keeps; · assumption) | (with_reducible apply uniJump_keeps; · assumption) | (with_reducible apply withTiles_keeps; · assumption) | intro _ | dsimp only) <;> first | assumption | (simp (maxDischargeDepth := 40) +contextual [*]; done) | (simp (maxDischargeDepth := 40) +contextual [Keeps, *]; done))

@[simp] theorem execRowSwitchComplete_keeps {base : State} (s : State) (hk0 : Keeps base s) : KeepsOut base (execRowSwitchComplete s) := by
  unfold execRowSwitchComplete
  (repeat' split) <;> simp [*]

@[simp] theorem execRefreshDue_keeps {base : State} (s : State) (hk0 : Keeps base s) : KeepsOut base (execRefreshDue s) := by
  unfold execRefreshDue
  (repeat' split) <;> simp [*]

@[simp] theorem execDramTempHigh_keeps {base : State} (s : State) (hk0 : Keeps base s) : KeepsOut base (execDramTempHigh s) := by
  unfold execDramTempHigh
  (repeat' split) <;> simp_all [Keeps]

@[simp] theorem execDramTempNormal_keeps {base : State} (s : State) (hk0 : Keeps base s) : KeepsOut base (execDramTempNormal s) := by
  unfold execDramTempNormal
  (repeat' split) <;> simp_all [Keeps]

@[simp] theorem execLaunch_keeps {base : State} (m : Bool) (gd ga : BitVec 9) (s : State) (hk0 : Keeps base s) : KeepsOut base (execLaunch m gd ga s) := by
  simp [execLaunch, hk0]

@[simp] theorem execLaunchb_keeps {base : State} (m : Bool) (gd ga gb : BitVec 9) (s : State) (hk0 : Keeps base s) : KeepsOut base (execLaunchb m gd ga gb s) := by
  simp [execLaunchb, hk0]

@[simp] theorem execPatch_keeps {base : State} (m : Bool) (gd ga gb : BitVec 9) (slot : BitVec 3) (s : State) (hk0 : Keeps base s) : KeepsOut base (execPatch m gd ga gb slot s) := by
  simp [execPatch, hk0]

@[simp] theorem execTdec_keeps {base : State} (m : Bool) (gd ga gb : BitVec 9) (s : State) (hk0 : Keeps base s) : KeepsOut base (execTdec m gd ga gb s) := by
  simp [execTdec, hk0]

@[simp] theorem execTkill_keeps {base : State} (m : Bool) (gd ga : BitVec 9) (s : State) (hk0 : Keeps base s) : KeepsOut base (execTkill m gd ga s) := by
  simp [execTkill, hk0]

@[simp] theorem execFork_keeps {base : State} (m : Bool) (ga : BitVec 9) (s : State) (hk0 : Keeps base s) : KeepsOut base (execFork m ga s) := by
  unfold execFork
  (repeat' split) <;> simp_all [Keeps]

@[simp] theorem execSpawnq_keeps {base : State} (m : Bool) (gd : BitVec 9) (s : State) (hk0 : Keeps base s) : KeepsOut base (execSpawnq m gd s) := by
  unfold execSpawnq
  (repeat' split) <;> simp_all [Keeps]

@[simp] theorem execResponseReturn_keeps {base : State} (s : State) (hk0 : Keeps base s) : KeepsOut base (execResponseReturn s) := by
  unfold execResponseReturn
  (repeat' split) <;> simp [*]

@[simp] theorem execBlockPlacement_keeps {base : State} (s : State) (hk0 : Keeps base s) : KeepsOut base (execBlockPlacement s) := by
  unfold execBlockPlacement
  (repeat' split) <;> simp [*]

@[simp] theorem execBlockRestore_keeps {base : State} (s : State) (hk0 : Keeps base s) : KeepsOut base (execBlockRestore s) := by
  unfold execBlockRestore
  split
  · exact foldl_keeps _ (fun t b ht => State.widenSpans_keeps t _ ht) _ _ (foldl_keeps _ (fun t e ht => State.restoreBlock_keeps t _ _ _ ht) _ _ hk0)
  · exact hk0

@[simp] theorem execPreemption_keeps {base : State} (s : State) (hk0 : Keeps base s) : KeepsOut base (execPreemption s) := by
  unfold execPreemption
  (repeat' split) <;> simp_all [Keeps]

@[simp] theorem execSaveComplete_keeps {base : State} (s : State) (hk0 : Keeps base s) : KeepsOut base (execSaveComplete s) := by
  unfold execSaveComplete
  (repeat' split) <;> simp [*]

@[simp] theorem execBlockSwapOut_keeps {base : State} (s : State) (hk0 : Keeps base s) : KeepsOut base (execBlockSwapOut s) := by
  first | (unfold execBlockSwapOut; simp (maxDischargeDepth := 40) [*]; done) | (unfold execBlockSwapOut; (try dsimp only); (repeat' first | assumption | split | (with_reducible apply foldl_keeps; intro _ _ _) | (with_reducible apply lan_keeps; · assumption) | (with_reducible apply issue_keeps; · assumption) | (with_reducible apply uni_keeps; · assumption) | (with_reducible apply uniJump_keeps; · assumption) | (with_reducible apply withTiles_keeps; · assumption) | intro _ | dsimp only) <;> first | assumption | (simp (maxDischargeDepth := 40) +contextual [*]; done) | (simp (maxDischargeDepth := 40) +contextual [Keeps, *]; done))

@[simp] theorem execSwappedBlockPoll_keeps {base : State} (s : State) (hk0 : Keeps base s) : KeepsOut base (execSwappedBlockPoll s) := by
  unfold execSwappedBlockPoll
  (repeat' split) <;> simp_all [Keeps]

@[simp] theorem execWatchdog_keeps {base : State} (s : State) (hk0 : Keeps base s) : KeepsOut base (execWatchdog s) := by
  first | (unfold execWatchdog; simp (maxDischargeDepth := 40) [*]; done) | (unfold execWatchdog; (try dsimp only); (repeat' first | assumption | split | (with_reducible apply foldl_keeps; intro _ _ _) | (with_reducible apply lan_keeps; · assumption) | (with_reducible apply issue_keeps; · assumption) | (with_reducible apply uni_keeps; · assumption) | (with_reducible apply uniJump_keeps; · assumption) | (with_reducible apply withTiles_keeps; · assumption) | intro _ | dsimp only) <;> first | assumption | (simp (maxDischargeDepth := 40) +contextual [*]; done) | (simp (maxDischargeDepth := 40) +contextual [Keeps, *]; done))

@[simp] theorem execSheafStart_keeps {base : State} (s : State) (hk0 : Keeps base s) : KeepsOut base (execSheafStart s) := by
  unfold execSheafStart
  (repeat' split) <;> simp [*]

@[simp] theorem execRegroup_keeps {base : State} (m : Bool) (dsp : Bool) (gd ga : BitVec 9) (key : BitVec 8) (s : State) (hk0 : Keeps base s) : KeepsOut base (execRegroup m dsp gd ga key s) := by
  first | (unfold execRegroup; simp (maxDischargeDepth := 40) [*]; done) | (unfold execRegroup; (try dsimp only); (repeat' first | assumption | split | (with_reducible apply foldl_keeps; intro _ _ _) | (with_reducible apply lan_keeps; · assumption) | (with_reducible apply issue_keeps; · assumption) | (with_reducible apply uni_keeps; · assumption) | (with_reducible apply uniJump_keeps; · assumption) | (with_reducible apply withTiles_keeps; · assumption) | intro _ | dsimp only) <;> first | assumption | (simp (maxDischargeDepth := 40) +contextual [*]; done) | (simp (maxDischargeDepth := 40) +contextual [Keeps, *]; done))

@[simp] theorem execRegroupMoveComplete_keeps {base : State} (s : State) (hk0 : Keeps base s) : KeepsOut base (execRegroupMoveComplete s) := by
  first | (unfold execRegroupMoveComplete; simp (maxDischargeDepth := 40) [*]; done) | (unfold execRegroupMoveComplete; (try dsimp only); (repeat' first | assumption | split | (with_reducible apply foldl_keeps; intro _ _ _) | (with_reducible apply lan_keeps; · assumption) | (with_reducible apply issue_keeps; · assumption) | (with_reducible apply uni_keeps; · assumption) | (with_reducible apply uniJump_keeps; · assumption) | (with_reducible apply withTiles_keeps; · assumption) | intro _ | dsimp only) <;> first | assumption | (simp (maxDischargeDepth := 40) +contextual [*]; done) | (simp (maxDischargeDepth := 40) +contextual [Keeps, *]; done))

@[simp] theorem execGroupExchange_keeps {base : State} (s : State) (hk0 : Keeps base s) : KeepsOut base (execGroupExchange s) := by
  unfold execGroupExchange
  (repeat' split) <;> simp [*]

@[simp] theorem execPendingPromotion_keeps {base : State} (s : State) (hk0 : Keeps base s) : KeepsOut base (execPendingPromotion s) := by
  unfold execPendingPromotion
  (repeat' split) <;> simp_all [Keeps]

@[simp] theorem execHeldWriteApply_keeps {base : State} (s : State) (hk0 : Keeps base s) : KeepsOut base (execHeldWriteApply s) := by
  unfold execHeldWriteApply
  (repeat' split) <;> simp_all [Keeps]

@[simp] theorem execSoftError_keeps {base : State} (s : State) (hk0 : Keeps base s) : KeepsOut base (execSoftError s) := by
  first | (unfold execSoftError; simp (maxDischargeDepth := 40) [*]; done) | (unfold execSoftError; (try dsimp only); (repeat' first | assumption | split | (with_reducible apply foldl_keeps; intro _ _ _) | (with_reducible apply lan_keeps; · assumption) | (with_reducible apply issue_keeps; · assumption) | (with_reducible apply uni_keeps; · assumption) | (with_reducible apply uniJump_keeps; · assumption) | (with_reducible apply withTiles_keeps; · assumption) | intro _ | dsimp only) <;> first | assumption | (simp (maxDischargeDepth := 40) +contextual [*]; done) | (simp (maxDischargeDepth := 40) +contextual [Keeps, *]; done))

@[simp] theorem execTaskPost_keeps {base : State} (s : State) (hk0 : Keeps base s) : KeepsOut base (execTaskPost s) := by
  unfold execTaskPost
  dsimp only
  simp only [keepsOut_next]
  repeat' split
  · rename_i hq
    exact State.onHost_keeps _ _ (State.postAsks_keeps _ _ hk0 _ hq) (fun _ h => h)
  · exact State.applyPost_keeps _ _ _ _ hk0
  · exact State.onHost_keeps _ _ hk0 (fun _ h => h)
  · exact hk0
  · exact hk0

@[simp] theorem execEventSend_keeps {base : State} (s : State) (hk0 : Keeps base s) : KeepsOut base (execEventSend s) := by
  simp [execEventSend, hk0]

@[simp] theorem execEventResend_keeps {base : State} (s : State) (hk0 : Keeps base s) : KeepsOut base (execEventResend s) := by
  simp [execEventResend, hk0]

@[simp] theorem execEventAck_keeps {base : State} (s : State) (hk0 : Keeps base s) : KeepsOut base (execEventAck s) := by
  unfold execEventAck
  (repeat' split) <;> simp_all [Keeps]

@[simp] theorem execMgmtRead_keeps {base : State} (s : State) (hk0 : Keeps base s) : KeepsOut base (execMgmtRead s) := by
  unfold execMgmtRead
  (repeat' split) <;> simp [*]

@[simp] theorem execAttest_keeps {base : State} (s : State) (hk0 : Keeps base s) : KeepsOut base (execAttest s) := by
  unfold execAttest
  (repeat' split) <;> simp [*]

@[simp] theorem execRdmaWrite_keeps {base : State} (s : State) (hk0 : Keeps base s) : KeepsOut base (execRdmaWrite s) := by
  unfold execRdmaWrite
  (repeat' split) <;> simp [*]

@[simp] theorem execRdmaRead_keeps {base : State} (s : State) (hk0 : Keeps base s) : KeepsOut base (execRdmaRead s) := by
  unfold execRdmaRead
  (repeat' split) <;> simp [*]

@[simp] theorem execRoceSendOrAtomic_keeps {base : State} (s : State) (hk0 : Keeps base s) : KeepsOut base (execRoceSendOrAtomic s) := by
  unfold execRoceSendOrAtomic
  (repeat' split) <;> simp [*]

end Sys2Proof.Machine
end

