-- ==== Sys2Proof/Laws/KeepsExecLane.lean ====
section
/-! SUPPORT. What the lane and uniform instructions keep, one lemma a meaning. -/

set_option linter.all false

namespace Sys2Proof.Machine

@[simp] theorem lane1_keeps {base : State} (s : State) (m : Bool) (len : Nat) (vd va : BitVec 8) (ok : Tag → Bool) (tag : Tag → Tag) (f : Word → Word) (hk0 : Keeps base s) : KeepsOut base (lane1 s m len vd va ok tag f) := by
  unfold lane1
  (repeat' split) <;> simp_all [Keeps]

@[simp] theorem lane2_keeps {base : State} (s : State) (m : Bool) (len : Nat) (vd va vb : BitVec 8) (ok : Tag → Bool) (tag : Tag → Tag → Tag) (f : Word → Word → Word) (hk0 : Keeps base s) : KeepsOut base (lane2 s m len vd va vb ok tag f) := by
  unfold lane2
  (repeat' split) <;> simp_all [Keeps]

@[simp] theorem lane3_keeps {base : State} (s : State) (m : Bool) (vd va vb : BitVec 8) (c : Src) (ok : Tag → Bool) (tag : Tag) (f : Word → Word → Word → Word) (hk0 : Keeps base s) : KeepsOut base (lane3 s m vd va vb c ok tag f) := by
  unfold lane3
  (repeat' split) <;> simp_all [Keeps]

@[simp] theorem float1_keeps {base : State} (s : State) (m : Bool) (vd va : BitVec 8) (ok : Tag → Bool) (f : Fmt → Nat → Nat) (hk0 : Keeps base s) : KeepsOut base (float1 s m vd va ok f) := by
  unfold float1
  (repeat' split) <;> simp_all [Keeps]

@[simp] theorem float2_keeps {base : State} (s : State) (m : Bool) (len : Nat) (vd va vb : BitVec 8) (f : Fmt → Nat → Nat → Nat) (hk0 : Keeps base s) : KeepsOut base (float2 s m len vd va vb f) := by
  unfold float2
  (repeat' split) <;> simp_all [Keeps]

@[simp] theorem laneCompare_keeps {base : State} (s : State) (m : Bool) (vd va vb : BitVec 8) (f : Word → Word → Bool) (hk0 : Keeps base s) : KeepsOut base (laneCompare s m vd va vb f) := by
  unfold laneCompare
  (repeat' split) <;> simp_all [Keeps]

@[simp] theorem State.vwriteAll_keeps {base : State} (s : State) (vd : Nat) (t : Tag) (n : Nat) (f : Nat → Nat → Word) (hk0 : Keeps base s) : Keeps base (State.vwriteAll s vd t n f) := by
  unfold State.vwriteAll
  (repeat' split) <;> simp_all [Keeps]

@[simp] theorem shuffle_keeps {base : State} (s : State) (m : Bool) (vd va : BitVec 8) (c : Src) (w : SegWidth) (from_ : Nat → Nat → Nat → Nat) (hk0 : Keeps base s) : KeepsOut base (shuffle s m vd va c w from_) := by
  unfold shuffle
  (repeat' split) <;> simp_all [Keeps]

@[simp] theorem quad_keeps {base : State} (s : State) (m : Bool) (vd va : BitVec 8) (from_ : Nat → Nat) (hk0 : Keeps base s) : KeepsOut base (quad s m vd va from_) := by
  unfold quad
  (repeat' split) <;> simp_all [Keeps]

@[simp] theorem vote_keeps {base : State} (s : State) (m : Bool) (ge va : BitVec 8) (vs : List Nat) (gs : List Nat) (ops : List Opnd) (r : Word) (hk0 : Keeps base s) : KeepsOut base (vote s m ge va vs gs ops r) := by
  unfold vote
  (repeat' split) <;> simp_all [Keeps]

@[simp] theorem g1_keeps {base : State} (s : State) (m : Bool) (len : Nat) (gd ga : BitVec 9) (f : Word → Word) (hk0 : Keeps base s) : KeepsOut base (g1 s m len gd ga f) := by
  unfold g1
  (repeat' split) <;> simp_all [Keeps]

@[simp] theorem g2_keeps {base : State} (s : State) (m : Bool) (gd ga gb : BitVec 9) (f : Word → Word → Word) (hk0 : Keeps base s) : KeepsOut base (g2 s m gd ga gb f) := by
  unfold g2
  (repeat' split) <;> simp_all [Keeps]

@[simp] theorem g3_keeps {base : State} (s : State) (m : Bool) (gd ga gb gc : BitVec 9) (f : Word → Word → Word → Word) (hk0 : Keeps base s) : KeepsOut base (g3 s m gd ga gb gc f) := by
  unfold g3
  (repeat' split) <;> simp_all [Keeps]

@[simp] theorem gImm_keeps {base : State} (s : State) (m : Bool) (gd : BitVec 9) (reads : List Nat) (f : Word → Word) (hk0 : Keeps base s) : KeepsOut base (gImm s m gd reads f) := by
  unfold gImm
  (repeat' split) <;> simp_all [Keeps]

@[simp] theorem execIadd_keeps {base : State} (m : Bool) (vd va vb : BitVec 8) (s : State) (hk0 : Keeps base s) : KeepsOut base (execIadd m vd va vb s) := by
  simp [execIadd, hk0]

@[simp] theorem execIsub_keeps {base : State} (m : Bool) (vd va vb : BitVec 8) (s : State) (hk0 : Keeps base s) : KeepsOut base (execIsub m vd va vb s) := by
  simp [execIsub, hk0]

@[simp] theorem execImul_keeps {base : State} (m : Bool) (vd va vb : BitVec 8) (s : State) (hk0 : Keeps base s) : KeepsOut base (execImul m vd va vb s) := by
  simp [execImul, hk0]

@[simp] theorem execImulhi_keeps {base : State} (m : Bool) (vd va vb : BitVec 8) (s : State) (hk0 : Keeps base s) : KeepsOut base (execImulhi m vd va vb s) := by
  simp [execImulhi, hk0]

@[simp] theorem execNmulhi_keeps {base : State} (m : Bool) (vd va vb : BitVec 8) (s : State) (hk0 : Keeps base s) : KeepsOut base (execNmulhi m vd va vb s) := by
  simp [execNmulhi, hk0]

@[simp] theorem execImin_keeps {base : State} (m : Bool) (vd va vb : BitVec 8) (s : State) (hk0 : Keeps base s) : KeepsOut base (execImin m vd va vb s) := by
  simp [execImin, hk0]

@[simp] theorem execImax_keeps {base : State} (m : Bool) (vd va vb : BitVec 8) (s : State) (hk0 : Keeps base s) : KeepsOut base (execImax m vd va vb s) := by
  simp [execImax, hk0]

@[simp] theorem execNmin_keeps {base : State} (m : Bool) (vd va vb : BitVec 8) (s : State) (hk0 : Keeps base s) : KeepsOut base (execNmin m vd va vb s) := by
  simp [execNmin, hk0]

@[simp] theorem execNmax_keeps {base : State} (m : Bool) (vd va vb : BitVec 8) (s : State) (hk0 : Keeps base s) : KeepsOut base (execNmax m vd va vb s) := by
  simp [execNmax, hk0]

@[simp] theorem execVand_keeps {base : State} (m : Bool) (vd va vb : BitVec 8) (s : State) (hk0 : Keeps base s) : KeepsOut base (execVand m vd va vb s) := by
  simp [execVand, hk0]

@[simp] theorem execVor_keeps {base : State} (m : Bool) (vd va vb : BitVec 8) (s : State) (hk0 : Keeps base s) : KeepsOut base (execVor m vd va vb s) := by
  simp [execVor, hk0]

@[simp] theorem execVxor_keeps {base : State} (m : Bool) (vd va vb : BitVec 8) (s : State) (hk0 : Keeps base s) : KeepsOut base (execVxor m vd va vb s) := by
  simp [execVxor, hk0]

@[simp] theorem execShl_keeps {base : State} (m : Bool) (vd va vb : BitVec 8) (s : State) (hk0 : Keeps base s) : KeepsOut base (execShl m vd va vb s) := by
  simp [execShl, hk0]

@[simp] theorem execShr_keeps {base : State} (m : Bool) (vd va vb : BitVec 8) (s : State) (hk0 : Keeps base s) : KeepsOut base (execShr m vd va vb s) := by
  simp [execShr, hk0]

@[simp] theorem execSar_keeps {base : State} (m : Bool) (vd va vb : BitVec 8) (s : State) (hk0 : Keeps base s) : KeepsOut base (execSar m vd va vb s) := by
  simp [execSar, hk0]

@[simp] theorem execMov_keeps {base : State} (m : Bool) (vd va : BitVec 8) (s : State) (hk0 : Keeps base s) : KeepsOut base (execMov m vd va s) := by
  simp [execMov, hk0]

@[simp] theorem execIaddi_keeps {base : State} (m : Bool) (vd va imm : BitVec 8) (s : State) (hk0 : Keeps base s) : KeepsOut base (execIaddi m vd va imm s) := by
  simp [execIaddi, hk0]

@[simp] theorem execAndi_keeps {base : State} (m : Bool) (vd va imm : BitVec 8) (s : State) (hk0 : Keeps base s) : KeepsOut base (execAndi m vd va imm s) := by
  simp [execAndi, hk0]

@[simp] theorem execOri_keeps {base : State} (m : Bool) (vd va imm : BitVec 8) (s : State) (hk0 : Keeps base s) : KeepsOut base (execOri m vd va imm s) := by
  simp [execOri, hk0]

@[simp] theorem execXori_keeps {base : State} (m : Bool) (vd va imm : BitVec 8) (s : State) (hk0 : Keeps base s) : KeepsOut base (execXori m vd va imm s) := by
  simp [execXori, hk0]

@[simp] theorem execShli_keeps {base : State} (m : Bool) (vd va : BitVec 8) (sh : BitVec 5) (s : State) (hk0 : Keeps base s) : KeepsOut base (execShli m vd va sh s) := by
  simp [execShli, hk0]

@[simp] theorem execShri_keeps {base : State} (m : Bool) (vd va : BitVec 8) (sh : BitVec 5) (s : State) (hk0 : Keeps base s) : KeepsOut base (execShri m vd va sh s) := by
  simp [execShri, hk0]

@[simp] theorem execSari_keeps {base : State} (m : Bool) (vd va : BitVec 8) (sh : BitVec 5) (s : State) (hk0 : Keeps base s) : KeepsOut base (execSari m vd va sh s) := by
  simp [execSari, hk0]

@[simp] theorem execMovi_keeps {base : State} (m : Bool) (vd imm : BitVec 8) (s : State) (hk0 : Keeps base s) : KeepsOut base (execMovi m vd imm s) := by
  unfold execMovi
  (repeat' split) <;> simp_all [Keeps]

@[simp] theorem execImad_keeps {base : State} (m : Bool) (vd va vb : BitVec 8) (c : Src) (s : State) (hk0 : Keeps base s) : KeepsOut base (execImad m vd va vb c s) := by
  simp [execImad, hk0]

@[simp] theorem execPopc_keeps {base : State} (m : Bool) (vd va : BitVec 8) (s : State) (hk0 : Keeps base s) : KeepsOut base (execPopc m vd va s) := by
  simp [execPopc, hk0]

@[simp] theorem execClz_keeps {base : State} (m : Bool) (vd va : BitVec 8) (s : State) (hk0 : Keeps base s) : KeepsOut base (execClz m vd va s) := by
  simp [execClz, hk0]

@[simp] theorem execBrev_keeps {base : State} (m : Bool) (vd va : BitVec 8) (s : State) (hk0 : Keeps base s) : KeepsOut base (execBrev m vd va s) := by
  simp [execBrev, hk0]

@[simp] theorem execBfe_keeps {base : State} (m : Bool) (vd va vb : BitVec 8) (c : Src) (sgn : Bool) (s : State) (hk0 : Keeps base s) : KeepsOut base (execBfe m vd va vb c sgn s) := by
  simp [execBfe, hk0]

@[simp] theorem execBfi_keeps {base : State} (m : Bool) (vd va vb : BitVec 8) (c e : Src) (s : State) (hk0 : Keeps base s) : KeepsOut base (execBfi m vd va vb c e s) := by
  unfold execBfi
  (repeat' split) <;> simp_all [Keeps]

@[simp] theorem execPrmt_keeps {base : State} (m : Bool) (vd va vb : BitVec 8) (c : Src) (s : State) (hk0 : Keeps base s) : KeepsOut base (execPrmt m vd va vb c s) := by
  simp [execPrmt, hk0]

@[simp] theorem execSel_keeps {base : State} (m : Bool) (vd va vb : BitVec 8) (c : Src) (s : State) (hk0 : Keeps base s) : KeepsOut base (execSel m vd va vb c s) := by
  unfold execSel
  (repeat' split) <;> simp_all [Keeps]

@[simp] theorem execIabs_keeps {base : State} (m : Bool) (vd va : BitVec 8) (sat : Bool) (s : State) (hk0 : Keeps base s) : KeepsOut base (execIabs m vd va sat s) := by
  simp [execIabs, hk0]

@[simp] theorem execIneg_keeps {base : State} (m : Bool) (vd va : BitVec 8) (sat : Bool) (s : State) (hk0 : Keeps base s) : KeepsOut base (execIneg m vd va sat s) := by
  simp [execIneg, hk0]

@[simp] theorem execIadd3_keeps {base : State} (m : Bool) (vd va vb : BitVec 8) (c : Src) (s : State) (hk0 : Keeps base s) : KeepsOut base (execIadd3 m vd va vb c s) := by
  simp [execIadd3, hk0]

@[simp] theorem execMovg_keeps {base : State} (m : Bool) (vd gc : BitVec 8) (s : State) (hk0 : Keeps base s) : KeepsOut base (execMovg m vd gc s) := by
  unfold execMovg
  (repeat' split) <;> simp_all [Keeps]

@[simp] theorem execFadd_keeps {base : State} (m : Bool) (vd va vb : BitVec 8) (s : State) (hk0 : Keeps base s) : KeepsOut base (execFadd m vd va vb s) := by
  simp [execFadd, hk0]

@[simp] theorem execFsub_keeps {base : State} (m : Bool) (vd va vb : BitVec 8) (s : State) (hk0 : Keeps base s) : KeepsOut base (execFsub m vd va vb s) := by
  simp [execFsub, hk0]

@[simp] theorem execFmul_keeps {base : State} (m : Bool) (vd va vb : BitVec 8) (s : State) (hk0 : Keeps base s) : KeepsOut base (execFmul m vd va vb s) := by
  simp [execFmul, hk0]

@[simp] theorem execFmin_keeps {base : State} (m : Bool) (vd va vb : BitVec 8) (s : State) (hk0 : Keeps base s) : KeepsOut base (execFmin m vd va vb s) := by
  simp [execFmin, hk0]

@[simp] theorem execFmax_keeps {base : State} (m : Bool) (vd va vb : BitVec 8) (s : State) (hk0 : Keeps base s) : KeepsOut base (execFmax m vd va vb s) := by
  simp [execFmax, hk0]

@[simp] theorem execFfma_keeps {base : State} (m : Bool) (vd va vb : BitVec 8) (c : Src) (rm : Rounding) (s : State) (hk0 : Keeps base s) : KeepsOut base (execFfma m vd va vb c rm s) := by
  unfold execFfma
  (repeat' split) <;> simp_all [Keeps]

@[simp] theorem execFrcp_keeps {base : State} (m : Bool) (vd va : BitVec 8) (s : State) (hk0 : Keeps base s) : KeepsOut base (execFrcp m vd va s) := by
  simp [execFrcp, hk0]

@[simp] theorem execFrsq_keeps {base : State} (m : Bool) (vd va : BitVec 8) (s : State) (hk0 : Keeps base s) : KeepsOut base (execFrsq m vd va s) := by
  simp [execFrsq, hk0]

@[simp] theorem execFsqrt_keeps {base : State} (m : Bool) (vd va : BitVec 8) (rm : Rounding) (s : State) (hk0 : Keeps base s) : KeepsOut base (execFsqrt m vd va rm s) := by
  simp [execFsqrt, hk0]

@[simp] theorem execFexp2_keeps {base : State} (m : Bool) (vd va : BitVec 8) (s : State) (hk0 : Keeps base s) : KeepsOut base (execFexp2 m vd va s) := by
  simp [execFexp2, hk0]

@[simp] theorem execFlog2_keeps {base : State} (m : Bool) (vd va : BitVec 8) (s : State) (hk0 : Keeps base s) : KeepsOut base (execFlog2 m vd va s) := by
  simp [execFlog2, hk0]

@[simp] theorem execFsin_keeps {base : State} (m : Bool) (vd va : BitVec 8) (s : State) (hk0 : Keeps base s) : KeepsOut base (execFsin m vd va s) := by
  simp [execFsin, hk0]

@[simp] theorem execFcos_keeps {base : State} (m : Bool) (vd va : BitVec 8) (s : State) (hk0 : Keeps base s) : KeepsOut base (execFcos m vd va s) := by
  simp [execFcos, hk0]

@[simp] theorem execFabs_keeps {base : State} (m : Bool) (vd va : BitVec 8) (s : State) (hk0 : Keeps base s) : KeepsOut base (execFabs m vd va s) := by
  simp [execFabs, hk0]

@[simp] theorem execFneg_keeps {base : State} (m : Bool) (vd va : BitVec 8) (s : State) (hk0 : Keeps base s) : KeepsOut base (execFneg m vd va s) := by
  simp [execFneg, hk0]

@[simp] theorem execFfloor_keeps {base : State} (m : Bool) (vd va : BitVec 8) (s : State) (hk0 : Keeps base s) : KeepsOut base (execFfloor m vd va s) := by
  simp [execFfloor, hk0]

@[simp] theorem execFceil_keeps {base : State} (m : Bool) (vd va : BitVec 8) (s : State) (hk0 : Keeps base s) : KeepsOut base (execFceil m vd va s) := by
  simp [execFceil, hk0]

@[simp] theorem execFtrunc_keeps {base : State} (m : Bool) (vd va : BitVec 8) (s : State) (hk0 : Keeps base s) : KeepsOut base (execFtrunc m vd va s) := by
  simp [execFtrunc, hk0]

@[simp] theorem execFrint_keeps {base : State} (m : Bool) (vd va : BitVec 8) (rm : Rounding) (s : State) (hk0 : Keeps base s) : KeepsOut base (execFrint m vd va rm s) := by
  simp [execFrint, hk0]

@[simp] theorem execFtwosum_keeps {base : State} (m : Bool) (vd va vb : BitVec 8) (s : State) (hk0 : Keeps base s) : KeepsOut base (execFtwosum m vd va vb s) := by
  first | (unfold execFtwosum; simp (maxDischargeDepth := 40) [*]; done) | (unfold execFtwosum; (try dsimp only); (repeat' first | assumption | split | (with_reducible apply foldl_keeps; intro _ _ _) | (with_reducible apply lan_keeps; · assumption) | (with_reducible apply issue_keeps; · assumption) | (with_reducible apply uni_keeps; · assumption) | (with_reducible apply uniJump_keeps; · assumption) | (with_reducible apply withTiles_keeps; · assumption) | intro _ | dsimp only) <;> first | assumption | (simp (maxDischargeDepth := 40) +contextual [*]; done) | (simp (maxDischargeDepth := 40) +contextual [Keeps, *]; done))

@[simp] theorem execIset_keeps {base : State} (m : Bool) (vd va vb : BitVec 8) (cond : Cond) (s : State) (hk0 : Keeps base s) : KeepsOut base (execIset m vd va vb cond s) := by
  simp [execIset, hk0]

@[simp] theorem execNset_keeps {base : State} (m : Bool) (vd va vb : BitVec 8) (cond : Cond) (s : State) (hk0 : Keeps base s) : KeepsOut base (execNset m vd va vb cond s) := by
  simp [execNset, hk0]

@[simp] theorem execFset_keeps {base : State} (m : Bool) (vd va vb : BitVec 8) (cond : Cond) (s : State) (hk0 : Keeps base s) : KeepsOut base (execFset m vd va vb cond s) := by
  unfold execFset
  (repeat' split) <;> simp_all [Keeps]

@[simp] theorem execCvt_keeps {base : State} (m : Bool) (vd va : BitVec 8) (dtag : Tag) (u : Bool) (el : BitVec 3) (rm : Rounding) (sat : Bool) (s : State) (hk0 : Keeps base s) : KeepsOut base (execCvt m vd va dtag u el rm sat s) := by
  unfold execCvt
  (repeat' split) <;> simp_all [Keeps]

@[simp] theorem execCvtsc_keeps {base : State} (m : Bool) (vd va : BitVec 8) (dtag : Tag) (el : Bool) (s : State) (hk0 : Keeps base s) : KeepsOut base (execCvtsc m vd va dtag el s) := by
  first | (unfold execCvtsc; simp (maxDischargeDepth := 40) [*]; done) | (unfold execCvtsc; (try dsimp only); (repeat' first | assumption | split | (with_reducible apply foldl_keeps; intro _ _ _) | (with_reducible apply lan_keeps; · assumption) | (with_reducible apply issue_keeps; · assumption) | (with_reducible apply uni_keeps; · assumption) | (with_reducible apply uniJump_keeps; · assumption) | (with_reducible apply withTiles_keeps; · assumption) | intro _ | dsimp only) <;> first | assumption | (simp (maxDischargeDepth := 40) +contextual [*]; done) | (simp (maxDischargeDepth := 40) +contextual [Keeps, *]; done))

@[simp] theorem execPack2_keeps {base : State} (m : Bool) (vd va vb : BitVec 8) (dtag : Tag) (u : Bool) (rm : Rounding) (sat : Bool) (s : State) (hk0 : Keeps base s) : KeepsOut base (execPack2 m vd va vb dtag u rm sat s) := by
  unfold execPack2
  (repeat' split) <;> simp_all [Keeps]

@[simp] theorem execPack4_keeps {base : State} (m : Bool) (vd va : BitVec 8) (dtag : Tag) (u : Bool) (rm : Rounding) (sat : Bool) (s : State) (hk0 : Keeps base s) : KeepsOut base (execPack4 m vd va dtag u rm sat s) := by
  unfold execPack4
  (repeat' split) <;> simp_all [Keeps]

@[simp] theorem execUnpack_keeps {base : State} (m : Bool) (vd va : BitVec 8) (dtag : Tag) (u : Bool) (rm : Rounding) (s : State) (hk0 : Keeps base s) : KeepsOut base (execUnpack m vd va dtag u rm s) := by
  first | (unfold execUnpack; simp (maxDischargeDepth := 40) [*]; done) | (unfold execUnpack; (try dsimp only); (repeat' first | assumption | split | (with_reducible apply foldl_keeps; intro _ _ _) | (with_reducible apply lan_keeps; · assumption) | (with_reducible apply issue_keeps; · assumption) | (with_reducible apply uni_keeps; · assumption) | (with_reducible apply uniJump_keeps; · assumption) | (with_reducible apply withTiles_keeps; · assumption) | intro _ | dsimp only) <;> first | assumption | (simp (maxDischargeDepth := 40) +contextual [*]; done) | (simp (maxDischargeDepth := 40) +contextual [Keeps, *]; done))

@[simp] theorem execTagset_keeps {base : State} (m : Bool) (vd va : BitVec 8) (dtag : Tag) (s : State) (hk0 : Keeps base s) : KeepsOut base (execTagset m vd va dtag s) := by
  unfold execTagset
  (repeat' split) <;> simp_all [Keeps]

@[simp] theorem execTagget_keeps {base : State} (m : Bool) (vd va : BitVec 8) (s : State) (hk0 : Keeps base s) : KeepsOut base (execTagget m vd va s) := by
  unfold execTagget
  (repeat' split) <;> simp_all [Keeps]

@[simp] theorem execShfl_keeps {base : State} (m : Bool) (vd va : BitVec 8) (c : Src) (w : SegWidth) (s : State) (hk0 : Keeps base s) : KeepsOut base (execShfl m vd va c w s) := by
  simp [execShfl, hk0]

@[simp] theorem execShflup_keeps {base : State} (m : Bool) (vd va : BitVec 8) (c : Src) (w : SegWidth) (s : State) (hk0 : Keeps base s) : KeepsOut base (execShflup m vd va c w s) := by
  simp [execShflup, hk0]

@[simp] theorem execShfldn_keeps {base : State} (m : Bool) (vd va : BitVec 8) (c : Src) (w : SegWidth) (s : State) (hk0 : Keeps base s) : KeepsOut base (execShfldn m vd va c w s) := by
  simp [execShfldn, hk0]

@[simp] theorem execShflx_keeps {base : State} (m : Bool) (vd va : BitVec 8) (c : Src) (w : SegWidth) (s : State) (hk0 : Keeps base s) : KeepsOut base (execShflx m vd va c w s) := by
  simp [execShflx, hk0]

@[simp] theorem execQswaph_keeps {base : State} (m : Bool) (vd va : BitVec 8) (s : State) (hk0 : Keeps base s) : KeepsOut base (execQswaph m vd va s) := by
  simp [execQswaph, hk0]

@[simp] theorem execQswapv_keeps {base : State} (m : Bool) (vd va : BitVec 8) (s : State) (hk0 : Keeps base s) : KeepsOut base (execQswapv m vd va s) := by
  simp [execQswapv, hk0]

@[simp] theorem execQswapd_keeps {base : State} (m : Bool) (vd va : BitVec 8) (s : State) (hk0 : Keeps base s) : KeepsOut base (execQswapd m vd va s) := by
  simp [execQswapd, hk0]

@[simp] theorem execQbcast_keeps {base : State} (m : Bool) (vd va : BitVec 8) (k : BitVec 2) (s : State) (hk0 : Keeps base s) : KeepsOut base (execQbcast m vd va k s) := by
  simp [execQbcast, hk0]

@[simp] theorem execVoteall_keeps {base : State} (m : Bool) (ge va : BitVec 8) (s : State) (hk0 : Keeps base s) : KeepsOut base (execVoteall m ge va s) := by
  simp [execVoteall, hk0]

@[simp] theorem execVoteany_keeps {base : State} (m : Bool) (ge va : BitVec 8) (s : State) (hk0 : Keeps base s) : KeepsOut base (execVoteany m ge va s) := by
  simp [execVoteany, hk0]

@[simp] theorem execBallot_keeps {base : State} (m : Bool) (ge va : BitVec 8) (s : State) (hk0 : Keeps base s) : KeepsOut base (execBallot m ge va s) := by
  simp [execBallot, hk0]

@[simp] theorem execBplane_keeps {base : State} (m : Bool) (ge va vb : BitVec 8) (c : Src) (s : State) (hk0 : Keeps base s) : KeepsOut base (execBplane m ge va vb c s) := by
  simp [execBplane, hk0]

@[simp] theorem execMatchLanes_keeps {base : State} (m : Bool) (ge va : BitVec 8) (s : State) (hk0 : Keeps base s) : KeepsOut base (execMatchLanes m ge va s) := by
  simp [execMatchLanes, hk0]

@[simp] theorem execRedux_keeps {base : State} (m : Bool) (ge va : BitVec 8) (op : ReduxOp) (s : State) (hk0 : Keeps base s) : KeepsOut base (execRedux m ge va op s) := by
  unfold execRedux
  (repeat' split) <;> simp_all [Keeps]

@[simp] theorem execLaneid_keeps {base : State} (m : Bool) (vd : BitVec 8) (s : State) (hk0 : Keeps base s) : KeepsOut base (execLaneid m vd s) := by
  unfold execLaneid
  (repeat' split) <;> simp_all [Keeps]

@[simp] theorem execReadsr_keeps {base : State} (m : Bool) (vd : BitVec 8) (k : LaneSr) (s : State) (hk0 : Keeps base s) : KeepsOut base (execReadsr m vd k s) := by
  unfold execReadsr
  (repeat' split) <;> simp_all [Keeps]

@[simp] theorem execGmovi_keeps {base : State} (m : Bool) (gd : BitVec 9) (imm : BitVec 15) (s : State) (hk0 : Keeps base s) : KeepsOut base (execGmovi m gd imm s) := by
  simp [execGmovi, hk0]

@[simp] theorem execGaddi_keeps {base : State} (m : Bool) (gd : BitVec 9) (imm : BitVec 15) (s : State) (hk0 : Keeps base s) : KeepsOut base (execGaddi m gd imm s) := by
  simp [execGaddi, hk0]

@[simp] theorem execGlui_keeps {base : State} (m : Bool) (gd : BitVec 9) (imm : BitVec 15) (s : State) (hk0 : Keeps base s) : KeepsOut base (execGlui m gd imm s) := by
  simp [execGlui, hk0]

@[simp] theorem execGori_keeps {base : State} (m : Bool) (gd : BitVec 9) (imm : BitVec 15) (s : State) (hk0 : Keeps base s) : KeepsOut base (execGori m gd imm s) := by
  simp [execGori, hk0]

@[simp] theorem execGshli_keeps {base : State} (m : Bool) (gd ga : BitVec 9) (sh : BitVec 5) (s : State) (hk0 : Keeps base s) : KeepsOut base (execGshli m gd ga sh s) := by
  simp [execGshli, hk0]

@[simp] theorem execGshri_keeps {base : State} (m : Bool) (gd ga : BitVec 9) (sh : BitVec 5) (s : State) (hk0 : Keeps base s) : KeepsOut base (execGshri m gd ga sh s) := by
  simp [execGshri, hk0]

@[simp] theorem execGsari_keeps {base : State} (m : Bool) (gd ga : BitVec 9) (sh : BitVec 5) (s : State) (hk0 : Keeps base s) : KeepsOut base (execGsari m gd ga sh s) := by
  simp [execGsari, hk0]

@[simp] theorem execGmov_keeps {base : State} (m : Bool) (gd ga : BitVec 9) (s : State) (hk0 : Keeps base s) : KeepsOut base (execGmov m gd ga s) := by
  simp [execGmov, hk0]

@[simp] theorem execGaddi6_keeps {base : State} (m : Bool) (gd ga : BitVec 9) (imm : BitVec 6) (s : State) (hk0 : Keeps base s) : KeepsOut base (execGaddi6 m gd ga imm s) := by
  simp [execGaddi6, hk0]

@[simp] theorem execGmovl_keeps {base : State} (m : Bool) (gd : BitVec 9) (imm : Word) (s : State) (hk0 : Keeps base s) : KeepsOut base (execGmovl m gd imm s) := by
  unfold execGmovl
  (repeat' split) <;> simp_all [Keeps]

@[simp] theorem execGadd_keeps {base : State} (m : Bool) (gd ga gb : BitVec 9) (s : State) (hk0 : Keeps base s) : KeepsOut base (execGadd m gd ga gb s) := by
  simp [execGadd, hk0]

@[simp] theorem execGsub_keeps {base : State} (m : Bool) (gd ga gb : BitVec 9) (s : State) (hk0 : Keeps base s) : KeepsOut base (execGsub m gd ga gb s) := by
  simp [execGsub, hk0]

@[simp] theorem execGmul_keeps {base : State} (m : Bool) (gd ga gb : BitVec 9) (s : State) (hk0 : Keeps base s) : KeepsOut base (execGmul m gd ga gb s) := by
  simp [execGmul, hk0]

@[simp] theorem execGmulhi_keeps {base : State} (m : Bool) (gd ga gb : BitVec 9) (s : State) (hk0 : Keeps base s) : KeepsOut base (execGmulhi m gd ga gb s) := by
  simp [execGmulhi, hk0]

@[simp] theorem execGnmulhi_keeps {base : State} (m : Bool) (gd ga gb : BitVec 9) (s : State) (hk0 : Keeps base s) : KeepsOut base (execGnmulhi m gd ga gb s) := by
  simp [execGnmulhi, hk0]

@[simp] theorem execGand_keeps {base : State} (m : Bool) (gd ga gb : BitVec 9) (s : State) (hk0 : Keeps base s) : KeepsOut base (execGand m gd ga gb s) := by
  simp [execGand, hk0]

@[simp] theorem execGor_keeps {base : State} (m : Bool) (gd ga gb : BitVec 9) (s : State) (hk0 : Keeps base s) : KeepsOut base (execGor m gd ga gb s) := by
  simp [execGor, hk0]

@[simp] theorem execGxor_keeps {base : State} (m : Bool) (gd ga gb : BitVec 9) (s : State) (hk0 : Keeps base s) : KeepsOut base (execGxor m gd ga gb s) := by
  simp [execGxor, hk0]

@[simp] theorem execGshl_keeps {base : State} (m : Bool) (gd ga gb : BitVec 9) (s : State) (hk0 : Keeps base s) : KeepsOut base (execGshl m gd ga gb s) := by
  simp [execGshl, hk0]

@[simp] theorem execGshr_keeps {base : State} (m : Bool) (gd ga gb : BitVec 9) (s : State) (hk0 : Keeps base s) : KeepsOut base (execGshr m gd ga gb s) := by
  simp [execGshr, hk0]

@[simp] theorem execGsar_keeps {base : State} (m : Bool) (gd ga gb : BitVec 9) (s : State) (hk0 : Keeps base s) : KeepsOut base (execGsar m gd ga gb s) := by
  simp [execGsar, hk0]

@[simp] theorem execGmin_keeps {base : State} (m : Bool) (gd ga gb : BitVec 9) (s : State) (hk0 : Keeps base s) : KeepsOut base (execGmin m gd ga gb s) := by
  simp [execGmin, hk0]

@[simp] theorem execGmax_keeps {base : State} (m : Bool) (gd ga gb : BitVec 9) (s : State) (hk0 : Keeps base s) : KeepsOut base (execGmax m gd ga gb s) := by
  simp [execGmax, hk0]

@[simp] theorem execGnmin_keeps {base : State} (m : Bool) (gd ga gb : BitVec 9) (s : State) (hk0 : Keeps base s) : KeepsOut base (execGnmin m gd ga gb s) := by
  simp [execGnmin, hk0]

@[simp] theorem execGnmax_keeps {base : State} (m : Bool) (gd ga gb : BitVec 9) (s : State) (hk0 : Keeps base s) : KeepsOut base (execGnmax m gd ga gb s) := by
  simp [execGnmax, hk0]

@[simp] theorem execGpopc_keeps {base : State} (m : Bool) (gd ga : BitVec 9) (s : State) (hk0 : Keeps base s) : KeepsOut base (execGpopc m gd ga s) := by
  simp [execGpopc, hk0]

@[simp] theorem execGclz_keeps {base : State} (m : Bool) (gd ga : BitVec 9) (s : State) (hk0 : Keeps base s) : KeepsOut base (execGclz m gd ga s) := by
  simp [execGclz, hk0]

@[simp] theorem execGsel_keeps {base : State} (m : Bool) (gd ga gb gc : BitVec 9) (s : State) (hk0 : Keeps base s) : KeepsOut base (execGsel m gd ga gb gc s) := by
  simp [execGsel, hk0]

@[simp] theorem execGdivn_keeps {base : State} (m : Bool) (gd ga gb : BitVec 9) (s : State) (hk0 : Keeps base s) : KeepsOut base (execGdivn m gd ga gb s) := by
  simp [execGdivn, hk0]

@[simp] theorem execGremn_keeps {base : State} (m : Bool) (gd ga gb : BitVec 9) (s : State) (hk0 : Keeps base s) : KeepsOut base (execGremn m gd ga gb s) := by
  simp [execGremn, hk0]

@[simp] theorem execGmad_keeps {base : State} (m : Bool) (gd ga gb gc : BitVec 9) (s : State) (hk0 : Keeps base s) : KeepsOut base (execGmad m gd ga gb gc s) := by
  simp [execGmad, hk0]

@[simp] theorem execGadd64_keeps {base : State} (m : Bool) (gd ga gb : BitVec 9) (s : State) (hk0 : Keeps base s) : KeepsOut base (execGadd64 m gd ga gb s) := by
  unfold execGadd64
  (repeat' split) <;> simp_all [Keeps]

@[simp] theorem execGbfe_keeps {base : State} (m : Bool) (gd ga gb gc : BitVec 9) (sgn : Bool) (s : State) (hk0 : Keeps base s) : KeepsOut base (execGbfe m gd ga gb gc sgn s) := by
  simp [execGbfe, hk0]

@[simp] theorem execGbfi_keeps {base : State} (m : Bool) (gd ga gb gc : BitVec 9) (s : State) (hk0 : Keeps base s) : KeepsOut base (execGbfi m gd ga gb gc s) := by
  unfold execGbfi
  (repeat' split) <;> simp_all [Keeps]

@[simp] theorem execGfadd_keeps {base : State} (m : Bool) (gd ga gb : BitVec 9) (rm : Rounding) (s : State) (hk0 : Keeps base s) : KeepsOut base (execGfadd m gd ga gb rm s) := by
  simp [execGfadd, hk0]

@[simp] theorem execGfmul_keeps {base : State} (m : Bool) (gd ga gb : BitVec 9) (rm : Rounding) (s : State) (hk0 : Keeps base s) : KeepsOut base (execGfmul m gd ga gb rm s) := by
  simp [execGfmul, hk0]

@[simp] theorem execGfmax_keeps {base : State} (m : Bool) (gd ga gb : BitVec 9) (s : State) (hk0 : Keeps base s) : KeepsOut base (execGfmax m gd ga gb s) := by
  simp [execGfmax, hk0]

@[simp] theorem execGset_keeps {base : State} (m : Bool) (gd ga gb : BitVec 9) (cond : Cond) (s : State) (hk0 : Keeps base s) : KeepsOut base (execGset m gd ga gb cond s) := by
  simp [execGset, hk0]

@[simp] theorem execGnset_keeps {base : State} (m : Bool) (gd ga gb : BitVec 9) (cond : Cond) (s : State) (hk0 : Keeps base s) : KeepsOut base (execGnset m gd ga gb cond s) := by
  simp [execGnset, hk0]

@[simp] theorem execGfset_keeps {base : State} (m : Bool) (gd ga gb : BitVec 9) (cond : Cond) (s : State) (hk0 : Keeps base s) : KeepsOut base (execGfset m gd ga gb cond s) := by
  simp [execGfset, hk0]

@[simp] theorem execGffma_keeps {base : State} (m : Bool) (gd ga gb gc : BitVec 9) (rm : Rounding) (s : State) (hk0 : Keeps base s) : KeepsOut base (execGffma m gd ga gb gc rm s) := by
  simp [execGffma, hk0]

end Sys2Proof.Machine
end

