-- ==== Sys2Proof/Laws/State.lean ====
section
/-! SUPPORT. What an update of one piece of State leaves in every field, by rfl, so that no proof unfolds a record update; what reading a table after an update gives; lanes of a group after an update. -/

namespace Sys2Proof.Machine

/-! ### Tables -/

/-- An entry just put reads as what was put. -/
@[simp] theorem look_put {κ α : Type} [DecidableEq κ] (l : List (κ × α)) (x : κ) (a : α) : look (put l x a) x = some a := by
  induction l with
  | nil => simp [put, look]
  | cons e r ih => obtain ⟨k, b⟩ := e; by_cases h : k = x <;> simp [put, look, h, ih]

/-- Another entry reads as before. -/
theorem look_put_ne {κ α : Type} [DecidableEq κ] (l : List (κ × α)) {x y : κ} (a : α) (h : y ≠ x) : look (put l x a) y = look l y := by
  induction l with
  | nil => simp [put, look, h.symm]
  | cons e r ih => obtain ⟨k, b⟩ := e; by_cases h1 : k = x <;> by_cases h2 : k = y <;> simp_all [put, look]

/-- An entry that exists reads as its image after an update. -/
theorem upd_some {κ α : Type} [DecidableEq κ] {l : List (κ × α)} {x : κ} {a : α} (f : α → α) (h : look l x = some a) : look (upd l x f) x = some (f a) := by
  simp [upd, h]

/-- Another entry reads as before an update. -/
theorem look_upd_ne {κ α : Type} [DecidableEq κ] (l : List (κ × α)) {x y : κ} (f : α → α) (h : y ≠ x) : look (upd l x f) y = look l y := by
  simp only [upd]
  split
  · rfl
  · exact look_put_ne _ _ h

/-! ### Lanes -/

/-- A lane after an update of the lanes of a mask. -/
theorem lane_map (g : Group) (m : Mask) (f : Nat → Lane → Lane) (l : Nat) (h : l < g.lanes.length) : (g.mapLanes m f).lane l = if m.getLsbD l then f l (g.lane l) else g.lane l := by
  simp [Group.mapLanes, Group.lane, List.getD_eq_getElem?_getD, h]

/-- A lane outside the mask stands. -/
theorem lane_map_off (g : Group) (m : Mask) (f : Nat → Lane → Lane) (l : Nat) (h : m.getLsbD l = false) : (g.mapLanes m f).lane l = g.lane l := by
  by_cases hl : l < g.lanes.length
  · simp [lane_map _ _ _ _ hl, h]
  · simp only [Group.mapLanes, Group.lane, List.getD_eq_getElem?_getD]
    rw [List.getElem?_eq_none (by simpa using hl), List.getElem?_eq_none (by simpa using hl)]

/-! ### Fields after updates -/

@[simp] theorem State.setGroup_cur (s : State) (k : GKey) (g : Group) : (s.setGroup k g).cur = s.cur := rfl
@[simp] theorem State.setGroup_arg (s : State) (k : GKey) (g : Group) : (s.setGroup k g).arg = s.arg := rfl
@[simp] theorem State.setGroup_agenda (s : State) (k : GKey) (g : Group) : (s.setGroup k g).agenda = s.agenda := rfl
@[simp] theorem State.setGroup_clock (s : State) (k : GKey) (g : Group) : (s.setGroup k g).clock = s.clock := rfl
@[simp] theorem State.setGroup_ptimeOff (s : State) (k : GKey) (g : Group) : (s.setGroup k g).ptimeOff = s.ptimeOff := rfl
@[simp] theorem State.setGroup_freeCtr (s : State) (k : GKey) (g : Group) : (s.setGroup k g).freeCtr = s.freeCtr := rfl
@[simp] theorem State.setGroup_resets (s : State) (k : GKey) (g : Group) : (s.setGroup k g).resets = s.resets := rfl
@[simp] theorem State.setGroup_phase (s : State) (k : GKey) (g : Group) : (s.setGroup k g).phase = s.phase := rfl
@[simp] theorem State.setGroup_chipId (s : State) (k : GKey) (g : Group) : (s.setGroup k g).chipId = s.chipId := rfl
@[simp] theorem State.setGroup_migratePolicy (s : State) (k : GKey) (g : Group) : (s.setGroup k g).migratePolicy = s.migratePolicy := rfl
@[simp] theorem State.setGroup_stubIdle (s : State) (k : GKey) (g : Group) : (s.setGroup k g).stubIdle = s.stubIdle := rfl
@[simp] theorem State.setGroup_pinGrace (s : State) (k : GKey) (g : Group) : (s.setGroup k g).pinGrace = s.pinGrace := rfl
@[simp] theorem State.setGroup_nextUid (s : State) (k : GKey) (g : Group) : (s.setGroup k g).nextUid = s.nextUid := rfl
@[simp] theorem State.setGroup_nextTxn (s : State) (k : GKey) (g : Group) : (s.setGroup k g).nextTxn = s.nextTxn := rfl
@[simp] theorem State.setGroup_nextOp (s : State) (k : GKey) (g : Group) : (s.setGroup k g).nextOp = s.nextOp := rfl
@[simp] theorem State.setGroup_lastSlot (s : State) (k : GKey) (g : Group) : (s.setGroup k g).lastSlot = s.lastSlot := rfl
@[simp] theorem State.setGroup_groups (s : State) (k : GKey) (g : Group) : (s.setGroup k g).groups = put s.groups k g := rfl
@[simp] theorem State.setGroup_blocks (s : State) (k : GKey) (g : Group) : (s.setGroup k g).blocks = s.blocks := rfl
@[simp] theorem State.setGroup_segs (s : State) (k : GKey) (g : Group) : (s.setGroup k g).segs = s.segs := rfl
@[simp] theorem State.setGroup_seqs (s : State) (k : GKey) (g : Group) : (s.setGroup k g).seqs = s.seqs := rfl
@[simp] theorem State.setGroup_slots (s : State) (k : GKey) (g : Group) : (s.setGroup k g).slots = s.slots := rfl
@[simp] theorem State.setGroup_txns (s : State) (k : GKey) (g : Group) : (s.setGroup k g).txns = s.txns := rfl
@[simp] theorem State.setGroup_ops (s : State) (k : GKey) (g : Group) : (s.setGroup k g).ops = s.ops := rfl
@[simp] theorem State.setGroup_mem (s : State) (k : GKey) (g : Group) : (s.setGroup k g).mem = s.mem := rfl
@[simp] theorem State.setGroup_poison (s : State) (k : GKey) (g : Group) : (s.setGroup k g).poison = s.poison := rfl
@[simp] theorem State.setGroup_flaws (s : State) (k : GKey) (g : Group) : (s.setGroup k g).flaws = s.flaws := rfl
@[simp] theorem State.setGroup_stale (s : State) (k : GKey) (g : Group) : (s.setGroup k g).stale = s.stale := rfl
@[simp] theorem State.setGroup_blur (s : State) (k : GKey) (g : Group) : (s.setGroup k g).blur = s.blur := rfl
@[simp] theorem State.setGroup_far (s : State) (k : GKey) (g : Group) : (s.setGroup k g).far = s.far := rfl
@[simp] theorem State.setGroup_l1 (s : State) (k : GKey) (g : Group) : (s.setGroup k g).l1 = s.l1 := rfl
@[simp] theorem State.setGroup_lx (s : State) (k : GKey) (g : Group) : (s.setGroup k g).lx = s.lx := rfl
@[simp] theorem State.setGroup_regions (s : State) (k : GKey) (g : Group) : (s.setGroup k g).regions = s.regions := rfl
@[simp] theorem State.setGroup_versions (s : State) (k : GKey) (g : Group) : (s.setGroup k g).versions = s.versions := rfl
@[simp] theorem State.setGroup_held (s : State) (k : GKey) (g : Group) : (s.setGroup k g).held = s.held := rfl
@[simp] theorem State.setGroup_nextSerial (s : State) (k : GKey) (g : Group) : (s.setGroup k g).nextSerial = s.nextSerial := rfl
@[simp] theorem State.setGroup_nextFrame (s : State) (k : GKey) (g : Group) : (s.setGroup k g).nextFrame = s.nextFrame := rfl
@[simp] theorem State.setGroup_granary (s : State) (k : GKey) (g : Group) : (s.setGroup k g).granary = s.granary := rfl
@[simp] theorem State.setGroup_objs (s : State) (k : GKey) (g : Group) : (s.setGroup k g).objs = s.objs := rfl
@[simp] theorem State.setGroup_incoming (s : State) (k : GKey) (g : Group) : (s.setGroup k g).incoming = s.incoming := rfl
@[simp] theorem State.setGroup_revokes (s : State) (k : GKey) (g : Group) : (s.setGroup k g).revokes = s.revokes := rfl
@[simp] theorem State.setGroup_locator (s : State) (k : GKey) (g : Group) : (s.setGroup k g).locator = s.locator := rfl
@[simp] theorem State.setGroup_stubs (s : State) (k : GKey) (g : Group) : (s.setGroup k g).stubs = s.stubs := rfl
@[simp] theorem State.setGroup_hold (s : State) (k : GKey) (g : Group) : (s.setGroup k g).hold = s.hold := rfl
@[simp] theorem State.setGroup_halvedAt (s : State) (k : GKey) (g : Group) : (s.setGroup k g).halvedAt = s.halvedAt := rfl
@[simp] theorem State.setGroup_tasks (s : State) (k : GKey) (g : Group) : (s.setGroup k g).tasks = s.tasks := rfl
@[simp] theorem State.setGroup_events (s : State) (k : GKey) (g : Group) : (s.setGroup k g).events = s.events := rfl
@[simp] theorem State.setGroup_pendingEvents (s : State) (k : GKey) (g : Group) : (s.setGroup k g).pendingEvents = s.pendingEvents := rfl
@[simp] theorem State.setGroup_nextSeq (s : State) (k : GKey) (g : Group) : (s.setGroup k g).nextSeq = s.nextSeq := rfl
@[simp] theorem State.setGroup_dropped (s : State) (k : GKey) (g : Group) : (s.setGroup k g).dropped = s.dropped := rfl
@[simp] theorem State.setGroup_fab (s : State) (k : GKey) (g : Group) : (s.setGroup k g).fab = s.fab := rfl
@[simp] theorem State.setGroup_channels (s : State) (k : GKey) (g : Group) : (s.setGroup k g).channels = s.channels := rfl
@[simp] theorem State.setGroup_hot (s : State) (k : GKey) (g : Group) : (s.setGroup k g).hot = s.hot := rfl
@[simp] theorem State.setGroup_host (s : State) (k : GKey) (g : Group) : (s.setGroup k g).host = s.host := rfl
@[simp] theorem State.setGroup_svc (s : State) (k : GKey) (g : Group) : (s.setGroup k g).svc = s.svc := rfl

@[simp] theorem State.onGroup_cur (s : State) (k : GKey) (f : Group → Group) : (s.onGroup k f).cur = s.cur := rfl
@[simp] theorem State.onGroup_arg (s : State) (k : GKey) (f : Group → Group) : (s.onGroup k f).arg = s.arg := rfl
@[simp] theorem State.onGroup_agenda (s : State) (k : GKey) (f : Group → Group) : (s.onGroup k f).agenda = s.agenda := rfl
@[simp] theorem State.onGroup_clock (s : State) (k : GKey) (f : Group → Group) : (s.onGroup k f).clock = s.clock := rfl
@[simp] theorem State.onGroup_ptimeOff (s : State) (k : GKey) (f : Group → Group) : (s.onGroup k f).ptimeOff = s.ptimeOff := rfl
@[simp] theorem State.onGroup_freeCtr (s : State) (k : GKey) (f : Group → Group) : (s.onGroup k f).freeCtr = s.freeCtr := rfl
@[simp] theorem State.onGroup_resets (s : State) (k : GKey) (f : Group → Group) : (s.onGroup k f).resets = s.resets := rfl
@[simp] theorem State.onGroup_phase (s : State) (k : GKey) (f : Group → Group) : (s.onGroup k f).phase = s.phase := rfl
@[simp] theorem State.onGroup_chipId (s : State) (k : GKey) (f : Group → Group) : (s.onGroup k f).chipId = s.chipId := rfl
@[simp] theorem State.onGroup_migratePolicy (s : State) (k : GKey) (f : Group → Group) : (s.onGroup k f).migratePolicy = s.migratePolicy := rfl
@[simp] theorem State.onGroup_stubIdle (s : State) (k : GKey) (f : Group → Group) : (s.onGroup k f).stubIdle = s.stubIdle := rfl
@[simp] theorem State.onGroup_pinGrace (s : State) (k : GKey) (f : Group → Group) : (s.onGroup k f).pinGrace = s.pinGrace := rfl
@[simp] theorem State.onGroup_nextUid (s : State) (k : GKey) (f : Group → Group) : (s.onGroup k f).nextUid = s.nextUid := rfl
@[simp] theorem State.onGroup_nextTxn (s : State) (k : GKey) (f : Group → Group) : (s.onGroup k f).nextTxn = s.nextTxn := rfl
@[simp] theorem State.onGroup_nextOp (s : State) (k : GKey) (f : Group → Group) : (s.onGroup k f).nextOp = s.nextOp := rfl
@[simp] theorem State.onGroup_lastSlot (s : State) (k : GKey) (f : Group → Group) : (s.onGroup k f).lastSlot = s.lastSlot := rfl
@[simp] theorem State.onGroup_groups (s : State) (k : GKey) (f : Group → Group) : (s.onGroup k f).groups = upd s.groups k f := rfl
@[simp] theorem State.onGroup_blocks (s : State) (k : GKey) (f : Group → Group) : (s.onGroup k f).blocks = s.blocks := rfl
@[simp] theorem State.onGroup_segs (s : State) (k : GKey) (f : Group → Group) : (s.onGroup k f).segs = s.segs := rfl
@[simp] theorem State.onGroup_seqs (s : State) (k : GKey) (f : Group → Group) : (s.onGroup k f).seqs = s.seqs := rfl
@[simp] theorem State.onGroup_slots (s : State) (k : GKey) (f : Group → Group) : (s.onGroup k f).slots = s.slots := rfl
@[simp] theorem State.onGroup_txns (s : State) (k : GKey) (f : Group → Group) : (s.onGroup k f).txns = s.txns := rfl
@[simp] theorem State.onGroup_ops (s : State) (k : GKey) (f : Group → Group) : (s.onGroup k f).ops = s.ops := rfl
@[simp] theorem State.onGroup_mem (s : State) (k : GKey) (f : Group → Group) : (s.onGroup k f).mem = s.mem := rfl
@[simp] theorem State.onGroup_poison (s : State) (k : GKey) (f : Group → Group) : (s.onGroup k f).poison = s.poison := rfl
@[simp] theorem State.onGroup_flaws (s : State) (k : GKey) (f : Group → Group) : (s.onGroup k f).flaws = s.flaws := rfl
@[simp] theorem State.onGroup_stale (s : State) (k : GKey) (f : Group → Group) : (s.onGroup k f).stale = s.stale := rfl
@[simp] theorem State.onGroup_blur (s : State) (k : GKey) (f : Group → Group) : (s.onGroup k f).blur = s.blur := rfl
@[simp] theorem State.onGroup_far (s : State) (k : GKey) (f : Group → Group) : (s.onGroup k f).far = s.far := rfl
@[simp] theorem State.onGroup_l1 (s : State) (k : GKey) (f : Group → Group) : (s.onGroup k f).l1 = s.l1 := rfl
@[simp] theorem State.onGroup_lx (s : State) (k : GKey) (f : Group → Group) : (s.onGroup k f).lx = s.lx := rfl
@[simp] theorem State.onGroup_regions (s : State) (k : GKey) (f : Group → Group) : (s.onGroup k f).regions = s.regions := rfl
@[simp] theorem State.onGroup_versions (s : State) (k : GKey) (f : Group → Group) : (s.onGroup k f).versions = s.versions := rfl
@[simp] theorem State.onGroup_held (s : State) (k : GKey) (f : Group → Group) : (s.onGroup k f).held = s.held := rfl
@[simp] theorem State.onGroup_nextSerial (s : State) (k : GKey) (f : Group → Group) : (s.onGroup k f).nextSerial = s.nextSerial := rfl
@[simp] theorem State.onGroup_nextFrame (s : State) (k : GKey) (f : Group → Group) : (s.onGroup k f).nextFrame = s.nextFrame := rfl
@[simp] theorem State.onGroup_granary (s : State) (k : GKey) (f : Group → Group) : (s.onGroup k f).granary = s.granary := rfl
@[simp] theorem State.onGroup_objs (s : State) (k : GKey) (f : Group → Group) : (s.onGroup k f).objs = s.objs := rfl
@[simp] theorem State.onGroup_incoming (s : State) (k : GKey) (f : Group → Group) : (s.onGroup k f).incoming = s.incoming := rfl
@[simp] theorem State.onGroup_revokes (s : State) (k : GKey) (f : Group → Group) : (s.onGroup k f).revokes = s.revokes := rfl
@[simp] theorem State.onGroup_locator (s : State) (k : GKey) (f : Group → Group) : (s.onGroup k f).locator = s.locator := rfl
@[simp] theorem State.onGroup_stubs (s : State) (k : GKey) (f : Group → Group) : (s.onGroup k f).stubs = s.stubs := rfl
@[simp] theorem State.onGroup_hold (s : State) (k : GKey) (f : Group → Group) : (s.onGroup k f).hold = s.hold := rfl
@[simp] theorem State.onGroup_halvedAt (s : State) (k : GKey) (f : Group → Group) : (s.onGroup k f).halvedAt = s.halvedAt := rfl
@[simp] theorem State.onGroup_tasks (s : State) (k : GKey) (f : Group → Group) : (s.onGroup k f).tasks = s.tasks := rfl
@[simp] theorem State.onGroup_events (s : State) (k : GKey) (f : Group → Group) : (s.onGroup k f).events = s.events := rfl
@[simp] theorem State.onGroup_pendingEvents (s : State) (k : GKey) (f : Group → Group) : (s.onGroup k f).pendingEvents = s.pendingEvents := rfl
@[simp] theorem State.onGroup_nextSeq (s : State) (k : GKey) (f : Group → Group) : (s.onGroup k f).nextSeq = s.nextSeq := rfl
@[simp] theorem State.onGroup_dropped (s : State) (k : GKey) (f : Group → Group) : (s.onGroup k f).dropped = s.dropped := rfl
@[simp] theorem State.onGroup_fab (s : State) (k : GKey) (f : Group → Group) : (s.onGroup k f).fab = s.fab := rfl
@[simp] theorem State.onGroup_channels (s : State) (k : GKey) (f : Group → Group) : (s.onGroup k f).channels = s.channels := rfl
@[simp] theorem State.onGroup_hot (s : State) (k : GKey) (f : Group → Group) : (s.onGroup k f).hot = s.hot := rfl
@[simp] theorem State.onGroup_host (s : State) (k : GKey) (f : Group → Group) : (s.onGroup k f).host = s.host := rfl
@[simp] theorem State.onGroup_svc (s : State) (k : GKey) (f : Group → Group) : (s.onGroup k f).svc = s.svc := rfl

@[simp] theorem State.onSeq_cur (s : State) (q : QKey) (f : Sequencer → Sequencer) : (s.onSeq q f).cur = s.cur := rfl
@[simp] theorem State.onSeq_arg (s : State) (q : QKey) (f : Sequencer → Sequencer) : (s.onSeq q f).arg = s.arg := rfl
@[simp] theorem State.onSeq_agenda (s : State) (q : QKey) (f : Sequencer → Sequencer) : (s.onSeq q f).agenda = s.agenda := rfl
@[simp] theorem State.onSeq_clock (s : State) (q : QKey) (f : Sequencer → Sequencer) : (s.onSeq q f).clock = s.clock := rfl
@[simp] theorem State.onSeq_ptimeOff (s : State) (q : QKey) (f : Sequencer → Sequencer) : (s.onSeq q f).ptimeOff = s.ptimeOff := rfl
@[simp] theorem State.onSeq_freeCtr (s : State) (q : QKey) (f : Sequencer → Sequencer) : (s.onSeq q f).freeCtr = s.freeCtr := rfl
@[simp] theorem State.onSeq_resets (s : State) (q : QKey) (f : Sequencer → Sequencer) : (s.onSeq q f).resets = s.resets := rfl
@[simp] theorem State.onSeq_phase (s : State) (q : QKey) (f : Sequencer → Sequencer) : (s.onSeq q f).phase = s.phase := rfl
@[simp] theorem State.onSeq_chipId (s : State) (q : QKey) (f : Sequencer → Sequencer) : (s.onSeq q f).chipId = s.chipId := rfl
@[simp] theorem State.onSeq_migratePolicy (s : State) (q : QKey) (f : Sequencer → Sequencer) : (s.onSeq q f).migratePolicy = s.migratePolicy := rfl
@[simp] theorem State.onSeq_stubIdle (s : State) (q : QKey) (f : Sequencer → Sequencer) : (s.onSeq q f).stubIdle = s.stubIdle := rfl
@[simp] theorem State.onSeq_pinGrace (s : State) (q : QKey) (f : Sequencer → Sequencer) : (s.onSeq q f).pinGrace = s.pinGrace := rfl
@[simp] theorem State.onSeq_nextUid (s : State) (q : QKey) (f : Sequencer → Sequencer) : (s.onSeq q f).nextUid = s.nextUid := rfl
@[simp] theorem State.onSeq_nextTxn (s : State) (q : QKey) (f : Sequencer → Sequencer) : (s.onSeq q f).nextTxn = s.nextTxn := rfl
@[simp] theorem State.onSeq_nextOp (s : State) (q : QKey) (f : Sequencer → Sequencer) : (s.onSeq q f).nextOp = s.nextOp := rfl
@[simp] theorem State.onSeq_lastSlot (s : State) (q : QKey) (f : Sequencer → Sequencer) : (s.onSeq q f).lastSlot = s.lastSlot := rfl
@[simp] theorem State.onSeq_groups (s : State) (q : QKey) (f : Sequencer → Sequencer) : (s.onSeq q f).groups = s.groups := rfl
@[simp] theorem State.onSeq_blocks (s : State) (q : QKey) (f : Sequencer → Sequencer) : (s.onSeq q f).blocks = s.blocks := rfl
@[simp] theorem State.onSeq_segs (s : State) (q : QKey) (f : Sequencer → Sequencer) : (s.onSeq q f).segs = s.segs := rfl
@[simp] theorem State.onSeq_seqs (s : State) (q : QKey) (f : Sequencer → Sequencer) : (s.onSeq q f).seqs = upd s.seqs q f := rfl
@[simp] theorem State.onSeq_slots (s : State) (q : QKey) (f : Sequencer → Sequencer) : (s.onSeq q f).slots = s.slots := rfl
@[simp] theorem State.onSeq_txns (s : State) (q : QKey) (f : Sequencer → Sequencer) : (s.onSeq q f).txns = s.txns := rfl
@[simp] theorem State.onSeq_ops (s : State) (q : QKey) (f : Sequencer → Sequencer) : (s.onSeq q f).ops = s.ops := rfl
@[simp] theorem State.onSeq_mem (s : State) (q : QKey) (f : Sequencer → Sequencer) : (s.onSeq q f).mem = s.mem := rfl
@[simp] theorem State.onSeq_poison (s : State) (q : QKey) (f : Sequencer → Sequencer) : (s.onSeq q f).poison = s.poison := rfl
@[simp] theorem State.onSeq_flaws (s : State) (q : QKey) (f : Sequencer → Sequencer) : (s.onSeq q f).flaws = s.flaws := rfl
@[simp] theorem State.onSeq_stale (s : State) (q : QKey) (f : Sequencer → Sequencer) : (s.onSeq q f).stale = s.stale := rfl
@[simp] theorem State.onSeq_blur (s : State) (q : QKey) (f : Sequencer → Sequencer) : (s.onSeq q f).blur = s.blur := rfl
@[simp] theorem State.onSeq_far (s : State) (q : QKey) (f : Sequencer → Sequencer) : (s.onSeq q f).far = s.far := rfl
@[simp] theorem State.onSeq_l1 (s : State) (q : QKey) (f : Sequencer → Sequencer) : (s.onSeq q f).l1 = s.l1 := rfl
@[simp] theorem State.onSeq_lx (s : State) (q : QKey) (f : Sequencer → Sequencer) : (s.onSeq q f).lx = s.lx := rfl
@[simp] theorem State.onSeq_regions (s : State) (q : QKey) (f : Sequencer → Sequencer) : (s.onSeq q f).regions = s.regions := rfl
@[simp] theorem State.onSeq_versions (s : State) (q : QKey) (f : Sequencer → Sequencer) : (s.onSeq q f).versions = s.versions := rfl
@[simp] theorem State.onSeq_held (s : State) (q : QKey) (f : Sequencer → Sequencer) : (s.onSeq q f).held = s.held := rfl
@[simp] theorem State.onSeq_nextSerial (s : State) (q : QKey) (f : Sequencer → Sequencer) : (s.onSeq q f).nextSerial = s.nextSerial := rfl
@[simp] theorem State.onSeq_nextFrame (s : State) (q : QKey) (f : Sequencer → Sequencer) : (s.onSeq q f).nextFrame = s.nextFrame := rfl
@[simp] theorem State.onSeq_granary (s : State) (q : QKey) (f : Sequencer → Sequencer) : (s.onSeq q f).granary = s.granary := rfl
@[simp] theorem State.onSeq_objs (s : State) (q : QKey) (f : Sequencer → Sequencer) : (s.onSeq q f).objs = s.objs := rfl
@[simp] theorem State.onSeq_incoming (s : State) (q : QKey) (f : Sequencer → Sequencer) : (s.onSeq q f).incoming = s.incoming := rfl
@[simp] theorem State.onSeq_revokes (s : State) (q : QKey) (f : Sequencer → Sequencer) : (s.onSeq q f).revokes = s.revokes := rfl
@[simp] theorem State.onSeq_locator (s : State) (q : QKey) (f : Sequencer → Sequencer) : (s.onSeq q f).locator = s.locator := rfl
@[simp] theorem State.onSeq_stubs (s : State) (q : QKey) (f : Sequencer → Sequencer) : (s.onSeq q f).stubs = s.stubs := rfl
@[simp] theorem State.onSeq_hold (s : State) (q : QKey) (f : Sequencer → Sequencer) : (s.onSeq q f).hold = s.hold := rfl
@[simp] theorem State.onSeq_halvedAt (s : State) (q : QKey) (f : Sequencer → Sequencer) : (s.onSeq q f).halvedAt = s.halvedAt := rfl
@[simp] theorem State.onSeq_tasks (s : State) (q : QKey) (f : Sequencer → Sequencer) : (s.onSeq q f).tasks = s.tasks := rfl
@[simp] theorem State.onSeq_events (s : State) (q : QKey) (f : Sequencer → Sequencer) : (s.onSeq q f).events = s.events := rfl
@[simp] theorem State.onSeq_pendingEvents (s : State) (q : QKey) (f : Sequencer → Sequencer) : (s.onSeq q f).pendingEvents = s.pendingEvents := rfl
@[simp] theorem State.onSeq_nextSeq (s : State) (q : QKey) (f : Sequencer → Sequencer) : (s.onSeq q f).nextSeq = s.nextSeq := rfl
@[simp] theorem State.onSeq_dropped (s : State) (q : QKey) (f : Sequencer → Sequencer) : (s.onSeq q f).dropped = s.dropped := rfl
@[simp] theorem State.onSeq_fab (s : State) (q : QKey) (f : Sequencer → Sequencer) : (s.onSeq q f).fab = s.fab := rfl
@[simp] theorem State.onSeq_channels (s : State) (q : QKey) (f : Sequencer → Sequencer) : (s.onSeq q f).channels = s.channels := rfl
@[simp] theorem State.onSeq_hot (s : State) (q : QKey) (f : Sequencer → Sequencer) : (s.onSeq q f).hot = s.hot := rfl
@[simp] theorem State.onSeq_host (s : State) (q : QKey) (f : Sequencer → Sequencer) : (s.onSeq q f).host = s.host := rfl
@[simp] theorem State.onSeq_svc (s : State) (q : QKey) (f : Sequencer → Sequencer) : (s.onSeq q f).svc = s.svc := rfl

@[simp] theorem State.onBlock_cur (s : State) (b : Nat) (f : Block → Block) : (s.onBlock b f).cur = s.cur := rfl
@[simp] theorem State.onBlock_arg (s : State) (b : Nat) (f : Block → Block) : (s.onBlock b f).arg = s.arg := rfl
@[simp] theorem State.onBlock_agenda (s : State) (b : Nat) (f : Block → Block) : (s.onBlock b f).agenda = s.agenda := rfl
@[simp] theorem State.onBlock_clock (s : State) (b : Nat) (f : Block → Block) : (s.onBlock b f).clock = s.clock := rfl
@[simp] theorem State.onBlock_ptimeOff (s : State) (b : Nat) (f : Block → Block) : (s.onBlock b f).ptimeOff = s.ptimeOff := rfl
@[simp] theorem State.onBlock_freeCtr (s : State) (b : Nat) (f : Block → Block) : (s.onBlock b f).freeCtr = s.freeCtr := rfl
@[simp] theorem State.onBlock_resets (s : State) (b : Nat) (f : Block → Block) : (s.onBlock b f).resets = s.resets := rfl
@[simp] theorem State.onBlock_phase (s : State) (b : Nat) (f : Block → Block) : (s.onBlock b f).phase = s.phase := rfl
@[simp] theorem State.onBlock_chipId (s : State) (b : Nat) (f : Block → Block) : (s.onBlock b f).chipId = s.chipId := rfl
@[simp] theorem State.onBlock_migratePolicy (s : State) (b : Nat) (f : Block → Block) : (s.onBlock b f).migratePolicy = s.migratePolicy := rfl
@[simp] theorem State.onBlock_stubIdle (s : State) (b : Nat) (f : Block → Block) : (s.onBlock b f).stubIdle = s.stubIdle := rfl
@[simp] theorem State.onBlock_pinGrace (s : State) (b : Nat) (f : Block → Block) : (s.onBlock b f).pinGrace = s.pinGrace := rfl
@[simp] theorem State.onBlock_nextUid (s : State) (b : Nat) (f : Block → Block) : (s.onBlock b f).nextUid = s.nextUid := rfl
@[simp] theorem State.onBlock_nextTxn (s : State) (b : Nat) (f : Block → Block) : (s.onBlock b f).nextTxn = s.nextTxn := rfl
@[simp] theorem State.onBlock_nextOp (s : State) (b : Nat) (f : Block → Block) : (s.onBlock b f).nextOp = s.nextOp := rfl
@[simp] theorem State.onBlock_lastSlot (s : State) (b : Nat) (f : Block → Block) : (s.onBlock b f).lastSlot = s.lastSlot := rfl
@[simp] theorem State.onBlock_groups (s : State) (b : Nat) (f : Block → Block) : (s.onBlock b f).groups = s.groups := rfl
@[simp] theorem State.onBlock_blocks (s : State) (b : Nat) (f : Block → Block) : (s.onBlock b f).blocks = upd s.blocks b f := rfl
@[simp] theorem State.onBlock_segs (s : State) (b : Nat) (f : Block → Block) : (s.onBlock b f).segs = s.segs := rfl
@[simp] theorem State.onBlock_seqs (s : State) (b : Nat) (f : Block → Block) : (s.onBlock b f).seqs = s.seqs := rfl
@[simp] theorem State.onBlock_slots (s : State) (b : Nat) (f : Block → Block) : (s.onBlock b f).slots = s.slots := rfl
@[simp] theorem State.onBlock_txns (s : State) (b : Nat) (f : Block → Block) : (s.onBlock b f).txns = s.txns := rfl
@[simp] theorem State.onBlock_ops (s : State) (b : Nat) (f : Block → Block) : (s.onBlock b f).ops = s.ops := rfl
@[simp] theorem State.onBlock_mem (s : State) (b : Nat) (f : Block → Block) : (s.onBlock b f).mem = s.mem := rfl
@[simp] theorem State.onBlock_poison (s : State) (b : Nat) (f : Block → Block) : (s.onBlock b f).poison = s.poison := rfl
@[simp] theorem State.onBlock_flaws (s : State) (b : Nat) (f : Block → Block) : (s.onBlock b f).flaws = s.flaws := rfl
@[simp] theorem State.onBlock_stale (s : State) (b : Nat) (f : Block → Block) : (s.onBlock b f).stale = s.stale := rfl
@[simp] theorem State.onBlock_blur (s : State) (b : Nat) (f : Block → Block) : (s.onBlock b f).blur = s.blur := rfl
@[simp] theorem State.onBlock_far (s : State) (b : Nat) (f : Block → Block) : (s.onBlock b f).far = s.far := rfl
@[simp] theorem State.onBlock_l1 (s : State) (b : Nat) (f : Block → Block) : (s.onBlock b f).l1 = s.l1 := rfl
@[simp] theorem State.onBlock_lx (s : State) (b : Nat) (f : Block → Block) : (s.onBlock b f).lx = s.lx := rfl
@[simp] theorem State.onBlock_regions (s : State) (b : Nat) (f : Block → Block) : (s.onBlock b f).regions = s.regions := rfl
@[simp] theorem State.onBlock_versions (s : State) (b : Nat) (f : Block → Block) : (s.onBlock b f).versions = s.versions := rfl
@[simp] theorem State.onBlock_held (s : State) (b : Nat) (f : Block → Block) : (s.onBlock b f).held = s.held := rfl
@[simp] theorem State.onBlock_nextSerial (s : State) (b : Nat) (f : Block → Block) : (s.onBlock b f).nextSerial = s.nextSerial := rfl
@[simp] theorem State.onBlock_nextFrame (s : State) (b : Nat) (f : Block → Block) : (s.onBlock b f).nextFrame = s.nextFrame := rfl
@[simp] theorem State.onBlock_granary (s : State) (b : Nat) (f : Block → Block) : (s.onBlock b f).granary = s.granary := rfl
@[simp] theorem State.onBlock_objs (s : State) (b : Nat) (f : Block → Block) : (s.onBlock b f).objs = s.objs := rfl
@[simp] theorem State.onBlock_incoming (s : State) (b : Nat) (f : Block → Block) : (s.onBlock b f).incoming = s.incoming := rfl
@[simp] theorem State.onBlock_revokes (s : State) (b : Nat) (f : Block → Block) : (s.onBlock b f).revokes = s.revokes := rfl
@[simp] theorem State.onBlock_locator (s : State) (b : Nat) (f : Block → Block) : (s.onBlock b f).locator = s.locator := rfl
@[simp] theorem State.onBlock_stubs (s : State) (b : Nat) (f : Block → Block) : (s.onBlock b f).stubs = s.stubs := rfl
@[simp] theorem State.onBlock_hold (s : State) (b : Nat) (f : Block → Block) : (s.onBlock b f).hold = s.hold := rfl
@[simp] theorem State.onBlock_halvedAt (s : State) (b : Nat) (f : Block → Block) : (s.onBlock b f).halvedAt = s.halvedAt := rfl
@[simp] theorem State.onBlock_tasks (s : State) (b : Nat) (f : Block → Block) : (s.onBlock b f).tasks = s.tasks := rfl
@[simp] theorem State.onBlock_events (s : State) (b : Nat) (f : Block → Block) : (s.onBlock b f).events = s.events := rfl
@[simp] theorem State.onBlock_pendingEvents (s : State) (b : Nat) (f : Block → Block) : (s.onBlock b f).pendingEvents = s.pendingEvents := rfl
@[simp] theorem State.onBlock_nextSeq (s : State) (b : Nat) (f : Block → Block) : (s.onBlock b f).nextSeq = s.nextSeq := rfl
@[simp] theorem State.onBlock_dropped (s : State) (b : Nat) (f : Block → Block) : (s.onBlock b f).dropped = s.dropped := rfl
@[simp] theorem State.onBlock_fab (s : State) (b : Nat) (f : Block → Block) : (s.onBlock b f).fab = s.fab := rfl
@[simp] theorem State.onBlock_channels (s : State) (b : Nat) (f : Block → Block) : (s.onBlock b f).channels = s.channels := rfl
@[simp] theorem State.onBlock_hot (s : State) (b : Nat) (f : Block → Block) : (s.onBlock b f).hot = s.hot := rfl
@[simp] theorem State.onBlock_host (s : State) (b : Nat) (f : Block → Block) : (s.onBlock b f).host = s.host := rfl
@[simp] theorem State.onBlock_svc (s : State) (b : Nat) (f : Block → Block) : (s.onBlock b f).svc = s.svc := rfl

@[simp] theorem State.onSeg_cur (s : State) (k : SKey) (f : Segment → Segment) : (s.onSeg k f).cur = s.cur := rfl
@[simp] theorem State.onSeg_arg (s : State) (k : SKey) (f : Segment → Segment) : (s.onSeg k f).arg = s.arg := rfl
@[simp] theorem State.onSeg_agenda (s : State) (k : SKey) (f : Segment → Segment) : (s.onSeg k f).agenda = s.agenda := rfl
@[simp] theorem State.onSeg_clock (s : State) (k : SKey) (f : Segment → Segment) : (s.onSeg k f).clock = s.clock := rfl
@[simp] theorem State.onSeg_ptimeOff (s : State) (k : SKey) (f : Segment → Segment) : (s.onSeg k f).ptimeOff = s.ptimeOff := rfl
@[simp] theorem State.onSeg_freeCtr (s : State) (k : SKey) (f : Segment → Segment) : (s.onSeg k f).freeCtr = s.freeCtr := rfl
@[simp] theorem State.onSeg_resets (s : State) (k : SKey) (f : Segment → Segment) : (s.onSeg k f).resets = s.resets := rfl
@[simp] theorem State.onSeg_phase (s : State) (k : SKey) (f : Segment → Segment) : (s.onSeg k f).phase = s.phase := rfl
@[simp] theorem State.onSeg_chipId (s : State) (k : SKey) (f : Segment → Segment) : (s.onSeg k f).chipId = s.chipId := rfl
@[simp] theorem State.onSeg_migratePolicy (s : State) (k : SKey) (f : Segment → Segment) : (s.onSeg k f).migratePolicy = s.migratePolicy := rfl
@[simp] theorem State.onSeg_stubIdle (s : State) (k : SKey) (f : Segment → Segment) : (s.onSeg k f).stubIdle = s.stubIdle := rfl
@[simp] theorem State.onSeg_pinGrace (s : State) (k : SKey) (f : Segment → Segment) : (s.onSeg k f).pinGrace = s.pinGrace := rfl
@[simp] theorem State.onSeg_nextUid (s : State) (k : SKey) (f : Segment → Segment) : (s.onSeg k f).nextUid = s.nextUid := rfl
@[simp] theorem State.onSeg_nextTxn (s : State) (k : SKey) (f : Segment → Segment) : (s.onSeg k f).nextTxn = s.nextTxn := rfl
@[simp] theorem State.onSeg_nextOp (s : State) (k : SKey) (f : Segment → Segment) : (s.onSeg k f).nextOp = s.nextOp := rfl
@[simp] theorem State.onSeg_lastSlot (s : State) (k : SKey) (f : Segment → Segment) : (s.onSeg k f).lastSlot = s.lastSlot := rfl
@[simp] theorem State.onSeg_groups (s : State) (k : SKey) (f : Segment → Segment) : (s.onSeg k f).groups = s.groups := rfl
@[simp] theorem State.onSeg_blocks (s : State) (k : SKey) (f : Segment → Segment) : (s.onSeg k f).blocks = s.blocks := rfl
@[simp] theorem State.onSeg_segs (s : State) (k : SKey) (f : Segment → Segment) : (s.onSeg k f).segs = upd s.segs k f := rfl
@[simp] theorem State.onSeg_seqs (s : State) (k : SKey) (f : Segment → Segment) : (s.onSeg k f).seqs = s.seqs := rfl
@[simp] theorem State.onSeg_slots (s : State) (k : SKey) (f : Segment → Segment) : (s.onSeg k f).slots = s.slots := rfl
@[simp] theorem State.onSeg_txns (s : State) (k : SKey) (f : Segment → Segment) : (s.onSeg k f).txns = s.txns := rfl
@[simp] theorem State.onSeg_ops (s : State) (k : SKey) (f : Segment → Segment) : (s.onSeg k f).ops = s.ops := rfl
@[simp] theorem State.onSeg_mem (s : State) (k : SKey) (f : Segment → Segment) : (s.onSeg k f).mem = s.mem := rfl
@[simp] theorem State.onSeg_poison (s : State) (k : SKey) (f : Segment → Segment) : (s.onSeg k f).poison = s.poison := rfl
@[simp] theorem State.onSeg_flaws (s : State) (k : SKey) (f : Segment → Segment) : (s.onSeg k f).flaws = s.flaws := rfl
@[simp] theorem State.onSeg_stale (s : State) (k : SKey) (f : Segment → Segment) : (s.onSeg k f).stale = s.stale := rfl
@[simp] theorem State.onSeg_blur (s : State) (k : SKey) (f : Segment → Segment) : (s.onSeg k f).blur = s.blur := rfl
@[simp] theorem State.onSeg_far (s : State) (k : SKey) (f : Segment → Segment) : (s.onSeg k f).far = s.far := rfl
@[simp] theorem State.onSeg_l1 (s : State) (k : SKey) (f : Segment → Segment) : (s.onSeg k f).l1 = s.l1 := rfl
@[simp] theorem State.onSeg_lx (s : State) (k : SKey) (f : Segment → Segment) : (s.onSeg k f).lx = s.lx := rfl
@[simp] theorem State.onSeg_regions (s : State) (k : SKey) (f : Segment → Segment) : (s.onSeg k f).regions = s.regions := rfl
@[simp] theorem State.onSeg_versions (s : State) (k : SKey) (f : Segment → Segment) : (s.onSeg k f).versions = s.versions := rfl
@[simp] theorem State.onSeg_held (s : State) (k : SKey) (f : Segment → Segment) : (s.onSeg k f).held = s.held := rfl
@[simp] theorem State.onSeg_nextSerial (s : State) (k : SKey) (f : Segment → Segment) : (s.onSeg k f).nextSerial = s.nextSerial := rfl
@[simp] theorem State.onSeg_nextFrame (s : State) (k : SKey) (f : Segment → Segment) : (s.onSeg k f).nextFrame = s.nextFrame := rfl
@[simp] theorem State.onSeg_granary (s : State) (k : SKey) (f : Segment → Segment) : (s.onSeg k f).granary = s.granary := rfl
@[simp] theorem State.onSeg_objs (s : State) (k : SKey) (f : Segment → Segment) : (s.onSeg k f).objs = s.objs := rfl
@[simp] theorem State.onSeg_incoming (s : State) (k : SKey) (f : Segment → Segment) : (s.onSeg k f).incoming = s.incoming := rfl
@[simp] theorem State.onSeg_revokes (s : State) (k : SKey) (f : Segment → Segment) : (s.onSeg k f).revokes = s.revokes := rfl
@[simp] theorem State.onSeg_locator (s : State) (k : SKey) (f : Segment → Segment) : (s.onSeg k f).locator = s.locator := rfl
@[simp] theorem State.onSeg_stubs (s : State) (k : SKey) (f : Segment → Segment) : (s.onSeg k f).stubs = s.stubs := rfl
@[simp] theorem State.onSeg_hold (s : State) (k : SKey) (f : Segment → Segment) : (s.onSeg k f).hold = s.hold := rfl
@[simp] theorem State.onSeg_halvedAt (s : State) (k : SKey) (f : Segment → Segment) : (s.onSeg k f).halvedAt = s.halvedAt := rfl
@[simp] theorem State.onSeg_tasks (s : State) (k : SKey) (f : Segment → Segment) : (s.onSeg k f).tasks = s.tasks := rfl
@[simp] theorem State.onSeg_events (s : State) (k : SKey) (f : Segment → Segment) : (s.onSeg k f).events = s.events := rfl
@[simp] theorem State.onSeg_pendingEvents (s : State) (k : SKey) (f : Segment → Segment) : (s.onSeg k f).pendingEvents = s.pendingEvents := rfl
@[simp] theorem State.onSeg_nextSeq (s : State) (k : SKey) (f : Segment → Segment) : (s.onSeg k f).nextSeq = s.nextSeq := rfl
@[simp] theorem State.onSeg_dropped (s : State) (k : SKey) (f : Segment → Segment) : (s.onSeg k f).dropped = s.dropped := rfl
@[simp] theorem State.onSeg_fab (s : State) (k : SKey) (f : Segment → Segment) : (s.onSeg k f).fab = s.fab := rfl
@[simp] theorem State.onSeg_channels (s : State) (k : SKey) (f : Segment → Segment) : (s.onSeg k f).channels = s.channels := rfl
@[simp] theorem State.onSeg_hot (s : State) (k : SKey) (f : Segment → Segment) : (s.onSeg k f).hot = s.hot := rfl
@[simp] theorem State.onSeg_host (s : State) (k : SKey) (f : Segment → Segment) : (s.onSeg k f).host = s.host := rfl
@[simp] theorem State.onSeg_svc (s : State) (k : SKey) (f : Segment → Segment) : (s.onSeg k f).svc = s.svc := rfl

@[simp] theorem State.onOp_cur (s : State) (o : Nat) (f : Op → Op) : (s.onOp o f).cur = s.cur := rfl
@[simp] theorem State.onOp_arg (s : State) (o : Nat) (f : Op → Op) : (s.onOp o f).arg = s.arg := rfl
@[simp] theorem State.onOp_agenda (s : State) (o : Nat) (f : Op → Op) : (s.onOp o f).agenda = s.agenda := rfl
@[simp] theorem State.onOp_clock (s : State) (o : Nat) (f : Op → Op) : (s.onOp o f).clock = s.clock := rfl
@[simp] theorem State.onOp_ptimeOff (s : State) (o : Nat) (f : Op → Op) : (s.onOp o f).ptimeOff = s.ptimeOff := rfl
@[simp] theorem State.onOp_freeCtr (s : State) (o : Nat) (f : Op → Op) : (s.onOp o f).freeCtr = s.freeCtr := rfl
@[simp] theorem State.onOp_resets (s : State) (o : Nat) (f : Op → Op) : (s.onOp o f).resets = s.resets := rfl
@[simp] theorem State.onOp_phase (s : State) (o : Nat) (f : Op → Op) : (s.onOp o f).phase = s.phase := rfl
@[simp] theorem State.onOp_chipId (s : State) (o : Nat) (f : Op → Op) : (s.onOp o f).chipId = s.chipId := rfl
@[simp] theorem State.onOp_migratePolicy (s : State) (o : Nat) (f : Op → Op) : (s.onOp o f).migratePolicy = s.migratePolicy := rfl
@[simp] theorem State.onOp_stubIdle (s : State) (o : Nat) (f : Op → Op) : (s.onOp o f).stubIdle = s.stubIdle := rfl
@[simp] theorem State.onOp_pinGrace (s : State) (o : Nat) (f : Op → Op) : (s.onOp o f).pinGrace = s.pinGrace := rfl
@[simp] theorem State.onOp_nextUid (s : State) (o : Nat) (f : Op → Op) : (s.onOp o f).nextUid = s.nextUid := rfl
@[simp] theorem State.onOp_nextTxn (s : State) (o : Nat) (f : Op → Op) : (s.onOp o f).nextTxn = s.nextTxn := rfl
@[simp] theorem State.onOp_nextOp (s : State) (o : Nat) (f : Op → Op) : (s.onOp o f).nextOp = s.nextOp := rfl
@[simp] theorem State.onOp_lastSlot (s : State) (o : Nat) (f : Op → Op) : (s.onOp o f).lastSlot = s.lastSlot := rfl
@[simp] theorem State.onOp_groups (s : State) (o : Nat) (f : Op → Op) : (s.onOp o f).groups = s.groups := rfl
@[simp] theorem State.onOp_blocks (s : State) (o : Nat) (f : Op → Op) : (s.onOp o f).blocks = s.blocks := rfl
@[simp] theorem State.onOp_segs (s : State) (o : Nat) (f : Op → Op) : (s.onOp o f).segs = s.segs := rfl
@[simp] theorem State.onOp_seqs (s : State) (o : Nat) (f : Op → Op) : (s.onOp o f).seqs = s.seqs := rfl
@[simp] theorem State.onOp_slots (s : State) (o : Nat) (f : Op → Op) : (s.onOp o f).slots = s.slots := rfl
@[simp] theorem State.onOp_txns (s : State) (o : Nat) (f : Op → Op) : (s.onOp o f).txns = s.txns := rfl
@[simp] theorem State.onOp_ops (s : State) (o : Nat) (f : Op → Op) : (s.onOp o f).ops = upd s.ops o f := rfl
@[simp] theorem State.onOp_mem (s : State) (o : Nat) (f : Op → Op) : (s.onOp o f).mem = s.mem := rfl
@[simp] theorem State.onOp_poison (s : State) (o : Nat) (f : Op → Op) : (s.onOp o f).poison = s.poison := rfl
@[simp] theorem State.onOp_flaws (s : State) (o : Nat) (f : Op → Op) : (s.onOp o f).flaws = s.flaws := rfl
@[simp] theorem State.onOp_stale (s : State) (o : Nat) (f : Op → Op) : (s.onOp o f).stale = s.stale := rfl
@[simp] theorem State.onOp_blur (s : State) (o : Nat) (f : Op → Op) : (s.onOp o f).blur = s.blur := rfl
@[simp] theorem State.onOp_far (s : State) (o : Nat) (f : Op → Op) : (s.onOp o f).far = s.far := rfl
@[simp] theorem State.onOp_l1 (s : State) (o : Nat) (f : Op → Op) : (s.onOp o f).l1 = s.l1 := rfl
@[simp] theorem State.onOp_lx (s : State) (o : Nat) (f : Op → Op) : (s.onOp o f).lx = s.lx := rfl
@[simp] theorem State.onOp_regions (s : State) (o : Nat) (f : Op → Op) : (s.onOp o f).regions = s.regions := rfl
@[simp] theorem State.onOp_versions (s : State) (o : Nat) (f : Op → Op) : (s.onOp o f).versions = s.versions := rfl
@[simp] theorem State.onOp_held (s : State) (o : Nat) (f : Op → Op) : (s.onOp o f).held = s.held := rfl
@[simp] theorem State.onOp_nextSerial (s : State) (o : Nat) (f : Op → Op) : (s.onOp o f).nextSerial = s.nextSerial := rfl
@[simp] theorem State.onOp_nextFrame (s : State) (o : Nat) (f : Op → Op) : (s.onOp o f).nextFrame = s.nextFrame := rfl
@[simp] theorem State.onOp_granary (s : State) (o : Nat) (f : Op → Op) : (s.onOp o f).granary = s.granary := rfl
@[simp] theorem State.onOp_objs (s : State) (o : Nat) (f : Op → Op) : (s.onOp o f).objs = s.objs := rfl
@[simp] theorem State.onOp_incoming (s : State) (o : Nat) (f : Op → Op) : (s.onOp o f).incoming = s.incoming := rfl
@[simp] theorem State.onOp_revokes (s : State) (o : Nat) (f : Op → Op) : (s.onOp o f).revokes = s.revokes := rfl
@[simp] theorem State.onOp_locator (s : State) (o : Nat) (f : Op → Op) : (s.onOp o f).locator = s.locator := rfl
@[simp] theorem State.onOp_stubs (s : State) (o : Nat) (f : Op → Op) : (s.onOp o f).stubs = s.stubs := rfl
@[simp] theorem State.onOp_hold (s : State) (o : Nat) (f : Op → Op) : (s.onOp o f).hold = s.hold := rfl
@[simp] theorem State.onOp_halvedAt (s : State) (o : Nat) (f : Op → Op) : (s.onOp o f).halvedAt = s.halvedAt := rfl
@[simp] theorem State.onOp_tasks (s : State) (o : Nat) (f : Op → Op) : (s.onOp o f).tasks = s.tasks := rfl
@[simp] theorem State.onOp_events (s : State) (o : Nat) (f : Op → Op) : (s.onOp o f).events = s.events := rfl
@[simp] theorem State.onOp_pendingEvents (s : State) (o : Nat) (f : Op → Op) : (s.onOp o f).pendingEvents = s.pendingEvents := rfl
@[simp] theorem State.onOp_nextSeq (s : State) (o : Nat) (f : Op → Op) : (s.onOp o f).nextSeq = s.nextSeq := rfl
@[simp] theorem State.onOp_dropped (s : State) (o : Nat) (f : Op → Op) : (s.onOp o f).dropped = s.dropped := rfl
@[simp] theorem State.onOp_fab (s : State) (o : Nat) (f : Op → Op) : (s.onOp o f).fab = s.fab := rfl
@[simp] theorem State.onOp_channels (s : State) (o : Nat) (f : Op → Op) : (s.onOp o f).channels = s.channels := rfl
@[simp] theorem State.onOp_hot (s : State) (o : Nat) (f : Op → Op) : (s.onOp o f).hot = s.hot := rfl
@[simp] theorem State.onOp_host (s : State) (o : Nat) (f : Op → Op) : (s.onOp o f).host = s.host := rfl
@[simp] theorem State.onOp_svc (s : State) (o : Nat) (f : Op → Op) : (s.onOp o f).svc = s.svc := rfl

@[simp] theorem State.onTask_cur (s : State) (t : Nat) (f : Task → Task) : (s.onTask t f).cur = s.cur := rfl
@[simp] theorem State.onTask_arg (s : State) (t : Nat) (f : Task → Task) : (s.onTask t f).arg = s.arg := rfl
@[simp] theorem State.onTask_agenda (s : State) (t : Nat) (f : Task → Task) : (s.onTask t f).agenda = s.agenda := rfl
@[simp] theorem State.onTask_clock (s : State) (t : Nat) (f : Task → Task) : (s.onTask t f).clock = s.clock := rfl
@[simp] theorem State.onTask_ptimeOff (s : State) (t : Nat) (f : Task → Task) : (s.onTask t f).ptimeOff = s.ptimeOff := rfl
@[simp] theorem State.onTask_freeCtr (s : State) (t : Nat) (f : Task → Task) : (s.onTask t f).freeCtr = s.freeCtr := rfl
@[simp] theorem State.onTask_resets (s : State) (t : Nat) (f : Task → Task) : (s.onTask t f).resets = s.resets := rfl
@[simp] theorem State.onTask_phase (s : State) (t : Nat) (f : Task → Task) : (s.onTask t f).phase = s.phase := rfl
@[simp] theorem State.onTask_chipId (s : State) (t : Nat) (f : Task → Task) : (s.onTask t f).chipId = s.chipId := rfl
@[simp] theorem State.onTask_migratePolicy (s : State) (t : Nat) (f : Task → Task) : (s.onTask t f).migratePolicy = s.migratePolicy := rfl
@[simp] theorem State.onTask_stubIdle (s : State) (t : Nat) (f : Task → Task) : (s.onTask t f).stubIdle = s.stubIdle := rfl
@[simp] theorem State.onTask_pinGrace (s : State) (t : Nat) (f : Task → Task) : (s.onTask t f).pinGrace = s.pinGrace := rfl
@[simp] theorem State.onTask_nextUid (s : State) (t : Nat) (f : Task → Task) : (s.onTask t f).nextUid = s.nextUid := rfl
@[simp] theorem State.onTask_nextTxn (s : State) (t : Nat) (f : Task → Task) : (s.onTask t f).nextTxn = s.nextTxn := rfl
@[simp] theorem State.onTask_nextOp (s : State) (t : Nat) (f : Task → Task) : (s.onTask t f).nextOp = s.nextOp := rfl
@[simp] theorem State.onTask_lastSlot (s : State) (t : Nat) (f : Task → Task) : (s.onTask t f).lastSlot = s.lastSlot := rfl
@[simp] theorem State.onTask_groups (s : State) (t : Nat) (f : Task → Task) : (s.onTask t f).groups = s.groups := rfl
@[simp] theorem State.onTask_blocks (s : State) (t : Nat) (f : Task → Task) : (s.onTask t f).blocks = s.blocks := rfl
@[simp] theorem State.onTask_segs (s : State) (t : Nat) (f : Task → Task) : (s.onTask t f).segs = s.segs := rfl
@[simp] theorem State.onTask_seqs (s : State) (t : Nat) (f : Task → Task) : (s.onTask t f).seqs = s.seqs := rfl
@[simp] theorem State.onTask_slots (s : State) (t : Nat) (f : Task → Task) : (s.onTask t f).slots = s.slots := rfl
@[simp] theorem State.onTask_txns (s : State) (t : Nat) (f : Task → Task) : (s.onTask t f).txns = s.txns := rfl
@[simp] theorem State.onTask_ops (s : State) (t : Nat) (f : Task → Task) : (s.onTask t f).ops = s.ops := rfl
@[simp] theorem State.onTask_mem (s : State) (t : Nat) (f : Task → Task) : (s.onTask t f).mem = s.mem := rfl
@[simp] theorem State.onTask_poison (s : State) (t : Nat) (f : Task → Task) : (s.onTask t f).poison = s.poison := rfl
@[simp] theorem State.onTask_flaws (s : State) (t : Nat) (f : Task → Task) : (s.onTask t f).flaws = s.flaws := rfl
@[simp] theorem State.onTask_stale (s : State) (t : Nat) (f : Task → Task) : (s.onTask t f).stale = s.stale := rfl
@[simp] theorem State.onTask_blur (s : State) (t : Nat) (f : Task → Task) : (s.onTask t f).blur = s.blur := rfl
@[simp] theorem State.onTask_far (s : State) (t : Nat) (f : Task → Task) : (s.onTask t f).far = s.far := rfl
@[simp] theorem State.onTask_l1 (s : State) (t : Nat) (f : Task → Task) : (s.onTask t f).l1 = s.l1 := rfl
@[simp] theorem State.onTask_lx (s : State) (t : Nat) (f : Task → Task) : (s.onTask t f).lx = s.lx := rfl
@[simp] theorem State.onTask_regions (s : State) (t : Nat) (f : Task → Task) : (s.onTask t f).regions = s.regions := rfl
@[simp] theorem State.onTask_versions (s : State) (t : Nat) (f : Task → Task) : (s.onTask t f).versions = s.versions := rfl
@[simp] theorem State.onTask_held (s : State) (t : Nat) (f : Task → Task) : (s.onTask t f).held = s.held := rfl
@[simp] theorem State.onTask_nextSerial (s : State) (t : Nat) (f : Task → Task) : (s.onTask t f).nextSerial = s.nextSerial := rfl
@[simp] theorem State.onTask_nextFrame (s : State) (t : Nat) (f : Task → Task) : (s.onTask t f).nextFrame = s.nextFrame := rfl
@[simp] theorem State.onTask_granary (s : State) (t : Nat) (f : Task → Task) : (s.onTask t f).granary = s.granary := rfl
@[simp] theorem State.onTask_objs (s : State) (t : Nat) (f : Task → Task) : (s.onTask t f).objs = s.objs := rfl
@[simp] theorem State.onTask_incoming (s : State) (t : Nat) (f : Task → Task) : (s.onTask t f).incoming = s.incoming := rfl
@[simp] theorem State.onTask_revokes (s : State) (t : Nat) (f : Task → Task) : (s.onTask t f).revokes = s.revokes := rfl
@[simp] theorem State.onTask_locator (s : State) (t : Nat) (f : Task → Task) : (s.onTask t f).locator = s.locator := rfl
@[simp] theorem State.onTask_stubs (s : State) (t : Nat) (f : Task → Task) : (s.onTask t f).stubs = s.stubs := rfl
@[simp] theorem State.onTask_hold (s : State) (t : Nat) (f : Task → Task) : (s.onTask t f).hold = s.hold := rfl
@[simp] theorem State.onTask_halvedAt (s : State) (t : Nat) (f : Task → Task) : (s.onTask t f).halvedAt = s.halvedAt := rfl
@[simp] theorem State.onTask_tasks (s : State) (t : Nat) (f : Task → Task) : (s.onTask t f).tasks = upd s.tasks t f := rfl
@[simp] theorem State.onTask_events (s : State) (t : Nat) (f : Task → Task) : (s.onTask t f).events = s.events := rfl
@[simp] theorem State.onTask_pendingEvents (s : State) (t : Nat) (f : Task → Task) : (s.onTask t f).pendingEvents = s.pendingEvents := rfl
@[simp] theorem State.onTask_nextSeq (s : State) (t : Nat) (f : Task → Task) : (s.onTask t f).nextSeq = s.nextSeq := rfl
@[simp] theorem State.onTask_dropped (s : State) (t : Nat) (f : Task → Task) : (s.onTask t f).dropped = s.dropped := rfl
@[simp] theorem State.onTask_fab (s : State) (t : Nat) (f : Task → Task) : (s.onTask t f).fab = s.fab := rfl
@[simp] theorem State.onTask_channels (s : State) (t : Nat) (f : Task → Task) : (s.onTask t f).channels = s.channels := rfl
@[simp] theorem State.onTask_hot (s : State) (t : Nat) (f : Task → Task) : (s.onTask t f).hot = s.hot := rfl
@[simp] theorem State.onTask_host (s : State) (t : Nat) (f : Task → Task) : (s.onTask t f).host = s.host := rfl
@[simp] theorem State.onTask_svc (s : State) (t : Nat) (f : Task → Task) : (s.onTask t f).svc = s.svc := rfl

@[simp] theorem State.onTxn_cur (s : State) (i : Nat) (f : Txn → Txn) : (s.onTxn i f).cur = s.cur := rfl
@[simp] theorem State.onTxn_arg (s : State) (i : Nat) (f : Txn → Txn) : (s.onTxn i f).arg = s.arg := rfl
@[simp] theorem State.onTxn_agenda (s : State) (i : Nat) (f : Txn → Txn) : (s.onTxn i f).agenda = s.agenda := rfl
@[simp] theorem State.onTxn_clock (s : State) (i : Nat) (f : Txn → Txn) : (s.onTxn i f).clock = s.clock := rfl
@[simp] theorem State.onTxn_ptimeOff (s : State) (i : Nat) (f : Txn → Txn) : (s.onTxn i f).ptimeOff = s.ptimeOff := rfl
@[simp] theorem State.onTxn_freeCtr (s : State) (i : Nat) (f : Txn → Txn) : (s.onTxn i f).freeCtr = s.freeCtr := rfl
@[simp] theorem State.onTxn_resets (s : State) (i : Nat) (f : Txn → Txn) : (s.onTxn i f).resets = s.resets := rfl
@[simp] theorem State.onTxn_phase (s : State) (i : Nat) (f : Txn → Txn) : (s.onTxn i f).phase = s.phase := rfl
@[simp] theorem State.onTxn_chipId (s : State) (i : Nat) (f : Txn → Txn) : (s.onTxn i f).chipId = s.chipId := rfl
@[simp] theorem State.onTxn_migratePolicy (s : State) (i : Nat) (f : Txn → Txn) : (s.onTxn i f).migratePolicy = s.migratePolicy := rfl
@[simp] theorem State.onTxn_stubIdle (s : State) (i : Nat) (f : Txn → Txn) : (s.onTxn i f).stubIdle = s.stubIdle := rfl
@[simp] theorem State.onTxn_pinGrace (s : State) (i : Nat) (f : Txn → Txn) : (s.onTxn i f).pinGrace = s.pinGrace := rfl
@[simp] theorem State.onTxn_nextUid (s : State) (i : Nat) (f : Txn → Txn) : (s.onTxn i f).nextUid = s.nextUid := rfl
@[simp] theorem State.onTxn_nextTxn (s : State) (i : Nat) (f : Txn → Txn) : (s.onTxn i f).nextTxn = s.nextTxn := rfl
@[simp] theorem State.onTxn_nextOp (s : State) (i : Nat) (f : Txn → Txn) : (s.onTxn i f).nextOp = s.nextOp := rfl
@[simp] theorem State.onTxn_lastSlot (s : State) (i : Nat) (f : Txn → Txn) : (s.onTxn i f).lastSlot = s.lastSlot := rfl
@[simp] theorem State.onTxn_groups (s : State) (i : Nat) (f : Txn → Txn) : (s.onTxn i f).groups = s.groups := rfl
@[simp] theorem State.onTxn_blocks (s : State) (i : Nat) (f : Txn → Txn) : (s.onTxn i f).blocks = s.blocks := rfl
@[simp] theorem State.onTxn_segs (s : State) (i : Nat) (f : Txn → Txn) : (s.onTxn i f).segs = s.segs := rfl
@[simp] theorem State.onTxn_seqs (s : State) (i : Nat) (f : Txn → Txn) : (s.onTxn i f).seqs = s.seqs := rfl
@[simp] theorem State.onTxn_slots (s : State) (i : Nat) (f : Txn → Txn) : (s.onTxn i f).slots = s.slots := rfl
@[simp] theorem State.onTxn_txns (s : State) (i : Nat) (f : Txn → Txn) : (s.onTxn i f).txns = s.txns.map (fun t => if t.id = i then f t else t) := rfl
@[simp] theorem State.onTxn_ops (s : State) (i : Nat) (f : Txn → Txn) : (s.onTxn i f).ops = s.ops := rfl
@[simp] theorem State.onTxn_mem (s : State) (i : Nat) (f : Txn → Txn) : (s.onTxn i f).mem = s.mem := rfl
@[simp] theorem State.onTxn_poison (s : State) (i : Nat) (f : Txn → Txn) : (s.onTxn i f).poison = s.poison := rfl
@[simp] theorem State.onTxn_flaws (s : State) (i : Nat) (f : Txn → Txn) : (s.onTxn i f).flaws = s.flaws := rfl
@[simp] theorem State.onTxn_stale (s : State) (i : Nat) (f : Txn → Txn) : (s.onTxn i f).stale = s.stale := rfl
@[simp] theorem State.onTxn_blur (s : State) (i : Nat) (f : Txn → Txn) : (s.onTxn i f).blur = s.blur := rfl
@[simp] theorem State.onTxn_far (s : State) (i : Nat) (f : Txn → Txn) : (s.onTxn i f).far = s.far := rfl
@[simp] theorem State.onTxn_l1 (s : State) (i : Nat) (f : Txn → Txn) : (s.onTxn i f).l1 = s.l1 := rfl
@[simp] theorem State.onTxn_lx (s : State) (i : Nat) (f : Txn → Txn) : (s.onTxn i f).lx = s.lx := rfl
@[simp] theorem State.onTxn_regions (s : State) (i : Nat) (f : Txn → Txn) : (s.onTxn i f).regions = s.regions := rfl
@[simp] theorem State.onTxn_versions (s : State) (i : Nat) (f : Txn → Txn) : (s.onTxn i f).versions = s.versions := rfl
@[simp] theorem State.onTxn_held (s : State) (i : Nat) (f : Txn → Txn) : (s.onTxn i f).held = s.held := rfl
@[simp] theorem State.onTxn_nextSerial (s : State) (i : Nat) (f : Txn → Txn) : (s.onTxn i f).nextSerial = s.nextSerial := rfl
@[simp] theorem State.onTxn_nextFrame (s : State) (i : Nat) (f : Txn → Txn) : (s.onTxn i f).nextFrame = s.nextFrame := rfl
@[simp] theorem State.onTxn_granary (s : State) (i : Nat) (f : Txn → Txn) : (s.onTxn i f).granary = s.granary := rfl
@[simp] theorem State.onTxn_objs (s : State) (i : Nat) (f : Txn → Txn) : (s.onTxn i f).objs = s.objs := rfl
@[simp] theorem State.onTxn_incoming (s : State) (i : Nat) (f : Txn → Txn) : (s.onTxn i f).incoming = s.incoming := rfl
@[simp] theorem State.onTxn_revokes (s : State) (i : Nat) (f : Txn → Txn) : (s.onTxn i f).revokes = s.revokes := rfl
@[simp] theorem State.onTxn_locator (s : State) (i : Nat) (f : Txn → Txn) : (s.onTxn i f).locator = s.locator := rfl
@[simp] theorem State.onTxn_stubs (s : State) (i : Nat) (f : Txn → Txn) : (s.onTxn i f).stubs = s.stubs := rfl
@[simp] theorem State.onTxn_hold (s : State) (i : Nat) (f : Txn → Txn) : (s.onTxn i f).hold = s.hold := rfl
@[simp] theorem State.onTxn_halvedAt (s : State) (i : Nat) (f : Txn → Txn) : (s.onTxn i f).halvedAt = s.halvedAt := rfl
@[simp] theorem State.onTxn_tasks (s : State) (i : Nat) (f : Txn → Txn) : (s.onTxn i f).tasks = s.tasks := rfl
@[simp] theorem State.onTxn_events (s : State) (i : Nat) (f : Txn → Txn) : (s.onTxn i f).events = s.events := rfl
@[simp] theorem State.onTxn_pendingEvents (s : State) (i : Nat) (f : Txn → Txn) : (s.onTxn i f).pendingEvents = s.pendingEvents := rfl
@[simp] theorem State.onTxn_nextSeq (s : State) (i : Nat) (f : Txn → Txn) : (s.onTxn i f).nextSeq = s.nextSeq := rfl
@[simp] theorem State.onTxn_dropped (s : State) (i : Nat) (f : Txn → Txn) : (s.onTxn i f).dropped = s.dropped := rfl
@[simp] theorem State.onTxn_fab (s : State) (i : Nat) (f : Txn → Txn) : (s.onTxn i f).fab = s.fab := rfl
@[simp] theorem State.onTxn_channels (s : State) (i : Nat) (f : Txn → Txn) : (s.onTxn i f).channels = s.channels := rfl
@[simp] theorem State.onTxn_hot (s : State) (i : Nat) (f : Txn → Txn) : (s.onTxn i f).hot = s.hot := rfl
@[simp] theorem State.onTxn_host (s : State) (i : Nat) (f : Txn → Txn) : (s.onTxn i f).host = s.host := rfl
@[simp] theorem State.onTxn_svc (s : State) (i : Nat) (f : Txn → Txn) : (s.onTxn i f).svc = s.svc := rfl

@[simp] theorem State.onSlot_cur (s : State) (n : Nat) (f : Slot → Slot) : (s.onSlot n f).cur = s.cur := rfl
@[simp] theorem State.onSlot_arg (s : State) (n : Nat) (f : Slot → Slot) : (s.onSlot n f).arg = s.arg := rfl
@[simp] theorem State.onSlot_agenda (s : State) (n : Nat) (f : Slot → Slot) : (s.onSlot n f).agenda = s.agenda := rfl
@[simp] theorem State.onSlot_clock (s : State) (n : Nat) (f : Slot → Slot) : (s.onSlot n f).clock = s.clock := rfl
@[simp] theorem State.onSlot_ptimeOff (s : State) (n : Nat) (f : Slot → Slot) : (s.onSlot n f).ptimeOff = s.ptimeOff := rfl
@[simp] theorem State.onSlot_freeCtr (s : State) (n : Nat) (f : Slot → Slot) : (s.onSlot n f).freeCtr = s.freeCtr := rfl
@[simp] theorem State.onSlot_resets (s : State) (n : Nat) (f : Slot → Slot) : (s.onSlot n f).resets = s.resets := rfl
@[simp] theorem State.onSlot_phase (s : State) (n : Nat) (f : Slot → Slot) : (s.onSlot n f).phase = s.phase := rfl
@[simp] theorem State.onSlot_chipId (s : State) (n : Nat) (f : Slot → Slot) : (s.onSlot n f).chipId = s.chipId := rfl
@[simp] theorem State.onSlot_migratePolicy (s : State) (n : Nat) (f : Slot → Slot) : (s.onSlot n f).migratePolicy = s.migratePolicy := rfl
@[simp] theorem State.onSlot_stubIdle (s : State) (n : Nat) (f : Slot → Slot) : (s.onSlot n f).stubIdle = s.stubIdle := rfl
@[simp] theorem State.onSlot_pinGrace (s : State) (n : Nat) (f : Slot → Slot) : (s.onSlot n f).pinGrace = s.pinGrace := rfl
@[simp] theorem State.onSlot_nextUid (s : State) (n : Nat) (f : Slot → Slot) : (s.onSlot n f).nextUid = s.nextUid := rfl
@[simp] theorem State.onSlot_nextTxn (s : State) (n : Nat) (f : Slot → Slot) : (s.onSlot n f).nextTxn = s.nextTxn := rfl
@[simp] theorem State.onSlot_nextOp (s : State) (n : Nat) (f : Slot → Slot) : (s.onSlot n f).nextOp = s.nextOp := rfl
@[simp] theorem State.onSlot_lastSlot (s : State) (n : Nat) (f : Slot → Slot) : (s.onSlot n f).lastSlot = s.lastSlot := rfl
@[simp] theorem State.onSlot_groups (s : State) (n : Nat) (f : Slot → Slot) : (s.onSlot n f).groups = s.groups := rfl
@[simp] theorem State.onSlot_blocks (s : State) (n : Nat) (f : Slot → Slot) : (s.onSlot n f).blocks = s.blocks := rfl
@[simp] theorem State.onSlot_segs (s : State) (n : Nat) (f : Slot → Slot) : (s.onSlot n f).segs = s.segs := rfl
@[simp] theorem State.onSlot_seqs (s : State) (n : Nat) (f : Slot → Slot) : (s.onSlot n f).seqs = s.seqs := rfl
@[simp] theorem State.onSlot_slots (s : State) (n : Nat) (f : Slot → Slot) : (s.onSlot n f).slots = upd s.slots n f := rfl
@[simp] theorem State.onSlot_txns (s : State) (n : Nat) (f : Slot → Slot) : (s.onSlot n f).txns = s.txns := rfl
@[simp] theorem State.onSlot_ops (s : State) (n : Nat) (f : Slot → Slot) : (s.onSlot n f).ops = s.ops := rfl
@[simp] theorem State.onSlot_mem (s : State) (n : Nat) (f : Slot → Slot) : (s.onSlot n f).mem = s.mem := rfl
@[simp] theorem State.onSlot_poison (s : State) (n : Nat) (f : Slot → Slot) : (s.onSlot n f).poison = s.poison := rfl
@[simp] theorem State.onSlot_flaws (s : State) (n : Nat) (f : Slot → Slot) : (s.onSlot n f).flaws = s.flaws := rfl
@[simp] theorem State.onSlot_stale (s : State) (n : Nat) (f : Slot → Slot) : (s.onSlot n f).stale = s.stale := rfl
@[simp] theorem State.onSlot_blur (s : State) (n : Nat) (f : Slot → Slot) : (s.onSlot n f).blur = s.blur := rfl
@[simp] theorem State.onSlot_far (s : State) (n : Nat) (f : Slot → Slot) : (s.onSlot n f).far = s.far := rfl
@[simp] theorem State.onSlot_l1 (s : State) (n : Nat) (f : Slot → Slot) : (s.onSlot n f).l1 = s.l1 := rfl
@[simp] theorem State.onSlot_lx (s : State) (n : Nat) (f : Slot → Slot) : (s.onSlot n f).lx = s.lx := rfl
@[simp] theorem State.onSlot_regions (s : State) (n : Nat) (f : Slot → Slot) : (s.onSlot n f).regions = s.regions := rfl
@[simp] theorem State.onSlot_versions (s : State) (n : Nat) (f : Slot → Slot) : (s.onSlot n f).versions = s.versions := rfl
@[simp] theorem State.onSlot_held (s : State) (n : Nat) (f : Slot → Slot) : (s.onSlot n f).held = s.held := rfl
@[simp] theorem State.onSlot_nextSerial (s : State) (n : Nat) (f : Slot → Slot) : (s.onSlot n f).nextSerial = s.nextSerial := rfl
@[simp] theorem State.onSlot_nextFrame (s : State) (n : Nat) (f : Slot → Slot) : (s.onSlot n f).nextFrame = s.nextFrame := rfl
@[simp] theorem State.onSlot_granary (s : State) (n : Nat) (f : Slot → Slot) : (s.onSlot n f).granary = s.granary := rfl
@[simp] theorem State.onSlot_objs (s : State) (n : Nat) (f : Slot → Slot) : (s.onSlot n f).objs = s.objs := rfl
@[simp] theorem State.onSlot_incoming (s : State) (n : Nat) (f : Slot → Slot) : (s.onSlot n f).incoming = s.incoming := rfl
@[simp] theorem State.onSlot_revokes (s : State) (n : Nat) (f : Slot → Slot) : (s.onSlot n f).revokes = s.revokes := rfl
@[simp] theorem State.onSlot_locator (s : State) (n : Nat) (f : Slot → Slot) : (s.onSlot n f).locator = s.locator := rfl
@[simp] theorem State.onSlot_stubs (s : State) (n : Nat) (f : Slot → Slot) : (s.onSlot n f).stubs = s.stubs := rfl
@[simp] theorem State.onSlot_hold (s : State) (n : Nat) (f : Slot → Slot) : (s.onSlot n f).hold = s.hold := rfl
@[simp] theorem State.onSlot_halvedAt (s : State) (n : Nat) (f : Slot → Slot) : (s.onSlot n f).halvedAt = s.halvedAt := rfl
@[simp] theorem State.onSlot_tasks (s : State) (n : Nat) (f : Slot → Slot) : (s.onSlot n f).tasks = s.tasks := rfl
@[simp] theorem State.onSlot_events (s : State) (n : Nat) (f : Slot → Slot) : (s.onSlot n f).events = s.events := rfl
@[simp] theorem State.onSlot_pendingEvents (s : State) (n : Nat) (f : Slot → Slot) : (s.onSlot n f).pendingEvents = s.pendingEvents := rfl
@[simp] theorem State.onSlot_nextSeq (s : State) (n : Nat) (f : Slot → Slot) : (s.onSlot n f).nextSeq = s.nextSeq := rfl
@[simp] theorem State.onSlot_dropped (s : State) (n : Nat) (f : Slot → Slot) : (s.onSlot n f).dropped = s.dropped := rfl
@[simp] theorem State.onSlot_fab (s : State) (n : Nat) (f : Slot → Slot) : (s.onSlot n f).fab = s.fab := rfl
@[simp] theorem State.onSlot_channels (s : State) (n : Nat) (f : Slot → Slot) : (s.onSlot n f).channels = s.channels := rfl
@[simp] theorem State.onSlot_hot (s : State) (n : Nat) (f : Slot → Slot) : (s.onSlot n f).hot = s.hot := rfl
@[simp] theorem State.onSlot_host (s : State) (n : Nat) (f : Slot → Slot) : (s.onSlot n f).host = s.host := rfl
@[simp] theorem State.onSlot_svc (s : State) (n : Nat) (f : Slot → Slot) : (s.onSlot n f).svc = s.svc := rfl

@[simp] theorem State.onFab_cur (s : State) (f : Fabric → Fabric) : (s.onFab f).cur = s.cur := rfl
@[simp] theorem State.onFab_arg (s : State) (f : Fabric → Fabric) : (s.onFab f).arg = s.arg := rfl
@[simp] theorem State.onFab_agenda (s : State) (f : Fabric → Fabric) : (s.onFab f).agenda = s.agenda := rfl
@[simp] theorem State.onFab_clock (s : State) (f : Fabric → Fabric) : (s.onFab f).clock = s.clock := rfl
@[simp] theorem State.onFab_ptimeOff (s : State) (f : Fabric → Fabric) : (s.onFab f).ptimeOff = s.ptimeOff := rfl
@[simp] theorem State.onFab_freeCtr (s : State) (f : Fabric → Fabric) : (s.onFab f).freeCtr = s.freeCtr := rfl
@[simp] theorem State.onFab_resets (s : State) (f : Fabric → Fabric) : (s.onFab f).resets = s.resets := rfl
@[simp] theorem State.onFab_phase (s : State) (f : Fabric → Fabric) : (s.onFab f).phase = s.phase := rfl
@[simp] theorem State.onFab_chipId (s : State) (f : Fabric → Fabric) : (s.onFab f).chipId = s.chipId := rfl
@[simp] theorem State.onFab_migratePolicy (s : State) (f : Fabric → Fabric) : (s.onFab f).migratePolicy = s.migratePolicy := rfl
@[simp] theorem State.onFab_stubIdle (s : State) (f : Fabric → Fabric) : (s.onFab f).stubIdle = s.stubIdle := rfl
@[simp] theorem State.onFab_pinGrace (s : State) (f : Fabric → Fabric) : (s.onFab f).pinGrace = s.pinGrace := rfl
@[simp] theorem State.onFab_nextUid (s : State) (f : Fabric → Fabric) : (s.onFab f).nextUid = s.nextUid := rfl
@[simp] theorem State.onFab_nextTxn (s : State) (f : Fabric → Fabric) : (s.onFab f).nextTxn = s.nextTxn := rfl
@[simp] theorem State.onFab_nextOp (s : State) (f : Fabric → Fabric) : (s.onFab f).nextOp = s.nextOp := rfl
@[simp] theorem State.onFab_lastSlot (s : State) (f : Fabric → Fabric) : (s.onFab f).lastSlot = s.lastSlot := rfl
@[simp] theorem State.onFab_groups (s : State) (f : Fabric → Fabric) : (s.onFab f).groups = s.groups := rfl
@[simp] theorem State.onFab_blocks (s : State) (f : Fabric → Fabric) : (s.onFab f).blocks = s.blocks := rfl
@[simp] theorem State.onFab_segs (s : State) (f : Fabric → Fabric) : (s.onFab f).segs = s.segs := rfl
@[simp] theorem State.onFab_seqs (s : State) (f : Fabric → Fabric) : (s.onFab f).seqs = s.seqs := rfl
@[simp] theorem State.onFab_slots (s : State) (f : Fabric → Fabric) : (s.onFab f).slots = s.slots := rfl
@[simp] theorem State.onFab_txns (s : State) (f : Fabric → Fabric) : (s.onFab f).txns = s.txns := rfl
@[simp] theorem State.onFab_ops (s : State) (f : Fabric → Fabric) : (s.onFab f).ops = s.ops := rfl
@[simp] theorem State.onFab_mem (s : State) (f : Fabric → Fabric) : (s.onFab f).mem = s.mem := rfl
@[simp] theorem State.onFab_poison (s : State) (f : Fabric → Fabric) : (s.onFab f).poison = s.poison := rfl
@[simp] theorem State.onFab_flaws (s : State) (f : Fabric → Fabric) : (s.onFab f).flaws = s.flaws := rfl
@[simp] theorem State.onFab_stale (s : State) (f : Fabric → Fabric) : (s.onFab f).stale = s.stale := rfl
@[simp] theorem State.onFab_blur (s : State) (f : Fabric → Fabric) : (s.onFab f).blur = s.blur := rfl
@[simp] theorem State.onFab_far (s : State) (f : Fabric → Fabric) : (s.onFab f).far = s.far := rfl
@[simp] theorem State.onFab_l1 (s : State) (f : Fabric → Fabric) : (s.onFab f).l1 = s.l1 := rfl
@[simp] theorem State.onFab_lx (s : State) (f : Fabric → Fabric) : (s.onFab f).lx = s.lx := rfl
@[simp] theorem State.onFab_regions (s : State) (f : Fabric → Fabric) : (s.onFab f).regions = s.regions := rfl
@[simp] theorem State.onFab_versions (s : State) (f : Fabric → Fabric) : (s.onFab f).versions = s.versions := rfl
@[simp] theorem State.onFab_held (s : State) (f : Fabric → Fabric) : (s.onFab f).held = s.held := rfl
@[simp] theorem State.onFab_nextSerial (s : State) (f : Fabric → Fabric) : (s.onFab f).nextSerial = s.nextSerial := rfl
@[simp] theorem State.onFab_nextFrame (s : State) (f : Fabric → Fabric) : (s.onFab f).nextFrame = s.nextFrame := rfl
@[simp] theorem State.onFab_granary (s : State) (f : Fabric → Fabric) : (s.onFab f).granary = s.granary := rfl
@[simp] theorem State.onFab_objs (s : State) (f : Fabric → Fabric) : (s.onFab f).objs = s.objs := rfl
@[simp] theorem State.onFab_incoming (s : State) (f : Fabric → Fabric) : (s.onFab f).incoming = s.incoming := rfl
@[simp] theorem State.onFab_revokes (s : State) (f : Fabric → Fabric) : (s.onFab f).revokes = s.revokes := rfl
@[simp] theorem State.onFab_locator (s : State) (f : Fabric → Fabric) : (s.onFab f).locator = s.locator := rfl
@[simp] theorem State.onFab_stubs (s : State) (f : Fabric → Fabric) : (s.onFab f).stubs = s.stubs := rfl
@[simp] theorem State.onFab_hold (s : State) (f : Fabric → Fabric) : (s.onFab f).hold = s.hold := rfl
@[simp] theorem State.onFab_halvedAt (s : State) (f : Fabric → Fabric) : (s.onFab f).halvedAt = s.halvedAt := rfl
@[simp] theorem State.onFab_tasks (s : State) (f : Fabric → Fabric) : (s.onFab f).tasks = s.tasks := rfl
@[simp] theorem State.onFab_events (s : State) (f : Fabric → Fabric) : (s.onFab f).events = s.events := rfl
@[simp] theorem State.onFab_pendingEvents (s : State) (f : Fabric → Fabric) : (s.onFab f).pendingEvents = s.pendingEvents := rfl
@[simp] theorem State.onFab_nextSeq (s : State) (f : Fabric → Fabric) : (s.onFab f).nextSeq = s.nextSeq := rfl
@[simp] theorem State.onFab_dropped (s : State) (f : Fabric → Fabric) : (s.onFab f).dropped = s.dropped := rfl
@[simp] theorem State.onFab_fab (s : State) (f : Fabric → Fabric) : (s.onFab f).fab = f s.fab := rfl
@[simp] theorem State.onFab_channels (s : State) (f : Fabric → Fabric) : (s.onFab f).channels = s.channels := rfl
@[simp] theorem State.onFab_hot (s : State) (f : Fabric → Fabric) : (s.onFab f).hot = s.hot := rfl
@[simp] theorem State.onFab_host (s : State) (f : Fabric → Fabric) : (s.onFab f).host = s.host := rfl
@[simp] theorem State.onFab_svc (s : State) (f : Fabric → Fabric) : (s.onFab f).svc = s.svc := rfl

@[simp] theorem State.onHost_cur (s : State) (f : HostPort → HostPort) : (s.onHost f).cur = s.cur := rfl
@[simp] theorem State.onHost_arg (s : State) (f : HostPort → HostPort) : (s.onHost f).arg = s.arg := rfl
@[simp] theorem State.onHost_agenda (s : State) (f : HostPort → HostPort) : (s.onHost f).agenda = s.agenda := rfl
@[simp] theorem State.onHost_clock (s : State) (f : HostPort → HostPort) : (s.onHost f).clock = s.clock := rfl
@[simp] theorem State.onHost_ptimeOff (s : State) (f : HostPort → HostPort) : (s.onHost f).ptimeOff = s.ptimeOff := rfl
@[simp] theorem State.onHost_freeCtr (s : State) (f : HostPort → HostPort) : (s.onHost f).freeCtr = s.freeCtr := rfl
@[simp] theorem State.onHost_resets (s : State) (f : HostPort → HostPort) : (s.onHost f).resets = s.resets := rfl
@[simp] theorem State.onHost_phase (s : State) (f : HostPort → HostPort) : (s.onHost f).phase = s.phase := rfl
@[simp] theorem State.onHost_chipId (s : State) (f : HostPort → HostPort) : (s.onHost f).chipId = s.chipId := rfl
@[simp] theorem State.onHost_migratePolicy (s : State) (f : HostPort → HostPort) : (s.onHost f).migratePolicy = s.migratePolicy := rfl
@[simp] theorem State.onHost_stubIdle (s : State) (f : HostPort → HostPort) : (s.onHost f).stubIdle = s.stubIdle := rfl
@[simp] theorem State.onHost_pinGrace (s : State) (f : HostPort → HostPort) : (s.onHost f).pinGrace = s.pinGrace := rfl
@[simp] theorem State.onHost_nextUid (s : State) (f : HostPort → HostPort) : (s.onHost f).nextUid = s.nextUid := rfl
@[simp] theorem State.onHost_nextTxn (s : State) (f : HostPort → HostPort) : (s.onHost f).nextTxn = s.nextTxn := rfl
@[simp] theorem State.onHost_nextOp (s : State) (f : HostPort → HostPort) : (s.onHost f).nextOp = s.nextOp := rfl
@[simp] theorem State.onHost_lastSlot (s : State) (f : HostPort → HostPort) : (s.onHost f).lastSlot = s.lastSlot := rfl
@[simp] theorem State.onHost_groups (s : State) (f : HostPort → HostPort) : (s.onHost f).groups = s.groups := rfl
@[simp] theorem State.onHost_blocks (s : State) (f : HostPort → HostPort) : (s.onHost f).blocks = s.blocks := rfl
@[simp] theorem State.onHost_segs (s : State) (f : HostPort → HostPort) : (s.onHost f).segs = s.segs := rfl
@[simp] theorem State.onHost_seqs (s : State) (f : HostPort → HostPort) : (s.onHost f).seqs = s.seqs := rfl
@[simp] theorem State.onHost_slots (s : State) (f : HostPort → HostPort) : (s.onHost f).slots = s.slots := rfl
@[simp] theorem State.onHost_txns (s : State) (f : HostPort → HostPort) : (s.onHost f).txns = s.txns := rfl
@[simp] theorem State.onHost_ops (s : State) (f : HostPort → HostPort) : (s.onHost f).ops = s.ops := rfl
@[simp] theorem State.onHost_mem (s : State) (f : HostPort → HostPort) : (s.onHost f).mem = s.mem := rfl
@[simp] theorem State.onHost_poison (s : State) (f : HostPort → HostPort) : (s.onHost f).poison = s.poison := rfl
@[simp] theorem State.onHost_flaws (s : State) (f : HostPort → HostPort) : (s.onHost f).flaws = s.flaws := rfl
@[simp] theorem State.onHost_stale (s : State) (f : HostPort → HostPort) : (s.onHost f).stale = s.stale := rfl
@[simp] theorem State.onHost_blur (s : State) (f : HostPort → HostPort) : (s.onHost f).blur = s.blur := rfl
@[simp] theorem State.onHost_far (s : State) (f : HostPort → HostPort) : (s.onHost f).far = s.far := rfl
@[simp] theorem State.onHost_l1 (s : State) (f : HostPort → HostPort) : (s.onHost f).l1 = s.l1 := rfl
@[simp] theorem State.onHost_lx (s : State) (f : HostPort → HostPort) : (s.onHost f).lx = s.lx := rfl
@[simp] theorem State.onHost_regions (s : State) (f : HostPort → HostPort) : (s.onHost f).regions = s.regions := rfl
@[simp] theorem State.onHost_versions (s : State) (f : HostPort → HostPort) : (s.onHost f).versions = s.versions := rfl
@[simp] theorem State.onHost_held (s : State) (f : HostPort → HostPort) : (s.onHost f).held = s.held := rfl
@[simp] theorem State.onHost_nextSerial (s : State) (f : HostPort → HostPort) : (s.onHost f).nextSerial = s.nextSerial := rfl
@[simp] theorem State.onHost_nextFrame (s : State) (f : HostPort → HostPort) : (s.onHost f).nextFrame = s.nextFrame := rfl
@[simp] theorem State.onHost_granary (s : State) (f : HostPort → HostPort) : (s.onHost f).granary = s.granary := rfl
@[simp] theorem State.onHost_objs (s : State) (f : HostPort → HostPort) : (s.onHost f).objs = s.objs := rfl
@[simp] theorem State.onHost_incoming (s : State) (f : HostPort → HostPort) : (s.onHost f).incoming = s.incoming := rfl
@[simp] theorem State.onHost_revokes (s : State) (f : HostPort → HostPort) : (s.onHost f).revokes = s.revokes := rfl
@[simp] theorem State.onHost_locator (s : State) (f : HostPort → HostPort) : (s.onHost f).locator = s.locator := rfl
@[simp] theorem State.onHost_stubs (s : State) (f : HostPort → HostPort) : (s.onHost f).stubs = s.stubs := rfl
@[simp] theorem State.onHost_hold (s : State) (f : HostPort → HostPort) : (s.onHost f).hold = s.hold := rfl
@[simp] theorem State.onHost_halvedAt (s : State) (f : HostPort → HostPort) : (s.onHost f).halvedAt = s.halvedAt := rfl
@[simp] theorem State.onHost_tasks (s : State) (f : HostPort → HostPort) : (s.onHost f).tasks = s.tasks := rfl
@[simp] theorem State.onHost_events (s : State) (f : HostPort → HostPort) : (s.onHost f).events = s.events := rfl
@[simp] theorem State.onHost_pendingEvents (s : State) (f : HostPort → HostPort) : (s.onHost f).pendingEvents = s.pendingEvents := rfl
@[simp] theorem State.onHost_nextSeq (s : State) (f : HostPort → HostPort) : (s.onHost f).nextSeq = s.nextSeq := rfl
@[simp] theorem State.onHost_dropped (s : State) (f : HostPort → HostPort) : (s.onHost f).dropped = s.dropped := rfl
@[simp] theorem State.onHost_fab (s : State) (f : HostPort → HostPort) : (s.onHost f).fab = s.fab := rfl
@[simp] theorem State.onHost_channels (s : State) (f : HostPort → HostPort) : (s.onHost f).channels = s.channels := rfl
@[simp] theorem State.onHost_hot (s : State) (f : HostPort → HostPort) : (s.onHost f).hot = s.hot := rfl
@[simp] theorem State.onHost_host (s : State) (f : HostPort → HostPort) : (s.onHost f).host = f s.host := rfl
@[simp] theorem State.onHost_svc (s : State) (f : HostPort → HostPort) : (s.onHost f).svc = s.svc := rfl

@[simp] theorem State.onChan_cur (s : State) (c : Nat) (f : Channel → Channel) : (s.onChan c f).cur = s.cur := rfl
@[simp] theorem State.onChan_arg (s : State) (c : Nat) (f : Channel → Channel) : (s.onChan c f).arg = s.arg := rfl
@[simp] theorem State.onChan_agenda (s : State) (c : Nat) (f : Channel → Channel) : (s.onChan c f).agenda = s.agenda := rfl
@[simp] theorem State.onChan_clock (s : State) (c : Nat) (f : Channel → Channel) : (s.onChan c f).clock = s.clock := rfl
@[simp] theorem State.onChan_ptimeOff (s : State) (c : Nat) (f : Channel → Channel) : (s.onChan c f).ptimeOff = s.ptimeOff := rfl
@[simp] theorem State.onChan_freeCtr (s : State) (c : Nat) (f : Channel → Channel) : (s.onChan c f).freeCtr = s.freeCtr := rfl
@[simp] theorem State.onChan_resets (s : State) (c : Nat) (f : Channel → Channel) : (s.onChan c f).resets = s.resets := rfl
@[simp] theorem State.onChan_phase (s : State) (c : Nat) (f : Channel → Channel) : (s.onChan c f).phase = s.phase := rfl
@[simp] theorem State.onChan_chipId (s : State) (c : Nat) (f : Channel → Channel) : (s.onChan c f).chipId = s.chipId := rfl
@[simp] theorem State.onChan_migratePolicy (s : State) (c : Nat) (f : Channel → Channel) : (s.onChan c f).migratePolicy = s.migratePolicy := rfl
@[simp] theorem State.onChan_stubIdle (s : State) (c : Nat) (f : Channel → Channel) : (s.onChan c f).stubIdle = s.stubIdle := rfl
@[simp] theorem State.onChan_pinGrace (s : State) (c : Nat) (f : Channel → Channel) : (s.onChan c f).pinGrace = s.pinGrace := rfl
@[simp] theorem State.onChan_nextUid (s : State) (c : Nat) (f : Channel → Channel) : (s.onChan c f).nextUid = s.nextUid := rfl
@[simp] theorem State.onChan_nextTxn (s : State) (c : Nat) (f : Channel → Channel) : (s.onChan c f).nextTxn = s.nextTxn := rfl
@[simp] theorem State.onChan_nextOp (s : State) (c : Nat) (f : Channel → Channel) : (s.onChan c f).nextOp = s.nextOp := rfl
@[simp] theorem State.onChan_lastSlot (s : State) (c : Nat) (f : Channel → Channel) : (s.onChan c f).lastSlot = s.lastSlot := rfl
@[simp] theorem State.onChan_groups (s : State) (c : Nat) (f : Channel → Channel) : (s.onChan c f).groups = s.groups := rfl
@[simp] theorem State.onChan_blocks (s : State) (c : Nat) (f : Channel → Channel) : (s.onChan c f).blocks = s.blocks := rfl
@[simp] theorem State.onChan_segs (s : State) (c : Nat) (f : Channel → Channel) : (s.onChan c f).segs = s.segs := rfl
@[simp] theorem State.onChan_seqs (s : State) (c : Nat) (f : Channel → Channel) : (s.onChan c f).seqs = s.seqs := rfl
@[simp] theorem State.onChan_slots (s : State) (c : Nat) (f : Channel → Channel) : (s.onChan c f).slots = s.slots := rfl
@[simp] theorem State.onChan_txns (s : State) (c : Nat) (f : Channel → Channel) : (s.onChan c f).txns = s.txns := rfl
@[simp] theorem State.onChan_ops (s : State) (c : Nat) (f : Channel → Channel) : (s.onChan c f).ops = s.ops := rfl
@[simp] theorem State.onChan_mem (s : State) (c : Nat) (f : Channel → Channel) : (s.onChan c f).mem = s.mem := rfl
@[simp] theorem State.onChan_poison (s : State) (c : Nat) (f : Channel → Channel) : (s.onChan c f).poison = s.poison := rfl
@[simp] theorem State.onChan_flaws (s : State) (c : Nat) (f : Channel → Channel) : (s.onChan c f).flaws = s.flaws := rfl
@[simp] theorem State.onChan_stale (s : State) (c : Nat) (f : Channel → Channel) : (s.onChan c f).stale = s.stale := rfl
@[simp] theorem State.onChan_blur (s : State) (c : Nat) (f : Channel → Channel) : (s.onChan c f).blur = s.blur := rfl
@[simp] theorem State.onChan_far (s : State) (c : Nat) (f : Channel → Channel) : (s.onChan c f).far = s.far := rfl
@[simp] theorem State.onChan_l1 (s : State) (c : Nat) (f : Channel → Channel) : (s.onChan c f).l1 = s.l1 := rfl
@[simp] theorem State.onChan_lx (s : State) (c : Nat) (f : Channel → Channel) : (s.onChan c f).lx = s.lx := rfl
@[simp] theorem State.onChan_regions (s : State) (c : Nat) (f : Channel → Channel) : (s.onChan c f).regions = s.regions := rfl
@[simp] theorem State.onChan_versions (s : State) (c : Nat) (f : Channel → Channel) : (s.onChan c f).versions = s.versions := rfl
@[simp] theorem State.onChan_held (s : State) (c : Nat) (f : Channel → Channel) : (s.onChan c f).held = s.held := rfl
@[simp] theorem State.onChan_nextSerial (s : State) (c : Nat) (f : Channel → Channel) : (s.onChan c f).nextSerial = s.nextSerial := rfl
@[simp] theorem State.onChan_nextFrame (s : State) (c : Nat) (f : Channel → Channel) : (s.onChan c f).nextFrame = s.nextFrame := rfl
@[simp] theorem State.onChan_granary (s : State) (c : Nat) (f : Channel → Channel) : (s.onChan c f).granary = s.granary := rfl
@[simp] theorem State.onChan_objs (s : State) (c : Nat) (f : Channel → Channel) : (s.onChan c f).objs = s.objs := rfl
@[simp] theorem State.onChan_incoming (s : State) (c : Nat) (f : Channel → Channel) : (s.onChan c f).incoming = s.incoming := rfl
@[simp] theorem State.onChan_revokes (s : State) (c : Nat) (f : Channel → Channel) : (s.onChan c f).revokes = s.revokes := rfl
@[simp] theorem State.onChan_locator (s : State) (c : Nat) (f : Channel → Channel) : (s.onChan c f).locator = s.locator := rfl
@[simp] theorem State.onChan_stubs (s : State) (c : Nat) (f : Channel → Channel) : (s.onChan c f).stubs = s.stubs := rfl
@[simp] theorem State.onChan_hold (s : State) (c : Nat) (f : Channel → Channel) : (s.onChan c f).hold = s.hold := rfl
@[simp] theorem State.onChan_halvedAt (s : State) (c : Nat) (f : Channel → Channel) : (s.onChan c f).halvedAt = s.halvedAt := rfl
@[simp] theorem State.onChan_tasks (s : State) (c : Nat) (f : Channel → Channel) : (s.onChan c f).tasks = s.tasks := rfl
@[simp] theorem State.onChan_events (s : State) (c : Nat) (f : Channel → Channel) : (s.onChan c f).events = s.events := rfl
@[simp] theorem State.onChan_pendingEvents (s : State) (c : Nat) (f : Channel → Channel) : (s.onChan c f).pendingEvents = s.pendingEvents := rfl
@[simp] theorem State.onChan_nextSeq (s : State) (c : Nat) (f : Channel → Channel) : (s.onChan c f).nextSeq = s.nextSeq := rfl
@[simp] theorem State.onChan_dropped (s : State) (c : Nat) (f : Channel → Channel) : (s.onChan c f).dropped = s.dropped := rfl
@[simp] theorem State.onChan_fab (s : State) (c : Nat) (f : Channel → Channel) : (s.onChan c f).fab = s.fab := rfl
@[simp] theorem State.onChan_channels (s : State) (c : Nat) (f : Channel → Channel) : (s.onChan c f).channels = put s.channels c (f (s.chan c)) := rfl
@[simp] theorem State.onChan_hot (s : State) (c : Nat) (f : Channel → Channel) : (s.onChan c f).hot = s.hot := rfl
@[simp] theorem State.onChan_host (s : State) (c : Nat) (f : Channel → Channel) : (s.onChan c f).host = s.host := rfl
@[simp] theorem State.onChan_svc (s : State) (c : Nat) (f : Channel → Channel) : (s.onChan c f).svc = s.svc := rfl

@[simp] theorem State.onGran_cur (s : State) (i : Nat) (f : Granary → Granary) : (s.onGran i f).cur = s.cur := rfl
@[simp] theorem State.onGran_arg (s : State) (i : Nat) (f : Granary → Granary) : (s.onGran i f).arg = s.arg := rfl
@[simp] theorem State.onGran_agenda (s : State) (i : Nat) (f : Granary → Granary) : (s.onGran i f).agenda = s.agenda := rfl
@[simp] theorem State.onGran_clock (s : State) (i : Nat) (f : Granary → Granary) : (s.onGran i f).clock = s.clock := rfl
@[simp] theorem State.onGran_ptimeOff (s : State) (i : Nat) (f : Granary → Granary) : (s.onGran i f).ptimeOff = s.ptimeOff := rfl
@[simp] theorem State.onGran_freeCtr (s : State) (i : Nat) (f : Granary → Granary) : (s.onGran i f).freeCtr = s.freeCtr := rfl
@[simp] theorem State.onGran_resets (s : State) (i : Nat) (f : Granary → Granary) : (s.onGran i f).resets = s.resets := rfl
@[simp] theorem State.onGran_phase (s : State) (i : Nat) (f : Granary → Granary) : (s.onGran i f).phase = s.phase := rfl
@[simp] theorem State.onGran_chipId (s : State) (i : Nat) (f : Granary → Granary) : (s.onGran i f).chipId = s.chipId := rfl
@[simp] theorem State.onGran_migratePolicy (s : State) (i : Nat) (f : Granary → Granary) : (s.onGran i f).migratePolicy = s.migratePolicy := rfl
@[simp] theorem State.onGran_stubIdle (s : State) (i : Nat) (f : Granary → Granary) : (s.onGran i f).stubIdle = s.stubIdle := rfl
@[simp] theorem State.onGran_pinGrace (s : State) (i : Nat) (f : Granary → Granary) : (s.onGran i f).pinGrace = s.pinGrace := rfl
@[simp] theorem State.onGran_nextUid (s : State) (i : Nat) (f : Granary → Granary) : (s.onGran i f).nextUid = s.nextUid := rfl
@[simp] theorem State.onGran_nextTxn (s : State) (i : Nat) (f : Granary → Granary) : (s.onGran i f).nextTxn = s.nextTxn := rfl
@[simp] theorem State.onGran_nextOp (s : State) (i : Nat) (f : Granary → Granary) : (s.onGran i f).nextOp = s.nextOp := rfl
@[simp] theorem State.onGran_lastSlot (s : State) (i : Nat) (f : Granary → Granary) : (s.onGran i f).lastSlot = s.lastSlot := rfl
@[simp] theorem State.onGran_groups (s : State) (i : Nat) (f : Granary → Granary) : (s.onGran i f).groups = s.groups := rfl
@[simp] theorem State.onGran_blocks (s : State) (i : Nat) (f : Granary → Granary) : (s.onGran i f).blocks = s.blocks := rfl
@[simp] theorem State.onGran_segs (s : State) (i : Nat) (f : Granary → Granary) : (s.onGran i f).segs = s.segs := rfl
@[simp] theorem State.onGran_seqs (s : State) (i : Nat) (f : Granary → Granary) : (s.onGran i f).seqs = s.seqs := rfl
@[simp] theorem State.onGran_slots (s : State) (i : Nat) (f : Granary → Granary) : (s.onGran i f).slots = s.slots := rfl
@[simp] theorem State.onGran_txns (s : State) (i : Nat) (f : Granary → Granary) : (s.onGran i f).txns = s.txns := rfl
@[simp] theorem State.onGran_ops (s : State) (i : Nat) (f : Granary → Granary) : (s.onGran i f).ops = s.ops := rfl
@[simp] theorem State.onGran_mem (s : State) (i : Nat) (f : Granary → Granary) : (s.onGran i f).mem = s.mem := rfl
@[simp] theorem State.onGran_poison (s : State) (i : Nat) (f : Granary → Granary) : (s.onGran i f).poison = s.poison := rfl
@[simp] theorem State.onGran_flaws (s : State) (i : Nat) (f : Granary → Granary) : (s.onGran i f).flaws = s.flaws := rfl
@[simp] theorem State.onGran_stale (s : State) (i : Nat) (f : Granary → Granary) : (s.onGran i f).stale = s.stale := rfl
@[simp] theorem State.onGran_blur (s : State) (i : Nat) (f : Granary → Granary) : (s.onGran i f).blur = s.blur := rfl
@[simp] theorem State.onGran_far (s : State) (i : Nat) (f : Granary → Granary) : (s.onGran i f).far = s.far := rfl
@[simp] theorem State.onGran_l1 (s : State) (i : Nat) (f : Granary → Granary) : (s.onGran i f).l1 = s.l1 := rfl
@[simp] theorem State.onGran_lx (s : State) (i : Nat) (f : Granary → Granary) : (s.onGran i f).lx = s.lx := rfl
@[simp] theorem State.onGran_regions (s : State) (i : Nat) (f : Granary → Granary) : (s.onGran i f).regions = s.regions := rfl
@[simp] theorem State.onGran_versions (s : State) (i : Nat) (f : Granary → Granary) : (s.onGran i f).versions = s.versions := rfl
@[simp] theorem State.onGran_held (s : State) (i : Nat) (f : Granary → Granary) : (s.onGran i f).held = s.held := rfl
@[simp] theorem State.onGran_nextSerial (s : State) (i : Nat) (f : Granary → Granary) : (s.onGran i f).nextSerial = s.nextSerial := rfl
@[simp] theorem State.onGran_nextFrame (s : State) (i : Nat) (f : Granary → Granary) : (s.onGran i f).nextFrame = s.nextFrame := rfl
@[simp] theorem State.onGran_granary (s : State) (i : Nat) (f : Granary → Granary) : (s.onGran i f).granary = upd s.granary i f := rfl
@[simp] theorem State.onGran_objs (s : State) (i : Nat) (f : Granary → Granary) : (s.onGran i f).objs = s.objs := rfl
@[simp] theorem State.onGran_incoming (s : State) (i : Nat) (f : Granary → Granary) : (s.onGran i f).incoming = s.incoming := rfl
@[simp] theorem State.onGran_revokes (s : State) (i : Nat) (f : Granary → Granary) : (s.onGran i f).revokes = s.revokes := rfl
@[simp] theorem State.onGran_locator (s : State) (i : Nat) (f : Granary → Granary) : (s.onGran i f).locator = s.locator := rfl
@[simp] theorem State.onGran_stubs (s : State) (i : Nat) (f : Granary → Granary) : (s.onGran i f).stubs = s.stubs := rfl
@[simp] theorem State.onGran_hold (s : State) (i : Nat) (f : Granary → Granary) : (s.onGran i f).hold = s.hold := rfl
@[simp] theorem State.onGran_halvedAt (s : State) (i : Nat) (f : Granary → Granary) : (s.onGran i f).halvedAt = s.halvedAt := rfl
@[simp] theorem State.onGran_tasks (s : State) (i : Nat) (f : Granary → Granary) : (s.onGran i f).tasks = s.tasks := rfl
@[simp] theorem State.onGran_events (s : State) (i : Nat) (f : Granary → Granary) : (s.onGran i f).events = s.events := rfl
@[simp] theorem State.onGran_pendingEvents (s : State) (i : Nat) (f : Granary → Granary) : (s.onGran i f).pendingEvents = s.pendingEvents := rfl
@[simp] theorem State.onGran_nextSeq (s : State) (i : Nat) (f : Granary → Granary) : (s.onGran i f).nextSeq = s.nextSeq := rfl
@[simp] theorem State.onGran_dropped (s : State) (i : Nat) (f : Granary → Granary) : (s.onGran i f).dropped = s.dropped := rfl
@[simp] theorem State.onGran_fab (s : State) (i : Nat) (f : Granary → Granary) : (s.onGran i f).fab = s.fab := rfl
@[simp] theorem State.onGran_channels (s : State) (i : Nat) (f : Granary → Granary) : (s.onGran i f).channels = s.channels := rfl
@[simp] theorem State.onGran_hot (s : State) (i : Nat) (f : Granary → Granary) : (s.onGran i f).hot = s.hot := rfl
@[simp] theorem State.onGran_host (s : State) (i : Nat) (f : Granary → Granary) : (s.onGran i f).host = s.host := rfl
@[simp] theorem State.onGran_svc (s : State) (i : Nat) (f : Granary → Granary) : (s.onGran i f).svc = s.svc := rfl

@[simp] theorem State.forward_cur (s : State) (n : Nat) : (s.forward n).cur = s.cur := rfl
@[simp] theorem State.forward_arg (s : State) (n : Nat) : (s.forward n).arg = s.arg := rfl
@[simp] theorem State.forward_agenda (s : State) (n : Nat) : (s.forward n).agenda = s.agenda := rfl
@[simp] theorem State.forward_clock (s : State) (n : Nat) : (s.forward n).clock = s.clock := rfl
@[simp] theorem State.forward_freeCtr (s : State) (n : Nat) : (s.forward n).freeCtr = s.freeCtr := rfl
@[simp] theorem State.forward_resets (s : State) (n : Nat) : (s.forward n).resets = s.resets := rfl
@[simp] theorem State.forward_phase (s : State) (n : Nat) : (s.forward n).phase = s.phase := rfl
@[simp] theorem State.forward_chipId (s : State) (n : Nat) : (s.forward n).chipId = s.chipId := rfl
@[simp] theorem State.forward_migratePolicy (s : State) (n : Nat) : (s.forward n).migratePolicy = s.migratePolicy := rfl
@[simp] theorem State.forward_stubIdle (s : State) (n : Nat) : (s.forward n).stubIdle = s.stubIdle := rfl
@[simp] theorem State.forward_pinGrace (s : State) (n : Nat) : (s.forward n).pinGrace = s.pinGrace := rfl
@[simp] theorem State.forward_nextUid (s : State) (n : Nat) : (s.forward n).nextUid = s.nextUid := rfl
@[simp] theorem State.forward_nextTxn (s : State) (n : Nat) : (s.forward n).nextTxn = s.nextTxn := rfl
@[simp] theorem State.forward_nextOp (s : State) (n : Nat) : (s.forward n).nextOp = s.nextOp := rfl
@[simp] theorem State.forward_lastSlot (s : State) (n : Nat) : (s.forward n).lastSlot = s.lastSlot := rfl
@[simp] theorem State.forward_groups (s : State) (n : Nat) : (s.forward n).groups = s.groups := rfl
@[simp] theorem State.forward_blocks (s : State) (n : Nat) : (s.forward n).blocks = s.blocks := rfl
@[simp] theorem State.forward_segs (s : State) (n : Nat) : (s.forward n).segs = s.segs := rfl
@[simp] theorem State.forward_seqs (s : State) (n : Nat) : (s.forward n).seqs = s.seqs := rfl
@[simp] theorem State.forward_slots (s : State) (n : Nat) : (s.forward n).slots = s.slots := rfl
@[simp] theorem State.forward_txns (s : State) (n : Nat) : (s.forward n).txns = s.txns := rfl
@[simp] theorem State.forward_ops (s : State) (n : Nat) : (s.forward n).ops = s.ops := rfl
@[simp] theorem State.forward_mem (s : State) (n : Nat) : (s.forward n).mem = s.mem := rfl
@[simp] theorem State.forward_poison (s : State) (n : Nat) : (s.forward n).poison = s.poison := rfl
@[simp] theorem State.forward_flaws (s : State) (n : Nat) : (s.forward n).flaws = s.flaws := rfl
@[simp] theorem State.forward_stale (s : State) (n : Nat) : (s.forward n).stale = s.stale := rfl
@[simp] theorem State.forward_blur (s : State) (n : Nat) : (s.forward n).blur = s.blur := rfl
@[simp] theorem State.forward_far (s : State) (n : Nat) : (s.forward n).far = s.far := rfl
@[simp] theorem State.forward_l1 (s : State) (n : Nat) : (s.forward n).l1 = s.l1 := rfl
@[simp] theorem State.forward_lx (s : State) (n : Nat) : (s.forward n).lx = s.lx := rfl
@[simp] theorem State.forward_regions (s : State) (n : Nat) : (s.forward n).regions = s.regions := rfl
@[simp] theorem State.forward_versions (s : State) (n : Nat) : (s.forward n).versions = s.versions := rfl
@[simp] theorem State.forward_held (s : State) (n : Nat) : (s.forward n).held = s.held := rfl
@[simp] theorem State.forward_nextSerial (s : State) (n : Nat) : (s.forward n).nextSerial = s.nextSerial := rfl
@[simp] theorem State.forward_nextFrame (s : State) (n : Nat) : (s.forward n).nextFrame = s.nextFrame := rfl
@[simp] theorem State.forward_granary (s : State) (n : Nat) : (s.forward n).granary = s.granary := rfl
@[simp] theorem State.forward_objs (s : State) (n : Nat) : (s.forward n).objs = s.objs := rfl
@[simp] theorem State.forward_incoming (s : State) (n : Nat) : (s.forward n).incoming = s.incoming := rfl
@[simp] theorem State.forward_revokes (s : State) (n : Nat) : (s.forward n).revokes = s.revokes := rfl
@[simp] theorem State.forward_locator (s : State) (n : Nat) : (s.forward n).locator = s.locator := rfl
@[simp] theorem State.forward_stubs (s : State) (n : Nat) : (s.forward n).stubs = s.stubs := rfl
@[simp] theorem State.forward_hold (s : State) (n : Nat) : (s.forward n).hold = s.hold := rfl
@[simp] theorem State.forward_halvedAt (s : State) (n : Nat) : (s.forward n).halvedAt = s.halvedAt := rfl
@[simp] theorem State.forward_tasks (s : State) (n : Nat) : (s.forward n).tasks = s.tasks := rfl
@[simp] theorem State.forward_events (s : State) (n : Nat) : (s.forward n).events = s.events := rfl
@[simp] theorem State.forward_pendingEvents (s : State) (n : Nat) : (s.forward n).pendingEvents = s.pendingEvents := rfl
@[simp] theorem State.forward_nextSeq (s : State) (n : Nat) : (s.forward n).nextSeq = s.nextSeq := rfl
@[simp] theorem State.forward_dropped (s : State) (n : Nat) : (s.forward n).dropped = s.dropped := rfl
@[simp] theorem State.forward_fab (s : State) (n : Nat) : (s.forward n).fab = s.fab := rfl
@[simp] theorem State.forward_channels (s : State) (n : Nat) : (s.forward n).channels = s.channels := rfl
@[simp] theorem State.forward_hot (s : State) (n : Nat) : (s.forward n).hot = s.hot := rfl
@[simp] theorem State.forward_host (s : State) (n : Nat) : (s.forward n).host = s.host := rfl
@[simp] theorem State.forward_svc (s : State) (n : Nat) : (s.forward n).svc = s.svc := rfl
@[simp] theorem State.forward_ptimeOff (s : State) (n : Nat) : (s.forward n).ptimeOff = s.ptimeOff + n := rfl

end Sys2Proof.Machine
end

