-- ==== Sys2Proof/Tests/Slice0.lean ====
section
/-! SUPPORT. The model's own tests: for every obligation with hypotheses a state that meets them, clause by clause; an ill-formed term for each check; words that the spec prints; one step at a time on worked examples of the spec and values found by hand. -/

namespace Sys2Proof.Tests

open Sys2Proof Sys2Proof.Machine

set_option Elab.async false

/-! ### States to test on -/

/-- The chip with one task of one block, one segment and one group, whose path of 32 lanes stands at offset 0 of the code object, identifier 1. -/
def base : State := { State.reset.withKernel with cur := .path ⟨0, 0⟩ 0xFFFFFFFF 0 }
/-- Its group. -/
def baseGroup : Group := placedGroup (blockStart 2048 (placedTask 1) 0 0 [0] 0) 0
/-- Its block. -/
def baseBlock : Block := blockStart 2048 (placedTask 1) 0 0 [0] 0
/-- Its segment. -/
def baseSeg : Segment := segStart (placedTask 1)
/-- The key of the group. -/
def gk : GKey := ⟨0, 0⟩
/-- The key of the segment. -/
def sk : SKey := ⟨0, 0⟩
/-- The keys of its sequencers. -/
def mq : QKey := ⟨sk, .msq⟩
def cq : QKey := ⟨sk, .cst⟩
/-- Words in g registers of the group. -/
def putG (l : List (Nat × Word)) (s : State) : State := s.onGroup gk (fun g => { g with g := l.foldl (fun r e => r.set e.1 e.2) g.g })
/-- Tags of v registers of the group. -/
def putTag (l : List (Nat × Tag)) (s : State) : State := s.onGroup gk (fun g => l.foldl (fun x e => x.vtag e.1 e.2) g)
/-- Words at the start of the code object. -/
def putCode (l : List Word) (s : State) : State := { s with mem := s.mem.put (2 ^ 34) ((l.map (fun w => bytesLE 4 w.toNat)).flatten) }
/-- An object of one frame, identifier 2, with attributes. -/
def withObject (attrs : Word) (s : State) : State := { s with objs := put s.objs 2 { placedObject 1 with attrs := attrs }, granary := put s.granary 2 { chip := 0, epoch := 0, st := 0, boundary := 0, upper := 0 } }
/-- The sequencers of the segment, their programs running at 0. -/
def withSeqs (s : State) : State := { s with seqs := [(mq, { seqStart with running := true }), (cq, { seqStart with running := true })] }
/-- A step of a unit that acts on something. -/
def withArg (a : StepArg) (s : State) : State := { s with cur := .idle, arg := a }
/-- The group in a wait. -/
def waits (w : Wait) (s : State) : State := s.onGroup gk (fun g => { g with wait := w })
/-- Every lane of the group in a wait of its path. -/
def pathWaits (w : PathWait) (s : State) : State := s.onGroup gk (fun g => { g with lanes := g.lanes.map (fun l => { l with wait := w }) })
/-- A table entry of the group. -/
def entry (id : Nat) (kind : TxnKind) (parts : List Part) : Txn := { id := id, who := .grp gk, core := 0, pc := 0, lanes := 0xFFFFFFFF, kind := kind, parts := parts, faults := [], lease := 1024, seen := [] }
/-- The transaction table with all the entries a group may hold. -/
def fullTable (s : State) : State := { s with txns := (List.range 64).map (fun i => entry i (.command 8 .fbstat) [{ st := .todo, pieces := [] }]) }
/-- The pointer of the object with identifier 2 in g10 and g11, and small words in g12 to g15. -/
def demo : State := putG [(10, 0), (11, 8), (12, 5), (13, 3), (14, 1), (15, 0)] (withObject 0x2C base)

theorem base_path : base.pathIs gk 0xFFFFFFFF 0 baseGroup := ⟨by decide +kernel, by decide +kernel⟩
theorem base_block : look base.blocks 0 = some baseBlock := by decide +kernel
theorem base_seg : look base.segs sk = some baseSeg := by decide +kernel

/-- A statement over the lanes of a mask is one over 32 lanes. -/
theorem lanes_all {m : Mask} {p : Nat → Prop} (h : ∀ l, l < 32 → m.getLsbD l = true → p l) : ∀ l, m.getLsbD l = true → p l := fun l hl =>
  if h32 : l < 32 then h l h32 hl else absurd hl (by simp [BitVec.getLsbD_of_ge m l (by omega)])

/-! ### Witnesses: lane and uniform instructions -/

theorem witness_LaneIntegerBinary : demo.laneReady [255, 0, 1] [] [.v 0 0 (fun _ => true), .v 1 1 (fun _ => true)] = true ∧ demo.laneReady [255, 0, 1] [] [.v 0 0 intTag, .v 1 1 intTag] = true := by
  decide +kernel
theorem witness_LaneIntegerUnary : demo.laneReady [255, 0] [] [.v 0 0 (fun _ => true)] = true ∧ demo.laneReady [255, 0] [] [.v 0 0 intTag] = true ∧
    demo.laneReady [255] [] [] = true ∧ demo.laneReady [255] [12] [.g 12] = true := by decide +kernel
theorem witness_LaneIntegerTernary :
    demo.laneReady ([255, 0, 1] ++ srcV (.v 2)) (srcG (.v 2)) [.v 0 0 (fun _ => true), .v 1 1 (fun _ => true), opnd 2 (.v 2) (fun _ => true)] = true ∧
    demo.laneReady ([255, 0, 1] ++ srcV (.g 12)) (srcG (.g 12)) [.v 0 0 intTag, .v 1 1 intTag, opnd 2 (.g 12) intTag] = true ∧
    demo.laneReady ([255, 0, 1] ++ srcV (.v 2) ++ srcV (.g 13)) (srcG (.v 2) ++ srcG (.g 13))
      [.v 0 0 (fun _ => true), .v 1 1 (fun _ => true), opnd 2 (.v 2) (fun _ => true), opnd 3 (.g 13) (fun _ => true)] = true ∧
    demo.laneReady ([255, 0, 1] ++ srcV (.v 2)) (srcG (.v 2)) [.v 0 0 (fun _ => true), .v 1 1 (fun t => t == demo.tagOf 0), opnd 2 (.v 2) intTag] = true := by decide +kernel

/-- v4 to v9 carry float tags. -/
def floats : State := putTag [(4, .f32), (5, .f32), (6, .f64), (7, .f64hi), (8, .f64), (9, .f64hi), (10, .f16x2), (11, .f16x2), (12, .f32), (13, .f32), (14, .f32), (15, .i8x4)] demo
theorem witness_LaneFloatUnary :
    (floats.laneReady [255, 4] [] (fopnds (floats.tagOf 4) 0 (.v 4) shortFloatTag) = true ∧ floats.pairsReady (floats.tagOf 4) 255 [.v 4] = true) ∧
    (floats.laneReady [254, 6] [] (fopnds (floats.tagOf 6) 0 (.v 6) floatTag) = true ∧ floats.pairsReady (floats.tagOf 6) 254 [.v 6] = true) := by decide +kernel
theorem witness_LaneFloatBinary :
    (floats.laneReady [255, 10, 11] [] (fopnds (floats.tagOf 10) 0 (.v 10) floatTag ++ fopnds (floats.tagOf 10) 1 (.v 11) (fun x => x == floats.tagOf 10)) = true ∧
      floats.pairsReady (floats.tagOf 10) 255 [.v 10, .v 11] = true) ∧
    (floats.laneReady ([254, 6, 8] ++ srcV (.v 6)) (srcG (.v 6))
        (fopnds (floats.tagOf 6) 0 (.v 6) floatTag ++ fopnds (floats.tagOf 6) 1 (.v 8) (fun x => x == floats.tagOf 6) ++ fopnds (floats.tagOf 6) 2 (.v 6) (fun x => x == floats.tagOf 6)) = true ∧
      floats.pairsReady (floats.tagOf 6) 254 [.v 6, .v 8, .v 6] = true) ∧
    (floats.laneReady [252, 6, 8] [] (fopnds (floats.tagOf 6) 0 (.v 6) floatTag ++ fopnds (floats.tagOf 6) 1 (.v 8) (fun x => x == floats.tagOf 6)) = true ∧
      (floats.tagOf 6 = .f64 → 6 % 2 = 0 ∧ 8 % 2 = 0 ∧ 252 % 4 = 0 ∧ 252 + 3 < floats.vLimit)) ∧
    floats.laneReady [255, 0, 1] [] [.v 0 0 intTag, .v 1 1 intTag] = true := by decide +kernel
theorem witness_LaneConversions :
    (floats.laneReady [255, 4] [] (fopnds (floats.tagOf 4) 0 (.v 4) cvtTag) = true ∧ 0 < (floats.tagOf 4).count ∧ convertible (floats.tagOf 4) .i32 = true) ∧
    (floats.laneReady [20, 21, 10] [] [.v 0 10 shortFloatTag] = true ∧ ¬(floats.tagOf 10 = .f32 ∧ true = true)) ∧
    (floats.laneReady [255, 4, 5] [] (fopnds (floats.tagOf 4) 0 (.v 4) packTag ++ fopnds (floats.tagOf 4) 1 (.v 5) (fun x => x == floats.tagOf 4)) = true) ∧
    (floats.laneReady [20, 15] [] [.v 0 15 packedTag] = true ∧ 20 % (floats.tagOf 15).count = 0 ∧ 20 + (floats.tagOf 15).count ≤ floats.vLimit) ∧
    floats.laneReady [255, 0] [] [.v 0 0 (fun _ => true)] = true := by decide +kernel
/-- v12 to v15 all F32, for PACK4. -/
def fours : State := putTag [(15, .f32)] floats
theorem witness_LaneConversions_pack4 : fours.laneReady [255, 12, 12 + 3] [] ((pack4Src (fours.tagOf 12) 12).map (fun x => fopnds (fours.tagOf 12) 0 x (fun y => packTag y && y == fours.tagOf 12))).flatten = true ∧
    convertible (fours.tagOf 12) .dt8x4 = true := by decide +kernel
theorem witness_LaneExchanges :
    demo.laneReady ([255, 0] ++ srcV (.g 12)) (srcG (.g 12)) [.v 0 0 (fun _ => true), opnd 2 (.g 12) (fun _ => true)] = true ∧
    demo.laneReady [255, 0] [] [.v 0 0 (fun _ => true)] = true ∧
    demo.laneReady [0] [40] [.v 0 0 intTag] = true ∧ demo.laneReady [0] [40] [.v 0 0 (fun _ => true)] = true ∧
    demo.laneReady (0 :: 1 :: srcV (.v 2)) (40 :: srcG (.v 2)) [.v 0 0 (fun _ => true), .v 1 1 (fun _ => true), opnd 2 (.v 2) (fun _ => true)] = true ∧
    floats.laneReady [4] [40] [.v 0 4 (fun t => if reduxFloat .fadd then t == .f32 else intTag t)] = true ∧ demo.laneReady [255] [] [] = true := by decide +kernel

/-- The path of a sequencer program. -/
def seqBase : State := { withSeqs base with cur := .seq mq }
theorem witness_UniformImmediates : (demo.uniReady .any false [511] [] = true ∧ demo.uniReady .any false [511] [511] = true ∧ demo.uniReady .any false [511, 12] [12] = true) ∧
    (seqBase.uniReady .any false [63] [] = true ∧ seqBase.uniReady .any false [63] [63] = true ∧ seqBase.uniReady .any false [63, 12] [12] = true) := by decide +kernel
theorem witness_UniformBinary : demo.uniReady .any false [511, 12, 15] [12, 15] = true ∧ seqBase.uniReady .any false [63, 0, 1] [0, 1] = true := by decide +kernel
theorem witness_UniformTernary : demo.uniReady .any false [511, 12, 13, 14] [12, 13, 14] = true ∧ demo.uniReady .any false [511, 12, 13, 14] [511, 12, 13, 14] = true ∧
    demo.uniReady .any false [510, 510 + 1, 12, 12 + 1, 14, 14 + 1] [12, 12 + 1, 14, 14 + 1] = true := by decide +kernel
theorem witness_UniformControl : demo.uniReady .any false [] [] = true ∧ demo.uniReady .any false [12] [12] = true ∧ demo.uniReady .any false [12, 13] [12, 13] = true := by decide +kernel

/-- A LAND at offset 0 of the code. -/
def landed : State := putCode [0x8A000000] base
theorem witness_LaneBranches : landed.pathIs gk 0xFFFFFFFF 0 baseGroup ∧ landed.laneReady [1] [] [.v 0 1 intTag] = true ∧
    (∀ l, (0xFFFFFFFF#32).getLsbD l = true → ∃ a, landed.codeAt gk.blk (landed.vread 0 1 l) = some a ∧ landed.codeWord a = 0x8A000000) ∧
    (∀ l, (0xFFFFFFFF#32).getLsbD l = true → (baseGroup.lane l).ras.length < 16) :=
  ⟨⟨by decide +kernel, by decide +kernel⟩, by decide +kernel,
   lanes_all (fun l hl _ => ⟨2 ^ 34, (by decide +kernel : ∀ l < 32, landed.codeAt gk.blk (landed.vread 0 1 l) = some (2 ^ 34) ∧ landed.codeWord (2 ^ 34) = 0x8A000000) l hl⟩),
   lanes_all (fun l hl _ => (by decide +kernel : ∀ l < 32, (baseGroup.lane l).ras.length < 16) l hl)⟩
/-- Every lane has a return address. -/
def calledGroup : Group := { baseGroup with lanes := baseGroup.lanes.map (fun l => { l with ras := [8] }) }
def called : State := base.setGroup gk calledGroup
theorem witness_LaneBranches_ret : called.pathIs gk 0xFFFFFFFF 0 calledGroup ∧ (∀ l, (0xFFFFFFFF#32).getLsbD l = true → (calledGroup.lane l).ras ≠ []) :=
  ⟨⟨by decide +kernel, by decide +kernel⟩, lanes_all (fun l hl _ => (by decide +kernel : ∀ l < 32, (calledGroup.lane l).ras ≠ []) l hl)⟩

theorem witness_SpillBranches : base.pathIs gk 0xFFFFFFFF 0 baseGroup ∧ look base.blocks gk.blk = some baseBlock ∧ look base.segs ⟨gk.blk, baseGroup.seg⟩ = some baseSeg ∧
    base.laneReady [0] [2 * 2, 2 * 2 + 1] [.v 0 0 intTag, .g (2 * 2), .g (2 * 2 + 1)] = true ∧ baseGroup.region = none ∧ base.drained = true ∧
    base.readPair 1 (2 * 2) / 2 ^ baseBlock.vregs = 0 ∧ base.curPending = 0 := ⟨base_path, base_block, base_seg, by decide +kernel, rfl, by decide +kernel, by decide +kernel, by decide +kernel⟩
/-- Lane 0 has arrived at barrier 3, where lane 1 has not. -/
def pendingArrival : State := { base with blocks := [(0, { baseBlock with bars := baseBlock.bars.set 3 { baseBlock.bar 3 with expected := some 2, arrivals := [{ gid := 0, mask := 3, lanes := 1 }] } })] }
theorem witness_SpillBranches_cases : ((lanesOf 0xFFFFFFFF).filter (fun l => base.vread 0 1 l != 0) = [] ∧ (lanesOf 0xFFFFFFFF).filter (fun l => base.vread 0 0 l == 0) = [0]) ∧
    pendingArrival.pathIs gk 0xFFFFFFFF 0 baseGroup ∧ pendingArrival.curPending.getLsbD 0 = true ∧ base.curPending.getLsbD 0 = false ∧
    (base.setGroup gk { baseGroup with outs := 1 }).drained = false ∧ base.drained = true ∧ baseGroup.clobV = [] ∧ baseGroup.spilledNow 0 = false :=
  ⟨by decide +kernel, ⟨by decide +kernel, by decide +kernel⟩, by decide +kernel⟩

/-- The group in handler mode. -/
def handledGroup : Group := { baseGroup with handler := some 0xFFFFFFFF }
def handled : State := base.setGroup gk handledGroup
/-- A second group of the block stands pending in the slot. -/
def twoGroups : State := { base.setGroup ⟨0, 1⟩ baseGroup with slots := [(0, { active := [gk], pending := [⟨0, 1⟩] })] }
theorem witness_PathEnds : (base.pathIs gk 0xFFFFFFFF 0 baseGroup ∧ baseGroup.region = none ∧ base.unjoined = false ∧ base.curPending &&& 0xFFFFFFFF = 0 ∧ base.drained = true ∧ baseGroup.live &&& ~~~0xFFFFFFFF = 0 ∧
      baseGroup.handler = none ∧ baseGroup.lanes.length = 32) ∧
    (handled.pathIs gk 0xFFFFFFFF 0 handledGroup ∧ handledGroup.handler = some 0xFFFFFFFF) ∧
    (twoGroups.pathIs gk 0xFFFFFFFF 0 baseGroup ∧ look twoGroups.slots (twoGroups.slotOf gk) = some { active := [gk], pending := [⟨0, 1⟩] } ∧
      twoGroups.readyPending { active := [gk], pending := [⟨0, 1⟩] } = some ⟨0, 1⟩ ∧ gk ∈ [gk]) ∧
    (look base.slots (base.slotOf gk) = some { active := [gk], pending := [] } ∧ base.readyPending { active := [gk], pending := [] } = none) ∧
    (seqBase.cur = .seq mq ∧ look seqBase.seqs mq = some { seqStart with running := true } ∧ seqBase.drained = true) :=
  ⟨⟨base_path, by decide +kernel⟩, ⟨⟨by decide +kernel, by decide +kernel⟩, by decide +kernel⟩, ⟨⟨by decide +kernel, by decide +kernel⟩, by decide +kernel⟩, by decide +kernel, rfl, rfl, by decide +kernel⟩

theorem witness_SoftwareTraps : base.resident = true ∧ base.uniReady .group false [12, 13] [12, 13] = true := by decide +kernel
/-- The block has a trap vector. -/
def vectorBlock : Block := { baseBlock with trapv := some 64 }
def vectored : State := { base with blocks := [(0, vectorBlock)] }
/-- The group has something outstanding. -/
def outGroup : Group := { baseGroup with outs := 1 }
theorem witness_TrapEntry : (vectored.pathIs gk 0xFFFFFFFF 0 baseGroup ∧ look vectored.blocks gk.blk = some vectorBlock ∧ baseGroup.view = none ∧ baseGroup.region = none ∧ baseGroup.deferred = [] ∧ baseGroup.outs = 0 ∧
      baseGroup.handler = none ∧ vectorBlock.trapv = some 64) ∧
    ((base.setGroup gk outGroup).pathIs gk 0xFFFFFFFF 0 outGroup ∧ 0 < outGroup.outs) ∧
    (base.pathIs gk 0xFFFFFFFF 0 baseGroup ∧ baseBlock.trapv = none ∧ look base.tasks baseBlock.task = some (placedTask 1) ∧ (placedTask 1).st ≠ .ending) :=
  ⟨⟨⟨by decide +kernel, by decide +kernel⟩, by decide +kernel⟩, ⟨⟨by decide +kernel, by decide +kernel⟩, by decide⟩, base_path, by decide +kernel⟩
theorem witness_SequencerFaults : seqBase.cur = .seq mq ∧ look seqBase.seqs mq = some { seqStart with running := true } := ⟨by decide +kernel, by decide +kernel⟩

/-- A block whose groups have 8 v registers. -/
def narrowBlock : State := { base with blocks := [(0, { baseBlock with vregs := 8 })] }
theorem witness_FaultsAtIssue : (narrowBlock.onPath = true ∧ narrowBlock.vLimit ≤ 8 ∧ 7 < narrowBlock.vLimit) ∧
    ((putTag [(1, .poison)] demo).onPath = true ∧ (putTag [(1, .poison)] demo).tagOf 1 = .poison ∧ (putTag [(1, .poison)] demo).tagOf 0 ≠ .poison) ∧
    (intTag (floats.tagOf 4) = false ∧ floats.tagOf 4 ≠ .poison ∧ floats.tagOf 0 ≠ .poison ∧ intTag (floats.tagOf 0) = true) ∧
    (12 < demo.gLimit ∧ firmwareCsr .migratePolicy = true) ∧ demo.inHandler = false := by decide +kernel
theorem witness_SystemRegisters : demo.uniReady .group false [40] [] = true ∧ demo.uniReady .group false [12] [12] = true ∧ firmwareCsr .quantum = false ∧ demo.uniReady .group false [40, 12] [12] = true ∧
    (withArg (.word 1) demo).arg = .word 1 ∧ (withArg (.reg 4) demo).arg = .reg 4 ∧ demo.uniReady .group false [40, 40 + 1] [] = true := by decide +kernel
theorem witness_SpecialWords : base.pathIs gk 0xFFFFFFFF 0 baseGroup ∧ baseGroup.view = none ∧ base.uniReady .group false [40] [] = true := ⟨base_path, by decide +kernel, by decide +kernel⟩

/-! ### Witnesses: memory instructions -/

theorem witness_LaneMemoryIssue_objects :
    (demo.laneReady (offV (.scaled 1 2) ++ regs 4 2) [10, 10 + 1] ([.g 10, .g (10 + 1)] ++ offOpnds (.scaled 1 2)) = true ∧ demo.unreachable (ptrId (demo.readPair 0 10)) = false) ∧
    (demo.laneReady (offV (.none) ++ regs 4 2) [10, 10 + 1] ([.g 10, .g (10 + 1)] ++ offOpnds (.none) ++ (regs 4 2).map (fun j => Opnd.v 4 j anyTag)) = true) ∧
    (demo.laneReady ([1] ++ regs 2 (Rmw.op .add .n32).operandWords ++ regs 3 1) [10, 10 + 1] ([.g 10, .g (10 + 1)] ++ [.v 0 1 intTag] ++ rmwOpnds (.op .add .n32) 2) = true ∧
      ∀ l ∈ lanesOf demo.curLanes, ((ptrOff (demo.readPair 0 10) : Int) + ((demo.vread 0 1 l).toInt + (0#12).toInt)) % (Rmw.op .add .n32).bytes = 0) ∧
    demo.entryFree = true ∧ (fullTable demo).entryFree = false := by decide +kernel
/-- v1 and v2 RAW, for TRX. -/
def rawLanes : State := putTag [(1, .raw), (2, .raw)] demo
theorem witness_LaneMemoryIssue_scratchpad :
    (demo.laneReady (offV (.scaled 1 2) ++ regs 4 2) [15] (.g 15 :: offOpnds (.scaled 1 2)) = true ∧
      ∀ l ∈ lanesOf demo.curLanes, (((demo.readU 0 15).toNat : Int) + demo.laneIdx (.scaled 1 2) l + (0#12).toInt) % 4 = 0 ∧ 0 ≤ ((demo.readU 0 15).toNat : Int) + demo.laneIdx (.scaled 1 2) l + (0#12).toInt ∧
        ((demo.readU 0 15).toNat : Int) + demo.laneIdx (.scaled 1 2) l + (0#12).toInt + 4 ≤ demo.scrSize demo.curBlk) ∧
    demo.laneReady (offV (.scaled 1 2) ++ regs 4 1) [15] (.g 15 :: (offOpnds (.scaled 1 2) ++ (regs 4 1).map (fun j => Opnd.v 4 j anyTag))) = true ∧
    demo.laneReady ([1] ++ regs 2 (Rmw.op .add .n32).operandWords ++ []) [15] ([.g 15, .v 0 1 intTag] ++ rmwOpnds (.op .add .n32) 2) = true ∧
    (demo.laneReady [1] [15] [.v 0 1 intTag, .g 15] = true ∧ (demo.readU 3 15).toNat % 4 = 0 ∧ (demo.readU 3 15).toNat + 4 ≤ demo.scrSize demo.curBlk) ∧
    (rawLanes.laneReady (regs 4 3 ++ [1, 2]) [10, 10 + 1, 15] [.v 0 1 rawTag, .v 1 2 rawTag, .g 10, .g (10 + 1)] = true ∧ rawLanes.inRegion = false) := by decide +kernel
theorem witness_UniformMemoryIssue :
    (demo.uniReady .any false (regs 20 4 ++ [10, 10 + 1, 14]) [10, 10 + 1, 14] = true ∧ demo.unreachable (ptrId (demo.readPair 0 10)) = false) ∧
    demo.uniReady .any false (regs 20 4 ++ [10, 10 + 1, 14]) ([10, 10 + 1, 14] ++ regs 20 4) = true ∧
    (demo.uniReady .any false (regs 20 1 ++ [15, 15]) [15, 15] = true ∧ ((demo.readU 0 15).toNat + ((demo.readU 1 15).toInt + (8#9).toInt)) % 4 = 0 ∧
      0 ≤ (demo.readU 0 15).toNat + ((demo.readU 1 15).toInt + (8#9).toInt) ∧ (demo.readU 0 15).toNat + ((demo.readU 1 15).toInt + (8#9).toInt) + 4 ≤ demo.scrSize demo.curBlk) ∧
    demo.uniReady .any false (regs 20 1 ++ [15, 15]) ([15, 15] ++ regs 20 1) = true ∧
    (demo.uniReady .any false (regs 20 1 ++ [10, 10 + 1, 15] ++ regs 12 2) ([10, 10 + 1, 15] ++ regs 12 2) = true ∧ ((ptrOff (demo.readPair 0 10) : Int) + (demo.readU 1 15).toInt) % 4 = 0) ∧
    (seqBase.uniReady .any false (regs 20 4 ++ [10, 10 + 1, 14]) [10, 10 + 1, 14] = true ∧ seqBase.unreachable (ptrId (seqBase.readPair 0 10)) = false ∧ seqBase.entryFree = true) ∧
    (fullTable demo).uniReady .any false (regs 20 4 ++ [10, 10 + 1, 14]) [10, 10 + 1, 14] = true ∧ (fullTable demo).entryFree = false := by decide +kernel

/-- One piece of four bytes at an address. -/
def piece4 (addr : Nat) : Piece := { lane := 0, addr := addr, idx := 0, len := 4 }
/-- The group's entry 7, of one part, in the table; the step is its return. -/
def returning (kind : TxnKind) (addr : Nat) (s : State) : State :=
  withArg (.pair 7 0) { s with txns := [entry 7 kind [{ st := .todo, pieces := [piece4 addr] }]], agenda := [] }
/-- The return's part, its place and the object's descriptor are as ObjectAccessPerforms asks. -/
def objectReturn (kind : TxnKind) : Bool :=
  let s := returning kind (2 ^ 35 + 8) demo
  let t := entry 7 kind [{ st := .todo, pieces := [piece4 (2 ^ 35 + 8)] }]
  match s.route splitFuel ((2 ^ 35 + 8) / 2 ^ 34) ((2 ^ 35 + 8) % 2 ^ 34) with
  | .here id off d =>
    s.memOk && s.arg == .pair 7 0 && s.txn? 7 == some t && (look s.groups gk).isSome && (look s.groups gk).all (fun g => g.region == none) && s.partReady t 0 &&
      t.faults == [] && !d.closed && (s.channelRow t { st := .todo, pieces := [piece4 (2 ^ 35 + 8)] }).isNone && id == 2 && off == 8 && (s.accessFault t.need t.seen (t.laneAccess 0)).isNone && !(s.lineHeld ((2 ^ 35 + 8) / 128)) &&
      !(s.poisonedAt (2 ^ 35 + 8)) && (List.range 4).all (fun i => s.hereAddr (2 ^ 35 + 8 + i) == some (2 ^ 35 + 8 + i, d))
  | _ => false
theorem witness_ObjectAccessPerforms : objectReturn (.store false 4 .relaxed [(0, 0xAABBCCDD)]) = true ∧ objectReturn (.rmw false (.g 20) (.op .add .n32) .chip [(0, [5])]) = true ∧
    objectReturn (.load false (.g 20) .w32 .relaxed .nol1) = true := by decide +kernel
/-- The same in the scratchpad. -/
def scratchReturn (kind : TxnKind) : Bool :=
  let s := returning kind 64 demo
  let t := entry 7 kind [{ st := .todo, pieces := [piece4 64] }]
  match look s.segs sk with
  | some sg => s.memOk && s.txn? 7 == some t && (look s.groups gk).isSome && s.partReady t 0 && !(sg.tileHas 64 4 [.filling, .draining]) && !(sg.poison.contains 1)
  | none => false
theorem witness_ScratchpadAccessPerforms : scratchReturn (.store true 4 .relaxed [(0, 0xAABBCCDD)]) = true ∧ scratchReturn (.load true (.g 20) .w32 .relaxed .normal) = true := by decide +kernel
theorem witness_ScratchpadAccessPerforms_seen : baseSeg.unseenAt 64 4 = false := by decide +kernel

/-! ### Witnesses: waits, barriers, handles, regions -/

/-- Barrier 3 of the block, in a state. -/
def barBlock (x : Barrier) : Block := { baseBlock with bars := baseBlock.bars.set 3 x }
def barState (x : Barrier) : State := putG [(12, 5), (13, 0xFFFFFFFF), (14, 66)] { base with blocks := [(0, barBlock x)] }
def freshBar : Barrier := baseBlock.bar 3
/-- Uninitialised; one group expected; two expected, a phase seen. -/
def bar1 : State := barState { freshBar with expected := some 1 }
def bar2 : State := barState { freshBar with expected := some 2, phase := true, last := [(0, false)] }
def barGroup : Group := (look bar1.groups gk).getD baseGroup
theorem witness_Barriers : (bar1.pathIs gk 0xFFFFFFFF 0 barGroup ∧ bar2.pathIs gk 0xFFFFFFFF 0 barGroup) ∧
    (bar1.uniReady .any false [14] [14] = true ∧ (bar1.readU 0 14).toNat = 66 ∧ ((barBlock freshBar).bar 3).count = 0 ∧ 3 < (barBlock freshBar).bars.length) ∧
    (bar1.uniReady .any false [13] [13] = true ∧ bar1.readU 1 13 = 0xFFFFFFFF ∧ 0xFFFFFFFF &&& ~~~barGroup.live = 0 ∧ ((barBlock { freshBar with expected := some 1 }).bar 3).arrivals = [] ∧
      ((barBlock { freshBar with expected := some 1 }).bar 3).done = [] ∧ ((barBlock { freshBar with expected := some 2 }).bar 3).count + 1 < 2) ∧
    (bar1.uniReady .any true [] [] = true ∧ bar2.uniReady .any true [] [] = true ∧ (look ((barBlock { freshBar with expected := some 2, phase := true, last := [(0, false)] }).bar 3).last 0).getD true ≠ true) ∧
    (bar1.uniReady .group true [13] [13] = true ∧ barGroup.gsyncClash 0xFFFFFFFF = false) :=
  ⟨⟨⟨by decide +kernel, by decide +kernel⟩, by decide +kernel, by decide +kernel⟩, by decide +kernel⟩

/-- The group's lanes wait at a released barrier, at arrival counter 2 whose target is 0, at RDV. -/
def agentArg (s : State) : State := withArg (.agent (.grp gk)) s
def atBar : State := agentArg (pathWaits (.bar 3 none) base)
def atAwait : State := agentArg (pathWaits (.await 2) base)
def atRdv : State := agentArg (pathWaits .rdv base)
def groupOf (s : State) : Group := (look s.groups gk).getD baseGroup
theorem witness_PathWaitEnds : (atBar.arg = .agent (.grp gk) ∧ look atBar.groups gk = some (groupOf atBar) ∧ ((groupOf atBar).lane 0).wait = .bar 3 none) ∧
    (look atAwait.groups gk = some (groupOf atAwait) ∧ ((groupOf atAwait).lane 31).wait = .await 2 ∧ (baseBlock.ac 2).target.toNat ≤ (baseBlock.ac 2).count.toNat) := by decide +kernel
/-- A store of the group that its arrival at barrier 3 released is still out. -/
def barHeld (s : State) : State := { s with blocks := [(0, barBlock { freshBar with expected := some 2, phase := true, last := [(0, false)], released := [{ who := .grp gk, lanes := 0xFFFFFFFF, before := 8 }] })]
                                            txns := [entry 7 (.store false 4 .relaxed [(0, 5)]) [{ st := .todo, pieces := [{ lane := 0, addr := 2 ^ 35, idx := 0, len := 4 }] }]] }
theorem witness_Barriers_gate : bar2.barClear 0 3 = true ∧ (barHeld bar2).barClear 0 3 = false ∧ (barHeld bar2).uniReady .any true [] [] = true ∧ atBar.barClear 0 3 = true := by decide +kernel

def fenceWait (k : FenceKind) : State := agentArg (waits (.fence k .pod 8 0xFFFFFFFF) base)
/-- A load of the group, entry 7, is still out. -/
def loading (s : State) : State := { s with txns := [entry 7 (.load false (.v 20) .w32 .relaxed .normal) [{ st := .todo, pieces := [piece4 (2 ^ 35)] }]] }
def mrdyWait : State := agentArg (waits (.mrdy 8 0xFFFFFFFF) base)
theorem witness_Fences : base.uniReady .any false [] [] = true ∧ seqBase.uniReady .any false [] [] = true ∧
    (look (fenceWait .rel).groups gk = some (groupOf (fenceWait .rel)) ∧ (groupOf (fenceWait .rel)).wait = .fence .rel .pod 8 0xFFFFFFFF ∧ (fenceWait .rel).txns = []) ∧
    ((groupOf (fenceWait .ar)).wait = .fence .ar .pod 8 0xFFFFFFFF ∧ (groupOf (fenceWait .acq)).wait = .fence .acq .pod 8 0xFFFFFFFF) ∧
    ((groupOf { fenceWait .cmp with clock := 20 }).wait = .fence .cmp .pod 8 0xFFFFFFFF ∧ (groupOf { fenceWait .cmp with clock := 20 }).gwct + 8 < ({ fenceWait .cmp with clock := 20 } : State).ptime) ∧
    ((loading (fenceWait .rel)).txns.filter (fun t => t.who == .grp gk && decide (t.id < 8) && t.access)).length = 1 ∧
    ((groupOf mrdyWait).wait = .mrdy 8 0xFFFFFFFF ∧ ∀ t ∈ mrdyWait.txns, t.feeds = false) ∧ (∃ t ∈ (loading mrdyWait).txns, t.who = .grp gk ∧ t.id < 8 ∧ t.feeds = true) :=
  ⟨by decide +kernel, by decide +kernel, by decide +kernel, by decide +kernel, by decide +kernel, by decide +kernel, by decide +kernel,
   entry 7 (.load false (.v 20) .w32 .relaxed .normal) [{ st := .todo, pieces := [piece4 (2 ^ 35)] }], by decide +kernel⟩

/-- WAITC reads the word of object 2 at offset 0, which is 0. -/
def waitcOn (hit monitor : Bool) : Waitc :=
  { gd := 20, id := 2, off := 0, cond := .eq, n32 := true, value := 0, scope := .chip, deadline := some 5, monitor := monitor, hit := hit, polledAt := 0, path := 0xFFFFFFFF, marked := false }
def waitcWait (hit monitor : Bool) (now : Nat) : State := { agentArg (waits (.waitc (waitcOn hit monitor)) demo) with clock := now }
theorem witness_WaitOnWord :
    (demo.uniReady .any true [20, 10, 10 + 1, 15, 14] [10, 10 + 1, 15, 14] = true ∧ demo.drained = true ∧ ptrOff (demo.readPair 0 10) % 4 = 0 ∧ demo.unreachable 2 = false ∧
      demo.route splitFuel 2 0 = .here 2 0 { placedObject 1 with attrs := 0x2C } ∧ ({ placedObject 1 with attrs := 0x2C } : Desc).closed = false ∧ 0 + 4 ≤ (placedObject 1).len ∧ attrR 0x2C = true ∧
      wcompare .eq true (demo.monitorRead 2 0) (demo.readU 1 15) = true ∧ wcompare .ne true (demo.monitorRead 2 0) (demo.readU 1 15) = false) ∧
    ((groupOf (waitcWait true true 0)).wait = .waitc (waitcOn true true) ∧ (waitcOn true true).gd < (groupOf (waitcWait true true 0)).g.length) ∧
    ((groupOf (waitcWait false true 20)).wait = .waitc (waitcOn false true) ∧ 5 ≤ (waitcWait false true 20).ptime) ∧
    (0 + 1024 ≤ (waitcWait false false 4096).ptime ∧ (waitcWait false false 4096).route splitFuel 2 0 = .here 2 0 { placedObject 1 with attrs := 0x2C } ∧
      wcompare .eq true ((waitcWait false false 4096).monitorRead 2 0) 0 = true) := by decide +kernel

/-- Operation 9 of the group, named by h3. -/
def opOf (kind : OpKind) (st : OpState) : Op := { who := .grp gk, task := 2048, kind := kind, st := st, armed := false, cancel := false, gwct := 0, got := [], asked := [], acks := 0, outcome := none, stage := 0, codes := [], buf := [], plain := true, asker := none, entered := [] }
def withOp (o : Nat) (x : Op) (s : State) : State := { s.onGroup gk (fun g => { g with h := g.h.set 3 (.names o) }) with ops := [(o, x)] }
def holding (st : OpState) : State := withOp 5 (opOf .fabric st) demo
def handleWait (st : OpState) : State := agentArg (waits (.handle 5) (holding st))
theorem witness_Handles : ((holding .pending).readH 3 = .names 5 ∧ look (holding .pending).ops 5 = some (opOf .fabric .pending) ∧ (holding .done).readH 3 = .names 5) ∧
    ((holding .pending).uniReady .any true [20] [] = true ∧ (holding .done).uniReady .any false [20] [] = true ∧ (holding .done).uniReady .any false [] [] = true) ∧
    ((holding .pending).uniReady .any false [12] [12] = true ∧ ((holding .pending).readU 0 12).toNat = 5 ∧ (holding .pending).named 5 = true ∧ demo.named 5 = false) ∧
    ((handleWait .done).arg = .agent (.grp gk) ∧ (handleWait .done).agentWait (.grp gk) = .handle 5 ∧ ∀ e ∈ (handleWait .done).ops, e.2.st ≠ .pending) := by decide +kernel

/-- The block's arrival counter 2 waits for 7; a sequencer of the block runs; the group parks; the matrix sequencer's fault is held. -/
def counted7 : State := { base with blocks := [(0, { baseBlock with acs := baseBlock.acs.set 2 { count := 0, target := 7 } })] }
def parked (outs : Nat) : State := agentArg (base.onGroup gk (fun g => { g with wait := .park 0xFFFFFFFF 8, outs := outs }))
def heldRec : TrapRec := { code := .tileState, detail := 0, pc := 16, lanes := 0, resume := 24, deferred := false, seq := true, path := 0 }
def heldBase : State := { base with blocks := [(0, vectorBlock)], seqs := [(mq, { seqStart with halted := true, fault := some heldRec })] }
theorem witness_CountersAndJoins : base.uniReady .any false [12] [12] = true ∧ base.uniReady .any true [] [] = true ∧
    ((baseBlock.ac 2).target.toNat ≤ (baseBlock.ac 2).count.toNat ∧ (look counted7.blocks 0).all (fun b => decide ((b.ac 2).count.toNat < (b.ac 2).target.toNat))) ∧
    (base.uniReady .producer true [] [] = true ∧ base.seqs = [] ∧ (withSeqs base).uniReady .producer true [] [] = true ∧ ∃ e ∈ (withSeqs base).seqs, e.1.sg.blk = (withSeqs base).curBlk ∧ e.2.running = true) ∧
    (atRdv.arg = .agent (.grp gk) ∧ ((groupOf atRdv).lane 0).wait = .rdv ∧ atRdv.seqs = [] ∧ ((groupOf (withSeqs atRdv)).lane 0).wait = .rdv) ∧
    ((groupOf (parked 1)).wait = .park 0xFFFFFFFF 8 ∧ 0 < (groupOf (parked 1)).outs ∧ (groupOf (parked 0)).outs = 0 ∧ (groupOf (parked 0)).deferred = []) ∧
    (heldBase.cur = .path gk 0xFFFFFFFF 0 ∧ heldBase.heldFault 0 = some (mq, heldRec) ∧ heldBase.drained = true ∧ baseGroup.handler = none ∧ baseGroup.region = none ∧ vectorBlock.trapv = some 64) :=
  ⟨by decide +kernel, by decide +kernel, by decide +kernel, ⟨by decide +kernel, by decide +kernel, by decide +kernel, (mq, { seqStart with running := true }), by decide +kernel⟩, by decide +kernel, by decide +kernel,
   by decide +kernel⟩

/-- A region of the group, in slot 1. -/
def region1 (ended : Bool) : Region := { owner := gk, ended := ended, target := 64, reason := 20, reads := [], writes := [], preds := [], direct := [] }
def inRegion1 (ended : Bool) (s : State) : State := { s.onGroup gk (fun g => { g with region := some 1 }) with regions := [(1, region1 ended)], versions := [{ line := 2 ^ 28, slot := 1, bytes := [(4, 0xAA)] }] }
/-- A LAND at offset 0; every region slot is taken. -/
def landDemo : State := putG [(16, 0)] landed
def fullRegions (s : State) : State := { s with regions := (List.range Config.regionSlots).map (fun n => (n, { region1 false with owner := ⟨1, n⟩ })) }
theorem witness_RegionInstructions :
    (landDemo.pathIs gk 0xFFFFFFFF 0 (groupOf landDemo) ∧ landDemo.uniReady .region false [20, 16] [16] = true ∧ (groupOf landDemo).region = none ∧ (groupOf landDemo).live &&& ~~~0xFFFFFFFF = 0 ∧ landDemo.drained = true ∧
      20 < (groupOf landDemo).g.length ∧ landDemo.codeAt 0 (landDemo.readU 0 16) = some (2 ^ 34) ∧ landDemo.codeWord (2 ^ 34) = 0x8A000000 ∧ landDemo.freeSlot = some 0 ∧ (fullRegions landDemo).freeSlot = none) ∧
    ((inRegion1 false demo).pathIs gk 0xFFFFFFFF 0 (groupOf (inRegion1 false demo)) ∧ (inRegion1 false demo).uniReady .region false [] [] = true ∧ (groupOf (inRegion1 false demo)).region = some 1 ∧
      look (inRegion1 false demo).regions 1 = some (region1 false) ∧ (inRegion1 false demo).drained = true ∧ (inRegion1 false demo).uniReady .region false [12] [12] = true ∧ (inRegion1 false demo).uniReady .region false [20] [] = true) :=
  ⟨⟨⟨by decide +kernel, by decide +kernel⟩, by decide +kernel⟩, ⟨by decide +kernel, by decide +kernel⟩, by decide +kernel⟩
def ending1 : State := withArg (.num 1) (inRegion1 true demo)
def slotWait : State := agentArg (waits .rgSlot demo)
def aborting : State := agentArg ((inRegion1 false demo).onGroup gk (fun g => { g with abort := some 513 }))
/-- A store, entry 7, held for the line of region 1's version. -/
def heldStore (pieceAt line : Nat) : State :=
  withArg (.num 0) { inRegion1 true demo with regions := [], versions := [], txns := [entry 7 (.store false 4 .relaxed [(0, 0xAABBCCDD)]) [{ st := .held, pieces := [piece4 pieceAt] }]], held := [{ line := line, what := .part 7 0 }] }
/-- The group waits at RGEND. -/
def committing (r : Region) : State := { (inRegion1 true demo).onGroup gk (fun g => { g with wait := .rgCommit 0xFFFFFFFF 8 false }) with arg := .num 1, regions := [(1, r)] }
/-- The store alone, its group in no region; and with a region ENDED that wrote its line. -/
def heldAlone : State := { heldStore (2 ^ 35) (2 ^ 28) with groups := demo.groups }
def heldBehindRegion : State := { heldAlone with regions := [(1, { region1 true with writes := [2 ^ 28] })] }
theorem witness_RegionSteps_commit : (look (committing (region1 true)).groups gk).elim false (fun g => g.abort == none && g.wait == .rgCommit 0xFFFFFFFF 8 false) = true ∧ (committing (region1 true)).memOk = true ∧
    ((committing (region1 true)).versions.filter (fun v => v.slot == 1)).map (fun v => v.line) = [2 ^ 28] ∧ ((region1 true).preds = [] ∧ ({ region1 true with preds := [0] } : Region).preds ≠ []) ∧
    (look ((committing (region1 true)).onGroup gk (fun g => { g with abort := some 257 })).groups gk).elim false (fun g => g.abort != none) = true := by decide +kernel
theorem witness_RegionSteps_held : heldAlone.heldReady 0 { line := 2 ^ 28, what := .part 7 0 } = true ∧ heldBehindRegion.heldReady 0 { line := 2 ^ 28, what := .part 7 0 } = false ∧ heldAlone.memOk = true ∧
    (heldAlone.txn? 7).elim false (fun t => t.faults == [] && (heldAlone.accessFault t.need t.seen (t.laneAccess 0)).isNone) = true ∧ (look heldAlone.groups gk).elim false (fun g => g.region == none) = true ∧
    (match heldAlone.route splitFuel ((2 ^ 35) / 2 ^ 34) ((2 ^ 35) % 2 ^ 34) with | .here n off _ => n == 2 ^ 35 / 2 ^ 34 && off == 2 ^ 35 % 2 ^ 34 | _ => false) = true ∧ 2 ^ 35 / 128 = 2 ^ 28 := by decide +kernel
theorem witness_RegionSteps : (ending1.memOk = true ∧ ending1.arg = .num 1 ∧ look ending1.regions 1 = some (region1 true) ∧ (region1 true).preds = []) ∧
    (look (withArg (.num 1) (inRegion1 false demo)).regions 1 = some (region1 false) ∧ (region1 false).ended = false) ∧
    (slotWait.agentWait (.grp gk) = .rgSlot ∧ slotWait.freeSlot ≠ none) ∧
    (look aborting.groups gk = some (groupOf aborting) ∧ (groupOf aborting).region = some 1 ∧ (groupOf aborting).abort = some 513 ∧ (groupOf aborting).outs = 0 ∧ (region1 false).reason < (groupOf aborting).g.length) ∧
    ((heldStore (2 ^ 35) (2 ^ 28)).held[0]? = some { line := 2 ^ 28, what := .part 7 0 } ∧ (heldStore (2 ^ 35) (2 ^ 28)).heldReady 0 { line := 2 ^ 28, what := .part 7 0 } = true ∧ ((heldStore (2 ^ 35) (2 ^ 28)).txn? 7).isSome) ∧
    (withArg (.pair 0 0) demo).arg = .pair 0 0 := by decide +kernel

/-! ### Witnesses: tiles, copies, the matrix engine -/

/-- A tile of 16,384 bytes. -/
def tileOf (st : TileState) (tag : Tag) (off : Nat) : Tile := { st := st, origin := none, err := false, errCode := 0, tag := tag, off := off, len := 16384, taken := false, drain := none }
/-- Tiles 1 and 2 READY and F32, 3 EMPTY, 4 and 5 READY and E2M1X8, 6 and 7 READY and E8M0X4, 8 READY with a drain armed; stream 1 runs over 3, stream 2 over 1 and 2. -/
def tiled (s : State) : State := s.onSeg sk (fun g => { g with
  tiles := [(1, tileOf .ready .f16x2 0), (2, tileOf .ready .f16x2 16384), (3, tileOf .empty .f32 32768), (4, tileOf .ready .e2m1x8 0), (5, tileOf .ready .e2m1x8 0), (6, tileOf .ready .e8m0x4 0), (7, tileOf .ready .e8m0x4 0),
    (8, { tileOf .ready .f32 0 with drain := some 4 })]
  streams := (g.streams.set 1 { ring := [3], pos := 0 }).set 2 { ring := [1, 2], pos := 0 }
  tregs := g.tregs.set 2 { tag := .f32p, elems := [] } })
def segOf (s : State) : Segment := (look s.segs sk).getD baseSeg
def tdemo : State := tiled (putG [(20, 49152), (21, 512)] demo)
def tileWait : State := agentArg (waits (.tile sk 1 .ready) tdemo)
theorem witness_Tiles :
    (look tdemo.segs tdemo.curSeg = some (segOf tdemo) ∧ tdemo.uniReady .any true [20, 21] [20, 21] = true ∧ Tag.tileTag .f32 = true ∧ (tdemo.readU 0 20).toNat % 256 = 0 ∧ (tdemo.readU 2 21).toNat % 256 = 0 ∧
      0 < (tdemo.readU 2 21).toNat ∧ (tdemo.readU 0 20).toNat + (tdemo.readU 2 21).toNat ≤ tdemo.scrSize tdemo.curBlk ∧ ∀ e ∈ (segOf tdemo).tiles, e.2.st ≠ .empty → e.1 ≠ 9 ∧ (e.2.off + e.2.len ≤ 49152 ∨ 49152 + 512 ≤ e.2.off)) ∧
    (tdemo.uniReady .any true [] [] = true ∧ tdemo.tile? tdemo.curSeg 1 = some (tileOf .ready .f16x2 0) ∧ tdemo.readersOf tdemo.curSeg tdemo.curAgent 1 = false ∧
      (tdemo.tile? tdemo.curSeg 8).elim none (fun x => x.drain) = some 4) ∧
    (tdemo.uniReady .any true [20, 20 + 1] [] = true ∧ tdemo.statTile tdemo.curSeg (.tile 1) = .use 1 ∧ tdemo.statTile tdemo.curSeg (.stream 2) = .use 1) ∧
    (∀ n ∈ (tdemo.stream tdemo.curSeg 1).ring ++ regs 3 1, (tdemo.tile? tdemo.curSeg n).elim false (fun x => x.st == .empty) = true) ∧ (∀ j, j < 8 → j ≠ 1 → ∀ n ∈ regs 3 1, n ∉ (tdemo.stream tdemo.curSeg j).ring) ∧
    tdemo.uniReady .copy true (regs 20 16) (regs 20 16) = true ∧
    (tileWait.agentWait (.grp gk) = .tile sk 1 .ready ∧ tileWait.tile? sk 1 = some (tileOf .ready .f16x2 0) ∧
      (waits (.tile sk 3 .ready) tileWait).agentWait (.grp gk) = .tile sk 3 .ready ∧ tileWait.tile? sk 3 = some (tileOf .empty .f32 32768)) := by decide +kernel
/-- Another path reads tile 1. -/
def readBy : State := { tdemo with seqs := [(mq, seqStart)], segs := [(sk, { segOf tdemo with gmx := [(0, .mldt 2 1)] })] }
theorem witness_Tiles_readers : readBy.uniReady .any true [] [] = true ∧ readBy.readersOf readBy.curSeg readBy.curAgent 1 = true := by decide +kernel

/-- The two blocks of a copy of 16 bytes inside the scratchpad, from g32 and g48. -/
def copyBlocks : List (Nat × Word) := [(34, 0x50000000), (36, 1024), (45, 16), (48, 16), (54, 1)]
def copying : State := putG copyBlocks base
/-- A second segment of the block, for MCAST. -/
def casting : State := putG (copyBlocks ++ [(39, 1)]) base
theorem witness_CopyIssue :
    (copying.pathIs gk 0xFFFFFFFF 0 (groupOf copying) ∧ copying.uniReady .copy true (regs 32 16 ++ regs 48 16) (regs 32 16 ++ regs 48 16) = true ∧ (∀ e ∈ (copying.copyPlan 32 48 false false).2.1, e = none) ∧
      (copying.copyPlan 32 48 false false).2.2.1 = [] ∧ copying.busyHandle 3 = none ∧ 3 < (groupOf copying).h.length) ∧
    ((∀ e ∈ (casting.copyPlan 32 48 true false).2.1, e = none) ∧ (casting.copyPlan 32 48 true false).2.2.1 = []) ∧
    (copying.uniReady .copy true (20 :: (regs 32 16 ++ regs 48 16)) (regs 32 16 ++ regs 48 16) = true ∧ (∀ e ∈ (copying.copyPlan 32 48 false true).2.1, e = none) ∧ (copying.copyPlan 32 48 false true).2.2.1 = [] ∧
      copying.entryFree = true) :=
  ⟨⟨⟨by decide +kernel, by decide +kernel⟩, by decide +kernel⟩, by decide +kernel⟩

/-- That copy under way, as operation 5. -/
def copyOp : Op := opOf (.copy (copying.copyPlan 32 48 false false).1) .pending
def copyRuns : State := withArg (.num 5) (withOp 5 copyOp base)
def copyNoted : State := withArg (.num 5) (withOp 5 { copyOp with outcome := some (.failed 14 false) } base)
def copyCancelled : State := withArg (.num 5) (withOp 5 { copyOp with cancel := true } base)
theorem witness_CopySteps :
    (copyRuns.memOk = true ∧ look copyRuns.ops 5 = some copyOp ∧ look copyRuns.segs sk = some baseSeg ∧ (copying.copyPlan 32 48 false false).1.sg = sk ∧ (copying.copyPlan 32 48 false false).1.skind = 1 ∧
      (copying.copyPlan 32 48 false false).1.stag = .raw ∧ (copying.copyPlan 32 48 false false).1.dtag = .raw ∧ (copying.copyPlan 32 48 false false).1.dsz = 1 ∧ (copying.copyPlan 32 48 false false).1.start = [0] ∧
      (copying.copyPlan 32 48 false false).1.box = [16] ∧ (copying.copyPlan 32 48 false false).1.extent = [16] ∧ (copying.copyPlan 32 48 false false).1.stride = [1] ∧
      (copying.copyPlan 32 48 false false).1.targets = [sk] ∧ baseSeg.poison = [] ∧ ∀ i, i < 16 → baseSeg.tileHas i 1 [.filling] = false ∧ baseSeg.tileHas (1024 + i) 1 [.filling, .draining] = false) ∧
    copyNoted.copyMay 5 { copyOp with outcome := some (.failed 14 false) } (copying.copyPlan 32 48 false false).1 = true ∧
    (look copyCancelled.ops 5 = some { copyOp with cancel := true } ∧ copyOp.st = .pending ∧ copyOp.armed = false ∧ copyOp.outcome = none ∧ copyOp.acks = 0) := by decide +kernel
/-- The same of 128 bytes, to two sectors. -/
def longPlan : Copy := { (copying.copyPlan 32 48 false false).1 with box := [128], extent := [128] }
theorem witness_CopySteps_sectors : (copying.copyPlan 32 48 false false).1.sectors = [16] ∧ longPlan.sectors = [16, 17] ∧ longPlan.sectors[copyOp.stage]? = some 16 ∧
    ((copying.copyPlan 32 48 false false).1.dkind = 1 ∧ longPlan.layout = none ∧ longPlan.notify = none ∧ longPlan.mcast = false ∧ longPlan.esz = 0 ∧ copyOp.codes = [] ∧ copyOp.acks = 0 ∧ copyOp.cancel = false) ∧
    ∀ i, i < 128 → baseSeg.tileHas (longPlan.src + i) 1 [.filling] = false ∧ baseSeg.tileHas (longPlan.dst + i) 1 [.filling, .draining] = false := by decide +kernel

/-- The matrix sequencer's turn, with its e registers. -/
def putE (l : List (Nat × Word)) (s : State) : State := s.onSeq mq (fun e => { e with e := l.foldl (fun r x => r.set x.1 x.2) e.e })
def mdemo : State := putE [(8, 0x00070006), (9, 5)] (tiled seqBase)
theorem witness_MatrixIssue :
    mdemo.uniReady .gmx true [] [] = true ∧ (mdemo.treg mdemo.curSeg 2).tag = .f32p ∧
    (mdemo.uniReady .gmx true [0] [] = true ∧ (mdemo.twoTiles mdemo.curSeg (.tile 1) (.tile 2)).1 = .use 1 ∧ (mdemo.twoTiles mdemo.curSeg (.stream 2) (.tile 2)).2.1 = .use 2 ∧
      mdemo.tileTag mdemo.curSeg 1 = .f16x2 ∧ matK .f16x2 ≠ 0 ∧ matPair .f16x2 .f16x2 = true) ∧
    (mdemo.uniReady .gmx true [8, 9] [9] = true ∧ mdemo.struckU 8 = false ∧ (mdemo.twoTiles mdemo.curSeg (.tile 4) (.tile 5)).1 = .use 4 ∧ (mdemo.twoTiles mdemo.curSeg (.tile 4) (.tile 5)).2.1 = .use 5 ∧
      mdemo.tileTag mdemo.curSeg 4 = .e2m1x8 ∧ matK .e2m1x8 ≠ 0 ∧ matPair .e2m1x8 .e2m1x8 = true ∧ specOf ((mdemo.readU 0 8).toNat % 512) = some (.tile 6) ∧
      specOf ((mdemo.readU 0 8).toNat / 65536 % 512) = some (.tile 7) ∧ ((mdemo.twoTiles mdemo.curSeg (.tile 4) (.tile 5)).2.2.twoTiles mdemo.curSeg (.tile 6) (.tile 7)).1 = .use 6 ∧
      ((mdemo.twoTiles mdemo.curSeg (.tile 4) (.tile 5)).2.2.twoTiles mdemo.curSeg (.tile 6) (.tile 7)).2.1 = .use 7 ∧ mdemo.tileTag mdemo.curSeg 6 = .e8m0x4) ∧
    (mdemo.uniReady .gmx true [8, 9] [8, 9] = true ∧ mdemo.uniReady .gmx true [9, 8, 8 + 1] [9, 8, 8 + 1] = true ∧ mdemo.uniReady .gmx true [9] [9] = true ∧ mdemo.destTile mdemo.curSeg 3 = .use 3) ∧
    (mdemo.srcTile mdemo.curSeg (.tile 1) = .use 1) := by decide +kernel

/-- The engine's queue of the segment. -/
def queued (l : List (Word × Gmx)) : State := withArg (.seg sk) ((tiled (withSeqs base)).onSeg sk (fun g => { g with gmx := l }))
theorem witness_MatrixRuns : (queued [(8, .mzero 2), (16, .mma 2 1 2 none)]).arg = .seg sk ∧ (segOf (queued [(8, .mzero 2), (16, .mma 2 1 2 none)])).gmx = (8, .mzero 2) :: [(16, .mma 2 1 2 none)] ∧
    2 < (segOf (queued [])).tregs.length ∧ 8192 ≤ (queued []).tileLen sk 1 ∧ 8192 ≤ (queued []).tileLen sk 2 ∧ ((queued []).onTile sk 1 (fun x => { x with len := 256 })).tileLen sk 1 < 8192 ∧
    (look (queued []).seqs (msqOf sk)).elim false (fun q => !q.halted) = true := by decide +kernel

/-! ### Witnesses: the memory side -/

/-- Object 2 is an M object of one frame; the block of a memory-side command stands in g32 to g47. -/
def mobj : State := withObject 0x0E base
def withBlock (l : List (Nat × Word)) (s : State) : State := putG (l.map (fun e => (32 + e.1, e.2))) s
def reads16 (s : State) : Bool := s.uniReady .any true (regs 32 16) (regs 32 16)
/-- WNSCAN of 16 elements of format 0 with its result in object 2 (the bit 20 form), and in tile 3. -/
def scanObj : State := withBlock [(1, 8), (2, 16), (3, 0x00100000), (8, 4), (11, 8)] mobj
def scanTile : State := withBlock [(1, 8), (2, 16), (3, 0), (8, 4), (9, 3)] (tiled mobj)
def topkObj : State := withBlock [(1, 8), (2, 16), (3, 0x00240000), (4, 2), (11, 8)] mobj
def topkTile : State := withBlock [(1, 8), (2, 16), (3, 0x00200000), (4, 2), (9, 3)] (tiled mobj)
def zeros (P : List Word) (l : List Nat) : Bool := l.all (fun i => pw P i == 0)
theorem witness_MemorySideIssue_scans :
    (reads16 scanObj = true ∧ scanObj.busyHandle 3 = none ∧ pf (scanObj.block 32) 3 19 0 = 0 ∧ pf (scanObj.block 32) 3 31 28 ≤ 7 ∧ pf (scanObj.block 32) 3 21 21 ≠ 1 ∧ pf (scanObj.block 32) 3 20 20 = 1 ∧
      zeros (scanObj.block 32) [6, 7, 9, 12, 13, 14, 15] = true ∧ pd (scanObj.block 32) 0 % 17179869184 % scanBytes 0 = 0 ∧ scanObj.unreachable (ptrId (pd (scanObj.block 32) 0)) = false ∧
      scanObj.unreachable (ptrId (pd (scanObj.block 32) 10)) = false) ∧
    (reads16 scanTile = true ∧ pf (scanTile.block 32) 3 20 20 = 0 ∧ pw (scanTile.block 32) 9 = 3 ∧ zeros (scanTile.block 32) [6, 7, 10, 11, 12, 13, 14, 15] = true ∧ scanTile.destTile scanTile.curSeg 3 = .use 3 ∧
      16 + 8 * pw (scanTile.block 32) 8 ≤ scanTile.tileLen scanTile.curSeg 3) ∧
    (reads16 topkObj = true ∧ pf (topkObj.block 32) 3 17 0 = 0 ∧ pf (topkObj.block 32) 3 27 19 = 4 ∧ pf (topkObj.block 32) 3 18 18 = 1 ∧ pw (topkObj.block 32) 2 ≠ 0 ∧ pw (topkObj.block 32) 4 = 2 ∧
      zeros (topkObj.block 32) [5, 6, 7, 8, 9, 12, 13, 14, 15] = true) ∧
    (reads16 topkTile = true ∧ pf (topkTile.block 32) 3 18 18 = 0 ∧ pf (topkTile.block 32) 3 27 19 = 4 ∧ zeros (topkTile.block 32) [5, 6, 7, 8, 10, 11, 12, 13, 14, 15] = true ∧ topkTile.destTile topkTile.curSeg 3 = .use 3 ∧
      16 + 8 * 4 * 2 ≤ topkTile.tileLen topkTile.curSeg 3) := by decide +kernel
/-- NBX of one row and one NEXT in every place; KVSEAL of 2 elements and 1 head; RED of 4 adds from the scratchpad, and from the object. -/
def nbxBlock : State := withBlock ([(1, 8), (2, 1)] ++ (List.range 8).map (fun i => (4 + i, 0x90009000))) mobj
def sealBlock : State := withBlock [(1, 8), (2, 2), (3, 1), (5, 8), (7, 8), (9, 8), (10, 1)] mobj
def redScr : State := withBlock [(2, 0x80000000), (3, 4), (5, 8)] mobj
def redObj : State := withBlock [(1, 8), (2, 0), (3, 4), (5, 8)] mobj
theorem witness_MemorySideIssue_programs :
    (reads16 nbxBlock = true ∧ pw (nbxBlock.block 32) 2 = 1 ∧ pd (nbxBlock.block 32) 0 % 65536 / 2048 + 1 ≤ 32 ∧ microOps (nbxBlock.block 32) = List.replicate 16 0x9000#16 ∧ microOk 0x9000 = true ∧
      bits (0x9000#16).toNat 15 12 = 9 ∧ pd (nbxBlock.block 32) 0 % 2048 = 0 ∧ nbxBlock.unreachable 2 = false) ∧
    (reads16 sealBlock = true ∧ pw (sealBlock.block 32) 2 = 2 ∧ pw (sealBlock.block 32) 3 = 1 ∧ pw (sealBlock.block 32) 10 = 1 ∧ zeros (sealBlock.block 32) [11, 12, 13, 14, 15] = true ∧
      ∀ p ∈ [pd (sealBlock.block 32) 0, pd (sealBlock.block 32) 4, pd (sealBlock.block 32) 6, pd (sealBlock.block 32) 8], sealBlock.unreachable (ptrId p) = false) ∧
    (reads16 redScr = true ∧ redOp (pf (redScr.block 32) 2 25 22) = some .add ∧ pf (redScr.block 32) 2 30 26 = 0 ∧ pf (redScr.block 32) 2 18 0 = 0 ∧ zeros (redScr.block 32) [1, 6, 7, 8, 9, 10, 11, 12, 13, 14, 15] = true ∧
      pf (redScr.block 32) 2 31 31 = 1 ∧ (Rmw.op .add (AtomType.ofCode (BitVec.ofNat 3 (pf (redScr.block 32) 2 21 19)))).ok = true ∧ pw (redScr.block 32) 0 = 0 ∧
      0 + pw (redScr.block 32) 3 * 4 ≤ redScr.scrSize redScr.curBlk ∧ pd (redScr.block 32) 4 % 4 = 0 ∧ redScr.unreachable (ptrId (pd (redScr.block 32) 4)) = false) ∧
    (reads16 redObj = true ∧ pf (redObj.block 32) 2 31 31 = 0 ∧ redObj.unreachable (ptrId (pd (redObj.block 32) 0)) = false) := by decide +kernel

/-- Operation 5 of a kind, and its step. -/
def opStep (x : Op) (s : State) : State := withArg (.num 5) (withOp 5 x s)
def scanOf : Scan :=
  { sg := sk, topk := false, src := 2 ^ 35, count := 16, fmt := 0, op1 := 0, op2 := none, a1 := 0, b1 := 0, a2 := 0, b2 := 0, cap := 4, k := 0, segs := 1, tile := none, dest := 2 ^ 35 + 1024, rows := none, away := [], bufs := [], cands := [], nans := 0, written := 0 }
def nbxOf : Nbx := { base := 2 ^ 35, rows := 1, ops := [0x9000], ch := 0, mpc := 0, lc := 0, row := 0, accs := [], scalars := [], placed := false }
def sealOf : Kvseal := { src := 2 ^ 35, elems := 2, heads := 1, dst := 2 ^ 35 + 1024, scales := 2 ^ 35 + 4096, absmax := 2 ^ 35 + 8192, valid := 1 }
def redOf : Red := { sg := sk, scratch := true, src := 0, op := .add, ty := .i32, count := 4, dst := 2 ^ 35, next := 4 }
def sealing : State := opStep (opOf (.kvseal sealOf) .pending) mobj
theorem witness_MemorySideSteps :
    (look (opStep (opOf (.scan scanOf) .pending) mobj).ops 5 = some (opOf (.scan scanOf) .pending) ∧ (opStep (opOf (.scan scanOf) .pending) mobj).scanMay 5 (opOf (.scan scanOf) .pending) scanOf = true ∧
      (match (opStep (opOf (.scan scanOf) .pending) mobj).scanRows scanOf with | .ok r => !r.1.isEmpty && r.2.isEmpty | .error _ => false) = true) ∧
    ((opStep (opOf (.scan { scanOf with rows := some [] }) .pending) mobj).scanMay 5 (opOf (.scan { scanOf with rows := some [] }) .pending) { scanOf with rows := some [] } = true ∧ (opOf .fabric .pending).outcome = none) ∧
    (opStep { opOf (.scan { scanOf with rows := some [] }) .pending with outcome := some (.failed 21 false) } mobj).scanMay 5 { opOf (.scan { scanOf with rows := some [] }) .pending with outcome := some (.failed 21 false) }
      { scanOf with rows := some [] } = true ∧
    ((opStep (opOf (.nbx nbxOf) .pending) mobj).nbxMay 5 (opOf (.nbx nbxOf) .pending) nbxOf = true ∧ (opStep (opOf (.nbx nbxOf) .pending) mobj).rangeFault ⟨true, true⟩ (2 ^ 35) 2048 = 0 ∧
      ((opStep (opOf (.nbx nbxOf) .pending) mobj).rowAt (2 ^ 35)).isSome = true) ∧
    (sealing.kvsealMay (opOf (.kvseal sealOf) .pending) sealOf = true ∧ (sealing.readAll (opOf (.kvseal sealOf) .pending) sealOf.reads).elim 1 (fun r => r.2) = 0) ∧
    ((opStep (opOf (.red redOf) .pending) mobj).opWaits 5 = false ∧ redOf.count ≤ redOf.next) := by decide +kernel
/-- The scan of WNSCAN with rows given out. -/
def started (c : Scan) : Op := opOf (.scan { c with rows := some [] }) .pending
theorem witness_MemorySideSteps_thresher :
    (let c := { scanOf with bufs := [(0, 0, 5)] }
     (opStep (started c) mobj).scanMay 5 (started c) { c with rows := some [] } = true ∧ c.bufs ≠ []) ∧
    (let c := { scanOf with rows := some [], cands := [(0, 5)] }
     (opStep (started c) mobj).scanMay 5 (started c) c = true ∧ c.fresh ≠ [] ∧ (opStep (started c) mobj).stalled 5 [] = [] ∧ c.away = [] ∧ c.bufs = []) ∧
    ({ scanOf with rows := some [] } : Scan).fresh = [] := by decide +kernel

/-- The group's load of object 2, entry 7, is to wait at a channel; channel 5 with an activity waiting, with a refresh due, and in the middle of a switch. -/
def chanWith (c : Channel) : State := withArg (.num 5) { mobj with channels := [(5, c)] }
def chan0 : Channel := { openRow := none, switching := none, waiting := [.scrub 5], refreshDue := false, lastRefresh := 0, nextRefresh := 0, scrubAt := 0 }
theorem witness_Channels :
    ((returning (.load false (.v 20) .w32 .relaxed .normal) (2 ^ 35) mobj).demandPart 7 0).isSome = true ∧
    ((chanWith { chan0 with refreshDue := true }).chan 5).refreshDue = true ∧
    ((.scrub 5) ∈ ((chanWith chan0).chan 5).waiting ∧ (∀ b ∈ ((chanWith chan0).chan 5).waiting, (Activity.scrub 5).priority ≤ b.priority) ∧ ((chanWith chan0).chan 5).waiting.takeWhile (fun x => x != .scrub 5) = [] ∧
      (Activity.scrub 5).row? ≠ ((chanWith chan0).chan 5).openRow ∧ (Activity.scrub 5).row? = ((chanWith { chan0 with openRow := some 5 }).chan 5).openRow) ∧
    ((chanWith { chan0 with switching := some (.scrub 5) }).chan 5).switching = some (.scrub 5) ∧ ((chanWith chan0).chan 5).nextRefresh ≤ (chanWith chan0).clock ∧
    ((withArg (.sensor 23 681) base).arg = .sensor 23 681 ∧ 23 ∉ base.hot ∧ 680 < (681 : Word).toInt ∧ 23 ∈ ({ base with hot := [23] } : State).hot ∧ (639 : Word).toInt < 640) := by decide +kernel

/-! ### Witnesses: counted commands -/

/-- The pointer of object 2 in g10 and g11 and of object 3 in g16 and g17; this chip is valid in the live table. -/
def tableOf (self : Nat) : Table := { plan := 7, self := self, dateline := 0, entries := [(self, 0)] }
def cmds : State := putG [(16, 0), (17, 12), (18, 0x2C), (19, 2048)] { demo with fab := { Fabric.reset with st := .opened, live := some (tableOf 0) } }
/-- The task has the fabric grant. -/
def granted (s : State) : State := { s with tasks := s.tasks.map (fun e => (e.1, { e.2 with p := e.2.p.set 6 8 })) }
/-- A kernel record at offset 1024 of the code object and a record of a task for it, in g32 to g47. -/
def kernelWords : List Word := [0, 0xFFFFFFFF, 0xFFFFFFFF, 0xFFFFFFFF, 0x00004008, 0, 0, 0, 0, 0, 0, 0xFFFFFFFF, 0xFFFFFFFF, 0, 0, 0]
def recordWords : List (Nat × Word) := [(1, 4), (2, 1024), (3, 1), (4, 1), (5, 1), (6, 0), (7, 1), (11, 12)]
def launching : State := let s := withBlock recordWords cmds
  { s with objs := put s.objs 3 { placedObject 2 with len := 1048576 }, mem := s.mem.put (2 ^ 34 + 1024) ((kernelWords.map (fun w => bytesLE 4 w.toNat)).flatten) }
theorem witness_CountedCommandIssue :
    (cmds.uniReady .group true (([0, 2, 3].map (20 + ·)) ++ ([10, 10 + 1] ++ [18])) ([10, 10 + 1] ++ [18]) = true ∧ (cmds.readU 1 18).toNat < 128 ∧ ¬(attrL (cmds.readU 1 18) = true ∧ attrM (cmds.readU 1 18) = true)) ∧
    (cmds.unreachable (ptrId (cmds.readPair 0 10)) = false ∧ cmds.unreachable (ptrId (cmds.readPair 1 16)) = false ∧ cmds.validChip (birthOf (ptrId (cmds.readPair 0 10))) = true) ∧
    (launching.uniReady .group true (([0, 1].map (20 + ·)) ++ regs 32 16) (regs 32 16) = true ∧ (∀ e ∈ recordBad (launching.block 32), e.2 = false) ∧ pf (launching.block 32) 6 3 3 = 0 ∧
      (match launching.admitRecord (.launch launching.curAgent) (launching.block 32) launching.curPrio with | .ok (some _) => true | _ => false) = true ∧
      (match launching.admitBucket (.launch launching.curAgent) (launching.block 32) launching.curPrio 5 with | .ok none => true | _ => false) = true) ∧
    (cmds.uniReady .group true (([0].map (20 + ·)) ++ [18, 19]) [18, 19] = true ∧ cmds.uniReady .any true (([0, 1, 2, 3].map (20 + ·)) ++ []) [] = true) ∧
    ((granted cmds).uniReady .any true (([0].map (20 + ·)) ++ regs 32 16) (regs 32 16) = true ∧ (look (granted cmds).tasks ((granted cmds).taskOf (granted cmds).curBlk)).elim false (fun t => (t.p.getD 6 0).getLsbD 3) = true ∧
      zeros ((granted cmds).block 32) (1 :: regs 4 12) = true ∧ (granted cmds).unreachable (ptrId (pd ((granted cmds).block 32) 2)) = false) ∧
    ((fullTable launching).uniReady .group true (([0, 1].map (20 + ·)) ++ regs 32 16) (regs 32 16) = true ∧ (fullTable launching).entryFree = false) ∧
    cmds.entryFree = true ∧ (fullTable cmds).uniReady .group true (([0].map (20 + ·)) ++ [18, 19]) [18, 19] = true ∧ (fullTable cmds).entryFree = false := by decide +kernel
/-- The same record with its kernel in object 5 of chip 1. -/
def farLaunch : State := { withBlock [(1, 1048596)] launching with fab := { Fabric.reset with st := .opened, live := some { plan := 7, self := 0, dateline := 0, entries := [(0, 0), (1, 1)] }, locked := 1 } }
theorem witness_CountedCommandIssue_away : farLaunch.uniReady .group true (([0, 1].map (20 + ·)) ++ regs 32 16) (regs 32 16) = true ∧ (∀ e ∈ recordBad (farLaunch.block 32), e.2 = false) ∧
    (match farLaunch.admitRecord (.launch farLaunch.curAgent) (farLaunch.block 32) farLaunch.curPrio with | .error (.away ..) => true | _ => false) = true ∧
    (match farLaunch.admitBucket (.launch farLaunch.curAgent) (farLaunch.block 32) farLaunch.curPrio 5 with | .error (.away ..) => true | _ => false) = true := by decide +kernel

/-- A counted command of the group, entry 7, with its result in g20; where it returns, and where its invalidation completes. -/
def commandOut (c : Counted) (s : State) : State := withArg (.pair 7 0) { s with txns := [entry 7 (.command 20 c) [{ st := .todo, pieces := [] }]] }
def commandEnds (c : Counted) (s : State) : State := { commandOut c s with arg := .pair 0 7 }
def isCommand (c : Counted) (s : State) : Bool := s.txn? 7 == some (entry 7 (.command 20 c) [{ st := .todo, pieces := [] }]) && (look s.groups gk).elim false (fun g => decide (20 + 3 < g.g.length))
/-- A task at index 2050 that waits, with patch slot 1. -/
def waitingTask : Task := { placedTask 1 with st := .waiting, counter := 4, kernel := { placedKernel with pslots := 2 } }
def withTask (x : Task) (s : State) : State := { s with tasks := put s.tasks 2050 x }
def objectIs (n : Nat) (f : Desc → Bool) (s : State) : Bool := (look s.objs n).elim false f
theorem witness_CountedCommandResult :
    (isCommand .fbstat (commandOut .fbstat cmds) = true ∧ (commandOut .fbstat cmds).arg = .pair 7 0) ∧
    (isCommand (.oalloc 65537 0x2C) (commandOut (.oalloc 65537 0x2C) cmds) = true ∧ cmds.usedFrames + framesOf 65537 ≤ Config.frames ∧ cmds.nextSerial ≤ 262143) ∧
    (isCommand (.opin (2 ^ 35)) (commandOut (.opin (2 ^ 35)) cmds) = true ∧ (match (commandOut (.opin (2 ^ 35)) cmds).route splitFuel 2 0 with | .here n _ _ => n == 2 | _ => false) = true ∧
      objectIs 2 (fun x => x.mig.isNone && x.left == 0 && x.pins == 0 && decide (x.pins < 65535)) cmds = true ∧ objectIs 2 (fun x => decide (0 < x.pins)) { cmds with objs := upd cmds.objs 2 (fun (d : Desc) => { d with pins := 1 }) } = true) ∧
    (isCommand (.oloc (2 ^ 35)) (commandOut (.oloc (2 ^ 35)) cmds) = true ∧ birthOf 2 = cmds.chipId ∧ (look cmds.granary 2).isSome = true) ∧
    (isCommand (.patch 1 9 2050) (commandOut (.patch 1 9 2050) (withTask waitingTask cmds)) = true ∧ look (withTask waitingTask cmds).tasks 2050 = some waitingTask ∧ waitingTask.kernel.pslots / 2 ^ 1 % 2 = 1) ∧
    (isCommand (.tdec 2050 4) (commandOut (.tdec 2050 4) (withTask waitingTask cmds)) = true ∧ (4 : Word).toNat ≤ waitingTask.counter ∧ waitingTask.counter < (5 : Word).toNat) ∧
    ((match launching.admitRecord (.launch launching.curAgent) (launching.block 32) launching.curPrio with | .ok (some t) => launching.recordFits (.size 7) t == some true | _ => false) = true ∧ launching.freeTask = some 2049) ∧
    (isCommand (.launch none) (commandOut (.launch none) cmds) = true) ∧
    (isCommand (.tkill 2050) (commandOut (.tkill 2050) (withTask waitingTask cmds)) = true ∧ waitingTask.st ≠ .ending ∧ (2050 : Word).toNat ≠ cmds.taskOf 0) ∧
    (isCommand (.ofree (2 ^ 35)) (commandEnds (.ofree (2 ^ 35)) cmds) = true ∧ (commandEnds (.ofree (2 ^ 35)) cmds).arg = .pair 0 7 ∧ (commandEnds (.ofree (2 ^ 35)) cmds).objWaits 2 .free = false ∧ cmds.mem.wf = true) ∧
    (isCommand (.oattr (2 ^ 35) 0x28) (commandEnds (.oattr (2 ^ 35) 0x28) cmds) = true ∧ (commandEnds (.oattr (2 ^ 35) 0x28) cmds).objWaits 2 (.attr 0x28) = false ∧ objectIs 2 (fun x => (0x28 ^^^ x.attrs) &&& 0x43#32 == 0) cmds = true ∧
      objectIs 2 (fun x => (0x29 ^^^ x.attrs) &&& 0x43#32 != 0) cmds = true ∧ (commandEnds (.oattr (2 ^ 35) 0x29) cmds).objWaits 2 (.attr 0x29) = false) := by decide +kernel
theorem witness_CountedCommandResult_ready : (commandOut (.patch 1 9 2050) (withTask waitingTask cmds)).commandReady (entry 7 (.command 20 (.patch 1 9 2050)) [{ st := .todo, pieces := [] }]) (.patch 1 9 2050) = true ∧
    (commandOut (.tdec 2050 4) cmds).commandReady (entry 7 (.command 20 (.tdec 2050 4)) []) (.tdec 2050 4) = true ∧ (commandOut (.launch none) cmds).commandReady (entry 7 (.command 20 (.launch none)) []) (.launch none) = true ∧
    objectIs 2 (fun x => !x.closed) cmds = true := by decide +kernel

/-! ### Witnesses: frames, encoding, the step -/

/-- An outcome is a next state. -/
def isNext (o : Out) : Bool := match o with
  | .next _ => true
  | _ => false
theorem witness_LaneFrames : base.pathIs gk 0xFFFFFFFF 0 baseGroup ∧ base.laneDests (.iadd false 5 0 1) = some (4, false, [5], []) ∧ isNext (exec (.iadd false 5 0 1) base) = true ∧
    base.laneDests (.ballot false 40 0) = some (8, false, [], [40]) ∧ isNext (exec (.ballot false 40 0) base) = true := ⟨base_path, by decide +kernel⟩
theorem witness_UniformFrames : uniformDests (.gmovi false 20 8) = some (4, false, [20]) ∧ isNext (exec (.gmovi false 20 8) base) = true ∧ isNext (exec (.gmovi false 20 8) seqBase) = true := by decide +kernel
theorem witness_DecodeEncode : (Instr.mdrain true 2 true 8 10 7 .e4m3x4).wellFormed = true ∧ ((Instr.mdrain true 2 true 8 10 7 .e4m3x4).toRaw).isSome = true ∧
    (Instr.iadd false 255 0 1).wellFormed = true ∧ ((Instr.iadd false 255 0 1).toRaw).isSome = true := by decide +kernel

/-- The code object holds NOP, then IADD; the clock is even and the group's turn comes. -/
def running : State := { putCode [0x8B000000, 0x00050406, 0x8B000000] base with cur := .idle }
/-- Lanes 16 to 31 stand at the second instruction: two paths issue. -/
def twoPaths : State := running.onGroup gk (fun g => { g with lanes := g.lanes.mapIdx (fun i l => if 16 ≤ i then { l with pc := 8 } else l) })
/-- No group; the copy sequencer's turn comes. -/
def seqRuns : State := { running with groups := [], slots := [], seqs := [(cq, { seqStart with running := true })] }
def pathOne : PathOf := { lanes := 0xFFFFFFFF, pc := 0, age := 0 }
theorem witness_StepRuns_fetch : running.codeAt 0 4 = some (2 ^ 34 + 4) ∧ running.codeAt 0 (4 + 4) = some (2 ^ 34 + 4 + 4) ∧ running.codeUnknown (2 ^ 34 + 4) = false ∧ running.codeUnknown (2 ^ 34 + 4 + 4) = false ∧
    running.poisonedAt (2 ^ 34 + 4) = false ∧ running.poisonedAt (2 ^ 34 + 4 + 4) = false ∧
    decode (running.mem.bytes (2 ^ 34 + 4) 8) = .ok (.iadd false 5 4 6, bytesLE 4 0x8B000000) := by decide +kernel
theorem witness_StepRuns_paths :
    (running.agenda = [] ∧ running.phase = .up ∧ running.clock % 2 = 0 ∧ (match running.nextPick with | some (.one _ k p) => k == gk && p.pc == 0 && p.lanes == 0xFFFFFFFF | _ => false) = true ∧
      running.fetch 0 0 = .ok (.nop false)) ∧
    ((match twoPaths.nextPick with | some (.two _ k w l) => k == gk && (w.pc ^^^ l.pc) == 8 && (w.lanes ||| l.lanes) == 0xFFFFFFFF | _ => false) = true ∧ twoPaths.fetch 0 8 = .ok (.nop false)) ∧
    ((match seqRuns.nextPick with | some (.seq _ q) => q == cq | _ => false) = true ∧ (look seqRuns.seqs cq).isSome = true ∧ seqRuns.fetch 0 0 = .ok (.nop false)) ∧
    ({ running with agenda := [(.preemption, .none)] } : State).agenda = (.preemption, .none) :: [] := by decide +kernel
/-- Of the pair, both instructions go on and the group is then in no wait that keeps. -/
theorem witness_StepRuns_pair : (match twoPaths.nextPick with
    | some (.two u k w l) =>
      match exec (.nop false) (((twoPaths.noteIssue u k [w, l]).takeView k).asPath k l) with
      | .next t =>
        match exec (.nop false) (({ t with freeCtr := t.freeCtr + 1 } : State).asPath k w) with
        | .next x => pairEnd (t.groupWait k) (x.groupWait k) == .both
        | _ => false
      | _ => false
    | _ => false) = true := by decide +kernel
/-- How the pair of two paths ends that stand at instructions of two words (the second may be 0). -/
def pairOf (a b : Word × Word) : Option (PairEnd × Bool) :=
  let s : State := { putCode [a.1, a.2, b.1, b.2] base with cur := .idle }
  let u := s.onGroup gk (fun g => { g with lanes := g.lanes.mapIdx (fun i l => if 16 ≤ i then { l with pc := 8 } else l) })
  match u.nextPick with
  | some (.two v k w l) =>
    let x := (u.noteIssue v k [w, l]).takeView k
    match runPath exec x k l with
    | .next t =>
      match runPath exec { t with freeCtr := t.freeCtr + 1 } k w with
      | .next y => some (pairEnd (t.groupWait k) (y.groupWait k), isNext (runPath exec x k w))
      | _ => none
    | _ => none
  | _ => none
/-- NOP marked, FENCE.CMP.POD, BRK. -/
def parks : Word × Word := (0xCB000000, 0)
def fences : Word × Word := (0xB3000003, 0x1005)
def breaks : Word × Word := (0x8E000042, 0)
theorem witness_StepRuns_pairEnds : pairOf fences fences = some (.loserAlone, true) ∧ pairOf breaks breaks = some (.winnerAlone, true) ∧ pairOf parks parks = some (.both, true) ∧
    (pairOf breaks fences).elim false (fun r => match r.1 with | .trapAfter .. => true | _ => false) = true ∧
    (pairOf parks fences = some (.bothThen 0x0000FFFF, true) ∨ pairOf fences parks = some (.bothThen 0xFFFF0000, true)) := by decide +kernel
theorem witness_StepKeepsInv : (running.memOk = true ∧ running.cur = .idle ∧ running.arg = .none) ∧ isNext (step running) = true := by decide +kernel
theorem witness_PodTimeAndFirmware : running.memOk = true ∧ running.cur = .idle ∧ running.arg = .none ∧ isNext (step running) = true ∧ running.agenda.head? = none := by decide +kernel

/-! ### Witnesses: threads, slots, the scheduler -/

/-- A record of a thread spilled at 64. -/
def spawnAt (n : Nat) : Spawn := { thread := BitVec.ofNat 32 n, ras := [], xpc := 64, regs := [], gwct := 0, marked := false, lost := false }
/-- The block may hold eight groups; 32 threads of one class wait. -/
def wideBlock : Block := { baseBlock with gmax := 8, perSeg := 8 }
def spilling (n : Nat) : State := withArg (.seg sk) (({ base with blocks := [(0, wideBlock)] }).onSeg sk (fun g => { g with spawn := (List.range n).map spawnAt }))
/-- The group waits for a move of threads. -/
def movingTo : State := withArg (.num 0) (base.onGroup gk (fun g => { g with wait := .moving }))
/-- g12 and g13 name v0, v1 and v2 to regroup; one lane only is live; something is out. -/
def regrouping : State := putG [(12, 7)] base
theorem witness_ThreadsAndSlots_path :
    (regrouping.pathIs gk 0xFFFFFFFF 0 (groupOf regrouping) ∧ base.uniReady .producer true (regs 32 16) (regs 32 16) = true ∧ base.unjoined = false ∧ base.uniReady .group true [20] [] = true) ∧
    (regrouping.uniReady .group true ([20] ++ [12, 12 + 1]) [12, 12 + 1] = true ∧ 0 < regrouping.vLimit ∧ regrouping.readPair 0 12 / 2 ^ regrouping.vLimit = 0 ∧
      (∀ j ∈ regs 0 3, regrouping.readPair 0 12 / 2 ^ j % 2 = 1 ∧ regrouping.tagOf j ≠ .poison) ∧ (groupOf regrouping).live &&& ~~~0xFFFFFFFF = 0 ∧ regrouping.drained = true) ∧
    (regrouping.uniReady .group true ([] ++ [12, 12 + 1]) [12, 12 + 1] = true ∧ regrouping.aliveGroups 0 = [(gk, groupOf regrouping)] ∧ (groupOf regrouping).wait = .none ∧ (groupOf regrouping).clobV = [] ∧
      (∀ e ∈ regrouping.segs, e.2.spawn = []) ∧ regrouping.readPair 0 12 / 2 ^ 0 % 2 = 1 ∧ 0 < (groupOf regrouping).v.length) ∧
    ((regrouping.onGroup gk (fun g => { g with outs := 1 })).drained = false) := ⟨⟨⟨by decide +kernel, by decide +kernel⟩, by decide +kernel⟩, by decide +kernel⟩
theorem witness_ThreadsAndSlots_steps :
    (movingTo.arg = .num gk.blk ∧ look movingTo.groups gk = some (groupOf movingTo) ∧ (groupOf movingTo).ended = false ∧ (groupOf movingTo).wait = .moving ∧ (groupOf movingTo).live ≠ 0) ∧
    ((spilling 32).blockRuns 0 = true ∧ look (spilling 32).blocks 0 = some wideBlock ∧ (spilling 32).freeGid sk = some 1 ∧ ((spilling 32).nextSheaf sk false).length = 32 ∧ 0 < wideBlock.vregs) ∧
    ((spilling 31).nextSheaf sk false = []) := by decide +kernel
/-- Slot 0: nine groups of the block, the first parked or not; the last pending, ready for 256 clocks. -/
def nine (parks long : Bool) : State :=
  let g := fun (n : Nat) => { baseGroup with wait := if parks && n == 0 then .handle 5 else .none, slot := 0, readySince := 0 }
  withArg (.num 0) { base with clock := if long then 256 else 0, groups := (List.range 9).map (fun n => (⟨0, n⟩, g n)), slots := [(0, { active := (List.range 8).map (fun n => ⟨0, n⟩), pending := [⟨0, 8⟩] })] }
def slot0 : Slot := { active := (List.range 8).map (fun n => ⟨0, n⟩), pending := [⟨0, 8⟩] }
theorem witness_ThreadsAndSlots_slots :
    (look (nine true false).slots 0 = some slot0 ∧ 8 ≤ slot0.active.length ∧ slot0.active.find? (nine true false).groupParked = some ⟨0, 0⟩ ∧ (nine true false).readyPending slot0 = some ⟨0, 8⟩) ∧
    slot0.active.find? (nine false false).groupParked = none ∧ (slot0.pending.filter (nine false true).longReady = [⟨0, 8⟩] ∧ slot0.pending.filter (nine false false).longReady = []) ∧
    (look (withArg (.num 0) twoGroups).slots 0 = some { active := [gk], pending := [⟨0, 1⟩] } ∧ ({ active := [gk], pending := [⟨0, 1⟩] } : Slot).active.length < 8) := by decide +kernel

/-- A task of one block that is READY at index 2050. -/
def readyTask : Task := { placedTask 1 with st := .ready, next := 0, active := 0 }
def ready : State := withTask readyTask base
theorem witness_Scheduling_placement : (match ready.nextAdmission with | some (.start i ((_, _) :: _)) => i == 2050 | _ => false) = true ∧ look ready.tasks 2050 = some readyTask ∧
    ∀ e ∈ ready.blocks, e.1 < ready.nextUid := by decide +kernel
/-- The task ends and nothing of it runs; its watchdog is due after 1 ms. -/
def endingTask : State := { base with tasks := [(2048, { placedTask 1 with st := .ending })], arg := .num 2048 }
def watched (now : Nat) : State := { vectored with clock := now, arg := .num 2048, cur := .idle, tasks := [(2048, { placedTask 1 with p := (placedTask 1).p.set 15 1 })] }
theorem witness_Scheduling_tasks :
    (look endingTask.tasks 2048 = some { placedTask 1 with st := .ending } ∧ (∀ e ∈ endingTask.blocks, e.2.task = 2048 → endingTask.blockQuiet e.1 = true) ∧ endingTask.taskOps 2048 = false ∧ endingTask.pendingEvents = []) ∧
    ((watched 2000000).watchDue 2048 { placedTask 1 with p := (placedTask 1).p.set 15 1 } = true ∧ (watched 0).watchDue 2048 { placedTask 1 with p := (placedTask 1).p.set 15 1 } = false ∧
      ((watched 2000000).blocks.map Prod.fst).Nodup ∧ look (watched 2000000).groups gk = some baseGroup ∧ look (watched 2000000).blocks 0 = some vectorBlock ∧ vectorBlock.task = 2048 ∧ vectorBlock.trapv = some 64 ∧
      baseGroup.region = none ∧ baseGroup.ended = false ∧ baseGroup.wait = .none ∧ baseGroup.outs = 0 ∧ baseGroup.deferred = [] ∧ baseGroup.handler = none) := by decide +kernel
/-- A cohort of four blocks that take all of a core each: three run on cores 1 to 3, the first is saved and waits for the core of the block, whose priority is lower. -/
def hungry : Task := { placedTask 1 with next := 4, active := 4, p := ((((placedTask 1).p.set 3 4).set 5 0x000C0001).set 6 3).set 7 4, kernel := { placedKernel with scr := 1048576 } }
def hungryBlock (n : Nat) (saved : Bool) : Nat × Block := (n, { blockStart 2050 hungry (n - 7) 0 [n - 7] 0 with saved := saved })
def withHungry (s : State) : State := withTask hungry { s with blocks := s.blocks ++ [hungryBlock 7 true, hungryBlock 8 false, hungryBlock 9 false, hungryBlock 10 false] }
def starving : State := withHungry base
theorem witness_Scheduling_preemption : starving.victims starving.ordered = [0] ∧ (look starving.blocks 0).isSome = true := by decide +kernel
def atNum (n : Nat) (s : State) : State := { s with arg := .num n, cur := .idle }
def stopped : State := atNum 0 { base with blocks := [(0, { baseBlock with stopping := true })] }
def monitored : State := atNum 0 (withHungry (waits (.waitc (waitcOn false true)) base))
def swappedOut : State := atNum 0 { base with clock := 4096, blocks := [(0, { baseBlock with swapped := true, saved := true })] }
def savedBase : State := { base with blocks := [(0, { baseBlock with saved := true })] }
theorem witness_Scheduling_blocks :
    (look stopped.blocks 0 = some { baseBlock with stopping := true } ∧ look stopped.tasks baseBlock.task = some (placedTask 1) ∧ (placedTask 1).st ≠ .ending ∧ stopped.blockQuiet 0 = true ∧ baseBlock.stopping = false) ∧
    ((placedTask 1).coop = false ∧ monitored.allMonitors 0 = true ∧ monitored.waiter baseBlock.prio = true ∧ (atNum 0 base).waiter baseBlock.prio = false) ∧
    (look swappedOut.blocks 0 = some { baseBlock with swapped := true, saved := true } ∧ 0 + 1024 ≤ swappedOut.ptime ∧ baseBlock.polledAt = 0) ∧
    ((match savedBase.nextAdmission with | some (.restore l [(_, _)]) => l == [0] | _ => false) = true ∧ look savedBase.blocks 0 = some { baseBlock with saved := true }) := by decide +kernel

/-! ### Witnesses: objects and the fabric -/

/-- A packet that a neighbour sends. -/
def packetOf (t : PacketType) (body : PBody) (data : List Byte) : Packet :=
  { type := t, lane := false, dst := 0, src := 1, plan := 7, hops := 0, g := false, o := false, reporter := 0, onward := false, resent := false, coded := false, link := 0, tag := 9, epoch := 0, ord := 0, body := body, payload := data }
def withMig (m : Migration) (s : State) : State := { s with objs := upd s.objs 2 (fun (d : Desc) => { d with mig := some m }) }
def mig0 : Migration := { lead := 2, dest := 1, asker := none, stage := .bulk, pass := 1, rows := [], queue := [], dirty := [], cutting := false, sent := 0 }
/-- A table with this chip, 0, and chip 1 beyond port 0. -/
def pair01 : Table := { plan := 7, self := 0, dateline := 0, entries := [(0, 0), (1, 1)] }
/-- The pointer of object 2 in g10 and g11, a chip number in g12 (1) and in g13 (0). -/
def moves : State := putG [(12, 1), (13, 0), (14, 4096)] { demo with fab := { Fabric.reset with st := .opened, live := some pair01, locked := 1 } }
def pinned (n : Nat) (s : State) : State := { s with objs := upd s.objs 2 (fun (d : Desc) => { d with pins := n }) }
def here2 (s : State) : Bool := (match s.route splitFuel 2 0 with | .here n _ _ => n == 2 | _ => false) && objectIs 2 (fun d => d.left == 0) s
theorem witness_ObjectMoves_issue :
    (moves.busyHandle 3 = none ∧ ptrId (moves.readPair 0 10) = 2 ∧ moves.unreachable 2 = false ∧ moves.uniReady .group true [10, 10 + 1, 12] [10, 10 + 1, 12] = true ∧ moves.validChip 1 = true) ∧
    (here2 moves = true ∧ (moves.readU 1 13).toNat = moves.chipId ∧ moves.moveRefused 2 = false ∧ here2 (pinned 1 moves) = true ∧ (pinned 1 moves).moveRefused 2 = true) ∧
    (moves.uniReady .group true [10, 10 + 1] [10, 10 + 1] = true ∧ objectIs 2 (fun d => d.pins == 0) moves = true ∧ objectIs 2 (fun d => d.pins == 1) (pinned 1 moves) = true ∧ (pinned 1 moves).objWaits 2 .inval = false) := by
  decide +kernel
/-- An invalidation of object 2 that OINV asked for, operation 5, its grace over at 100. -/
def invOf : Inval := { deadline := 100, asker := .op 5, free := false, before := 6, asked := 0 }
def revoked (now : Nat) : State := { withOp 5 (opOf (.oinv 2) .pending) (pinned 1 moves) with clock := now, arg := .num 2, objs := upd (pinned 1 moves).objs 2 (fun (d : Desc) => { d with inv := some invOf }) }
theorem witness_ObjectMoves_inval :
    ((revoked 0).arg = .num 2 ∧ objectIs 2 (fun d => d.inv == some invOf) (revoked 0) = true ∧ look (revoked 0).ops 5 = some (opOf (.oinv 2) .pending) ∧ (revoked 0).quiet 2 = true ∧ (revoked 0).inUse 2 = false) ∧
    (100 ≤ (revoked 105).ptime ∧ (revoked 104).ptime < 100) ∧
    (((revoked 0).onSeg sk (fun g => { g with tiles := [(1, { tileOf .filling .f32 0 with origin := some 2 })] })).inUse 2 = true) := by decide +kernel
/-- Object 2 of 17 frames, so that 17 may be dirty. -/
def migrating (m : Migration) : State := withMig m { (withArg (.num 2) moves) with objs := upd moves.objs 2 (fun (d : Desc) => { d with len := 17 * 65536 }) }
/-- A demand for a row of object 2, an M object, waits at its channel; a scan runs over it. -/
def busyChannel : State :=
  let m := { revoked 0 with objs := upd (revoked 0).objs 2 (fun (d : Desc) => { d with attrs := 0x0E }) }
  let r := (look m.objs 2).elim 0 (fun d => rowOf d 0)
  { m with channels := [(chanOf r, { openRow := none, switching := none, waiting := [.request 0 (packetOf .read (.read (2 ^ 35) 128 (.plain .data)) []) r], refreshDue := false, lastRefresh := 0, nextRefresh := 0, scrubAt := 0 })] }
def scanned : State := { migrating mig0 with ops := [(9, opOf (.scan { scanOf with rows := some [(0, 2 ^ 35)] }) .pending)] }
theorem witness_ObjectMoves_busy : busyChannel.quiet 2 = false ∧ ((scanned.leads 2).isSome = true ∧ scanned.passOver 2 = true ∧ 2 ∈ scanned.moving 2 ∧ scanned.running 2 = true) ∧ (∀ x ∈ (migrating mig0).moving 2, (migrating mig0).running x = false) ∧
    moves.moveWaits 2 = false ∧ (opOf (.oinv 2) .pending).acks = 0 ∧ (opOf (.oinv 2) .pending).asker = none ∧ objectIs 2 (fun d => !d.closed) moves = true := by decide +kernel
theorem witness_ObjectMoves_passes :
    ((migrating mig0).leads 2 = some mig0 ∧ (migrating mig0).passOver 2 = true ∧ (migrating mig0).dirtyCount 2 ≤ 16) ∧
    ((migrating { mig0 with rows := [5] }).leads 2 = some { mig0 with rows := [5] } ∧ (migrating { mig0 with rows := [5] }).passOver 2 = false) ∧
    (let m := { mig0 with dirty := List.range 17 }
     (migrating m).leads 2 = some m ∧ (migrating m).passOver 2 = true ∧ 16 < (migrating m).dirtyCount 2 ∧ m.pass < 8 ∧ (migrating { m with pass := 8 }).passOver 2 = true ∧ 16 < (migrating { m with pass := 8 }).dirtyCount 2) ∧
    ((migrating mig0).cutMay 2 = false) ∧ (let m := { mig0 with stage := .draining }
     (migrating m).leads 2 = some m ∧ ∀ x ∈ (migrating m).moving 2, (migrating m).quiet x = true) := by decide +kernel
def stubbed (now : Nat) : State := { moves with clock := now, arg := .num 2, stubs := [(2, { next := 1, epoch := 0, used := 0, confirming := false })] }
theorem witness_ObjectMoves_times :
    (({ base with clock := 33554432 } : State).halvedAt + 16777216 ≤ ({ base with clock := 33554432 } : State).ptime ∧ base.ptime < base.halvedAt + 16777216 ∧ (look demo.objs 2).isSome = true) ∧
    ((stubbed 0).ptime < 0 + (stubbed 0).stubIdle.toNat * 1000 ∧ 0 + (stubbed 200000000).stubIdle.toNat * 1000 ≤ (stubbed 200000000).ptime ∧ birthOf 2 = (stubbed 0).chipId ∧
      (look (stubbed 0).granary 2).elim false (fun e => decide (0 ≤ e.epoch)) = true) := by decide +kernel

/-- The fabric in a state, with the grant, port 0 locked, the table staged. -/
def fabric (st : FabState) : State := granted (withBlock [(0, 1), (2, 0)] { base with fab := { Fabric.reset with st := st, live := some pair01, locked := 1 } })
def relocking (st : FabState) : State := granted (withBlock [(0, 1), (2, 7)] { base with fab := { Fabric.reset with st := st, live := some pair01, staged := some pair01 } })
theorem witness_FabricController_commands :
    (base.uniReady .any true [] [] = true ∧ base.grantExc ≠ none ∧ reads16 base = true) ∧
    ((fabric .opened).uniReady .any true [] [] = true ∧ (fabric .opened).grantExc = none ∧ (fabric .opened).busyHandle 3 = none ∧ (fabric .opened).fab.st = .opened ∧ (fabric .locked).fab.st = .locked ∧ (fabric .drained).fab.st = .drained) ∧
    (reads16 (fabric .drained) = true ∧ zeros ((fabric .drained).block 32) (regs 2 14) = true) ∧
    (reads16 (relocking .dark) = true ∧ (relocking .dark).grantExc = none ∧ zeros ((relocking .dark).block 32) (regs 3 13) = true ∧ (relocking .dark).fab.st = .dark ∧ (relocking .lockfail).fab.st = .lockfail ∧
      (relocking .dark).fab.staged.elim false (fun x => x.plan.toNat == pw ((relocking .dark).block 32) 2) = true) := by decide +kernel
/-- Draining with no marker out; locking on port 0. -/
def drainsOver : State := { base with fab := { Fabric.reset with st := .draining, live := some pair01, locked := 1 } }
/-- Its lock: port 0 alone, whose peer has presented a pod time 5 ns ahead; the chips whose times are covered and those that have stepped are both of the table, or this chip alone. -/
def relockOf (done : BitVec 64) (all : BitVec 4096 := 3) : Relock := { mask := 1, done := done, plan := 7, deadline := 1000000, lead := 5, known := all, moved := all }
def locking (done : BitVec 64) : State := { base with fab := { Fabric.reset with st := .locking, live := some pair01, staged := some pair01, relock := some (relockOf done) } }
theorem witness_FabricController_steps :
    (drainsOver.drainOver = true ∧ base.drainOver = false) ∧
    ((locking 1).fab.relock = some (relockOf 1) ∧ (locking 1).fab.agreed (relockOf 1) = true ∧ (locking 0).fab.relock = some (relockOf 0) ∧ (locking 0).fab.agreed (relockOf 0) = false ∧ (locking 0).fab.st = .locking ∧ 1000000 ≤ ({ locking 0 with clock := 2000000 } : State).ptime ∧ (locking 0).ptime < 1000000) ∧
    ((withArg (.packet 0 (packetOf .sync (.sync 7 5 false 3 3) [])) (locking 0)).arg = .packet 0 (packetOf .sync (.sync 7 5 false 3 3) []) ∧ (1 : BitVec 64).getLsbD (0 : BitVec 6).toNat = true ∧ (8 : BitVec 16) ≠ 7) := by decide +kernel

/-- RSEND of 64 bytes of the scratchpad, and of object 2, to chip 1; RFETCH of 64 bytes of object 2. -/
def sendScr : State := withBlock [(0, 0x40000000), (4, 64), (5, 1), (6, 2048)] moves
def sendObj : State := withBlock [(0, 0), (3, 8), (4, 64), (5, 1), (6, 2048)] moves
def fetchScr : State := withBlock [(0, 0x40000000), (4, 64), (11, 8)] moves
theorem witness_TransfersAndLinks_issue :
    (reads16 sendScr = true ∧ sendScr.busyHandle 3 = none ∧ pf (sendScr.block 32) 0 25 0 = 0 ∧ pw (sendScr.block 32) 4 = 64 ∧ pf (sendScr.block 32) 0 31 30 = 1 ∧ zeros (sendScr.block 32) [1, 3, 10, 11, 12, 13, 14, 15] = true ∧
      pw (sendScr.block 32) 2 + 64 ≤ sendScr.scrSize sendScr.curBlk ∧ pw (sendScr.block 32) 5 = 1 ∧ pw (sendScr.block 32) 6 < 4096 ∧ pw (sendScr.block 32) 9 < 4 ∧ sendScr.validChip 1 = true) ∧
    (reads16 sendObj = true ∧ pf (sendObj.block 32) 0 31 30 = 0 ∧ pf (sendObj.block 32) 0 25 0 = 0 ∧ sendObj.unreachable (ptrId (pd (sendObj.block 32) 2)) = false) ∧
    (reads16 fetchScr = true ∧ pf (fetchScr.block 32) 0 31 30 = 1 ∧ zeros (fetchScr.block 32) [1, 2, 3, 5, 12, 13, 14, 15] = true ∧ fetchScr.unreachable (ptrId (pd (fetchScr.block 32) 10)) = false) := by decide +kernel
theorem witness_TransfersAndLinks_flits :
    ((packetOf .marker (.marker true) []).type = .marker ∧ (packetOf .marker (.marker false) []).body = .marker false ∧ (packetOf .credit (.credit 1 0 8 true) []).body = .credit 1 0 8 true ∧
      (withArg (.packet 0 (packetOf .credit (.credit 1 0 8 true) [])) base).arg = .packet 0 (packetOf .credit (.credit 1 0 8 true) [])) ∧
    ((look ({ moves with fab := { moves.fab with fails := [(0, 7)] } } : State).fab.fails 0).getD 0 + 1 ≤ 8 ∧ 8 < (look ({ moves with fab := { moves.fab with fails := [(0, 8)] } } : State).fab.fails 0).getD 0 + 1 ∧ (withArg (.num 0) moves).arg = .num 0 ∧ (withArg (.circuit 0 none) moves).arg = .circuit 0 none) := by decide +kernel

/-- A packet that has come in by port 0, or is tried again. -/
def coming (p : Packet) : State := withArg (.packet 0 p) moves
def again (p : Packet) : State := withArg (.again p) moves
def readP : Packet := packetOf .read (.read (2 ^ 35) 128 (.plain .data)) []
theorem witness_Packets_arrival :
    ((coming { readP with plan := 8 }).fab.planOk { readP with plan := 8 } = false ∧ vcOf .read ≠ 0) ∧ ((coming { readP with dst := 1 }).fab.planOk { readP with dst := 1 } = true ∧ (1 : BitVec 12).toNat ≠ (coming readP).chipId) ∧
    ((coming { readP with ord := 1 }).fab.planOk { readP with ord := 1 } = true ∧ vcOf .read ≠ 3 ∧ (1 : BitVec 16).toNat ≠ (look (coming readP).fab.ordIn (1, vcOf .read)).getD 0) := by decide +kernel
theorem witness_Packets_home :
    ((again readP).memOk = true ∧ objectIs 2 (fun d => d.split.isNone && !d.closed && decide (0 < d.len) && attrR d.attrs && attrW d.attrs) (again readP) = true ∧ ptrId (2 ^ 35) = 2 ∧ ptrOff (2 ^ 35) = 0 ∧
      ∀ x ∈ sectorsOf [(2 ^ 35, 128)], x ∉ (again readP).poison) ∧
    ((again readP).lineHeld (flat 2 0 / 128) = false ∧ (1 : BitVec 128).getLsbD 0 = true) ∧
    (objectIs 2 (fun d => d.fault ⟨true, true⟩ 0 (Rmw.op .add .n32).bytes == 0 && d.fault ⟨true, false⟩ 0 128 == 0) (again readP) = true ∧ (again readP).poisonedAt (flat 2 0) = false ∧ ({ readP with src := 0 } : Packet).src.toNat = (again readP).chipId) ∧
    objectIs 2 (fun d => d.mig.isNone && decide (d.pins < 65535)) (again readP) = true := by decide +kernel
/-- Object 2 in M frames. -/
theorem witness_Packets_channel : objectIs 2 (fun d => attrM d.attrs && attrR d.attrs && attrW d.attrs && !d.closed && d.split.isNone) { again readP with objs := upd (again readP).objs 2 (fun (d : Desc) => { d with attrs := 0x0E }) } = true := by decide +kernel
/-- A transfer of 64 bytes whose one packet waits for its answer. -/
def lastOf : Transfer := { fetch := false, sg := sk, scratch := true, addr := 0, bytes := 64, chip := 1, task := 2048, block := 0, seg := 0, ac := 2, offset := 0, sentTo := 64, waiting := 1 }
def answering : State := { withOp 5 (opOf (.transfer lastOf) .pending) (again (packetOf .bulkAck (.ack 0) [])) with fab := { moves.fab with replies := [(9, 1, .transfer 5)] } }
def landing : State := again (packetOf .bulk (.bulk false 2048 0 0 2 64) (List.replicate 128 7))
theorem witness_Packets_answers :
    (look answering.ops 5 = some (opOf (.transfer lastOf) .pending) ∧ lastOf.sentTo = lastOf.bytes ∧ answering.fab.replies.find? (fun r => r.1 == (packetOf .bulkAck (.ack 0) []).tag.toNat) = some (9, 1, .transfer 5)) ∧
    (landing.memOk = true ∧ landing.blockOf 2048 0 = some 0 ∧ look landing.blocks 0 = some baseBlock ∧ look landing.segs ⟨0, 0⟩ = some baseSeg ∧ 64 + 128 ≤ baseBlock.scr ∧
      baseSeg.tileHas 64 128 [.filling, .draining] = false ∧ 2 < baseBlock.acs.length) := by decide +kernel

/-! ### Witnesses: the host port -/

/-- The host is at this address; its port has been open. -/
def hosted (s : State) : State := { s with host := { s.host with hostaddr := 5, everOpen := true } }
def me : Sender := { addr := .v6 5, port := 0 }
def you : Sender := { addr := .v6 6, port := 0 }
def told (m : HostMsg) : State := withArg (.host m) (hosted base)
/-- The record of `launching`, as the host posts it. -/
def posted : State := hosted { launching with cur := .idle }
def recordList : List Word := (List.range 16).map (fun i => (look recordWords i).getD 0)
def event0 : EventRec := eventOf 0 7 0 0 0 0 [0, 0, 0, 0]
theorem witness_HostMessages_tasks :
    ((told (.taskPost me 1 3 recordList)).phase = .up ∧ (told (.taskPost me 1 3 recordList)).fromHost me = true ∧ (told (.taskPost me 1 3 recordList)).fromHost you = false ∧
      ({ told (.attest me 1 []) with host := { (told (.attest me 1 [])).host with everOpen := false } } : State).fromHost me = true) ∧
    (posted.fromHost me = true ∧ posted.host.everOpen = true ∧ (∀ e ∈ recordBad recordList, e.2 = false) ∧ (match posted.admitRecord .post recordList none with | .ok (some r) => posted.recordFits .post r == some true | _ => false) = true ∧ posted.host.posts = [] ∧
      (3 : Word).toNat % 4096 < 2048 ∧ look posted.tasks 3 = none) := by decide +kernel
theorem witness_HostMessages_queue : ((told (.taskPost me 1 3 recordList)).onHost (fun h => { h with posts := [.taskPost me 0 4 recordList] })).host.posts ≠ [] ∧ (told (.taskPost me 1 3 recordList)).host.posts = [] ∧
    (told (.taskPost me 1 3 recordList)).host.everOpen = true ∧ ({ told (.taskPost me 1 3 recordList) with host := { (hosted base).host with everOpen := false } } : State).fromHost me = true := by decide +kernel
theorem witness_HostMessages_events :
    ((({ base with events := [event0] } : State).events.filter (fun e => e.sentAt.isNone)).take 28 = [event0] ∧ (base.events.filter (fun e => e.sentAt.isNone)).take 28 = []) ∧
    ((({ base with clock := 105000, events := [{ event0 with sentAt := some 0 }] } : State).events.filter (fun e => e.sentAt.elim false (fun y => decide (y + 100000 ≤ ({ base with clock := 105000 } : State).ptime)))).take 28 =
      [{ event0 with sentAt := some 0 }]) ∧
    ((told (.eventAck me 0)).fromHost me = true ∧ (told (.eventAck me 0)).dropped = 0 ∧
      (let s : State := { told (.eventAck me 0) with dropped := 3, events := [event0] }
       0 < s.dropped ∧ (s.events.filter (fun e => decide ((0 : Dword).toNat < e.seq))).length < s.events.length)) := by decide +kernel
/-- PLANBUF holds a word above 0xFFFF as the plan id. -/
def badPlan : State := { told (.mgmtWrite me 1 0x218 (bytesLE 4 0x80000000)) with host := { (hosted base).host with planbuf := [(2, 1)] } }
theorem witness_HostMessages_space : (told (.mgmtRead me 1 0x100 1024)).fromHost me = true ∧ (1024 : Nat) ≤ 1024 ∧ (told (.mgmtWrite me 1 0x100 (bytesLE 4 1))).fromHost me = true ∧
    (BitVec.ofNat 32 0x80000000).getLsbD 31 = true ∧ badPlan.fab.st = .reset ∧ badPlan.host.planState ≠ 1 ∧ parseTable ((regs 0 tableBytes).map badPlan.host.planbuf.read) = none ∧
    moves.fab.st ≠ .reset ∧ (told (.attest me 1 (List.replicate 32 7))).fromHost me = true ∧ (List.replicate 32 (7 : Byte)).length = 32 := by decide +kernel

/-- PLANBUF holds a table with one VALID chip, 0, which is this one. -/
def goodPlan : State := { told (.mgmtWrite me 1 0x218 (bytesLE 4 0x80000000)) with host := { (hosted base).host with planbuf := [(19, 0x80)] } }
theorem natLE_zeros (l : List Byte) (h : ∀ b ∈ l, b = 0) : natLE l = 0 := by
  induction l with
  | nil => rfl
  | cons b r ih =>
    have hb : b = 0 := h b (by simp)
    simp [natLE, hb, ih (fun x hx => h x (by simp [hx]))]
theorem parseEntries_zeros (self : Nat) : ∀ (n d : Nat) (bs : List Byte), self < d → (∀ b ∈ bs, b = 0) → parseEntries self n d bs = some [] := by
  intro n
  induction n with
  | zero => intros; rfl
  | succ n ih =>
    intro d bs hd hz
    have h1 := natLE_zeros (bs.take 4) (fun b hb => hz b (List.mem_of_mem_take hb))
    have h2 := natLE_zeros ((bs.drop 8).take 8) (fun b hb => hz b (List.mem_of_mem_drop (List.mem_of_mem_take hb)))
    have h3 := natLE_zeros ((bs.drop 4).take 4) (fun b hb => hz b (List.mem_of_mem_drop (List.mem_of_mem_take hb)))
    have h4 := ih (d + 1) (bs.drop 16) (by omega) (fun b hb => hz b (List.mem_of_mem_drop hb))
    have h5 : ¬d = self := by omega
    simp [parseEntries, h1, h2, h3, h4, h5]
theorem goodPlan_bytes : (regs 0 tableBytes).map goodPlan.host.planbuf.read = (List.replicate 19 0 ++ [0x80] ++ List.replicate 12 0) ++ (List.range' 32 65520).map goodPlan.host.planbuf.read := by
  have h : regs 0 tableBytes = List.range' 0 32 ++ List.range' 32 65520 := by
    simp only [regs, tableBytes, List.range_eq_range', Nat.zero_add, List.map_id']
    exact (List.range'_append_1 (s := 0) (m := 32) (n := 65520)).symm
  rw [h, List.map_append]
  congr 1
theorem witness_HostMessages_go : goodPlan.fab.st = .reset ∧ goodPlan.host.planState ≠ 1 ∧
    ∃ tb, parseTable ((regs 0 tableBytes).map goodPlan.host.planbuf.read) = some tb ∧ tb.plan = (BitVec.ofNat 32 0x80000000).setWidth 16 := by
  refine ⟨by decide +kernel, by decide +kernel, { plan := 0, self := 0, dateline := 0, entries := [(0, 0)] }, ?_, by decide⟩
  rw [goodPlan_bytes]
  have hz : ∀ b ∈ (List.range' 32 65520).map goodPlan.host.planbuf.read, b = 0 := by
    intro b hb
    obtain ⟨a, ha, rfl⟩ := List.mem_map.1 hb
    have : 32 ≤ a := (List.mem_range'_1.1 ha).1
    have hm : goodPlan.host.planbuf = [(19, 0x80)] := rfl
    rw [hm]
    simp [Memory.read]
    omega
  generalize (List.range' 32 65520).map goodPlan.host.planbuf.read = z at hz
  have hp := parseEntries_zeros 0 4095 1 z (by omega) hz
  have he : parseEntries 0 4096 0 (0 :: 0 :: 0 :: 0x80 :: 0 :: 0 :: 0 :: 0 :: 0 :: 0 :: 0 :: 0 :: 0 :: 0 :: 0 :: 0 :: z) = some [(0, 0)] := by
    rw [show 4096 = 4095 + 1 from rfl, parseEntries]
    simp only [List.take_succ_cons, List.take_zero, List.drop_succ_cons, List.drop_zero, hp]
    decide
  have hl : (List.replicate 19 0 ++ [0x80] ++ List.replicate 12 0) ++ z = 0 :: 0 :: 0 :: 0 :: 0 :: 0 :: 0 :: 0 :: 0 :: 0 :: 0 :: 0 :: 0 :: 0 :: 0 :: 0 :: 0 :: 0 :: 0 :: 0x80 :: 0 :: 0 :: 0 :: 0 :: 0 :: 0 :: 0 :: 0 :: 0 :: 0 :: 0 :: 0 :: z := rfl
  rw [hl, parseTable]
  simp only [List.take_succ_cons, List.take_zero, List.drop_succ_cons, List.drop_zero]
  rw [show natLE [0, 0, 0, 0] = 0 from rfl, he]
  decide

/-- Queue pair 3 is connected with R_Key 9. -/
def paired (st : Nat) (m : HostMsg) : State := let s := told m
  { s with host := { s.host with hostctl := 2, qps := s.host.qps.set 3 { QueuePair.reset with st := st, rkey := 9 } } }
def reqOf : Rdma := { q := 3, psn := 0, write := true, addr := 0, bytes := 0, data := [], op := none }
theorem witness_HostPortAndReset_rdma :
    ((paired 0 (.mgmtWrite me 1 (0x414 + 32 * 3) (bytesLE 4 1))).fromHost me = true ∧ ((paired 0 (.mgmtWrite me 1 (0x414 + 32 * 3) (bytesLE 4 1))).qp 3).st = 0 ∧ (paired 2 (.attest me 1 [])).host.qps.length = 64) ∧
    ((paired 2 (.rdmaWrite 3 9 0 0 [1])).roce = true ∧ ((paired 2 (.rdmaWrite 3 9 0 0 [1])).qp 3).st = 2 ∧ ((paired 2 (.rdmaRead 3 9 0 0 64)).qp 3).rpsn.toNat = (0 : BitVec 24).toNat ∧
      ((paired 2 (.otherRoce 3 0)).qp 3).rkey = 9 ∧ ((paired 2 (.transportError 3)).qp 3).st = 2 ∧ (paired 2 (.transportError 3)).arg = .host (.transportError 3) ∧ (paired 2 (.otherRoce 3 0)).host.rdma = []) ∧
    (∃ y ∈ ((paired 2 (.rdmaWrite 3 9 0 0 [1])).onHost (fun h => { h with rdma := [reqOf] })).host.rdma, y.q = (3 : BitVec 6).toNat) := by decide +kernel
theorem witness_HostPortAndReset_reset :
    ((told (.reset me)).fromHost me = true ∧ (told (.reset me)).fromHost you = false ∧ (told (.reset me)).phase = .up ∧ (told (.reset me)).host.hostctl.getLsbD 0 = false ∧
      ((told (.reset me)).onHost (fun h => { h with hostctl := 3 })).host.hostctl.getLsbD 0 = true) ∧
    ((withArg (.word 880) base).phase = .up ∧ 880 ≤ (880 : Word).toInt ∧ (879 : Word).toInt < 880) := by decide +kernel
theorem witness_HostPortAndReset_errors :
    (base.logUnit (.l1 0 0)).isSome = true ∧ base.logUnit (.locator 2 888) = some 888 ∧ look base.segs sk = some baseSeg ∧ look base.groups gk = some baseGroup ∧ 255 < baseGroup.v.length ∧ 3 < baseSeg.tregs.length ∧
    (look seqBase.seqs mq).isSome = true ∧ look base.tasks 2048 = some (placedTask 1) ∧ (placedTask 1).st ≠ .ending ∧ (withArg (.site (.control 2048 888) 0 false) base).arg = .site (.control 2048 888) 0 false := by decide +kernel

/-! ### Witnesses: further clauses -/

def seqParked (outs : Nat) (l : List Deferred) : State := withArg (.agent (.sqr mq)) { base with seqs := [(mq, { seqStart with running := true, wait := .park 1 8, outs := outs, deferred := l })] }
def late (n : Nat) : Deferred := { code := .objBounds, pc := 16, lanes := 1, order := n }
theorem witness_SequencerFaults_park : (seqParked 0 []).arg = .agent (.sqr mq) ∧ look (seqParked 1 []).seqs mq = some { seqStart with running := true, wait := .park 1 8, outs := 1 } ∧
    look (seqParked 0 [late 4, late 2]).seqs mq = some { seqStart with running := true, wait := .park 1 8, deferred := [late 4, late 2] } ∧ late 2 ∈ [late 4, late 2] ∧ ∀ y ∈ [late 4, late 2], y ≠ late 2 → (late 2).order < y.order := by decide +kernel
/-- The group parks, or stands, with two faults deferred. -/
def deferredGroup (w : Wait) : Group := { baseGroup with wait := w, deferred := [late 4, late 2] }
theorem witness_TrapEntry_deferred :
    (let s := agentArg (vectored.setGroup gk (deferredGroup (.park 0xFFFFFFFF 8)))
     s.arg = .agent (.grp gk) ∧ look s.groups gk = some (deferredGroup (.park 0xFFFFFFFF 8)) ∧ look s.blocks 0 = some vectorBlock) ∧
    (let s := vectored.setGroup gk (deferredGroup .none)
     s.cur = .path gk 0xFFFFFFFF 0 ∧ look s.groups gk = some (deferredGroup .none) ∧ (deferredGroup .none).view = none ∧ (deferredGroup .none).region = none ∧ (deferredGroup .none).outs = 0 ∧ (deferredGroup .none).handler = none) := by
  decide +kernel
theorem witness_LaneMemoryIssue_atoms : demo.laneReady ([1] ++ regs 2 (Rmw.op .add .n32).operandWords ++ regs 3 1) [15] ([.g 15, .v 0 1 intTag] ++ rmwOpnds (.op .add .n32) 2) = true ∧
    (∀ l ∈ lanesOf demo.curLanes, (((demo.readU 0 15).toNat : Int) + ((demo.vread 0 1 l).toInt + (0#12).toInt)) % 4 = 0 ∧ 0 ≤ ((demo.readU 0 15).toNat : Int) + ((demo.vread 0 1 l).toInt + (0#12).toInt) ∧
      ((demo.readU 0 15).toNat : Int) + ((demo.vread 0 1 l).toInt + (0#12).toInt) + 4 ≤ demo.scrSize demo.curBlk) ∧ demo.entryFree = true := by decide +kernel
/-- Lanes 16 to 31 wait at GSYNC with all 32, or do not. -/
def gsyncs (w : PathWait) : State := (putG [(13, 0xFFFFFFFF)] base).onGroup gk (fun g => { g with lanes := g.lanes.mapIdx (fun i l => if 16 ≤ i then { l with wait := w } else l) })
def lowPath (s : State) : State := { s with cur := .path gk 0xFFFF 0 }
theorem witness_Barriers_gsync :
    (let s := lowPath (gsyncs (.gsync 0xFFFFFFFF))
     s.cur = .path gk 0xFFFF 0 ∧ s.uniReady .group true [13] [13] = true ∧ s.readU 1 13 = 0xFFFFFFFF ∧ (groupOf s).gsyncClash 0xFFFFFFFF = false ∧ (groupOf s).view = none ∧
       (∀ l, l < 32 → (0xFFFFFFFF#32).getLsbD l = true → (0xFFFF#32).getLsbD l = false → ((groupOf s).lane l).wait = .gsync 0xFFFFFFFF)) ∧
    (let s := lowPath (gsyncs .none)
     s.uniReady .group true [13] [13] = true ∧ (groupOf s).gsyncClash 0xFFFFFFFF = false ∧ ((groupOf s).lane 20).wait ≠ .gsync 0xFFFFFFFF) := by decide +kernel
theorem witness_Fences_sooner : (∃ t ∈ (loading (fenceWait .acq)).txns, t.who = .grp gk ∧ t.id < 8 ∧ t.access = true ∧ t.returns = true) ∧
    (let s : State := { fenceWait .cmp with groups := (fenceWait .cmp).groups.map (fun e => (e.1, { e.2 with gwct := 20 })) }
     (groupOf s).wait = .fence .cmp .pod 8 0xFFFFFFFF ∧ s.ptime ≤ (groupOf s).gwct + 8) :=
  ⟨⟨entry 7 (.load false (.v 20) .w32 .relaxed .normal) [{ st := .todo, pieces := [piece4 (2 ^ 35)] }], by decide +kernel⟩, by decide +kernel⟩
/-- A channel at which the first row of object 2, in M frames, lies: free, or due for a refresh. -/
def waitM (busy : Bool) : State := { demo with objs := upd demo.objs 2 (fun (d : Desc) => { d with attrs := 0x0E })
                                               channels := [(1, { openRow := none, switching := none, waiting := [], refreshDue := busy, lastRefresh := 0, nextRefresh := 0, scrubAt := 0 })] }
theorem witness_WaitOnWord_channel : (waitM true).chansFree [flat 2 0] = false ∧ (waitM false).chansFree [flat 2 0] = true ∧ (waitM true).drained = true ∧
    (match (waitM true).route splitFuel 2 0 with | .here n _ d => n == 2 && !d.closed && attrR d.attrs | _ => false) = true := by decide +kernel
/-- The copy sequencer's turn, with the blocks of `copying`, or of `casting`, in e0 to e31. -/
def copySeq (segs : Word) : State :=
  { withSeqs base with cur := .seq cq, seqs := [(cq, { seqStart with running := true, e := (List.range 64).map (fun r => (look [(2, 0x50000000), (4, 1024), (7, segs), (13, 16), (16, 16), (22, 1)] r).getD 0) })] }
theorem witness_CopyIssue_sequencer :
    ((look (copySeq 0).seqs cq).isSome = true ∧ (copySeq 0).uniReady .copy true (regs 0 16 ++ regs 16 16) (regs 0 16 ++ regs 16 16) = true ∧ (copySeq 0).busyHandle 3 = none ∧ 3 < seqStart.h.length ∧
      (∀ e ∈ ((copySeq 0).copyPlan 0 16 false false).2.1, e = none) ∧ ((copySeq 0).copyPlan 0 16 false false).2.2.1 = []) ∧
    ((copySeq 1).uniReady .copy true (regs 0 16 ++ regs 16 16) (regs 0 16 ++ regs 16 16) = true ∧ (∀ e ∈ ((copySeq 1).copyPlan 0 16 true false).2.1, e = none) ∧ ((copySeq 1).copyPlan 0 16 true false).2.2.1 = []) ∧
    ((copySeq 0).uniReady .copy true (40 :: (regs 0 16 ++ regs 16 16)) (regs 0 16 ++ regs 16 16) = true ∧ (∀ e ∈ ((copySeq 0).copyPlan 0 16 false true).2.1, e = none) ∧ ((copySeq 0).copyPlan 0 16 false true).2.2.1 = [] ∧
      (copySeq 0).entryFree = true) := by decide +kernel

/-- The group's entry 7 of one part with several pieces, in a state; the step is its return. -/
def returningAll (kind : TxnKind) (ps : List Piece) (s : State) : State := withArg (.pair 7 0) { s with txns := [entry 7 kind [{ st := .todo, pieces := ps }]], agenda := [] }
/-- The return is as ObjectAccessPerforms asks, its pieces in object 2. -/
def performsAt (kind : TxnKind) (ps : List Piece) (s0 : State) : Bool :=
  let s := returningAll kind ps s0
  let t := entry 7 kind [{ st := .todo, pieces := ps }]
  let part : Part := { st := .todo, pieces := ps }
  match look s.objs 2 with
  | none => false
  | some d => s.memOk && (look s.groups gk).all (fun g => g.region == none) && s.partReady t 0 && (s.channelRow t part).isNone && s.unasked t part == [] && !d.closed &&
      ps.all (fun x => (s.accessFault t.need t.seen (t.laneAccess x.lane)).isNone && !(s.lineHeld (x.addr / 128)) && (List.range x.len).all (fun i => s.hereAddr (x.addr + i) == some (x.addr + i, d)))
/-- Lanes 0, 1 and 5 at overlapping halfwords; a doubleword of lane 0 that crosses into the next sector; L1 holds the sector. -/
def threeLanes (n : Nat) : List Piece := [{ lane := 0, addr := 2 ^ 35 + 8, idx := 0, len := n }, { lane := 1, addr := 2 ^ 35 + 9, idx := 0, len := n }, { lane := 5, addr := 2 ^ 35 + 8, idx := 0, len := n }]
def cached (s : State) : State := { withObject 0x2D s with l1 := [{ core := 0, sector := (2 ^ 35) / 64, data := List.replicate 64 7, fill := 0, expiry := 50, stream := false }] }
theorem witness_ObjectAccessPerforms_lanes :
    performsAt (.store false 2 .relaxed [(0, 0x1122), (1, 0x3344), (5, 0x5566)]) (threeLanes 2) demo = true ∧ (threeLanes 2).map (fun x => x.lane) = [0, 1, 5] ∧ [0, 1, 5].Pairwise (· < ·) ∧
    performsAt (.load false (.v 20) .i16 .relaxed .normal) (threeLanes 2) demo = true ∧ performsAt (.load false (.v 20) .w64 .relaxed .normal) [{ lane := 3, addr := 2 ^ 35 + 64, idx := 6, len := 2 }] demo = true ∧
    performsAt (.rmw false (.v 20) (.op .add .n32) .chip [(0, [5])]) [piece4 (2 ^ 35)] demo = true ∧ performsAt (.rmw false .none (.cas .b128) .chip [(0, [5])]) [{ lane := 0, addr := 2 ^ 35, idx := 0, len := 16 }] demo = true ∧
    (let s := returningAll (.load false (.v 20) .i16 .relaxed .normal) (threeLanes 2) demo
     s.served? (entry 7 (.load false (.v 20) .i16 .relaxed .normal) []) { st := .todo, pieces := threeLanes 2 } = none ∧ s.poisonedAt (2 ^ 35 + 8) = false ∧
       performsAt (.load false (.v 20) .i16 .relaxed .normal) (threeLanes 2) (cached demo) = true ∧ ((cached s).served? (entry 7 (.load false (.v 20) .i16 .relaxed .normal) []) { st := .todo, pieces := threeLanes 2 }).isSome = true) := by decide +kernel
theorem witness_Access_dest : baseGroup.destHas (.v 20) 4 31 ∧ baseGroup.destHas (.g 20) 4 0 ∧ baseGroup.destHas .none 4 0 :=
  ⟨(by decide +kernel : 20 + 4 ≤ baseGroup.v.length ∧ ∀ j, j < 4 → 31 < (baseGroup.v.getD (20 + j) VReg.zero).lanes.length), (by decide +kernel : 20 + 4 ≤ baseGroup.g.length), trivial⟩
/-- The same in the scratchpad. -/
def performsScr (kind : TxnKind) (ps : List Piece) : Bool :=
  let s := returningAll kind ps demo
  s.memOk && s.partReady (entry 7 kind [{ st := .todo, pieces := ps }]) 0 && ps.all (fun x => !(baseSeg.tileHas x.addr x.len [.filling, .draining]) && !(baseSeg.poison.contains (x.addr / 64)) && !(baseSeg.unseenAt x.addr x.len))
def scrLanes : List Piece := [{ lane := 0, addr := 64, idx := 0, len := 1 }, { lane := 7, addr := 65, idx := 0, len := 1 }]
theorem witness_ScratchpadAccessPerforms_lanes : look (returningAll (.load true (.v 20) .n8 .relaxed .normal) scrLanes demo).segs sk = some baseSeg ∧ performsScr (.load true (.v 20) .n8 .relaxed .normal) scrLanes = true ∧
    performsScr (.store true 1 .relaxed [(0, 5), (7, 6)]) scrLanes = true ∧ performsScr (.rmw true (.v 20) (.op .add .n32) .block [(0, [5])]) [piece4 64] = true ∧ performsScr (.rmw true .none (.cas .b64) .block [(0, [5])]) [{ piece4 64 with len := 8 }] = true := by
  decide +kernel
theorem witness_RegionSteps_abort : (groupOf aborting).trapping = false ∧ (region1 false).owner = gk ∧ look aborting.regions 1 = some (region1 false) := by decide +kernel
/-- The scan's source in an object of chip 1. -/
def farScan : Scan := { scanOf with src := 262149 * 2 ^ 34 }
def farScanning : State := opStep (opOf (.scan farScan) .pending) moves
theorem witness_MemorySideSteps_far : farScanning.scanMay 5 (opOf (.scan farScan) .pending) farScan = true ∧
    (match farScanning.scanRows farScan with | .ok r => farScanning.newFrames (opOf (.scan farScan) .pending) r.2 == [262149 * 2 ^ 34] | .error _ => false) = true ∧
    (match (opStep (opOf (.scan scanOf) .pending) mobj).scanRows scanOf with | .ok r => (opStep (opOf (.scan scanOf) .pending) mobj).newFrames (opOf (.scan scanOf) .pending) r.2 == [] | .error _ => false) = true := by decide +kernel
theorem witness_ObjectMoves_asked : moves.otherChips = [1] ∧ ({ invOf with asked := 1 } : Inval).asked ≠ 0 ∧ invOf.asked = 0 := by decide +kernel
/-- Port 0's peer presents its time; its flit covers both chips, or its own alone. -/
def syncTo (all : BitVec 4096) : State := withArg (.packet 0 (packetOf .sync (.sync 7 5 false all all) [])) { locking 0 with fab := { (locking 0).fab with relock := some (relockOf 0 1) } }
theorem witness_FabricController_sync : (syncTo 2).fab.relock = some (relockOf 0 1) ∧ (syncTo 2).fab.st = .locking ∧ (0#64 ||| (1#64 <<< 0)) = 1 ∧ 0 < max 5 (5 - (syncTo 2).ptime) ∧
    covers ((relockOf 0 1).known ||| 2) (Machine.groupOf (syncTo 2).fab.staged) = true ∧ covers ((relockOf 0 1).known ||| 1) (Machine.groupOf (syncTo 1).fab.staged) = false ∧
    ((fabric .opened).fab.cmds = [] ∧ (relocking .dark).fab.cmds = []) := by decide +kernel
theorem witness_TransfersAndLinks_link : (∀ b, moves.fab.planOk (packetOf .marker (.marker b) []) = true) ∧ moves.fab.planOk (packetOf .credit (.credit 1 0 8 false) []) = true ∧ (packetOf .marker (.marker true) []).link = (look moves.fab.linkIn 0).getD 0 ∧
    (look ({ moves with fab := { moves.fab with fails := [(0, 2)] } } : State).fab.fails 0).isSome = true := by decide +kernel
theorem witness_Packets_link :
    ((coming readP).fab.planOk readP = true ∧ readP.link = (look (coming readP).fab.linkIn 0).getD 0 ∧ readP.type ≠ .sync ∧ (coming readP).fab.waiting = [] ∧ (coming readP).hold.length ≤ Config.holdQueue) ∧
    (({ readP with link := 3 } : Packet).link > (look (coming readP).fab.linkIn 0).getD 0 ∧ readP.link < (look ({ coming readP with fab := { moves.fab with linkIn := [(0, 1)] } } : State).fab.linkIn 0).getD 0) ∧
    (let turn := (look (coming readP).fab.ordIn (readP.src.toNat, vcOf readP.type)).getD 0
     ((5 : BitVec 16).toNat + 65536 - turn) % 65536 < 32768 ∧ (5 : BitVec 16).toNat ≠ turn ∧ 32768 ≤ ((0xFFF0 : BitVec 16).toNat + 65536 - turn) % 65536 ∧ readP.onward = false ∧ readP.dst.toNat = (coming readP).chipId) := by decide +kernel
/-- Object 2 without W, and with X; a poisoned sector. -/
theorem witness_Packets_kinds : (Access.plain .probe).kind = .probe ∧ (Access.plain .data).kind ≠ .copy ∧ attrX 0x2C = false ∧ (again readP).poisonedSector (2 ^ 29) = false ∧ AccessKind.data ≠ .red ∧ (Access.plain .code).kind ≠ .data ∧
    (1 : Nat) ≤ 128 ∧ (again (packetOf .fetch (.fetch (2 ^ 35) 128 2048 0 0 2 64) [])).memOk = true := by decide +kernel
/-- A store of the group, older than its TDEC, is out. -/
theorem witness_CountedCommandResult_waits :
    (let s := commandOut (.tdec 2050 4) cmds
     let t := entry 7 (.command 20 (.tdec 2050 4)) [{ st := .todo, pieces := [] }]
     ({ s with txns := entry 6 (.store false 4 .relaxed [(0, 5)]) [{ st := .todo, pieces := [piece4 (2 ^ 35)] }] :: s.txns } : State).commandReady t (.tdec 2050 4) = false) ∧
    FabCmd.counted 7 ∉ (commandOut (.oloc (2 ^ 35)) cmds).fab.cmds ∧ ({ commandOut .fbstat cmds with fab := { cmds.fab with cmds := [.counted 7] } } : State).fab.cmds = [.counted 7] := by decide +kernel
/-- Of FP32: a NaN, both infinities, both zeros, −2, 4, 1, 3/4 as a fraction. -/
theorem witness_LaneFloatUnary_values : Fmt.fp32.value 0x7FC00000 = .nan ∧ Fmt.fp32.value 0xFF800000 = .inf true ∧ Fmt.fp32.value 0x7F800000 = .inf false ∧
    (match Fmt.fp32.value 0x80000000 with | .fin sg n _ => sg && n == 0 | _ => false) = true ∧ (match Fmt.fp32.value 0xC0000000 with | .fin sg n d => sg && n == d * 2 ^ 1 | _ => false) = true ∧
    (match Fmt.fp32.value 0x3E800000 with | .fin _ n d => d == n * 2 ^ 2 && n != 0 && 4 * n == d * 1 | _ => false) = true ∧ (match Fmt.fp32.value 0x3F800000 with | .fin sg n d => !sg && n == d | _ => false) = true ∧
    (match Fmt.fp32.value 0x3F400000 with | .fin sg n d => !sg && n != 0 && decide (d ≤ 2 * n ∧ n ≤ 2 * d) && decide ((trigRef false sg n d).1.natAbs ≤ 2 ^ 121) | _ => false) = true ∧
    (Fmt.fp32.value (frcp32 0x40000000)).isFin = true ∧ (Fmt.fp32.value (fexp232 0x3F800000)).isFin = true := by decide +kernel
/-- A record of spawn memory; a site that is no DRAM sector; a refused image and a trip. -/
theorem witness_HostPortAndReset_sites : ((spilling 3).arg = .seg sk ∧ ((look (spilling 3).segs sk).elim none (fun g => g.spawn[2]?)).isSome = true) ∧ (∀ sector, ErrorSite.unit 5 ≠ .dram sector) ∧ base.logUnit (.unit 5) = some 5 ∧
    ({ base with phase := .imageRefused } : State).phase ≠ .tripped ∧ ({ base with phase := .tripped } : State).phase = .tripped :=
  ⟨by decide +kernel, fun _ => nofun, by decide +kernel⟩

/-! ### Ill-formed terms, one a check -/

theorem test_refuses_scale : (Instr.ld false 4 (.scaled 3 5) .relaxed .normal 8 .w32 .f32 0).wellFormed = false := by decide
theorem test_refuses_odd_pair : (Instr.ld false 4 .none .relaxed .normal 9 .w32 .f32 0).wellFormed = false ∧ (Instr.gadd64 false 2 4 5).wellFormed = false ∧ (Instr.clkr false 3).wellFormed = false := by decide
theorem test_refuses_lane_condition : (Instr.iset false 1 2 3 .unord).wellFormed = false ∧ (Instr.gset false 1 2 3 .ord).wellFormed = false ∧ (Instr.trap false 1 2 .ord 0).wellFormed = false := by decide
theorem test_refuses_tags : (Instr.cvt false 2 4 .raw false 0 .rn false).wellFormed = false ∧ (Instr.cvtsc false 2 4 .f32 0).wellFormed = false ∧ (Instr.pack2 false 2 4 5 .f32 false .rn false).wellFormed = false ∧
    (Instr.unpack false 4 2 .f64 false .rn).wellFormed = false ∧ (Instr.tagset false 1 2 .f32p).wellFormed = false ∧ (Instr.tdef false 1 2 3 .poison).wellFormed = false ∧
    (Instr.mdrain false 0 false 1 2 3 .f32p).wellFormed = false := by decide
theorem test_refuses_pack4 : (Instr.pack4 false 12 17 .i8x4 false .rn false).wellFormed = false ∧ (Instr.pack4 false 12 16 .dt8x4 false .rz false).wellFormed = false := by decide
theorem test_refuses_order : (Instr.ld false 4 .none (.release .chip) .normal 8 .w32 .f32 0).wellFormed = false ∧ (Instr.st false 4 .none (.acquire .chip) .normal 8 .w32 0).wellFormed = false ∧
    (Instr.lds false 4 .none (.acquire .pod) 8 .w32 .f32 0).wellFormed = false ∧ (Instr.atoms false none 1 2 (.op .add .n32) .pod 8 0).wellFormed = false := by decide
theorem test_refuses_rmw : (Instr.atom false none 1 2 (.op .fadd .i32) .chip 8 0).wellFormed = false ∧ (Instr.atom false none 1 17 (.cas .b128) .chip 8 0).wellFormed = false := by decide
theorem test_refuses_wide : (Instr.gld false 21 8 12 0 .w64 .relaxed .normal).wellFormed = false ∧ (Instr.trx false 21 2 3 16 30).wellFormed = false ∧ (Instr.oalloc false 42 4 6).wellFormed = false := by decide
theorem test_refuses_target : (Instr.brz false 1 2).wellFormed = false ∧ (Instr.gbrz false 1 .eq 0x41).wellFormed = false ∧ (Instr.loop false 1 3).wellFormed = false := by decide
theorem test_refuses_block : (Instr.cpy false 0 498 0).wellFormed = false ∧ (Instr.nbx false 0 33).wellFormed = false := by decide
theorem test_refuses_ring : (Instr.sbind false 0 0 17).wellFormed = false ∧ (Instr.sbind false 0 250 7).wellFormed = false ∧ (Instr.sbind false 0 0 0).wellFormed = false := by decide
theorem test_refuses_stride : (Instr.mscale false 0 1 1).wellFormed = false ∧ (Instr.mscale false 0 1 6).wellFormed = false := by decide
theorem test_refuses_regroup : (Instr.regroup false false 1 2 3).wellFormed = false := by decide
theorem test_refuses_extension : (Instr.extensionWord false true 0x00 0 0).wellFormed = false ∧ (Instr.extensionWord false false 0x28 0 1).wellFormed = false := by decide

/-! ### Words that the spec prints; their fields read off its tables by hand -/

/-- The words decode to the instruction, and encoding it gives them back. -/
def printed (w0 w1 : Word) (i : Instr) : Bool := decide (decodeWords w0 w1 = .ok i) && decide (encode i = if twoWords w0 then [w0, w1] else [w0])
theorem test_words_listing : printed 0x800A0008 0 (.gmovi false 20 8) = true ∧ printed 0x74040300 0x04242010 (.ld true 4 (.scaled 3 2) .relaxed .normal 8 .w32 .f32 16) = true ∧
    printed 0x30060405 0x03000000 (.ffma false 6 4 5 (.v 6) .rn) = true ∧ printed 0x15030320 0 (.iaddi false 3 3 0x20) = true ∧ printed 0xB10A0003 0xFFFFFFEC (.loop false 20 0xFFFFFFEC) = true := by decide +kernel
theorem test_words_lanes : printed 0x03070203 0 (.imulhi false 7 2 3) = true ∧ printed 0x1B04041F 0 (.sari false 4 4 0x1F) = true ∧ printed 0x31090405 0x00000802 (.fset false 9 4 5 .lt) = true ∧
    printed 0x33000700 0x004CAC0D (.redux false 50 7 .fadd) = true ∧ printed 0x3300070D 0x8643400B (.bplane false 13 7 13 (.g 12)) = true ∧ printed 0x33110A00 0x9E000001 (.shflup false 17 10 (.g 60) .w32) = true ∧
    printed 0x33001400 0x004FC00D (.redux false 63 20 .add) = true := by decide +kernel
theorem test_words_uniform : printed 0x8A000000 0 (.land false) = true ∧ printed 0x8C000000 0 (.exit false) = true ∧ printed 0x90000000 0 (.endSeq false) = true ∧ printed 0xB0028180 0x03800000 (.gadd false 5 6 7) = true ∧
    printed 0xB1018108 0x40 (.gbr false 3 4 .lt 0x40) = true ∧ printed 0xB3000002 0x05000003 (.barsync false 2 10) = true ∧ printed 0x3B070002 0 (.brx false 7) = true ∧
    printed 0xB1010144 0x10 (.gbr false 2 5 .ne 16) = true := by decide +kernel
theorem test_words_memory : printed 0x35060298 0x05350FF8 (.st false 6 (.scaled 2 3) (.release .chip) .normal 10 .w64 0xFF8) = true ∧ printed 0x36090200 0x06131006 (.lds false 9 (.scaled 2 1) .relaxed 12 .n16 .i32 6) = true ∧
    printed 0x39050406 0x0A019000 (.atoms false (some 5) 4 6 (.op .add .n32) .block 20 0) = true ∧ printed 0xB40F0220 0x06040000 (.gld false 30 8 12 16 .w32 .relaxed .normal) = true ∧
    printed 0xB40A022B 0x067C2001 (.gst false 20 8 12 0x1F0 .w64 (.release .chip) .normal) = true ∧ printed 0xF4188C20 0x1D010002 (.glds true 49 48 58 4 .w32 .relaxed) = true ∧
    printed 0x3A140203 0x88478000 (.trx false 20 2 3 16 30) = true ∧ printed 0x7403_0400 0x04040000 (.ld true 3 (.scaled 4 0) .relaxed .normal 8 .w32 .raw 0) = true := by decide +kernel
theorem test_words_regions : printed 0xBB1E0F40 0 (.rgbegin false 60 61) = true ∧ printed 0xBB000000 1 (.rgend false) = true ∧ printed 0xBB000F80 2 (.rgabort false 62) = true ∧ printed 0xBB1F8000 3 (.rgstat false 63) = true := by
  decide +kernel
theorem test_words_engines : printed 0xB5000800 0x18000C00 (.cpy false 3 32 48) = true ∧ printed 0xB50A0000 0x80800005 (.tstat false 20 (.stream 1)) = true ∧ printed 0xB6000001 0x01810001 (.mma false 1 0 (.tile 3) (.tile 4)) = true ∧
    printed 0xB5001000 0x28000007 (.mcast false 0 64 80) = true ∧ printed 0xB7001800 0x00000C03 (.kvseal false 3 96) = true ∧ printed 0xB60D0380 0x00800004 (.msoft false 0 26 14 1) = true ∧
    printed 0xB6078001 0x00814002 (.mmag false 1 15 0 (.tile 1) (.tile 5)) = true ∧ printed 0xB6000381 0x3C09 (.mcmerge false 1 14 15) = true ∧ printed 0xB7000800 2 (.nbx false 0 32) = true := by decide +kernel
theorem test_words_tasks : printed 0xBA140C00 0 (.launch false 40 48) = true ∧ printed 0xBA140C00 0x0F000001 (.launchb false 40 48 30) = true ∧ printed 0xBA160B40 0x17000003 (.tdec false 44 45 46) = true ∧
    printed 0xBA160B40 7 (.tkill false 44 45) = true ∧ printed 0xBA0F0700 0x0E800002 (.patch false 30 28 29 0) = true ∧ printed 0xBA150A01 0x0A000005 (.regroup false true 42 40 20) = true := by decide +kernel
theorem test_words_objects : printed 0xB9000500 0x0F000405 (.omove false 1 20 30) = true ∧ printed 0xB9140500 6 (.oloc false 40 20) = true ∧ printed 0xB9000500 0x807 (.oinv false 2 20) = true ∧
    printed 0xB9140500 0x0F000008 (.osplit false 40 20 30) = true := by decide +kernel
theorem test_words_fabric : printed 0xB8000800 0x1000 (.rsend false 4 32) = true ∧ printed 0xB8000C00 0x1401 (.rfetch false 5 48) = true ∧ printed 0xB8000000 2 (.fbdrain false 0) = true ∧ printed 0xB8001000 0x403 (.fbdark false 1 64) = true ∧
    printed 0xB8001400 0x804 (.fbrelock false 2 80) = true ∧ printed 0xB8000000 0xC05 (.fbopen false 3) = true ∧ printed 0xB8140000 6 (.fbstat false 40) = true ∧ printed 0xB8101800 7 (.fbplan false 32 96) = true := by decide +kernel
/-- 03, the fate of six words: only the extension major of each set decodes. -/
theorem test_fates : (decodeWords 0x95000000 0).toOption = none ∧ (decodeWords 0x28000000 0).toOption = some (.extensionWord false false 0x28 0 0) ∧ (decodeWords 0xBD000000 0).toOption = some (.extensionWord false true 0x3D 0 0) ∧
    (decodeWords 0x3C000000 0).toOption = none ∧ (decodeWords 0x1C050107 0).toOption = none ∧ (decodeWords 0x30050406 0x1B).toOption = none := by decide +kernel

/-! ### One step, expected values from the spec's worked examples or by hand from its rules -/

/-- What a lane of a v register, and a g register, holds after an instruction; 1 where it stops. -/
def vAfter (i : Instr) (s : State) (r l : Nat) : Word := match exec i s with
  | .next t => (look t.groups gk).elim 1 (fun g => (g.v.getD r VReg.zero).lanes.getD l 1)
  | _ => 1
def gAfter (i : Instr) (s : State) (r : Nat) : Word := match exec i s with
  | .next t => (look t.groups gk).elim 1 (fun g => g.g.getD r 1)
  | _ => 1
def groupAfter (i : Instr) (s : State) : Group := match exec i s with
  | .next t => groupOf t
  | _ => baseGroup
/-- A v register with a tag and a word in every lane. -/
def putV (r : Nat) (t : Tag) (f : Nat → Word) (s : State) : State := s.onGroup gk (fun g => { g with v := g.v.set r { tag := t, lanes := (List.range 32).map f } })
/-- Lanes 0 to 5 are the issuing path. -/
def six (s : State) : State := { s with cur := .path gk 0x3F 0 }

/-- 01, FP32 to DT8. -/
theorem test_dt8 : convert .f32 false .dt8x4 false .rn false 0x40400000 = 0x47 ∧ convert .f32 false .dt8x4 false .rn false 0x42BE0000 = 0x28 ∧ convert .f32 false .dt8x4 false .rn false 0x4E032156 = 0x02 ∧
    convert .f32 false .dt8x4 false .rn false 0xAE99EE7F = 0x83 ∧ convert .f32 false .dt8x4 false .rn true 0x4EEE6B28 = 0x02 ∧ convert .f32 false .dt8x4 false .rn false 0x4EEE6B28 = 0x01 := by decide +kernel
/-- 01, what the pair keeps: (1.0, +0) and 2^-30, then −1.0. -/
theorem test_pair : foldPair 0x3F800000 0 0x30800000 = (0x3F800000, 0x30800000) ∧ foldPair 0x3F800000 0x30800000 0xBF800000 = (0, 0x30800000) := by decide +kernel
theorem test_iadd_wraps : vAfter (.iadd false 5 4 6) (putV 4 .i32 (fun _ => 0xFFFFFFFF) (putV 6 .i32 (fun _ => 2) base)) 5 31 = 1 ∧ (groupAfter (.iadd false 5 4 6) base).lanes.map (fun l => l.pc) = List.replicate 32 4 := by decide +kernel
/-- 04, a shuffle and a reduction on a divided group. -/
def divided : State := six (putG [(40, 2)] (putV 3 .i32 (fun l => BitVec.ofNat 32 (10 * l)) (putV 7 .f32 (fun l => if l = 0 then 0x4B800000 else if l = 1 ∨ l = 2 then 0x3F800000 else if l = 3 then 0xCB800000 else 0) base)))
theorem test_shfldn : (List.range 8).map (vAfter (.shfldn false 10 3 (.g 40) .w8) divided 10) = [20, 30, 40, 50, 60, 70, 0, 0] := by decide +kernel
theorem test_redux : gAfter (.redux false 51 3 .add) divided 51 = 150 ∧ gAfter (.redux false 50 7 .fadd) divided 50 = 0x3F800000 := by decide +kernel
theorem test_sari : vAfter (.sari false 4 4 31) (putV 4 .i32 (fun _ => 0x80000000) base) 4 0 = 0xFFFFFFFF := by decide +kernel
theorem test_ballot : gAfter (.ballot false 40 0) (six base) 40 = 0x3E := by decide +kernel
/-- 2^31 in the high half of a product of unsigned words. -/
theorem test_gmulhi : gAfter (.gnmulhi false 20 21 22) (putG [(21, 0x80000000), (22, 2)] base) 20 = 1 ∧ gAfter (.gmulhi false 20 21 22) (putG [(21, 0x80000000), (22, 2)] base) 20 = 0xFFFFFFFF := by decide +kernel
theorem test_gadd64_carries : gAfter (.gadd64 false 20 22 24) (putG [(22, 0xFFFFFFFF), (24, 1)] base) 21 = 1 := by decide +kernel
/-- LOOP counts down to 1 and branches; from 1 it goes on. -/
theorem test_loop : (groupAfter (.loop false 20 64) (putG [(20, 2)] base)).lanes.map (fun l => l.pc) = List.replicate 32 64 ∧ gAfter (.loop false 20 64) (putG [(20, 2)] base) 20 = 1 ∧
    ((groupAfter (.loop false 20 64) (putG [(20, 1)] base)).lane 0).pc = 8 := by decide +kernel

/-- 05, a bad indirect target: BRX v7 at 0x100, the trap vector at 0x800. -/
def badTarget : State :=
  let s := vectored.onGroup gk (fun g => { g with lanes := g.lanes.map (fun l => { l with pc := 0x100 }) })
  let t := putV 7 .i32 (fun l => if l ≤ 15 then 0x200 else if l ≤ 28 then 0x300 else if l = 29 then 0x302 else 0x304) s
  { t with cur := .path gk 0xFFFFFFFF 0x100, blocks := [(0, { baseBlock with trapv := some 0x800 })]
           mem := ((t.mem.put (2 ^ 34 + 0x200) [0, 0, 0, 0x8A]).put (2 ^ 34 + 0x300) [0, 0, 0, 0x8A]).put (2 ^ 34 + 0x304) [0, 0, 0, 0x8B] }
theorem test_bad_target : (let g := groupAfter (.brx false 7) badTarget
    (List.range 32).map (fun l => (g.lane l).pc) = List.replicate 16 0x200 ++ List.replicate 13 0x300 ++ List.replicate 3 0x800 ∧ g.fr0 = 0x11000000 ∧ g.fr1 = 0x100 ∧ g.fr2 = 0xE0000000 ∧ g.fr3 = 0x100 ∧
      g.handler = some 0xE0000000) := by decide +kernel

/-- 07, a copy that reaches past its source: 10 by 6 FP32 values of object 2, a box of 4 by 3 from (−2, 4) to tile 5. -/
def float32 (n : Nat) : Nat := (convert .i32 false .f32 false .rn false n)
def pastSource : State :=
  let s := withBlock [(1, 8), (2, 0x22480000), (3, 0xFF80), (4, 5), (8, 0xFFFFFFFE), (9, 4), (13, 0x00030004), (16, 10), (17, 6), (22, 4), (24, 40)] base
  let t := withObject 0x2C s
  ({ t with mem := t.mem.put (2 ^ 35 + 160) ([0x42200000, 0x42240000].flatMap (bytesLE 4)) |>.put (2 ^ 35 + 200) ([0x42480000, 0x424C0000].flatMap (bytesLE 4)) }).onSeg sk (fun g =>
    { g with tiles := [(5, { tileOf .empty .bf16x2 0 with len := 256 })] })
def pastDone : State := match exec (.cpy false 3 32 48) pastSource with
  | .next t => (match exec .copyComplete (withArg (.num (t.nextOp - 1)) t) with
    | .next u => u
    | _ => base)
  | _ => base
theorem test_copy_past_source : (segOf pastDone).scratch.bytes 0 24 = [0x80, 0xFF, 0x80, 0xFF, 0x20, 0x42, 0x24, 0x42, 0x80, 0xFF, 0x80, 0xFF, 0x48, 0x42, 0x4C, 0x42, 0x80, 0xFF, 0x80, 0xFF, 0x80, 0xFF, 0x80, 0xFF] ∧
    (pastDone.tile? sk 5).elim false (fun x => x.st == .ready) = true := by decide +kernel

/-- 16, one coded packet: eight flits, 166 bytes, three data flits, CODES 0xD385. -/
def codedPayload : List Byte :=
  let assorted := fun (k : Nat) => (List.range 64).map (fun i => BitVec.ofNat 8 (37 * i * i + k))
  List.replicate 128 0 ++ assorted 1 ++ assorted 1 ++ ((List.range 16).map (fun i => bytesLE 4 (1000 + i))).flatten ++ assorted 2 ++ List.replicate 64 0 ++ ((List.range 16).map (fun _ => bytesLE 4 0x3F800000)).flatten
theorem test_coded_packet : codesWord ((codeFlits none (payloadFlits codedPayload)).map Prod.fst) = 0xD385 ∧ (((codeFlits none (payloadFlits codedPayload)).map (fun x => x.2.length)).foldl (· + ·) 0) = 166 ∧
    dataFlits true codedPayload = 3 ∧ dataFlits false codedPayload = 8 := by decide +kernel

/-- 16, the same packet read: its CODES and the 192 bytes of its data flits give the payload back. -/
theorem test_coded_packet_read :
    let sent := ((codeFlits none (payloadFlits codedPayload)).map Prod.snd).flatten ++ List.replicate 26 0
    decodeFlits [] (codesOf 8 0xD385) sent = codedPayload := by decide +kernel
/-- 16 R378, R379: a READ as it leaves and comes; with word 15 changed it is bad; types 11 to 15 and reserved bits are discarded. -/
def sentRead : Packet := packetOf .read (.read (2 ^ 35) 128 (.plain .data)) []
def wireOf : Wire := packetWire sentRead []
def crcAgain (w : Wire) : Wire := { w with words := w.words.take 15 ++ [wireCrc w] }
theorem test_wire : (wireOf.words.take 3 = [0x08000001, 0x00070000, 9] ∧ packetMarks (packetOf .write (.write (2 ^ 35) 0xF (.plain .data)) []) = 0xF ∧ packetMarks (packetOf .atomic (.atomic (2 ^ 35 + 8) (.op .add .n32) .data .chip [1]) []) = 0xF00) ∧ readWire wireOf = .good sentRead ∧ readWire { wireOf with words := wireOf.words.set 15 0 } = .bad := by
  decide +kernel
theorem test_wire_reserved : readWire (crcAgain { wireOf with words := wireOf.words.set 0 0xB8000001 }) = .discard ∧ readWire (crcAgain { wireOf with words := wireOf.words.set 14 1 }) = .discard := by decide +kernel

/-- 17 R411: the machine after reset refuses nothing and holds what the spec gives. -/
theorem test_reset : State.reset.host.hostctl = 2 ∧ State.reset.stubIdle = 100000 ∧ State.reset.pinGrace = 200 ∧ State.reset.nextSerial = 1 ∧ State.reset.memOk = true := by decide +kernel
/-- A word of the table placed after reset is fetched and run: GMOVI g20, 8. -/
theorem test_fetch_word : (match step (State.reset.withFetchWord 32 0x800A0008) with
    | .next t => (look t.groups ⟨0, 0⟩).elim false (fun g => g.g.getD 20 0 == 8)
    | _ => false) = true := by decide +kernel

end Sys2Proof.Tests
end

/-! PROOFS, 01 R34, 04 R101, R106: the frame of the lane instructions that write registers only. -/

namespace Sys2Proof.Machine

/-! ### Tables and checks -/

/-- The second of two entries put at one key stands. -/
theorem put_put {κ α : Type} [DecidableEq κ] (l : List (κ × α)) (x : κ) (a b : α) : put (put l x a) x b = put l x b := by
  induction l with
  | nil => simp [put]
  | cons e r ih => obtain ⟨k, c⟩ := e; by_cases h : k = x <;> simp [put, h, ih]

/-- Putting what stands at a key changes nothing. -/
theorem put_of_look {κ α : Type} [DecidableEq κ] {l : List (κ × α)} {x : κ} {a : α} (h : look l x = some a) : put l x a = l := by
  induction l with
  | nil => simp [look] at h
  | cons e r ih => obtain ⟨k, b⟩ := e; by_cases hk : k = x <;> simp_all [look, put]

theorem State.onGroup_id (s : State) (k : GKey) : s.onGroup k (fun g => g) = s := by
  cases hg : look s.groups k with
  | none => simp [State.onGroup, upd, hg]
  | some g => simp [State.onGroup, upd, hg, put_of_look hg]

/-- Two updates of one group are one. -/
theorem State.onGroup_onGroup (s : State) (k : GKey) (f h : Group → Group) : (s.onGroup k f).onGroup k h = s.onGroup k (fun g => h (f g)) := by
  cases hg : look s.groups k <;> simp [State.onGroup, upd, hg, put_put]

/-- Where no check is the first to fail, each has passed. -/
theorem eq_none_of_firstExc_none {l : List (Option Exc)} (h : firstExc l = none) : ∀ x ∈ l, x = none := by
  induction l with
  | nil => simp
  | cons x r ih =>
    cases x with
    | none => simpa using ih h
    | some e => exact absurd h (by simp [firstExc])

/-- An instruction that has a next state took the trap of a failed check, or all its checks passed and its effect ran. -/
theorem issue_cases {s t : State} {checks : List (Option Exc)} {eff : State → State} (h : issue s checks eff = .next t) :
    (∃ e, t = s.raise e) ∨ (firstExc checks = none ∧ t = eff s) := by
  have hr : s.resident = true := by
    cases hs : s.cur with
    | idle => simp [issue, hs] at h
    | path k _ _ => cases hg : look s.groups k <;> simp_all [issue, State.resident]
    | seq q => cases hq : look s.seqs q <;> simp_all [issue, State.resident]
  cases hc : firstExc checks with
  | none => rw [issue_next hr hc] at h; exact .inr ⟨rfl, by cases h; rfl⟩
  | some e => rw [issue_raise hr hc] at h; exact .inl ⟨e, by cases h; rfl⟩

/-! ### Writes of a group's registers -/

/-- From g to g' lanes of a mask of the v registers vs, their tags, and the g registers gs have been written; all else in the group stands. -/
structure Group.Wrote (lanes : Mask) (vs gs : List Nat) (g g' : Group) : Prop where
  rest : g' = { g with v := g'.v, clobV := g'.clobV, g := g'.g, clobG := g'.clobG, struckG := g'.struckG }
  otherV : ∀ r, r ∉ vs → g'.v[r]? = g.v[r]?
  offPath : ∀ r l, lanes.getLsbD l = false → (g'.v.getD r VReg.zero).lanes[l]? = (g.v.getD r VReg.zero).lanes[l]?
  otherG : ∀ r, r ∉ gs → g'.g[r]? = g.g[r]?

theorem Group.Wrote.refl (lanes : Mask) (vs gs : List Nat) (g : Group) : g.Wrote lanes vs gs g :=
  ⟨rfl, fun _ _ => rfl, fun _ _ _ => rfl, fun _ _ => rfl⟩

theorem Group.Wrote.trans {lanes : Mask} {vs gs : List Nat} {a b c : Group} (hab : a.Wrote lanes vs gs b) (hbc : b.Wrote lanes vs gs c) : a.Wrote lanes vs gs c where
  rest := by rw [hbc.rest, hab.rest]
  otherV r hr := (hbc.otherV r hr).trans (hab.otherV r hr)
  offPath r l hl := (hbc.offPath r l hl).trans (hab.offPath r l hl)
  otherG r hr := (hbc.otherG r hr).trans (hab.otherG r hr)

theorem Group.vwrite_wrote {lanes : Mask} {vs gs : List Nat} {r : Nat} (hr : r ∈ vs) (g : Group) (t : Tag) (f : Nat → Word) :
    g.Wrote lanes vs gs (g.vwrite r t lanes f) where
  rest := rfl
  otherV i hi := by
    have hne : r ≠ i := fun h => hi (h ▸ hr)
    simp [Group.vwrite, hne]
  offPath i l hl := by
    by_cases hi : r = i
    · cases hv : g.v[i]? <;> simp [Group.vwrite, List.getD_eq_getElem?_getD, hi, hv, hl]
    · simp [Group.vwrite, List.getD_eq_getElem?_getD, hi]
  otherG _ _ := rfl

theorem Group.gwrite_wrote {lanes : Mask} {vs gs : List Nat} {r : Nat} (hr : r ∈ gs) (g : Group) (w : Word) : g.Wrote lanes vs gs (g.gwrite r w) where
  rest := rfl
  otherV _ _ := rfl
  offPath _ _ _ := rfl
  otherG i hi := by
    have hne : r ≠ i := fun h => hi (h ▸ hr)
    simp [Group.gwrite, hne]

/-! ### The end of an instruction -/

/-- What the end of an instruction does to its path's group. -/
def Group.finish (g : Group) (lanes : Mask) (m : Bool) (len : Nat) : Group :=
  if m then (g.advance lanes (BitVec.ofNat 32 len)).mark lanes else g.advance lanes (BitVec.ofNat 32 len)

theorem State.finish_path {s : State} {k : GKey} {lanes : Mask} {pc : Word} (h : s.cur = .path k lanes pc) (m : Bool) (len : Nat) :
    s.finish m len = s.onGroup k (fun g => g.finish lanes m len) := by
  cases m <;> simp [State.finish, State.mark, State.advance, h, Group.finish, State.onGroup_onGroup]

/-- The marker begins a wait, or leaves a park owed. -/
theorem Group.mark_rest (g : Group) (lanes : Mask) : g.mark lanes = { g with wait := (g.mark lanes).wait, owed := (g.mark lanes).owed } := by
  unfold Group.mark
  split <;> rfl

theorem Group.finish_rest (g : Group) (lanes : Mask) (m : Bool) (len : Nat) :
    g.finish lanes m len = { g with lanes := (g.finish lanes m len).lanes, wait := (g.finish lanes m len).wait, owed := (g.finish lanes m len).owed } := by
  cases m with
  | false => rfl
  | true => simp only [Group.finish, if_true]; rw [Group.mark_rest]; rfl

theorem Group.finish_unmarked (g : Group) (lanes : Mask) (len : Nat) : (g.finish lanes false len).wait = g.wait ∧ (g.finish lanes false len).owed = g.owed :=
  ⟨rfl, rfl⟩

theorem Group.finish_lane (g : Group) (lanes : Mask) (m : Bool) (len l : Nat) (h : l < g.lanes.length) :
    (g.finish lanes m len).lane l = if lanes.getLsbD l then { g.lane l with pc := (g.lane l).pc + BitVec.ofNat 32 len } else g.lane l := by
  have hadv : (g.finish lanes m len).lane l = (g.advance lanes (BitVec.ofNat 32 len)).lane l := by
    cases m with
    | false => rfl
    | true => simp only [Group.finish, if_true]; rw [Group.mark_rest]; rfl
  rw [hadv, Group.advance, lane_map _ _ _ _ h]

/-! ### Writes of the issuing path -/

/-- From s to t the path that issues in s has written lanes of its own of the v registers vs, and the g registers gs. -/
def State.Wrote (s t : State) (vs gs : List Nat) : Prop :=
  ∀ k lanes pc, s.cur = .path k lanes pc → ∃ f : Group → Group, t = s.onGroup k f ∧ ∀ g : Group, g.Wrote lanes vs gs (f g)

section
variable {s t u : State} {vs gs : List Nat}

theorem State.Wrote.refl (s : State) (vs gs : List Nat) : s.Wrote s vs gs :=
  fun k lanes _ _ => ⟨fun g => g, (s.onGroup_id k).symm, Group.Wrote.refl lanes vs gs⟩

theorem State.Wrote.trans (hst : s.Wrote t vs gs) (htu : t.Wrote u vs gs) : s.Wrote u vs gs := by
  intro k lanes pc hc
  obtain ⟨f, rfl, hf⟩ := hst k lanes pc hc
  obtain ⟨f', rfl, hf'⟩ := htu k lanes pc hc
  exact ⟨fun g => f' (f g), s.onGroup_onGroup k f f', fun g => (hf g).trans (hf' (f g))⟩

theorem State.vwrite_wrote (s : State) {r : Nat} (hr : r ∈ vs) (t : Tag) (f : Nat → Word) : s.Wrote (s.vwrite r t f) vs gs :=
  fun _ lanes _ hc => ⟨fun g => g.vwrite r t lanes f, by simp [State.vwrite, hc], fun g => g.vwrite_wrote hr t f⟩

theorem State.writeU_wrote (s : State) {r : Nat} (hr : r ∈ gs) (w : Word) : s.Wrote (s.writeU r w) vs gs :=
  fun _ _ _ hc => ⟨fun g => g.gwrite r w, by simp [State.writeU, hc], fun g => g.gwrite_wrote hr w⟩

/-- A float result is of one register, or of two under F64. -/
theorem State.fwrite_wrote (s : State) {r : Nat} {t : Tag} (hr : r ∈ vs) (hhi : t = .f64 → r + 1 ∈ vs) (f : Nat → Nat) : s.Wrote (s.fwrite r t f) vs gs := by
  unfold State.fwrite
  split
  · next ht => exact (s.vwrite_wrote hr _ _).trans (State.vwrite_wrote _ (hhi ht) _ _)
  · exact s.vwrite_wrote hr _ _

theorem State.vwriteAll_wrote (s : State) {vd n : Nat} (hr : ∀ i, i < n → vd + i ∈ vs) (t : Tag) (f : Nat → Nat → Word) : s.Wrote (s.vwriteAll vd t n f) vs gs := by
  induction n with
  | zero => exact .refl s vs gs
  | succ n ih =>
    have hstep : s.vwriteAll vd t (n + 1) f = (s.vwriteAll vd t n f).vwrite (vd + n) t (f n) := by simp [State.vwriteAll, List.range_succ]
    rw [hstep]
    exact (ih (fun i hi => hr i (by omega))).trans (State.vwrite_wrote _ (hr n (by omega)) t (f n))

/-- A path that has written registers and goes on has done what the frame says. -/
theorem State.Wrote.finish (h : s.Wrote t vs gs) {k : GKey} {lanes : Mask} {pc : Word} {g : Group} (hp : s.pathIs k lanes pc g) (m : Bool) (len : Nat) :
    s.pathWrote (t.finish m len) k lanes g len m vs gs := by
  obtain ⟨hc, hg⟩ := hp
  obtain ⟨f, rfl, hf⟩ := h k lanes pc hc
  obtain ⟨hrest, hv, hoff, hgs⟩ := hf g
  have hfin := (f g).finish_rest lanes m len
  rw [State.finish_path (s := s.onGroup k f) hc, State.onGroup_onGroup]
  refine ⟨rfl, fun x hx => look_upd_ne _ _ hx, (f g).finish lanes m len, upd_some _ hg, ?_, ?_, ?_, ?_, ?_, ?_⟩
  · rw [hfin, hrest]
  · intro r hr
    rw [hfin]
    exact hv r hr
  · intro r l hl
    rw [hfin]
    exact hoff r l hl
  · intro r hr
    rw [hfin]
    exact hgs r hr
  · rintro rfl
    rw [hrest]
    exact Group.finish_unmarked _ _ _
  · intro l hl
    rw [hrest]
    exact Group.finish_lane _ _ _ _ _ hl

end

/-! ### Frames by form of instruction -/

/-- An outcome in s keeps the frame of an instruction of a length, a marker and its destinations: the trap of a failed check, or those destinations written. Where no destinations are given nothing is claimed. -/
structure State.FramedBy (s : State) (o : Out) (dests : Option (Nat × Bool × List Nat × List Nat)) : Prop where
  frame : ∀ len m vs gs, dests = some (len, m, vs, gs) → ∀ t k lanes pc g, s.pathIs k lanes pc g → o = .next t →
    (∃ e, t = s.raise e) ∨ s.pathWrote t k lanes g len m vs gs

theorem State.framedBy_none (s : State) (o : Out) : s.FramedBy o none := ⟨nofun⟩

section
variable {s : State} {m : Bool} {len : Nat} {vs gs names gnames : List Nat} {ops : List Opnd} {own : List (Option Exc)}

/-- An instruction whose effect writes its destinations and goes on. -/
theorem issue_framed {checks : List (Option Exc)} {eff : State → State}
    (h : firstExc checks = none → ∃ u, eff s = u.finish m len ∧ s.Wrote u vs gs) : s.FramedBy (issue s checks eff) (some (len, m, vs, gs)) := by
  refine ⟨fun _ _ _ _ hd t k lanes pc g hp ht => ?_⟩
  cases hd
  rcases issue_cases ht with he | ⟨hc, rfl⟩
  · exact .inl he
  · obtain ⟨u, hu, hw⟩ := h hc
    exact .inr (hu ▸ hw.finish hp m len)

/-- The effect may rely on the tags that the sources' checks let pass. -/
theorem lan_framed {eff : State → State}
    (h : (∀ o ∈ ops, s.tagExc o = none) → s.Wrote (eff s) vs gs) : s.FramedBy (lan s m len names gnames ops own eff) (some (len, m, vs, gs)) := by
  refine issue_framed fun hc => ⟨eff s, rfl, h fun o ho => eq_none_of_firstExc_none hc _ ?_⟩
  simp only [State.sourceExcs, List.mem_append, List.mem_map]
  exact .inl (.inr (.inr ⟨o, ho, rfl⟩))

/-- A lane instruction that writes one v register. -/
theorem lan_vwrite_framed {r : Nat} {t : Tag} {f : Nat → Word} :
    s.FramedBy (lan s m len names gnames ops own (fun u => u.vwrite r t f)) (some (len, m, [r], [])) :=
  lan_framed fun _ => s.vwrite_wrote (List.mem_singleton_self r) t f

/-- A vote or a reduction writes one g register. -/
theorem lan_writeU_framed {r : Nat} {w : Word} :
    s.FramedBy (lan s m len names gnames ops own (fun u => u.writeU r w)) (some (len, m, [], [r])) :=
  lan_framed fun _ => s.writeU_wrote (List.mem_singleton_self r) w

theorem State.mem_wide_pair (s : State) (vd va : BitVec 8) : vd.toNat ∈ s.wide vd va ∧ (s.tagOf va.toNat = .f64 → vd.toNat + 1 ∈ s.wide vd va) := by
  unfold State.wide
  split <;> simp_all

/-- A float result under va's tag takes vd, and under F64 the pair. -/
theorem lan_fwrite_framed {vd va : BitVec 8} {f : Nat → Nat} :
    s.FramedBy (lan s m len names gnames ops own (fun u => u.fwrite vd.toNat (s.tagOf va.toNat) f)) (some (len, m, s.wide vd va, [])) :=
  lan_framed fun _ => s.fwrite_wrote (s.mem_wide_pair vd va).1 (s.mem_wide_pair vd va).2 f

end

section
variable (s : State) (m : Bool) (vd va vb : BitVec 8)

/-- The approximate functions refuse F64, so that their result takes one register. -/
theorem float1_short_framed (f : Fmt → Nat → Nat) : s.FramedBy (float1 s m vd va shortFloatTag f) (some (8, m, [vd.toNat], [])) := by
  refine lan_framed fun htag => s.fwrite_wrote (List.mem_singleton_self _) (fun h64 => ?_) _
  have hva := htag (.v 0 va.toNat shortFloatTag) (by simp [fopnds, h64])
  simp [State.tagExc, excIf, h64, shortFloatTag] at hva

/-- Sum and error each take a register, or a pair under F64. -/
theorem execFtwosum_framed : s.FramedBy (execFtwosum m vd va vb s) (s.laneDests (.ftwosum m vd va vb)) := by
  unfold execFtwosum
  refine issue_framed fun _ => ?_
  refine ⟨_, rfl, (s.fwrite_wrote ?_ ?_ _).trans (State.fwrite_wrote _ ?_ ?_ _)⟩ <;> unfold State.wide <;> split <;> simp_all

theorem execCvt_framed (dtag : Tag) (u : Bool) (el : BitVec 3) (rm : Rounding) (sat : Bool) :
    s.FramedBy (execCvt m vd va dtag u el rm sat s) (s.laneDests (.cvt m vd va dtag u el rm sat)) := by
  refine lan_framed fun _ => ?_
  refine s.fwrite_wrote ?_ ?_ _ <;> split <;> simp_all

theorem execCvtsc_framed (dtag : Tag) (el : Bool) : s.FramedBy (execCvtsc m vd va dtag el s) (s.laneDests (.cvtsc m vd va dtag el)) := by
  unfold execCvtsc
  refine issue_framed fun _ => ?_
  exact ⟨_, rfl, (s.vwrite_wrote (by simp) _ _).trans (State.vwrite_wrote _ (by simp) _ _)⟩

theorem execUnpack_framed (dtag : Tag) (u : Bool) (rm : Rounding) : s.FramedBy (execUnpack m vd va dtag u rm s) (s.laneDests (.unpack m vd va dtag u rm)) := by
  unfold execUnpack
  refine issue_framed fun _ => ?_
  exact ⟨_, rfl, s.vwriteAll_wrote (fun i hi => by simpa [regs] using hi) _ _⟩

end

/-- Every lane instruction keeps the frame of its destinations, by the form of its effect. -/
theorem exec_framed (s : State) (i : Instr) : s.FramedBy (exec i s) (s.laneDests i) := by
  cases i with
  | iadd | isub | imul | imulhi | nmulhi | imin | imax | nmin | nmax | vand | vor | vxor | shl | shr | sar | mov | iaddi | andi | ori | xori | shli | shri | sari
  | movi | imad | popc | clz | brev | bfe | bfi | prmt | sel | iabs | ineg | iadd3 | movg | iset | nset | fset | pack2 | pack4 | tagset | tagget | shfl | shflup | shfldn
  | shflx | qswaph | qswapv | qswapd | qbcast | laneid | readsr => exact lan_vwrite_framed
  | fadd | fsub | fmul | fmin | fmax | ffma | fsqrt | fabs | fneg | ffloor | fceil | ftrunc | frint => exact lan_fwrite_framed
  | frcp | frsq | fexp2 | flog2 | fsin | fcos => exact float1_short_framed ..
  | ftwosum => exact execFtwosum_framed ..
  | cvt => exact execCvt_framed ..
  | cvtsc => exact execCvtsc_framed ..
  | unpack => exact execUnpack_framed ..
  | voteall | voteany | ballot | bplane | matchLanes | redux => exact lan_writeU_framed
  | _ => exact State.framedBy_none ..

end Sys2Proof.Machine

/-- Settles O45: an instruction's effect is a sequence of register writes that each keep the frame of its destinations, and its end moves program counters of its path and, with the marker, the wait alone. -/
theorem laneFrames : Obligations.LaneFrames := by
  intro s t i len m vs gs k lanes pc g hp hd ht
  exact (Sys2Proof.Machine.exec_framed s i).frame len m vs gs hd t k lanes pc g hp ht

/-! PROOFS, 02 R40, 03 R60 to R78: words that the spec prints. -/

namespace Sys2Proof

/-- Nothing is decoded exactly where decoding answers an error. -/
theorem forall_ne_ok_iff {ε α : Type} {x : Except ε α} : (∀ a, x ≠ .ok a) ↔ x.toOption = none := by
  cases x <;> simp [Except.toOption]

end Sys2Proof

/-- Settles O47: each printed pair of words decodes to its instruction and is its encoding, and each reserved pair gives no instruction; all of them closed facts about the tables. -/
theorem printedWords : Obligations.PrintedWords := by
  unfold Obligations.PrintedWords
  simp only [Sys2Proof.forall_ne_ok_iff, List.forall_mem_cons, List.not_mem_nil, IsEmpty.forall_iff, implies_true, and_true]
  and_intros <;> decide +kernel

/-! PROOFS, 02 R49 to R51, 03 R62: what a step runs. -/

namespace Sys2Proof.Machine

/-! ### What the fetch path reads -/

/-- Two states hold the same code: what the fetch of an instruction reads is the same in both. -/
structure State.SameCode (s t : State) : Prop where
  blocks : t.blocks = s.blocks
  objs : t.objs = s.objs
  mem : t.mem = s.mem
  poison : t.poison = s.poison
  flaws : t.flaws = s.flaws
  stale : t.stale = s.stale
  blur : t.blur = s.blur
  far : t.far = s.far
  freeCtr : t.freeCtr = s.freeCtr

section
variable {s t : State}

theorem served_eq_of_objs (h : t.objs = s.objs) (n id off : Nat) : t.served n id off = s.served n id off := by
  induction n generalizing id off with
  | zero => rfl
  | succ n ih => simp only [State.served, h, ih]

theorem State.SameCode.codeRead (h : s.SameCode t) (blk : Nat) (pc : Word) : t.codeRead blk pc = s.codeRead blk pc := by
  obtain ⟨hb, ho, hm, hp, hf, hs, hu, hfar, hc⟩ := h
  have hat : t.codeAt blk pc = s.codeAt blk pc := by simp only [State.codeAt, hb, served_eq_of_objs ho]
  have hunknown : ∀ a, t.codeUnknown a = s.codeUnknown a := fun a => by simp only [State.codeUnknown, hs, hu]
  have hword : ∀ a, t.codeWord a = s.codeWord a := fun a => by simp only [State.codeWord, State.undef, hunknown, hc, hm]
  have hpois : ∀ a, t.poisonedAt a = s.poisonedAt a := fun a => by simp only [State.poisonedAt, State.poisonedSector, hp, hf]
  have hsect : ∀ a, t.farSector blk a = s.farSector blk a := fun a => by simp only [State.farSector, hfar]
  simp only [State.codeRead, hat, hb, hword, hpois, hsect, served_eq_of_objs ho]

theorem State.SameCode.fetch (h : s.SameCode t) (blk : Nat) (pc : Word) : t.fetch blk pc = s.fetch blk pc := by
  simp only [State.fetch, State.fetch?, h.codeRead]

end

theorem State.noteIssue_sameCode (s : State) (u : Nat) (k : GKey) (out : List PathOf) : s.SameCode (s.noteIssue u k out) :=
  ⟨rfl, rfl, rfl, rfl, rfl, rfl, rfl, rfl, rfl⟩

theorem State.noteIssue_takeView_sameCode (s : State) (u : Nat) (k : GKey) (out : List PathOf) : s.SameCode ((s.noteIssue u k out).takeView k) :=
  ⟨rfl, rfl, rfl, rfl, rfl, rfl, rfl, rfl, rfl⟩

/-- A word of code that is known and not poisoned is read as memory holds it. -/
theorem codeRead_of_codeAt {s : State} {blk a : Nat} {pc : Word} (hat : s.codeAt blk pc = some a) (hknown : s.codeUnknown a = false) (hpois : s.poisonedAt a = false) :
    s.codeRead blk pc = some (.ok (s.mem.word a)) := by
  simp [State.codeRead, State.codeWord, hat, hknown, hpois]

/-- Decoding eight bytes of memory is decoding two words of it, the second looked at by a two-word instruction only. -/
theorem decode_bytes (m : Memory) (a : Nat) :
    decode (m.bytes a 8) = if Sys2Proof.twoWords (m.word a) then (decodeWords (m.word a) (m.word (a + 4))).map (·, []) else (decodeWords (m.word a) 0).map (·, m.bytes (a + 4) 4) := by
  change (if Sys2Proof.twoWords (m.word a) then
      match decodeWords (m.word a) (m.word (a + 4)) with
      | .ok i => Except.ok (i, [])
      | .error e => .error e
    else
      match decodeWords (m.word a) 0 with
      | .ok i => .ok (i, m.bytes (a + 4) 4)
      | .error e => .error e) = _
  cases decodeWords (m.word a) (m.word (a + 4)) <;> cases decodeWords (m.word a) 0 <;> rfl

theorem decodeWords_of_decode {m : Memory} {a : Nat} {i : Instr} {rest : List Byte} (h : decode (m.bytes a 8) = .ok (i, rest)) :
    decodeWords (m.word a) (if Sys2Proof.twoWords (m.word a) then m.word (a + 4) else 0) = .ok i := by
  rw [decode_bytes] at h
  split at h
  · next h2 =>
    rw [if_pos h2]
    cases hd : decodeWords (m.word a) (m.word (a + 4)) <;> simp_all [Except.map]
  · next h1 =>
    rw [if_neg h1]
    cases hd : decodeWords (m.word a) 0 <;> simp_all [Except.map]

/-- Code that decodes is fetched as the instruction it decodes to. -/
theorem fetch_of_decode {s : State} {blk a : Nat} {pc : Word} {i : Instr} (h0 : s.codeRead blk pc = some (.ok (s.mem.word a)))
    (h1 : s.codeRead blk (pc + 4) = some (.ok (s.mem.word (a + 4))))
    (hd : decodeWords (s.mem.word a) (if Sys2Proof.twoWords (s.mem.word a) then s.mem.word (a + 4) else 0) = .ok i) : s.fetch blk pc = .ok i := by
  cases h2 : Sys2Proof.twoWords (s.mem.word a) <;> simp_all [State.fetch, State.fetch?, decoded]

/-! ### What a step runs -/

theorem runPath_of_fetch {run : Instr → State → Out} {s : State} {k : GKey} {p : PathOf} {i : Instr} (h : s.fetch k.blk p.pc = .ok i) :
    runPath run s k p = run i (s.asPath k p) := by
  simp [runPath, h]

/-- A chip that is up, with nothing arriving, at an even clock runs what issues. -/
theorem step_of_nextPick {s : State} {p : Pick} (ha : s.agenda = []) (hp : s.phase = .up) (hc : s.clock % 2 = 0) (h : s.nextPick = some p) :
    step s = thenTidy (runPick exec s p) := by
  simp [step, stepWith, turnOf, ha, hp, hc, issueNow, h]

theorem runPick_one {s : State} {u : Nat} {k : GKey} {p : PathOf} {i : Instr} (h : s.fetch k.blk p.pc = .ok i) :
    runPick exec s (.one u k p) = exec i ((s.noteIssue u k [p]).asPath k p) :=
  runPath_of_fetch (((s.noteIssue_sameCode u k [p]).fetch _ _).trans h)

theorem runPick_seq {s : State} {u : Nat} {q : QKey} {e : Sequencer} {i : Instr} (hq : look s.seqs q = some e) (h : s.fetch q.sg.blk e.pc = .ok i) :
    runPick exec s (.seq u q) = exec i (({ s with lastSlot := u, cur := .seq q }).onTask (s.taskOf q.sg.blk) (fun x => { x with lastProgress := s.ptime })) := by
  simp [runPick, runSeq, hq, h]

end Sys2Proof.Machine

open Sys2Proof Sys2Proof.Machine in
/-- Settles O49: the fetch reads nothing that the note of an issue changes, so that each choice of `turnOf` comes to the instruction its unit fetches. -/
theorem stepRuns : Obligations.StepRuns := by
  refine ⟨?fetch, ?one, ?two, ?seq, ?arrival⟩
  case fetch =>
    intro s blk pc a i rest h0 h4 hk0 hk4 hp0 hp4 hd
    exact fetch_of_decode (codeRead_of_codeAt h0 hk0 hp0) (codeRead_of_codeAt h4 hk4 hp4) (decodeWords_of_decode hd)
  case one =>
    intro s u k p i ha hp hc hn hf
    rw [step_of_nextPick ha hp hc hn, runPick_one hf]
  case two =>
    intro s t x u k w l i j ha hp hc hn hfl hl hfw hw
    have hloser : runPath exec ((s.noteIssue u k [w, l]).takeView k) k l = .next t :=
      (runPath_of_fetch (((s.noteIssue_takeView_sameCode u k [w, l]).fetch _ _).trans hfl)).trans hl
    have hwinner : runPath exec { t with freeCtr := t.freeCtr + 1 } k w = .next x := (runPath_of_fetch hfw).trans hw
    rw [step_of_nextPick ha hp hc hn]
    refine ⟨?_, ?_, ?_, ?_, ?_⟩
    · intro y r he
      simp only [runPick, runTwo, hloser, hwinner, he, thenTidy]
    · intro i' y he hfa hy
      simp only [runPick, runTwo, hloser, hwinner, he, runPath_of_fetch hfa, hy, thenTidy]
    · intro he
      simp only [runPick, runTwo, hloser, hwinner, he, thenTidy]
    · intro he
      simp only [runPick, runTwo, hloser, hwinner, he, thenTidy]
    · intro lanes he
      simp only [runPick, runTwo, hloser, hwinner, he, thenTidy]
  case seq =>
    intro s u q e i ha hp hc hn hq hf
    rw [step_of_nextPick ha hp hc hn, runPick_seq hq hf]
  case arrival =>
    intro s i a rest ha
    simp [step, stepWith, turnOf, ha]

/-! PROOFS, 02 R44 to R47, 04 R123, 05 R150 and R152, 09 R257: control and status registers. -/

namespace Sys2Proof.Machine

/-- An issuer is ready for an instruction that any group may issue: its registers, row and sources pass their checks. -/
theorem State.uniReady_checks {s : State} {names reads : List Nat} (h : s.uniReady .group false names reads = true) :
    s.resident = true ∧ s.nameExc [] names = none ∧ s.rowExc .group = none ∧ s.struckExc reads = none := by
  simp only [State.uniReady, Bool.and_eq_true] at h
  obtain ⟨⟨⟨⟨hr, hm⟩, -⟩, hn⟩, hs⟩ := h
  exact ⟨hr, nameExc_none (by rfl) hn, rowExc_none hm, struckExc_none hs⟩

/-- The own checks of CSRW and CSRX: they stand between the row's check and the sources'. -/
theorem issue_csr {s : State} {names reads : List Nat} {c : Csr} {eff : State → State} (h : s.uniReady .group false names reads = true) (hc : firmwareCsr c = false) :
    issue s [s.nameExc [] names, s.rowExc .group, privExc c, s.struckExc reads] eff = .next (eff s) := by
  obtain ⟨hr, hn, hrow, hs⟩ := State.uniReady_checks h
  refine issue_next hr ?_
  rw [hn, hrow, hs, privExc, hc]
  rfl

section
variable {s : State} {m : Bool} {gd ga : BitVec 9} {c : Csr}

theorem exec_csrr (h : s.uniReady .group false [gd.toNat] [] = true) :
    exec (.csrr m gd c) s = .next (((s.latchCsr c).writeU gd.toNat (s.readCsr c)).finish m 8) := by
  change execCsrr m gd c s = _
  exact uni_run h

theorem exec_csrw (h : s.uniReady .group false [ga.toNat] [ga.toNat] = true) (hc : firmwareCsr c = false) :
    exec (.csrw m c ga) s = .next ((s.writeCsr c (s.readU 0 ga.toNat)).finish m 8) := by
  change execCsrw m c ga s = _
  exact issue_csr h hc

theorem exec_csrx (h : s.uniReady .group false [gd.toNat, ga.toNat] [ga.toNat] = true) (hc : firmwareCsr c = false) :
    exec (.csrx m gd c ga) s = .next ((((s.latchCsr c).writeU gd.toNat (s.readCsr c)).writeCsr c (s.readU 0 ga.toNat)).finish m 8) := by
  change execCsrx m gd c ga s = _
  exact issue_csr h hc

end

/-! ### What a path reads of its group's registers -/

section
variable {s : State} {k : GKey} {lanes : Mask} {pc : Word} {g : Group}

theorem State.pathIs.curGroup (h : s.pathIs k lanes pc g) : s.curGroup = some g := by
  obtain ⟨hc, hg⟩ := h
  simp [State.curGroup, hc, hg]

theorem State.pathIs.curSeg (h : s.pathIs k lanes pc g) : s.curSeg = ⟨k.blk, g.seg⟩ := by
  obtain ⟨hc, hg⟩ := h
  simp [State.curSeg, hc, hg]

theorem State.pathIs.curLanes (h : s.pathIs k lanes pc g) : s.curLanes = lanes := by simp [State.curLanes, h.1]

theorem State.pathIs.curGid (h : s.pathIs k lanes pc g) : s.curGid = k.gid := by simp [State.curGid, h.1]

theorem State.pathIs.onCur (h : s.pathIs k lanes pc g) (f : Group → Group) : look (s.onCur f).groups k = some (f g) := by
  obtain ⟨hc, hg⟩ := h
  simp only [State.onCur, hc]
  exact upd_some f hg

end

theorem quantumOf_eq (w : Word) : quantumOf w = if w.toNat % 2048 = 0 then 1 else if 1024 < w.toNat % 2048 then 1024 else w.toNat % 2048 := by
  unfold quantumOf
  split_ifs <;> omega

theorem leaseOf_eq (w : Word) : leaseOf w = if w.toNat % 131072 < 128 then 128 else if 65000 < w.toNat % 131072 then 65000 else w.toNat % 131072 := by
  unfold leaseOf
  split_ifs <;> omega

theorem State.writeCsr_readOnly (s : State) (w : Word) {c : Csr} (hq : c ≠ .quantum) (hl : c ≠ .lease) : s.writeCsr c w = s := by
  unfold State.writeCsr
  split
  · exact absurd rfl hq
  · exact absurd rfl hl
  · rfl

/-- A mask of the lanes below n (04 R123). -/
theorem getLsbD_lanesBelow {i : Nat} (n : Nat) (hi : i < 32) : (BitVec.ofNat 32 (2 ^ n - 1)).getLsbD i = decide (i < n) := by
  rw [BitVec.getLsbD_ofNat, Nat.testBit_two_pow_sub_one]
  simp [hi]

end Sys2Proof.Machine

open Sys2Proof Sys2Proof.Machine in
/-- Settles O20: each instruction's checks pass, and its effect is the latch, the read and the write that the statement names. -/
theorem systemRegisters : Obligations.SystemRegisters := by
  intro s m gd ga c n w
  refine ⟨exec_csrr, exec_csrw, exec_csrx, fun ha => ?quantumLease, fun ha => ?latches, fun h => ?clock, fun h => ?event⟩
  case quantumLease =>
    change execQuantumWrite s = _ ∧ execLeaseWrite s = _
    rw [execQuantumWrite, execLeaseWrite, ha]
    exact ⟨rfl, rfl⟩
  case latches =>
    change execPtimeLoRead s = _ ∧ execGwctLoRead s = _
    rw [execPtimeLoRead, execGwctLoRead, ha]
    exact ⟨rfl, rfl⟩
  case clock =>
    change execClkr m gd s = _
    exact uni_run h
  case event =>
    change execEvent m ga n s = _
    exact uni_run h

open Sys2Proof Sys2Proof.Machine in
/-- Settles O21: a path reads its own group's words where no pair is under way, a write of QUANTUM or LEASE changes that word of its group, and the latches are words of the group that later reads return. -/
theorem specialWords : Obligations.SpecialWords := by
  refine ⟨fun v gs lanes seg floor gwct => ⟨rfl, rfl, rfl, rfl, rfl⟩, ?_⟩
  intro s m gd k lanes pc g w hp hv
  have hcsr : ∀ c, s.curGroup.elim 0 (fun x => x.csr c) = g.csr c := fun c => by rw [hp.curGroup, Option.elim_some]
  have hquantum : s.readCsr .quantum = BitVec.ofNat 32 g.quantum := (hcsr .quantum).trans (by simp [Group.csr, hv])
  have hlease : s.readCsr .lease = BitVec.ofNat 32 g.lease := (hcsr .lease).trans (by simp [Group.csr, hv])
  have houts : s.readCsr .outs = BitVec.ofNat 32 g.outs := (hcsr .outs).trans (by simp [Group.csr, hv])
  have hgroup : s.readCsr .groupid = BitVec.ofNat 32 k.gid := congrArg (BitVec.ofNat 32) hp.curGid
  have hseg : s.readCsr .segid = BitVec.ofNat 32 g.seg := congrArg (fun x : SKey => BitVec.ofNat 32 x.seg) hp.curSeg
  have hptime : s.readCsr .ptimeHi = g.ptimeHi := (hcsr .ptimeHi).trans (by simp [Group.csr, hv])
  have hgwctLo : s.readCsr .gwctLo = BitVec.ofNat 32 g.gwct := (hcsr .gwctLo).trans (by simp [Group.csr, hv])
  have hgwctHi : s.readCsr .gwctHi = g.gwctHi := (hcsr .gwctHi).trans (by simp [Group.csr, hv])
  refine ⟨hquantum, hlease, houts, hcsr .faultrec0, hcsr .faultrec1, hcsr .faultrec2, hcsr .faultrec3, hp.curLanes, hgroup, hseg, rfl, rfl, rfl, hptime, hgwctLo, hgwctHi,
    ?_, ?_, fun c hq hl => s.writeCsr_readOnly w hq hl, fun h => ⟨exec_csrr h, ?_, ?_, ?_, ?_, ?_⟩, fun l => ⟨?_, hp.curLanes, hseg, fun i => getLsbD_lanesBelow l, fun i hi => ?_⟩⟩
  · rw [← quantumOf_eq]
    exact hp.onCur _
  · rw [← leaseOf_eq]
    exact hp.onCur _
  · exact hp.onCur _
  · rw [exec_csrr h, hgwctLo]
  · rw [State.latchCsr, hp.onCur]
    simp [hv]
  · rw [exec_csrr h, hptime]
    rfl
  · rw [exec_csrr h, hgwctHi]
    rfl
  · exact congrArg (fun n => BitVec.ofNat 32 (n * 32 + l)) hp.curGid
  · rw [← decide_eq_decide.2 Nat.lt_succ_iff]
    exact getLsbD_lanesBelow (l + 1) hi

/-! PROOFS, 02 R57, 05 R153 to R157, 06 R185, 14 R337: aborts, the end of a park, taking a trap. -/

namespace Sys2Proof.Machine

/-! ### Regions that abort -/

/-- From s to t regions have aborted or gone: of a group no more than its noted abort has changed. -/
structure State.AbortsOnly (s t : State) : Prop where
  rest : t = { s with regions := t.regions, versions := t.versions, groups := t.groups }
  group : ∀ k g, look s.groups k = some g → ∃ a, look t.groups k = some { g with abort := a }

section
variable {s t u : State}

theorem State.AbortsOnly.refl (s : State) : s.AbortsOnly s := ⟨rfl, fun _ g hg => ⟨g.abort, hg⟩⟩

theorem State.AbortsOnly.trans (hst : s.AbortsOnly t) (htu : t.AbortsOnly u) : s.AbortsOnly u where
  rest := by rw [htu.rest, hst.rest]
  group k g hg := by
    obtain ⟨a, ha⟩ := hst.group k g hg
    obtain ⟨a', ha'⟩ := htu.group k _ ha
    exact ⟨a', ha'⟩

theorem State.AbortsOnly.foldl {α : Type} (f : State → α → State) (hf : ∀ (t : State) (x : α), t.AbortsOnly (f t x)) (l : List α) (s : State) : s.AbortsOnly (l.foldl f s) := by
  induction l generalizing s with
  | nil => exact .refl s
  | cons x l ih => exact (hf s x).trans (ih (f s x))

theorem State.AbortsOnly.blocks (h : s.AbortsOnly t) : t.blocks = s.blocks := by rw [h.rest]
theorem State.AbortsOnly.tasks (h : s.AbortsOnly t) : t.tasks = s.tasks := by rw [h.rest]
theorem State.AbortsOnly.mem (h : s.AbortsOnly t) : t.mem = s.mem := by rw [h.rest]

end

theorem State.abortOne_abortsOnly (s : State) (slot w : Nat) : s.AbortsOnly (s.abortOne slot w) := by
  unfold State.abortOne
  split
  · exact .refl s
  · next r hr =>
    refine ⟨rfl, fun k g hg => ?_⟩
    by_cases hk : k = r.owner
    · subst hk
      exact ⟨_, upd_some _ hg⟩
    · exact ⟨g.abort, (look_upd_ne _ _ hk).trans hg⟩

theorem State.abortAll_abortsOnly (s : State) (own : List (Nat × Nat)) : s.AbortsOnly (s.abortAll own) :=
  .foldl (fun t (x : Nat × Nat) => t.abortOne x.1 x.2) (fun t x => t.abortOne_abortsOnly x.1 x.2) _ s

theorem State.dropRegion_abortsOnly (s : State) (slot : Nat) : s.AbortsOnly (s.dropRegion slot) := ⟨rfl, fun _ g hg => ⟨g.abort, hg⟩⟩

/-- A task that is not ENDING already goes to ENDING with its cause, and the regions of its groups abort. -/
theorem State.endTask_abortsOnly {s : State} {i : Nat} {x : Task} (hx : look s.tasks i = some x) (hst : x.st ≠ .ending)
    (killer : Option (Nat × Nat × Nat)) (fault : Option (Nat × Nat × List Word)) :
    { s with tasks := put s.tasks i { x with st := .ending, killer := killer, fault := fault } }.AbortsOnly (s.endTask i killer fault) := by
  have hne : (x.st == .ending) = false := by simpa using hst
  simp only [State.endTask, hx, hne]
  exact (State.abortAll_abortsOnly _ _).trans (.foldl State.dropRegion State.dropRegion_abortsOnly _ _)

/-! ### The oldest deferred fault -/

theorem minBy_mem {α : Type} {f : α → Nat} {l : List α} {y : α} (h : minBy f l = some y) : y ∈ l := by
  induction l generalizing y with
  | nil => exact absurd h (by simp [minBy])
  | cons x r ih =>
    simp only [minBy] at h
    split at h
    · simp_all
    · next z hz =>
      split at h
      · cases h
        exact List.mem_cons_of_mem _ (ih hz)
      · cases h
        exact List.mem_cons_self

theorem minBy_of_strict {α : Type} {f : α → Nat} {l : List α} {d : α} (hd : d ∈ l) (hmin : ∀ x ∈ l, x ≠ d → f d < f x) : minBy f l = some d := by
  induction l with
  | nil => exact absurd hd (by simp)
  | cons x r ih =>
    simp only [minBy]
    by_cases hr : d ∈ r
    · rw [ih hr fun y hy => hmin y (List.mem_cons_of_mem _ hy)]
      by_cases hx : x = d
      · simp [hx]
      · simp [hmin x List.mem_cons_self hx]
    · obtain rfl : d = x := (List.mem_cons.1 hd).resolve_right hr
      split
      · rfl
      · next y hy =>
        have hym := minBy_mem hy
        have hlt := hmin y (List.mem_cons_of_mem _ hym) (fun h => hr (h ▸ hym))
        rw [if_neg (by omega)]

/-- The record of a deferred fault, found with n others, that a path takes. -/
def Deferred.trapRec (d : Deferred) (n : Nat) (path : Mask) (resume : Word) : TrapRec :=
  { code := d.code, detail := min n 63, pc := d.pc, lanes := d.lanes, resume := resume, deferred := true, seq := false, path := path }

theorem Deferred.trapRec_word0 (d : Deferred) (n : Nat) (path : Mask) (resume : Word) :
    (d.trapRec n path resume).word0 = BitVec.ofNat 32 (d.code.code * 2 ^ 24 + min n 63) := by
  simp only [TrapRec.word0, Deferred.trapRec]
  rw [Nat.mod_eq_of_lt (by omega)]

theorem Deferred.trapRec_word1 (d : Deferred) (n : Nat) (path : Mask) (resume : Word) : (d.trapRec n path resume).word1 = (d.pc &&& 0xFFFFFFFC) ||| 2 := by
  simp [TrapRec.word1, Deferred.trapRec]

/-- Of deferred faults the one that issued first is reported, with the count of the others. -/
theorem deferredRec_of_oldest {ds : List Deferred} {d : Deferred} (hd : d ∈ ds) (hmin : ∀ x ∈ ds, x ≠ d → d.order < x.order) (path : Mask) (resume : Word) :
    deferredRec ds path resume = some (d.trapRec (ds.length - 1) path resume) := by
  simp [deferredRec, oldest, minBy_of_strict hd hmin, Deferred.trapRec]

/-! ### The end of a park, and the handler -/

/-- A group as its park or trap drain leaves it: its pending registers settled, what it owed paid, in no wait. -/
def Group.parkEnd (g : Group) (stamp now : Nat) : Group := { (g.settle stamp).payAcquire now with wait := .none }

section
variable (g : Group) (stamp now : Nat)

theorem Group.parkEnd_lanes : (g.parkEnd stamp now).lanes = g.lanes := by
  unfold Group.parkEnd Group.payAcquire
  split <;> rfl

theorem Group.parkEnd_v : (g.parkEnd stamp now).v = undefineV stamp g.clobV g.v := by
  unfold Group.parkEnd Group.payAcquire
  split <;> rfl

theorem Group.parkEnd_g : (g.parkEnd stamp now).g = undefineG stamp g.clobG g.g := by
  unfold Group.parkEnd Group.payAcquire
  split <;> rfl

theorem Group.parkEnd_region : (g.parkEnd stamp now).region = g.region := by
  unfold Group.parkEnd Group.payAcquire
  split <;> rfl

theorem Group.parkEnd_handler : (g.parkEnd stamp now).handler = g.handler := by
  unfold Group.parkEnd Group.payAcquire
  split <;> rfl

end

/-- A group whose path has entered the handler with a record. -/
def Group.trapped (g : Group) (stamp now : Nat) (r : TrapRec) (vec : Word) : Group := ((g.parkEnd stamp now).record r).enterHandler r.path vec

/-- A group whose trap ends its task: the record stands, and no wait or deferred fault is left. -/
def Group.faulted (g : Group) (r : TrapRec) : Group := { g.record r with wait := .none, deferred := [] }

/-- From g to g' a path has entered handler mode at a vector with a record: the record stands in the FAULTREC registers, the path's lanes at the vector, and the registers that nothing left undefined stand. -/
structure Group.InHandler (g g' : Group) (r : TrapRec) (vec : Word) : Prop where
  handler : g'.handler = some r.path
  wait : g'.wait = .none
  deferred : g'.deferred = []
  fr0 : g'.fr0 = r.word0
  fr1 : g'.fr1 = r.word1
  fr2 : g'.fr2 = r.word2
  fr3 : g'.fr3 = r.word3
  onPath : ∀ l, l < g.lanes.length → r.path.getLsbD l = true → (g'.lane l).pc = vec ∧ (g'.lane l).st = (g.lane l).st
  offPath : ∀ l, r.path.getLsbD l = false → g'.lane l = g.lane l
  v : g.clobV = [] → g'.v = g.v
  g : g.clobG = [] → g'.g = g.g

section
variable (g : Group) (stamp now : Nat) (r : TrapRec) (vec : Word)

theorem Group.trapped_v : (g.trapped stamp now r vec).v = undefineV stamp g.clobV g.v := by
  rw [← g.parkEnd_v stamp now]
  simp only [Group.trapped, Group.enterHandler, Group.mapLanes, Group.record]

theorem Group.trapped_g : (g.trapped stamp now r vec).g = undefineG stamp g.clobG g.g := by
  rw [← g.parkEnd_g stamp now]
  simp only [Group.trapped, Group.enterHandler, Group.mapLanes, Group.record]

theorem Group.trapped_lane (l : Nat) : (g.trapped stamp now r vec).lane l = (g.mapLanes r.path (fun _ x => { x with pc := vec, wait := .none, marked := false })).lane l := by
  simp only [Group.lane, Group.trapped, Group.enterHandler, Group.mapLanes, Group.record, Group.parkEnd_lanes]

theorem Group.trapped_inHandler : g.InHandler (g.trapped stamp now r vec) r vec where
  handler := by simp only [Group.trapped, Group.enterHandler]
  wait := by simp only [Group.trapped, Group.enterHandler]
  deferred := by simp only [Group.trapped, Group.enterHandler]
  fr0 := by simp only [Group.trapped, Group.enterHandler, Group.mapLanes, Group.record]
  fr1 := by simp only [Group.trapped, Group.enterHandler, Group.mapLanes, Group.record]
  fr2 := by simp only [Group.trapped, Group.enterHandler, Group.mapLanes, Group.record]
  fr3 := by simp only [Group.trapped, Group.enterHandler, Group.mapLanes, Group.record]
  onPath l hl hp := by
    rw [Group.trapped_lane, lane_map _ _ _ _ hl, if_pos hp]
    exact ⟨rfl, rfl⟩
  offPath l hp := by rw [Group.trapped_lane, lane_map_off _ _ _ _ hp]
  v hc := by rw [Group.trapped_v, hc, undefineV, List.foldl_nil]
  g hc := by rw [Group.trapped_g, hc, undefineG, List.foldl_nil]

end

/-! ### Taking a trap -/

/-- The four words of a record. -/
def TrapRec.words (r : TrapRec) : List Word := [r.word0, r.word1, r.word2, r.word3]

/-- The note of a watchdog trap changes no more than a task. -/
theorem State.noteWatch_rest (s : State) (k : GKey) (c : FaultCode) : s.noteWatch k c = { s with tasks := (s.noteWatch k c).tasks } := by
  unfold State.noteWatch
  split <;> rfl

/-- It is no task's state that it changes. -/
theorem State.noteWatch_task {s : State} {k : GKey} {c : FaultCode} {i : Nat} {x : Task} (hx : look s.tasks i = some x) :
    ∃ n, look (s.noteWatch k c).tasks i = some { x with lastProgress := n } := by
  unfold State.noteWatch
  split
  · by_cases hi : i = s.groupTask k
    · exact ⟨s.ptime, hi ▸ upd_some _ (hi ▸ hx)⟩
    · exact ⟨x.lastProgress, (look_upd_ne _ _ hi).trans hx⟩
  · exact ⟨x.lastProgress, hx⟩

theorem State.setGroup_noteWatch_setGroup (s : State) (k : GKey) (a b : Group) (c : FaultCode) :
    ((s.setGroup k a).noteWatch k c).setGroup k b = (s.noteWatch k c).setGroup k b := by
  unfold State.noteWatch
  split
  · simp only [State.setGroup, State.onTask, put_put]
    rfl
  · simp only [State.setGroup, put_put]

theorem State.look_setGroup (s : State) (k : GKey) (g : Group) : look (s.setGroup k g).groups k = some g := look_put _ _ _

section
variable {s : State} {k : GKey} {g : Group} {b : Block} {r : TrapRec}

theorem State.enterTrap_handler (hg : look s.groups k = some g) (hb : look s.blocks k.blk = some b) (hr : g.region = none) (hh : g.handler = none)
    {vec : Word} (hv : b.trapv = some vec) : s.enterTrap k r = s.setGroup k ((g.record r).enterHandler r.path vec) := by
  simp [State.enterTrap, State.trapRegion, hg, hb, hr, hh, hv]

/-- A second trap inside the handler, or one with no vector, ends the task. -/
theorem State.enterTrap_ends (hg : look s.groups k = some g) (hb : look s.blocks k.blk = some b) (hr : g.region = none) (hh : g.handler ≠ none ∨ b.trapv = none) :
    s.enterTrap k r = (s.setGroup k (g.faulted r)).endTask b.task none (some (b.bid, k.gid, r.words)) := by
  have hends : g.handler.isSome = true ∨ b.trapv = none := hh.imp_left Option.isSome_iff_ne_none.2
  simp [State.enterTrap, State.trapRegion, hg, hb, hr, hends, Group.faulted, TrapRec.words]

/-- A park that completes with a deferred fault takes its trap. -/
theorem State.unpark_park {lanes : Mask} {resume : Word} (hg : look s.groups k = some g) (hw : g.wait = .park lanes resume) (ho : g.outs = 0) (hr : g.region = none)
    (hd : deferredRec g.deferred lanes resume = some r) : s.unpark k = (s.setGroup k (g.parkEnd s.freeCtr s.clock)).enterTrap k r := by
  simp only [State.unpark, hg, hw, ho, hr, hd, Group.parkEnd, if_true, Option.isSome_none, Bool.false_and, Bool.false_eq_true, if_false]

/-- A trap whose drain is over is taken, or the oldest fault that the drain has found in its place. -/
theorem State.unpark_trap (hg : look s.groups k = some g) (hw : g.wait = .trap r) (ho : g.outs = 0) (hr : g.region = none) :
    s.unpark k = ((s.setGroup k (g.parkEnd s.freeCtr s.clock)).noteWatch k r.code).enterTrap k ((deferredRec g.deferred r.path r.pc).getD r) := by
  cases hd : deferredRec g.deferred r.path r.pc <;>
    simp only [State.unpark, hg, hw, ho, hr, hd, Group.parkEnd, if_true, Option.isSome_none, Bool.false_and, Bool.false_eq_true, if_false, Option.getD_none, Option.getD_some]

/-- Until OUTS is zero a group waits on. -/
theorem State.unpark_waits (hg : look s.groups k = some g) (ho : g.outs ≠ 0) : s.unpark k = s := by
  simp [State.unpark, hg, ho]

section
variable {vec : Word} (hg : look s.groups k = some g) (hb : look s.blocks k.blk = some b) (ho : g.outs = 0) (hr : g.region = none)
include hg hb ho hr

theorem State.unpark_park_handler {lanes : Mask} {resume : Word} (hh : g.handler = none) (hv : b.trapv = some vec) (hw : g.wait = .park lanes resume)
    (hd : deferredRec g.deferred lanes resume = some r) : s.unpark k = s.setGroup k (g.trapped s.freeCtr s.clock r vec) := by
  rw [State.unpark_park hg hw ho hr hd, State.enterTrap_handler (s := s.setGroup k (g.parkEnd s.freeCtr s.clock)) (look_put _ _ _) hb ((g.parkEnd_region _ _).trans hr) ((g.parkEnd_handler _ _).trans hh) hv]
  simp [State.setGroup, put_put, Group.trapped]

theorem State.unpark_trap_handler (hh : g.handler = none) (hv : b.trapv = some vec) (hw : g.wait = .trap r) :
    s.unpark k = (s.noteWatch k r.code).setGroup k (g.trapped s.freeCtr s.clock ((deferredRec g.deferred r.path r.pc).getD r) vec) := by
  have hg' : look ((s.setGroup k (g.parkEnd s.freeCtr s.clock)).noteWatch k r.code).groups k = some (g.parkEnd s.freeCtr s.clock) := by
    rw [State.noteWatch_rest]
    exact look_put _ _ _
  have hb' : look ((s.setGroup k (g.parkEnd s.freeCtr s.clock)).noteWatch k r.code).blocks k.blk = some b := by
    rw [State.noteWatch_rest]
    exact hb
  rw [State.unpark_trap hg hw ho hr, State.enterTrap_handler hg' hb' ((g.parkEnd_region _ _).trans hr) ((g.parkEnd_handler _ _).trans hh) hv, State.setGroup_noteWatch_setGroup, Group.trapped]

theorem State.unpark_trap_ends (hh : g.handler ≠ none ∨ b.trapv = none) (hw : g.wait = .trap r) (hd : g.deferred = []) :
    s.unpark k = ((s.noteWatch k r.code).setGroup k ((g.parkEnd s.freeCtr s.clock).faulted r)).endTask b.task none
      (some (b.bid, k.gid, r.words)) := by
  have hg' : look ((s.setGroup k (g.parkEnd s.freeCtr s.clock)).noteWatch k r.code).groups k = some (g.parkEnd s.freeCtr s.clock) := by
    rw [State.noteWatch_rest]
    exact look_put _ _ _
  have hb' : look ((s.setGroup k (g.parkEnd s.freeCtr s.clock)).noteWatch k r.code).blocks k.blk = some b := by
    rw [State.noteWatch_rest]
    exact hb
  have hrec : deferredRec g.deferred r.path r.pc = none := by rw [hd]; rfl
  rw [State.unpark_trap hg hw ho hr, hrec, Option.getD_none, State.enterTrap_ends hg' hb' ((g.parkEnd_region _ _).trans hr) (hh.imp_left (fun h => (g.parkEnd_handler _ _).symm ▸ h)),
    State.setGroup_noteWatch_setGroup]

end

end

/-- PARK_COMPLETE of a group. -/
theorem exec_parkComplete_group {s : State} {k : GKey} (ha : s.arg = .agent (.grp k)) : exec .parkComplete s = .next (s.unpark k) := by
  change execParkComplete s = _
  rw [execParkComplete, ha]

/-! ### The instruction that traps -/

/-- The record of a fault that a path's instruction raises. -/
def Exc.trapRec (e : Exc) (lanes : Mask) (pc : Word) : TrapRec :=
  { code := e.code, detail := e.detail, pc := pc, lanes := e.lanes.getD lanes, resume := e.resume.getD pc, deferred := false, seq := false
    path := if e.code = .land ∨ e.code = .fetch then e.lanes.getD lanes else lanes }

theorem Exc.trapRec_word1 (e : Exc) (lanes : Mask) (pc : Word) : (e.trapRec lanes pc).word1 = pc &&& 0xFFFFFFFC := by
  simp [TrapRec.word1, Exc.trapRec]

/-- A group that waits to take a trap. -/
def Group.drainsFor (g : Group) (r : TrapRec) : Group := { g with wait := .trap r }

section
variable {s : State} {k : GKey} {lanes : Mask} {pc : Word} {g : Group} (hp : s.pathIs k lanes pc g) (hview : g.view = none) (e : Exc)
include hp hview

/-- Where no pair is under way a path's trap is taken once its group has drained. -/
theorem State.raise_path : s.raise e = (s.setGroup k (g.drainsFor (e.trapRec lanes pc))).unpark k := by
  simp only [State.raise, hp.1, hp.2]
  rw [if_pos hview, Group.drainsFor, Exc.trapRec]

variable {b : Block} (hb : look s.blocks k.blk = some b) (hr : g.region = none) (ho : g.outs = 0)
include hb hr ho

theorem State.raise_handler (hh : g.handler = none) {vec : Word} (hv : b.trapv = some vec) :
    s.raise e = ((s.setGroup k (g.drainsFor (e.trapRec lanes pc))).noteWatch k e.code).setGroup k
      ((g.drainsFor (e.trapRec lanes pc)).trapped s.freeCtr s.clock ((deferredRec g.deferred (e.trapRec lanes pc).path pc).getD (e.trapRec lanes pc)) vec) := by
  rw [State.raise_path hp hview, State.unpark_trap_handler (s.look_setGroup k (g.drainsFor (e.trapRec lanes pc))) hb ho hr hh hv rfl]
  rfl

theorem State.raise_ends (hh : g.handler ≠ none ∨ b.trapv = none) (hd : g.deferred = []) :
    s.raise e = (((s.setGroup k (g.drainsFor (e.trapRec lanes pc))).noteWatch k e.code).setGroup k
      (((g.drainsFor (e.trapRec lanes pc)).parkEnd s.freeCtr s.clock).faulted (e.trapRec lanes pc))).endTask b.task none
        (some (b.bid, k.gid, (e.trapRec lanes pc).words)) := by
  rw [State.raise_path hp hview, State.unpark_trap_ends (s.look_setGroup k (g.drainsFor (e.trapRec lanes pc))) hb ho hr hh rfl hd]
  rfl

end

end Sys2Proof.Machine


open Sys2Proof Sys2Proof.Machine in
/-- Settles O17: a drain that is over puts the group in `Group.trapped` with the record that `deferredRec` picks, or ends the task; until OUTS is zero the trap is the group's wait. -/
theorem trapEntry : Obligations.TrapEntry := by
  unfold Obligations.TrapEntry
  intro delivers
  refine ⟨?park, ?raise⟩
  case park =>
    intro s k g b lanes resume vec ha hg hb hw ho hr hh hv
    refine ⟨s.unpark k, exec_parkComplete_group ha, fun d hd hmin => ?_⟩
    rw [State.unpark_park_handler hg hb ho hr hh hv hw (deferredRec_of_oldest hd hmin lanes resume)]
    have hin := g.trapped_inHandler s.freeCtr s.clock (d.trapRec (g.deferred.length - 1) lanes resume) vec
    exact ⟨_, look_put _ _ _, hin.handler, hin.wait, hin.deferred, rfl, hin.fr0.trans (Deferred.trapRec_word0 ..), hin.fr1.trans (Deferred.trapRec_word1 ..), hin.fr2, hin.fr3, hin.onPath⟩
  case raise =>
    intro s e k lanes pc g b hp hb path r0 hview hr
    refine ⟨fun ho hh vec hv d hd hmin => ?deferred, fun ho => ?waits, fun ho hd hh vec hv => ?enters, fun ho hd hh x hx hst => ?ends⟩
    case deferred =>
      have hin := (g.drainsFor (e.trapRec lanes pc)).trapped_inHandler s.freeCtr s.clock (d.trapRec (g.deferred.length - 1) path pc) vec
      rw [State.raise_handler hp hview e hb hr ho hh hv, deferredRec_of_oldest hd hmin, Option.getD_some]
      refine ⟨_, look_put _ _ _, hin.handler, hin.wait, hin.deferred, ?_, hin.fr0.trans (Deferred.trapRec_word0 ..), hin.fr1.trans (Deferred.trapRec_word1 ..), hin.fr2, hin.fr3, hin.onPath⟩
      rw [State.setGroup_mem, State.noteWatch_rest]
      rfl
    case waits =>
      rw [State.raise_path hp hview, State.unpark_waits (s.look_setGroup k (g.drainsFor (e.trapRec lanes pc))) ho.ne']
      exact ⟨_, _, look_put _ _ _, rfl, rfl, rfl, rfl⟩
    case enters =>
      have hin := (g.drainsFor (e.trapRec lanes pc)).trapped_inHandler s.freeCtr s.clock (e.trapRec lanes pc) vec
      have hnone : (deferredRec g.deferred (e.trapRec lanes pc).path pc).getD (e.trapRec lanes pc) = e.trapRec lanes pc := by
        rw [hd]
        rfl
      rw [State.raise_handler hp hview e hb hr ho hh hv, hnone]
      exact ⟨_, look_put _ _ _, hin.handler, hin.wait, hin.fr0, hin.fr1.trans (Exc.trapRec_word1 ..), hin.fr2, hin.fr3, hin.onPath, hin.offPath, hin.v, hin.g⟩
    case ends =>
      obtain ⟨n, hn⟩ := (s.setGroup k (g.drainsFor (e.trapRec lanes pc))).noteWatch_task (k := k) (c := e.code) hx
      rw [State.raise_ends hp hview e hb hr ho hh hd]
      have hends := State.endTask_abortsOnly (s := State.setGroup _ k (((g.drainsFor (e.trapRec lanes pc)).parkEnd s.freeCtr s.clock).faulted (e.trapRec lanes pc)))
        hn hst none (some (b.bid, k.gid, (e.trapRec lanes pc).words))
      obtain ⟨a, hgroup⟩ := hends.group k _ (look_put _ _ _)
      exact ⟨_, _, hgroup, rfl, (congrArg (fun ts => look ts b.task) hends.tasks).trans (look_put _ _ _), rfl, rfl⟩

/-! PROOFS, 07 R193 and R223: a counted command whose pointer is no 64-bit value. -/

namespace Sys2Proof.Machine.WidePointer

/-- Object 1 with the bit above a pointer's 64. OPIN reads its pointer from a pair of registers, so that no issue gives this value; the statement ranges over it. -/
def ptr : Nat := 2 ^ 64 + 2 ^ 34

/-- The group that waits for the command's result. -/
def group : Group := groupStart [] (List.replicate 4 0) [] 0 0 0

/-- OPIN of the wide pointer, not yet performed. -/
def command : Txn where
  id := 0
  who := .grp ⟨0, 0⟩
  core := 0
  pc := 0
  lanes := 1
  kind := .command 0 (.opin ptr)
  parts := [{ st := .todo, pieces := [] }]
  faults := []
  lease := 0
  seen := []

/-- Object 1 is here, unpinned; the response of the command is due. -/
def state : State := { State.reset with arg := .pair 0 0, objs := [(1, placedObject 0)], groups := [(⟨0, 0⟩, group)], txns := [command] }

/-- The object that the pointer names by its identifier field is here. -/
theorem route_here : state.route splitFuel (ptrId ptr) (ptrOff ptr) = .here 1 0 (placedObject 0) := by decide +kernel

/-- The command is sent by the pointer's bits from 34 on, all of them: no such object exists, and the status is 2. -/
theorem status_notFound : (match exec .responseReturn state with
    | .next u => (look u.groups ⟨0, 0⟩).map (fun g => g.g.getD 0 0)
    | _ => none) = some 2 := by decide +kernel

end Sys2Proof.Machine.WidePointer

open Sys2Proof Sys2Proof.Machine in
/-- Refutes O44: its clauses bind the object by `ptrId`, the 30 bits of a pointer above its offset, while a command goes where the whole number above the offset says; with a bit above the 64 of a pointer these differ, and OPIN answers NOTFOUND where the statement promises status 0. -/
theorem not_countedCommandResult : ¬ Obligations.CountedCommandResult := by
  unfold Obligations.CountedCommandResult
  intro h
  obtain ⟨-, hperforms, -⟩ := h WidePointer.state 0 0 WidePointer.command (.opin WidePointer.ptr) { st := .todo, pieces := [] } rfl rfl rfl rfl rfl
  obtain ⟨-, hopin, -⟩ := hperforms rfl (.inr List.not_mem_nil)
  obtain ⟨u, hu, -, -, -, hresults⟩ := hopin WidePointer.ptr 1 0 (placedObject 0) rfl WidePointer.route_here rfl rfl rfl (by decide)
  obtain ⟨g', hg', -, hvals⟩ := hresults ⟨0, 0⟩ WidePointer.group rfl rfl (by decide)
  have hzero : g'.g.getD 0 0 = 0 := hvals (0, 0) List.mem_cons_self
  have htwo := WidePointer.status_notFound
  rw [hu] at htwo
  simp only [hg', Option.map_some, hzero] at htwo
  exact absurd htwo (by decide)

/-! PROOFS, 02 R57, 08 R250, 14 R335 and R339: what the traps, polls and messages of some groups leave of a block, of its task and of the other groups. -/

namespace Sys2Proof.Machine

/-- What an entry reads as after an update of some entry. -/
theorem look_upd_some {κ α : Type} [DecidableEq κ] {l : List (κ × α)} {y : κ} {a : α} (h : look l y = some a) (x : κ) (f : α → α) :
    look (upd l x f) y = some (if y = x then f a else a) := by
  by_cases hy : y = x
  · subst hy
    rw [upd_some f h, if_pos rfl]
  · rw [look_upd_ne _ _ hy, h, if_neg hy]

/-! ### Steps of the fabric and of sequencers -/

/-- The tables of groups, blocks and tasks, object memory and time stand. -/
structure State.SameTables (s t : State) : Prop where
  groups : t.groups = s.groups
  blocks : t.blocks = s.blocks
  tasks : t.tasks = s.tasks
  mem : t.mem = s.mem
  clock : t.clock = s.clock
  ptimeOff : t.ptimeOff = s.ptimeOff

section
variable {s t u : State}

theorem State.SameTables.refl (s : State) : s.SameTables s := ⟨rfl, rfl, rfl, rfl, rfl, rfl⟩

theorem State.SameTables.trans (hst : s.SameTables t) (htu : t.SameTables u) : s.SameTables u :=
  ⟨htu.groups.trans hst.groups, htu.blocks.trans hst.blocks, htu.tasks.trans hst.tasks, htu.mem.trans hst.mem, htu.clock.trans hst.clock, htu.ptimeOff.trans hst.ptimeOff⟩

theorem State.SameTables.foldl {α : Type} {f : State → α → State} (hf : ∀ (t : State) (x : α), t.SameTables (f t x)) (l : List α) (s : State) : s.SameTables (l.foldl f s) := by
  induction l generalizing s with
  | nil => exact .refl s
  | cons x l ih => exact (hf s x).trans (ih (f s x))

end

section
variable (s : State)

theorem State.onSeq_sameTables (q : QKey) (f : Sequencer → Sequencer) : s.SameTables (s.onSeq q f) := ⟨rfl, rfl, rfl, rfl, rfl, rfl⟩
theorem State.onSlot_sameTables (n : Nat) (f : Slot → Slot) : s.SameTables (s.onSlot n f) := ⟨rfl, rfl, rfl, rfl, rfl, rfl⟩
theorem State.onChan_sameTables (c : Nat) (f : Channel → Channel) : s.SameTables (s.onChan c f) := ⟨rfl, rfl, rfl, rfl, rfl, rfl⟩
theorem State.forgetWaits_sameTables (w : Agent) : s.SameTables (s.forgetWaits w) := ⟨rfl, rfl, rfl, rfl, rfl, rfl⟩
theorem State.countLocal_sameTables (id : Nat) : s.SameTables (s.countLocal id) := ⟨rfl, rfl, rfl, rfl, rfl, rfl⟩

theorem State.postEvent_sameTables (e : EventRec) : s.SameTables (s.postEvent e) := by
  unfold State.postEvent
  split <;> exact ⟨rfl, rfl, rfl, rfl, rfl, rfl⟩

theorem State.openRows_sameTables (addrs : List Nat) : s.SameTables (s.openRows addrs) :=
  .foldl (fun t _ => t.onChan_sameTables _ _) _ s

theorem State.enqueue_sameTables (p : Packet) : s.SameTables (s.enqueue p) := by
  unfold State.enqueue
  split <;> exact ⟨rfl, rfl, rfl, rfl, rfl, rfl⟩

theorem State.sendFirst_sameTables (p : Packet) : s.SameTables (s.sendFirst p) := by
  unfold State.sendFirst
  split
  · exact s.enqueue_sameTables p
  · next id x _ => exact State.SameTables.trans (t := { s with stubs := put s.stubs id { x with used := s.ptime, confirming := false } }) ⟨rfl, rfl, rfl, rfl, rfl, rfl⟩ (State.enqueue_sameTables _ _)

theorem State.useLocator_sameTables (p : Packet) : s.SameTables (s.useLocator p) := by
  unfold State.useLocator
  split <;> exact ⟨rfl, rfl, rfl, rfl, rfl, rfl⟩

theorem State.request_sameTables (p : Packet) (r : Reply) : s.SameTables (s.request p r) :=
  ((s.sendFirst_sameTables p).trans (State.useLocator_sameTables _ p)).trans ⟨rfl, rfl, rfl, rfl, rfl, rfl⟩

theorem State.coreRequest_sameTables (core id : Nat) (p : Packet) (r : Reply) : s.SameTables (s.coreRequest core id p r) :=
  (s.request_sameTables _ r).trans ⟨rfl, rfl, rfl, rfl, rfl, rfl⟩

theorem State.unparkSeq_sameTables (q : QKey) : s.SameTables (s.unparkSeq q) := by
  unfold State.unparkSeq
  split
  · exact .refl s
  · split
    · split
      · dsimp only
        split <;> exact ⟨rfl, rfl, rfl, rfl, rfl, rfl⟩
      · exact .refl s
    · exact .refl s

end

/-! ### Steps of some groups -/

/-- From s to t no more has happened than to the groups named: of another group its noted abort alone may have changed, of a block its barriers, and that it is swapped out may have been taken back; every task is there, object memory and time stand. -/
structure State.Beside (named : GKey → Prop) (s t : State) : Prop where
  groups : ∀ k g, ¬ named k → look s.groups k = some g → ∃ a, look t.groups k = some { g with abort := a }
  blocks : ∀ n b, look s.blocks n = some b → ∃ bars out, look t.blocks n = some { b with bars := bars, swapped := out } ∧ (out = true → b.swapped = true)
  tasks : ∀ i x, look s.tasks i = some x → ∃ y, look t.tasks i = some y
  mem : t.mem = s.mem
  clock : t.clock = s.clock
  ptimeOff : t.ptimeOff = s.ptimeOff

section
variable {s t u : State} {named : GKey → Prop}

theorem State.SameTables.beside (h : s.SameTables t) : s.Beside named t where
  groups _ g _ hg := ⟨g.abort, by rw [h.groups]; exact hg⟩
  blocks _ b hb := ⟨b.bars, b.swapped, by rw [h.blocks]; exact hb, id⟩
  tasks _ x hx := ⟨x, by rw [h.tasks]; exact hx⟩
  mem := h.mem
  clock := h.clock
  ptimeOff := h.ptimeOff

theorem State.Beside.refl (s : State) : s.Beside named s := (State.SameTables.refl s).beside

theorem State.Beside.trans (hst : s.Beside named t) (htu : t.Beside named u) : s.Beside named u where
  groups k g hk hg := by
    obtain ⟨a, ha⟩ := hst.groups k g hk hg
    obtain ⟨a', ha'⟩ := htu.groups k _ hk ha
    exact ⟨a', ha'⟩
  blocks n b hb := by
    obtain ⟨bars, out, ht, hout⟩ := hst.blocks n b hb
    obtain ⟨bars', out', hu, hout'⟩ := htu.blocks n _ ht
    exact ⟨bars', out', hu, fun h => hout (hout' h)⟩
  tasks i x hx := by
    obtain ⟨y, hy⟩ := hst.tasks i x hx
    exact htu.tasks i y hy
  mem := htu.mem.trans hst.mem
  clock := htu.clock.trans hst.clock
  ptimeOff := htu.ptimeOff.trans hst.ptimeOff

theorem State.Beside.foldl {α : Type} {f : State → α → State} {l : List α} (hf : ∀ (t : State), ∀ x ∈ l, t.Beside named (f t x)) (s : State) : s.Beside named (l.foldl f s) := by
  induction l generalizing s with
  | nil => exact .refl s
  | cons x l ih => exact (hf s x List.mem_cons_self).trans (ih (fun t y hy => hf t y (List.mem_cons_of_mem _ hy)) (f s x))

theorem State.Beside.ptime (h : s.Beside named t) : t.ptime = s.ptime := by rw [State.ptime, State.ptime, h.clock, h.ptimeOff]

theorem State.AbortsOnly.beside (h : s.AbortsOnly t) : s.Beside named t where
  groups k g _ hg := h.group k g hg
  blocks n b hb := ⟨b.bars, b.swapped, by rw [h.blocks]; exact hb, id⟩
  tasks i x hx := ⟨x, by rw [h.tasks]; exact hx⟩
  mem := h.mem
  clock := by rw [h.rest]
  ptimeOff := by rw [h.rest]

end

section
variable (s : State) {named : GKey → Prop}

theorem State.onTask_beside (i : Nat) (f : Task → Task) : s.Beside named (s.onTask i f) where
  groups _ g _ hg := ⟨g.abort, hg⟩
  blocks _ b hb := ⟨b.bars, b.swapped, hb, id⟩
  tasks _ _ hx := ⟨_, look_upd_some hx i f⟩
  mem := rfl
  clock := rfl
  ptimeOff := rfl

/-- That a block is swapped out is taken back. -/
theorem State.onBlock_back_beside (n : Nat) : s.Beside named (s.onBlock n (fun b => { b with swapped := false })) where
  groups k g _ hg := ⟨g.abort, hg⟩
  blocks m b hb := by
    by_cases hm : m = n
    · subst hm
      exact ⟨b.bars, false, upd_some _ hb, nofun⟩
    · exact ⟨b.bars, b.swapped, (look_upd_ne _ _ hm).trans hb, id⟩
  tasks i x hx := ⟨x, hx⟩
  mem := rfl
  clock := rfl
  ptimeOff := rfl

theorem State.onBlock_bars_beside (n : Nat) (f : Block → List Barrier) : s.Beside named (s.onBlock n (fun b => { b with bars := f b })) where
  groups k g _ hg := ⟨g.abort, hg⟩
  blocks m b hb := by
    by_cases hm : m = n
    · subst hm
      exact ⟨f b, b.swapped, upd_some _ hb, id⟩
    · exact ⟨b.bars, b.swapped, (look_upd_ne _ _ hm).trans hb, id⟩
  tasks i x hx := ⟨x, hx⟩
  mem := rfl
  clock := rfl
  ptimeOff := rfl

theorem State.noteWatch_beside (k : GKey) (c : FaultCode) : s.Beside named (s.noteWatch k c) := by
  unfold State.noteWatch
  split
  · exact s.onTask_beside _ _
  · exact .refl s

/-- A task that ends is still in its table. -/
theorem State.endTask_beside (i : Nat) (killer : Option (Nat × Nat × Nat)) (fault : Option (Nat × Nat × List Word)) : s.Beside named (s.endTask i killer fault) := by
  cases hx : look s.tasks i with
  | none =>
    simp only [State.endTask, hx]
    exact .refl s
  | some x =>
    by_cases hst : x.st = .ending
    · simp only [State.endTask, hx, hst, beq_self_eq_true, if_true]
      exact .refl s
    · refine State.Beside.trans (t := { s with tasks := put s.tasks i { x with st := .ending, killer := killer, fault := fault } }) ?_ (State.endTask_abortsOnly hx hst killer fault).beside
      refine ⟨fun k g _ hg => ⟨g.abort, hg⟩, fun n b hb => ⟨b.bars, b.swapped, hb, id⟩, fun j y hy => ?_, rfl, rfl, rfl⟩
      by_cases hj : j = i
      · subst hj
        exact ⟨_, look_put _ _ _⟩
      · exact ⟨y, (look_put_ne _ _ hj).trans hy⟩

variable {k : GKey} (hk : named k)
include hk

theorem State.Beside.of_put {s t : State} {g : Group} (hg : t.groups = put s.groups k g) (hb : t.blocks = s.blocks) (ht : t.tasks = s.tasks) (hm : t.mem = s.mem)
    (hc : t.clock = s.clock) (ho : t.ptimeOff = s.ptimeOff) : s.Beside named t where
  groups j x hj hx := ⟨x.abort, by rw [hg, look_put_ne _ _ (show j ≠ k from fun h => hj (h ▸ hk))]; exact hx⟩
  blocks n b h := ⟨b.bars, b.swapped, by rw [hb]; exact h, id⟩
  tasks i x hx := ⟨x, by rw [ht]; exact hx⟩
  mem := hm
  clock := hc
  ptimeOff := ho

theorem State.setGroup_beside (g : Group) : s.Beside named (s.setGroup k g) := .of_put hk rfl rfl rfl rfl rfl rfl

theorem State.onGroup_beside (f : Group → Group) : s.Beside named (s.onGroup k f) where
  groups j x hj hx := ⟨x.abort, (look_upd_ne _ _ (show j ≠ k from fun h => hj (h ▸ hk))).trans hx⟩
  blocks _ b hb := ⟨b.bars, b.swapped, hb, id⟩
  tasks _ x hx := ⟨x, hx⟩
  mem := rfl
  clock := rfl
  ptimeOff := rfl

theorem State.takeAbort_beside : s.Beside named (s.takeAbort k) := by
  unfold State.takeAbort
  split
  · exact .refl s
  · split
    · split
      · exact .refl s
      · split
        · exact .of_put hk rfl rfl rfl rfl rfl rfl
        · exact .refl s
    · exact .refl s

theorem State.trapRegion_beside (r : TrapRec) : s.Beside named (s.trapRegion k r).1 := by
  unfold State.trapRegion
  split
  · exact .refl s
  · split
    · exact .refl s
    · split
      · exact .refl s
      · split
        · exact (State.abortAll_abortsOnly s _).beside.trans (State.takeAbort_beside _ hk)
        · exact .refl s

theorem State.enterTrap_beside (r : TrapRec) : s.Beside named (s.enterTrap k r) := by
  unfold State.enterTrap
  refine (s.trapRegion_beside hk r).trans ?_
  dsimp only
  split
  · split
    · exact (State.setGroup_beside _ hk _).trans (State.endTask_beside _ _ _ _)
    · exact State.setGroup_beside _ hk _
  · exact .refl _

theorem State.unpark_beside : s.Beside named (s.unpark k) := by
  unfold State.unpark
  split
  · exact .refl s
  · split
    · dsimp only
      split
      · split
        · exact (s.setGroup_beside hk _).trans (State.takeAbort_beside _ hk)
        · split
          · exact s.setGroup_beside hk _
          · exact (s.setGroup_beside hk _).trans (State.enterTrap_beside _ hk _)
      · split <;> exact ((s.setGroup_beside hk _).trans (State.noteWatch_beside _ _ _)).trans (State.enterTrap_beside _ hk _)
      · exact .refl s
    · exact .refl s

theorem State.trapWaiting_beside (c : FaultCode) : s.Beside named (s.trapWaiting k c) := by
  unfold State.trapWaiting
  split
  · exact .refl s
  · exact (s.onGroup_beside hk _).trans (State.unpark_beside _ hk)

theorem State.deliverKept_beside : s.Beside named (s.deliverKept k) := by
  unfold State.deliverKept
  split
  · exact .refl s
  · split
    · exact s.unpark_beside hk
    · exact s.unpark_beside hk
    · split
      · exact .refl s
      · split
        · exact s.onGroup_beside hk _
        · exact s.trapWaiting_beside hk _

/-- A group that ends leaves its slot and its block's barriers. -/
theorem State.endGroup_beside : s.Beside named (s.endGroup k) := by
  unfold State.endGroup
  exact ((s.onSlot_sameTables _ _).beside.trans (State.onGroup_beside _ hk _)).trans (State.onBlock_bars_beside _ _ _)

theorem State.checkEnd_beside : s.Beside named (s.checkEnd k) := by
  unfold State.checkEnd
  split
  · exact .refl s
  · split
    · exact s.endGroup_beside hk
    · exact .refl s

end

end Sys2Proof.Machine

/-! PROOFS, 08 R249, R250, 14 R335: what polls and the waits that a restored block takes up again leave. -/

namespace Sys2Proof.Machine

/-- Every group. -/
def anyGroup (_ : GKey) : Prop := True

section
variable (s : State) (w : Agent)

theorem State.acquire_beside (sc : Scope) : s.Beside anyGroup (s.acquire w sc) := by
  unfold State.acquire
  split
  · split
    · exact s.onGroup_beside trivial _
    · exact .refl s
  · exact .refl s

theorem State.endWaitc_beside (x : Waitc) (result : Word) : s.Beside anyGroup (s.endWaitc w x result) := by
  unfold State.endWaitc
  refine (s.forgetWaits_sameTables w).beside.trans ?_
  dsimp only
  split
  · exact (State.onGroup_beside _ trivial _).trans (State.acquire_beside _ _ _)
  · exact (State.onSeq_sameTables _ _ _).beside

theorem State.setWaitc_beside (x : Waitc) : s.Beside anyGroup (s.setWaitc w x) := by
  unfold State.setWaitc
  split
  · exact s.onGroup_beside trivial _
  · exact (s.onSeq_sameTables _ _).beside

theorem State.lookWaitc_beside (x : Waitc) : s.Beside anyGroup (s.lookWaitc w x) := by
  unfold State.lookWaitc
  split
  · exact (s.coreRequest_sameTables _ _ _ _).beside.trans (State.setWaitc_beside _ _ _)
  · exact s.setWaitc_beside w x
  · next id _ _ _ =>
    have hopen : s.Beside anyGroup ((s.countLocal id).openRows [flat x.id x.off]) := ((s.countLocal_sameTables id).trans (State.openRows_sameTables _ _)).beside
    dsimp only
    split
    · exact hopen.trans (State.endWaitc_beside _ _ _ _)
    · exact hopen.trans (State.setWaitc_beside _ _ _)

theorem State.rewait_beside : s.Beside anyGroup (s.rewait w) := by
  unfold State.rewait
  split
  · dsimp only
    split
    · split
      · exact (s.lookWaitc_beside w _).trans (State.endWaitc_beside _ _ _ _)
      · exact s.lookWaitc_beside w _
    · exact s.lookWaitc_beside w _
  · exact .refl s

theorem State.pollGroup_beside (k : GKey) : s.Beside anyGroup (s.pollGroup k) := by
  unfold State.pollGroup
  split
  · dsimp only
    split
    · exact s.onBlock_back_beside _
    · split
      · exact .refl s
      · refine State.Beside.trans ?_ (State.countLocal_sameTables _ _).beside
        split
        · exact s.onBlock_back_beside _
        · exact .refl s
      · exact (s.request_sameTables _ _).beside
  · exact .refl s

/-- A group is bound to an issue slot. -/
theorem State.bindGroup_beside (k : GKey) (core : Nat) : s.Beside anyGroup (s.bindGroup k core) where
  groups _ _ hk := absurd trivial hk
  blocks _ b hb := ⟨b.bars, b.swapped, hb, id⟩
  tasks _ x hx := ⟨x, hx⟩
  mem := rfl
  clock := rfl
  ptimeOff := rfl

/-- The groups and sequencers of a block that comes back take up their slots, faults and waits. -/
theorem State.restoreBlock_beside (blk cluster : Nat) (cores : List Nat) :
    (s.onBlock blk (fun b => { b with cluster := cluster, cores := cores, saved := false, swapped := false, stopping := false })).Beside anyGroup (s.restoreBlock blk cluster cores) := by
  unfold State.restoreBlock
  dsimp only
  refine ((State.Beside.foldl (fun t k _ => ?bind) _).trans (State.Beside.foldl (fun t k _ => ?deliver) _)).trans (State.Beside.foldl (fun t q _ => ?seqs) _)
  case bind => exact (t.onGroup_beside trivial _).trans (State.bindGroup_beside _ _ _)
  case deliver => exact (t.deliverKept_beside trivial).trans (State.rewait_beside _ _)
  case seqs => exact ((t.onSeq_sameTables _ _).trans (State.unparkSeq_sameTables _ _)).beside.trans (State.rewait_beside _ _)

end

end Sys2Proof.Machine

/-! PROOFS, 08 R244, 14 R339: the groups of a block that have not ended, and the watchdog. -/

namespace Sys2Proof.Machine

/-- Lists of at most one element each, end to end, are a sublist of those elements. -/
theorem flatten_map_sublist {α β : Type} {f : α → List β} {g : α → β} (h : ∀ a, (f a).Sublist [g a]) (l : List α) : (l.map f).flatten.Sublist (l.map g) := by
  induction l with
  | nil => exact .slnil
  | cons a l ih => exact (h a).append ih

section
variable {s : State}

theorem State.mem_aliveGroups {blk : Nat} {k : GKey} {g : Group} : (k, g) ∈ s.aliveGroups blk ↔ k.blk = blk ∧ k.gid < 64 ∧ look s.groups k = some g ∧ g.ended = false := by
  simp only [State.aliveGroups, List.mem_flatten, List.mem_map, List.mem_range, exists_exists_and_eq_and]
  constructor
  · rintro ⟨n, hn, hmem⟩
    cases hg : look s.groups ⟨blk, n⟩ with
    | none => simp [hg] at hmem
    | some x =>
      cases he : x.ended with
      | true => simp [hg, he] at hmem
      | false =>
        simp only [hg, he, Option.elim_some, Bool.false_eq_true, if_false, List.mem_singleton, Prod.mk.injEq] at hmem
        obtain ⟨rfl, rfl⟩ := hmem
        exact ⟨rfl, hn, hg, he⟩
  · rintro ⟨rfl, hn, hg, he⟩
    exact ⟨k.gid, hn, by simp [hg, he]⟩

theorem State.mem_aliveKeys {blk : Nat} {k : GKey} : k ∈ (s.aliveGroups blk).map Prod.fst ↔ k.blk = blk ∧ k.gid < 64 ∧ ∃ g, look s.groups k = some g ∧ g.ended = false := by
  simp only [List.mem_map, Prod.exists, exists_and_right, exists_eq_right, State.mem_aliveGroups]
  exact ⟨fun ⟨g, hb, hn, hg⟩ => ⟨hb, hn, g, hg⟩, fun ⟨hb, hn, g, hg⟩ => ⟨g, hb, hn, hg⟩⟩

theorem State.aliveKeys_nodup (s : State) (blk : Nat) : ((s.aliveGroups blk).map Prod.fst).Nodup := by
  rw [State.aliveGroups, List.map_flatten, List.map_map]
  refine (flatten_map_sublist (g := fun n => (⟨blk, n⟩ : GKey)) (fun n => ?_) _).nodup (List.Nodup.map (fun a b h => (GKey.mk.inj h).2) List.nodup_range)
  simp only [Function.comp_apply]
  cases look s.groups ⟨blk, n⟩ with
  | none => exact List.nil_sublist _
  | some x => cases hx : x.ended <;> simp [hx]

end

/-- The end of a move touches the groups that move. -/
theorem State.endMove_beside {s : State} {named : GKey → Prop} (h : ∀ k g, look s.groups k = some g → g.wait = .moving → named k) (blk : Nat) : s.Beside named (s.endMove blk) := by
  unfold State.endMove
  refine .foldl (fun t k hk => ?_) s
  obtain ⟨⟨j, g⟩, hmem, rfl⟩ := List.mem_map.1 hk
  obtain ⟨halive, hmoves⟩ := List.mem_filter.1 hmem
  obtain ⟨-, -, hg, -⟩ := State.mem_aliveGroups.1 halive
  have hn : named j := h j g hg (eq_of_beq hmoves)
  exact (t.onGroup_beside hn _).trans (State.checkEnd_beside _ hn)

/-! ### The watchdog -/

/-- The moves of blocks end, and their images are restorable. -/
def State.endMoves (s : State) (blks : List Nat) : State := blks.foldl (fun u b => (u.endMove b).onBlock b (fun x => { x with swapped := false })) s

theorem State.endMoves_anyGroup (s : State) (blks : List Nat) : s.Beside anyGroup (s.endMoves blks) :=
  .foldl (fun t _ _ => (t.endMove_beside (fun _ _ _ _ => trivial) _).trans (State.onBlock_back_beside _ _)) s

/-- A group that does not move is not touched. -/
theorem State.endMoves_beside {s : State} {k : GKey} {g : Group} (hg : look s.groups k = some g) (hw : g.wait ≠ .moving) (blks : List Nat) : s.Beside (· ≠ k) (s.endMoves blks) := by
  induction blks generalizing s g with
  | nil => exact .refl s
  | cons b blks ih =>
    have hstep : s.Beside (· ≠ k) ((s.endMove b).onBlock b (fun x => { x with swapped := false })) := by
      refine (State.endMove_beside (fun j x hx hm hj => ?_) b).trans (State.onBlock_back_beside _ _)
      subst hj
      exact hw (Option.some.inj (hg.symm.trans hx) ▸ hm)
    obtain ⟨a, ha⟩ := hstep.groups k g (not_not_intro rfl) hg
    exact hstep.trans (ih ha hw)

/-- The blocks of a task. -/
def State.taskBlocks (s : State) (i : Nat) : List Nat := (s.blocks.filter (fun e => e.2.task == i)).map Prod.fst

/-- The groups of a task that have not ended. -/
def State.taskGroups (s : State) (i : Nat) : List GKey := ((s.taskBlocks i).map (fun b => (s.aliveGroups b).map Prod.fst)).flatten

theorem State.mem_taskGroups {s : State} {i : Nat} {k : GKey} {g : Group} {b : Block} (hb : look s.blocks k.blk = some b) (hi : b.task = i) (hg : look s.groups k = some g) (hn : k.gid < 64) (he : g.ended = false) :
    k ∈ s.taskGroups i :=
  List.mem_flatten.2 ⟨_, List.mem_map.2 ⟨k.blk, List.mem_map.2 ⟨(k.blk, b), List.mem_filter.2 ⟨look_mem hb, by simpa using hi⟩, rfl⟩, rfl⟩, State.mem_aliveKeys.2 ⟨rfl, hn, g, hg, he⟩⟩

theorem State.taskGroups_nodup {s : State} (h : (s.blocks.map Prod.fst).Nodup) (i : Nat) : (s.taskGroups i).Nodup := by
  refine List.nodup_flatten.2 ⟨fun l hl => ?_, ?_⟩
  · obtain ⟨b, -, rfl⟩ := List.mem_map.1 hl
    exact s.aliveKeys_nodup b
  · refine List.pairwise_map.2 (List.Pairwise.imp ?_ (h.sublist (List.filter_sublist.map Prod.fst)))
    intro a b hab k ha hb
    exact hab ((State.mem_aliveKeys.1 ha).1.symm.trans (State.mem_aliveKeys.1 hb).1)

/-- Groups trap where they wait. -/
def State.trapAll (s : State) (ks : List GKey) (c : FaultCode) : State := ks.foldl (fun u k => u.trapWaiting k c) s

theorem State.trapAll_beside (s : State) {named : GKey → Prop} {ks : List GKey} (h : ∀ k ∈ ks, named k) (c : FaultCode) : s.Beside named (s.trapAll ks c) :=
  .foldl (fun t k hk => t.trapWaiting_beside (h k hk) c) s

/-- The record of a group that traps where it waits. -/
def Group.waitRec (g : Group) (c : FaultCode) : TrapRec :=
  { code := c, detail := 0, pc := g.waitsAt.2, lanes := g.waitsAt.1, resume := g.waitsAt.2, deferred := false, seq := false, path := g.waitsAt.1 }

theorem TrapRec.word0_watchdog {r : TrapRec} (hc : r.code = .watchdog) (hd : r.detail = 0) : r.word0 = 0x1A000000 := by
  rw [TrapRec.word0, hc, hd]
  rfl

theorem Group.waitRec_word1 (g : Group) (c : FaultCode) : (g.waitRec c).word1 = g.waitsAt.2 &&& 0xFFFFFFFC := by simp [TrapRec.word1, Group.waitRec]

/-- A wait, a barrier that is kept for the lanes and the note of an abort are no part of it. -/
theorem Group.InHandler.of_noted {g g' : Group} {w : Wait} {held : Option (PathWait × Bool)} {r : TrapRec} {vec : Word} (h : ({ g with wait := w, heldBar := held } : Group).InHandler g' r vec) : g.InHandler g' r vec :=
  ⟨h.handler, h.wait, h.deferred, h.fr0, h.fr1, h.fr2, h.fr3, h.onPath, h.offPath, h.v, h.g⟩

theorem Group.InHandler.of_abort {g g' : Group} {a a' : Option Nat} {r : TrapRec} {vec : Word} (h : ({ g with abort := a } : Group).InHandler g' r vec) : g.InHandler { g' with abort := a' } r vec :=
  ⟨h.handler, h.wait, h.deferred, h.fr0, h.fr1, h.fr2, h.fr3, h.onPath, h.offPath, h.v, h.g⟩

section
variable {s : State} {k : GKey} {g : Group} {b : Block} {vec : Word}
  (hg : look s.groups k = some g) (hb : look s.blocks k.blk = some b) (ho : g.outs = 0) (hr : g.region = none) (hh : g.handler = none) (hv : b.trapv = some vec) (hd : g.deferred = [])
include hg hb ho hr hh hv hd

theorem State.trapWaiting_handler (c : FaultCode) : ∃ g', look (s.trapWaiting k c).groups k = some g' ∧ g.InHandler g' (g.waitRec c) vec := by
  have hset : s.trapWaiting k c = (s.onGroup k (fun x => { x with wait := .trap (g.waitRec c), heldBar := barWaitOf (g.lane (lowLane g.waitsAt.1)) })).unpark k := by
    simp only [State.trapWaiting, hg]
    rfl
  rw [hset, State.unpark_trap_handler (s := s.onGroup k _) (upd_some _ hg) hb ho hr hh hv rfl]
  refine ⟨_, look_put _ _ _, Group.InHandler.of_noted (w := .trap (g.waitRec c)) (held := barWaitOf (g.lane (lowLane g.waitsAt.1))) ?_⟩
  simp only [hd, deferredRec, oldest, minBy]
  exact Group.trapped_inHandler _ _ _ _ _

/-- Of different groups that trap each ends in the handler. -/
theorem State.trapAll_handler {ks : List GKey} (hk : k ∈ ks) (hnd : ks.Nodup) (c : FaultCode) : ∃ g', look (s.trapAll ks c).groups k = some g' ∧ g.InHandler g' (g.waitRec c) vec := by
  obtain ⟨before, after, rfl⟩ := List.append_of_mem hk
  rw [State.trapAll, List.foldl_append, List.foldl_cons]
  obtain ⟨-, hafter, hdis⟩ := List.nodup_append.1 hnd
  have hne : ∀ j ∈ before, j ≠ k := fun j hj => hdis j hj k List.mem_cons_self
  have hne' : ∀ j ∈ after, j ≠ k := fun j hj h => (List.nodup_cons.1 hafter).1 (h ▸ hj)
  have hbefore := s.trapAll_beside hne c
  obtain ⟨a, ha⟩ := hbefore.groups k g (not_not_intro rfl) hg
  obtain ⟨bars, out, hb', -⟩ := hbefore.blocks k.blk b hb
  obtain ⟨g', hg', hin⟩ := State.trapWaiting_handler ha hb' ho hr hh hv hd c
  obtain ⟨a', ha'⟩ := (State.trapAll_beside (State.trapWaiting (s.trapAll before c) k c) hne' c).groups k g' (not_not_intro rfl) hg'
  exact ⟨_, ha', hin.of_abort⟩

end

/-- What a watchdog leaves. -/
def State.watchTraps (s : State) (i : Nat) : State :=
  (((s.endMoves (s.taskBlocks i)).trapAll (s.taskGroups i) .watchdog).onTask i (fun x => { x with lastProgress := s.ptime })).postEvent
    (eventOf s.chipId 4 i 0 0 0 [BitVec.ofNat 32 (s.taskGroups i).length, 0, 0, 0])

section
variable {s : State} {i : Nat} {x : Task} (hx : look s.tasks i = some x)
include hx

theorem exec_watchdog_due (ha : s.arg = .num i) (hdue : s.watchDue i x = true) : exec .watchdog s = .next (s.watchTraps i) := by
  change execWatchdog s = _
  simp only [execWatchdog, ha, hx, hdue, if_true]
  rfl

theorem exec_watchdog_early (ha : s.arg = .num i) (hdue : s.watchDue i x = false) : exec .watchdog s = .next s := by
  change execWatchdog s = _
  simp only [execWatchdog, ha, hx, hdue, Bool.false_eq_true, if_false]

theorem State.watchTraps_task : ∃ y, look (s.watchTraps i).tasks i = some y ∧ y.lastProgress = s.ptime ∧ (s.watchTraps i).mem = s.mem := by
  have hbeside := (s.endMoves_anyGroup (s.taskBlocks i)).trans (State.trapAll_beside _ (ks := s.taskGroups i) (fun _ _ => trivial) .watchdog)
  obtain ⟨y, hy⟩ := hbeside.tasks i x hx
  exact ⟨_, (congrArg (fun ts => look ts i) (State.postEvent_sameTables _ _).tasks).trans (upd_some _ hy), rfl, (State.postEvent_sameTables _ _).mem.trans hbeside.mem⟩

end

/-- A group that waits for nothing traps at its lowest live path. -/
theorem State.watchTraps_group {s : State} {k : GKey} {g : Group} {b : Block} {vec : Word} (hnd : (s.blocks.map Prod.fst).Nodup) (hg : look s.groups k = some g)
    (hb : look s.blocks k.blk = some b) (hv : b.trapv = some vec) (hn : k.gid < 64) (he : g.ended = false) (hw : g.wait = .none) (ho : g.outs = 0) (hd : g.deferred = [])
    (hh : g.handler = none) (hr : g.region = none) : ∃ g', look (s.watchTraps b.task).groups k = some g' ∧ g.InHandler g' (g.waitRec .watchdog) vec := by
  have hmoves := s.endMoves_beside hg (by simp [hw]) (s.taskBlocks b.task)
  obtain ⟨a, hg'⟩ := hmoves.groups k g (not_not_intro rfl) hg
  obtain ⟨bars, out, hb', -⟩ := hmoves.blocks k.blk b hb
  obtain ⟨g', htrap, hin⟩ := State.trapAll_handler hg' hb' ho hr hh hv hd (State.mem_taskGroups hb rfl hg hn he) (State.taskGroups_nodup hnd b.task) .watchdog
  exact ⟨g', (congrArg (fun gs => look gs k) (State.postEvent_sameTables _ _).groups).trans htrap, hin.of_abort (a' := g'.abort)⟩

end Sys2Proof.Machine

/-! PROOFS, 08 R229, R233, 14 R322, R330: the blocks that are placed. -/

namespace Sys2Proof.Machine

/-! ### Tables -/

/-- What an entry reads as in a table whose entries have all been changed. -/
theorem look_map {κ α β : Type} [DecidableEq κ] (l : List (κ × α)) (f : α → β) (k : κ) : look (l.map (fun e => (e.1, f e.2))) k = (look l k).map f := by
  induction l with
  | nil => rfl
  | cons e l ih =>
    obtain ⟨j, a⟩ := e
    by_cases hj : j = k <;> simp [look, hj, ih]

/-- An entry under a fresh key is added. -/
theorem length_put_fresh {κ α : Type} [DecidableEq κ] {l : List (κ × α)} {x : κ} (h : ∀ e ∈ l, e.1 ≠ x) (a : α) : (put l x a).length = l.length + 1 := by
  induction l with
  | nil => rfl
  | cons e l ih =>
    obtain ⟨k, b⟩ := e
    simp [put, h (k, b) List.mem_cons_self, ih (fun e he => h e (List.mem_cons_of_mem _ he))]

theorem mem_put {κ α : Type} [DecidableEq κ] {l : List (κ × α)} {x : κ} {a : α} {e : κ × α} (h : e ∈ put l x a) : e ∈ l ∨ e = (x, a) := by
  induction l with
  | nil => exact .inr (List.mem_singleton.1 h)
  | cons y l ih =>
    obtain ⟨k, b⟩ := y
    by_cases hk : k = x
    · subst hk
      rcases List.mem_cons.1 (by simpa [put] using h) with rfl | hl
      · exact .inr rfl
      · exact .inl (List.mem_cons_of_mem _ hl)
    · rcases List.mem_cons.1 (by simpa [put, hk] using h) with rfl | hl
      · exact .inl List.mem_cons_self
      · exact (ih hl).imp_left (List.mem_cons_of_mem _)

/-! ### Groups that start -/

/-- A group as GROUP_START leaves it: every lane at the entry, in v0 the thread's index. -/
def Group.Starts (g : Group) (entry : Word) (n : Nat) : Prop :=
  ∀ l, l < 32 → (g.lane l).st = .live ∧ (g.lane l).pc = entry ∧ (g.v.getD 0 VReg.zero).lanes.getD l 0 = BitVec.ofNat 32 (32 * n + l)

section
variable (s : State) (blk : Nat) (b : Block) (n : Nat)

theorem State.look_startGroup : ∃ g, look (s.startGroup blk b n).groups ⟨blk, n⟩ = some g ∧ g.Starts b.entry n := by
  refine ⟨_, upd_some _ (look_put _ _ _), fun l hl => ?_⟩
  have hlane : (List.replicate 32 (laneStart b.entry [])).getD l Lane.gone = laneStart b.entry [] := by
    rw [List.getD_eq_getElem?_getD, List.getElem?_replicate_of_lt hl]
    rfl
  have hthread : ((List.range 32).map (fun j => BitVec.ofNat 32 (32 * n + j))).getD l 0 = BitVec.ofNat 32 (32 * n + l) := by
    simp only [List.getD_eq_getElem?_getD, List.getElem?_map, List.getElem?_range hl, Option.map_some, Option.getD_some]
  exact ⟨congrArg Lane.st hlane, congrArg Lane.pc hlane, hthread⟩

theorem State.look_startGroup_ne {k : GKey} (hk : k ≠ ⟨blk, n⟩) : look (s.startGroup blk b n).groups k = look s.groups k :=
  (look_upd_ne _ _ hk).trans (look_put_ne _ _ hk)

/-- The first groups of a block start. -/
def State.startGroups : State := (List.range n).foldl (fun x n => x.startGroup blk b n) s

theorem State.startGroups_succ : s.startGroups blk b (n + 1) = (s.startGroups blk b n).startGroup blk b n := by
  simp [State.startGroups, List.range_succ]

theorem State.startGroups_rest : s.startGroups blk b n = { s with slots := (s.startGroups blk b n).slots, groups := (s.startGroups blk b n).groups } := by
  induction n with
  | zero => rfl
  | succ n ih =>
    rw [State.startGroups_succ, ih]
    rfl

theorem State.look_startGroups {m : Nat} (hm : m < n) : ∃ g, look (s.startGroups blk b n).groups ⟨blk, m⟩ = some g ∧ g.Starts b.entry m := by
  induction n with
  | zero => exact absurd hm (by omega)
  | succ n ih =>
    rw [State.startGroups_succ]
    by_cases h : m = n
    · subst h
      exact State.look_startGroup _ _ _ _
    · rw [State.look_startGroup_ne _ _ _ _ (by simpa using h)]
      exact ih (by omega)

theorem State.look_startGroups_other {k : GKey} (hk : k.blk ≠ blk) : look (s.startGroups blk b n).groups k = look s.groups k := by
  induction n with
  | zero => rfl
  | succ n ih =>
    rw [State.startGroups_succ, State.look_startGroup_ne _ _ _ _ (fun h => hk (congrArg GKey.blk h)), ih]

end

/-! ### Blocks that start -/

/-- The numbers of the blocks are below the next. -/
def State.UidsFresh (s : State) : Prop := ∀ e ∈ s.blocks, e.1 < s.nextUid

/-- From s to t n blocks have been added under fresh numbers. -/
structure State.Adds (n : Nat) (s t : State) : Prop where
  tasks : t.tasks = s.tasks
  mem : t.mem = s.mem
  uid : s.nextUid ≤ t.nextUid
  fresh : t.UidsFresh
  length : t.blocks.length = s.blocks.length + n
  blocks : ∀ m, m < s.nextUid → look t.blocks m = look s.blocks m
  groups : ∀ k : GKey, k.blk < s.nextUid → look t.groups k = look s.groups k

theorem State.Adds.trans {m n : Nat} {s t u : State} (hst : s.Adds m t) (htu : t.Adds n u) : s.Adds (m + n) u where
  tasks := htu.tasks.trans hst.tasks
  mem := htu.mem.trans hst.mem
  uid := hst.uid.trans htu.uid
  fresh := htu.fresh
  length := by rw [htu.length, hst.length, Nat.add_assoc]
  blocks j hj := (htu.blocks j (hj.trans_le hst.uid)).trans (hst.blocks j hj)
  groups k hk := (htu.groups k (hk.trans_le hst.uid)).trans (hst.groups k hk)

section
variable (s : State) (i : Nat) (x : Task)

/-- The block that starts, before its groups. -/
def State.openBlock (bid cluster : Nat) (cores : List Nat) : State :=
  { s with
    nextUid := s.nextUid + 1
    blocks := put s.blocks s.nextUid (blockStart i x bid cluster cores s.clock)
    segs := s.segs ++ ((List.range cores.length).map (fun j => (⟨s.nextUid, j⟩ : SKey))).map (fun k => (k, segStart x))
    seqs := s.seqs ++ (((List.range cores.length).map (fun j => (⟨s.nextUid, j⟩ : SKey))).map (fun k => [((⟨k, .msq⟩ : QKey), seqStart), ((⟨k, .cst⟩ : QKey), seqStart)])).flatten }

variable (bid cluster : Nat) (cores : List Nat)

theorem State.startBlock_eq : s.startBlock i x bid cluster cores =
    (s.openBlock i x bid cluster cores).startGroups s.nextUid (blockStart i x bid cluster cores s.clock) x.g0 := rfl

theorem State.startBlock_block : look (s.startBlock i x bid cluster cores).blocks s.nextUid = some (blockStart i x bid cluster cores s.clock) := by
  rw [State.startBlock_eq, State.startGroups_rest]
  exact look_put _ _ _

theorem State.startBlock_nextUid : (s.startBlock i x bid cluster cores).nextUid = s.nextUid + 1 := by
  rw [State.startBlock_eq, State.startGroups_rest]
  rfl

theorem State.startBlock_group {n : Nat} (hn : n < x.g0) :
    ∃ g, look (s.startBlock i x bid cluster cores).groups ⟨s.nextUid, n⟩ = some g ∧ g.Starts (BitVec.ofNat 32 x.kernel.entry) n :=
  State.look_startGroups _ _ _ _ hn

variable {s}

theorem State.startBlock_adds (h : s.UidsFresh) : s.Adds 1 (s.startBlock i x bid cluster cores) := by
  have hgroups : ∀ k : GKey, k.blk < s.nextUid → look (s.startBlock i x bid cluster cores).groups k = look s.groups k :=
    fun k hk => State.look_startGroups_other _ _ _ _ hk.ne
  have hrest : ∃ sl gr, s.startBlock i x bid cluster cores = { s.openBlock i x bid cluster cores with slots := sl, groups := gr } := ⟨_, _, State.startGroups_rest _ _ _ _⟩
  obtain ⟨sl, gr, hrest⟩ := hrest
  rw [hrest] at hgroups ⊢
  refine ⟨rfl, rfl, Nat.le_succ _, fun e he => ?_, length_put_fresh (fun e he => (h e he).ne) _, fun m hm => look_put_ne _ _ hm.ne, hgroups⟩
  rcases mem_put he with hold | rfl
  · exact (h e hold).trans (Nat.lt_succ_self _)
  · exact Nat.lt_succ_self _

/-- Blocks start one after another. -/
theorem State.startBlocks_adds (l : List ((Nat × List Nat) × Nat)) (h : s.UidsFresh) : s.Adds l.length (l.foldl (fun t e => t.startBlock i x (x.next + e.2) e.1.1 e.1.2) s) := by
  induction l generalizing s with
  | nil => exact ⟨rfl, rfl, le_rfl, h, rfl, fun _ _ => rfl, fun _ _ => rfl⟩
  | cons e l ih =>
    have hone := State.startBlock_adds (s := s) i x (x.next + e.2) e.1.1 e.1.2 h
    rw [List.length_cons, Nat.add_comm]
    exact hone.trans (ih hone.fresh)

end

/-- A block whose span holds the cores of its cohort, where it is of a task. -/
def State.spanned (s : State) (i : Nat) (b : Block) : Block :=
  { b with span := if b.task = i then ((s.blocks.filter (fun x => b.task == i && x.2.task == i && b.cohort == x.2.cohort)).map (fun x => x.2.span ++ x.2.cores)).flatten.eraseDups else b.span }

theorem State.look_widenSpans {s : State} {n : Nat} {b : Block} (hb : look s.blocks n = some b) (i : Nat) : look (s.widenSpans i).blocks n = some (s.spanned i b) := by
  have hmap : look (s.widenSpans i).blocks n = (look s.blocks n).map (s.spanned i) := look_map s.blocks (s.spanned i) n
  rw [hmap, hb, Option.map_some]

theorem State.widenSpans_length (s : State) (i : Nat) : (s.widenSpans i).blocks.length = s.blocks.length := List.length_map _

/-- BLOCK_PLACEMENT. -/
theorem exec_blockPlacement {s : State} {i : Nat} {x : Task} {p : List (Nat × List Nat)} (hp : s.nextAdmission = some (.start i p)) (hx : look s.tasks i = some x) :
    exec .blockPlacement s = .next (((p.zipIdx.foldl (fun t e => t.startBlock i x (x.next + e.2) e.1.1 e.1.2) s).widenSpans i).onTask i
      (fun y => { y with st := .running, next := y.next + p.length, active := y.active + p.length, lastProgress := s.ptime })) := by
  change execBlockPlacement s = _
  simp only [execBlockPlacement, hp, State.startBlocks, hx]

end Sys2Proof.Machine

/-! PROOFS, 08 R249, R250, 14 R327, R333 to R335: ends of tasks, pre-emption, saves, swap-outs and restores. -/

namespace Sys2Proof.Machine

/-! ### Ends of tasks -/

section
variable (s : State)

theorem State.forgetWaits_rest (w : Agent) : s.forgetWaits w = { s with fab := (s.forgetWaits w).fab } := rfl

theorem State.forgetAll_rest (ws : List Agent) : ws.foldl State.forgetWaits s = { s with fab := (ws.foldl State.forgetWaits s).fab } := by
  induction ws generalizing s with
  | nil => rfl
  | cons w ws ih =>
    rw [List.foldl_cons, ih, s.forgetWaits_rest w]

theorem State.forgetBlock_rest (n : Nat) : s.forgetBlock n = { s with fab := (s.forgetBlock n).fab } := by
  rw [State.forgetBlock, State.forgetAll_rest, State.forgetAll_rest]

theorem State.blurArea_rest (i : Nat) : s.blurArea i = { s with blur := (s.blurArea i).blur } := by
  unfold State.blurArea
  split <;> rfl

/-- Blocks leave the chip. -/
def State.removeBlocks (ns : List Nat) : State := ns.foldl State.removeBlock s

theorem State.removeBlock_rest (n : Nat) : ∃ groups segs seqs far slots fab, s.removeBlock n = { s with blocks := del s.blocks n, groups, segs, seqs, far, slots, fab } :=
  ⟨_, _, _, _, _, _, State.forgetBlock_rest _ n⟩

theorem State.removeBlocks_rest (ns : List Nat) : ∃ blocks groups segs seqs far slots fab, s.removeBlocks ns = { s with blocks, groups, segs, seqs, far, slots, fab } := by
  induction ns generalizing s with
  | nil => exact ⟨_, _, _, _, _, _, _, rfl⟩
  | cons n ns ih =>
    obtain ⟨groups, segs, seqs, far, slots, fab, h⟩ := s.removeBlock_rest n
    obtain ⟨blocks', groups', segs', seqs', far', slots', fab', h'⟩ := ih (s.removeBlock n)
    exact ⟨blocks', groups', segs', seqs', far', slots', fab', h'.trans (by rw [h])⟩

theorem State.mem_removeBlocks {ns : List Nat} {e : Nat × Block} (he : e ∈ (s.removeBlocks ns).blocks) : e ∈ s.blocks ∧ e.1 ∉ ns := by
  induction ns generalizing s with
  | nil => exact ⟨he, List.not_mem_nil⟩
  | cons n ns ih =>
    obtain ⟨groups, segs, seqs, far, slots, fab, h⟩ := s.removeBlock_rest n
    obtain ⟨hmem, hns⟩ := ih (s.removeBlock n) he
    rw [h] at hmem
    obtain ⟨hold, hne⟩ := List.mem_filter.1 hmem
    exact ⟨hold, fun hin => (List.mem_cons.1 hin).elim (fun h => by simp [h] at hne) hns⟩

theorem look_del {κ α : Type} [DecidableEq κ] (l : List (κ × α)) (x : κ) : look (del l x) x = none := by
  induction l with
  | nil => rfl
  | cons e l ih =>
    obtain ⟨k, a⟩ := e
    by_cases hk : k = x <;> simp_all [del, look]

end

/-- What a task that has ended leaves. -/
def State.endedTask (s : State) (i : Nat) (x : Task) : State :=
  { s.removeBlocks (s.taskBlocks i) with tasks := del (s.removeBlocks (s.taskBlocks i)).tasks i }.postEvent (x.lastEvent s.chipId i)

section
variable {s : State} {i : Nat} {x : Task}

theorem exec_taskEndingComplete (ha : s.arg = .num i) (hx : look s.tasks i = some x) :
    exec .taskEndingComplete s = .next (if x.st = .ending ∧ (s.taskBlocks i).all s.blockQuiet ∧ !s.taskOps i then s.endedTask i x else s) := by
  change execTaskEndingComplete s = _
  simp only [execTaskEndingComplete, ha, hx]
  rfl

theorem State.taskBlocks_quiet (h : ∀ e ∈ s.blocks, e.2.task = i → s.blockQuiet e.1 = true) : (s.taskBlocks i).all s.blockQuiet = true := by
  simp only [State.taskBlocks, List.all_eq_true, List.mem_map, List.mem_filter]
  rintro n ⟨e, ⟨he, hi⟩, rfl⟩
  exact h e he (eq_of_beq hi)

theorem State.endedTask_task (s : State) (i : Nat) (x : Task) : look (s.endedTask i x).tasks i = none :=
  (congrArg (fun ts => look ts i) (State.postEvent_sameTables _ _).tasks).trans (look_del _ _)

theorem State.endedTask_blocks {e : Nat × Block} (he : e ∈ (s.endedTask i x).blocks) : e.2.task ≠ i := by
  rw [State.endedTask, (State.postEvent_sameTables _ _).blocks] at he
  obtain ⟨hold, hnot⟩ := s.mem_removeBlocks he
  exact fun hi => hnot (List.mem_map.2 ⟨e, List.mem_filter.2 ⟨hold, by simpa using hi⟩, rfl⟩)

theorem State.endedTask_mem (s : State) (i : Nat) (x : Task) : (s.endedTask i x).mem = s.mem := by
  obtain ⟨blocks, groups, segs, seqs, far, slots, fab, h⟩ := s.removeBlocks_rest (s.taskBlocks i)
  rw [State.endedTask, (State.postEvent_sameTables _ _).mem, h]

/-- While nothing waits to enter the queue of events the task's event enters it. -/
theorem State.endedTask_events (x : Task) (hp : s.pendingEvents = []) (hl : s.events.length < 4096) :
    (s.endedTask i x).events = s.events ++ [{ x.lastEvent s.chipId i with ptime := s.ptime, seq := s.nextSeq }] := by
  obtain ⟨blocks, groups, segs, seqs, far, slots, fab, h⟩ := s.removeBlocks_rest (s.taskBlocks i)
  rw [State.endedTask, h, State.postEvent, if_pos ⟨by simp [hp], hl⟩]
  rfl

end

/-! ### Pre-emption -/

/-- Blocks stop issuing, before their regions abort. -/
def State.stopAll (s : State) (ns : List Nat) : State := ns.foldl (fun t n => t.onBlock n (fun b => { b with stopping := true })) s

theorem State.stopAll_mem (s : State) (ns : List Nat) : (s.stopAll ns).mem = s.mem := by
  induction ns generalizing s with
  | nil => rfl
  | cons n ns ih => exact ih (s.onBlock n _)

theorem State.look_stopAll {s : State} {ns : List Nat} {k : Nat} {b : Block} (hb : look s.blocks k = some b) (h : b.stopping = true ∨ k ∈ ns) :
    ∃ b', look (s.stopAll ns).blocks k = some b' ∧ b'.stopping = true := by
  induction ns generalizing s b with
  | nil => exact ⟨b, hb, h.resolve_right List.not_mem_nil⟩
  | cons n ns ih =>
    refine ih (look_upd_some hb n _) ?_
    by_cases hk : k = n
    · exact .inl (by rw [if_pos hk])
    · rw [if_neg hk]
      exact h.imp_right (fun hmem => (List.mem_cons.1 hmem).resolve_left hk)

/-! ### Images -/

section
variable (s : State) (n : Nat) (swap : Bool)

theorem State.saveBlock_rest : ∃ seqs fab blur, s.saveBlock n swap = { s with
    blocks := upd s.blocks n (fun b => { b with saved := true, swapped := swap, stopping := false, polledAt := s.ptime })
    slots := (s.saveBlock n swap).slots, groups := (s.saveBlock n swap).groups, tasks := (s.saveBlock n swap).tasks, seqs, fab, blur } := by
  rw [State.saveBlock, State.blurArea_rest, State.forgetBlock_rest]
  exact ⟨_, _, _, rfl⟩

/-- No issue slot holds a group of a block that is saved. -/
theorem State.saveBlock_slots {e : Nat × Slot} (he : e ∈ (s.saveBlock n swap).slots) {k : GKey} (hk : k ∈ e.2.active ++ e.2.pending) : k.blk ≠ n := by
  rw [State.saveBlock, State.blurArea_rest, State.forgetBlock_rest] at he
  obtain ⟨x, -, rfl⟩ := List.mem_map.1 he
  rcases List.mem_append.1 hk with h | h
  · simpa using (List.mem_filter.1 h).2
  · simpa using (List.mem_filter.1 h).2

theorem State.saveBlock_mem : (s.saveBlock n swap).mem = s.mem := by
  obtain ⟨seqs, fab, blur, h⟩ := s.saveBlock_rest n swap
  rw [h]

variable {s n}

theorem State.look_saveBlock {b : Block} (hb : look s.blocks n = some b) :
    look (s.saveBlock n swap).blocks n = some { b with saved := true, swapped := swap, stopping := false, polledAt := s.ptime } := by
  obtain ⟨seqs, fab, blur, h⟩ := s.saveBlock_rest n swap
  rw [h]
  exact upd_some _ hb

end

theorem State.stays_iff {s : State} {b : Block} {x : Task} (hx : look s.tasks b.task = some x) : s.stays b = true ↔ b.stopping = false ∧ x.st ≠ .ending := by simp [State.stays, hx]

/-- A victim of a task that is not co-operative brings no other block. -/
theorem State.withSiblings_single {s : State} {b : Block} {x : Task} (hx : look s.tasks b.task = some x) (hc : x.coop = false) (n : Nat) : s.withSiblings n b = [n] := by simp [State.withSiblings, hx, hc]

section
variable {s : State} {n : Nat} {b : Block} (ha : s.arg = .num n) (hb : look s.blocks n = some b)
include ha hb

theorem exec_saveComplete : exec .saveComplete s = .next (if b.stopping ∧ s.stays { b with stopping := false } ∧ s.blockQuiet n then s.saveBlock n false else s) := by
  change execSaveComplete s = _
  simp only [execSaveComplete, ha, hb]

theorem exec_blockSwapOut : exec .blockSwapOut s =
    .next (if !b.saved ∧ (s.withSiblings n b).all (fun k => (look s.blocks k).elim false s.stays && s.allMonitors k) ∧ s.waiter b.prio then (s.withSiblings n b).foldl (fun t k => t.saveBlock k true) s else s) := by
  change execBlockSwapOut s = _
  simp only [execBlockSwapOut, ha, hb]

theorem exec_swappedBlockPoll : exec .swappedBlockPoll s =
    .next (if b.swapped ∧ b.polledAt + 1024 ≤ s.ptime then ((s.aliveGroups n).map Prod.fst).foldl State.pollGroup (s.onBlock n (fun x => { x with polledAt := s.ptime })) else s) := by
  change execSwappedBlockPoll s = _
  simp only [execSwappedBlockPoll, ha, hb]

end

/-- BLOCK_RESTORE of one block. -/
theorem exec_blockRestore {s : State} {n cluster : Nat} {cores : List Nat} (hp : s.nextAdmission = some (.restore [n] [(cluster, cores)])) :
    exec .blockRestore s = .next ((s.restoreBlock n cluster cores).widenSpans ((s.restoreBlock n cluster cores).taskOf n)) := by
  change execBlockRestore s = _
  simp only [execBlockRestore, hp, List.zip_cons_cons, List.zip_nil_right, List.foldl_cons, List.foldl_nil]

end Sys2Proof.Machine

open Sys2Proof Sys2Proof.Machine in
/-- Settles O58: `State.Adds` says what blocks that start leave, `State.Beside` what polls, restores and the traps of other groups leave. -/
theorem scheduling : Obligations.Scheduling := by
  unfold Obligations.Scheduling
  refine ⟨?placement, ?ends, ?preemption, ?images, ?restore⟩
  case placement =>
    intro s i x cluster cores rest hp hx hfresh
    have hfirst := State.startBlock_adds (s := s) i x x.next cluster cores hfresh
    have hrest := State.startBlocks_adds i x (rest.zipIdx 1) hfirst.fresh
    have huid : s.nextUid < (s.startBlock i x x.next cluster cores).nextUid := (s.startBlock_nextUid i x x.next cluster cores).symm ▸ Nat.lt_succ_self _
    have hall := hfirst.trans hrest
    have hblock := (hrest.blocks s.nextUid huid).trans (s.startBlock_block i x x.next cluster cores)
    refine ⟨_, _, _, exec_blockPlacement hp hx, upd_some _ ((congrArg (fun ts => look ts i) hall.tasks).trans hx), rfl, rfl, rfl, ?length, State.look_widenSpans hblock i, rfl, rfl, rfl, rfl, hall.mem, fun n hn => ?groups⟩
    case length =>
      refine (State.widenSpans_length _ _).trans (hall.length.trans ?_)
      rw [List.length_zipIdx, Nat.add_comm 1]
    case groups =>
      obtain ⟨g, hg, hstarts⟩ := s.startBlock_group i x x.next cluster cores hn
      exact ⟨g, (hrest.groups ⟨s.nextUid, n⟩ huid).trans hg, hstarts⟩
  case ends =>
    intro s i x ha hx
    refine ⟨fun hst hquiet hops => ?_, fun hst => ?_, fun hdue => exec_watchdog_early hx ha hdue, fun hdue => ?_⟩
    · refine ⟨s.endedTask i x, ?_, s.endedTask_task i x, fun e he => State.endedTask_blocks he, s.endedTask_mem i x, State.endedTask_events x⟩
      rw [exec_taskEndingComplete ha hx, if_pos ⟨hst, State.taskBlocks_quiet hquiet, by simp [hops]⟩]
    · rw [exec_taskEndingComplete ha hx, if_neg (fun h => hst h.1)]
    · obtain ⟨y, hy, hprogress, hmem⟩ := State.watchTraps_task hx
      refine ⟨s.watchTraps i, y, exec_watchdog_due hx ha hdue, hy, hprogress, hmem, fun hnd k g b vec hg hb hi hv hn he hw ho hd hh hr => ?_⟩
      subst hi
      obtain ⟨g', hg', hin⟩ := State.watchTraps_group hnd hg hb hv hn he hw ho hd hh hr
      exact ⟨g', hg', hin.handler, hin.fr0.trans (TrapRec.word0_watchdog rfl rfl), hin.fr1.trans (g.waitRec_word1 _), fun l hl hp => (hin.onPath l hl hp).1⟩
  case preemption =>
    intro s
    have haborts := State.abortAll_abortsOnly (s.stopAll (s.victims s.ordered)) (((s.stopAll (s.victims s.ordered)).regions.filter (fun e => (s.victims s.ordered).contains e.2.owner.blk)).map (fun e => (e.1, 8)))
    refine ⟨_, rfl, haborts.mem.trans (s.stopAll_mem _), fun k b hk hb => ?_⟩
    obtain ⟨b', hb', hstop⟩ := State.look_stopAll hb (.inr hk)
    exact ⟨b', (congrArg (fun bs => look bs k) haborts.blocks).trans hb', hstop⟩
  case images =>
    intro s n b x ha hb hx hst out
    have hsaved : ∀ i swap, exec i s = .next (s.saveBlock n swap) → out i swap := fun i swap h =>
      ⟨_, _, h, State.look_saveBlock swap hb, rfl, rfl, rfl, s.saveBlock_mem n swap, fun e he k hk => s.saveBlock_slots n swap he hk⟩
    refine ⟨fun hstop hquiet => hsaved _ _ ?save, fun hno => ?runs, fun hcoop hs hstop hmon hwait => hsaved _ _ ?swap, fun hwait => ?alone, fun hout hdue => ?poll, fun hno => ?early⟩
    case save => rw [exec_saveComplete ha hb, if_pos ⟨hstop, (State.stays_iff (b := { b with stopping := false }) hx).2 ⟨rfl, hst⟩, hquiet⟩]
    case runs =>
      rw [exec_saveComplete ha hb, if_neg]
      rintro ⟨hstop, -, hquiet⟩
      exact hno.elim (fun h => Bool.false_ne_true (h.symm.trans hstop)) (fun h => Bool.false_ne_true (h.symm.trans hquiet))
    case swap =>
      rw [exec_blockSwapOut ha hb, State.withSiblings_single hx hcoop, if_pos ⟨by simp [hs], by simp [hb, (State.stays_iff hx).2 ⟨hstop, hst⟩, hmon], hwait⟩]
      rfl
    case alone => rw [exec_blockSwapOut ha hb, if_neg (fun h => Bool.false_ne_true (hwait.symm.trans h.2.2))]
    case poll =>
      have hpolls : State.Beside anyGroup (s.onBlock n (fun x => { x with polledAt := s.ptime })) (((s.aliveGroups n).map Prod.fst).foldl State.pollGroup (s.onBlock n (fun x => { x with polledAt := s.ptime }))) :=
        .foldl (fun t k _ => t.pollGroup_beside k) _
      obtain ⟨bars, swapped, hb', -⟩ := hpolls.blocks n _ (upd_some _ hb)
      exact ⟨_, _, (exec_swappedBlockPoll ha hb).trans (by rw [if_pos ⟨hout, hdue⟩]), hb', rfl, hpolls.mem⟩
    case early =>
      rw [exec_swappedBlockPoll ha hb, if_neg]
      rintro ⟨hout, hdue⟩
      exact hno.elim (fun h => Bool.false_ne_true (h.symm.trans hout)) (fun h => absurd hdue (by omega))
  case restore =>
    intro s n cluster cores b hp hb
    obtain ⟨bars, out, hb', hout⟩ := (s.restoreBlock_beside n cluster cores).blocks n _ (upd_some _ hb)
    refine ⟨_, _, exec_blockRestore hp, State.look_widenSpans hb' _, rfl, ?_, rfl, rfl, (s.restoreBlock_beside n cluster cores).mem⟩
    exact Bool.eq_false_iff.2 (fun h => Bool.false_ne_true (hout h))

/-! PROOFS, 03 R60 to R78: decoding undoes encoding. -/

namespace Sys2Proof

/-! ### The words of a format -/

/-- A field that does not straddle the place where two parts of a word meet lies in one of them. -/
theorem extractLsb'_append {v w start len : Nat} {x : BitVec v} {y : BitVec w} (h : w ≤ start ∨ start + len ≤ w) :
    BitVec.extractLsb' start len (x ++ y) = if w ≤ start then BitVec.extractLsb' (start - w) len x else BitVec.extractLsb' start len y := by
  split
  · next hle => exact BitVec.extractLsb'_append_eq_of_le hle
  · next hlt => exact BitVec.extractLsb'_append_eq_of_add_le (h.resolve_left hlt)

/-- The instruction set that a format is of: lane or uniform. -/
def Raw.uniform : Raw → Bool
  | .l3 .. | .lx .. | .lxv .. | .lm .. | .la .. | .lcf .. => false
  | .gi .. | .gs .. | .gb .. | .gx .. | .gbc .. | .gmovl .. | .reserved => true
  | .ext _ set .. => set

/-- The switch marker of a format. -/
def Raw.marker : Raw → Bool
  | .l3 s .. | .lx s .. | .lxv s .. | .lm s .. | .la s .. | .lcf s .. | .gi s .. | .gs s .. | .gb s .. | .gx s .. | .gbc s .. | .gmovl s .. | .ext s .. => s
  | .reserved => true

/-- The major opcode of a format; some formats have but one. -/
def Raw.major : Raw → BitVec 6
  | .l3 _ maj .. | .lx _ maj .. | .lm _ maj .. | .la _ maj .. | .gi _ maj .. | .gs _ maj .. | .gb _ maj .. | .gx _ maj .. | .ext _ _ maj .. => maj
  | .lxv .. => 0x32
  | .lcf .. => 0x3B
  | .gbc .. => 0x31
  | .gmovl .. => 0x3C
  | .reserved => 0x3F

/-- Set, marker and major stand at the same bits of every format's first word (03 R60). -/
theorem Raw.toWords_head (r : Raw) : r.toWords.1.extractLsb' 31 1 = bit1 r.uniform ∧ r.toWords.1.extractLsb' 30 1 = bit1 r.marker ∧ r.toWords.1.extractLsb' 24 6 = r.major := by
  cases r <;> simp [Raw.toWords, Raw.uniform, Raw.marker, Raw.major, extractLsb'_append (w := 1), extractLsb'_append (w := 2), extractLsb'_append (w := 3), extractLsb'_append (w := 4),
    extractLsb'_append (w := 6), extractLsb'_append (w := 8), extractLsb'_append (w := 9), extractLsb'_append (w := 15), extractLsb'_append (w := 24)] <;> rfl

theorem Raw.twoWords_toWords (r : Raw) : twoWords r.toWords.1 = decide (0x30 ≤ r.major.toNat) := by
  rw [twoWords, r.toWords_head.2.2]

/-- The format stands at a major that 03 R74 and R75 give it, and a one-word extension word has no second word. -/
def Raw.Placed : Raw → Prop
  | .l3 _ maj .. => maj.toNat ≤ 0x1C
  | .lx _ maj .. => maj.toNat = 0x30 ∨ maj.toNat = 0x31 ∨ maj.toNat = 0x33 ∨ maj.toNat = 0x3A
  | .lm _ maj .. => 0x34 ≤ maj.toNat ∧ maj.toNat ≤ 0x37
  | .la _ maj .. => 0x38 ≤ maj.toNat ∧ maj.toNat ≤ 0x39
  | .gi _ maj .. => maj.toNat ≤ 0x03
  | .gs _ maj .. => 0x04 ≤ maj.toNat ∧ maj.toNat ≤ 0x08
  | .gb _ maj .. => 0x09 ≤ maj.toNat ∧ maj.toNat ≤ 0x10
  | .gx _ maj .. => 0x30 ≤ maj.toNat ∧ maj.toNat ≤ 0x3B ∧ maj.toNat ≠ 0x31
  | .ext _ _ maj _ w1 => isExtMajor maj.toNat = true ∧ (maj.toNat < 0x30 → w1 = 0)
  | .lxv .. | .lcf .. | .gbc .. | .gmovl .. => True
  | .reserved => False

theorem isExtMajor_iff {m : Nat} : isExtMajor m = true ↔ (0x28 ≤ m ∧ m ≤ 0x2F) ∨ (0x3D ≤ m ∧ m ≤ 0x3F) := by simp [isExtMajor]

/-- A placed format is read back from its words: set and major select it, and each field is the one that was written. -/
theorem Raw.ofWords_toWords {r : Raw} (h : r.Placed) : Raw.ofWords r.toWords.1 r.toWords.2 = r := by
  have hhead := r.toWords_head
  cases r <;> simp only [Raw.Placed, isExtMajor_iff] at h <;> simp only [Raw.uniform, Raw.marker, Raw.major] at hhead <;>
    simp (disch := omega) only [Raw.ofWords, hhead, bool1_bit1, isExtMajor_iff, Bool.or_eq_true, beq_iff_eq, decide_eq_true_eq, Bool.false_eq_true, BitVec.reduceToNat, if_true, if_false, if_pos, if_neg]
  -- One branch of the decoder is left in each case; its fields are those of the words' parts.
  case ext s set maj rest w1 =>
    split
    · next hlt => simp [h.2 hlt, Raw.toWords, extractLsb'_append (w := 24)]
    · simp [Raw.toWords, extractLsb'_append (w := 24)]
  all_goals
    simp [Raw.toWords, extractLsb'_append (w := 1), extractLsb'_append (w := 2), extractLsb'_append (w := 3), extractLsb'_append (w := 4), extractLsb'_append (w := 6), extractLsb'_append (w := 8),
      extractLsb'_append (w := 9), extractLsb'_append (w := 10), extractLsb'_append (w := 12), extractLsb'_append (w := 15), extractLsb'_append (w := 24)]

theorem Raw.toWords_snd_of_oneWord {r : Raw} (h : r.Placed) (h1 : twoWords r.toWords.1 = false) : r.toWords.2 = 0 := by
  rw [r.twoWords_toWords, decide_eq_false_iff_not, Nat.not_le] at h1
  cases r <;> simp only [Raw.Placed, Raw.major, BitVec.reduceToNat] at h h1
  case ext => exact h.2 h1
  case lx | lm | la | gx => omega
  case lxv | lcf | gbc | gmovl => exact absurd h1 (by decide)
  all_goals rfl

/-! ### The fields of an instruction -/

@[simp] theorem reserve_true : reserve true = .ok () := rfl
@[simp] theorem need_some {α : Type} (a : α) : need (some a) = .ok a := rfl
@[simp] theorem ok_bind {α β : Type} (a : α) (f : α → Except DecodeError β) : (Except.ok a >>= f) = f a := rfl

@[simp] theorem Size.code_setWidth (x : Size) : (x.code.setWidth 3).setWidth 4 = x.code := by cases x <;> rfl
@[simp] theorem Hint.code_setWidth (x : Hint) : (x.code.setWidth 2).setWidth 3 = x.code := by cases x <;> rfl

/-- The fields of a well-formed instruction stand for it: each coded field is read as the value it was written for, and each reserved one is 0. -/
theorem Instr.ofRaw_toRaw {i : Instr} {r : Raw} (hw : i.wellFormed = true) (h : i.toRaw = some r) : Instr.ofRaw r = .ok i := by
  cases i <;> cases h
  case shli | shri | sari => simp [Instr.ofRaw, Instr.ofL3]
  case ffma | imad | fsqrt | frint | bfe | bfi | prmt | sel | iabs | ineg | iadd3 | movg => simp [Instr.ofRaw, Instr.ofLxa]
  case iset | nset | fset => simp [Instr.ofRaw, Instr.ofLxc]
  case cvtsc | tagset => simp [Instr.ofRaw, Instr.ofLxv]
  case cvt | pack2 | pack4 | unpack => simp [Instr.ofRaw, Instr.ofLxv, extractLsb'_append (w := 3)]
  case shfl | shflup | shfldn | shflx | qbcast | voteall | voteany | ballot | ballotScratchpad | bplane | matchLanes | redux | readsr => simp [Instr.ofRaw, Instr.ofLxx]
  case ld | st | lds | sts =>
    have hoff := LaneOffset.ofCodes_codes _ (Bool.and_eq_true_iff.1 hw).2
    simp [Instr.ofRaw, Instr.ofLm, hoff]
  case atom | atoms => simp [Instr.ofRaw, Instr.ofLa]
  case trx => simp [Instr.ofRaw, Instr.ofTrx]
  case gshli | gshri | gsari => simp [Instr.ofRaw, Instr.ofGs]
  case gbfe | gfadd | gfmul | gset | gnset | gfset | gffma => simp [Instr.ofRaw, Instr.ofGxa]
  case gbr | gbrn | gbrz => simp [Instr.ofRaw, Instr.ofGbc]
  case csrr | csrw | csrx | trap => simp [Instr.ofRaw, Instr.ofGsy]
  case barinit | bararv | barwait | barsync | fence | hwait | htest | hcancel | hmov | hadopt | acset | await => simp [Instr.ofRaw, Instr.ofGsn]
  case waitc => simp [Instr.ofRaw, Instr.ofGsn, extractLsb'_append (w := 1), extractLsb'_append (w := 3)]
  case gld | gst | glds | gsts | gatom => simp [Instr.ofRaw, Instr.ofGmm, extractLsb'_append (w := 2), extractLsb'_append (w := 3)]
  case layout | tdef | trel | tstat | sbind => simp [Instr.ofRaw, Instr.ofGcp]
  case mzero | mma | mmag | mmasp | msoft | mscale | mldt | mcmerge => simp [Instr.ofRaw, Instr.ofGmx]
  case mdrain | mwait => simp [Instr.ofRaw, Instr.ofGmx, extractLsb'_append (w := 1), extractLsb'_append (w := 2)]
  case patch | regroup => simp [Instr.ofRaw, Instr.ofGtk]
  -- Every other instruction's fields stand in its words as they are.
  all_goals rfl

/-- An instruction's format stands at a major of its own. -/
theorem Instr.placed_toRaw {i : Instr} {r : Raw} (hw : i.wellFormed = true) (h : i.toRaw = some r) : r.Placed := by
  cases i <;> cases h
  case extensionWord maj rest w1 =>
    have hlimits : (isExtMajor maj.toNat && (!(maj.toNat < 0x30) || w1 == 0)) = true := hw
    simpa [Raw.Placed, imp_iff_not_or] using hlimits
  all_goals simp [Raw.Placed]

/-- The decoder reads a well-formed instruction back from its words. -/
theorem decodeWords_toWords {i : Instr} {r : Raw} (hw : i.wellFormed = true) (h : i.toRaw = some r) : decodeWords r.toWords.1 r.toWords.2 = .ok i := by
  simp [decodeWords, Raw.ofWords_toWords (Instr.placed_toRaw hw h), Instr.ofRaw_toRaw hw h, hw]

/-! ### The bytes of the words -/

/-- Little-endian bytes hold the number they were made of, modulo what fits. -/
theorem natLE_bytesLE (n x : Nat) : natLE (bytesLE n x) = x % 256 ^ n := by
  induction n generalizing x with
  | zero => simp [bytesLE, natLE, Nat.mod_one]
  | succ n ih =>
    rw [bytesLE, natLE, ih, BitVec.toNat_ofNat]
    exact Nat.mod_mul.symm.trans (congrArg (x % ·) Nat.pow_succ'.symm)

theorem wordLE_wordBytes (w : Word) : wordLE (wordBytes w) = w := by
  have hfits : w.toNat % 256 ^ 4 = w.toNat := Nat.mod_eq_of_lt w.isLt
  rw [wordLE, wordBytes, natLE_bytesLE, hfits, BitVec.ofNat_toNat, BitVec.setWidth_eq]

/-- A word is stored as four bytes that read back as it. -/
theorem wordBytes_eq (w : Word) : ∃ b0 b1 b2 b3, wordBytes w = [b0, b1, b2, b3] ∧ wordLE [b0, b1, b2, b3] = w :=
  ⟨_, _, _, _, rfl, wordLE_wordBytes w⟩

theorem length_wordBytes (w : Word) : (wordBytes w).length = 4 := rfl

theorem decode_oneWord {w : Word} {i : Instr} (h1 : twoWords w = false) (hd : decodeWords w 0 = .ok i) (rest : List Byte) : decode (wordBytes w ++ rest) = .ok (i, rest) := by
  obtain ⟨b0, b1, b2, b3, hb, hw⟩ := wordBytes_eq w
  simp only [hb, List.cons_append, List.nil_append, decode, hw, h1, hd, Bool.false_eq_true, if_false]

theorem decode_twoWords {w0 w1 : Word} {i : Instr} (h2 : twoWords w0 = true) (hd : decodeWords w0 w1 = .ok i) (rest : List Byte) : decode (wordBytes w0 ++ (wordBytes w1 ++ rest)) = .ok (i, rest) := by
  obtain ⟨b0, b1, b2, b3, hb, hw0⟩ := wordBytes_eq w0
  obtain ⟨c0, c1, c2, c3, hc, hw1⟩ := wordBytes_eq w1
  simp only [hb, hc, List.cons_append, List.nil_append, decode, hw0, hw1, h2, hd, if_true]

theorem encodeBytes_eq {i : Instr} {r : Raw} (h : i.toRaw = some r) :
    encodeBytes i = if twoWords r.toWords.1 then wordBytes r.toWords.1 ++ wordBytes r.toWords.2 else wordBytes r.toWords.1 := by
  simp only [encodeBytes, encode, h]
  split <;> simp

theorem length_encodeBytes (i : Instr) : (encodeBytes i).length = i.length := by
  cases h : i.toRaw with
  | none => simp [encodeBytes, encode, Instr.length, h]
  | some r =>
    simp only [encodeBytes_eq h, Instr.length, h]
    split <;> simp [length_wordBytes]

/-- What encoding a well-formed instruction gives decodes to it; of a one-word instruction the second word is 0, which is what the decoder takes it for. -/
theorem decode_encodeBytes {i : Instr} {r : Raw} (hw : i.wellFormed = true) (h : i.toRaw = some r) (rest : List Byte) : decode (encodeBytes i ++ rest) = .ok (i, rest) := by
  have hd := decodeWords_toWords hw h
  rw [encodeBytes_eq h]
  split
  · next h2 =>
    rw [List.append_assoc]
    exact decode_twoWords h2 hd rest
  · next h1 =>
    have h1 := Bool.eq_false_iff.2 h1
    rw [Raw.toWords_snd_of_oneWord (Instr.placed_toRaw hw h) h1] at hd
    exact decode_oneWord h1 hd rest

end Sys2Proof

/-- Settles O48: bytes are read back as words, words as the fields of a format, and the fields as the instruction; well-formedness is needed for the offset's scale, for the limits that the decoder checks and for an extension word's place. -/
theorem decodeEncode : Obligations.DecodeEncode := by
  intro i rest hw hraw
  obtain ⟨r, hr⟩ := Option.ne_none_iff_exists'.1 hraw
  exact ⟨Sys2Proof.decode_encodeBytes hw hr rest, Sys2Proof.length_encodeBytes i⟩

/-! PROOFS, 04 R105 to R108, R110 to R123: the lane instructions run on a path that is ready for them. -/

namespace Sys2Proof.Machine

/-! ### The shared forms -/

section
variable {s : State} {m : Bool} {len : Nat} {vd va vb : BitVec 8} {ok : Tag → Bool}

theorem lane1_run (tag : Tag → Tag) (f : Word → Word) (h : s.laneReady [vd.toNat, va.toNat] [] [.v 0 va.toNat ok] = true) :
    lane1 s m len vd va ok tag f = .next ((s.vwrite vd.toNat (tag (s.tagOf va.toNat)) (fun l => f (s.vread 0 va.toNat l))).finish m len) :=
  lan_run h

theorem lane2_run (tag : Tag → Tag → Tag) (f : Word → Word → Word)
    (h : s.laneReady [vd.toNat, va.toNat, vb.toNat] [] [.v 0 va.toNat ok, .v 1 vb.toNat ok] = true) :
    lane2 s m len vd va vb ok tag f =
      .next ((s.vwrite vd.toNat (tag (s.tagOf va.toNat) (s.tagOf vb.toNat)) (fun l => f (s.vread 0 va.toNat l) (s.vread 1 vb.toNat l))).finish m len) :=
  lan_run h

theorem lane3_run {c : Src} (tag : Tag) (f : Word → Word → Word → Word)
    (h : s.laneReady ([vd.toNat, va.toNat, vb.toNat] ++ srcV c) (srcG c) [.v 0 va.toNat ok, .v 1 vb.toNat ok, opnd 2 c ok] = true) :
    lane3 s m vd va vb c ok tag f =
      .next ((s.vwrite vd.toNat tag (fun l => f (s.vread 0 va.toNat l) (s.vread 1 vb.toNat l) (s.sread 2 c l))).finish m 8) :=
  lan_run h

/-- An integer compare writes PRED. -/
theorem laneCompare_run (f : Word → Word → Bool) (h : s.laneReady [vd.toNat, va.toNat, vb.toNat] [] [.v 0 va.toNat intTag, .v 1 vb.toNat intTag] = true) :
    laneCompare s m vd va vb f =
      .next ((s.vwrite vd.toNat .pred (fun l => wordOfBool (f (s.vread 0 va.toNat l) (s.vread 1 vb.toNat l)))).finish m 8) :=
  lan_run h

theorem shuffle_run {c : Src} {w : SegWidth} (from_ : Nat → Nat → Nat → Nat)
    (h : s.laneReady ([vd.toNat, va.toNat] ++ srcV c) (srcG c) [.v 0 va.toNat anyTag, opnd 2 c anyTag] = true) :
    shuffle s m vd va c w from_ = .next ((s.vwrite vd.toNat (s.tagOf va.toNat) (fun l =>
      s.vread 0 va.toNat (l - l % segLanes w + from_ (segLanes w) (l % segLanes w) (s.sread 2 c l).toNat))).finish m 8) :=
  lan_run h

theorem quad_run (from_ : Nat → Nat) (h : s.laneReady [vd.toNat, va.toNat] [] [.v 0 va.toNat anyTag] = true) :
    quad s m vd va from_ = .next ((s.vwrite vd.toNat (s.tagOf va.toNat) (fun l => s.vread 0 va.toNat (l - l % 4 + from_ (l % 4)))).finish m 8) :=
  lan_run h

theorem vote_run {ge : BitVec 8} {vs gs : List Nat} {ops : List Opnd} (r : Word) (h : s.laneReady (va.toNat :: vs) (ge.toNat :: gs) ops = true) :
    vote s m ge va vs gs ops r = .next ((s.writeU ge.toNat (if s.pendingVote va.toNat then s.undef 1 0 else r)).finish m 8) :=
  lan_run h

end

end Sys2Proof.Machine

open Sys2Proof Sys2Proof.Machine in
/-- Settles O1: each instruction is the two-source form with its result's tag and its function of two words. -/
theorem laneIntegerBinary : Obligations.LaneIntegerBinary := by
  intro s m vd va vb
  exact ⟨lane2_run (fun _ _ => .i32) (· + ·), lane2_run (fun _ _ => .i32) (· - ·), lane2_run (fun _ _ => .i32) (· * ·), lane2_run (fun _ _ => .i32) mulHiI,
    lane2_run (fun _ _ => .i32) mulHiN, lane2_run (fun _ _ => .i32) minI, lane2_run (fun _ _ => .i32) maxI, lane2_run (fun _ _ => .i32) minN,
    lane2_run (fun _ _ => .i32) maxN, lane2_run logicTag (· &&& ·), lane2_run logicTag (· ||| ·), lane2_run logicTag (· ^^^ ·),
    lane2_run (fun _ _ => .raw) shlW, lane2_run (fun _ _ => .raw) shrW, lane2_run (fun _ _ => .raw) sarW⟩

namespace Sys2Proof.Machine

/-! ### Shifts by an immediate: the count of five bits is below 32 -/

section
variable (a : Word) (sh : BitVec 5)

theorem toNat_shiftCount : (sh.setWidth 32).toNat = sh.toNat := by
  rw [BitVec.toNat_setWidth, Nat.mod_eq_of_lt (by omega)]

theorem shlW_shiftCount : shlW a (sh.setWidth 32) = a <<< sh.toNat := by
  rw [shlW, toNat_shiftCount, if_pos (by omega)]

theorem shrW_shiftCount : shrW a (sh.setWidth 32) = a >>> sh.toNat := by
  rw [shrW, toNat_shiftCount, if_pos (by omega)]

theorem sarW_shiftCount : sarW a (sh.setWidth 32) = a.sshiftRight sh.toNat := by
  rw [sarW, toNat_shiftCount, min_eq_left (by omega)]

end

/-- Where −2^31 is not saturated it stands as it is. -/
theorem absW_eq (sat : Bool) (a : Word) :
    absW sat a = if a = 0x80000000 then (if sat then 0x7FFFFFFF else 0x80000000) else if a.toInt < 0 then -a else a := by
  unfold absW
  split
  · next ha => rw [ha]
  · rfl

end Sys2Proof.Machine

open Sys2Proof Sys2Proof.Machine in
/-- Settles O2: each instruction is the one-source form with its result's tag and its function of a word; MOVI and MOVG read no v register. -/
theorem laneIntegerUnary : Obligations.LaneIntegerUnary := by
  intro s m sat vd va imm gc sh
  refine ⟨lane1_run (fun t => t) (fun a => a), lane1_run toI32 (· + imm.signExtend 32), lane1_run toRaw (· &&& imm.setWidth 32), lane1_run toRaw (· ||| imm.setWidth 32),
    lane1_run toRaw (· ^^^ imm.setWidth 32), fun h => ?shli, fun h => ?shri, fun h => ?sari, fun h => ?movi, lane1_run toI32 (fun a => BitVec.ofNat 32 (popCount a)), lane1_run toI32 clzW,
    lane1_run toRaw brevW, fun h => ?iabs, lane1_run toI32 (negW sat), fun h => ?movg⟩
  case shli =>
    simp only [← shlW_shiftCount]
    exact lane1_run toRaw (fun a => shlW a (sh.setWidth 32)) h
  case shri =>
    simp only [← shrW_shiftCount]
    exact lane1_run toRaw (fun a => shrW a (sh.setWidth 32)) h
  case sari =>
    simp only [← sarW_shiftCount]
    exact lane1_run toRaw (fun a => sarW a (sh.setWidth 32)) h
  case movi =>
    change execMovi m vd imm s = _
    exact lan_run h
  case iabs =>
    simp only [← absW_eq]
    exact lane1_run toI32 (absW sat) h
  case movg =>
    change execMovg m vd gc s = _
    exact lan_run h

open Sys2Proof Sys2Proof.Machine in
/-- Settles O3: each instruction is the three-source form with its function of three words; BFI has a fourth source, and SEL takes its tag from its data. -/
theorem laneIntegerTernary : Obligations.LaneIntegerTernary := by
  intro s m sgn vd va vb c e
  refine ⟨lane3_run .i32 (fun a b x => a * b + x), lane3_run .i32 (fun a b x => a + b + x), lane3_run .raw (fun a p n => bitExtract a p n sgn), lane3_run .raw byteSelect,
    fun h => ?bfi, fun h => ?sel⟩
  case bfi =>
    change execBfi m vd va vb c e s = _
    exact lan_run h
  case sel =>
    change execSel m vd va vb c s = _
    exact lan_run h
namespace Sys2Proof.Machine

/-! ### Checks of their own that pass -/

section
variable {s : State} {t : Tag}

theorem oddExc_none {pos : Nat} {x : Src} (h : t = .f64 → srcNum x % 2 = 0) : oddExc t pos x = none :=
  excIf_false (by by_cases ht : t = .f64 <;> simp [ht, h])

theorem oddExc_v_none {pos : Nat} {r : BitVec 8} (h : t = .f64 → r.toNat % 2 = 0) : oddExc t pos (.v r) = none := oddExc_none h

theorem f64Dest_none {vd : Nat} (h : t = .f64 → vd % 2 = 0 ∧ vd + 1 < s.vLimit) : s.f64Dest t vd = none :=
  excIf_false (by by_cases ht : t = .f64 <;> simp [ht, h])

/-- The pairs of an F64 instruction are ready: its destination's and its sources' checks pass. -/
theorem State.pairsReady_checks {vd : BitVec 8} {srcs : List Src} (h : s.pairsReady t vd srcs = true) :
    s.f64Dest t vd.toNat = none ∧ ∀ x ∈ srcs, ∀ pos, oddExc t pos x = none := by
  by_cases ht : t = .f64
  · simp only [State.pairsReady, ht, bne_self_eq_false, Bool.false_or, Bool.and_eq_true, beq_iff_eq, decide_eq_true_eq, List.all_eq_true] at h
    obtain ⟨⟨heven, hlim⟩, hsrcs⟩ := h
    exact ⟨f64Dest_none fun _ => ⟨heven, hlim⟩, fun x hx pos => oddExc_none fun _ => hsrcs x hx⟩
  · exact ⟨f64Dest_none fun h64 => absurd h64 ht, fun x _ pos => oddExc_none fun h64 => absurd h64 ht⟩

/-- The checks of a lane instruction with one of its own between its names and its row pass. -/
theorem laneChecks_none {vs gs : List Nat} {ops : List Opnd} {x : Option Exc} (h : s.laneReady vs gs ops = true) (hx : x = none) :
    s.resident = true ∧ firstExc ([s.nameExc vs gs, x, s.rowExc .group] ++ s.sourceExcs ops) = none := by
  simp only [State.laneReady, Bool.and_eq_true] at h
  obtain ⟨⟨⟨hp, hv⟩, hg⟩, hs⟩ := h
  have hrow : s.rowExc .group = none := rowExc_none (by unfold State.onPath at hp; unfold State.mayIssue; split at hp <;> simp_all)
  refine ⟨resident_of_onPath hp, ?_⟩
  rw [nameExc_none hv hg, hx, hrow]
  exact sourceExcs_none hs

end

/-! ### Float instructions -/

section
variable {s : State} {m : Bool} {vd va vb : BitVec 8}

theorem float1_run {ok : Tag → Bool} (f : Fmt → Nat → Nat)
    (h : s.laneReady [vd.toNat, va.toNat] [] (fopnds (s.tagOf va.toNat) 0 (.v va) ok) = true ∧ s.pairsReady (s.tagOf va.toNat) vd [.v va] = true) :
    float1 s m vd va ok f = .next ((s.fwrite vd.toNat (s.tagOf va.toNat) (fun l => elems1 (s.tagOf va.toNat) f (s.fbits (s.tagOf va.toNat) 0 (.v va) l))).finish m 8) := by
  obtain ⟨hready, hpairs⟩ := h
  obtain ⟨hd, hodd⟩ := State.pairsReady_checks hpairs
  refine lan_next hready ?_
  rw [hd, hodd _ (by simp)]
  rfl

theorem float2_run {len : Nat} (f : Fmt → Nat → Nat → Nat)
    (h : s.laneReady [vd.toNat, va.toNat, vb.toNat] [] (fopnds (s.tagOf va.toNat) 0 (.v va) floatTag ++ fopnds (s.tagOf va.toNat) 1 (.v vb) (· == s.tagOf va.toNat)) = true ∧
      s.pairsReady (s.tagOf va.toNat) vd [.v va, .v vb] = true) :
    float2 s m len vd va vb f = .next ((s.fwrite vd.toNat (s.tagOf va.toNat) (fun l =>
      elems2 (s.tagOf va.toNat) f (s.fbits (s.tagOf va.toNat) 0 (.v va) l) (s.fbits (s.tagOf va.toNat) 1 (.v vb) l))).finish m len) := by
  obtain ⟨hready, hpairs⟩ := h
  obtain ⟨hd, hodd⟩ := State.pairsReady_checks hpairs
  refine lan_next hready ?_
  rw [hd, hodd _ (by simp), hodd _ (by simp)]
  rfl

theorem execFfma_run {c : Src} {rm : Rounding}
    (h : s.laneReady ([vd.toNat, va.toNat, vb.toNat] ++ srcV c) (srcG c)
        (fopnds (s.tagOf va.toNat) 0 (.v va) floatTag ++ fopnds (s.tagOf va.toNat) 1 (.v vb) (· == s.tagOf va.toNat) ++ fopnds (s.tagOf va.toNat) 2 c (· == s.tagOf va.toNat)) = true ∧
      s.pairsReady (s.tagOf va.toNat) vd [.v va, .v vb, c] = true) :
    execFfma m vd va vb c rm s = .next ((s.fwrite vd.toNat (s.tagOf va.toNat) (fun l => elems3 (s.tagOf va.toNat) (ffma rm)
      (s.fbits (s.tagOf va.toNat) 0 (.v va) l) (s.fbits (s.tagOf va.toNat) 1 (.v vb) l) (s.fbits (s.tagOf va.toNat) 2 c l))).finish m 8) := by
  obtain ⟨hready, hpairs⟩ := h
  obtain ⟨hd, hodd⟩ := State.pairsReady_checks hpairs
  refine lan_next hready ?_
  rw [hd, hodd _ (by simp), hodd _ (by simp), hodd _ (by simp)]
  rfl

theorem execFtwosum_run
    (h : s.laneReady [vd.toNat, va.toNat, vb.toNat] [] (fopnds (s.tagOf va.toNat) 0 (.v va) floatTag ++ fopnds (s.tagOf va.toNat) 1 (.v vb) (· == s.tagOf va.toNat)) = true)
    (hshort : s.tagOf va.toNat ≠ .f64 → vd.toNat % 2 = 0)
    (h64 : s.tagOf va.toNat = .f64 → va.toNat % 2 = 0 ∧ vb.toNat % 2 = 0 ∧ vd.toNat % 4 = 0 ∧ vd.toNat + 3 < s.vLimit) :
    execFtwosum m vd va vb s = .next (((s.fwrite vd.toNat (s.tagOf va.toNat) (fun l => elems2 (s.tagOf va.toNat) (fun f x y => (ftwosum f x y).1)
        (s.fbits (s.tagOf va.toNat) 0 (.v va) l) (s.fbits (s.tagOf va.toNat) 1 (.v vb) l))).fwrite
      (vd.toNat + if s.tagOf va.toNat = .f64 then 2 else 1) (s.tagOf va.toNat) (fun l => elems2 (s.tagOf va.toNat) (fun f x y => (ftwosum f x y).2)
        (s.fbits (s.tagOf va.toNat) 0 (.v va) l) (s.fbits (s.tagOf va.toNat) 1 (.v vb) l))).finish m 8) := by
  have hillegal : excIf (shortFloatTag (s.tagOf va.toNat) && vd.toNat % 2 == 1) (.of .illegal) = none :=
    excIf_false (by by_cases ht : s.tagOf va.toNat = .f64 <;> simp [ht, shortFloatTag, hshort])
  have hdest : excIf (s.tagOf va.toNat == .f64 && (vd.toNat % 4 != 0 || decide (s.vLimit ≤ vd.toNat + 3))) (.of .tag) = none :=
    excIf_false (by by_cases ht : s.tagOf va.toNat = .f64 <;> simp [ht, h64])
  obtain ⟨hr, hc⟩ := laneChecks_none h hillegal
  unfold execFtwosum
  rw [apply_ite (vd.toNat + ·)]
  refine issue_next hr ?_
  rw [firstExc_append_none hc, oddExc_v_none fun ht => (h64 ht).1, oddExc_v_none fun ht => (h64 ht).2.1, hdest]
  rfl

theorem execFset_run {cond : Cond}
    (h : s.laneReady [vd.toNat, va.toNat, vb.toNat] [] (fopnds (s.tagOf va.toNat) 0 (.v va) floatTag ++ fopnds (s.tagOf va.toNat) 1 (.v vb) (· == s.tagOf va.toNat)) = true)
    (h64 : s.tagOf va.toNat = .f64 → va.toNat % 2 = 0 ∧ vb.toNat % 2 = 0) :
    execFset m vd va vb cond s = .next ((s.vwrite vd.toNat .pred (fun l => wordOfBool ((List.range (s.tagOf va.toNat).count).all (fun k =>
      fcompare cond ((fmtOf (s.tagOf va.toNat)).value (elem (s.tagOf va.toNat).width k (s.fbits (s.tagOf va.toNat) 0 (.v va) l)))
        ((fmtOf (s.tagOf va.toNat)).value (elem (s.tagOf va.toNat).width k (s.fbits (s.tagOf va.toNat) 1 (.v vb) l))))))).finish m 8) := by
  refine lan_next h ?_
  rw [oddExc_v_none fun ht => (h64 ht).1, oddExc_v_none fun ht => (h64 ht).2]
  rfl

end

end Sys2Proof.Machine

open Sys2Proof Sys2Proof.Machine in
/-- Settles O6: each instruction is the two-source float form, or a form of its own, with its function of element codes. -/
theorem laneFloatBinary : Obligations.LaneFloatBinary := by
  intro s m vd va vb c rm cond
  refine ⟨float2_run (fadd .rn), float2_run (fsub .rn), float2_run (fmul .rn), float2_run fmin, float2_run fmax, execFfma_run, ?ftwosum, fun h => ⟨?iset, ?nset⟩, ?fset⟩
  case ftwosum =>
    rintro ⟨hready, hshort, h64⟩
    exact execFtwosum_run hready hshort h64
  case iset => exact laneCompare_run (wcompare cond false) h
  case nset => exact laneCompare_run (wcompare cond true) h
  case fset =>
    rintro ⟨hready, h64⟩
    exact execFset_run hready h64
namespace Sys2Proof.Machine

/-! ### Conversions, packing and unpacking -/

section
variable {s : State} {m u sat : Bool} {vd va vb : BitVec 8} {dtag : Tag} {rm : Rounding}

theorem execCvt_run {el : BitVec 3} (h : s.laneReady [vd.toNat, va.toNat] [] (fopnds (s.tagOf va.toNat) 0 (.v va) cvtTag) = true)
    (hel : el.toNat < (s.tagOf va.toNat).count) (h64 : s.tagOf va.toNat = .f64 → va.toNat % 2 = 0) (hconv : convertible (s.tagOf va.toNat) dtag = true) :
    execCvt m vd va dtag u el rm sat s = .next ((s.fwrite vd.toNat dtag (fun l =>
      convert (s.tagOf va.toNat) (if s.tagOf va.toNat = .i32 ∧ dtag = .i32 then !u else u) dtag u rm sat (s.elemBits (s.tagOf va.toNat) va.toNat el.toNat l))).finish m 8) := by
  refine lan_next h ?_
  rw [excIf_false (decide_eq_false (not_le.2 hel)), oddExc_v_none h64, excIf_false (by rw [hconv]; rfl)]
  rfl

theorem execCvtsc_run {e : Bool} (h : s.laneReady [vd.toNat, vd.toNat + 1, va.toNat] [] [.v 0 va.toNat shortFloatTag] = true) (hel : ¬(s.tagOf va.toNat = .f32 ∧ e = true)) :
    let r := scaledConvert dtag (s.blockVals (s.tagOf va.toNat) va.toNat (if e then 1 else 0))
    let w := if dtag = .e2m1x8 then 8 else 4
    execCvtsc m vd va dtag e s = .next (((s.vwrite vd.toNat dtag (fun l =>
      BitVec.ofNat 32 (packElems dtag.width ((List.range w).map (fun i => r.2.getD (w * (l % (32 / w)) + i) 0))))).vwrite
        (vd.toNat + 1) .e8m0x4 (fun _ => BitVec.ofNat 32 r.1)).finish m 8) := by
  have hillegal : excIf (s.tagOf va.toNat == .f32 && e) (.of .illegal) = none := excIf_false (by simpa using hel)
  obtain ⟨hr, hc⟩ := laneChecks_none h hillegal
  unfold execCvtsc
  exact issue_next hr hc

theorem execPack2_run (h : s.laneReady [vd.toNat, va.toNat, vb.toNat] [] (fopnds (s.tagOf va.toNat) 0 (.v va) packTag ++ fopnds (s.tagOf va.toNat) 1 (.v vb) (· == s.tagOf va.toNat)) = true)
    (h64 : s.tagOf va.toNat = .f64 → va.toNat % 2 = 0 ∧ vb.toNat % 2 = 0) :
    execPack2 m vd va vb dtag u rm sat s = .next ((s.vwrite vd.toNat dtag (fun l => BitVec.ofNat 32 (packElems 16
      [convert (s.tagOf va.toNat) u dtag u rm sat (s.fbits (s.tagOf va.toNat) 0 (.v va) l),
        convert (s.tagOf va.toNat) u dtag u rm sat (s.fbits (s.tagOf va.toNat) 1 (.v vb) l)]))).finish m 8) := by
  refine lan_next h ?_
  rw [oddExc_v_none fun ht => (h64 ht).1, oddExc_v_none fun ht => (h64 ht).2]
  rfl

theorem execPack4_run
    (h : s.laneReady [vd.toNat, va.toNat, va.toNat + 3] [] ((pack4Src (s.tagOf va.toNat) va).map (fun x => fopnds (s.tagOf va.toNat) 0 x (fun y => packTag y && y == s.tagOf va.toNat))).flatten = true)
    (h64 : s.tagOf va.toNat = .f64 → va.toNat % 8 = 0) (hconv : convertible (s.tagOf va.toNat) dtag = true) :
    execPack4 m vd va dtag u rm sat s = .next ((s.vwrite vd.toNat dtag (fun l =>
      BitVec.ofNat 32 (packElems 8 ((pack4Src (s.tagOf va.toNat) va).map (fun y => convert (s.tagOf va.toNat) u dtag u rm sat (s.fbits (s.tagOf va.toNat) 0 y l)))))).finish m 8) := by
  have hbase : excIf (s.tagOf va.toNat == .f64 && va.toNat % 8 != 0) (.det .tag 0) = none :=
    excIf_false (by by_cases ht : s.tagOf va.toNat = .f64 <;> simp [ht, h64])
  refine lan_next h ?_
  rw [hbase, excIf_false (by rw [hconv]; rfl)]
  rfl

theorem execUnpack_run (h : s.laneReady [vd.toNat, va.toNat] [] [.v 0 va.toNat packedTag] = true) (hi32 : dtag = .i32 → s.tagOf va.toNat = .i8x4)
    (hbase : vd.toNat % (s.tagOf va.toNat).count = 0) (hlim : vd.toNat + (s.tagOf va.toNat).count ≤ s.vLimit) :
    execUnpack m vd va dtag u rm s = .next ((s.vwriteAll vd.toNat dtag (s.tagOf va.toNat).count (fun k l =>
      BitVec.ofNat 32 (convert (s.tagOf va.toNat) u dtag u rm false (s.elemBits (s.tagOf va.toNat) va.toNat k l)))).finish m 8) := by
  have hillegal : excIf (packedTag (s.tagOf va.toNat) && s.tagOf va.toNat != .i8x4 && dtag == .i32) (.of .illegal) = none :=
    excIf_false (by by_cases ht : dtag = .i32 <;> simp [ht, hi32])
  have hdest : excIf (vd.toNat % (s.tagOf va.toNat).count != 0 || decide (s.vLimit < vd.toNat + (s.tagOf va.toNat).count)) (.of .tag) = none :=
    excIf_false (by simp [hbase, hlim])
  obtain ⟨hr, hc⟩ := laneChecks_none h hillegal
  unfold execUnpack
  refine issue_next hr ?_
  rw [firstExc_append_none hc, hdest]
  rfl

end

end Sys2Proof.Machine

open Sys2Proof Sys2Proof.Machine in
/-- Settles O7: the hypotheses of each clause are the checks of its instruction, so that its effect runs. -/
theorem laneConversions : Obligations.LaneConversions := by
  intro s m u sat e vd va vb dtag el rm
  refine ⟨?cvt, ?cvtsc, ?pack2, ?pack4, ?unpack, fun h => ?tagset, fun h => ?tagget⟩
  case cvt =>
    rintro ⟨hready, hel, h64, hconv⟩
    exact execCvt_run hready hel h64 hconv
  case cvtsc =>
    rintro ⟨hready, hel⟩
    exact execCvtsc_run hready hel
  case pack2 =>
    rintro ⟨hready, h64⟩
    exact execPack2_run hready h64
  case pack4 =>
    rintro ⟨hready, h64, hconv⟩
    exact execPack4_run hready h64 hconv
  case unpack =>
    rintro ⟨hready, hi32, hbase, hlim⟩
    exact execUnpack_run hready hi32 hbase hlim
  case tagset =>
    change execTagset m vd va dtag s = _
    exact lan_run h
  case tagget =>
    change execTagget m vd va s = _
    exact lan_run h

namespace Sys2Proof.Machine

theorem wordOfBool_beq (a b : Word) : wordOfBool (a == b) = if a = b then 1 else 0 := by
  simp [wordOfBool]

theorem wordOfBool_bne (a b : Word) : wordOfBool (a != b) = if a = b then 0 else 1 := by
  by_cases h : a = b <;> simp [wordOfBool, h]

end Sys2Proof.Machine

open Sys2Proof Sys2Proof.Machine in
/-- Settles O8: an exchange is the shuffle or the quad form with its source lane, a vote the vote form with its word; the rest are forms of their own without further checks. -/
theorem laneExchanges : Obligations.LaneExchanges := by
  intro s m vd va vb ge c w k op sr
  refine ⟨shuffle_run (fun n _ x => x % n), shuffle_run (fun _ i x => if x ≤ i then i - x else i), shuffle_run (fun n i x => if i + x < n then i + x else i),
    shuffle_run (fun n i x => Nat.xor i (x % n)), quad_run (Nat.xor · 1), quad_run (Nat.xor · 2), quad_run (Nat.xor · 3), quad_run (fun _ => k.toNat),
    vote_run (s.ballotMask va.toNat), fun h => ?voteall, fun h => ?voteany, vote_run _, vote_run _, fun h => ?redux, fun h => ⟨?laneid, ?readsr⟩⟩
  case voteall =>
    simp only [← wordOfBool_beq]
    exact vote_run (wordOfBool (s.ballotMask va.toNat == s.curLanes)) h
  case voteany =>
    simp only [← wordOfBool_bne]
    exact vote_run (wordOfBool (s.ballotMask va.toNat != 0)) h
  case redux =>
    change execRedux m ge va op s = _
    exact lan_run h
  case laneid =>
    change execLaneid m vd s = _
    exact lan_run h
  case readsr =>
    change execReadsr m vd sr s = _
    exact lan_run h
namespace Sys2Proof.Machine

/-! ### Bit fields -/

/-- A field of n bits is negative where its top bit is set, and then its copies stand above it. -/
theorem getLsbD_sext {n : Nat} (hn : 0 < n) (x : Nat) {i : Nat} (hi : i < 32) :
    (wordOfInt (sext n x)).getLsbD i = if i < n then x.testBit i else x.testBit (n - 1) := by
  have hsext : sext n x = (BitVec.ofNat n x).toInt := by
    rw [BitVec.toInt_eq_toNat_cond, BitVec.toNat_ofNat, sext]
    have hpow : 2 ^ n = 2 * 2 ^ (n - 1) := by rw [← pow_succ', Nat.sub_add_cancel hn]
    congr 1
    exact propext (by omega)
  have hword : wordOfInt (sext n x) = (BitVec.ofNat n x).signExtend 32 := by rw [hsext]; rfl
  rw [hword, BitVec.getLsbD_signExtend, BitVec.msb_eq_getLsbD_last]
  simp only [BitVec.getLsbD_ofNat, hi, decide_true, Bool.true_and]
  split
  · next h => simp [h]
  · simp [hn]

theorem testBit_movedDown (a : Word) (p i : Nat) : (a.toNat / 2 ^ p).testBit i = a.getLsbD (p + i) := by
  rw [Nat.testBit_div_two_pow, BitVec.testBit_toNat, Nat.add_comm]

theorem testBit_field (a : Word) (p n i : Nat) : (a.toNat / 2 ^ p % 2 ^ n).testBit i = (decide (i < n) && a.getLsbD (p + i)) := by
  rw [Nat.testBit_mod_two_pow, testBit_movedDown]

theorem getLsbD_bitExtract_unsigned (a posw lenw : Word) {i : Nat} (hi : i < 32) :
    let p := min (posw.toNat % 256) 32
    let n := min (lenw.toNat % 256) (32 - p)
    (bitExtract a posw lenw false).getLsbD i = (decide (i < n) && a.getLsbD (p + i)) := by
  intro p n
  simp only [bitExtract, Bool.false_and, Bool.false_eq_true, if_false, BitVec.getLsbD_ofNat, testBit_field, hi, decide_true, Bool.true_and, p, n]

theorem getLsbD_bitExtract_signed (a posw lenw : Word) {i : Nat} (hi : i < 32) :
    let p := min (posw.toNat % 256) 32
    let n := min (lenw.toNat % 256) (32 - p)
    (bitExtract a posw lenw true).getLsbD i = (if i < n then a.getLsbD (p + i) else decide (0 < n) && a.getLsbD (p + n - 1)) := by
  intro p n
  by_cases hn : 0 < n
  · have hx : bitExtract a posw lenw true = wordOfInt (sext n (a.toNat / 2 ^ p % 2 ^ n)) := by simp [bitExtract, p, n, hn]
    have htop : p + (n - 1) = p + n - 1 := by omega
    rw [hx, getLsbD_sext hn _ hi, testBit_field, testBit_field, htop]
    split
    · next h => simp [h]
    · simp [hn]
  · have hx : bitExtract a posw lenw true = BitVec.ofNat 32 (a.toNat / 2 ^ p % 2 ^ n) := by simp [bitExtract, p, n, hn]
    rw [hx, BitVec.getLsbD_ofNat, testBit_field]
    simp [hn, show ¬ i < n by omega]

/-- The bits of a mask of n ones from bit p. -/
theorem testBit_fieldMask (p n i : Nat) : ((2 ^ n - 1) * 2 ^ p).testBit i = (decide (p ≤ i) && decide (i < p + n)) := by
  rw [Nat.testBit_mul_two_pow, Nat.testBit_two_pow_sub_one]
  by_cases h : p ≤ i <;> simp [h]; omega

theorem getLsbD_bitInsert (a base posw lenw : Word) {i : Nat} (hi : i < 32) :
    let p := min (posw.toNat % 256) 32
    let n := min (lenw.toNat % 256) (32 - p)
    (bitInsert a base posw lenw).getLsbD i = (if p ≤ i ∧ i < p + n then a.getLsbD (i - p) else base.getLsbD i) := by
  intro p n
  have hmask : (BitVec.ofNat 32 ((2 ^ n - 1) * 2 ^ p)).getLsbD i = decide (p ≤ i ∧ i < p + n) := by
    rw [BitVec.getLsbD_ofNat, testBit_fieldMask]
    simp [hi]
  have hsrc : (BitVec.ofNat 32 (a.toNat * 2 ^ p)).getLsbD i = (decide (p ≤ i) && a.getLsbD (i - p)) := by
    rw [BitVec.getLsbD_ofNat, Nat.testBit_mul_two_pow, BitVec.testBit_toNat]
    simp [hi]
  change ((base &&& ~~~_) ||| (_ &&& _)).getLsbD i = _
  rw [BitVec.getLsbD_or, BitVec.getLsbD_and, BitVec.getLsbD_and, BitVec.getLsbD_not, hmask, hsrc]
  by_cases h : p ≤ i ∧ i < p + n
  · simp [h]
  · simp [h, hi]

end Sys2Proof.Machine

open Sys2Proof Sys2Proof.Machine in
/-- Settles O4: a field is a quotient and a remainder by powers of two, so that its bits are the source's moved down. -/
theorem bitFields : Obligations.BitFields := by
  intro a base posw lenw i hi
  exact ⟨getLsbD_bitExtract_unsigned a posw lenw hi, getLsbD_bitExtract_signed a posw lenw hi, getLsbD_bitInsert a base posw lenw hi⟩

/-! PROOFS, 04 R107 to R110, 01 R24: float lane instructions of one source. Rounding to nearest is within a half of the spacing; the approximate functions and their references follow from it. -/

namespace Sys2Proof.Machine

/-! ### Fractions as rationals -/

/-- The rational that a fraction of the model stands for. -/
def ratio (x : Nat × Nat) : ℚ := x.1 / x.2

/-- The same of a signed fraction. -/
def signedRatio (y : Int × Nat) : ℚ := y.1 / y.2

theorem scaled_den_pos (m p q : Nat) : 0 < (scaled m p q).2 := by
  unfold scaled
  split
  · exact Nat.one_pos
  · exact Nat.two_pow_pos _

theorem ratio_scaled (m p q : Nat) : ratio (scaled m p q) = m * 2 ^ ((p : ℤ) - q) := by
  unfold ratio scaled
  split
  · next h => rw [← Nat.cast_sub h, zpow_natCast]; simp
  · next h =>
    have hneg : (p : ℤ) - q = -((q - p : Nat) : ℤ) := by omega
    rw [hneg, zpow_neg, zpow_natCast, div_eq_mul_inv]
    simp

/-- `within` says that the distance of two rationals is at most a third. -/
theorem within_fin_iff {a : Bool} {n d : Nat} {y : Int × Nat} {b : Nat × Nat} (hd : 0 < d) (hy : 0 < y.2) (hb : 0 < b.2) :
    within (.fin a n d) y b = true ↔ |signedRatio (Val.frac (.fin a n d)) - signedRatio y| ≤ ratio b := by
  have hd' : (0 : ℚ) < d := by exact_mod_cast hd
  have hy' : (0 : ℚ) < y.2 := by exact_mod_cast hy
  have hb' : (0 : ℚ) < b.2 := by exact_mod_cast hb
  generalize hx : (Val.frac (.fin a n d)).1 = x
  have hxd : (Val.frac (.fin a n d)).2 = d := rfl
  have hcast : ((x * y.2 - y.1 * d).natAbs : ℚ) = |(x * y.2 - y.1 * d : ℚ)| := by
    rw [Nat.cast_natAbs]; push_cast; rfl
  have hdiff : (x / d - y.1 / y.2 : ℚ) = (x * y.2 - y.1 * d) / (d * y.2) := by field_simp
  simp only [within, signedRatio, ratio, hx, hxd, decide_eq_true_eq]
  rw [hdiff, abs_div, abs_of_pos (mul_pos hd' hy'), div_le_div_iff₀ (mul_pos hd' hy') hb', ← hcast]
  exact_mod_cast Iff.rfl

/-! ### The exponent of a fraction -/

section
variable {num den : Nat}

theorem two_pow_log2_le (h : 0 < num) : (2 : ℚ) ^ (num.log2 : ℤ) ≤ num := by
  rw [zpow_natCast]
  exact_mod_cast Nat.log2_self_le h.ne'

theorem lt_two_pow_log2 (num : Nat) : (num : ℚ) < 2 ^ ((num.log2 : ℤ) + 1) := by
  have h : num < 2 ^ (num.log2 + 1) := Nat.lt_log2_self
  exact_mod_cast h

/-- What `log2Floor` compares: the power of two of its first guess with the fraction. -/
theorem log2Floor_guess (hd : 0 < den) (e bias : Nat) : (scaled den e bias).1 ≤ num * (scaled den e bias).2 ↔ (2 : ℚ) ^ ((e : ℤ) - bias) ≤ num / den := by
  have hs : (0 : ℚ) < (scaled den e bias).2 := by exact_mod_cast scaled_den_pos den e bias
  have hd' : (0 : ℚ) < den := by exact_mod_cast hd
  have hr := ratio_scaled den e bias
  rw [le_div_iff₀ hd', mul_comm (2 ^ _ : ℚ), ← hr, ratio, div_le_iff₀ hs]
  exact_mod_cast Iff.rfl

/-- The fraction is below the power of two after its exponent's, and not below that of its exponent where that is not cut at 0. -/
theorem log2Floor_spec (hn : 0 < num) (hd : 0 < den) (bias : Nat) :
    (num / den : ℚ) < 2 ^ ((log2Floor num den bias : ℤ) + 1 - bias) ∧ (1 ≤ log2Floor num den bias → (2 : ℚ) ^ ((log2Floor num den bias : ℤ) - bias) ≤ num / den) := by
  have hd' : (0 : ℚ) < den := by exact_mod_cast hd
  have hup : (num / den : ℚ) < 2 ^ ((num.log2 : ℤ) + 1 - den.log2) := by
    rw [div_lt_iff₀ hd', zpow_sub₀ two_ne_zero]
    calc (num : ℚ) < 2 ^ ((num.log2 : ℤ) + 1) := lt_two_pow_log2 num
      _ = 2 ^ ((num.log2 : ℤ) + 1) / 2 ^ (den.log2 : ℤ) * 2 ^ (den.log2 : ℤ) := by field_simp
      _ ≤ 2 ^ ((num.log2 : ℤ) + 1) / 2 ^ (den.log2 : ℤ) * den := by gcongr; exact two_pow_log2_le hd
  have hlow : (2 : ℚ) ^ ((num.log2 : ℤ) - (den.log2 + 1)) ≤ num / den := by
    rw [le_div_iff₀ hd', zpow_sub₀ two_ne_zero]
    calc (2 : ℚ) ^ (num.log2 : ℤ) / 2 ^ ((den.log2 : ℤ) + 1) * den ≤ 2 ^ (num.log2 : ℤ) / 2 ^ ((den.log2 : ℤ) + 1) * 2 ^ ((den.log2 : ℤ) + 1) := by
          gcongr; exact (lt_two_pow_log2 den).le
      _ = 2 ^ (num.log2 : ℤ) := by field_simp
      _ ≤ num := two_pow_log2_le hn
  generalize he : num.log2 + bias + 1 - den.log2 - 1 = e
  have hfloor : log2Floor num den bias = if (2 : ℚ) ^ ((e : ℤ) - bias) ≤ num / den then e else e - 1 := by
    simp only [log2Floor, he, log2Floor_guess hd]
  rw [hfloor]
  split
  · next h => exact ⟨hup.trans_le (zpow_le_zpow_right₀ one_le_two (by omega)), fun _ => h⟩
  · next h =>
    refine ⟨(not_le.1 h).trans_le (zpow_le_zpow_right₀ one_le_two (by omega)), fun h1 => ?_⟩
    exact (zpow_le_zpow_right₀ one_le_two (by omega)).trans hlow

end

/-! ### Rounding to FP32 -/

/-- The exponent field under which a magnitude is rounded, that of subnormal numbers at the least (01 R24). -/
def ulpExp (num den : Nat) : Nat := if num = 0 then 1 else max 1 (log2Floor num den 127)

/-- The spacing of FP32 at a magnitude. -/
def ulp (num den : Nat) : ℚ := 2 ^ ((ulpExp num den : ℤ) - 150)

theorem ulp_pos (num den : Nat) : 0 < ulp num den := zpow_pos two_pos _

theorem one_le_ulpExp (num den : Nat) : 1 ≤ ulpExp num den := by
  unfold ulpExp
  split <;> omega

section
variable {num den : Nat}

theorem lt_of_ulpExp (hn : 0 < num) (hd : 0 < den) : (num / den : ℚ) < 2 ^ 24 * ulp num den := by
  have hexp : log2Floor num den 127 ≤ ulpExp num den := by simp [ulpExp, hn.ne']
  have hpow : (2 : ℚ) ^ 24 * ulp num den = 2 ^ ((ulpExp num den : ℤ) - 126) := by
    rw [ulp, ← zpow_natCast, ← zpow_add₀ two_ne_zero]
    congr 1
    push_cast
    ring
  rw [hpow]
  exact (log2Floor_spec hn hd 127).1.trans_le (zpow_le_zpow_right₀ one_le_two (by push_cast; omega))

/-- Above the subnormal numbers a magnitude has all 24 bits. -/
theorem le_of_ulpExp (hd : 0 < den) (h1 : ulpExp num den ≠ 1) : 2 ^ 23 * ulp num den ≤ (num / den : ℚ) := by
  have hn : num ≠ 0 := fun h => h1 (by simp [ulpExp, h])
  have hexp : ulpExp num den = log2Floor num den 127 := by
    simp only [ulpExp, hn, if_false] at h1 ⊢
    omega
  have hpow : (2 : ℚ) ^ 23 * ulp num den = 2 ^ ((log2Floor num den 127 : ℤ) - 127) := by
    rw [ulp, hexp, ← zpow_natCast, ← zpow_add₀ two_ne_zero]
    congr 1
    push_cast
    ring
  rw [hpow]
  exact (log2Floor_spec (Nat.pos_of_ne_zero hn) hd 127).2 (hexp ▸ one_le_ulpExp num den)

/-- A magnitude not above 2^j, j not below the smallest exponent, has a spacing of 2^(j − 23) at most. -/
theorem ulpExp_le (hd : 0 < den) {j : ℤ} (hj : -126 ≤ j) (h : (num / den : ℚ) ≤ 2 ^ j) : (ulpExp num den : ℤ) ≤ j + 127 := by
  by_cases h1 : ulpExp num den = 1
  · omega
  · have hle : (2 : ℚ) ^ ((ulpExp num den : ℤ) - 127) ≤ 2 ^ j := by
      refine le_trans (le_of_eq ?_) ((le_of_ulpExp hd h1).trans h)
      rw [ulp, ← zpow_natCast, ← zpow_add₀ two_ne_zero]
      congr 1
      push_cast
      ring
    have := (zpow_le_zpow_iff_right₀ (one_lt_two (α := ℚ))).1 hle
    omega

/-- A quotient rounded to nearest is within a half of it. -/
theorem abs_nearest_sub_le (neg : Bool) {a d : Nat} (hd : 0 < d) :
    |((if roundsUp .rn neg (a / d) (a % d) d then a / d + 1 else a / d : Nat) : ℚ) - a / d| ≤ 1 / 2 := by
  have hd' : (0 : ℚ) < d := by exact_mod_cast hd
  have ha : (a : ℚ) = d * (a / d : Nat) + (a % d : Nat) := by exact_mod_cast (Nat.div_add_mod a d).symm
  have hq : (a / d : ℚ) = (a / d : Nat) + (a % d : Nat) / d := by rw [ha]; field_simp
  have hr : ((a % d : Nat) : ℚ) / d ≤ 1 := (div_le_one hd').2 (by exact_mod_cast (Nat.mod_lt a hd).le)
  have hr0 : (0 : ℚ) ≤ ((a % d : Nat) : ℚ) / d := by positivity
  rw [hq]
  split
  · next h =>
    have hle : d ≤ 2 * (a % d) := by
      simp only [roundsUp, Bool.or_eq_true, Bool.and_eq_true, decide_eq_true_eq] at h
      omega
    have : (1 / 2 : ℚ) ≤ ((a % d : Nat) : ℚ) / d := by
      rw [div_le_div_iff₀ two_pos hd']
      exact_mod_cast (by omega : 1 * d ≤ a % d * 2)
    push_cast
    rw [abs_le]
    constructor <;> linarith
  · next h =>
    have hle : 2 * (a % d) ≤ d := by
      simp only [roundsUp, Bool.or_eq_true, Bool.and_eq_true, decide_eq_true_eq, not_or] at h
      omega
    have : ((a % d : Nat) : ℚ) / d ≤ 1 / 2 := by
      rw [div_le_div_iff₀ hd' two_pos]
      exact_mod_cast (by omega : a % d * 2 ≤ 1 * d)
    rw [abs_le]
    constructor <;> linarith

/-- The fraction that `roundMag` divides out: the magnitude in units of its spacing. -/
theorem quantum_ratio (num den e : Nat) :
    ratio (if e ≤ 150 then (num * 2 ^ (150 - e), den) else (num, den * 2 ^ (e - 150))) = num / den / 2 ^ ((e : ℤ) - 150) := by
  unfold ratio
  split
  · next h =>
    have : (e : ℤ) - 150 = -((150 - e : Nat) : ℤ) := by omega
    rw [this, zpow_neg, zpow_natCast]
    push_cast
    field_simp
  · next h =>
    have : (e : ℤ) - 150 = ((e - 150 : Nat) : ℤ) := by omega
    rw [this, zpow_natCast]
    push_cast
    field_simp

/-- A magnitude rounded to nearest is a whole number m of its spacing, a half of one away at most; the code is m above that of its exponent. -/
theorem roundMag_spec (neg : Bool) (hn : 0 < num) (hd : 0 < den) :
    ∃ m, Fmt.fp32.roundMag .rn neg num den = (ulpExp num den - 1) * 2 ^ 23 + m ∧ |m * ulp num den - num / den| ≤ ulp num den / 2 ∧
      m ≤ 2 ^ 24 ∧ (ulpExp num den = 1 ∨ 2 ^ 23 ≤ m) := by
  have hu := ulp_pos num den
  generalize hr : (if ulpExp num den ≤ 150 then (num * 2 ^ (150 - ulpExp num den), den) else (num, den * 2 ^ (ulpExp num den - 150))) = r
  have hr2 : 0 < r.2 := by
    rw [← hr]
    split
    · exact hd
    · exact Nat.mul_pos hd (Nat.two_pow_pos _)
  have hratio : (r.1 / r.2 : ℚ) = num / den / ulp num den := by
    rw [ulp, ← quantum_ratio, hr, ratio]
  have hnear := abs_nearest_sub_le neg (a := r.1) hr2
  have hcode : Fmt.fp32.roundMag .rn neg num den =
      (ulpExp num den - 1) * 2 ^ 23 + (if roundsUp .rn neg (r.1 / r.2) (r.1 % r.2) r.2 then r.1 / r.2 + 1 else r.1 / r.2) := by
    rw [← hr]
    simp only [Fmt.roundMag, ulpExp, hn.ne', if_false]
    rfl
  have hq : r.1 / r.2 < 2 ^ 24 := by
    rw [Nat.div_lt_iff_lt_mul hr2]
    have : (r.1 / r.2 : ℚ) < 2 ^ 24 := by rw [hratio, div_lt_iff₀ hu]; exact lt_of_ulpExp hn hd
    rw [div_lt_iff₀ (by exact_mod_cast hr2)] at this
    exact_mod_cast this
  have hfull : ulpExp num den = 1 ∨ 2 ^ 23 ≤ r.1 / r.2 := by
    refine or_iff_not_imp_left.2 fun h1 => ?_
    rw [Nat.le_div_iff_mul_le hr2]
    have : (2 ^ 23 : ℚ) ≤ r.1 / r.2 := by rw [hratio, le_div_iff₀ hu]; exact le_of_ulpExp hd h1
    rw [le_div_iff₀ (by exact_mod_cast hr2)] at this
    exact_mod_cast this
  refine ⟨_, hcode, ?_, ?_, ?_⟩
  · have hscale : ∀ x : ℚ, x * ulp num den - num / den = (x - r.1 / r.2) * ulp num den := fun x => by rw [hratio]; field_simp
    rw [hscale, abs_mul, abs_of_pos hu, div_eq_mul_one_div (ulp num den), mul_comm (ulp num den)]
    exact mul_le_mul_of_nonneg_right hnear hu.le
  · split <;> omega
  · rcases hfull with h | h
    · exact .inl h
    · right; split <;> omega

end

/-! ### Values of FP32 codes -/

/-- Exponent field and fraction of a finite code, as `Fmt.value` scales them. -/
def magnitude (c : Nat) : Nat × Nat := if c / 2 ^ 23 = 0 then scaled (c % 2 ^ 23) 1 150 else scaled (2 ^ 23 + c % 2 ^ 23) (c / 2 ^ 23) 150

/-- A code is infinite, a NaN, or the signed magnitude of its low 31 bits. -/
theorem value_fp32 (a : Nat) : Fmt.fp32.value a =
    if a % 2 ^ 31 = 0x7F800000 then .inf (decide (a / 2 ^ 31 % 2 = 1)) else if 0x7F7FFFFF < a % 2 ^ 31 then .nan
    else .fin (decide (a / 2 ^ 31 % 2 = 1)) (magnitude (a % 2 ^ 31)).1 (magnitude (a % 2 ^ 31)).2 := by
  simp only [Fmt.value, Fmt.fp32, Fmt.mag, Option.some.injEq, magnitude, eq_comm (a := 0x7F800000)]
  rfl

/-- The sign is the bit above a magnitude code. -/
theorem signed_fp32_parts (neg : Bool) {c : Nat} (h : c < 2 ^ 31) :
    Fmt.fp32.signed neg c % 2 ^ 31 = c ∧ decide (Fmt.fp32.signed neg c / 2 ^ 31 % 2 = 1) = neg := by
  have hsigned : Fmt.fp32.signed neg c = if neg then 2 ^ 31 + c else c := rfl
  rw [hsigned]
  cases neg
  · simp only [Bool.false_eq_true, if_false, decide_eq_false_iff_not]
    omega
  · simp only [if_true, decide_eq_true_eq]
    omega

theorem value_signed (neg : Bool) {c : Nat} (h : c ≤ 0x7F7FFFFF) : Fmt.fp32.value (Fmt.fp32.signed neg c) = .fin neg (magnitude c).1 (magnitude c).2 := by
  obtain ⟨hmag, hneg⟩ := signed_fp32_parts neg (show c < 2 ^ 31 by omega)
  rw [value_fp32, hmag, hneg, if_neg (by omega), if_neg (by omega)]

theorem value_signed_inf (neg : Bool) : Fmt.fp32.value (Fmt.fp32.signed neg 0x7F800000) = .inf neg := by
  obtain ⟨hmag, hneg⟩ := signed_fp32_parts neg (show 0x7F800000 < 2 ^ 31 by omega)
  rw [value_fp32, hmag, hneg, if_pos rfl]

theorem magnitude_den_pos (c : Nat) : 0 < (magnitude c).2 := by
  unfold magnitude
  split <;> exact scaled_den_pos ..

/-- The code m above that of an exponent e stands for m units of e, subnormal or normal, also where m carries into the exponent. -/
theorem ratio_magnitude {e m : Nat} (he : 1 ≤ e) (hm : m ≤ 2 ^ 24) (hfull : e = 1 ∨ 2 ^ 23 ≤ m) : ratio (magnitude ((e - 1) * 2 ^ 23 + m)) = m * 2 ^ ((e : ℤ) - 150) := by
  unfold magnitude
  rcases Nat.lt_or_ge m (2 ^ 23) with hsub | hnorm
  · obtain rfl : e = 1 := hfull.resolve_right (by omega)
    rw [if_pos (by omega), ratio_scaled, show ((1 - 1) * 2 ^ 23 + m) % 2 ^ 23 = m by omega]
    norm_num
  · rw [if_neg (by omega), ratio_scaled]
    rcases Nat.lt_or_ge m (2 ^ 24) with hlt | hge
    · rw [show 2 ^ 23 + ((e - 1) * 2 ^ 23 + m) % 2 ^ 23 = m by omega, show ((e - 1) * 2 ^ 23 + m) / 2 ^ 23 = e by omega]
      rfl
    · obtain rfl : m = 2 ^ 24 := le_antisymm hm hge
      rw [show 2 ^ 23 + ((e - 1) * 2 ^ 23 + 2 ^ 24) % 2 ^ 23 = 2 ^ 23 by omega, show ((e - 1) * 2 ^ 23 + 2 ^ 24) / 2 ^ 23 = e + 1 by omega]
      have hstep : ((e + 1 : Nat) : ℤ) - (150 : Nat) = (e - 150) + 1 := by push_cast; ring
      rw [hstep, zpow_add_one₀ two_ne_zero]
      push_cast
      ring

/-- A finite FP32 value lies below 2^128 and, if it is not zero, not below 2^(−149). -/
theorem value_fin_bounds {a : Nat} {sg : Bool} {n d : Nat} (h : Fmt.fp32.value a = .fin sg n d) : 0 < d ∧ (n / d : ℚ) < 2 ^ 128 ∧ (n ≠ 0 → (1 / 2 ^ 149 : ℚ) ≤ n / d) := by
  rw [value_fp32] at h
  split_ifs at h with hinf hnan
  simp only [Val.fin.injEq] at h
  obtain ⟨-, rfl, rfl⟩ := h
  generalize a % 2 ^ 31 = c at hinf hnan
  refine ⟨magnitude_den_pos c, ?_⟩
  obtain ⟨e, m, hc, he, he', hm, hfull⟩ : ∃ e m, c = (e - 1) * 2 ^ 23 + m ∧ 1 ≤ e ∧ e ≤ 254 ∧ m < 2 ^ 24 ∧ (e = 1 ∨ 2 ^ 23 ≤ m) := by
    by_cases h0 : c / 2 ^ 23 = 0
    · exact ⟨1, c, by omega, by omega, by omega, by omega, .inl rfl⟩
    · exact ⟨c / 2 ^ 23, 2 ^ 23 + c % 2 ^ 23, by omega, by omega, by omega, by omega, .inr (by omega)⟩
  have hratio : ((magnitude c).1 / (magnitude c).2 : ℚ) = m * 2 ^ ((e : ℤ) - 150) := hc ▸ ratio_magnitude he hm.le hfull
  have hmq : (m : ℚ) < 2 ^ 24 := by exact_mod_cast hm
  refine ⟨?_, fun hn => ?_⟩
  · calc ((magnitude c).1 / (magnitude c).2 : ℚ) = m * 2 ^ ((e : ℤ) - 150) := hratio
      _ < 2 ^ 24 * 2 ^ ((e : ℤ) - 150) := by gcongr
      _ ≤ 2 ^ 24 * 2 ^ (104 : ℤ) := by
        have : (2 : ℚ) ^ ((e : ℤ) - 150) ≤ 2 ^ (104 : ℤ) := zpow_le_zpow_right₀ one_le_two (by omega)
        gcongr
      _ = 2 ^ 128 := by norm_num
  · have hm0 : m ≠ 0 := by
      rintro rfl
      have hd : ((magnitude c).2 : ℚ) ≠ 0 := by exact_mod_cast (magnitude_den_pos c).ne'
      have hn' : ((magnitude c).1 : ℚ) ≠ 0 := by exact_mod_cast hn
      simp [hd, hn'] at hratio
    have hm1 : (1 : ℚ) ≤ m := by exact_mod_cast Nat.pos_of_ne_zero hm0
    calc (1 / 2 ^ 149 : ℚ) = 1 * 2 ^ (-149 : ℤ) := by norm_num
      _ ≤ m * 2 ^ ((e : ℤ) - 150) := by
        have : (2 : ℚ) ^ (-149 : ℤ) ≤ 2 ^ ((e : ℤ) - 150) := zpow_le_zpow_right₀ one_le_two (by omega)
        gcongr
      _ = (magnitude c).1 / (magnitude c).2 := hratio.symm

/-! ### Rounding to nearest -/

section
variable {num den : Nat}

/-- Rounded to nearest, a fraction becomes infinite, or a whole number of its spacing a half of one away at most; the second if it is not above 2^127. -/
theorem rn_fin_cases (neg : Bool) (hd : 0 < den) :
    (Fmt.fp32.value (Fmt.fp32.rn (.fin neg num den)) = .inf neg ∧ (2 ^ 127 : ℚ) < num / den) ∨
    ∃ (m p q : Nat), Fmt.fp32.value (Fmt.fp32.rn (.fin neg num den)) = .fin neg p q ∧ 0 < q ∧ (p / q : ℚ) = m * ulp num den ∧ |m * ulp num den - num / den| ≤ ulp num den / 2 := by
  rcases Nat.eq_zero_or_pos num with rfl | hn
  · refine .inr ⟨0, _, _, value_signed neg (c := 0) (by omega), magnitude_den_pos 0, by simp [magnitude, scaled], ?_⟩
    simpa using half_pos (ulp_pos 0 den) |>.le
  · obtain ⟨m, hcode, hnear, hm, hfull⟩ := roundMag_spec neg hn hd
    have he := one_le_ulpExp num den
    have hrn : Fmt.fp32.rn (.fin neg num den) =
        if 0x7F7FFFFF < (ulpExp num den - 1) * 2 ^ 23 + m then Fmt.fp32.signed neg 0x7F800000 else Fmt.fp32.signed neg ((ulpExp num den - 1) * 2 ^ 23 + m) := by
      rw [← hcode]
      rfl
    rw [hrn]
    split
    · next htop =>
      refine .inl ⟨value_signed_inf neg, lt_of_not_ge fun hle => ?_⟩
      have hexp := ulpExp_le hd (j := 127) (by omega) (by exact_mod_cast hle)
      have h254 : ulpExp num den = 254 := by omega
      have hu : ulp num den = 2 ^ 104 := by rw [ulp, h254]; norm_num
      have hbig : (2 ^ 24 : ℚ) ≤ m := by exact_mod_cast (by omega : 2 ^ 24 ≤ m)
      rw [hu] at hnear
      have := (abs_le.1 hnear).2
      linarith
    · next htop => exact .inr ⟨m, _, _, value_signed neg (by omega), magnitude_den_pos _, ratio_magnitude he hm hfull, hnear⟩

/-- A finite result is within a half of its spacing. -/
theorem rn_near {neg : Bool} (hd : 0 < den) (hfin : (Fmt.fp32.value (Fmt.fp32.rn (.fin neg num den))).isFin = true) :
    ∃ p q : Nat, Fmt.fp32.value (Fmt.fp32.rn (.fin neg num den)) = .fin neg p q ∧ 0 < q ∧ |(p / q - num / den : ℚ)| ≤ ulp num den / 2 := by
  rcases rn_fin_cases (num := num) neg hd with ⟨hinf, -⟩ | ⟨m, p, q, hv, hq, hpq, hnear⟩
  · simp [hinf, Val.isFin] at hfin
  · exact ⟨p, q, hv, hq, hpq ▸ hnear⟩

theorem rn_isFin (neg : Bool) (hd : 0 < den) (hle : (num / den : ℚ) ≤ 2 ^ 127) : (Fmt.fp32.value (Fmt.fp32.rn (.fin neg num den))).isFin = true := by
  rcases rn_fin_cases neg hd with ⟨-, hlt⟩ | ⟨_, _, _, hv, -⟩
  · exact absurd hle (not_le.2 hlt)
  · rw [hv]; rfl

/-- Powers of two in the range of FP32 are rounded to themselves. -/
theorem rn_two_zpow (neg : Bool) (hd : 0 < den) {j : ℤ} (hlo : -149 ≤ j) (hhi : j ≤ 127) (h : (num / den : ℚ) = 2 ^ j) :
    ∃ p q : Nat, Fmt.fp32.value (Fmt.fp32.rn (.fin neg num den)) = .fin neg p q ∧ 0 < q ∧ (p / q : ℚ) = 2 ^ j := by
  have hn : num ≠ 0 := by
    rintro rfl
    have := zpow_pos (two_pos (α := ℚ)) j
    simp at h
    linarith
  have hexp : (ulpExp num den : ℤ) - 150 ≤ j := by
    by_cases h1 : ulpExp num den = 1
    · omega
    · by_cases hj : -126 ≤ j
      · have := ulpExp_le hd hj h.le
        omega
      · have := ulpExp_le hd (j := -126) le_rfl (h.le.trans (zpow_le_zpow_right₀ one_le_two (by omega)))
        have := one_le_ulpExp num den
        omega
  obtain ⟨k, hk⟩ := Int.eq_ofNat_of_zero_le (Int.sub_nonneg.2 hexp)
  have hpow : (2 : ℚ) ^ j = (2 ^ k : Nat) * ulp num den := by
    rw [ulp, Nat.cast_pow, ← zpow_natCast, Nat.cast_ofNat, ← zpow_add₀ two_ne_zero]
    congr 1
    omega
  have hu := ulp_pos num den
  rcases rn_fin_cases neg hd with ⟨-, hlt⟩ | ⟨m, p, q, hv, hq, hpq, hnear⟩
  · rw [h] at hlt
    exact absurd (zpow_le_zpow_right₀ (one_le_two (α := ℚ)) hhi) (not_le.2 (by exact_mod_cast hlt))
  · refine ⟨p, q, hv, hq, ?_⟩
    rw [h, hpow, ← sub_mul, abs_mul, abs_of_pos hu, div_eq_mul_one_div, mul_comm] at hnear
    have hhalf : |((m : ℤ) - (2 ^ k : Nat) : ℚ)| ≤ 1 / 2 := by exact_mod_cast le_of_mul_le_mul_left hnear hu
    have hint : |(m : ℤ) - (2 ^ k : Nat)| < 1 := by
      have : (|(m : ℤ) - (2 ^ k : Nat)| : ℚ) < 1 := lt_of_le_of_lt hhalf (by norm_num)
      exact_mod_cast this
    have hm : m = 2 ^ k := by
      have := Int.abs_lt_one_iff.1 hint
      omega
    rw [hpq, hpow, hm]

end

/-! ### Bounds of an approximation -/

section
variable {y : Int × Nat}

theorem ulps_den_pos (near : Bool) (k : Nat) (y : Int × Nat) : 0 < (ulps near k y).2 := scaled_den_pos ..

theorem ratio_ulps_eq (near : Bool) (k : Nat) (y : Int × Nat) :
    ratio (ulps near k y) = (if near then k * 2 ^ 20 - 1 else k * 2 ^ 20 : Nat) / 2 ^ 20 * ulp y.1.natAbs y.2 := by
  have hexp : (if y.1 = 0 then 1 else max 1 (log2Floor y.1.natAbs y.2 127)) = ulpExp y.1.natAbs y.2 := by simp only [ulpExp, Int.natAbs_eq_zero]
  have hsplit : (ulpExp y.1.natAbs y.2 : ℤ) - (150 + 20 : Nat) = (ulpExp y.1.natAbs y.2 - 150) - (20 : Nat) := by push_cast; ring
  rw [ulps, ratio_scaled, hexp, hsplit, zpow_sub₀ two_ne_zero, zpow_natCast, ulp, mul_div_assoc', div_mul_eq_mul_div]

theorem ratio_ulps (k : Nat) (y : Int × Nat) : ratio (ulps false k y) = k * ulp y.1.natAbs y.2 := by
  rw [ratio_ulps_eq, if_neg Bool.false_ne_true, Nat.cast_mul, Nat.cast_pow, Nat.cast_ofNat, mul_div_cancel_right₀ _ (by norm_num)]

/-- Near a reference that is not exact, the bound is 2^(−20) of a spacing short. -/
theorem ratio_ulps_near {k : Nat} (hk : 0 < k) (y : Int × Nat) : ratio (ulps true k y) = (k - 1 / 2 ^ 20) * ulp y.1.natAbs y.2 := by
  rw [ratio_ulps_eq, if_pos rfl, Nat.cast_sub (by omega), Nat.cast_mul, Nat.cast_pow, Nat.cast_ofNat, Nat.cast_one, sub_div, mul_div_cancel_right₀ _ (by norm_num)]

theorem ratio_ulps_near_le {k : Nat} (hk : 0 < k) (y : Int × Nat) : ratio (ulps true k y) ≤ ratio (ulps false k y) := by
  rw [ratio_ulps, ratio_ulps_near hk]
  have := ulp_pos y.1.natAbs y.2
  linarith

/-- A value within a bound of a number is within any larger one. -/
theorem within_mono {v : Val} {b b' : Nat × Nat} (h : within v y b = true) (hb : 0 < b.2) (hb' : 0 < b'.2) (hle : ratio b ≤ ratio b') : within v y b' = true := by
  cases v with
  | nan => exact h
  | inf => exact h
  | fin a n d =>
    have hbq : (0 : ℚ) < b.2 := by exact_mod_cast hb
    have hbq' : (0 : ℚ) < b'.2 := by exact_mod_cast hb'
    have hcross : b.1 * b'.2 ≤ b'.1 * b.2 := by
      rw [ratio, ratio, div_le_div_iff₀ hbq hbq'] at hle
      exact_mod_cast hle
    simp only [within, decide_eq_true_eq] at h ⊢
    refine Nat.le_of_mul_le_mul_right ?_ hb
    calc _ = ((Val.frac (.fin a n d)).1 * y.2 - y.1 * (Val.frac (.fin a n d)).2).natAbs * b.2 * b'.2 := by ring
      _ ≤ b.1 * ((Val.frac (.fin a n d)).2 * y.2) * b'.2 := Nat.mul_le_mul_right _ h
      _ = b.1 * b'.2 * ((Val.frac (.fin a n d)).2 * y.2) := by ring
      _ ≤ b'.1 * b.2 * ((Val.frac (.fin a n d)).2 * y.2) := Nat.mul_le_mul_right _ hcross
      _ = b'.1 * ((Val.frac (.fin a n d)).2 * y.2) * b.2 := by ring

theorem signedRatio_frac (neg : Bool) (n d : Nat) : signedRatio (Val.frac (.fin neg n d)) = (if neg then -1 else 1) * (n / d) := by
  cases neg <;> simp [signedRatio, Val.frac, neg_div]

/-- A finite value rounded to nearest is within every bound of a half of the spacing or more. -/
theorem within_rn {neg : Bool} {num den : Nat} {b : Nat × Nat} (hd : 0 < den) (hb : 0 < b.2) (hu : ulp num den / 2 ≤ ratio b)
    (hfin : (Fmt.fp32.value (Fmt.fp32.rn (.fin neg num den))).isFin = true) :
    within (Fmt.fp32.value (Fmt.fp32.rn (.fin neg num den))) (Val.frac (.fin neg num den)) b = true := by
  obtain ⟨p, q, hv, hq, hnear⟩ := rn_near hd hfin
  rw [hv, within_fin_iff hq (show 0 < (Val.frac (.fin neg num den)).2 from hd) hb, signedRatio_frac, signedRatio_frac, ← mul_sub, abs_mul]
  have hsign : |(if neg then -1 else 1 : ℚ)| = 1 := by cases neg <;> simp
  rw [hsign, one_mul]
  exact hnear.trans hu

/-- A number is its sign and magnitude again. -/
theorem frac_natAbs (y : Int × Nat) : Val.frac (.fin (decide (y.1 < 0)) y.1.natAbs y.2) = y := by
  by_cases h : y.1 < 0
  · simp [Val.frac, h, abs_of_neg h]
  · simp [Val.frac, h, abs_of_nonneg (not_lt.1 h)]

/-- An approximation is the free bits, which then lie within the bound, or the reference rounded to nearest. -/
theorem pick_cases (fn a : Nat) (y : Int × Nat) (bound : Nat × Nat) :
    within (Fmt.fp32.value (pick fn a y bound)) y bound = true ∨ pick fn a y bound = Fmt.fp32.rn (.fin (decide (y.1 < 0)) y.1.natAbs y.2) := by
  unfold pick
  dsimp only
  split
  · next h => exact .inl h
  · exact .inr rfl

/-- An approximation that is finite lies within its bound, if that is a half of the spacing or more. -/
theorem within_pick {fn a : Nat} {bound : Nat × Nat} (hy : 0 < y.2) (hb : 0 < bound.2) (hu : ulp y.1.natAbs y.2 / 2 ≤ ratio bound)
    (hfin : (Fmt.fp32.value (pick fn a y bound)).isFin = true) : within (Fmt.fp32.value (pick fn a y bound)) y bound = true := by
  rcases pick_cases fn a y bound with h | h
  · exact h
  · rw [h] at hfin ⊢
    have := within_rn hy hb hu hfin
    rwa [frac_natAbs] at this

theorem isFin_of_within {v : Val} {b : Nat × Nat} (h : within v y b = true) : v.isFin = true := by
  cases v with
  | nan => simp [within] at h
  | inf => simp [within] at h
  | fin => rfl

theorem pick_isFin {fn a : Nat} {bound : Nat × Nat} (hy : 0 < y.2) (hle : (y.1.natAbs / y.2 : ℚ) ≤ 2 ^ 127) : (Fmt.fp32.value (pick fn a y bound)).isFin = true := by
  rcases pick_cases fn a y bound with h | h
  · exact isFin_of_within h
  · rw [h]
    exact rn_isFin _ hy hle

/-- The absolute bound of 2^(−22), its shortfall left out, of a reference not above 2 in magnitude. -/
theorem within_pick_absBound {fn a : Nat} (hy : 0 < y.2) (hle : (y.1.natAbs / y.2 : ℚ) ≤ 2) :
    within (Fmt.fp32.value (pick fn a y absBound)) y (1, 2 ^ 22) = true := by
  have hexp := ulpExp_le hy (j := 1) (by omega) (hle.trans (by norm_num))
  have hulp : ulp y.1.natAbs y.2 ≤ 2 ^ (-22 : ℤ) := zpow_le_zpow_right₀ one_le_two (by omega)
  have hfin := pick_isFin (fn := fn) (a := a) (bound := absBound) hy (hle.trans (by norm_num))
  refine within_mono (within_pick hy (by decide) ?_ hfin) (by decide) (by norm_num) ?_
  · refine (div_le_div_of_nonneg_right hulp two_pos.le).trans ?_
    norm_num [ratio, absBound]
  · norm_num [ratio, absBound]

end

section
variable {a n d : Nat} {sg : Bool}

/-! ### FRCP -/

theorem isPow2_mul_two_pow (hd : 0 < d) (k : Nat) : isPow2 (d * 2 ^ k) d = true := by
  have hg : Nat.gcd (d * 2 ^ k) d = d := Nat.gcd_eq_right (Nat.dvd_mul_right d _)
  simp [isPow2, hg, Nat.mul_div_cancel_left _ hd, Nat.div_self hd, Nat.log2_def 1]

theorem isPow2_of_mul_two_pow (hn : 0 < n) (k : Nat) : isPow2 n (n * 2 ^ k) = true := by
  have hg : Nat.gcd n (n * 2 ^ k) = n := Nat.gcd_eq_left (Nat.dvd_mul_right n _)
  simp [isPow2, hg, Nat.mul_div_cancel_left _ hn, Nat.div_self hn, Nat.log2_def 1]

theorem frcp32_fin (h : Fmt.fp32.value a = .fin sg n d) (hn : n ≠ 0) :
    frcp32 a = if isPow2 n d || !(Fmt.fp32.value (Fmt.fp32.rn (.fin sg d n))).isFin then Fmt.fp32.rn (.fin sg d n)
      else pick 2 a (if sg then -(d : Int) else (d : Int), n) (ulps false 1 ((d : Int), n)) := by
  simp only [frcp32, h, hn, if_false]

/-- The reciprocal of a power of two is exact where it is in the range of FP32. -/
theorem frcp32_two_zpow (h : Fmt.fp32.value a = .fin sg n d) (hn : n ≠ 0) (hp : isPow2 n d = true) {j : ℤ} (hlo : -149 ≤ j) (hhi : j ≤ 127) (hj : (d / n : ℚ) = 2 ^ j) :
    ∃ p q, Fmt.fp32.value (frcp32 a) = .fin sg p q ∧ p * n = q * d := by
  obtain ⟨p, q, hv, hq, hpq⟩ := rn_two_zpow sg (Nat.pos_of_ne_zero hn) hlo hhi hj
  refine ⟨p, q, ?_, ?_⟩
  · rw [frcp32_fin h hn, hp]
    exact hv
  · rw [← hj, div_eq_div_iff (by exact_mod_cast hq.ne') (by exact_mod_cast hn)] at hpq
    rw [Nat.mul_comm q d]
    exact_mod_cast hpq

theorem frcp32_exact (h : Fmt.fp32.value a = .fin sg n d) {k : Nat} (hn : n ≠ 0) (hk : n = d * 2 ^ k ∨ d = n * 2 ^ k ∧ k < 128) :
    ∃ p q, Fmt.fp32.value (frcp32 a) = .fin sg p q ∧ p * n = q * d := by
  obtain ⟨hd, hlt, -⟩ := value_fin_bounds h
  have hd' : (d : ℚ) ≠ 0 := by exact_mod_cast hd.ne'
  have hn' : (n : ℚ) ≠ 0 := by exact_mod_cast hn
  rcases hk with rfl | ⟨rfl, hk⟩
  · have hpow : (2 : ℚ) ^ k < 2 ^ 128 := by
      push_cast at hlt
      rwa [mul_div_cancel_left₀ _ hd'] at hlt
    have hk : k < 128 := (pow_lt_pow_iff_right₀ (one_lt_two (α := ℚ))).1 hpow
    refine frcp32_two_zpow h hn (isPow2_mul_two_pow hd k) (j := -k) (by omega) (by omega) ?_
    push_cast
    rw [zpow_neg, zpow_natCast]
    field_simp
  · refine frcp32_two_zpow h hn (isPow2_of_mul_two_pow (Nat.pos_of_ne_zero hn) k) (j := k) (by omega) (by omega) ?_
    push_cast
    rw [zpow_natCast]
    field_simp

theorem frcp32_within (h : Fmt.fp32.value a = .fin sg n d) (hn : n ≠ 0) (hfin : (Fmt.fp32.value (frcp32 a)).isFin = true) :
    within (Fmt.fp32.value (frcp32 a)) (if sg then -(d : Int) else (d : Int), n) (ulps false 1 ((d : Int), n)) = true := by
  have hn0 := Nat.pos_of_ne_zero hn
  have hu : ulp d n / 2 ≤ ratio (ulps false 1 ((d : Int), n)) := by
    rw [ratio_ulps, Int.natAbs_natCast, Nat.cast_one, one_mul]
    exact half_le_self (ulp_pos d n).le
  have hy : ((if sg then -(d : Int) else (d : Int), n) : Int × Nat).1.natAbs = d := by cases sg <;> simp
  rw [frcp32_fin h hn] at hfin ⊢
  split at hfin <;> rename_i hc
  · rw [if_pos hc]
    exact within_rn (neg := sg) hn0 (ulps_den_pos ..) hu hfin
  · rw [if_neg hc]
    exact within_pick hn0 (ulps_den_pos ..) (by rwa [hy]) hfin

/-! ### FRSQ -/

theorem isqrtFrom_spec {x : Nat} (b r : Nat) (hlo : r * r ≤ x) (hhi : x < (r + 2 ^ (b + 1)) * (r + 2 ^ (b + 1))) :
    isqrtFrom x b r * isqrtFrom x b r ≤ x ∧ x < (isqrtFrom x b r + 1) * (isqrtFrom x b r + 1) := by
  induction b generalizing r with
  | zero =>
    unfold isqrtFrom
    split
    · next h => exact ⟨h, hhi⟩
    · next h => exact ⟨hlo, not_le.1 h⟩
  | succ b ih =>
    unfold isqrtFrom
    split
    · next h => exact ih _ h (by rwa [Nat.add_assoc, ← Nat.two_mul, ← pow_succ'])
    · next h => exact ih _ hlo (not_le.1 h)

theorem isqrt_spec (x : Nat) : isqrt x * isqrt x ≤ x ∧ x < (isqrt x + 1) * (isqrt x + 1) := by
  refine isqrtFrom_spec _ 0 (Nat.zero_le x) ?_
  calc x < 2 ^ (x.log2 + 1) := Nat.lt_log2_self
    _ ≤ 2 ^ ((x.log2 / 2 + 1 + 1) + (x.log2 / 2 + 1 + 1)) := Nat.pow_le_pow_right two_pos (by omega)
    _ = (0 + 2 ^ (x.log2 / 2 + 1 + 1)) * (0 + 2 ^ (x.log2 / 2 + 1 + 1)) := by rw [pow_add, Nat.zero_add]

/-- The scale under which the root of d/n is taken has at least 43 bits of it. -/
theorem sqrtFrac_scale (hn : 0 < n) (hd : 0 < d) (k : Nat) (hk : 108 + n.log2 ≤ k) : 2 ^ 43 ≤ isqrt (d * 2 ^ (2 * k) / n) := by
  have hlog : n < 2 ^ (n.log2 + 1) := Nat.lt_log2_self
  have hx : 2 ^ 86 ≤ d * 2 ^ (2 * k) / n := by
    rw [Nat.le_div_iff_mul_le hn]
    calc 2 ^ 86 * n ≤ 2 ^ 86 * 2 ^ (n.log2 + 1) := Nat.mul_le_mul_left _ hlog.le
      _ = 2 ^ (86 + (n.log2 + 1)) := (pow_add ..).symm
      _ ≤ 2 ^ (2 * k) := Nat.pow_le_pow_right two_pos (by omega)
      _ ≤ d * 2 ^ (2 * k) := Nat.le_mul_of_pos_left _ hd
  have hroot := (isqrt_spec (d * 2 ^ (2 * k) / n)).2
  by_contra hlt
  have : isqrt (d * 2 ^ (2 * k) / n) + 1 ≤ 2 ^ 43 := by omega
  have := Nat.mul_le_mul this this
  omega

/-- The numerator of the root: an even one where it is exact, else the odd one between. -/
theorem sqrtRef_numerator (hn : 0 < n) (hd : 0 < d) {k : Nat} (hk : 100 + 8 + n.log2 = k) :
    2 ^ 44 ≤ (sqrtFrac d n 100).1 ∧ (((sqrtFrac d n 100).1 : ℚ) - 1) ^ 2 ≤ 4 * (d * 2 ^ (2 * k) / n) ∧
      (4 * (d * 2 ^ (2 * k) / n) : ℚ) ≤ ((sqrtFrac d n 100).1 + 1) ^ 2 := by
  have hn' : (0 : ℚ) < n := by exact_mod_cast hn
  have hbig := sqrtFrac_scale hn hd k (by omega)
  generalize hx : d * 2 ^ (2 * k) / n = x at hbig
  have hw : (sqrtFrac d n 100).1 = if isqrt x * isqrt x == x && d * 2 ^ (2 * k) % n == 0 then 2 * isqrt x else 2 * isqrt x + 1 := by
    rw [← hx, ← hk]
    rfl
  obtain ⟨hlo, hhi⟩ := isqrt_spec x
  have hfloor : (x : ℚ) ≤ d * 2 ^ (2 * k) / n := by
    rw [le_div_iff₀ hn', ← hx]
    exact_mod_cast Nat.div_mul_le_self ..
  have hceil : (d * 2 ^ (2 * k) / n : ℚ) < x + 1 := by
    rw [div_lt_iff₀ hn', ← hx, mul_comm _ (n : ℚ)]
    exact_mod_cast Nat.lt_mul_div_succ _ hn
  generalize isqrt x = r at hlo hhi hbig hw
  have hlo' : (r * r : ℚ) ≤ x := by exact_mod_cast hlo
  have hhi' : (x + 1 : ℚ) ≤ (r + 1) * (r + 1) := by exact_mod_cast hhi
  have hr1 : (1 : ℚ) ≤ r := by exact_mod_cast (by omega : 1 ≤ r)
  split at hw
  · next hexact =>
    simp only [Bool.and_eq_true, beq_iff_eq] at hexact
    obtain ⟨hsq, hdvd⟩ := hexact
    have hX : (d * 2 ^ (2 * k) / n : ℚ) = (r * r : Nat) := by
      rw [div_eq_iff hn'.ne']
      rw [hsq, ← hx]
      exact_mod_cast (Nat.div_mul_cancel (Nat.dvd_of_mod_eq_zero hdvd)).symm
    rw [hX, hw]
    push_cast
    refine ⟨by omega, ?_, ?_⟩ <;> linarith
  · rw [hw]
    push_cast
    refine ⟨by omega, ?_, ?_⟩ <;> linarith

/-- The reference of FRSQ is correct to 2^(−44) of itself: the root of d/n lies between it less e and it plus e. -/
theorem sqrtRef_spec (hn : 0 < n) (hd : 0 < d) :
    ∃ e : ℚ, 0 < e ∧ 2 ^ 44 * e ≤ signedRatio (sqrtRef n d) ∧ (signedRatio (sqrtRef n d) - e) ^ 2 ≤ d / n ∧ (d / n : ℚ) ≤ (signedRatio (sqrtRef n d) + e) ^ 2 := by
  generalize hk : 100 + 8 + n.log2 = k
  obtain ⟨hbig, hlo, hhi⟩ := sqrtRef_numerator hn hd hk
  have href : signedRatio (sqrtRef n d) = ((sqrtFrac d n 100).1 : ℚ) / 2 ^ (k + 1) := by
    simp only [signedRatio, sqrtRef, sqrtFrac, hk]
    push_cast
    rfl
  generalize (sqrtFrac d n 100).1 = w at href hbig hlo hhi
  have hK : (0 : ℚ) < 2 ^ (k + 1) := by positivity
  have hscale : (4 * (d * 2 ^ (2 * k) / n) : ℚ) = d / n * (2 ^ (k + 1)) ^ 2 := by ring
  rw [hscale] at hlo hhi
  refine ⟨1 / 2 ^ (k + 1), by positivity, ?_, ?_, ?_⟩
  · rw [href, mul_one_div]
    gcongr
    exact_mod_cast hbig
  · rw [href, ← sub_div, div_pow, div_le_iff₀ (by positivity)]
    exact hlo
  · rw [href, ← add_div, div_pow, le_div_iff₀ (by positivity)]
    exact hhi

end

section
variable {a n d : Nat} {sg : Bool}

theorem sqrtRef_den_pos (n d : Nat) : 0 < (sqrtRef n d).2 := Nat.two_pow_pos _

theorem sqrtRef_nonneg (n d : Nat) : 0 ≤ (sqrtRef n d).1 := Int.natCast_nonneg _

theorem signedRatio_of_nonneg {y : Int × Nat} (h : 0 ≤ y.1) : signedRatio y = y.1.natAbs / y.2 := by
  rw [signedRatio, Nat.cast_natAbs, abs_of_nonneg h]

theorem frsq32_fin (h : Fmt.fp32.value a = .fin false n d) (hn : n ≠ 0) : frsq32 a = pick 3 a (sqrtRef n d) (ulps true 2 (sqrtRef n d)) := by
  simp [frsq32, h, hn]

/-- FRSQ's result is a positive number within its bound of the reference. -/
theorem frsq32_within (h : Fmt.fp32.value a = .fin false n d) (hn : n ≠ 0) :
    within (Fmt.fp32.value (frsq32 a)) (sqrtRef n d) (ulps true 2 (sqrtRef n d)) = true := by
  obtain ⟨hd, -, hlow⟩ := value_fin_bounds h
  have hn' : (0 : ℚ) < n := by exact_mod_cast Nat.pos_of_ne_zero hn
  have hd' : (0 : ℚ) < d := by exact_mod_cast hd
  obtain ⟨e, he, hbig, hlo, -⟩ := sqrtRef_spec (Nat.pos_of_ne_zero hn) hd
  have hu := ulp_pos (sqrtRef n d).1.natAbs (sqrtRef n d).2
  have hratio := signedRatio_of_nonneg (sqrtRef_nonneg n d)
  have hroot : (d / n : ℚ) ≤ 2 ^ 149 := by
    have := hlow hn
    rw [div_le_div_iff₀ (by positivity) hd'] at this
    rw [div_le_iff₀ hn']
    linarith
  have hsmall : signedRatio (sqrtRef n d) - e ≤ 2 ^ 75 := (abs_le_of_sq_le_sq' (hlo.trans (hroot.trans (by norm_num))) (by positivity)).2
  rw [frsq32_fin h hn]
  refine within_pick (sqrtRef_den_pos n d) (ulps_den_pos ..) ?_ (pick_isFin (sqrtRef_den_pos n d) ?_)
  · rw [ratio_ulps_near two_pos]
    push_cast
    linarith
  · rw [← hratio]
    linarith

/-- The reference of FRSQ is above two spacings. -/
theorem two_ulp_lt_sqrtRef (h : Fmt.fp32.value a = .fin false n d) (hn : n ≠ 0) :
    2 * ulp (sqrtRef n d).1.natAbs (sqrtRef n d).2 < signedRatio (sqrtRef n d) := by
  obtain ⟨hd, hhigh, -⟩ := value_fin_bounds h
  have hn' : (0 : ℚ) < n := by exact_mod_cast Nat.pos_of_ne_zero hn
  have hd' : (0 : ℚ) < d := by exact_mod_cast hd
  obtain ⟨e, he, hbig, -, hhi⟩ := sqrtRef_spec (Nat.pos_of_ne_zero hn) hd
  have hu := ulp_pos (sqrtRef n d).1.natAbs (sqrtRef n d).2
  have hratio := signedRatio_of_nonneg (sqrtRef_nonneg n d)
  have hroot : (1 / 2 ^ 128 : ℚ) < d / n := by
    rw [div_lt_iff₀ hd'] at hhigh
    rw [div_lt_div_iff₀ (by positivity) hn']
    linarith
  have hlow : (1 / 2 ^ 100 : ℚ) ≤ signedRatio (sqrtRef n d) := by
    by_contra hlt
    have hsum : signedRatio (sqrtRef n d) + e ≤ 1 / 2 ^ 99 := by linarith
    have hsq := pow_le_pow_left₀ (by linarith) hsum 2
    linarith
  by_cases h1 : ulpExp (sqrtRef n d).1.natAbs (sqrtRef n d).2 = 1
  · have : ulp (sqrtRef n d).1.natAbs (sqrtRef n d).2 = 1 / 2 ^ 149 := by rw [ulp, h1]; norm_num
    linarith
  · have := le_of_ulpExp (sqrtRef_den_pos n d) h1
    rw [← hratio] at this
    linarith

/-- The reference of FRSQ is 2^(−20) of a spacing from the root at the most. -/
theorem sqrtRef_near_root (h : Fmt.fp32.value a = .fin false n d) (hn : n ≠ 0) {u : ℚ} (hu : u = ulp (sqrtRef n d).1.natAbs (sqrtRef n d).2) :
    (signedRatio (sqrtRef n d) - u / 2 ^ 20) ^ 2 ≤ d / n ∧ (d / n : ℚ) ≤ (signedRatio (sqrtRef n d) + u / 2 ^ 20) ^ 2 := by
  obtain ⟨e, he, hbig, hlo, hhi⟩ := sqrtRef_spec (Nat.pos_of_ne_zero hn) (value_fin_bounds h).1
  have hpos := two_ulp_lt_sqrtRef h hn
  have hu0 := ulp_pos (sqrtRef n d).1.natAbs (sqrtRef n d).2
  have hratio := signedRatio_of_nonneg (sqrtRef_nonneg n d)
  have hnum : 0 < (sqrtRef n d).1.natAbs := by
    refine Nat.pos_of_ne_zero fun h0 => ?_
    rw [hratio, h0, Nat.cast_zero, zero_div] at hpos
    exact absurd (mul_pos two_pos (h0 ▸ hu0)) hpos.asymm
  have hlt := lt_of_ulpExp hnum (sqrtRef_den_pos n d)
  rw [← hratio] at hlt
  rw [← hu] at hpos hu0 hlt
  exact ⟨(pow_le_pow_left₀ (by linarith) (by linarith) 2).trans hlo, hhi.trans (pow_le_pow_left₀ (by linarith) (by linarith) 2)⟩

/-- A fraction is above and below the root of d/n by w if it is so as a rational. -/
theorem root_bounds {n d p q : Nat} {w : Nat × Nat} (hn : 0 < n) (hq : 0 < q) (hw : 0 < w.2) (hhi : (d / n : ℚ) ≤ (p / q + ratio w) ^ 2)
    (hlo : ratio w ≤ p / q → (p / q - ratio w) ^ 2 ≤ (d / n : ℚ)) :
    d * (q * w.2) ^ 2 ≤ (p * w.2 + w.1 * q) ^ 2 * n ∧ (w.1 * q ≤ p * w.2 → (p * w.2 - w.1 * q) ^ 2 * n ≤ d * (q * w.2) ^ 2) := by
  have hn' : (0 : ℚ) < n := by exact_mod_cast hn
  have hq' : (0 : ℚ) < q := by exact_mod_cast hq
  have hw' : (0 : ℚ) < w.2 := by exact_mod_cast hw
  have hqw : (0 : ℚ) < (q * w.2) ^ 2 := by positivity
  unfold ratio at hhi hlo
  constructor
  · rw [div_add_div _ _ hq'.ne' hw'.ne', div_pow, div_le_div_iff₀ hn' hqw, mul_comm (q : ℚ) w.1] at hhi
    exact_mod_cast hhi
  · intro hle
    have hle' : (w.1 / w.2 : ℚ) ≤ p / q := by
      rw [div_le_div_iff₀ hw' hq']
      exact_mod_cast hle
    have hsq := hlo hle'
    rw [div_sub_div _ _ hq'.ne' hw'.ne', div_pow, div_le_div_iff₀ hqw hn', mul_comm (q : ℚ) w.1] at hsq
    exact_mod_cast hsq

/-- What is within two spacings, less 2^(−20) of one, of the reference is within two of the root. -/
theorem frsq32_bound (h : Fmt.fp32.value a = .fin false n d) (hn : n ≠ 0) :
    ∃ p q u v, Fmt.fp32.value (frsq32 a) = .fin false p q ∧ (u, v) = ulps false 2 (sqrtRef n d) ∧
      d * (q * v) ^ 2 ≤ (p * v + u * q) ^ 2 * n ∧ (u * q ≤ p * v → (p * v - u * q) ^ 2 * n ≤ d * (q * v) ^ 2) := by
  have hpos := two_ulp_lt_sqrtRef h hn
  obtain ⟨hlo, hhi⟩ := sqrtRef_near_root h hn rfl
  have hu := ulp_pos (sqrtRef n d).1.natAbs (sqrtRef n d).2
  have hratio : ratio (ulps false 2 (sqrtRef n d)) = _ := ratio_ulps 2 (sqrtRef n d)
  have hw := frsq32_within h hn
  cases hval : Fmt.fp32.value (frsq32 a) with
  | nan => simp [hval, within] at hw
  | inf => simp [hval, within] at hw
  | fin neg p q =>
    have hq := (value_fin_bounds hval).1
    have hpq : (0 : ℚ) ≤ p / q := by positivity
    rw [hval, within_fin_iff hq (sqrtRef_den_pos n d) (ulps_den_pos ..), ratio_ulps_near two_pos, signedRatio_frac, abs_le] at hw
    obtain ⟨hwlo, hwhi⟩ := hw
    push_cast at hratio hwlo hwhi
    generalize ulp (sqrtRef n d).1.natAbs (sqrtRef n d).2 = x at *
    generalize signedRatio (sqrtRef n d) = y at *
    cases neg with
    | true =>
      simp only [if_true] at hwlo
      linarith
    | false =>
      simp only [Bool.false_eq_true, if_false, one_mul] at hwlo hwhi
      refine ⟨p, q, (ulps false 2 (sqrtRef n d)).1, (ulps false 2 (sqrtRef n d)).2, rfl, rfl, root_bounds (Nat.pos_of_ne_zero hn) hq (ulps_den_pos ..) ?_ fun hle => ?_⟩
      · rw [hratio]
        exact hhi.trans (pow_le_pow_left₀ (by linarith) (by linarith) 2)
      · rw [hratio] at hle ⊢
        exact (pow_le_pow_left₀ (by linarith) (by linarith) 2).trans hlo

end

section
variable {a n d : Nat} {sg : Bool}

/-! ### FEXP2 -/

theorem fexp232_fin (h : Fmt.fp32.value a = .fin sg n d) : fexp232 a =
    if 128 ≤ floorOf sg n d then 0x7F800000
    else if n % d = 0 ∧ -149 ≤ floorOf sg n d then Fmt.fp32.rn (.fin false (exp2Ref sg n d).1.natAbs (exp2Ref sg n d).2)
    else pick 5 a (exp2Ref sg n d) (ulps true 2 (exp2Ref sg n d)) := by
  simp only [fexp232, h]

theorem exp2Ref_den_pos (sg : Bool) (n d : Nat) : 0 < (exp2Ref sg n d).2 := by
  unfold exp2Ref
  dsimp only
  split
  · exact Nat.one_pos
  · exact scaled_den_pos ..

theorem exp2Ref_nonneg (sg : Bool) (n d : Nat) : 0 ≤ (exp2Ref sg n d).1 := by
  unfold exp2Ref
  dsimp only
  split
  · exact le_rfl
  · exact Int.natCast_nonneg _

theorem floorOf_mul (sg : Bool) (hd : 0 < d) (k : Nat) : floorOf sg (d * k) d = if sg then -(k : Int) else k := by
  cases sg <;> simp [floorOf, Nat.mul_div_cancel_left k hd]

/-- At a whole number the series has its first term alone. -/
theorem exp2Ref_mul (hd : 0 < d) {k : Nat} {i : Int} (hi : i = if sg then -(k : Int) else k) (hlow : -200 ≤ i) :
    exp2Ref sg (d * k) d = (((scaled (2 ^ 120) (i + 300).toNat (300 + 120)).1 : Int), (scaled (2 ^ 120) (i + 300).toNat (300 + 120)).2) := by
  have hfloor : floorOf sg (d * k) d = i := (floorOf_mul sg hd k).trans hi.symm
  have hfrac : ((d * k : Nat) : Int) * (if sg then -1 else 1) - i * d = 0 := by
    rw [hi]
    cases sg <;> simp [Int.mul_comm]
  have hseries : expSeries (Int.toNat 0 * ln2Fix / d) 40 0 (2 ^ 120) = 2 ^ 120 := by
    rw [Int.toNat_zero, Nat.zero_mul, Nat.zero_div]
    decide +kernel
  unfold exp2Ref
  simp only [hfloor, hfrac, hseries, if_neg (not_lt.2 hlow)]

/-- The reference at a whole number is the power of two. -/
theorem ratio_exp2Ref_mul (hd : 0 < d) {k : Nat} {i : Int} (hi : i = if sg then -(k : Int) else k) (hlow : -200 ≤ i) :
    ((exp2Ref sg (d * k) d).1.natAbs / (exp2Ref sg (d * k) d).2 : ℚ) = 2 ^ i := by
  have hratio := ratio_scaled (2 ^ 120) (i + 300).toNat (300 + 120)
  have hexp : ((i + 300).toNat : ℤ) - (300 + 120 : Nat) = i - (120 : Nat) := by omega
  rw [hexp, zpow_sub₀ two_ne_zero, zpow_natCast] at hratio
  rw [exp2Ref_mul hd hi hlow, Int.natAbs_natCast]
  refine hratio.trans ?_
  rw [Nat.cast_pow, Nat.cast_ofNat]
  field_simp

theorem fexp232_exact (hv : Fmt.fp32.value a = .fin sg (d * k) d) {i : Int} (hi : i = if sg then -(k : Int) else k) (hlow : -149 ≤ i) (hhigh : i < 128) :
    ∃ p q : Nat, Fmt.fp32.value (fexp232 a) = .fin false p q ∧ 0 < q ∧ (p / q : ℚ) = 2 ^ i := by
  have hd := (value_fin_bounds hv).1
  have hfloor : floorOf sg (d * k) d = i := (floorOf_mul sg hd k).trans hi.symm
  rw [fexp232_fin hv, hfloor, if_neg (by omega), if_pos ⟨Nat.mul_mod_right d k, hlow⟩]
  exact rn_two_zpow false (exp2Ref_den_pos ..) hlow (by omega) (ratio_exp2Ref_mul hd hi (by omega))

/-- Two to a whole number k, or to its negative, is exact. -/
theorem fexp232_whole (h : Fmt.fp32.value a = .fin sg n d) {k : Nat} (hk : n = d * k) :
    (sg = false → k < 128 → ∃ p q, Fmt.fp32.value (fexp232 a) = .fin false p q ∧ p = q * 2 ^ k) ∧
    (sg = true → k ≤ 149 → ∃ p q, Fmt.fp32.value (fexp232 a) = .fin false p q ∧ q = p * 2 ^ k) := by
  subst hk
  constructor
  · rintro rfl hk
    obtain ⟨p, q, hv, hq, hpq⟩ := fexp232_exact h (i := k) rfl (by omega) (by omega)
    refine ⟨p, q, hv, ?_⟩
    rw [zpow_natCast, div_eq_iff (by exact_mod_cast hq.ne'), mul_comm] at hpq
    exact_mod_cast hpq
  · rintro rfl hk
    obtain ⟨p, q, hv, hq, hpq⟩ := fexp232_exact h (i := -k) rfl (by omega) (by omega)
    refine ⟨p, q, hv, ?_⟩
    rw [zpow_neg, zpow_natCast, div_eq_iff (by exact_mod_cast hq.ne'), inv_mul_eq_div, eq_div_iff (by positivity)] at hpq
    exact_mod_cast hpq.symm

theorem fexp232_within (h : Fmt.fp32.value a = .fin sg n d) (hfin : (Fmt.fp32.value (fexp232 a)).isFin = true) :
    within (Fmt.fp32.value (fexp232 a)) (exp2Ref sg n d) (ulps false 2 (exp2Ref sg n d)) = true := by
  have hy := exp2Ref_den_pos sg n d
  have hu := ulp_pos (exp2Ref sg n d).1.natAbs (exp2Ref sg n d).2
  have hfrac : Val.frac (.fin false (exp2Ref sg n d).1.natAbs (exp2Ref sg n d).2) = exp2Ref sg n d := by
    rw [← decide_eq_false (not_lt.2 (exp2Ref_nonneg sg n d)), frac_natAbs]
  rw [fexp232_fin h] at hfin ⊢
  split_ifs at hfin ⊢
  · exact absurd hfin (by decide)
  · have := within_rn hy (ulps_den_pos false 2 (exp2Ref sg n d)) (by rw [ratio_ulps]; push_cast; linarith) hfin
    rwa [hfrac] at this
  · refine within_mono (within_pick hy (ulps_den_pos ..) ?_ hfin) (ulps_den_pos ..) (ulps_den_pos ..) (ratio_ulps_near_le two_pos _)
    rw [ratio_ulps_near two_pos]
    push_cast
    linarith

/-! ### FLOG2 -/

theorem flog232_fin (h : Fmt.fp32.value a = .fin false n d) (hn : n ≠ 0) : flog232 a =
    if n = d then 0 else pick 6 a (log2Ref n d) (if decide (d ≤ 2 * n) && decide (n ≤ 2 * d) then absBound else ulps true 2 (log2Ref n d)) := by
  simp [flog232, h, hn]

theorem logBits_lt (b m acc : Nat) : logBits b m acc < (acc + 1) * 2 ^ b := by
  induction b generalizing m acc with
  | zero => simp [logBits]
  | succ b ih =>
    unfold logBits
    have hpow : 2 ^ (b + 1) = 2 * 2 ^ b := pow_succ' 2 b
    dsimp only
    split
    · refine (ih _ _).trans_le ?_
      rw [hpow, ← Nat.mul_assoc]
      exact Nat.mul_le_mul_right _ (by omega)
    · refine (ih _ _).trans_le ?_
      rw [hpow, ← Nat.mul_assoc]
      exact Nat.mul_le_mul_right _ (by omega)

/-- The reference of FLOG2 lies from its exponent to the next. -/
theorem log2Ref_bounds (n d : Nat) : (((log2Floor n d 300 : Nat) : Int) - 300) * 2 ^ 64 ≤ (log2Ref n d).1 ∧ (log2Ref n d).1 < (((log2Floor n d 300 : Nat) : Int) - 299) * 2 ^ 64 := by
  obtain ⟨b, hb, href⟩ : ∃ b : Nat, b < 2 ^ 64 ∧ (log2Ref n d).1 = (((log2Floor n d 300 : Nat) : Int) - 300) * 2 ^ 64 + b :=
    ⟨_, (logBits_lt 64 _ 0).trans_le (by omega), rfl⟩
  omega

theorem log2Ref_natAbs_le {lo hi : Int} {b : Nat} (hlo : lo ≤ log2Floor n d 300) (hhi : log2Floor n d 300 ≤ hi) (hb : 300 - lo ≤ b) (hb' : hi - 299 ≤ b) :
    ((log2Ref n d).1.natAbs / (log2Ref n d).2 : ℚ) ≤ b := by
  obtain ⟨hl, hu⟩ := log2Ref_bounds n d
  have hle : (log2Ref n d).1.natAbs ≤ b * 2 ^ 64 := by omega
  have hden : ((log2Ref n d).2 : ℚ) = 2 ^ 64 := by
    change ((2 ^ 64 : Nat) : ℚ) = _
    norm_num
  rw [hden, div_le_iff₀ (by norm_num)]
  exact_mod_cast hle

theorem log2Floor_le_of_lt (hn : 0 < n) (hd : 0 < d) {j : ℤ} (hj : -300 ≤ j) (h : (n / d : ℚ) < 2 ^ (j + 1)) : (log2Floor n d 300 : ℤ) ≤ j + 300 := by
  by_cases h1 : 1 ≤ log2Floor n d 300
  · have := (zpow_lt_zpow_iff_right₀ (one_lt_two (α := ℚ))).1 (((log2Floor_spec hn hd 300).2 h1).trans_lt h)
    omega
  · omega

theorem le_log2Floor_of_le (hn : 0 < n) (hd : 0 < d) {j : ℤ} (h : (2 : ℚ) ^ j ≤ n / d) : j + 300 ≤ (log2Floor n d 300 : ℤ) := by
  have := (zpow_lt_zpow_iff_right₀ (one_lt_two (α := ℚ))).1 (h.trans_lt (log2Floor_spec hn hd 300).1)
  omega

/-- The reference of the logarithm of 1 is 0. -/
theorem log2Ref_self (hn : 0 < n) : log2Ref n n = (0, 2 ^ 64) := by
  have hn' : (n : ℚ) ≠ 0 := by exact_mod_cast hn.ne'
  have hexp : log2Floor n n 300 = 300 := by
    have hle := log2Floor_le_of_lt hn hn (j := 0) (by omega) (by rw [div_self hn']; norm_num)
    have hge := le_log2Floor_of_le hn hn (j := 0) (by rw [div_self hn']; norm_num)
    omega
  have hm : (scaled (n * 2 ^ 200) 300 300).1 / (n * (scaled (n * 2 ^ 200) 300 300).2) = 2 ^ 200 := by
    change n * 2 ^ 200 * 2 ^ (300 - 300) / (n * 1) = 2 ^ 200
    rw [Nat.sub_self, pow_zero, Nat.mul_one, Nat.mul_one, Nat.mul_div_cancel_left _ hn]
  have hbits : logBits 64 (2 ^ 200) 0 = 0 := by decide +kernel
  simp only [log2Ref, hexp, hm, hbits]
  rfl

theorem flog232_within (h : Fmt.fp32.value a = .fin false n d) (hn : n ≠ 0) :
    within (Fmt.fp32.value (flog232 a)) (log2Ref n d) (if d ≤ 2 * n ∧ n ≤ 2 * d then (1, 2 ^ 22) else ulps false 2 (log2Ref n d)) = true := by
  obtain ⟨hd, hhigh, -⟩ := value_fin_bounds h
  have hn0 := Nat.pos_of_ne_zero hn
  have hd' : (0 : ℚ) < d := by exact_mod_cast hd
  have hy : 0 < (log2Ref n d).2 := Nat.two_pow_pos 64
  have hu := ulp_pos (log2Ref n d).1.natAbs (log2Ref n d).2
  rw [flog232_fin h hn]
  by_cases hnd : n = d
  · subst hnd
    rw [if_pos rfl, log2Ref_self hn0, if_pos (by omega)]
    decide +kernel
  rw [if_neg hnd]
  by_cases hnear : d ≤ 2 * n ∧ n ≤ 2 * d
  · rw [if_pos hnear, if_pos (by simpa using hnear)]
    obtain ⟨hlo, hhi⟩ := hnear
    have hge := le_log2Floor_of_le hn0 hd (j := -1) (by
      rw [le_div_iff₀ hd', zpow_neg_one, inv_mul_le_iff₀ two_pos]
      exact_mod_cast hlo)
    have hle := log2Floor_le_of_lt hn0 hd (j := 1) (by omega) (by
      rw [div_lt_iff₀ hd']
      have : (n : ℚ) ≤ 2 * d := by exact_mod_cast hhi
      norm_num
      linarith)
    exact within_pick_absBound hy (log2Ref_natAbs_le (b := 2) hge hle (by omega) (by omega))
  · rw [if_neg hnear, if_neg (by simpa using hnear)]
    have hle := log2Floor_le_of_lt hn0 hd (j := 127) (by omega) (by exact_mod_cast hhigh)
    have hfin := pick_isFin (fn := 6) (a := a) (bound := ulps true 2 (log2Ref n d)) hy
      ((log2Ref_natAbs_le (lo := 0) (b := 300) (by omega) hle (by omega) (by omega)).trans (by norm_num))
    refine within_mono (within_pick hy (ulps_den_pos ..) ?_ hfin) (ulps_den_pos ..) (ulps_den_pos ..) (ratio_ulps_near_le two_pos _)
    rw [ratio_ulps_near two_pos]
    push_cast
    linarith

/-! ### FSIN and FCOS -/

/-- The code at q quarters of a turn, of a negative argument if sg, of a zero if zero. -/
def quarterCode (cos sg zero : Bool) (q : Nat) : Nat :=
  let q := if sg then (4 - q) % 4 else q
  let k := if cos then (q + 1) % 4 else q
  if k = 1 then 0x3F800000 else if k = 3 then 0xBF800000 else if zero ∧ sg ∧ !cos then 0x80000000 else 0

/-- The reference at q quarters of a turn. -/
def quarterRef (cos sg : Bool) (q : Nat) : Int × Nat :=
  let u : Int := ((q * twoPiFix / 4 : Nat) : Int)
  let t := if cos then trigSeries u 30 0 ((2 ^ 120 : Nat) : Int) else trigSeries u 30 1 u
  (if sg && !cos then -t else t, 2 ^ 120)

theorem ftrig32_fin (h : Fmt.fp32.value a = .fin sg n d) (cos : Bool) : ftrig32 cos a =
    if 4 * (n % d) % d = 0 then quarterCode cos sg (decide (n = 0)) (4 * (n % d) / d) else pick (if cos then 8 else 7) a (trigRef cos sg n d) absBound := by
  simp only [ftrig32, h, quarterCode, decide_eq_true_eq]

/-- At a quarter of a turn the series is taken at that quarter of 2π. -/
theorem trigRef_quarter (hd : 0 < d) (hq : 4 * (n % d) % d = 0) (cos sg : Bool) : trigRef cos sg n d = quarterRef cos sg (4 * (n % d) / d) := by
  have hdiv : d * (4 * (n % d) / d) = 4 * (n % d) := Nat.mul_div_cancel' (Nat.dvd_of_mod_eq_zero hq)
  have harg : n % d * twoPiFix / d = 4 * (n % d) / d * twoPiFix / 4 := by
    rw [← Nat.mul_div_mul_left _ d (by omega : 0 < 4), ← Nat.mul_assoc, ← hdiv, Nat.mul_assoc d, Nat.mul_comm 4 d, Nat.mul_div_mul_left _ 4 hd, hdiv]
  simp only [trigRef, quarterRef, harg]

theorem quarter_within : ∀ cos sg zero : Bool, ∀ q < 4, within (Fmt.fp32.value (quarterCode cos sg zero q)) (quarterRef cos sg q) (1, 2 ^ 22) = true := by
  decide +kernel

theorem quarter_lt (hd : 0 < d) (n : Nat) : 4 * (n % d) / d < 4 := by
  rw [Nat.div_lt_iff_lt_mul hd]
  have := Nat.mod_lt n hd
  omega

theorem ftrig32_within (h : Fmt.fp32.value a = .fin sg n d) (cos : Bool) (hle : (trigRef cos sg n d).1.natAbs ≤ 2 ^ 121) :
    within (Fmt.fp32.value (ftrig32 cos a)) (trigRef cos sg n d) (1, 2 ^ 22) = true := by
  have hd := (value_fin_bounds h).1
  rw [ftrig32_fin h]
  split
  · next hq =>
    rw [trigRef_quarter hd hq]
    exact quarter_within _ _ _ _ (quarter_lt hd n)
  · refine within_pick_absBound (y := trigRef cos sg n d) (Nat.two_pow_pos 120) ?_
    change (_ / ((2 ^ 120 : Nat) : ℚ)) ≤ 2
    rw [div_le_iff₀ (by norm_num)]
    exact_mod_cast hle

/-- The quarters of a turn, which a negative argument counts backwards. -/
theorem quarterCode_eq : ∀ sg : Bool, ∀ q < 4,
    let i := if sg then (4 - q) % 4 else q
    quarterCode false sg false q = [0, 0x3F800000, 0, 0xBF800000].getD i 0 ∧ quarterCode true sg false q = [0x3F800000, 0, 0xBF800000, 0].getD i 0 := by
  decide

theorem ftrig32_quarter (h : Fmt.fp32.value a = .fin sg n d) {k : Nat} (hn : n ≠ 0) (hk : 4 * n = d * k) (cos : Bool) : ftrig32 cos a = quarterCode cos sg false (k % 4) := by
  have hd := (value_fin_bounds h).1
  have hmod : 4 * (n % d) = d * (k % 4) := by
    rw [← Nat.mul_mod_mul_left, hk, Nat.mul_comm 4 d, Nat.mul_mod_mul_left]
  rw [ftrig32_fin h, hmod, if_pos (Nat.mul_mod_right ..), Nat.mul_div_cancel_left _ hd, decide_eq_false hn]

end

/-! ### Special values of the approximate functions -/

section
variable {a d : Nat} {sg : Bool}

theorem approx_nan (h : Fmt.fp32.value a = .nan) :
    frcp32 a = Fmt.fp32.nan ∧ frsq32 a = Fmt.fp32.nan ∧ fexp232 a = Fmt.fp32.nan ∧ flog232 a = Fmt.fp32.nan ∧ ∀ c, ftrig32 c a = Fmt.fp32.nan := by
  simp only [frcp32, frsq32, fexp232, flog232, ftrig32, h, implies_true, and_self]

theorem approx_inf (h : Fmt.fp32.value a = .inf sg) :
    frcp32 a = (if sg then 0x80000000 + 0 else 0) ∧ frsq32 a = (if sg then Fmt.fp32.nan else 0) ∧ fexp232 a = (if sg then 0 else 0x7F800000) ∧
      flog232 a = (if sg then Fmt.fp32.nan else 0x7F800000) ∧ ∀ c, ftrig32 c a = Fmt.fp32.nan := by
  simp only [frcp32, frsq32, fexp232, flog232, ftrig32, h, implies_true, and_true]
  rfl

/-- Two to the power of a zero is 1. -/
theorem fexp232_zero (h : Fmt.fp32.value a = .fin sg 0 d) : fexp232 a = 0x3F800000 := by
  have hd := (value_fin_bounds h).1
  have hfloor : floorOf sg 0 d = 0 := by cases sg <;> exact floorOf_mul _ hd 0
  have href := exp2Ref_mul (sg := sg) hd (k := 0) (i := 0) (by simp) (by omega)
  rw [Nat.mul_zero] at href
  rw [fexp232_fin h, hfloor, if_neg (by omega), if_pos ⟨Nat.zero_mod d, by omega⟩, href]
  decide +kernel

theorem approx_zero (h : Fmt.fp32.value a = .fin sg 0 d) :
    frcp32 a = (if sg then 0x80000000 + 0x7F800000 else 0x7F800000) ∧ frsq32 a = (if sg then 0x80000000 + 0x7F800000 else 0x7F800000) ∧ fexp232 a = 0x3F800000 ∧
      flog232 a = 0xFF800000 ∧ ftrig32 false a = (if sg then 0x80000000 + 0 else 0) ∧ ftrig32 true a = 0x3F800000 := by
  refine ⟨?_, ?_, fexp232_zero h, ?_, ?_, ?_⟩
  · simp only [frcp32, h, if_true]
    cases sg <;> rfl
  · simp only [frsq32, h, if_true]
    cases sg <;> rfl
  · simp only [flog232, h, if_true]
  · rw [ftrig32_fin h]
    cases sg <;> simp [quarterCode]
  · rw [ftrig32_fin h]
    cases sg <;> simp [quarterCode]

end

end Sys2Proof.Machine

open Sys2Proof Sys2Proof.Machine in
/-- Settles O5: each instruction is the one-source float form; an approximation is the free bits inside its bound, or its reference rounded to nearest, which is within a half of the spacing. -/
theorem laneFloatUnary : Obligations.LaneFloatUnary := by
  intro s m vd va rm
  refine ⟨float1_run (viaFp32 frcp32), float1_run (viaFp32 frsq32), float1_run (viaFp32 fexp232), float1_run (viaFp32 flog232), float1_run (viaFp32 (ftrig32 false)),
    float1_run (viaFp32 (ftrig32 true)), float1_run (fsqrt rm), float1_run fabs, float1_run fneg, float1_run (frint .rd), float1_run (frint .ru), float1_run (frint .rz),
    float1_run (frint rm), fun a => ⟨approx_nan, fun sg => approx_inf, fun sg n d h => ?_⟩⟩
  refine ⟨?zero, ?negative, fun k => frcp32_exact h, fun k => fexp232_whole h, ?one, ?quarter, frcp32_within h, ?frsq, fexp232_within h, ?log, ftrig32_within h⟩
  case zero =>
    rintro rfl
    exact approx_zero h
  case negative =>
    rintro hn rfl
    simp only [frsq32, flog232, h, hn, if_false, if_true, and_self]
  case one =>
    rintro rfl rfl
    rw [flog232_fin h (value_fin_bounds h).1.ne', if_pos rfl]
  case quarter =>
    intro k hn hk
    dsimp only
    rw [ftrig32_quarter h hn hk, ftrig32_quarter h hn hk]
    exact quarterCode_eq sg (k % 4) (Nat.mod_lt k (by omega))
  case frsq =>
    rintro hn rfl
    exact frsq32_bound h hn
  case log =>
    rintro hn rfl
    exact flog232_within h hn

/-! PROOFS, 05 R125 to R129: uniform instructions that write registers, and uniform branches, run for an issuer that is ready for them. -/

namespace Sys2Proof.Machine

/-! ### The shared forms -/

section
variable {s : State} {m : Bool} {gd ga gb gc : BitVec 9}

theorem gImm_run {reads : List Nat} (f : Word → Word) (h : s.uniReady .any false [gd.toNat] reads = true) :
    gImm s m gd reads f = .next ((s.writeU gd.toNat (f (s.readU 0 gd.toNat))).finish m 4) :=
  uni_run h

theorem g1_run {len : Nat} (f : Word → Word) (h : s.uniReady .any false [gd.toNat, ga.toNat] [ga.toNat] = true) :
    g1 s m len gd ga f = .next ((s.writeU gd.toNat (f (s.readU 0 ga.toNat))).finish m len) :=
  uni_run h

theorem g2_run (h : s.uniReady .any false [gd.toNat, ga.toNat, gb.toNat] [ga.toNat, gb.toNat] = true) (f : Word → Word → Word) :
    g2 s m gd ga gb f = .next ((s.writeU gd.toNat (f (s.readU 0 ga.toNat) (s.readU 1 gb.toNat))).finish m 8) :=
  uni_run h

theorem g3_run (f : Word → Word → Word → Word)
    (h : s.uniReady .any false [gd.toNat, ga.toNat, gb.toNat, gc.toNat] [ga.toNat, gb.toNat, gc.toNat] = true) :
    g3 s m gd ga gb gc f = .next ((s.writeU gd.toNat (f (s.readU 0 ga.toNat) (s.readU 1 gb.toNat) (s.readU 2 gc.toNat))).finish m 8) :=
  uni_run h

/-- A uniform branch moves its issuer to the target. -/
theorem uniGo_run {names reads : List Nat} (target : Word) (h : s.uniReady .any false names reads = true) :
    uniGo s m names reads target = .next ((s.jump target).mark m) :=
  uniJump_run h

end

/-- A word offset of JMP is four times as many bytes (05 R128). -/
theorem shiftLeft_two (x : Word) : x <<< 2 = 4 * x := by
  bv_omega

end Sys2Proof.Machine

open Sys2Proof Sys2Proof.Machine in
/-- Settles O9: each instruction is the immediate form or the one-source form with its function of a word; GMOVL has no source. -/
theorem uniformImmediates : Obligations.UniformImmediates := by
  intro s m gd ga imm imm6 imm32 sh
  refine ⟨gImm_run (fun _ => imm.signExtend 32), gImm_run (· + imm.signExtend 32), gImm_run (fun _ => imm.setWidth 32 <<< 17), gImm_run (· ||| imm.setWidth 32),
    fun h => ?gshli, fun h => ?gshri, fun h => ?gsari, g1_run (fun a => a), g1_run (· + imm6.signExtend 32), fun h => ?gmovl,
    g1_run (fun a => BitVec.ofNat 32 (popCount a)), g1_run clzW⟩
  case gshli =>
    simp only [← shlW_shiftCount]
    exact g1_run (fun a => shlW a (sh.setWidth 32)) h
  case gshri =>
    simp only [← shrW_shiftCount]
    exact g1_run (fun a => shrW a (sh.setWidth 32)) h
  case gsari =>
    simp only [← sarW_shiftCount]
    exact g1_run (fun a => sarW a (sh.setWidth 32)) h
  case gmovl =>
    change execGmovl m gd imm32 s = _
    exact uni_run h

open Sys2Proof Sys2Proof.Machine in
/-- Settles O10: each instruction is the two-source form with its function of two words. -/
theorem uniformBinary : Obligations.UniformBinary := by
  intro s m gd ga gb cond rm a b x y h
  exact ⟨g2_run h (· + ·), g2_run h (· - ·), g2_run h (· * ·), g2_run h mulHiI, g2_run h mulHiN, g2_run h (· &&& ·), g2_run h (· ||| ·), g2_run h (· ^^^ ·),
    g2_run h shlW, g2_run h shrW, g2_run h sarW, g2_run h minI, g2_run h maxI, g2_run h minN, g2_run h maxN, g2_run h divN, g2_run h remN,
    g2_run h (fun a b => wordOfBool (wcompare cond false a b)), g2_run h (fun a b => wordOfBool (wcompare cond true a b)), g2_run h (fun a b => wordOfBool (fcmpW cond a b)),
    g2_run h (fword (fadd rm)), g2_run h (fword (fmul rm)), g2_run h (fword fmax)⟩

open Sys2Proof Sys2Proof.Machine in
/-- Settles O11: each instruction is the three-source form with its function of three words; GBFI reads its base in gd, GADD64 pairs. -/
theorem uniformTernary : Obligations.UniformTernary := by
  intro s m sgn gd ga gb gc rm
  refine ⟨g3_run (fun a b x => if x ≠ 0 then a else b), g3_run (fun a b x => a * b + x), g3_run (fun a p n => bitExtract a p n sgn),
    g3_run (fun a b x => BitVec.ofNat 32 (ffma rm .fp32 a.toNat b.toNat x.toNat)), fun h => ?gbfi, fun h => ?gadd64⟩
  case gbfi =>
    change execGbfi m gd ga gb gc s = _
    exact uni_run h
  case gadd64 =>
    change execGadd64 m gd ga gb s = _
    exact uni_run h

open Sys2Proof Sys2Proof.Machine in
/-- Settles O12: a branch is the uniform branch to the target that its condition picks; LOOP writes its count first. -/
theorem uniformControl : Obligations.UniformControl := by
  intro s m ga gb cond off24 off
  refine ⟨fun h => ?jmp, uniGo_run _, uniGo_run _, uniGo_run _, fun h => ?loop, fun h => ?land, fun h => ?nop⟩
  case jmp =>
    rw [← shiftLeft_two]
    exact uniGo_run _ h
  case loop =>
    change execLoop m ga off s = _
    exact uniJump_run h
  case land =>
    change execLand m s = _
    exact uni_run h
  case nop =>
    change execNop m s = _
    exact uni_run h

/-! PROOFS, 05 R151, R156 to R158, 03 R77 to R79: instructions that trap, and what a sequencer's fault leaves. -/

namespace Sys2Proof.Machine

section
variable {s : State} {m closed : Bool} {len : Nat} {row : Row} {names reads : List Nat} {own : List (Option Exc)} {eff : State → State} {e : Exc}

theorem resident_of_uniReady (h : s.uniReady row closed names reads = true) : s.resident = true := by
  simp only [State.uniReady, Bool.and_eq_true] at h
  exact h.1.1.1.1

theorem uniReady_of_resident (h : s.resident = true) : s.uniReady .any false [] [] = true := by
  simp [State.uniReady, State.mayIssue, h]

/-- The fault of its own that an instruction finds comes after the checks that a ready issuer passes. -/
theorem uniJump_raise (h : s.uniReady row closed names reads = true) (ho : firstExc own = some e) :
    uniJump s row closed names reads own eff = .next (s.raise e) :=
  issue_raise (resident_of_uniReady h) ((firstExc_append_none (uniChecks_none (own := []) h rfl)).trans ho)

theorem uni_raise (h : s.uniReady row closed names reads = true) (ho : firstExc own = some e) :
    uni s m len row closed names reads own eff = .next (s.raise e) :=
  uniJump_raise h ho

end

/-! ### The faults at issue of an instruction of two v sources -/

section
variable {s : State} {m : Bool} {len : Nat} {vd va vb : BitVec 8} {ok : Tag → Bool} {tag : Tag → Tag → Tag} {f : Word → Word → Word} (hp : s.onPath = true)
include hp

theorem State.rowExc_onPath : s.rowExc .group = none :=
  rowExc_none (by unfold State.onPath at hp; unfold State.mayIssue; split at hp <;> simp_all)

theorem lane2_illegal (h : s.vLimit ≤ vd.toNat ∨ s.vLimit ≤ va.toNat ∨ s.vLimit ≤ vb.toNat) :
    lane2 s m len vd va vb ok tag f = .next (s.raise (.of .illegal)) := by
  have hname : s.nameExc [vd.toNat, va.toNat, vb.toNat] [] = some (.of .illegal) := by
    rw [State.nameExc, excIf, if_pos (by simpa using h)]
  unfold lane2
  refine issue_raise (resident_of_onPath hp) ?_
  rw [hname]
  rfl

/-- Inside the allocation the first fault is the first of the sources' checks. -/
theorem lane2_raise {e : Exc} (hd : vd.toNat < s.vLimit) (ha : va.toNat < s.vLimit) (hb : vb.toNat < s.vLimit)
    (h : firstExc (s.sourceExcs [.v 0 va.toNat ok, .v 1 vb.toNat ok]) = some e) : lane2 s m len vd va vb ok tag f = .next (s.raise e) := by
  have hname : s.nameExc [vd.toNat, va.toNat, vb.toNat] [] = none := nameExc_none (by simp [hd, ha, hb]) rfl
  unfold lane2
  refine issue_raise (resident_of_onPath hp) ?_
  rw [hname, State.rowExc_onPath hp, List.append_nil, firstExc_append_none rfl, h]

end

/-- The checks of two v sources: POISON of either, then TAG of either. -/
theorem State.sourceExcs_two (s : State) (a b : Nat) (ok : Tag → Bool) : s.sourceExcs [.v 0 a ok, .v 1 b ok] =
    [excIf (s.tagOf a == .poison) (.det .poison 0), excIf (s.tagOf b == .poison) (.det .poison 1), excIf (!ok (s.tagOf a)) (.det .tag 0), excIf (!ok (s.tagOf b)) (.det .tag 1)] :=
  rfl

theorem ne_poison_of_intTag {t : Tag} (h : intTag t = true) : t ≠ .poison := by
  rintro rfl
  exact absurd h (by decide)

/-! ### Sequencers -/

section
variable {s : State} {q : QKey} {x : Sequencer} (ha : s.arg = .agent (.sqr q)) (hx : look s.seqs q = some x)
include ha

theorem exec_parkComplete_seq : exec .parkComplete s = .next (s.unparkSeq q) := by
  change execParkComplete s = _
  rw [execParkComplete, ha]

omit ha
include hx

/-- Until OUTS is zero a sequencer waits on. -/
theorem State.unparkSeq_waits (ho : 0 < x.outs) : s.unparkSeq q = s := by
  simp [State.unparkSeq, hx, ho.ne']

/-- A park that completes without a fault ends, its pending registers settled. -/
theorem State.unparkSeq_ends {m : Mask} {a : Word} (hw : x.wait = .park m a) (ho : x.outs = 0) (hd : x.deferred = []) :
    s.unparkSeq q = { s with seqs := put s.seqs q { x.settle s.freeCtr with wait := .none } } := by
  simp [State.unparkSeq, hx, hw, ho, hd, oldest, minBy]

/-- One that has found faults halts the sequencer with the oldest. -/
theorem State.unparkSeq_halts {m : Mask} {a : Word} {d : Deferred} (hw : x.wait = .park m a) (ho : x.outs = 0) (hd : d ∈ x.deferred) (hmin : ∀ y ∈ x.deferred, y ≠ d → d.order < y.order) :
    s.unparkSeq q = { s with seqs := put s.seqs q (({ x.settle s.freeCtr with wait := .none } : Sequencer).halt (seqRec q d.code (min (x.deferred.length - 1) 63) d.pc true)) } := by
  simp [State.unparkSeq, hx, hw, ho, oldest, minBy_of_strict hd hmin]

theorem State.raise_seq (hc : s.cur = .seq q) (e : Exc) : s.raise e = s.onSeq q (fun y => y.halt (seqRec q e.code e.detail x.pc false)) := by
  simp only [State.raise, hc, hx]

end

end Sys2Proof.Machine

open Sys2Proof Sys2Proof.Machine in
/-- Settles O16: each trap is the one check of its own that the instruction makes. -/
theorem softwareTraps : Obligations.SoftwareTraps := by
  intro s m set ga gb cond code6 code24 rest maj w1
  refine ⟨fun h => ?brk, fun h => ?extension, fun h => ?trap⟩
  case brk =>
    change execBrk m code24 s = _
    exact uniJump_raise (uniReady_of_resident h) rfl
  case extension =>
    change execExtensionWord m set maj rest w1 s = _
    exact issue_raise h rfl
  case trap =>
    change execTrap m ga gb cond code6 s = _
    by_cases hc : icompare cond (s.readU 0 ga.toNat).toInt (s.readU 1 gb.toNat).toInt = true
    · rw [if_pos hc]
      refine uni_raise h ?_
      rw [excIf, if_pos (show wcompare cond false _ _ = true from hc)]
      rfl
    · rw [if_neg hc]
      refine uni_next h ?_
      rw [excIf_false (show wcompare cond false _ _ = false from Bool.eq_false_iff.2 hc)]
      rfl

open Sys2Proof Sys2Proof.Machine in
/-- Settles O18: a park that completes with faults, or a fault at issue, halts the sequencer with `seqRec`, whatever else it holds. -/
theorem sequencerFaults : Obligations.SequencerFaults := by
  refine ⟨?park, ?atIssue⟩
  case park =>
    intro s q x m a d ha hx hw
    rw [exec_parkComplete_seq ha]
    refine ⟨fun ho => ?waits, fun ho hd hmin => ?halts, fun ho hd => ?ends⟩
    case waits => rw [State.unparkSeq_waits hx ho]
    case halts =>
      rw [State.unparkSeq_halts hx hw ho hd hmin]
      exact ⟨_, _, _, rfl, look_put _ _ _, rfl, rfl, rfl, rfl, rfl, rfl, rfl, rfl, rfl, rfl, rfl, rfl⟩
    case ends =>
      rw [State.unparkSeq_ends hx hw ho hd]
      exact ⟨_, _, rfl, look_put _ _ _, rfl, rfl, rfl, rfl⟩
  case atIssue =>
    intro s e q x hc hx
    rw [State.raise_seq hx hc]
    exact ⟨_, _, upd_some _ hx, rfl, rfl, rfl, rfl, rfl, rfl, rfl, rfl, rfl, rfl, rfl⟩

open Sys2Proof Sys2Proof.Machine in
/-- Settles O19: the checks stand in a list in the order of 03 R79, and each clause names the first that fails. -/
theorem faultsAtIssue : Obligations.FaultsAtIssue := by
  intro s m vd va vb ga c hp
  have hadd : exec (.iadd m vd va vb) s = lane2 s m 4 vd va vb intTag (fun _ _ => .i32) (· + ·) := rfl
  rw [hadd]
  refine ⟨lane2_illegal hp, ?sources, ?firmware, fun h => ?eret⟩
  case sources =>
    rintro ⟨hd, ha, hb⟩
    refine ⟨fun hpa => ?_, ?_, ?_, ?_⟩
    · exact lane2_raise hp hd ha hb (by simp [State.sourceExcs_two, excIf, hpa, firstExc])
    · rintro ⟨hpa, hpb⟩
      exact lane2_raise hp hd ha hb (by simp [State.sourceExcs_two, excIf, hpa, hpb, firstExc])
    · rintro ⟨hpa, hpb⟩ hta
      exact lane2_raise hp hd ha hb (by simp [State.sourceExcs_two, excIf, hpa, hpb, hta, firstExc])
    · rintro ⟨hpb, hta, htb⟩
      exact lane2_raise hp hd ha hb (by simp [State.sourceExcs_two, excIf, ne_poison_of_intTag hta, hpb, hta, htb, firstExc])
  case firmware =>
    rintro ⟨hg, hc⟩
    change execCsrw m c ga s = _
    refine issue_raise (resident_of_onPath hp) ?_
    rw [nameExc_none (vs := []) rfl (by simpa using hg), State.rowExc_onPath hp, privExc, hc]
    rfl
  case eret =>
    change execEret m s = _
    have hready : s.uniReady .group false [] [] = true := by
      unfold State.onPath at hp
      split at hp <;> simp_all [State.uniReady, State.mayIssue, State.resident]
    exact uniJump_raise hready (by rw [h]; rfl)

/-! PROOFS, 05 R140 to R146, 09 R259 and R268: fences, MRDY and handles. -/

namespace Sys2Proof.Machine

theorem State.agentWait_group {s : State} {k : GKey} {g : Group} (hg : look s.groups k = some g) : s.agentWait (.grp k) = g.wait := by
  rw [State.agentWait, hg, Option.elim_some]

/-! ### Fences -/

/-- Accesses that an agent issued before a transaction number and that have not performed. -/
def State.earlier (s : State) (w : Agent) (before : Nat) : List Txn := s.txns.filter (fun t => t.who == w && decide (t.id < before) && t.access)

/-- What a fence waits for, by its kind. -/
theorem State.fenceDone_iff (s : State) (w : Agent) (kind : FenceKind) (scope : Scope) (before : Nat) :
    s.fenceDone w kind scope before = true ↔ (kind ≠ .acq → s.earlier w before = []) ∧ (kind = .acq → ∀ t ∈ s.earlier w before, t.returns = false) ∧
      (kind = .cmp → s.agentGwct w + (if scope = .pod then 8 else 0) < s.ptime) := by
  have hdone : s.fenceDone w kind scope before = match kind with
    | .rel | .ar => (s.earlier w before).isEmpty
    | .acq => !(s.earlier w before).any Txn.returns
    | .cmp => (s.earlier w before).isEmpty && decide (s.agentGwct w + (if scope = .pod then 8 else 0) < s.ptime) := rfl
  rw [hdone]
  cases kind <;> simp [List.isEmpty_iff]

section
variable {s : State} {k : GKey} {g : Group} (ha : s.arg = .agent (.grp k)) (hg : look s.groups k = some g)
include ha hg

theorem exec_fenceComplete {kind : FenceKind} {scope : Scope} {before : Nat} {path : Mask} (hw : g.wait = .fence kind scope before path) :
    exec .fenceComplete s = .next (if s.fenceDone (.grp k) kind scope before then
      (if kind = .rel then s.clearWait (.grp k) else (s.clearWait (.grp k)).acquire (.grp k) scope) else s) := by
  change execFenceComplete s = _
  simp only [execFenceComplete, ha, State.agentWait_group hg, hw]

theorem exec_mrdyComplete {before : Nat} {path : Mask} (hw : g.wait = .mrdy before path) :
    exec .mrdyComplete s = .next (if s.txns.any (fun t => t.who == .grp k && decide (t.id < before) && t.feeds) then s else s.clearWait (.grp k)) := by
  change execMrdyComplete s = _
  simp only [execMrdyComplete, ha, State.agentWait_group hg, hw]

end

/-! ### Handles -/

section
variable {s : State} {m : Bool} {gd : BitVec 9} {k : BitVec 4} {o : Nat} {op : Op}

theorem State.emptyExc_none {n : Nat} (h : s.readH n = .names o) : s.emptyExc n = none := excIf_false (by rw [h]; rfl)

theorem State.handleState_names (ho : look s.ops o = some op) : s.handleState (.names o) = some op.st := by
  simp only [State.handleState, ho]

/-- Seeing the end of an operation is a chip-scope acquire; seeing that it is pending is nothing. -/
theorem State.observe_names (ho : look s.ops o = some op) :
    s.observe (.names o) = if op.st = .pending then s else (s.mergeGwct s.curAgent op.gwct).acquire s.curAgent .chip := by
  cases hst : op.st <;> simp [State.observe, State.handleState_names ho, ho, hst]

variable (h : s.readH k.toNat = .names o) (ho : look s.ops o = some op)
include h ho

theorem exec_hwait_pending (hr : s.uniReady .any true [gd.toNat] [] = true) (hst : op.st = .pending) :
    exec (.hwait m gd k) s = .next (s.waitAt (.handle o)) := by
  change execHwait m gd k s = _
  unfold execHwait
  rw [h]
  dsimp only
  rw [State.handleState_names ho, hst]
  exact uniJump_next hr (by rw [State.emptyExc_none h]; rfl)

theorem exec_hwait_ended (hr : s.uniReady .any true [gd.toNat] [] = true) (hst : op.st ≠ .pending) :
    exec (.hwait m gd k) s = .next (((s.observe (.names o)).writeU gd.toNat (statusWord (some op.st))).finish m 8) := by
  change execHwait m gd k s = _
  unfold execHwait
  rw [h]
  dsimp only
  rw [State.handleState_names ho]
  refine (uniJump_next hr (by rw [State.emptyExc_none h]; rfl)).trans ?_
  cases hs : op.st with
  | pending => exact absurd hs hst
  | done => rfl
  | failed c x => rfl

theorem exec_htest (hr : s.uniReady .any false [gd.toNat] [] = true) :
    exec (.htest m gd k) s = .next (((s.observe (.names o)).writeU gd.toNat (statusWord (some op.st))).finish m 8) := by
  change execHtest m gd k s = _
  unfold execHtest
  rw [h, State.handleState_names ho]
  exact uni_next hr (by rw [State.emptyExc_none h]; rfl)

end

theorem exec_handleWaitEnd {s : State} {w : Agent} {o : Nat} (ha : s.arg = .agent w) (hw : s.agentWait w = .handle o) :
    exec .handleWaitEnd s = .next (if (look s.ops o).elim true (fun x => x.st != .pending) then s.clearWait w else s) := by
  change execHandleWaitEnd s = _
  simp only [execHandleWaitEnd, ha, hw]

end Sys2Proof.Machine

open Sys2Proof Sys2Proof.Machine in
/-- Settles O29: `State.fenceDone_iff` says what a fence waits for, and each clause decides it. -/
theorem fences : Obligations.Fences := by
  refine ⟨fun s m kind scope h => ⟨?fence, ?mrdy⟩, ?ends⟩
  case fence =>
    change execFence m kind scope s = _
    exact uni_run h
  case mrdy =>
    change execMrdy m s = _
    exact uni_run h
  case ends =>
    intro s k g kind scope before path ha hg earlier cleared
    have hdone := s.fenceDone_iff (.grp k) kind scope before
    have hgwct : s.agentGwct (.grp k) = g.gwct := by rw [State.agentGwct, hg, Option.elim_some]
    refine ⟨fun hw => ?fenceComplete, fun hw hnone => ?mrdyEnds, fun hw hsome => ?mrdyWaits⟩
    case fenceComplete =>
      rw [exec_fenceComplete ha hg hw]
      rw [hgwct] at hdone
      refine ⟨?_, ?_, ?_, ?_, ?_, ?_, ?_⟩
      · rintro rfl he
        rw [if_pos (hdone.2 ⟨fun _ => he, nofun, nofun⟩), if_pos rfl]
        rfl
      · rintro rfl he
        rw [if_pos (hdone.2 ⟨fun _ => he, nofun, nofun⟩), if_neg nofun]
        rfl
      · rintro rfl he
        rw [if_pos (hdone.2 ⟨fun h => absurd rfl h, fun _ => he, nofun⟩), if_neg nofun]
        rfl
      · rintro rfl he hp
        rw [if_pos (hdone.2 ⟨fun _ => he, nofun, fun _ => hp⟩), if_neg nofun]
        rfl
      · intro hk he
        rw [if_neg fun h => he ((hdone.1 h).1 hk)]
      · rintro hk ⟨t, ht, hret⟩
        rw [if_neg fun h => absurd hret (Bool.eq_false_iff.1 ((hdone.1 h).2.1 hk t ht))]
      · intro hk hp
        rw [if_neg fun h => absurd ((hdone.1 h).2.2 hk) (not_lt.2 hp)]
    case mrdyEnds =>
      rw [exec_mrdyComplete ha hg hw, if_neg]
      · rfl
      · simpa using hnone
    case mrdyWaits =>
      rw [exec_mrdyComplete ha hg hw, if_pos]
      simpa [and_assoc] using hsome

open Sys2Proof Sys2Proof.Machine in
/-- Settles O31: a handle that names an operation passes the check for EMPTY, and reads that operation's state. -/
theorem handles : Obligations.Handles := by
  refine ⟨?names, ?adopt, ?ends⟩
  case names =>
    intro s m gd k o op h ho word seen
    have hword : word = statusWord (some op.st) := by
      simp only [word]
      cases op.st <;> rfl
    have hseen : seen = s.observe (.names o) := (State.observe_names ho).symm
    rw [hword, hseen]
    refine ⟨fun hr => ⟨exec_hwait_pending h ho hr, exec_hwait_ended h ho hr⟩, fun hr => ⟨exec_htest h ho hr, ?hmov⟩, fun hr => ?hcancel⟩
    case hmov =>
      change execHmov m gd k s = _
      unfold execHmov
      rw [h]
      exact uni_next hr (by rw [State.emptyExc_none h]; rfl)
    case hcancel =>
      change execHcancel m k s = _
      unfold execHcancel
      rw [h]
      exact uni_next hr (by rw [State.emptyExc_none h]; rfl)
  case adopt =>
    intro s m ga k hr o
    have hrun : exec (.hadopt m k ga) s = .next ((s.writeH k.toNat (if s.named o ∧ (look s.ops o).isSome then .names o else .lost)).finish m 8) := by
      change execHadopt m k ga s = _
      exact uni_run hr
    rw [hrun]
    refine ⟨fun ⟨hn, ho⟩ => ?_, fun hn => ?_⟩
    · rw [if_pos ⟨hn, Option.isSome_iff_ne_none.2 ho⟩]
    · rw [if_neg fun hc => absurd hc.1 (Bool.eq_false_iff.1 hn)]
  case ends =>
    intro s w o ha hw hst
    rw [exec_handleWaitEnd ha hw, if_pos]
    cases ho : look s.ops o with
    | none => rfl
    | some op => simpa using hst op ho

/-! PROOFS, 02 R48, 05 R132 to R134: masks of lanes, and the lane branches. -/

namespace Sys2Proof.Machine

/-! ### Masks of lanes -/

theorem getLsbD_noLanes (l : Nat) : (0 : Mask).getLsbD l = false := BitVec.getLsbD_zero

/-- A mask built from a list holds the lanes of the list. -/
theorem getLsbD_maskOf (ls : List Nat) {l : Nat} (hl : l < 32) : (maskOf ls).getLsbD l = decide (l ∈ ls) := by
  have hfold : ∀ m : Mask, (ls.foldl (fun m l => m ||| (1#32 <<< l)) m).getLsbD l = (m.getLsbD l || decide (l ∈ ls)) := by
    induction ls with
    | nil => simp
    | cons x r ih =>
      intro m
      have hbit : (1#32 <<< x).getLsbD l = decide (l = x) := by
        rw [BitVec.getLsbD_shiftLeft, BitVec.getLsbD_one]
        by_cases hx : l = x
        · simp [hx, hx ▸ hl]
        · simp [hl, hx]
          omega
      rw [List.foldl_cons, ih, BitVec.getLsbD_or, hbit, Bool.or_assoc]
      simp [List.mem_cons]
  exact (hfold 0).trans (by rw [getLsbD_noLanes, Bool.false_or])

theorem getLsbD_maskOf_filter (ls : List Nat) (p : Nat → Bool) {l : Nat} (hl : l < 32) : (maskOf (ls.filter p)).getLsbD l = (decide (l ∈ ls) && p l) := by
  rw [getLsbD_maskOf _ hl]
  by_cases h : l ∈ ls <;> simp [h]

theorem mem_lanesOf {m : Mask} {l : Nat} : l ∈ lanesOf m ↔ m.getLsbD l = true := by
  simp only [lanesOf, List.mem_filter, List.mem_range, and_iff_right_iff_imp]
  exact BitVec.lt_of_getLsbD

theorem mask_ext {a b : Mask} (h : ∀ l, l < 32 → a.getLsbD l = b.getLsbD l) : a = b := BitVec.eq_of_getLsbD_eq h

theorem mask_eq_zero_iff {m : Mask} : m = 0 ↔ ∀ l, l < 32 → m.getLsbD l = false :=
  ⟨by rintro rfl l -; exact getLsbD_noLanes l, fun h => mask_ext fun l hl => (h l hl).trans (getLsbD_noLanes l).symm⟩

theorem mask_ne_zero_iff {m : Mask} : m ≠ 0 ↔ ∃ l, l < 32 ∧ m.getLsbD l = true := by
  rw [Ne, mask_eq_zero_iff]
  push Not
  simp only [Bool.not_eq_false]

/-- A mask is within another where none of its lanes is off the other. -/
theorem mask_andNot_eq_zero_iff {a b : Mask} : a &&& ~~~b = 0 ↔ ∀ l, l < 32 → a.getLsbD l = true → b.getLsbD l = true := by
  rw [mask_eq_zero_iff]
  refine forall₂_congr fun l hl => ?_
  rw [BitVec.getLsbD_and, BitVec.getLsbD_not, decide_eq_true hl, Bool.true_and]
  cases a.getLsbD l <;> cases b.getLsbD l <;> decide

/-- The mask of the lanes that pass a test has those lanes. -/
theorem lanesOf_maskOf (p : Nat → Bool) : lanesOf (maskOf ((List.range 32).filter p)) = (List.range 32).filter p := by
  refine List.filter_congr fun l hl => ?_
  rw [getLsbD_maskOf_filter _ _ (List.mem_range.1 hl), decide_eq_true hl, Bool.true_and]

theorem lanesOf_filter (m : Mask) (p : Nat → Bool) : (lanesOf m).filter p = (List.range 32).filter (fun l => m.getLsbD l && p l) := by
  rw [lanesOf, List.filter_filter]
  exact List.filter_congr fun l _ => Bool.and_comm _ _

section
variable (g : Group)

theorem Group.getLsbD_lanesWhere (p : Nat → Lane → Bool) {l : Nat} (hl : l < 32) : (g.lanesWhere p).getLsbD l = p l (g.lane l) := by
  rw [Group.lanesWhere, getLsbD_maskOf_filter _ _ hl, decide_eq_true (List.mem_range.2 hl), Bool.true_and]

/-- Lanes past the end of a group's list hold no thread. -/
theorem Group.lane_eq_gone {l : Nat} (hl : g.lanes.length ≤ l) : g.lane l = Lane.gone := by
  simp [Group.lane, hl]

/-- What is done to the lanes of a mask is only looked at there. -/
theorem Group.mapLanes_congr {m : Mask} {f h : Nat → Lane → Lane} (hfh : ∀ l x, m.getLsbD l = true → f l x = h l x) : g.mapLanes m f = g.mapLanes m h := by
  have hlanes : g.lanes.mapIdx (fun i x => if m.getLsbD i then f i x else x) = g.lanes.mapIdx (fun i x => if m.getLsbD i then h i x else x) :=
    congrArg (fun F => g.lanes.mapIdx F) (by
      funext i x
      by_cases hi : m.getLsbD i = true
      · rw [if_pos hi, if_pos hi, hfh i x hi]
      · rw [if_neg hi, if_neg hi])
  rw [Group.mapLanes, hlanes, Group.mapLanes]

theorem Group.mapLanes_mapLanes (m : Mask) (f h : Nat → Lane → Lane) : (g.mapLanes m f).mapLanes m h = g.mapLanes m (fun l x => h l (f l x)) := by
  have hlanes : (g.lanes.mapIdx (fun i x => if m.getLsbD i then f i x else x)).mapIdx (fun i x => if m.getLsbD i then h i x else x) =
      g.lanes.mapIdx (fun i x => if m.getLsbD i then h i (f i x) else x) := by
    rw [List.mapIdx_mapIdx]
    congr 1
    funext i x
    by_cases hi : m.getLsbD i = true <;> simp [hi]
  simp only [Group.mapLanes, hlanes]

end

theorem State.getLsbD_active (s : State) (p : Nat → Bool) (l : Nat) : (s.active p).getLsbD l = (s.curLanes.getLsbD l && p l) := by
  by_cases hl : l < 32
  · rw [State.active, getLsbD_maskOf_filter _ _ hl]
    congr 1
    exact Bool.decide_congr mem_lanesOf |>.trans Bool.decide_eq_true
  · rw [BitVec.getLsbD_of_ge _ _ (by omega), BitVec.getLsbD_of_ge _ _ (by omega), Bool.false_and]

theorem State.active_eq_zero {s : State} {p : Nat → Bool} (h : ∀ l, s.curLanes.getLsbD l = true → p l = false) : s.active p = 0 := by
  refine mask_eq_zero_iff.2 fun l _ => ?_
  rw [State.getLsbD_active]
  cases hl : s.curLanes.getLsbD l with
  | false => rfl
  | true => simp [h l hl]

/-! ### Lane branches -/

section
variable {s : State} {m : Bool} {va : BitVec 8} {off : Word} {k : GKey} {lanes : Mask} {pc : Word} {g : Group} (hp : s.pathIs k lanes pc g)
include hp

theorem State.pathIs.onPath : s.onPath = true := by simp [State.onPath, hp.1, hp.2]
theorem State.pathIs.curPc : s.curPc = pc := by simp [State.curPc, hp.1]
theorem State.pathIs.curBlk : s.curBlk = k.blk := by simp [State.curBlk, hp.1]
theorem State.pathIs.curAgent : s.curAgent = .grp k := by simp [State.curAgent, hp.1]

theorem State.pathIs.moveLanes (f : Nat → Word) : s.moveLanes f = s.onGroup k (fun g => g.mapLanes lanes (fun l x => { x with pc := f l })) := by
  simp only [State.moveLanes, hp.1]

theorem State.pathIs.pushRas (path : Mask) (a : Word) : s.pushRas path a = s.onGroup k (fun g => g.mapLanes path (fun _ x => { x with ras := a :: x.ras })) := by
  simp only [State.pushRas, hp.1]

/-- The condition of a lane branch, in the lanes of the path. -/
theorem State.pathIs.getLsbD_taken (z : Bool) {l : Nat} (hl : lanes.getLsbD l = true) : (s.taken va z).getLsbD l = ((s.vread 0 va.toNat l == 0) == z) := by
  rw [State.taken, State.getLsbD_active, hp.curLanes, hl, Bool.true_and]

/-- A path pushes and goes to a program counter of each lane's own. -/
theorem State.pathIs.pushRas_moveLanes (a : Word) (f : Nat → Word) :
    (s.pushRas lanes a).moveLanes f = s.onGroup k (fun g => g.mapLanes lanes (fun l x => { x with pc := f l, ras := a :: x.ras })) := by
  have hcur : (s.pushRas lanes a).cur = .path k lanes pc := by rw [hp.pushRas]; exact hp.1
  simp only [State.moveLanes, hcur]
  rw [hp.pushRas, State.onGroup_onGroup]
  simp only [Group.mapLanes_mapLanes]

/-- The return stacks of a path's lanes pass their check. -/
theorem State.pathIs.stackExc_none {bad : Nat → Bool} (h : ∀ l, lanes.getLsbD l = true → bad (g.lane l).ras.length = false) : s.stackExc bad = none := by
  have hnone : s.active (fun l => bad (s.rasDepth l)) = 0 := State.active_eq_zero fun l hl => by
    rw [hp.curLanes] at hl
    simp only [State.rasDepth, hp.curGroup]
    exact h l hl
  unfold State.stackExc
  rw [hnone]
  rfl

theorem laneBranch_run (z : Bool) (h : s.laneReady [va.toNat] [] [.v 0 va.toNat intTag] = true) :
    laneBranch s m va off z =
      .next ((s.onGroup k (fun g => g.mapLanes lanes (fun l x => { x with pc := pc + if (s.vread 0 va.toNat l == 0) == z then off else 8 }))).mark m) := by
  have hmoves : s.moveLanes (branchPc s.curPc (s.taken va z) off) =
      s.onGroup k (fun g => g.mapLanes lanes (fun l x => { x with pc := pc + if (s.vread 0 va.toNat l == 0) == z then off else 8 })) := by
    rw [hp.moveLanes]
    congr 1
    funext g
    refine g.mapLanes_congr fun l x hl => ?_
    rw [branchPc, hp.curPc, hp.getLsbD_taken z hl]
  rw [← hmoves]
  exact lanMem_next (own := []) h rfl

/-- A target that is a LAND of the code object is a good one, and its word is known. -/
theorem State.targetFault_none {x : Word} {a : Nat} (hat : s.codeAt k.blk x = some a) (hland : s.codeWord a = 0x8A000000) :
    s.targetFault x = none ∧ s.targetWaits x = false := by
  constructor
  · simp only [State.targetFault, hp.curBlk, hat]
    rw [if_pos hland]
  · simp only [State.targetWaits, State.codeRead, hp.curBlk, hat]
    rfl

theorem indirect_run (push : Bool) (h : s.laneReady [va.toNat] [] [.v 0 va.toNat intTag] = true)
    (hlands : ∀ l, lanes.getLsbD l = true → ∃ a, s.codeAt k.blk (s.vread 0 va.toNat l) = some a ∧ s.codeWord a = 0x8A000000)
    (hroom : push = true → ∀ l, lanes.getLsbD l = true → (g.lane l).ras.length < 16) :
    indirect s m va push = .next ((if push then s.pushRas lanes (pc + 8) else s).moveLanes (fun l => s.vread 0 va.toNat l) |>.mark m) := by
  have hgood : ∀ l, lanes.getLsbD l = true → s.targetFault (s.vread 0 va.toNat l) = none ∧ s.targetWaits (s.vread 0 va.toNat l) = false := fun l hl => by
    obtain ⟨a, hat, hland⟩ := hlands l hl
    exact State.targetFault_none hp hat hland
  have hstack : (if push then s.stackExc (fun d => decide (16 ≤ d)) else none) = none := by
    split
    · next hpush => exact hp.stackExc_none fun l hl => decide_eq_false (not_le.2 (hroom hpush l hl))
    · rfl
  have hbad : s.active (fun l => (s.targetFault (s.vread 0 va.toNat l)).isSome) = 0 := State.active_eq_zero fun l hl => by
    rw [(hgood l (hp.curLanes ▸ hl)).1]
    rfl
  have hwaits : (lanesOf s.curLanes).any (fun l => s.targetWaits (s.vread 0 va.toNat l)) = false := by
    rw [hp.curLanes, List.any_eq_false]
    intro l hl
    rw [(hgood l (mem_lanesOf.1 hl)).2]
    exact Bool.false_ne_true
  refine (lanMem_next h (by rw [hstack]; rfl)).trans ?_
  dsimp only
  rw [hwaits, if_neg Bool.false_ne_true, hbad, if_pos rfl, hp.curLanes, hp.curPc]
  simp only [getLsbD_noLanes, Bool.false_eq_true, if_false]
  rw [show lanes &&& ~~~(0 : Mask) = lanes from BitVec.and_allOnes]

end

end Sys2Proof.Machine

open Sys2Proof Sys2Proof.Machine in
/-- Settles O13: each branch is an update of the path's lanes alone, and where every target is a LAND no lane is bad. -/
theorem laneBranches : Obligations.LaneBranches := by
  intro s m va off k lanes pc g hp x moved ready lands room
  refine ⟨fun h => ?brz, fun h => ?brnz, ?brx, ?callx, fun h => ?call, fun h => ?ret⟩
  case brz =>
    refine (laneBranch_run hp true h).trans ?_
    simp only [moved, x, beq_true, beq_iff_eq]
  case brnz =>
    refine (laneBranch_run hp false h).trans ?_
    simp only [moved, x, beq_false, Bool.not_eq_true', beq_eq_false_iff_ne]
  case brx =>
    rintro ⟨h, hlands⟩
    refine (indirect_run hp false h hlands nofun).trans ?_
    rw [if_neg Bool.false_ne_true, hp.moveLanes]
  case callx =>
    rintro ⟨h, hlands, hroom⟩
    refine (indirect_run hp true h hlands fun _ => hroom).trans ?_
    rw [if_pos rfl, hp.pushRas_moveLanes]
  case call =>
    change execCall m off s = _
    refine (issue_next (resident_of_onPath hp.onPath) ?_).trans ?_
    · rw [State.rowExc_onPath hp.onPath, hp.stackExc_none fun l hl => decide_eq_false (not_le.2 (h l hl))]
      rfl
    · rw [hp.curLanes, hp.curPc, hp.pushRas_moveLanes]
  case ret =>
    change execRet m s = _
    refine (issue_next (resident_of_onPath hp.onPath) ?_).trans ?_
    · rw [State.rowExc_onPath hp.onPath, hp.stackExc_none fun l hl => by simpa using h l hl]
      rfl
    · simp only [hp.1, moved]

/-! PROOFS, 05 R138, R148, R149 and R158, 08 R235: the ends of path-level waits and of parks, arrival counters, RDV, and the delivery of a sequencer's fault. -/

namespace Sys2Proof.Machine

/-! ### The ends of path-level waits -/

theorem Group.mark_lane (g : Group) (lanes : Mask) (l : Nat) : (g.mark lanes).lane l = g.lane l := by
  rw [Group.mark_rest]
  rfl

/-- A lane after its path-level wait: it goes on after the instruction at which it waited. -/
def Lane.goesOn (x : Lane) : Lane := { x with wait := .none, marked := false, pc := x.pc + 8 }

section
variable {s : State} {k : GKey} {g : Group} (hg : look s.groups k = some g)
include hg

theorem State.look_endPathWait (ls : Mask) :
    ∃ g', look (s.endPathWait k ls).groups k = some g' ∧ ∀ l, l < g.lanes.length → g'.lane l = if ls.getLsbD l then (g.lane l).goesOn else g.lane l := by
  refine ⟨_, upd_some _ hg, fun l hl => ?_⟩
  dsimp only
  split
  · exact lane_map _ _ _ _ hl
  · rw [Group.mark_lane]
    exact lane_map _ _ _ _ hl

/-- An acquire changes no more of a group than its floor. -/
theorem State.look_acquire (w : Agent) (sc : Scope) : ∃ n, look (s.acquire w sc).groups k = some { g with floor := n } := by
  unfold State.acquire
  split
  · next j =>
    split
    · by_cases hj : k = j
      · subst hj
        exact ⟨_, upd_some _ hg⟩
      · exact ⟨g.floor, (look_upd_ne _ _ hj).trans hg⟩
    · exact ⟨g.floor, hg⟩
  · exact ⟨g.floor, hg⟩

end

theorem Group.getLsbD_waiting (g : Group) (p : PathWait → Bool) {l : Nat} (hl : l < 32) : (g.waiting p).getLsbD l = p (g.lane l).wait :=
  g.getLsbD_lanesWhere _ hl

theorem Group.waiting_ne_zero (g : Group) (p : PathWait → Bool) : g.waiting p ≠ 0 ↔ ∃ l, l < 32 ∧ p (g.lane l).wait = true := by
  rw [mask_ne_zero_iff]
  exact exists_congr fun l => and_congr_right fun hl => by rw [g.getLsbD_waiting p hl]

/-- From g to g' the lanes of the first 32 whose wait satisfies a predicate have gone on, and the others stand. -/
def Group.WaitersGoOn (g g' : Group) (P : PathWait → Prop) : Prop :=
  ∀ l, l < g.lanes.length → l < 32 → (P (g.lane l).wait → (g'.lane l).wait = .none ∧ (g'.lane l).pc = (g.lane l).pc + 8) ∧ (¬P (g.lane l).wait → g'.lane l = g.lane l)

section
variable {s : State} {k : GKey} {g : Group} (hg : look s.groups k = some g) {p : PathWait → Bool} {P : PathWait → Prop} (hp : ∀ w, p w = true ↔ P w)
include hg hp

theorem State.endPathWait_waitersGoOn : ∃ g', look (s.endPathWait k (g.waiting p)).groups k = some g' ∧ g.WaitersGoOn g' P := by
  obtain ⟨g', hg', hlane⟩ := State.look_endPathWait hg (g.waiting p)
  refine ⟨g', hg', fun l hl h32 => ⟨fun hw => ?_, fun hw => ?_⟩⟩
  · rw [hlane l hl, g.getLsbD_waiting p h32, if_pos ((hp _).2 hw)]
    exact ⟨rfl, rfl⟩
  · rw [hlane l hl, g.getLsbD_waiting p h32, if_neg fun h => hw ((hp _).1 h)]

theorem State.endPathWait_acquire_waitersGoOn (w : Agent) (sc : Scope) :
    ∃ g', look ((s.endPathWait k (g.waiting p)).acquire w sc).groups k = some g' ∧ g.WaitersGoOn g' P := by
  obtain ⟨g', hg', hon⟩ := State.endPathWait_waitersGoOn hg hp
  obtain ⟨n, hn⟩ := State.look_acquire hg' w sc
  exact ⟨_, hn, hon⟩

end

theorem State.barFree_iff (s : State) (blk : Nat) (w : PathWait) : s.barFree blk w = true ↔ ∃ n, w = .bar n none ∧ s.barClear blk n = true := by
  unfold State.barFree
  split
  · simp
  · next hne => exact ⟨nofun, fun ⟨n, hw, _⟩ => absurd hw (hne n)⟩

theorem State.awaitFree_iff {s : State} {blk : Nat} {b : Block} (hb : look s.blocks blk = some b) (w : PathWait) :
    s.awaitFree blk w = true ↔ ∃ n, w = .await n ∧ (b.ac n).target.toNat ≤ (b.ac n).count.toNat := by
  unfold State.awaitFree
  split
  · simp [hb, Block.reached]
  · next hne => exact ⟨nofun, fun ⟨n, hw, _⟩ => absurd hw (hne n)⟩

section
variable {s : State} {k : GKey} {g : Group} (ha : s.arg = .agent (.grp k)) (hg : look s.groups k = some g)
include ha hg

theorem exec_barrierWaitEnd (hw : g.waiting (s.barFree k.blk) ≠ 0) :
    exec .barrierWaitEnd s = .next ((s.endPathWait k (g.waiting (s.barFree k.blk))).acquire (.grp k) .block) := by
  change execBarrierWaitEnd s = _
  simp only [execBarrierWaitEnd, ha, hg, if_neg hw]

theorem exec_awaitComplete (hw : g.waiting (s.awaitFree k.blk) ≠ 0) :
    exec .awaitComplete s = .next ((s.endPathWait k (g.waiting (s.awaitFree k.blk))).acquire (.grp k) .pod) := by
  change execAwaitComplete s = _
  simp only [execAwaitComplete, ha, hg, if_neg hw]

theorem exec_rdvComplete : exec .rdvComplete s = .next (if g.waiting (fun w => decide (w = .rdv)) ≠ 0 ∧ s.joined k.blk = true then
    (s.onBlock k.blk (fun b => { b with forked := false })).endPathWait k (g.waiting (fun w => decide (w = .rdv))) else s) := by
  change execRdvComplete s = _
  simp only [execRdvComplete, ha, hg]

end

/-! ### Arrival counters and RDV -/

theorem State.reachedNow_eq {s : State} {b : Block} (hb : look s.blocks s.curBlk = some b) (hv : ∀ g v, s.curGroup = some g → g.view = some v → v.acs = b.acs) (k : Nat) :
    s.reachedNow k = b.reached k := by
  unfold State.reachedNow
  split
  · next v hview =>
    obtain ⟨g, hg, hgv⟩ : ∃ g, s.curGroup = some g ∧ g.view = some v := by
      cases hc : s.curGroup with
      | none => exact absurd (hc ▸ hview) nofun
      | some g => exact ⟨g, rfl, by rw [hc] at hview; exact hview⟩
    rw [hv g v hg hgv]
    rfl
  · rw [hb, Option.elim_some]

theorem State.joined_iff (s : State) (blk : Nat) : s.joined blk = true ↔ ∀ e ∈ s.seqs, e.1.sg.blk = blk → e.2.running = false := by
  simp [State.joined]

theorem State.not_joined {s : State} {blk : Nat} (h : ∃ e ∈ s.seqs, e.1.sg.blk = blk ∧ e.2.running = true) : ¬ s.joined blk = true := by
  obtain ⟨e, he, hblk, hrun⟩ := h
  intro hj
  rw [(s.joined_iff blk).1 hj e he hblk] at hrun
  exact Bool.false_ne_true hrun

section
variable {s : State} {m : Bool} {k : BitVec 4}

theorem exec_await (h : s.uniReady .any true [] [] = true) :
    exec (.await m k) s = .next (if s.reachedNow k.toNat then (s.acquire s.curAgent .pod).finish m 8 else s.pathWait (.await k.toNat) m) := by
  change execAwait m k s = _
  exact uniJump_run h

theorem exec_rdv (h : s.uniReady .producer true [] [] = true) :
    exec (.rdv m) s = .next (if s.joined s.curBlk then (s.onBlock s.curBlk (fun b => { b with forked := false })).finish m 8 else s.pathWait .rdv m) := by
  change execRdv m s = _
  exact uniJump_run h

end

/-! ### The end of a park, and the delivery of a sequencer's fault -/

section
variable {s : State} {k : GKey} {g : Group}

theorem Group.parkEnd_pendV (g : Group) (stamp now : Nat) : (g.parkEnd stamp now).pendV = [] := by
  unfold Group.parkEnd Group.payAcquire
  split <;> rfl

theorem Group.parkEnd_pendG (g : Group) (stamp now : Nat) : (g.parkEnd stamp now).pendG = [] := by
  unfold Group.parkEnd Group.payAcquire
  split <;> rfl

/-- A park that has found no fault, in no region that has aborted, ends. -/
theorem State.unpark_ends {lanes : Mask} {resume : Word} (hg : look s.groups k = some g) (hw : g.wait = .park lanes resume) (ho : g.outs = 0) (hd : g.deferred = []) (ha : g.abort = none) :
    s.unpark k = s.setGroup k (g.parkEnd s.freeCtr s.clock) := by
  have hrec : deferredRec g.deferred lanes resume = none := by rw [hd]; rfl
  simp only [State.unpark, hg, hw, ho, hrec, ha, Group.parkEnd, if_true, Option.isSome_none, Bool.and_false, Bool.false_eq_true, if_false]

theorem Group.lanes_of_words (g : Group) (a b c d : Word) : ({ g with fr0 := a, fr1 := b, fr2 := c, fr3 := d } : Group).lanes = g.lanes := rfl

theorem Group.enterHandler_lanes (g : Group) (path : Mask) (vec : Word) :
    (g.enterHandler path vec).lanes = (g.mapLanes path (fun _ x => { x with pc := vec, wait := .none, marked := false })).lanes := rfl

theorem Group.mapLanes_lanes {g g' : Group} (h : g.lanes = g'.lanes) (m : Mask) (f : Nat → Lane → Lane) : (g.mapLanes m f).lanes = (g'.mapLanes m f).lanes := by
  simp only [Group.mapLanes, h]

/-- The lanes of a trap's path stand at the vector. -/
theorem Group.record_enterHandler_lane (g : Group) (r : TrapRec) {path : Mask} (vec : Word) {l : Nat} (hl : l < g.lanes.length) (hon : path.getLsbD l = true) :
    (((g.record r).enterHandler path vec).lane l).pc = vec := by
  have hlanes := ((g.record r).enterHandler_lanes path vec).trans (Group.mapLanes_lanes (g.lanes_of_words r.word0 r.word1 r.word2 r.word3) path _)
  rw [Group.lane, hlanes, ← Group.lane, lane_map _ _ _ _ hl, if_pos hon]

theorem exec_sequencerFaultDelivery {lanes : Mask} {pc : Word} {q : QKey} {r : TrapRec} (hc : s.cur = .path k lanes pc) (hf : s.heldFault k.blk = some (q, r)) (hd : s.drained = true) :
    exec .sequencerFaultDelivery s = .next ((s.onSeq q (fun e => { e with fault := none })).enterTrap k { r with resume := pc, path := lanes }) := by
  change execSequencerFaultDelivery s = _
  simp only [execSequencerFaultDelivery, hc, hf, hd, if_true]

end

end Sys2Proof.Machine

open Sys2Proof Sys2Proof.Machine in
/-- Settles O28: the lanes whose wait is over are the mask that `State.endPathWait` is given. -/
theorem pathWaitEnds : Obligations.PathWaitEnds := by
  intro s k g b ha hg hb waiters goOn counted freed
  constructor
  · rintro ⟨l, hl, hw⟩
    obtain ⟨g', hg', hon⟩ := State.endPathWait_acquire_waitersGoOn hg (s.barFree_iff k.blk) (.grp k) .block
    exact ⟨_, g', exec_barrierWaitEnd ha hg ((g.waiting_ne_zero _).2 ⟨l, hl, (s.barFree_iff k.blk _).2 hw⟩), hg', hon⟩
  · rintro ⟨l, hl, hw⟩
    obtain ⟨g', hg', hon⟩ := State.endPathWait_acquire_waitersGoOn hg (State.awaitFree_iff hb) (.grp k) .pod
    exact ⟨_, g', exec_awaitComplete ha hg ((g.waiting_ne_zero _).2 ⟨l, hl, (State.awaitFree_iff hb _).2 hw⟩), hg', hon⟩

open Sys2Proof Sys2Proof.Machine in
/-- Settles O32: RDV and its end ask `State.joined`, a park without a fault leaves `Group.parkEnd`, and a held fault is taken as a trap of the producer's path. -/
theorem countersAndJoins : Obligations.CountersAndJoins := by
  refine ⟨fun s m clr k ga h => ?acset, fun s m k b hb => ⟨fun h hv => ?await, fun h => ?rdv⟩, ?rdvComplete, ?park, ?delivery⟩
  case acset =>
    change execAcset m k ga clr s = _
    exact uni_run h
  case await =>
    rw [exec_await h, State.reachedNow_eq hb hv]
    exact ⟨fun hle => by rw [if_pos (show b.reached k.toNat = true from decide_eq_true hle)], fun hlt => by rw [if_neg]; simpa [Block.reached] using hlt⟩
  case rdv =>
    rw [exec_rdv h]
    exact ⟨fun hall => by rw [if_pos ((s.joined_iff _).2 hall)], fun hrun => by rw [if_neg (State.not_joined hrun)]⟩
  case rdvComplete =>
    intro s k g b ha hg hb hwait
    rw [exec_rdvComplete ha hg]
    refine ⟨fun hrun => by rw [if_neg fun h => State.not_joined hrun h.2], fun hall => ?_⟩
    have hwaiting : g.waiting (fun w => decide (w = .rdv)) ≠ 0 := (g.waiting_ne_zero _).2 (by simpa using hwait)
    rw [if_pos ⟨hwaiting, (s.joined_iff _).2 hall⟩]
    obtain ⟨g', hg', hon⟩ := State.endPathWait_waitersGoOn (s := s.onBlock k.blk (fun b => { b with forked := false })) hg (p := fun w => decide (w = .rdv)) (fun w => decide_eq_true_iff)
    exact ⟨_, g', _, rfl, hg', upd_some _ hb, rfl, hon⟩
  case park =>
    intro s k g lanes resume ha hg hw
    rw [exec_parkComplete_group ha]
    refine ⟨fun ho => by rw [State.unpark_waits hg ho.ne'], fun ho hd hab => ?_⟩
    rw [State.unpark_ends hg hw ho hd hab]
    exact ⟨_, _, rfl, look_put _ _ _, rfl, g.parkEnd_lanes _ _, g.parkEnd_pendV _ _, g.parkEnd_pendG _ _⟩
  case delivery =>
    intro s k lanes pc g b q r vec hp hb hf hd hh hr hv
    rw [exec_sequencerFaultDelivery hp.1 hf hd,
      State.enterTrap_handler (s := s.onSeq q (fun e => { e with fault := none })) (r := { r with resume := pc, path := lanes }) hp.2 hb hr hh hv]
    exact ⟨_, _, rfl, look_put _ _ _, rfl, rfl, rfl, rfl, rfl, fun l hl hon => g.record_enterHandler_lane _ vec hl hon, fun x hx => ⟨_, upd_some _ hx, rfl⟩⟩

/-! PROOFS, 05 R138 and R139, 08 R246: numbered barriers and GSYNC. -/

namespace Sys2Proof.Machine

/-! ### A barrier of a block -/

theorem Block.bar_modify {b : Block} {n : Nat} (hn : n < b.bars.length) (f : Barrier → Barrier) : ({ b with bars := b.bars.modify n f } : Block).bar n = f (b.bar n) := by
  simp [Block.bar, List.getD_eq_getElem?_getD, hn]

section
variable {s : State} {key : GKey} {lanes : Mask} {pc : Word} {g : Group} {b : Block} (hp : s.pathIs key lanes pc g)
include hp

theorem State.pathIs.curBar (hb : look s.blocks key.blk = some b) (n : Nat) : s.curBar n = b.bar n := by
  simp only [State.curBar, hp.curBlk, hb]

/-- The barriers that a path finds are its block's, where a pair has changed none. -/
theorem State.pathIs.barNow (hb : look s.blocks key.blk = some b) (hv : ∀ v, g.view = some v → v.bars = b.bars) (n : Nat) : s.barNow n = b.bar n := by
  unfold State.barNow
  rw [hp.curGroup, Option.elim_some]
  split
  · next v hview =>
    rw [hv v hview]
    rfl
  · exact hp.curBar hb n

end

/-- The end of an instruction leaves the blocks. -/
theorem State.finish_blocks (s : State) (m : Bool) (len : Nat) : (s.finish m len).blocks = s.blocks := by
  have hadvance : (s.advance len).blocks = s.blocks := by
    unfold State.advance
    split <;> rfl
  unfold State.finish State.mark
  split
  · split
    · exact hadvance
    · exact hadvance
    · exact hadvance
  · exact hadvance

/-! ### Arrivals -/

/-- The lanes of a group that have arrived in the phase under way. -/
def Barrier.arrived (x : Barrier) (gid : Nat) : Mask := (x.arrivals.find? (fun a => a.gid == gid)).elim 0 (fun a => a.lanes)

/-- The lanes of a path may arrive with a mask (05 R138): no fault of an arrival is found. -/
def Barrier.mayArrive (x : Barrier) (g : Group) (gid : Nat) (mask lanes : Mask) : Prop :=
  x.expected ≠ none ∧ gid ∉ x.done ∧ (∀ a ∈ x.arrivals, a.gid = gid → a.mask = mask) ∧ lanes &&& ~~~mask = 0 ∧ mask &&& ~~~g.live = 0

/-- An arrival counts once it holds every lane of its mask. -/
theorem Barrier.arrive_count (x : Barrier) (gid : Nat) (mask lanes : Mask) :
    (x.arrive gid mask lanes).count = (if x.arrived gid ||| lanes = mask then x.count + 1 else x.count) ∧ (x.arrive gid mask lanes).phase = x.phase ∧ (x.arrive gid mask lanes).expected = x.expected := by
  by_cases h : x.arrived gid ||| lanes = mask
  · have heq : x.arrive gid mask lanes = { x with arrivals := x.arrivals.filter (fun a => !(a.gid == gid)), done := x.done ++ [gid], count := x.count + 1, last := put x.last gid x.phase } := if_pos h
    rw [if_pos h, heq]
    exact ⟨rfl, rfl, rfl⟩
  · have heq : x.arrive gid mask lanes = { x with arrivals := x.arrivals.filter (fun a => !(a.gid == gid)) ++ [{ gid := gid, mask := mask, lanes := x.arrived gid ||| lanes }], last := put x.last gid x.phase } := if_neg h
    rw [if_neg h, heq]
    exact ⟨rfl, rfl, rfl⟩

/-- An arrival that is not the last of its phase leaves the count below the expected one. -/
theorem Barrier.arrive_lt {x : Barrier} {gid e : Nat} {mask lanes : Mask} (hlt : x.count < e) (h : ¬ (x.arrived gid ||| lanes = mask ∧ x.count + 1 = e)) :
    (x.arrive gid mask lanes).count < e := by
  rw [(x.arrive_count gid mask lanes).1]
  split
  · next hall => exact lt_of_le_of_ne hlt fun hl => h ⟨hall, hl⟩
  · exact hlt

/-- BARINIT of a barrier. -/
def Barrier.initialised (x : Barrier) (e : Nat) : Barrier := { x with expected := some e, count := 0, last := [], lastSeq := [] }

section
variable {s : State} {blk n e : Nat} {b : Block} (hb : look s.blocks blk = some b) (he : (b.bar n).expected = some e)
include hb he

/-- Below the expected count no phase completes. -/
theorem State.completePhase_below (h : (b.bar n).count < e) : s.completePhase blk n = s := by
  simp only [State.completePhase, hb, he]
  rw [if_neg (not_le.2 h)]

/-- The count that reaches the expected one inverts the phase and is 0 again. -/
theorem State.completePhase_bar (hn : n < b.bars.length) (h : e ≤ (b.bar n).count) :
    ∃ b', look (s.completePhase blk n).blocks blk = some b' ∧ (b'.bar n).count = 0 ∧ (b'.bar n).phase = !(b.bar n).phase := by
  simp only [State.completePhase, hb, he]
  rw [if_pos h]
  refine ⟨_, look_put _ _ _, ?_⟩
  rw [Block.bar_modify hn]
  exact ⟨rfl, rfl⟩

end

/-- A table whose values are changed by their keys. -/
theorem look_map_if {κ α : Type} [DecidableEq κ] (c : κ → Prop) [DecidablePred c] (f : α → α) (l : List (κ × α)) (k : κ) :
    look (l.map (fun e => if c e.1 then (e.1, f e.2) else e)) k = (look l k).map (fun a => if c k then f a else a) := by
  induction l with
  | nil => rfl
  | cons e r ih =>
    obtain ⟨j, a⟩ := e
    rw [List.map_cons]
    by_cases hj : j = k
    · subst hj
      by_cases hc : c j <;> simp [look, hc]
    · by_cases hc : c j <;> simp [look, hc, hj, ih]

/-- A wait at barrier n, which a phase that completes releases. -/
def PathWait.freed (n : Nat) (w : PathWait) : PathWait :=
  match w with
  | .bar j (some _) => if j = n then .bar j Option.none else w
  | _ => w

/-- A group after a phase of its block's barrier n. -/
def Group.freed (n : Nat) (g : Group) : Group :=
  { g with lanes := g.lanes.map (fun l => { l with wait := l.wait.freed n }), heldBar := g.heldBar.map (fun h => (h.1.freed n, h.2)) }

/-- A phase that completes changes no more of a group's lanes than their waits. -/
theorem State.completePhase_group {s : State} {k : GKey} {g : Group} (hg : look s.groups k = some g) (blk n : Nat) :
    ∃ (g' : Group) (f : PathWait → PathWait), look (s.completePhase blk n).groups k = some g' ∧ g'.lanes = g.lanes.map (fun x => { x with wait := f x.wait }) := by
  have hsame : ∃ (g' : Group) (f : PathWait → PathWait), look s.groups k = some g' ∧ g'.lanes = g.lanes.map (fun x => { x with wait := f x.wait }) := ⟨g, id, hg, (List.map_id _).symm⟩
  unfold State.completePhase
  split
  · exact hsame
  · dsimp only
    split
    · exact hsame
    · split
      · have hlook : look (s.groups.map (fun e => if e.1.blk = blk then (e.1, e.2.freed n) else e)) k = some (if k.blk = blk then g.freed n else g) :=
          (look_map_if (fun j : GKey => j.blk = blk) _ s.groups k).trans (by rw [hg, Option.map_some])
        by_cases hk : k.blk = blk
        · rw [if_pos hk] at hlook
          exact ⟨_, PathWait.freed n, hlook, rfl⟩
        · rw [if_neg hk] at hlook
          exact ⟨g, id, hlook, (List.map_id _).symm⟩
      · exact hsame

theorem State.completePhase_cur (s : State) (blk n : Nat) : (s.completePhase blk n).cur = s.cur := by
  unfold State.completePhase
  split
  · rfl
  · dsimp only
    split
    · rfl
    · split <;> rfl

/-- The barrier after a path's arrival, before a phase completes. -/
def State.joins (s : State) (x : Barrier) (gid : Nat) (mask lanes : Mask) : Barrier :=
  { x.arrive gid mask lanes with releasing := (x.arrive gid mask lanes).releasing ++ s.releases }

section
variable {s : State} {key : GKey} {lanes : Mask} {pc : Word} {g : Group} {b : Block} {n gb : Nat} (hp : s.pathIs key lanes pc g)
include hp

theorem State.pathIs.arrive : s.arrive n gb =
    (s.onBlock key.blk (fun b => { b with bars := b.bars.modify n (fun x => s.joins x key.gid (s.readU 1 gb) lanes) })).completePhase key.blk n := by
  simp only [State.arrive, hp.1, State.curBlk, State.onBlock_cur]
  rfl

/-- A path's arrival changes no more of its group's lanes than their waits. -/
theorem State.pathIs.arrive_group : (s.arrive n gb).cur = .path key lanes pc ∧
    ∃ (g' : Group) (f : PathWait → PathWait), look (s.arrive n gb).groups key = some g' ∧ g'.lanes = g.lanes.map (fun x => { x with wait := f x.wait }) := by
  rw [hp.arrive, State.completePhase_cur]
  exact ⟨hp.1, State.completePhase_group (s := s.onBlock key.blk _) hp.2 key.blk n⟩

theorem State.pathIs.deadLanes (mask : Mask) : s.deadLanes mask = mask &&& ~~~g.live := by
  simp only [State.deadLanes, hp.curGroup]

theorem State.pathIs.maskReads : s.maskReads gb = [gb] := by
  simp only [State.maskReads, hp.1]

variable (hb : look s.blocks key.blk = some b)
include hb

/-- The arrival that is the last of its phase inverts it. -/
theorem State.pathIs.arrive_last (hn : n < b.bars.length) (hall : (b.bar n).arrived key.gid ||| lanes = s.readU 1 gb) (he : (b.bar n).expected = some ((b.bar n).count + 1)) :
    ∃ b', look (s.arrive n gb).blocks key.blk = some b' ∧ (b'.bar n).count = 0 ∧ (b'.bar n).phase = !(b.bar n).phase := by
  have hbar := Block.bar_modify hn (fun x => s.joins x key.gid (s.readU 1 gb) lanes)
  obtain ⟨hcount, hphase, hexp⟩ := (b.bar n).arrive_count key.gid (s.readU 1 gb) lanes
  rw [if_pos hall] at hcount
  rw [hp.arrive]
  have hmid : look (s.onBlock key.blk (fun b => { b with bars := b.bars.modify n (fun x => s.joins x key.gid (s.readU 1 gb) lanes) })).blocks key.blk =
      some { b with bars := b.bars.modify n (fun x => s.joins x key.gid (s.readU 1 gb) lanes) } := upd_some _ hb
  obtain ⟨b', hb', hc', hp'⟩ := State.completePhase_bar (n := n) hmid (by rw [hbar]; exact hexp.trans he) (by simpa using hn) (by rw [hbar]; exact hcount.ge)
  refine ⟨b', hb', hc', hp'.trans ?_⟩
  rw [hbar]
  exact congrArg (!·) hphase

/-- Before that the phase stands. -/
theorem State.pathIs.arrive_early (hn : n < b.bars.length) {e : Nat} (he : (b.bar n).expected = some e)
    (hlt : (b.bar n).count < e) (h : ¬ ((b.bar n).arrived key.gid ||| lanes = s.readU 1 gb ∧ (b.bar n).count + 1 = e)) :
    ∃ b', look (s.arrive n gb).blocks key.blk = some b' ∧ (b'.bar n).count = ((b.bar n).arrive key.gid (s.readU 1 gb) lanes).count ∧ (b'.bar n).phase = (b.bar n).phase := by
  have hbar := Block.bar_modify hn (fun x => s.joins x key.gid (s.readU 1 gb) lanes)
  obtain ⟨-, hphase, hexp⟩ := (b.bar n).arrive_count key.gid (s.readU 1 gb) lanes
  have hmid : look (s.onBlock key.blk (fun b => { b with bars := b.bars.modify n (fun x => s.joins x key.gid (s.readU 1 gb) lanes) })).blocks key.blk =
      some { b with bars := b.bars.modify n (fun x => s.joins x key.gid (s.readU 1 gb) lanes) } := upd_some _ hb
  rw [hp.arrive, State.completePhase_below hmid (by rw [hbar]; exact hexp.trans he) (by rw [hbar]; exact Barrier.arrive_lt hlt h)]
  refine ⟨_, hmid, ?_⟩
  rw [hbar]
  exact ⟨rfl, hphase⟩

/-- A path that may arrive finds no fault of an arrival. -/
theorem State.pathIs.arriveExcs_none (hv : ∀ v, g.view = some v → v.bars = b.bars) (h : (b.bar n).mayArrive g key.gid (s.readU 1 gb) lanes) : firstExc (s.arriveExcs n gb) = none := by
  obtain ⟨hset, hdone, hmask, hlanes, hlive⟩ := h
  have hother : (b.bar n).arrivals.any (fun a => a.gid == key.gid && a.mask != s.readU 1 gb) = false := by
    rw [List.any_eq_false]
    intro a ha
    simpa using hmask a ha
  have hdead : s.deadLanes (s.readU 1 gb) = 0 := (hp.deadLanes _).trans hlive
  simp only [State.arriveExcs, hp.1, hp.barNow hb hv, hp.curBar hb]
  rw [excIf_false (beq_eq_false_iff_ne.2 hset), excIf_false (by simpa using hdone), hother, hdead, hlanes]
  rfl

/-- A path that arrives runs the rest of its instruction after. -/
theorem State.pathIs.curBar_arrive_phase (hn : n < b.bars.length) {e : Nat} (he : (b.bar n).expected = some e) (hlt : (b.bar n).count < e) :
    ((s.arrive n gb).curBar n).phase ≠ (b.bar n).phase ↔ (b.bar n).arrived key.gid ||| lanes = s.readU 1 gb ∧ (b.bar n).count + 1 = e := by
  have hcur : (s.arrive n gb).curBlk = key.blk := by simp only [State.curBlk, hp.arrive_group.1]
  by_cases h : (b.bar n).arrived key.gid ||| lanes = s.readU 1 gb ∧ (b.bar n).count + 1 = e
  · obtain ⟨b', hb', -, hphase⟩ := hp.arrive_last hb hn h.1 (he.trans (congrArg some h.2.symm))
    simp only [State.curBar, hcur, hb', hphase, h, and_self, iff_true]
    exact Bool.not_ne_self _
  · obtain ⟨b', hb', -, hphase⟩ := hp.arrive_early hb hn he hlt h
    simp only [State.curBar, hcur, hb', hphase, h, ne_eq, not_true_eq_false]

end

/-! ### The instructions of a barrier -/

section
variable {s : State} {m : Bool} {k : BitVec 4} {key : GKey} {lanes : Mask} {pc : Word} {g : Group} {b : Block} (hp : s.pathIs key lanes pc g) (hb : look s.blocks key.blk = some b)
include hp hb

theorem exec_barinit {ga : BitVec 9} (h : s.uniReady .any false [ga.toNat] [ga.toNat] = true) (hcount : (b.bar k.toNat).count = 0)
    (hlo : 1 ≤ (s.readU 0 ga.toNat).toNat) (hhi : (s.readU 0 ga.toNat).toNat ≤ 66) :
    exec (.barinit m k ga) s = .next ((s.onBlock key.blk (fun b => { b with bars := b.bars.modify k.toNat (fun x => x.initialised (s.readU 0 ga.toNat).toNat) })).finish m 8) := by
  rw [← hp.curBlk]
  change execBarinit m k ga s = _
  refine uni_next h ?_
  rw [hp.curBar hb, hcount, excIf_false (by simp; omega)]
  rfl

variable (hv : ∀ v, g.view = some v → v.bars = b.bars)
include hv

theorem exec_barwait (h : s.uniReady .any true [] [] = true) (hset : (b.bar k.toNat).expected ≠ none) :
    exec (.barwait m k) s = .next (s.barWait k.toNat (((look (b.bar k.toNat).last key.gid)).getD (b.bar k.toNat).phase) m) := by
  have hphase : s.waitPhase k.toNat = (look (b.bar k.toNat).last key.gid).getD (b.bar k.toNat).phase := by
    simp only [State.waitPhase, hp.1, hp.barNow hb hv]
  rw [← hphase]
  change execBarwait m k s = _
  refine uniJump_next h ?_
  rw [hp.barNow hb hv, excIf_false (beq_eq_false_iff_ne.2 hset)]
  rfl

variable {gb : BitVec 9} (hmay : (b.bar k.toNat).mayArrive g key.gid (s.readU 1 gb.toNat) lanes)
include hmay

theorem exec_bararv (h : s.uniReady .any false [gb.toNat] [gb.toNat] = true) : exec (.bararv m k gb) s = .next ((s.arrive k.toNat gb.toNat).finish m 8) := by
  change execBararv m k gb s = _
  exact uni_next (hp.maskReads ▸ h) (hp.arriveExcs_none hb hv hmay)

theorem exec_barsync (h : s.uniReady .any true [gb.toNat] [gb.toNat] = true) :
    exec (.barsync m k gb) s = .next ((s.arrive k.toNat gb.toNat).barJoin k.toNat (b.bar k.toNat).phase m) := by
  rw [← hp.curBar hb]
  change execBarsync m k gb s = _
  exact uniJump_next (hp.maskReads ▸ h) (hp.arriveExcs_none hb hv hmay)

end

/-! ### GSYNC -/

section
variable {s : State} {k : GKey} {lanes : Mask} {pc : Word} {g : Group}

theorem State.pathIs.pathWait (hp : s.pathIs k lanes pc g) (w : PathWait) (m : Bool) :
    s.pathWait w m = s.onGroup k (fun g => g.mapLanes lanes (fun _ x => { x with wait := w, marked := m })) := by
  simp only [State.pathWait, hp.1]

theorem State.gsyncRelease_waits {mask : Mask} (hg : look s.groups k = some g) (h : ¬ mask &&& ~~~(g.waiting (fun w => decide (w = .gsync mask))) = 0) :
    s.gsyncRelease k mask = s := by
  simp only [State.gsyncRelease, hg, if_neg h]

/-- Where all lanes of the mask wait they go on. -/
theorem State.gsyncRelease_goes {mask : Mask} (hg : look s.groups k = some g) (h : mask &&& ~~~(g.waiting (fun w => decide (w = .gsync mask))) = 0) :
    ∃ g', look (s.gsyncRelease k mask).groups k = some g' ∧ (s.gsyncRelease k mask).mem = s.mem ∧
      ∀ l, l < g.lanes.length → g'.lane l = if mask.getLsbD l then (g.lane l).goesOn else g.lane l := by
  have hrel : s.gsyncRelease k mask = (s.onGroup k (fun x => { x with syncs := (x.syncs ++ [(mask, s.nextTxn)]).filter (s.joinOpen k) })).endPathWait k mask := by
    simp only [State.gsyncRelease, hg, if_pos h]
  have hmid : look (s.onGroup k (fun x => { x with syncs := (x.syncs ++ [(mask, s.nextTxn)]).filter (s.joinOpen k) })).groups k =
      some { g with syncs := (g.syncs ++ [(mask, s.nextTxn)]).filter (s.joinOpen k) } := upd_some _ hg
  obtain ⟨g', hg', hlane⟩ := State.look_endPathWait hmid mask
  rw [hrel]
  exact ⟨g', hg', rfl, hlane⟩

/-- A group whose lanes of a path have come to a GSYNC. -/
def Group.joining (g : Group) (lanes mask : Mask) (m : Bool) : Group := g.mapLanes lanes (fun _ x => { x with wait := .gsync mask, marked := m })

theorem Group.joining_length (g : Group) (lanes mask : Mask) (m : Bool) : (g.joining lanes mask m).lanes.length = g.lanes.length := by
  simp [Group.joining, Group.mapLanes]

theorem Group.joining_lane (g : Group) {mask : Mask} {m : Bool} {l : Nat} (hl : l < g.lanes.length) (hon : lanes.getLsbD l = true) :
    (g.joining lanes mask m).lane l = { g.lane l with wait := .gsync mask, marked := m } :=
  (lane_map _ _ _ _ hl).trans (if_pos hon)

theorem Group.joining_lane_off (g : Group) {mask : Mask} {m : Bool} {l : Nat} (hoff : lanes.getLsbD l = false) : (g.joining lanes mask m).lane l = g.lane l :=
  lane_map_off _ _ _ _ hoff

theorem Group.joining_pc (g : Group) {mask : Mask} {m : Bool} {l : Nat} (hl : l < g.lanes.length) : ((g.joining lanes mask m).lane l).pc = (g.lane l).pc := by
  by_cases hon : lanes.getLsbD l = true
  · rw [g.joining_lane hl hon]
  · rw [g.joining_lane_off (Bool.eq_false_iff.2 hon)]

/-- All lanes of the mask wait at its GSYNC exactly where those off the path do. -/
theorem Group.joining_all (g : Group) {mask : Mask} {m : Bool} (hlive : ∀ l, l < 32 → mask.getLsbD l = true → l < g.lanes.length) :
    mask &&& ~~~((g.joining lanes mask m).waiting (fun w => decide (w = .gsync mask))) = 0 ↔
      ∀ l, l < 32 → mask.getLsbD l = true → lanes.getLsbD l = false → (g.lane l).wait = .gsync mask := by
  rw [mask_andNot_eq_zero_iff]
  refine forall₃_congr fun l h32 hl => ?_
  rw [Group.getLsbD_waiting _ _ h32, decide_eq_true_iff]
  by_cases hon : lanes.getLsbD l = true
  · rw [g.joining_lane (hlive l h32 hl) hon]
    simp only [true_iff]
    exact fun hoff => absurd hon (by rw [hoff]; exact Bool.false_ne_true)
  · rw [g.joining_lane_off (Bool.eq_false_iff.2 hon)]
    exact ⟨fun h _ => h, fun h => h (Bool.eq_false_iff.2 hon)⟩

/-- A live lane is one of the group's list. -/
theorem Group.lt_length_of_live {l : Nat} (hl : l < 32) (h : g.live.getLsbD l = true) : l < g.lanes.length := by
  by_contra hge
  rw [Group.live, g.getLsbD_lanesWhere _ hl, g.lane_eq_gone (not_lt.1 hge)] at h
  exact absurd h (by decide)

section
variable {mask : Mask} (hp : s.pathIs k lanes pc g) (hin : lanes &&& ~~~mask = 0) (hlive : mask &&& ~~~g.live = 0)
include hp hin hlive

theorem exec_gsync {m : Bool} {gb : BitVec 9} (h : s.uniReady .group true [gb.toNat] [gb.toNat] = true) (hmask : s.readU 1 gb.toNat = mask) (hclash : g.gsyncClash mask = false) :
    exec (.gsync m gb) s = .next ((s.pathWait (.gsync mask) m).gsyncRelease k mask) := by
  subst hmask
  change execGsync m gb s = _
  rw [execGsync, uniJump_next h (by
    rw [hp.curLanes, hp.curGroup, Option.elim_some, hin, (hp.deadLanes _).trans hlive, hclash]
    rfl)]
  simp only [hp.1]

omit hin in
/-- What a GSYNC leaves of its group: where the lanes off the path wait at it all lanes of the mask go on, and else the path waits. -/
theorem State.pathIs.gsync_lanes (m : Bool) :
    ∃ g', look ((s.pathWait (.gsync mask) m).gsyncRelease k mask).groups k = some g' ∧ ((s.pathWait (.gsync mask) m).gsyncRelease k mask).mem = s.mem ∧
      ((∀ l, l < 32 → mask.getLsbD l = true → lanes.getLsbD l = false → (g.lane l).wait = .gsync mask) →
        ∀ l, l < g.lanes.length → g'.lane l = if mask.getLsbD l then ((g.joining lanes mask m).lane l).goesOn else (g.joining lanes mask m).lane l) ∧
      (¬ (∀ l, l < 32 → mask.getLsbD l = true → lanes.getLsbD l = false → (g.lane l).wait = .gsync mask) → g' = g.joining lanes mask m) := by
  have hg : look (s.pathWait (.gsync mask) m).groups k = some (g.joining lanes mask m) := by
    rw [hp.pathWait]
    exact upd_some _ hp.2
  have hmem : (s.pathWait (.gsync mask) m).mem = s.mem := by
    rw [hp.pathWait]
    rfl
  have hall := g.joining_all (lanes := lanes) (m := m) fun l h32 hl => Group.lt_length_of_live h32 (mask_andNot_eq_zero_iff.1 hlive l h32 hl)
  by_cases hothers : ∀ l, l < 32 → mask.getLsbD l = true → lanes.getLsbD l = false → (g.lane l).wait = .gsync mask
  · obtain ⟨g', hg', hrest, hlane⟩ := State.gsyncRelease_goes hg (hall.2 hothers)
    exact ⟨g', hg', hrest.trans hmem, fun _ l hl => hlane l (by rw [Group.joining_length]; exact hl), fun hno => absurd hothers hno⟩
  · rw [State.gsyncRelease_waits hg (mt hall.1 hothers)]
    exact ⟨_, hg, hmem, fun ho => absurd ho hothers, fun _ => rfl⟩

end

end

end Sys2Proof.Machine

open Sys2Proof Sys2Proof.Machine in
/-- Settles O27: an arrival is `Barrier.arrive` and the end of its phase, each of which `State.pathIs.arrive_last` and `arrive_early` give; a GSYNC waits, and where all lanes of its mask then wait they go on. -/
theorem barriers : Obligations.Barriers := by
  intro s m k ga gb key lanes pc g b hp hb hk hv x mask old may
  refine ⟨fun e h he hzero hlo hhi => ?barinit, fun e h hmay he hlt => ?bararv, fun h hset => ?barwait, fun e h hmay he hlt => ?barsync, fun h hin hlive hclash => ?gsync⟩
  case barinit =>
    subst he
    have hblk := upd_some (fun b : Block => { b with bars := b.bars.modify k.toNat (fun x => x.initialised (s.readU 0 ga.toNat).toNat) }) hb
    rw [exec_barinit hp hb h hzero hlo hhi]
    refine ⟨_, _, rfl, (congrArg (look · key.blk) (State.finish_blocks _ m 8)).trans hblk, ?_⟩
    rw [Block.bar_modify hk]
    exact ⟨rfl, rfl, rfl⟩
  case bararv =>
    have hblocks := State.finish_blocks (s.arrive k.toNat gb.toNat) m 8
    rw [exec_bararv hp hb hv hmay h]
    by_cases hlast : old ||| lanes = mask ∧ x.count + 1 = e
    · obtain ⟨b', hb', hc', hp'⟩ := hp.arrive_last hb hk hlast.1 (he.trans (congrArg some hlast.2.symm))
      exact ⟨_, b', rfl, hblocks ▸ hb', fun _ _ => ⟨hc', hp'⟩, fun _ hlt' => absurd hlast.2 hlt'.ne, fun hne => absurd hlast.1 hne⟩
    · obtain ⟨b', hb', hc', hp'⟩ := hp.arrive_early hb hk he hlt hlast
      rw [(x.arrive_count key.gid mask lanes).1] at hc'
      exact ⟨_, b', rfl, hblocks ▸ hb', fun hall hl => absurd ⟨hall, hl⟩ hlast, fun hall _ => ⟨hc'.trans (if_pos hall), hp'⟩, fun hne => ⟨hc'.trans (if_neg hne), hp'⟩⟩
  case barwait =>
    have hnow : s.barNow k.toNat = x := hp.barNow hb hv k.toNat
    rw [exec_barwait hp hb hv h hset]
    simp only [State.barWait, hnow, hp.curBlk, hp.curAgent]
    exact ⟨fun hne hclear => by rw [if_pos hne, if_pos hclear], fun hne hclear => by rw [if_pos hne, if_neg (by simp [hclear])], fun heq => by rw [if_neg (not_not.2 heq)]⟩
  case barsync =>
    obtain ⟨hcur, g', f, hg', hlanes⟩ := hp.arrive_group (n := k.toNat) (gb := gb.toNat)
    have hp' : (s.arrive k.toNat gb.toNat).pathIs key lanes pc g' := ⟨hcur, hg'⟩
    rw [exec_barsync hp hb hv hmay h, State.barJoin, hp'.pathWait]
    refine ⟨_, _, rfl, upd_some _ hg', fun l hl hon => ?_⟩
    rw [lane_map _ _ _ _ (by rw [hlanes, List.length_map]; exact hl), if_pos hon]
    refine ⟨?_, congrArg (PathWait.bar k.toNat) (if_congr (hp.curBar_arrive_phase hb hk he hlt) rfl rfl)⟩
    simp [Group.lane, hlanes, List.getD_eq_getElem?_getD, hl]
  case gsync =>
    intro others
    have hoffPath : ∀ l, l < 32 → mask.getLsbD l = false → lanes.getLsbD l = false := fun l h32 hoff => Bool.eq_false_iff.2 fun hon => by
      rw [mask_andNot_eq_zero_iff.1 hin l h32 hon] at hoff
      exact Bool.noConfusion hoff
    obtain ⟨g', hg', hmem, hgoes, hwaits⟩ := hp.gsync_lanes hlive m
    refine ⟨_, g', exec_gsync hp hin hlive h rfl hclash, hg', hmem, fun l hl h32 => ⟨fun ho hon => ?_, fun hno hon => ?_, fun hoff => ?_⟩⟩
    · rw [hgoes ho l hl, if_pos hon]
      exact ⟨congrArg (· + 8) (g.joining_pc hl), rfl⟩
    · rw [hwaits hno]
      exact ⟨g.joining_pc hl, by rw [g.joining_lane hl hon]⟩
    · have hoff' : lanes.getLsbD l = false := hoff.elim (hoffPath l h32) (·.2)
      by_cases ho : others
      · rw [hgoes ho l hl, if_neg (by rw [hoff.resolve_right fun hno => hno.1 ho]; exact Bool.false_ne_true), g.joining_lane_off hoff']
      · rw [hwaits ho, g.joining_lane_off hoff']

/-! PROOFS, 05 R130, R131 and R156, 08 R238: what a drain settles, the ends of paths and of programs, YIELD. -/

namespace Sys2Proof.Machine

/-! ### The end of a drain -/

/-- What a drain settles is what a park settles, the wait apart. -/
theorem Group.settle_payAcquire (g : Group) (stamp now : Nat) : (g.settle stamp).payAcquire now = { g.parkEnd stamp now with wait := g.wait } := by
  unfold Group.parkEnd Group.payAcquire
  split <;> rfl

section
variable {s : State} {k : GKey} {lanes : Mask} {pc : Word} {g : Group} (hp : s.pathIs k lanes pc g)
include hp

theorem State.pathIs.settleCur : s.settleCur = s.onGroup k (fun g => (g.settle s.freeCtr).payAcquire s.clock) := by
  simp only [State.settleCur, hp.1]

/-- A path that has drained is the path of its settled group. -/
theorem State.pathIs.settleCur_pathIs : s.settleCur.pathIs k lanes pc { g.parkEnd s.freeCtr s.clock with wait := g.wait } := by
  rw [hp.settleCur, ← g.settle_payAcquire]
  exact ⟨hp.1, upd_some _ hp.2⟩

theorem State.pathIs.settleCur_mem : s.settleCur.mem = s.mem := by
  rw [hp.settleCur]
  rfl

theorem State.pathIs.drained : s.drained = true ↔ g.outs = 0 ∧ g.deferred = [] := by
  simp [State.drained, hp.1, hp.2]

theorem State.pathIs.inRegion (h : g.region = none) : s.inRegion = false := by
  simp [State.inRegion, hp.1, hp.2, h]

/-- A path is ready for an instruction of a group that names no register, inside a region for one that it leaves open. -/
theorem State.pathIs.uniReady {closed : Bool} (h : closed = true → g.region = none) : s.uniReady .group closed [] [] = true := by
  have hopen : (closed && s.inRegion) = false := by
    cases closed with
    | false => rfl
    | true => exact hp.inRegion (h rfl)
  simp only [State.uniReady, resident_of_onPath hp.onPath, hopen, State.mayIssue, hp.1]
  rfl

end

theorem Group.parkEnd_outs (g : Group) (stamp now : Nat) : (g.parkEnd stamp now).outs = g.outs := by
  unfold Group.parkEnd Group.payAcquire
  split <;> rfl

/-! ### The end of a group -/

/-- The test of a group's end changes neither its lanes nor its handler, and ends a group that holds none. -/
theorem State.checkEnd_group {s : State} {k : GKey} {g : Group} (hg : look s.groups k = some g) :
    ∃ g', look (s.checkEnd k).groups k = some g' ∧ g'.lanes = g.lanes ∧ g'.handler = g.handler ∧ (g.live = 0 → g.handler = none → g.outs = 0 → g'.ended = true) := by
  simp only [State.checkEnd, hg]
  split
  · exact ⟨_, upd_some _ hg, rfl, rfl, fun _ _ _ => rfl⟩
  · next hnot =>
    refine ⟨g, hg, rfl, rfl, fun hl hh ho => ?_⟩
    by_contra hend
    exact hnot ⟨hl, hh, ho, by simpa using hend⟩

theorem State.checkEnd_mem (s : State) (k : GKey) : (s.checkEnd k).mem = s.mem := by
  unfold State.checkEnd
  split
  · rfl
  · split <;> rfl

theorem State.checkEnd_segs (s : State) (k : GKey) : (s.checkEnd k).segs = s.segs := by
  unfold State.checkEnd
  split
  · rfl
  · split <;> rfl

/-! ### EXIT -/

/-- A group whose lanes of a path have left by EXIT. -/
def Group.exits (g : Group) (lanes : Mask) : Group :=
  let rest := g.handling &&& ~~~lanes
  { (g.mapLanes lanes (fun _ x => { x with st := .exited })) with
    handler := if g.handler.isNone || rest == 0 then none else some rest
    heldBar := if g.handler.isNone || rest == 0 then none else g.heldBar }

theorem State.pathIs.exitLanes {s : State} {k : GKey} {lanes : Mask} {pc : Word} {g : Group} (hp : s.pathIs k lanes pc g) :
    s.exitLanes = (s.onGroup k (fun g => g.exits lanes)).checkEnd k := by
  simp only [State.exitLanes, hp.1]
  rfl

section
variable (g : Group) {lanes : Mask}

/-- The lanes of the path are Exited: one past the end of the list holds no thread. -/
theorem Group.exits_lane_on {l : Nat} (hon : lanes.getLsbD l = true) : ((g.exits lanes).lane l).st = .exited := by
  by_cases hl : l < g.lanes.length
  · exact congrArg Lane.st ((lane_map g lanes (fun _ x => { x with st := .exited }) l hl).trans (if_pos hon))
  · rw [Group.lane_eq_gone]
    · rfl
    · simpa [Group.exits, Group.mapLanes] using hl

theorem Group.exits_lane_off {l : Nat} (hoff : lanes.getLsbD l = false) : (g.exits lanes).lane l = g.lane l := lane_map_off _ _ _ _ hoff

/-- No lane is live where none is off the path. -/
theorem Group.exits_live (h : g.live &&& ~~~lanes = 0) : (g.exits lanes).live = 0 := by
  refine mask_eq_zero_iff.2 fun l hl => ?_
  rw [Group.live, Group.getLsbD_lanesWhere _ _ hl]
  by_cases hon : lanes.getLsbD l = true
  · rw [g.exits_lane_on hon]
    rfl
  · have hdead : g.live.getLsbD l = false := Bool.eq_false_iff.2 fun hlive => hon (mask_andNot_eq_zero_iff.1 h l hl hlive)
    rw [g.exits_lane_off (Bool.eq_false_iff.2 hon)]
    rwa [Group.live, Group.getLsbD_lanesWhere _ _ hl] at hdead

theorem Group.exits_handler (h : g.handler = none) : (g.exits lanes).handler = none := by
  simp [Group.exits, h]

end

/-- Groups of the same lanes have the same lanes live. -/
theorem Group.live_congr {g g' : Group} (h : g'.lanes = g.lanes) : g'.live = g.live := by
  simp only [Group.live, Group.lanesWhere, Group.lane, h]

theorem Group.lane_congr {g g' : Group} (h : g'.lanes = g.lanes) (l : Nat) : g'.lane l = g.lane l := by
  simp only [Group.lane, h]

/-- EXIT of a path that has drained. -/
theorem exec_exit {s : State} {m : Bool} {k : GKey} {lanes : Mask} {pc : Word} {g : Group} (hp : s.pathIs k lanes pc g) (hr : g.region = none) (hj : s.unjoined = false)
    (hpend : s.curPending &&& lanes = 0) (hd : s.drained = true) : exec (.exit m) s = .next s.settleCur.exitLanes := by
  change execExit m s = _
  rw [execExit, uniJump_next (hp.uniReady fun _ => hr) (by
    rw [hj, hp.curLanes, hpend]
    rfl), if_pos hd]

/-! ### ERET, YIELD and END -/

theorem State.mark_mem (s : State) (m : Bool) : (s.mark m).mem = s.mem := by
  unfold State.mark
  (repeat' split) <;> rfl

theorem State.mark_segs (s : State) (m : Bool) : (s.mark m).segs = s.segs := by
  unfold State.mark
  (repeat' split) <;> rfl

/-- The marker changes neither the lanes nor the handler of a path's group. -/
theorem State.pathIs.mark_group {s : State} {k : GKey} {lanes : Mask} {pc : Word} {g : Group} (hp : s.pathIs k lanes pc g) (m : Bool) :
    ∃ g', (s.mark m).pathIs k lanes pc g' ∧ g'.lanes = g.lanes ∧ g'.handler = g.handler := by
  cases m with
  | false => exact ⟨g, hp, rfl, rfl⟩
  | true =>
    have hmark : s.mark true = s.onGroup k (fun g => g.mark lanes) := by simp [State.mark, hp.1]
    rw [hmark]
    exact ⟨g.mark lanes, ⟨hp.1, upd_some _ hp.2⟩, by rw [g.mark_rest], by rw [g.mark_rest]⟩

theorem State.onSeq_onSeq (s : State) (q : QKey) (f h : Sequencer → Sequencer) : (s.onSeq q f).onSeq q h = s.onSeq q (fun e => h (f e)) := by
  cases hq : look s.seqs q <;> simp [State.onSeq, upd, hq, put_put]

section
variable {s : State} {m : Bool} {k : GKey} {lanes : Mask} {pc : Word} {g : Group} (hp : s.pathIs k lanes pc g)
include hp

theorem exec_eret {h : Mask} (hh : g.handler = some h) : exec (.eret m) s = .next ((s.leaveTrap k lanes).mark m) := by
  have hin : s.inHandler = true := by simp [State.inHandler, hp.curGroup, hh]
  change execEret m s = _
  rw [execEret, uniJump_next (hp.uniReady (closed := false) (fun h => absurd h Bool.false_ne_true)) (by rw [hin]; rfl)]
  simp only [hp.1]

theorem exec_yield_none {x : Slot} (hx : look s.slots (s.slotOf k) = some x) (hr : s.readyPending x = none) : exec (.yield m) s = .next (s.finish m 4) := by
  change execYield m s = _
  rw [execYield, uni_run (uniReady_of_resident (resident_of_onPath hp.onPath))]
  simp only [hp.1, hx, hr]

theorem exec_yield_some {x : Slot} {p : GKey} (hx : look s.slots (s.slotOf k) = some x) (hr : s.readyPending x = some p) (hk : k ∈ x.active) :
    exec (.yield m) s = .next ((s.exchange (s.slotOf k) k p).finish m 4) := by
  change execYield m s = _
  rw [execYield, uni_run (uniReady_of_resident (resident_of_onPath hp.onPath))]
  simp only [hp.1, hx, hr, List.contains_iff_mem, hk, if_true]

end

section
variable {s : State} {q : QKey} {e : Sequencer} (hq : s.cur = .seq q) (he : look s.seqs q = some e)
include hq he

theorem resident_of_curSeq : s.resident = true := by simp [State.resident, hq, he]

theorem exec_endSeq {m : Bool} (hd : s.drained = true) :
    exec (.endSeq m) s = .next (s.onSeq q (fun e => { e.settle s.freeCtr with running := false })) := by
  have hready : s.uniReady .seqOnly false [] [] = true := by
    simp [State.uniReady, State.mayIssue, resident_of_curSeq hq he, hq]
  have hsettle : s.settleCur = s.onSeq q (fun e => e.settle s.freeCtr) := by simp only [State.settleCur, hq]
  change execEndSeq m s = _
  rw [execEndSeq, uniJump_run hready, if_pos hd]
  simp only [hq]
  rw [hsettle, State.onSeq_onSeq]

end

end Sys2Proof.Machine

open Sys2Proof Sys2Proof.Machine in
/-- Settles O15: EXIT by `Group.exits` and the test of the group's end, ERET by `State.leaveTrap`, YIELD and END by what they run. -/
theorem pathEnds : Obligations.PathEnds := by
  refine ⟨fun s m k lanes pc g hp => ⟨fun hr hj hpend hd => ?exit, fun h hh => ?eret, fun x p hx hpen hact => ?yield, fun x hx hpen => ?noYield⟩, fun s m q e hq he hd => ?endSeq⟩
  case exit =>
    have hs := hp.settleCur_pathIs
    obtain ⟨hout, -⟩ := hp.drained.1 hd
    have hlanes : ({ g.parkEnd s.freeCtr s.clock with wait := g.wait } : Machine.Group).lanes = g.lanes := g.parkEnd_lanes _ _
    obtain ⟨g', hg', hl', hh', hend⟩ := State.checkEnd_group (s := s.settleCur.onGroup k (fun g => g.exits lanes)) (upd_some _ hs.2)
    rw [exec_exit hp hr hj hpend hd, hs.exitLanes]
    refine ⟨_, g', rfl, hg', (State.checkEnd_mem _ _).trans hp.settleCur_mem, fun l hon => ?_, fun l hoff => ?_, fun hlive hh _ => hend ?_ ?_ ?_⟩
    · rw [Group.lane_congr hl']
      exact Group.exits_lane_on _ hon
    · rw [Group.lane_congr hl', Group.exits_lane_off _ hoff]
      exact Group.lane_congr hlanes l
    · exact Group.exits_live _ (by rw [Group.live_congr hlanes]; exact hlive)
    · exact Group.exits_handler _ ((g.parkEnd_handler _ _).trans hh)
    · exact (g.parkEnd_outs _ _).trans hout
  case eret =>
    have hleft : (s.leaveTrap k lanes).pathIs k lanes pc _ := ⟨hp.1, upd_some _ hp.2⟩
    obtain ⟨g', hg', hl', hh'⟩ := hleft.mark_group m
    rw [exec_eret hp hh]
    refine ⟨_, g', rfl, hg'.2, State.mark_mem _ m, fun l hl hon => ?_, ?_⟩
    · have hlane := (lane_map g lanes (fun _ x => { x with st := .live, pc := g.fr3, wait := g.heldBar.elim .none Prod.fst, marked := g.heldBar.elim false Prod.snd }) l hl).trans (if_pos hon)
      rw [Group.lane_congr hl']
      exact ⟨congrArg Lane.st hlane, congrArg Lane.pc hlane⟩
    · rw [hh']
      simp only [Group.handling, hh, Option.getD_some]
  case yield => exact exec_yield_some hp hx hpen hact
  case noYield => exact exec_yield_none hp hx hpen
  case endSeq =>
    rw [exec_endSeq hq he hd]
    exact ⟨_, _, rfl, upd_some _ he, rfl, rfl, rfl⟩

/-! PROOFS, 05 R136: the spill branches. -/

namespace Sys2Proof.Machine

/-! ### Masks and their lists of lanes -/

theorem maskOf_lanesOf (m : Mask) : maskOf (lanesOf m) = m :=
  mask_ext fun l hl => by
    rw [getLsbD_maskOf _ hl]
    exact (Bool.decide_congr mem_lanesOf).trans Bool.decide_eq_true

theorem lanesOf_eq_nil {m : Mask} : lanesOf m = [] ↔ m = 0 := by
  simp only [List.eq_nil_iff_forall_not_mem, mem_lanesOf, mask_eq_zero_iff, Bool.not_eq_true]
  exact ⟨fun h l _ => h l, fun h l => (lt_or_ge l 32).elim (h l) (fun hl => BitVec.getLsbD_of_ge _ _ hl)⟩

/-- The lanes of a mask that are in another, or not. -/
theorem lanesOf_and (a b : Mask) : lanesOf (a &&& b) = (lanesOf a).filter (fun l => b.getLsbD l) := by
  rw [lanesOf_filter, lanesOf]
  exact List.filter_congr fun l _ => BitVec.getLsbD_and

theorem lanesOf_andNot (a b : Mask) : lanesOf (a &&& ~~~b) = (lanesOf a).filter (fun l => !b.getLsbD l) := by
  rw [lanesOf_and]
  refine List.filter_congr fun l hl => ?_
  rw [BitVec.getLsbD_not, decide_eq_true (BitVec.lt_of_getLsbD (mem_lanesOf.1 hl)), Bool.true_and]

/-- The lanes that spill: the smaller part, the taken one on a tie. -/
theorem lanesOf_spillPart (t n : Mask) (pc off : Word) :
    lanesOf (spillPart t n pc off).1 = if lanesOf t = [] ∨ lanesOf n = [] then [] else if (lanesOf t).length ≤ (lanesOf n).length then lanesOf t else lanesOf n := by
  simp only [lanesOf_eq_nil, spillPart, popMask]
  split
  · exact lanesOf_eq_nil.2 rfl
  · exact (apply_ite (fun p : Mask × Word => lanesOf p.1) _ _ _)

/-- Where some spill, they go on as a lane branch would. -/
theorem spillPart_pc {t n : Mask} (pc off : Word) (h : (spillPart t n pc off).1 ≠ 0) :
    (spillPart t n pc off).2 = if (lanesOf t).length ≤ (lanesOf n).length then pc + off else pc + 8 := by
  unfold spillPart at h ⊢
  split
  · next h0 => exact absurd (by rw [if_pos h0]) h
  · unfold popMask
    split <;> rfl

/-- No lane of a pending mask is in a part exactly where they have no lane in common. -/
theorem mask_and_eq_zero_iff {a b : Mask} : a &&& b = 0 ↔ ∀ l ∈ lanesOf b, a.getLsbD l = false := by
  rw [← lanesOf_eq_nil, BitVec.and_comm, lanesOf_and, List.filter_eq_nil_iff]
  exact forall₂_congr fun l _ => Bool.not_eq_true _ ▸ Iff.rfl

/-! ### The two parts of a path -/

section
variable {s : State} {va : BitVec 8} {k : GKey} {lanes : Mask} {pc : Word} {g : Group} (hp : s.pathIs k lanes pc g)
include hp

theorem State.pathIs.lanesOf_taken (z : Bool) : lanesOf (s.taken va z) = (lanesOf lanes).filter (fun l => (s.vread 0 va.toNat l == 0) == z) := by
  rw [State.taken, State.active, hp.curLanes, lanesOf_filter, lanesOf_maskOf]

theorem State.pathIs.lanesOf_notTaken (z : Bool) : lanesOf (s.curLanes &&& ~~~(s.taken va z)) = (lanesOf lanes).filter (fun l => !((s.vread 0 va.toNat l == 0) == z)) := by
  rw [hp.curLanes, lanesOf_andNot]
  exact List.filter_congr fun l hl => by rw [hp.getLsbD_taken z (mem_lanesOf.1 hl)]

end

/-! ### The checks and the effect -/

/-- The part of the current path that a spill branch spills, and where it goes on. -/
def State.spillPart (s : State) (va : BitVec 8) (off : Word) (z : Bool) : Mask × Word := Machine.spillPart (s.taken va z) (s.curLanes &&& ~~~(s.taken va z)) s.curPc off

/-- Where the lanes of a path go by a spill branch. -/
def State.spillPc (s : State) (va : BitVec 8) (off : Word) (z : Bool) (l : Nat) : Word :=
  if (s.spillPart va off z).1.getLsbD l then (s.spillPart va off z).2 else branchPc s.curPc (s.taken va z) off l

section
variable {s : State} {m z : Bool} {va gp : BitVec 8} {off : Word} {k : GKey} {lanes : Mask} {pc : Word} {g : Group} {b : Block}
  (hp : s.pathIs k lanes pc g) (hb : look s.blocks k.blk = some b)
  (h : s.laneReady [va.toNat] [2 * gp.toNat, 2 * gp.toNat + 1] [.v 0 va.toNat intTag, .g (2 * gp.toNat), .g (2 * gp.toNat + 1)] = true)
  (hr : g.region = none) (hmask : s.readPair 1 (2 * gp.toNat) / 2 ^ b.vregs = 0)
include hp hb h hr hmask

/-- The checks of a ready spill branch but its last pass. -/
theorem spillChecks_none : firstExc [s.nameExc [va.toNat] [2 * gp.toNat, 2 * gp.toNat + 1],
    excIf (decide (s.readPair 1 (2 * gp.toNat) / 2 ^ s.vLimit ≠ 0)) (.of .illegal), s.rowExc .group, s.closedExc true,
    s.poisonExc (.v 0 va.toNat intTag), s.struckExc [2 * gp.toNat, 2 * gp.toNat + 1], s.tagExc (.v 0 va.toNat intTag)] = none := by
  have hlim : s.vLimit = b.vregs := by simp only [State.vLimit, hp.1, hb]
  simp only [State.laneReady, Bool.and_eq_true] at h
  obtain ⟨⟨⟨hpath, hv⟩, hg⟩, hs⟩ := h
  obtain ⟨hva, hlo, hhi⟩ : s.srcReady (.v 0 va.toNat intTag) = true ∧ s.srcReady (.g (2 * gp.toNat)) = true ∧ s.srcReady (.g (2 * gp.toNat + 1)) = true := by
    simpa using hs
  obtain ⟨hpoison, htag⟩ : s.tagOf va.toNat ≠ .poison ∧ intTag (s.tagOf va.toNat) = true := by simpa [State.srcReady] using hva
  have hstruck : s.struckExc [2 * gp.toNat, 2 * gp.toNat + 1] = none := struckExc_none (by
    simp only [State.srcReady] at hlo hhi
    simp only [List.all_cons, hlo, hhi]
    rfl)
  rw [nameExc_none hv hg, hlim, hmask, State.rowExc_onPath hpath, State.closedExc, hp.inRegion hr, hstruck, State.poisonExc, State.tagExc, htag, excIf_false (b := s.tagOf va.toNat == .poison) (beq_eq_false_iff_ne.2 hpoison)]
  rfl

theorem spillBranch_raise (hpend : ¬ s.curPending &&& (s.spillPart va off z).1 = 0) : spillBranch s m va gp off z = .next (s.raise (.of .syncMask)) := by
  unfold spillBranch
  refine issue_raise (resident_of_onPath hp.onPath) ?_
  refine (firstExc_append_none (a := [_, _, _, _, _, _, _]) (spillChecks_none hp hb h hr hmask)).trans ?_
  exact congrArg (fun b => firstExc [excIf b (.of .syncMask)]) (bne_iff_ne.2 hpend)

theorem spillBranch_next (hpend : s.curPending &&& (s.spillPart va off z).1 = 0) : spillBranch s m va gp off z = .next
    (if (s.spillPart va off z).1 ≠ 0 ∧ !s.drained then s.drain
     else (((if (s.spillPart va off z).1 = 0 then s else s.settleCur.spill k (s.spillPart va off z).1 (s.spillPart va off z).2 (s.readPair 1 (2 * gp.toNat))).moveLanes
      (s.spillPc va off z)).mark m).checkEnd k) := by
  unfold spillBranch
  refine (issue_next (resident_of_onPath hp.onPath) ?_).trans ?_
  · refine (firstExc_append_none (a := [_, _, _, _, _, _, _]) (spillChecks_none hp hb h hr hmask)).trans ?_
    exact congrArg (fun b => firstExc [excIf b (.of .syncMask)]) (bne_eq_false_iff_eq.2 hpend)
  · simp only [hp.1]
    rfl

end

/-! ### Where the lanes go -/

/-- The end of a branch: the lanes of the path have moved, and the rest of the group's lanes and its handler stand. -/
theorem State.pathIs.moveLanes_end {s : State} {k : GKey} {lanes : Mask} {pc : Word} {g : Group} (hp : s.pathIs k lanes pc g) (f : Nat → Word) (m : Bool) :
    ∃ g', look (((s.moveLanes f).mark m).checkEnd k).groups k = some g' ∧ g'.lanes = (g.mapLanes lanes (fun l x => { x with pc := f l })).lanes ∧ g'.handler = g.handler ∧
      (((s.moveLanes f).mark m).checkEnd k).mem = s.mem ∧ (((s.moveLanes f).mark m).checkEnd k).segs = s.segs := by
  have hmoved : (s.moveLanes f).pathIs k lanes pc (g.mapLanes lanes (fun l x => { x with pc := f l })) := by
    rw [hp.moveLanes]
    exact ⟨hp.1, upd_some _ hp.2⟩
  have hrest : (s.moveLanes f).mem = s.mem ∧ (s.moveLanes f).segs = s.segs := by
    rw [hp.moveLanes]
    exact ⟨rfl, rfl⟩
  obtain ⟨g1, hg1, hl1, hh1⟩ := hmoved.mark_group m
  obtain ⟨g2, hg2, hl2, hh2, -⟩ := State.checkEnd_group hg1.2
  refine ⟨g2, hg2, hl2.trans hl1, hh2.trans hh1, ?_, ?_⟩
  · rw [State.checkEnd_mem, State.mark_mem, hrest.1]
  · rw [State.checkEnd_segs, State.mark_segs, hrest.2]

section
variable {s : State} {va : BitVec 8} {off : Word} {z : Bool} {k : GKey} {lanes : Mask} {pc : Word} {g : Group} (hp : s.pathIs k lanes pc g)
include hp

/-- The lanes that spill, as the spec names them. -/
theorem State.pathIs.lanesOf_spillPart (taken other : List Nat) (ht : taken = (lanesOf lanes).filter (fun l => (s.vread 0 va.toNat l == 0) == z))
    (ho : other = (lanesOf lanes).filter (fun l => !((s.vread 0 va.toNat l == 0) == z))) :
    lanesOf (s.spillPart va off z).1 = (if taken = [] ∨ other = [] then [] else if taken.length ≤ other.length then taken else other) ∧
      ((s.spillPart va off z).1 ≠ 0 → (s.spillPart va off z).2 = if taken.length ≤ other.length then pc + off else pc + 8) := by
  subst ht ho
  rw [← hp.lanesOf_taken, ← hp.lanesOf_notTaken, ← hp.curPc]
  exact ⟨Machine.lanesOf_spillPart _ _ _ _, spillPart_pc _ _⟩

/-- A lane of the path that does not spill goes where the branch leads it. -/
theorem State.pathIs.spillPc_off {l : Nat} (hon : lanes.getLsbD l = true) (hoff : l ∉ lanesOf (s.spillPart va off z).1) :
    s.spillPc va off z l = pc + if (s.vread 0 va.toNat l == 0) == z then off else 8 := by
  rw [State.spillPc, if_neg (mt mem_lanesOf.2 hoff), branchPc, hp.curPc, hp.getLsbD_taken z hon]

end

/-- A lane that has moved differs from what it was by its program counter alone. -/
theorem Group.moved_lane {g g' : Group} {lanes : Mask} {f : Nat → Word} (h : g'.lanes = (g.mapLanes lanes (fun l x => { x with pc := f l })).lanes) {l : Nat} (hl : l < g.lanes.length) :
    g'.lane l = { g.lane l with pc := if lanes.getLsbD l then f l else (g.lane l).pc } := by
  rw [Group.lane_congr h, lane_map _ _ _ _ hl]
  split <;> rfl

/-- A group whose lanes of a mask have spilled. -/
def Group.spills (g : Group) (x : Mask) : Group :=
  { (g.mapLanes x (fun _ y => { y with st := .spilled, ras := [] })) with handler := g.handler.map (fun h => h &&& ~~~x) }

theorem Group.spills_lane_on (g : Group) {x : Mask} {l : Nat} (hl : l < g.lanes.length) (hon : x.getLsbD l = true) :
    (g.spills x).lane l = { g.lane l with st := .spilled, ras := [] } :=
  (lane_map g x (fun _ y => { y with st := .spilled, ras := [] }) l hl).trans (if_pos hon)

theorem Group.spills_lane_off (g : Group) {x : Mask} {l : Nat} (hoff : x.getLsbD l = false) : (g.spills x).lane l = g.lane l := lane_map_off _ _ _ _ hoff

section
variable {s : State} {k : GKey} {lanes : Mask} {pc : Word} {g : Group} (hp : s.pathIs k lanes pc g)
include hp

/-- What a spill leaves: its lanes Spilled, and the records behind those of the segment. -/
theorem State.pathIs.spill {sg : Segment} (hsg : look s.segs ⟨k.blk, g.seg⟩ = some sg) (x : Mask) (xpc : Word) (mask : Nat) :
    (s.spill k x xpc mask).pathIs k lanes pc (g.spills x) ∧ (s.spill k x xpc mask).mem = s.mem ∧
      ∃ sg', look (s.spill k x xpc mask).segs ⟨k.blk, g.seg⟩ = some sg' ∧ sg'.spawn = sg.spawn ++ (lanesOf x).map (s.spawnRec k mask xpc) := by
  unfold State.spill
  dsimp only
  rw [State.blurArea_rest, hp.curSeg]
  exact ⟨⟨hp.1, upd_some _ hp.2⟩, rfl, _, upd_some _ hsg, rfl⟩

end

/-! ### The records -/

section
variable (g : Group) (stamp now : Nat)

/-- A path's group as a drain leaves it. -/
def Group.settled : Group := { g.parkEnd stamp now with wait := g.wait }

theorem Group.settled_lanes : (g.settled stamp now).lanes = g.lanes := g.parkEnd_lanes stamp now

theorem Group.settled_handler : (g.settled stamp now).handler = g.handler := g.parkEnd_handler stamp now

theorem Group.settled_seg : (g.settled stamp now).seg = g.seg := by
  unfold Group.settled Group.parkEnd Group.payAcquire
  split <;> rfl

theorem Group.settled_gwct : (g.settled stamp now).gwct = max g.gwct (g.owedGwct.getD 0) := by
  unfold Group.settled Group.parkEnd Group.payAcquire Group.settle
  split
  · next h => simp [show g.owedGwct = none from h]
  · next x h => simp [show g.owedGwct = some x from h]

theorem Group.settled_view : (g.settled stamp now).view = g.view.map (fun x => { x with v := undefineV stamp g.clobV x.v, g := undefineG stamp g.clobG x.g, pendV := [], pendG := [] }) := by
  unfold Group.settled Group.parkEnd Group.payAcquire
  split <;> rfl

/-- No word of a settled group is pending. -/
theorem Group.settled_pendVNow (r : Nat) : (g.settled stamp now).pendVNow r = 0 := by
  have hpend : (g.settled stamp now).pendV = [] := g.parkEnd_pendV stamp now
  unfold Group.pendVNow
  rw [g.settled_view, hpend]
  cases g.view <;> rfl

theorem Group.settled_spilledNow (l : Nat) : (g.settled stamp now).spilledNow l = g.spilledNow l := by
  unfold Group.spilledNow
  rw [g.settled_view, Group.lane_congr (g.settled_lanes stamp now)]
  cases g.view <;> rfl

/-- The words of a settled group stand where the park leaves none undefined. -/
theorem Group.settled_vNow (hc : g.clobV = []) : (g.settled stamp now).vNow = g.vNow := by
  have hv : (g.settled stamp now).v = undefineV stamp g.clobV g.v := g.parkEnd_v stamp now
  unfold Group.vNow
  rw [g.settled_view, hv, hc]
  cases g.view <;> rfl

theorem Group.settled_vread (hc : g.clobV = []) {l : Nat} (hs : g.spilledNow l = false) (n pos r : Nat) :
    (g.settled stamp now).vread n pos r l = (g.vNow.getD r VReg.zero).lanes.getD l 0 := by
  rw [Group.vread, g.settled_spilledNow, hs, g.settled_pendVNow, g.settled_vNow _ _ hc, getLsbD_noLanes]
  rfl

theorem Group.settled_tag (hc : g.clobV = []) (r : Nat) : (g.settled stamp now).tag r = g.tag r := by
  rw [Group.tag, Group.tag, g.settled_vNow _ _ hc]

/-- The record of a lane of the group that spills. -/
def Group.spawnOf (mask : Nat) (xpc : Word) (l : Nat) : Spawn :=
  { thread := (g.vNow.getD 0 VReg.zero).lanes.getD l 0, ras := (g.lane l).ras, xpc := xpc, gwct := max g.gwct (g.owedGwct.getD 0)
    regs := ((List.range 64).filter (fun j => mask / 2 ^ j % 2 == 1)).map (fun j => (j, g.tag j, (g.vNow.getD j VReg.zero).lanes.getD l 0)), marked := false, lost := false }

end

theorem State.pathIs.spawnRec_settled {s : State} {k : GKey} {lanes : Mask} {pc : Word} {g : Group} {stamp now : Nat} (hp : s.pathIs k lanes pc (g.settled stamp now))
    (hc : g.clobV = []) {l : Nat} (hs : g.spilledNow l = false) (mask : Nat) (xpc : Word) : s.spawnRec k mask xpc l = g.spawnOf mask xpc l := by
  simp only [State.spawnRec, hp.2, g.settled_vread _ _ hc hs, g.settled_tag _ _ hc, g.settled_gwct, Group.lane_congr (g.settled_lanes stamp now)]
  rfl

end Sys2Proof.Machine

open Sys2Proof Sys2Proof.Machine in
/-- Settles O14: the part that spills is `spillPart`, its records are those of the settled group, and the other lanes go where the branch leads them. -/
theorem spillBranches : Obligations.SpillBranches := by
  intro s m va gp off k lanes pc g b sg hp hb hsg h hr hmask mask spills
  have hboth : ∀ z i, exec i s = spillBranch s m va gp off z → spills z i := by
    intro z i hi
    obtain ⟨hout, hxpc⟩ := hp.lanesOf_spillPart (off := off) (va := va) (z := z) _ _ rfl rfl
    refine ⟨fun hnil => ?none, fun ⟨l, hl, hon⟩ => ?pending, fun hne hfree => ?parts⟩
    case none =>
      have hzero : (s.spillPart va off z).1 = 0 := lanesOf_eq_nil.1 (hout.trans hnil)
      obtain ⟨g', hg', hl', -, hmem, hsegs⟩ := hp.moveLanes_end (s.spillPc va off z) m
      refine ⟨_, g', hi.trans (spillBranch_next hp hb h hr hmask (by rw [hzero]; exact BitVec.and_zero)) |>.trans ?_, hg', hsegs, hmem, fun l hl hon hoff => ?_⟩
      · rw [if_neg (fun hs => hs.1 hzero), if_pos hzero]
      · rw [Group.moved_lane hl' hl, if_pos hon, hp.spillPc_off hon (hout ▸ hoff)]
        exact ⟨rfl, rfl, rfl⟩
    case pending =>
      refine hi.trans (spillBranch_raise hp hb h hr hmask fun hzero => ?_)
      rw [mask_and_eq_zero_iff.1 hzero l (hout ▸ hl)] at hon
      exact Bool.false_ne_true hon
    case parts =>
      have hsome : (s.spillPart va off z).1 ≠ 0 := fun hzero => hne (hout.symm.trans (lanesOf_eq_nil.2 hzero))
      have hnext := hi.trans (spillBranch_next (m := m) hp hb h hr hmask (mask_and_eq_zero_iff.2 (hout ▸ hfree)))
      refine ⟨fun hd => hnext.trans (by rw [if_pos ⟨hsome, by rw [hd]; rfl⟩]), fun hd hc hspilled => ?_⟩
      have hs : s.settleCur.pathIs k lanes pc (g.settled s.freeCtr s.clock) := hp.settleCur_pathIs
      have hseg : look s.settleCur.segs ⟨k.blk, (g.settled s.freeCtr s.clock).seg⟩ = some sg := by
        rw [g.settled_seg, hp.settleCur]
        exact hsg
      obtain ⟨hspill, hmem, sg', hsg', hrecs⟩ := hs.spill hseg (s.spillPart va off z).1 (s.spillPart va off z).2 mask
      obtain ⟨g', hg', hl', hh', hmem', hsegs'⟩ := hspill.moveLanes_end (s.spillPc va off z) m
      have hlen : ∀ l, l < g.lanes.length → l < ((g.settled s.freeCtr s.clock).spills (s.spillPart va off z).1).lanes.length := fun l hl => by
        simpa [Group.spills, Group.mapLanes, g.settled_lanes] using hl
      refine ⟨_, g', sg', hnext.trans ?_, hg', ?_, hmem'.trans (hmem.trans hp.settleCur_mem), fun l hl hon hoff => ?_, ?_, fun l hlo hl => ?_, ?_⟩
      · rw [if_neg (by rw [hd]; exact fun hs => Bool.false_ne_true hs.2), if_neg hsome]
      · rw [hsegs', ← g.settled_seg s.freeCtr s.clock]
        exact hsg'
      · rw [← hout] at hoff
        rw [Group.moved_lane hl' (hlen l hl), if_pos hon, hp.spillPc_off hon hoff, Group.spills_lane_off _ (Bool.eq_false_iff.2 (mt mem_lanesOf.2 hoff)), Group.lane_congr (g.settled_lanes _ _)]
        exact ⟨rfl, rfl, rfl⟩
      · rw [hrecs, ← hout, ← hxpc hsome]
        refine congrArg (sg.spawn ++ ·) (List.map_congr_left fun l hl => ?_)
        exact hs.spawnRec_settled hc (hspilled l (hout ▸ hl)) mask _
      · rw [← hout] at hlo
        rw [Group.moved_lane hl' (hlen l hl), Group.spills_lane_on _ (by rw [g.settled_lanes]; exact hl) (mem_lanesOf.1 hlo)]
        exact ⟨rfl, rfl⟩
      · rw [hh', ← hout, maskOf_lanesOf]
        exact congrArg (Option.map (fun h => h &&& ~~~(s.spillPart va off z).1)) (g.settled_handler _ _)
  exact ⟨hboth true _ rfl, hboth false _ rfl⟩

/-! PROOFS, 05 R124 to R127: the frame of the uniform instructions that write registers only. -/

namespace Sys2Proof.Machine

/-! ### Writes of a sequencer's registers -/

/-- From e to e' the e registers es have been written; all else in the sequencer stands. -/
structure Sequencer.Wrote (es : List Nat) (e e' : Sequencer) : Prop where
  rest : e' = { e with e := e'.e, struck := e'.struck, clob := e'.clob }
  other : ∀ r, r ∉ es → e'.e[r]? = e.e[r]?

theorem Sequencer.Wrote.trans {es : List Nat} {a b c : Sequencer} (hab : a.Wrote es b) (hbc : b.Wrote es c) : a.Wrote es c where
  rest := by rw [hbc.rest, hab.rest]
  other r hr := (hbc.other r hr).trans (hab.other r hr)

theorem Sequencer.ewrite_wrote {es : List Nat} {r : Nat} (hr : r ∈ es) (e : Sequencer) (w : Word) : e.Wrote es (e.ewrite r w) where
  rest := rfl
  other i hi := by
    have hne : r ≠ i := fun h => hi (h ▸ hr)
    simp [Sequencer.ewrite, hne]

/-- What the end of an instruction does to its sequencer. -/
def Sequencer.finish (e : Sequencer) (m : Bool) (len : Nat) : Sequencer :=
  { e with
    pc := e.pc + BitVec.ofNat 32 len
    wait := if m && decide (e.wait = .none) then .park 0 (e.pc + BitVec.ofNat 32 len) else e.wait
    owed := if m && decide (e.wait ≠ .none) then true else e.owed }

theorem State.finish_seq {s : State} {q : QKey} (h : s.cur = .seq q) (m : Bool) (len : Nat) : s.finish m len = s.onSeq q (fun e => e.finish m len) := by
  cases m with
  | false => simp [State.finish, State.mark, State.advance, h, Sequencer.finish]
  | true =>
    simp only [State.finish, State.mark, State.advance, h, if_true, State.onSeq_cur, State.onSeq_onSeq]
    congr 1
    funext e
    by_cases hw : e.wait = .none <;> simp [Sequencer.finish, hw]

/-! ### Writes of the issuer -/

theorem State.onSeq_id (s : State) (q : QKey) : s.onSeq q (fun e => e) = s := by
  cases hq : look s.seqs q with
  | none => simp [State.onSeq, upd, hq]
  | some e => simp [State.onSeq, upd, hq, put_of_look hq]

/-- From s to t the sequencer that issues in s has written the e registers es. -/
def State.SeqWrote (s t : State) (es : List Nat) : Prop :=
  ∀ q, s.cur = .seq q → ∃ f : Sequencer → Sequencer, t = s.onSeq q f ∧ ∀ e : Sequencer, e.Wrote es (f e)

/-- From s to t the issuer of s, a path or a sequencer, has written the g or e registers gs. -/
structure State.UWrote (s t : State) (gs : List Nat) : Prop where
  path : s.Wrote t [] gs
  seq : s.SeqWrote t gs

section
variable {s t u : State} {gs : List Nat}

theorem State.UWrote.refl (s : State) (gs : List Nat) : s.UWrote s gs where
  path := .refl s [] gs
  seq q _ := ⟨fun e => e, (s.onSeq_id q).symm, fun _ => ⟨rfl, fun _ _ => rfl⟩⟩

theorem State.UWrote.trans (hst : s.UWrote t gs) (htu : t.UWrote u gs) : s.UWrote u gs where
  path := hst.path.trans htu.path
  seq q hc := by
    obtain ⟨f, rfl, hf⟩ := hst.seq q hc
    obtain ⟨f', rfl, hf'⟩ := htu.seq q hc
    exact ⟨fun e => f' (f e), s.onSeq_onSeq q f f', fun e => (hf e).trans (hf' (f e))⟩

theorem State.writeU_uWrote (s : State) {r : Nat} (hr : r ∈ gs) (w : Word) : s.UWrote (s.writeU r w) gs where
  path := s.writeU_wrote hr w
  seq q hc := ⟨fun e => e.ewrite r w, by simp [State.writeU, hc], fun e => e.ewrite_wrote hr w⟩

theorem State.writePair_uWrote (s : State) {r : Nat} (hlo : r ∈ gs) (hhi : r + 1 ∈ gs) (x : Nat) : s.UWrote (s.writePair r x) gs :=
  (s.writeU_uWrote hlo _).trans (State.writeU_uWrote _ hhi _)

/-- A sequencer that has written registers and goes on has done what the frame says. -/
theorem State.SeqWrote.finish (h : s.SeqWrote t gs) {q : QKey} {e : Sequencer} (hc : s.cur = .seq q) (he : look s.seqs q = some e) (m : Bool) (len : Nat) :
    s.seqWrote (t.finish m len) q e len m gs := by
  obtain ⟨f, rfl, hf⟩ := h q hc
  obtain ⟨hrest, hother⟩ := hf e
  rw [State.finish_seq (s := s.onSeq q f) hc, State.onSeq_onSeq]
  refine ⟨rfl, fun x hx => look_upd_ne _ _ hx, (f e).finish m len, upd_some _ he, ?_, hother, ?_⟩
  · rw [Sequencer.finish, hrest]
  · rintro rfl
    rw [hrest]
    exact ⟨rfl, rfl⟩

end

/-! ### Frames by form of instruction -/

/-- An outcome in s keeps the frame of a uniform instruction of a length, a marker and its destinations: the trap of a failed check, or those destinations written by the issuer. Where no destinations are given nothing is claimed. -/
structure State.UniFramed (s : State) (o : Out) (dests : Option (Nat × Bool × List Nat)) : Prop where
  frame : ∀ len m gs, dests = some (len, m, gs) → ∀ t, o = .next t → (∃ e, t = s.raise e) ∨
    (∃ k lanes pc g, s.pathIs k lanes pc g ∧ s.pathWrote t k lanes g len m [] gs) ∨
    (∃ q e, s.cur = .seq q ∧ look s.seqs q = some e ∧ s.seqWrote t q e len m gs)

theorem State.uniFramed_none (s : State) (o : Out) : s.UniFramed o none := ⟨nofun⟩

/-- Only a resident issuer has a next state. -/
theorem resident_of_issue {s t : State} {checks : List (Option Exc)} {eff : State → State} (h : issue s checks eff = .next t) :
    (∃ k lanes pc g, s.pathIs k lanes pc g) ∨ ∃ q e, s.cur = .seq q ∧ look s.seqs q = some e := by
  cases hs : s.cur with
  | idle => simp [issue, hs] at h
  | path k lanes pc =>
    cases hg : look s.groups k with
    | none => simp [issue, hs, hg] at h
    | some g => exact .inl ⟨k, lanes, pc, g, hs, hg⟩
  | seq q =>
    cases hq : look s.seqs q with
    | none => simp [issue, hs, hq] at h
    | some e => exact .inr ⟨q, e, rfl, hq⟩

section
variable {s : State} {m closed : Bool} {len : Nat} {row : Row} {gs names reads : List Nat} {own : List (Option Exc)}

/-- A uniform instruction whose effect writes its destinations. -/
theorem uni_framed {eff : State → State} (h : s.UWrote (eff s) gs) : s.UniFramed (uni s m len row closed names reads own eff) (some (len, m, gs)) := by
  refine ⟨fun _ _ _ hd t ht => ?_⟩
  cases hd
  rcases issue_cases ht with he | ⟨-, rfl⟩
  · exact .inl he
  · rcases resident_of_issue ht with ⟨k, lanes, pc, g, hp⟩ | ⟨q, e, hc, hq⟩
    · exact .inr (.inl ⟨k, lanes, pc, g, hp, h.path.finish hp m len⟩)
    · exact .inr (.inr ⟨q, e, hc, hq, h.seq.finish hc hq m len⟩)

/-- One that writes one register. -/
theorem uni_writeU_framed {r : Nat} {w : Word} :
    s.UniFramed (uni s m len row closed names reads own (fun u => u.writeU r w)) (some (len, m, [r])) :=
  uni_framed (s.writeU_uWrote (List.mem_singleton_self r) w)

theorem uni_writePair_framed {r x : Nat} : s.UniFramed (uni s m len row closed names reads own (fun u => u.writePair r x)) (some (len, m, [r, r + 1])) :=
  uni_framed (s.writePair_uWrote (List.mem_cons_self ..) (List.mem_cons_of_mem _ (List.mem_singleton_self _)) x)

theorem uni_none_framed : s.UniFramed (uni s m len row closed names reads own (fun u => u)) (some (len, m, [])) :=
  uni_framed (.refl s [])

end

/-- A read of a CSR writes its register alone, where it makes no latch (02 R45). -/
theorem execCsrr_framed (s : State) (m : Bool) (gd : BitVec 9) (c : Csr) : s.UniFramed (execCsrr m gd c s) (uniformDests (.csrr m gd c)) := by
  unfold uniformDests
  dsimp only
  split
  · exact s.uniFramed_none _
  · next hc =>
    have hlatch : s.latchCsr c = s := by
      unfold State.latchCsr
      split
      · exact absurd (.inl rfl) hc
      · exact absurd (.inr rfl) hc
      · rfl
    refine uni_framed ?_
    rw [hlatch]
    exact s.writeU_uWrote (List.mem_singleton_self _) _

/-- Every uniform instruction keeps the frame of its destinations, by the form of its effect. -/
theorem exec_uniFramed (s : State) (i : Instr) : s.UniFramed (exec i s) (uniformDests i) := by
  cases i with
  | gmovi | gaddi | glui | gori | gshli | gshri | gsari | gmov | gaddi6 | gmovl | gadd | gsub | gmul | gmulhi | gnmulhi | gand | gor | gxor | gshl | gshr | gsar | gmin | gmax | gnmin | gnmax
  | gpopc | gclz | gsel | gdivn | gremn | gmad | gbfe | gbfi | gfadd | gfmul | gfmax | gset | gnset | gfset | gffma | hmov | rgstat => exact uni_writeU_framed
  | spawnq m gd =>
    change s.UniFramed (execSpawnq m gd s) (some (8, m, [gd.toNat]))
    exact uni_framed (s.writeU_uWrote (List.mem_singleton_self _) _)
  | gadd64 | clkr => exact uni_writePair_framed
  | land m =>
    change s.UniFramed (execLand m s) (some (4, m, []))
    exact uni_none_framed
  | nop m =>
    change s.UniFramed (execNop m s) (some (4, m, []))
    exact uni_none_framed
  | csrr => exact execCsrr_framed ..
  | _ => exact State.uniFramed_none ..

end Sys2Proof.Machine

/-- Settles O46: an instruction's effect writes registers of its issuer, which keeps the frame of its destinations, and its end moves program counters and, with the marker, the wait alone. -/
theorem uniformFrames : Obligations.UniformFrames := by
  intro s t i len m gs hd ht
  exact (Sys2Proof.Machine.exec_uniFramed s i).frame len m gs hd t ht

/-! PROOFS, 05 R142 and R143: a WAITC that waits at an offset past those of a pointer. -/

namespace Sys2Proof.Machine.FarWait

/-- A wait for the word at offset 2^34 of object 1 to be 0. No pointer has an offset of more than 34 bits, so that no issue gives this wait; the statement ranges over it. -/
def wait : Waitc where
  gd := 0
  id := 1
  off := 2 ^ 34
  cond := .eq
  n32 := false
  value := 0
  scope := .block
  deadline := none
  monitor := false
  hit := false
  polledAt := 0
  path := 1
  marked := false

/-- The group that waits. -/
def group : Group := { groupStart [] (List.replicate 4 0) [] 0 0 0 with wait := .waitc wait }

/-- Object 1 is here, no object 2 is, and a poll is due. -/
def state : State := { State.reset with arg := .agent (.grp ⟨0, 0⟩), ptimeOff := 1024, objs := [(1, placedObject 0)], groups := [(⟨0, 0⟩, group)] }

/-- The object that the wait names by its identifier is here. -/
theorem route_here : state.route splitFuel wait.id wait.off = .here 1 (2 ^ 34) (placedObject 0) := by decide +kernel

/-- The word is read at its flat address, where no object is: it reads as 0. -/
theorem condition_holds : wcompare wait.cond wait.n32 (state.monitorRead wait.id wait.off) wait.value = true := by decide +kernel

/-- The poll goes to that flat address too, finds nothing there, and the wait goes on without a result. -/
theorem poll_waits : (match exec .waitcPoll state with
    | .next u => (look u.groups ⟨0, 0⟩).map (fun g => g.g.getD 0 0)
    | _ => none) = some 0 := by decide +kernel

end Sys2Proof.Machine.FarWait

open Sys2Proof Sys2Proof.Machine in
/-- Refutes O30: its poll clause takes the word's home by identifier and offset apart, a poll by their flat address; an offset of 2^34 makes that the next identifier, where nothing is, and the poll gives no result where the statement promises 1. -/
theorem not_waitOnWord : ¬ Obligations.WaitOnWord := by
  unfold Obligations.WaitOnWord
  rintro ⟨-, h⟩
  obtain ⟨-, -, -, hpoll⟩ := h FarWait.state ⟨0, 0⟩ FarWait.group FarWait.wait rfl rfl rfl (by decide)
  obtain ⟨u, g', hu, hg', hone, -⟩ := hpoll 1 (2 ^ 34) (placedObject 0) rfl rfl (by decide) FarWait.route_here rfl (by decide +kernel) FarWait.condition_holds
  have hzero := FarWait.poll_waits
  have hword : g'.g.getD 0 0 = 1 := hone
  rw [hu] at hzero
  simp only [hg', Option.map_some, hword] at hzero
  exact absurd hzero (by decide)

/-! PROOFS, 06 R163: an access is cut at sector boundaries, and its pieces are grouped by sector. -/

namespace Sys2Proof.Machine

theorem regs_add (a m n : Nat) : regs a (m + n) = regs a m ++ regs (a + m) n := by
  simp [regs, List.range_add, Nat.add_assoc]

/-- A part has a piece in the sector of a piece. -/
def Part.meets (q : Part) (p : Piece) : Bool := q.pieces.any (fun x => x.addr / 64 == p.addr / 64)

theorem Part.meets_iff {q : Part} {p : Piece} : q.meets p = true ↔ ∃ x ∈ q.pieces, x.addr / 64 = p.addr / 64 := by
  simp [Part.meets]

/-- What one piece makes of the parts before it. -/
def addPiece (ps : List Part) (p : Piece) : List Part :=
  if ps.any (·.meets p) then ps.map (fun q => if q.meets p then { q with pieces := q.pieces ++ [p] } else q) else ps ++ [{ st := .todo, pieces := [p] }]

theorem groupParts_cons (p : Piece) (r : List Piece) (ps : List Part) : groupParts (p :: r) ps = groupParts r (addPiece ps p) := rfl

/-- Parts to be performed that have one sector each, no two the same. -/
structure InSectors (ps : List Part) : Prop where
  todo : ∀ q ∈ ps, q.st = .todo
  filled : ∀ q ∈ ps, q.pieces ≠ []
  one : ∀ q ∈ ps, ∀ x ∈ q.pieces, ∀ y ∈ q.pieces, x.addr / 64 = y.addr / 64
  apart : ps.Pairwise (fun a b => ∀ x ∈ a.pieces, ∀ y ∈ b.pieces, x.addr / 64 ≠ y.addr / 64)

theorem InSectors.nil : InSectors [] := ⟨nofun, nofun, nofun, .nil⟩

theorem InSectors.tail {q : Part} {ps : List Part} (h : InSectors (q :: ps)) : InSectors ps where
  todo a ha := h.todo a (List.mem_cons_of_mem _ ha)
  filled a ha := h.filled a (List.mem_cons_of_mem _ ha)
  one a ha := h.one a (List.mem_cons_of_mem _ ha)
  apart := (List.pairwise_cons.1 h.apart).2

/-- Of parts with sectors of their own, one alone meets a piece. -/
theorem InSectors.meets_unique {q : Part} {ps : List Part} {p : Piece} (h : InSectors (q :: ps)) (hq : q.meets p = true) : ∀ a ∈ ps, a.meets p = false := by
  intro a ha
  obtain ⟨x, hx, hxp⟩ := Part.meets_iff.1 hq
  refine Bool.eq_false_iff.2 fun hap => ?_
  obtain ⟨y, hy, hyp⟩ := Part.meets_iff.1 hap
  exact (List.pairwise_cons.1 h.apart).1 a ha x hx y hy (hxp.trans hyp.symm)

/-- A piece joins the part it meets and no other. -/
theorem addPiece_cons (q : Part) (ps : List Part) (p : Piece) (h : InSectors (q :: ps)) :
    addPiece (q :: ps) p = if q.meets p then { q with pieces := q.pieces ++ [p] } :: ps else q :: addPiece ps p := by
  by_cases hq : q.meets p = true
  · have hrest : ps.map (fun a => if a.meets p then { a with pieces := a.pieces ++ [p] } else a) = ps := by
      refine (List.map_congr_left fun a ha => ?_).trans (List.map_id ps)
      rw [h.meets_unique hq a ha]
      rfl
    simp [addPiece, hq, hrest]
  · by_cases ha : ps.any (·.meets p) = true <;> simp [addPiece, hq, ha]

/-- The pieces of the parts are those before and the new one. -/
theorem addPiece_perm {ps : List Part} (h : InSectors ps) (p : Piece) : ((addPiece ps p).map (·.pieces)).flatten.Perm ((ps.map (·.pieces)).flatten ++ [p]) := by
  induction ps with
  | nil => exact .refl _
  | cons q ps ih =>
    rw [addPiece_cons q ps p h]
    split
    · simpa using (List.perm_append_comm (l₁ := [p])).append_left q.pieces
    · simpa using (ih h.tail).append_left q.pieces

/-- A piece of the parts is the new one or was there before. -/
theorem mem_addPiece {ps : List Part} (h : InSectors ps) {p x : Piece} {q : Part} (hq : q ∈ addPiece ps p) (hx : x ∈ q.pieces) : x = p ∨ ∃ a ∈ ps, x ∈ a.pieces := by
  have hmem : x ∈ ((addPiece ps p).map (·.pieces)).flatten := List.mem_flatten.2 ⟨_, List.mem_map_of_mem hq, hx⟩
  simpa [or_comm] using (addPiece_perm h p).mem_iff.1 hmem

theorem InSectors.add {ps : List Part} (h : InSectors ps) (p : Piece) : InSectors (addPiece ps p) := by
  induction ps with
  | nil => exact ⟨by simp [addPiece], by simp [addPiece], by simp [addPiece], List.pairwise_singleton _ _⟩
  | cons q ps ih =>
    have hapart := List.pairwise_cons.1 h.apart
    have ht := ih h.tail
    rw [addPiece_cons q ps p h]
    by_cases hq : q.meets p = true
    · obtain ⟨z, hz, hzp⟩ := Part.meets_iff.1 hq
      have hsec : ∀ x ∈ q.pieces ++ [p], x.addr / 64 = p.addr / 64 := fun x hx => by
        rcases List.mem_append.1 hx with hx | hx
        · exact (h.one q (List.mem_cons_self ..) x hx z hz).trans hzp
        · rw [List.mem_singleton.1 hx]
      rw [if_pos hq]
      refine ⟨?_, ?_, ?_, List.pairwise_cons.2 ⟨fun b hb x hx y hy => ?_, hapart.2⟩⟩
      · exact List.forall_mem_cons.2 ⟨h.todo q (List.mem_cons_self ..), h.tail.todo⟩
      · exact List.forall_mem_cons.2 ⟨by simp, h.tail.filled⟩
      · exact List.forall_mem_cons.2 ⟨fun x hx y hy => (hsec x hx).trans (hsec y hy).symm, h.tail.one⟩
      · rw [hsec x hx, ← hzp]
        exact hapart.1 b hb z hz y hy
    · rw [if_neg hq]
      refine ⟨List.forall_mem_cons.2 ⟨h.todo q (List.mem_cons_self ..), ht.todo⟩, List.forall_mem_cons.2 ⟨h.filled q (List.mem_cons_self ..), ht.filled⟩,
        List.forall_mem_cons.2 ⟨h.one q (List.mem_cons_self ..), ht.one⟩, List.pairwise_cons.2 ⟨fun b hb x hx y hy => ?_, ht.apart⟩⟩
      rcases mem_addPiece h.tail hb hy with rfl | ⟨a, ha, hya⟩
      · exact fun hxy => hq (Part.meets_iff.2 ⟨x, hx, hxy⟩)
      · exact hapart.1 a ha x hx y hya

theorem groupParts_inSectors {ps : List Part} (h : InSectors ps) (l : List Piece) : InSectors (groupParts l ps) := by
  induction l generalizing ps with
  | nil => exact h
  | cons p r ih => exact ih (h.add p)

theorem groupParts_perm {ps : List Part} (h : InSectors ps) (l : List Piece) : ((groupParts l ps).map (·.pieces)).flatten.Perm ((ps.map (·.pieces)).flatten ++ l) := by
  induction l generalizing ps with
  | nil => simp [groupParts]
  | cons p r ih =>
    rw [groupParts_cons]
    simpa using (ih (h.add p)).trans ((addPiece_perm h p).append_right r)

end Sys2Proof.Machine

open Sys2Proof Sys2Proof.Machine in
/-- Settles O24: an access of at most 16 bytes has one boundary at most in it; the parts keep their sectors apart as each piece joins the one part of its sector. -/
theorem sectorParts : Obligations.SectorParts := by
  refine ⟨fun lane addr size h0 h16 => ?_, fun ps => ?_⟩
  · by_cases hfit : min size (64 - addr % 64) = size
    · rw [splitAccess, if_pos hfit]
      simp
      omega
    · have hlen : size = (64 - addr % 64) + (size - (64 - addr % 64)) := by omega
      have hn : min size (64 - addr % 64) = 64 - addr % 64 := by omega
      rw [splitAccess, if_neg hfit, hn]
      refine ⟨?_, ?_, ?_⟩
      · conv_rhs => rw [hlen, regs_add]
        simp
      · conv_rhs => rw [hlen, regs_add]
        simp
      · simp
        omega
  · have h := groupParts_inSectors .nil ps
    exact ⟨by simpa using groupParts_perm .nil ps, h.apart, fun q hq => ⟨h.todo q hq, h.filled q hq, h.one q hq⟩⟩

/-! PROOFS, 02 R52 and R53, 06 R165 to R178: memory instructions take a table entry. -/

namespace Sys2Proof.Machine

/-! ### Pending destinations -/

/-- Updates of one group, one after another, are one update. -/
theorem foldl_onGroup {α : Type} (F : State → α → State) (f : α → Group → Group) (k : GKey) (l : List α) (s : State)
    (hF : ∀ (u : State) (x : α), u.cur = s.cur → F u x = u.onGroup k (f x)) : l.foldl F s = s.onGroup k (fun g => l.foldl (fun g x => f x g) g) := by
  induction l generalizing s with
  | nil => exact (s.onGroup_id k).symm
  | cons x r ih =>
    rw [List.foldl_cons, hF s x rfl, ih (s.onGroup k (f x)) hF, State.onGroup_onGroup]
    rfl

/-- The same of a sequencer. -/
theorem foldl_onSeq {α : Type} (F : State → α → State) (f : α → Sequencer → Sequencer) (q : QKey) (l : List α) (s : State)
    (hF : ∀ (u : State) (x : α), u.cur = s.cur → F u x = u.onSeq q (f x)) : l.foldl F s = s.onSeq q (fun e => l.foldl (fun e x => f x e) e) := by
  induction l generalizing s with
  | nil => exact (s.onSeq_id q).symm
  | cons x r ih =>
    rw [List.foldl_cons, hF s x rfl, ih (s.onSeq q (f x)) hF, State.onSeq_onSeq]
    rfl

/-- Marks v registers as destinations of the lanes of a mask, each with its tag. -/
def Group.pendAll (lanes : Mask) (vs : List (Nat × Tag)) (g : Group) : Group := vs.foldl (fun g e => g.vpend e.1 e.2 lanes) g
/-- Marks g registers as destinations. -/
def Group.gpendAll (us : List Nat) (g : Group) : Group := us.foldl Group.gpend g
/-- Marks e registers as destinations. -/
def Sequencer.ependAll (us : List Nat) (e : Sequencer) : Sequencer := us.foldl Sequencer.epend e

/-- Marking destinations keeps what each mark keeps. -/
theorem Group.pendAll_keeps {α : Type} (lanes : Mask) (π : Group → α) (h : ∀ (g : Group) r t, π (g.vpend r t lanes) = π g) (vs : List (Nat × Tag)) (g : Group) : π (g.pendAll lanes vs) = π g :=
  List.foldlRecOn vs _ (motive := fun x => π x = π g) rfl fun x hx e _ => (h x e.1 e.2).trans hx

theorem Group.gpendAll_keeps {α : Type} (π : Group → α) (h : ∀ (g : Group) r, π (g.gpend r) = π g) (us : List Nat) (g : Group) : π (g.gpendAll us) = π g :=
  List.foldlRecOn us _ (motive := fun x => π x = π g) rfl fun x hx r _ => (h x r).trans hx

theorem Sequencer.ependAll_keeps {α : Type} (π : Sequencer → α) (h : ∀ (e : Sequencer) r, π (e.epend r) = π e) (us : List Nat) (e : Sequencer) : π (e.ependAll us) = π e :=
  List.foldlRecOn us _ (motive := fun x => π x = π e) rfl fun x hx r _ => (h x r).trans hx

section
variable (lanes : Mask) (vs : List (Nat × Tag)) (us : List Nat) (g : Group) (e : Sequencer)

theorem Group.vpend_words (i : Nat) (t : Tag) (r : Nat) : ((g.vpend i t lanes).v.getD r VReg.zero).lanes = (g.v.getD r VReg.zero).lanes := by
  by_cases hi : i = r
  · subst hi
    cases hv : g.v[i]? <;> simp [Group.vpend, List.getD_eq_getElem?_getD, hv]
  · simp [Group.vpend, List.getD_eq_getElem?_getD, hi]

/-- A pending destination keeps its words. -/
theorem Group.pendAll_words (r : Nat) : ((g.pendAll lanes vs).v.getD r VReg.zero).lanes = (g.v.getD r VReg.zero).lanes :=
  Group.pendAll_keeps lanes (fun g => (g.v.getD r VReg.zero).lanes) (fun g i t => g.vpend_words lanes i t r) vs g

theorem Group.pendAll_length : (g.pendAll lanes vs).v.length = g.v.length :=
  Group.pendAll_keeps lanes (fun g => g.v.length) (fun _ _ _ => List.length_modify ..) vs g

/-- A register that is not marked stands. -/
theorem Group.pendAll_other {r : Nat} (h : r ∉ vs.map Prod.fst) : (g.pendAll lanes vs).v[r]? = g.v[r]? ∧ look (g.pendAll lanes vs).pendV r = look g.pendV r := by
  induction vs generalizing g with
  | nil => exact ⟨rfl, rfl⟩
  | cons x t ih =>
    obtain ⟨hx, ht⟩ : r ≠ x.1 ∧ r ∉ t.map Prod.fst := by simpa using h
    obtain ⟨hv, hp⟩ := ih (g.vpend x.1 x.2 lanes) ht
    refine ⟨hv.trans (by simp [Group.vpend, Ne.symm hx]), hp.trans ?_⟩
    simp only [Group.vpend, addLanes]
    split
    · rfl
    · exact look_put_ne _ _ hx

theorem Group.vpend_marks (r : Nat) (t : Tag) (hr : r < g.v.length) :
    ((g.vpend r t lanes).v.getD r VReg.zero).tag = t ∧ lanes &&& ~~~((look (g.vpend r t lanes).pendV r).getD 0) = 0 := by
  refine ⟨by simp [Group.vpend, List.getD_eq_getElem?_getD, hr], ?_⟩
  by_cases h0 : lanes = 0
  · rw [h0]
    exact BitVec.zero_and
  · refine mask_andNot_eq_zero_iff.2 fun l _ hl => ?_
    rw [Group.vpend, addLanes, if_neg h0, look_put]
    simp [hl]

/-- Registers that are named once each have their tags, and the lanes are among those they are pending in. -/
theorem Group.pendAll_marks (hn : (vs.map Prod.fst).Nodup) : ∀ x ∈ vs, x.1 < g.v.length →
    ((g.pendAll lanes vs).v.getD x.1 VReg.zero).tag = x.2 ∧ lanes &&& ~~~((look (g.pendAll lanes vs).pendV x.1).getD 0) = 0 := by
  induction vs generalizing g with
  | nil => nofun
  | cons y t ih =>
    obtain ⟨hy, ht⟩ : y.1 ∉ t.map Prod.fst ∧ (t.map Prod.fst).Nodup := by simpa using hn
    intro x hx hlt
    rcases List.mem_cons.1 hx with rfl | hx
    · obtain ⟨hv, hp⟩ := (g.vpend x.1 x.2 lanes).pendAll_other lanes t hy
      have hmarks := g.vpend_marks lanes x.1 x.2 hlt
      rw [List.getD_eq_getElem?_getD] at hmarks ⊢
      rw [← hv, ← hp] at hmarks
      exact hmarks
    · exact ih (g.vpend y.1 y.2 lanes) ht x hx (by simpa [Group.vpend] using hlt)

theorem Group.mem_gpendAll {r : Nat} (h : r ∈ us ∨ r ∈ g.pendG) : r ∈ (g.gpendAll us).pendG := by
  induction us generalizing g with
  | nil => exact h.resolve_left List.not_mem_nil
  | cons x t ih =>
    refine ih (g.gpend x) ?_
    rw [List.mem_cons] at h
    rcases h with (rfl | h) | h
    · right
      unfold Group.gpend
      by_cases hp : r ∈ g.pendG <;> simp [hp]
    · exact .inl h
    · right
      unfold Group.gpend
      by_cases hp : x ∈ g.pendG <;> simp [hp, h]

theorem Sequencer.mem_ependAll {r : Nat} (h : r ∈ us ∨ r ∈ e.pend) : r ∈ (e.ependAll us).pend := by
  induction us generalizing e with
  | nil => exact h.resolve_left List.not_mem_nil
  | cons x t ih =>
    refine ih (e.epend x) ?_
    rw [List.mem_cons] at h
    rcases h with (rfl | h) | h
    · right
      unfold Sequencer.epend
      by_cases hp : r ∈ e.pend <;> simp [hp]
    · exact .inl h
    · right
      unfold Sequencer.epend
      by_cases hp : x ∈ e.pend <;> simp [hp, h]

end

/-! ### What an instruction does before it takes its entry -/

/-- The issuer's v registers and its g or e registers become destinations. -/
def State.pends (s : State) (vs : List (Nat × Tag)) (us : List Nat) : State :=
  match s.cur with
  | .idle => s
  | .path k lanes _ => s.onGroup k (fun g => (g.pendAll lanes vs).gpendAll us)
  | .seq q => s.onSeq q (fun e => e.ependAll us)

/-- From s to u registers of the issuer have become destinations; besides, copies may have left an L1 and fills of other transactions been forbidden. -/
structure State.Prepares (s u : State) (vs : List (Nat × Tag)) (us : List Nat) : Prop where
  rest : u = { s.pends vs us with l1 := u.l1, txns := u.txns }
  txns : u.txns.length = s.txns.length

section
variable (s : State)

theorem State.pends_txns (vs : List (Nat × Tag)) (us : List Nat) : (s.pends vs us).txns = s.txns := by
  unfold State.pends
  split <;> rfl

theorem State.pends_nil : s.pends [] [] = s := by
  unfold State.pends
  split
  · rfl
  · exact s.onGroup_id _
  · exact s.onSeq_id _

theorem State.prepares_pends (vs : List (Nat × Tag)) (us : List Nat) : s.Prepares (s.pends vs us) vs us := ⟨rfl, by rw [s.pends_txns]⟩

theorem State.prepares_self : s.Prepares s [] [] := by
  have h := s.prepares_pends [] []
  rwa [s.pends_nil] at h

/-- Registers of the path alone that become destinations one by one. -/
theorem State.foldl_vpend_eq (l : List Nat) (reg : Nat → Nat) (tag : Nat → Tag) :
    l.foldl (fun u k => match u.cur with | .path g lanes _ => u.onGroup g (fun x => x.vpend (reg k) (tag k) lanes) | _ => u) s = s.pends (l.map (fun k => (reg k, tag k))) [] := by
  unfold State.pends
  cases hc : s.cur with
  | idle => exact List.foldlRecOn l _ (motive := fun u => u = s) rfl (fun u hu k _ => by simp only [hu, hc])
  | seq q => exact (List.foldlRecOn l _ (motive := fun u => u = s) rfl (fun u hu k _ => by simp only [hu, hc])).trans (s.onSeq_id q).symm
  | path k lanes pc =>
    rw [foldl_onGroup _ (fun i g => g.vpend (reg i) (tag i) lanes) k l s (fun u x hu => by rw [hu, hc])]
    simp only [Group.pendAll, Group.gpendAll, List.foldl_map, List.foldl_nil]

theorem State.pendV_eq (r n : Nat) (t : Tag) : s.pendV r n t = s.pends ((List.range n).map (fun k => (r + k, loadTagAt t k))) [] :=
  s.foldl_vpend_eq _ (fun k => r + k) (loadTagAt t)

theorem State.pendU_pends (vs : List (Nat × Tag)) (r n : Nat) : (s.pends vs []).pendU r n = s.pends vs (regs r n) := by
  unfold State.pends State.pendU
  cases hc : s.cur with
  | idle => exact List.foldlRecOn _ _ (motive := fun u => u = s) rfl (fun u hu k _ => by simp only [hu, hc])
  | seq q =>
    rw [foldl_onSeq _ (fun i e => e.epend i) q _ _ (fun u x hu => by rw [hu, State.onSeq_cur, hc]), State.onSeq_onSeq]
    rfl
  | path k lanes pc =>
    rw [foldl_onGroup _ (fun i g => g.gpend i) k _ _ (fun u x hu => by rw [hu, State.onGroup_cur, hc]), State.onGroup_onGroup]
    rfl

theorem State.pendU_eq (r n : Nat) : s.pendU r n = s.pends [] (regs r n) := by
  conv_lhs => rw [← s.pends_nil]
  exact s.pendU_pends [] r n

/-- The tags of an atomic's return registers, those of its operand (06 R175). -/
def State.rmwTags (s : State) (dst : Option (BitVec 8)) (r : Rmw) (vs : Nat) : List (Nat × Tag) :=
  dst.elim [] (fun d => (List.range r.words).map (fun j => (d.toNat + j, s.tagOf (vs + j))))

theorem State.pendRmw_eq (dst : Option (BitVec 8)) (r : Rmw) (vs : Nat) : s.pendRmw dst r vs = s.pends (s.rmwTags dst r vs) [] := by
  cases dst with
  | none => exact s.pends_nil.symm
  | some d => exact s.foldl_vpend_eq _ (fun k => d.toNat + k) (fun k => s.tagOf (vs + k))

theorem State.dropFor_rest (hint : Hint) (ps : List Piece) : s.dropFor hint ps = { s with l1 := (s.dropFor hint ps).l1, txns := (s.dropFor hint ps).txns } := rfl

theorem State.Prepares.dropFor {s u : State} {vs : List (Nat × Tag)} {us : List Nat} (h : s.Prepares u vs us) (hint : Hint) (ps : List Piece) : s.Prepares (u.dropFor hint ps) vs us where
  rest := by
    have hrest : ∀ l1 txns, { u with l1 := l1, txns := txns } = { s.pends vs us with l1 := l1, txns := txns } := fun _ _ => by rw [h.rest]
    exact (u.dropFor_rest hint ps).trans (hrest _ _)
  txns := by
    rw [← h.txns]
    exact List.length_map _

end

/-! ### The entry -/

/-- The entry that an instruction of the issuer takes. -/
def State.newTxn (s : State) (kind : TxnKind) (parts : List Part) (faults : List (FaultCode × Nat)) : Txn :=
  { id := s.nextTxn, who := s.curAgent, core := s.coreOf s.curSeg, pc := s.curPc, lanes := s.curLanes, kind := kind, parts := someParts parts, faults := faults, lease := s.curGroup.elim 0 (fun g => g.leaseNow), seen := [] }

/-- The words of a destination that a lane's fault leaves undefined count as overwritten. -/
def Group.lose (d : Dest) (n l : Nat) (g : Group) : Group :=
  match d with
  | .none => g
  | .v r => { g with clobV := (regs r n).foldl (fun c j => addLanes c j (1#32 <<< l)) g.clobV }
  | .g r => { g with clobG := (g.clobG ++ regs r n).eraseDups }

/-- The same of a sequencer. -/
def Sequencer.lose (d : Dest) (n : Nat) (e : Sequencer) : Sequencer :=
  match d with
  | .g r => { e with clob := (e.clob ++ regs r n).eraseDups }
  | _ => e

theorem State.destLose_group (s : State) (k : GKey) (d : Dest) (n l : Nat) : s.destLose (.grp k) d n l = s.onGroup k (Group.lose d n l) := by
  cases d with
  | none => exact (s.onGroup_id k).symm
  | v r => rfl
  | g r => rfl

theorem State.destLose_seq (s : State) (q : QKey) (d : Dest) (n l : Nat) : s.destLose (.sqr q) d n l = s.onSeq q (Sequencer.lose d n) := by
  cases d with
  | none => exact (s.onSeq_id q).symm
  | v r => exact (s.onSeq_id q).symm
  | g r => rfl

/-- What faults that stand at issue lose of an entry's destination. -/
def Group.loseAll (t : Txn) (g : Group) : Group := t.faults.foldl (fun g f => g.lose t.dest.1 t.dest.2 f.2) g
def Sequencer.loseAll (t : Txn) (e : Sequencer) : Sequencer := t.faults.foldl (fun e _ => e.lose t.dest.1 t.dest.2) e

theorem Group.loseAll_keeps {α : Type} (π : Group → α) (hv : ∀ (g : Group) c, π { g with clobV := c } = π g) (hg : ∀ (g : Group) c, π { g with clobG := c } = π g) (t : Txn) (g : Group) :
    π (g.loseAll t) = π g := by
  refine List.foldlRecOn t.faults _ (motive := fun x => π x = π g) rfl fun x hx f _ => ?_
  rw [← hx]
  unfold Group.lose
  split
  · rfl
  · exact hv x _
  · exact hg x _

theorem Sequencer.loseAll_keeps {α : Type} (π : Sequencer → α) (hc : ∀ (e : Sequencer) c, π { e with clob := c } = π e) (t : Txn) (e : Sequencer) : π (e.loseAll t) = π e := by
  refine List.foldlRecOn t.faults _ (motive := fun x => π x = π e) rfl fun x hx f _ => ?_
  rw [← hx]
  unfold Sequencer.lose
  split
  · exact hc x _
  · rfl

/-- OUTS counts one more. -/
def Group.outsMore (g : Group) : Group := { g with outs := g.outs + 1 }
def Sequencer.outsMore (e : Sequencer) : Sequencer := { e with outs := e.outs + 1 }
def State.outsMore (s : State) : State :=
  match s.cur with
  | .idle => s
  | .path k _ _ => s.onGroup k Group.outsMore
  | .seq q => s.onSeq q Sequencer.outsMore

/-- What taking an entry does to the group of the path. -/
def Group.opens (lanes : Mask) (m : Bool) (vs : List (Nat × Tag)) (us : List Nat) (t : Txn) (g : Group) : Group := ((((g.pendAll lanes vs).gpendAll us).loseAll t).outsMore).finish lanes m 8

/-- The same of a sequencer. -/
def Sequencer.opens (m : Bool) (us : List Nat) (t : Txn) (e : Sequencer) : Sequencer := (((e.ependAll us).loseAll t).outsMore).finish m 8

/-- From g to g' the path's instruction has taken an entry and gone on: OUTS is one more, no word has changed, and registers have become destinations. -/
structure Group.Opened (lanes : Mask) (vs : List (Nat × Tag)) (us : List Nat) (g g' : Group) : Prop where
  outs : g'.outs = g.outs + 1
  gregs : g'.g = g.g
  handles : g'.h = g.h
  vregs : g'.v = (g.pendAll lanes vs).v
  pendV : g'.pendV = (g.pendAll lanes vs).pendV
  pendG : g'.pendG = ((g.pendAll lanes vs).gpendAll us).pendG
  pc : ∀ l, l < g.lanes.length → (g'.lane l).pc = if lanes.getLsbD l then (g.lane l).pc + 8 else (g.lane l).pc

theorem Group.opens_opened (lanes : Mask) (m : Bool) (vs : List (Nat × Tag)) (us : List Nat) (t : Txn) (g : Group) : g.Opened lanes vs us (g.opens lanes m vs us t) := by
  have hfin := Group.finish_rest (((g.pendAll lanes vs).gpendAll us).loseAll t).outsMore lanes m 8
  have hkeep : ∀ {α : Type} (π : Group → α), (∀ (g : Group) r t, π (g.vpend r t lanes) = π g) → (∀ (g : Group) r, π (g.gpend r) = π g) →
      (∀ (g : Group) c, π { g with clobV := c } = π g) → (∀ (g : Group) c, π { g with clobG := c } = π g) → π (((g.pendAll lanes vs).gpendAll us).loseAll t) = π g :=
    fun π h1 h2 h3 h4 => (Group.loseAll_keeps π h3 h4 t _).trans ((Group.gpendAll_keeps π h2 us _).trans (Group.pendAll_keeps lanes π h1 vs g))
  have hlanes := hkeep Group.lanes (fun _ _ _ => rfl) (fun _ _ => rfl) (fun _ _ => rfl) (fun _ _ => rfl)
  refine ⟨?_, ?_, ?_, ?_, ?_, ?_, fun l hl => ?_⟩
  · exact (congrArg Group.outs hfin).trans (congrArg (· + 1) (hkeep Group.outs (fun _ _ _ => rfl) (fun _ _ => rfl) (fun _ _ => rfl) (fun _ _ => rfl)))
  · exact (congrArg Group.g hfin).trans (hkeep Group.g (fun _ _ _ => rfl) (fun _ _ => rfl) (fun _ _ => rfl) (fun _ _ => rfl))
  · exact (congrArg Group.h hfin).trans (hkeep Group.h (fun _ _ _ => rfl) (fun _ _ => rfl) (fun _ _ => rfl) (fun _ _ => rfl))
  · exact (congrArg Group.v hfin).trans ((Group.loseAll_keeps Group.v (fun _ _ => rfl) (fun _ _ => rfl) t _).trans (Group.gpendAll_keeps Group.v (fun _ _ => rfl) us _))
  · exact (congrArg Group.pendV hfin).trans ((Group.loseAll_keeps Group.pendV (fun _ _ => rfl) (fun _ _ => rfl) t _).trans (Group.gpendAll_keeps Group.pendV (fun _ _ => rfl) us _))
  · exact (congrArg Group.pendG hfin).trans (Group.loseAll_keeps Group.pendG (fun _ _ => rfl) (fun _ _ => rfl) t _)
  · refine (congrArg Lane.pc (Group.finish_lane (((g.pendAll lanes vs).gpendAll us).loseAll t).outsMore lanes m 8 l (lt_of_lt_of_eq hl (congrArg List.length hlanes).symm))).trans ?_
    rw [Group.lane_congr (g := g) (g' := (((g.pendAll lanes vs).gpendAll us).loseAll t).outsMore) hlanes]
    split <;> rfl

/-- The same of a sequencer. -/
structure Sequencer.Opened (us : List Nat) (e e' : Sequencer) : Prop where
  outs : e'.outs = e.outs + 1
  eregs : e'.e = e.e
  handles : e'.h = e.h
  pc : e'.pc = e.pc + 8
  pend : e'.pend = (e.ependAll us).pend

theorem Sequencer.opens_opened (m : Bool) (us : List Nat) (t : Txn) (e : Sequencer) : e.Opened us (e.opens m us t) := by
  have hkeep : ∀ {α : Type} (π : Sequencer → α), (∀ (e : Sequencer) r, π (e.epend r) = π e) → (∀ (e : Sequencer) c, π { e with clob := c } = π e) → π ((e.ependAll us).loseAll t) = π e :=
    fun π h1 h2 => (Sequencer.loseAll_keeps π h2 t _).trans (Sequencer.ependAll_keeps π h1 us e)
  exact ⟨congrArg (· + 1) (hkeep Sequencer.outs (fun _ _ => rfl) (fun _ _ => rfl)), hkeep Sequencer.e (fun _ _ => rfl) (fun _ _ => rfl), hkeep Sequencer.h (fun _ _ => rfl) (fun _ _ => rfl),
    congrArg (· + 8) (hkeep Sequencer.pc (fun _ _ => rfl) (fun _ _ => rfl)), Sequencer.loseAll_keeps Sequencer.pend (fun _ _ => rfl) t _⟩

section
variable {s : State} {vs : List (Nat × Tag)} {us : List Nat} {pre : State → State}

theorem State.openTxn_full (m : Bool) (kind : TxnKind) (parts : List Part) (faults : List (FaultCode × Nat)) (hfree : s.entryFree = false) :
    s.openTxn m 8 kind parts faults pre = s := by
  rw [State.openTxn, hfree]
  rfl

variable (m : Bool) (kind : TxnKind) (parts : List Part) (faults : List (FaultCode × Nat)) (hfree : s.entryFree = true)
include hfree

/-- Preparation, the entry, the words that are lost already, OUTS, and the end of the instruction, in this order. -/
theorem State.openTxn_eq : s.openTxn m 8 kind parts faults pre =
    ((faults.foldl (fun (u : State) f => u.destLose s.curAgent (s.newTxn kind parts faults).dest.1 (s.newTxn kind parts faults).dest.2 f.2)
      { pre s with txns := (pre s).txns ++ [s.newTxn kind parts faults], nextTxn := (pre s).nextTxn + 1 }).outsMore).finish m 8 := by
  rw [State.openTxn, if_pos hfree]
  rfl

variable (hpre : s.Prepares (pre s) vs us)
include hpre

theorem State.openTxn_path {k : GKey} {lanes : Mask} {pc : Word} (hc : s.cur = .path k lanes pc) :
    s.openTxn m 8 kind parts faults pre = { s with
      l1 := (pre s).l1, txns := (pre s).txns ++ [s.newTxn kind parts faults], nextTxn := s.nextTxn + 1
      groups := upd s.groups k (Group.opens lanes m vs us (s.newTxn kind parts faults)) } := by
  let u : State := { s with l1 := (pre s).l1, txns := (pre s).txns ++ [s.newTxn kind parts faults], nextTxn := s.nextTxn + 1 }
  have hu : { pre s with txns := (pre s).txns ++ [s.newTxn kind parts faults], nextTxn := (pre s).nextTxn + 1 } = u.onGroup k (fun g => (g.pendAll lanes vs).gpendAll us) := by
    rw [hpre.rest]
    simp only [State.pends, hc]
    rfl
  have hlose := foldl_onGroup (fun (u : State) f => u.destLose s.curAgent (s.newTxn kind parts faults).dest.1 (s.newTxn kind parts faults).dest.2 f.2)
    (fun f => Group.lose (s.newTxn kind parts faults).dest.1 (s.newTxn kind parts faults).dest.2 f.2) k faults (u.onGroup k (fun g => (g.pendAll lanes vs).gpendAll us))
    (fun v f _ => by simp only [State.curAgent, hc, State.destLose_group])
  have hopen : s.openTxn m 8 kind parts faults pre = (u.onGroup k (fun g => (((g.pendAll lanes vs).gpendAll us).loseAll (s.newTxn kind parts faults)).outsMore)).finish m 8 := by
    rw [State.openTxn_eq m kind parts faults hfree, hu, hlose, State.onGroup_onGroup, State.outsMore]
    simp only [State.onGroup_cur, show u.cur = .path k lanes pc from hc, State.onGroup_onGroup]
    rfl
  rw [hopen]
  exact (State.finish_path (s := u.onGroup k _) hc m 8).trans (State.onGroup_onGroup ..)

theorem State.openTxn_seq {q : QKey} (hc : s.cur = .seq q) :
    s.openTxn m 8 kind parts faults pre = { s with
      l1 := (pre s).l1, txns := (pre s).txns ++ [s.newTxn kind parts faults], nextTxn := s.nextTxn + 1
      seqs := upd s.seqs q (Sequencer.opens m us (s.newTxn kind parts faults)) } := by
  let u : State := { s with l1 := (pre s).l1, txns := (pre s).txns ++ [s.newTxn kind parts faults], nextTxn := s.nextTxn + 1 }
  have hu : { pre s with txns := (pre s).txns ++ [s.newTxn kind parts faults], nextTxn := (pre s).nextTxn + 1 } = u.onSeq q (Sequencer.ependAll us) := by
    rw [hpre.rest]
    simp only [State.pends, hc]
    rfl
  have hlose := foldl_onSeq (fun (u : State) f => u.destLose s.curAgent (s.newTxn kind parts faults).dest.1 (s.newTxn kind parts faults).dest.2 f.2)
    (fun _ => Sequencer.lose (s.newTxn kind parts faults).dest.1 (s.newTxn kind parts faults).dest.2) q faults (u.onSeq q (Sequencer.ependAll us))
    (fun v f _ => by simp only [State.curAgent, hc, State.destLose_seq])
  have hopen : s.openTxn m 8 kind parts faults pre = (u.onSeq q (fun e => ((e.ependAll us).loseAll (s.newTxn kind parts faults)).outsMore)).finish m 8 := by
    rw [State.openTxn_eq m kind parts faults hfree, hu, hlose, State.onSeq_onSeq, State.outsMore]
    simp only [State.onSeq_cur, show u.cur = .seq q from hc, State.onSeq_onSeq]
    rfl
  rw [hopen]
  exact (State.finish_seq (s := u.onSeq q _) hc m 8).trans (State.onSeq_onSeq ..)

/-- What an instruction that takes an entry leaves: the entry, and its destinations pending. -/
theorem State.openTxn_runs (hr : s.resident = true) (hn : (vs.map Prod.fst).Nodup) :
    s.tookEntry (s.openTxn m 8 kind parts faults pre) kind parts faults ∧ s.pendsV (s.openTxn m 8 kind parts faults pre) vs ∧ s.pendsU (s.openTxn m 8 kind parts faults pre) us := by
  have hlen : ((pre s).txns ++ [s.newTxn kind parts faults]).length = s.txns.length + 1 := by rw [List.length_append, hpre.txns]; rfl
  have hmem : s.newTxn kind parts faults ∈ (pre s).txns ++ [s.newTxn kind parts faults] := List.mem_append_right _ (List.mem_singleton_self _)
  cases hc : s.cur with
  | idle => exact absurd hr (by simp [State.resident, hc])
  | path k lanes pc =>
    obtain ⟨g, hg⟩ : ∃ g, look s.groups k = some g := Option.isSome_iff_exists.1 (by simpa [State.resident, hc] using hr)
    have ho := g.opens_opened lanes m vs us (s.newTxn kind parts faults)
    have hg' : look (upd s.groups k (Group.opens lanes m vs us (s.newTxn kind parts faults))) k = some (g.opens lanes m vs us (s.newTxn kind parts faults)) := upd_some _ hg
    have hsame : ∀ {k' lanes' pc' g'}, s.pathIs k' lanes' pc' g' → k' = k ∧ lanes' = lanes ∧ g' = g := by
      rintro k' lanes' pc' g' ⟨hc', hg'⟩
      obtain ⟨rfl, rfl, rfl⟩ := Issuer.path.inj (hc.symm.trans hc')
      exact ⟨rfl, rfl, Option.some.inj (hg'.symm.trans hg)⟩
    rw [State.openTxn_path m kind parts faults hfree hpre hc]
    refine ⟨⟨hmem, hlen, rfl, rfl, rfl, fun k' lanes' pc' g' hp => ?_, fun q e hq => ?_⟩, fun k' lanes' pc' g' hp => ?_, fun k' lanes' pc' g' hp => ?_, fun q e hq => ?_⟩
    · obtain ⟨rfl, rfl, rfl⟩ := hsame hp
      exact ⟨fun x hx => look_upd_ne _ _ hx, rfl, _, hg', ho.outs, ho.gregs, ho.handles, fun r => by rw [ho.vregs, Group.pendAll_words], ho.pc⟩
    · exact absurd (hc.symm.trans hq) nofun
    · obtain ⟨rfl, rfl, rfl⟩ := hsame hp
      refine ⟨_, hg', fun x hx hlt => ?_⟩
      rw [ho.vregs, Group.pendAll_length] at hlt
      rw [ho.vregs, ho.pendV]
      exact g'.pendAll_marks lanes' vs hn x hx hlt
    · obtain ⟨rfl, rfl, rfl⟩ := hsame hp
      refine ⟨_, hg', fun r hr => ?_⟩
      rw [ho.pendG]
      exact Group.mem_gpendAll us _ (.inl hr)
    · exact absurd (hc.symm.trans hq) nofun
  | seq q =>
    obtain ⟨e, he⟩ : ∃ e, look s.seqs q = some e := Option.isSome_iff_exists.1 (by simpa [State.resident, hc] using hr)
    have ho := e.opens_opened m us (s.newTxn kind parts faults)
    have he' : look (upd s.seqs q (Sequencer.opens m us (s.newTxn kind parts faults))) q = some (e.opens m us (s.newTxn kind parts faults)) := upd_some _ he
    have hsame : ∀ {q' e'}, s.cur = .seq q' → look s.seqs q' = some e' → q' = q ∧ e' = e := by
      rintro q' e' hc' he'
      obtain rfl := Issuer.seq.inj (hc.symm.trans hc')
      exact ⟨rfl, Option.some.inj (he'.symm.trans he)⟩
    have hpath : ∀ {k lanes pc g}, ¬ s.pathIs k lanes pc g := fun hp => absurd (hc.symm.trans hp.1) nofun
    rw [State.openTxn_seq m kind parts faults hfree hpre hc]
    refine ⟨⟨hmem, hlen, rfl, rfl, rfl, fun _ _ _ _ hp => absurd hp hpath, fun q' e' hq he0 => ?_⟩, fun _ _ _ _ hp => absurd hp hpath, fun _ _ _ _ hp => absurd hp hpath, fun q' e' hq he0 => ?_⟩
    · obtain ⟨rfl, rfl⟩ := hsame hq he0
      exact ⟨rfl, fun x hx => look_upd_ne _ _ hx, _, he', ho.outs, ho.eregs, ho.handles, ho.pc⟩
    · obtain ⟨rfl, rfl⟩ := hsame hq he0
      refine ⟨_, he', fun r hr => ?_⟩
      rw [ho.pend]
      exact Sequencer.mem_ependAll us _ (.inl hr)

end

/-! ### Addresses that pass their checks (06 R161, R162, R173) -/

theorem firstExc_one_none {x : Option Exc} (hx : x = none) : firstExc [x] = none := by rw [hx]; rfl

theorem firstExc_two_none {x y : Option Exc} (hx : x = none) (hy : y = none) : firstExc [x, y] = none := by rw [hx, hy]; rfl

section
variable {s : State} {lanes : List Nat} {uniform : Bool}

theorem State.unreachExc_none {p : Nat} (h : s.unreachable (ptrId p) = false) : s.unreachExc p = none := excIf_false h

/-- No lane is misaligned or outside the scratchpad. -/
theorem State.scrExcs_none {addr : Nat → Int} {size : Nat} (h : ∀ l ∈ lanes, addr l % size = 0 ∧ 0 ≤ addr l ∧ addr l + size ≤ s.scrSize s.curBlk) :
    firstExc (s.scrExcs lanes addr size uniform) = none := by
  have halign : lanes.filter (fun l => addr l % (size : Int) != 0) = [] := List.filter_eq_nil_iff.2 fun l hl => by simp [(h l hl).1]
  have hrange : lanes.filter (fun l => decide (addr l < 0) || decide ((s.scrSize s.curBlk : Int) < addr l + size)) = [] :=
    List.filter_eq_nil_iff.2 fun l hl => by
      obtain ⟨-, hlo, hhi⟩ := h l hl
      simpa using ⟨hlo, hhi⟩
  rw [State.scrExcs, halign, hrange]
  rfl

theorem State.rmwAlign_none {base n : Nat} {off : Nat → Int} (h : ∀ l ∈ lanes, ((ptrOff base : Int) + off l) % n = 0) : s.rmwAlign base n off lanes uniform = none := by
  have halign : lanes.filter (fun l => ((ptrOff base : Int) + off l) % (n : Int) != 0) = [] := List.filter_eq_nil_iff.2 fun l hl => by simp [h l hl]
  rw [State.rmwAlign, halign]
  rfl

/-- An atomic's offset register is not scaled (06 R173). -/
theorem State.lmOff_unscaled (s : State) (vo : BitVec 8) (imm : BitVec 12) : s.lmOff (.scaled vo 0) imm = fun l => (s.vread 0 vo.toNat l).toInt + imm.toInt := by
  funext l
  simp [State.lmOff, State.laneIdx, disp]

theorem scrPieces_single (l : Nat) (addr : Nat → Int) (n : Nat) : scrPieces [l] addr n = splitAccess l (addr l).toNat n := by
  simp [scrPieces]

end

/-! ### The instructions -/

theorem nodup_regTags (r n : Nat) (tag : Nat → Tag) : (((List.range n).map (fun j => (r + j, tag j))).map Prod.fst).Nodup := by
  rw [List.map_map]
  exact List.nodup_range.map fun _ _ h => Nat.add_left_cancel h

theorem State.nodup_rmwTags (s : State) (dst : Option (BitVec 8)) (r : Rmw) (vs : Nat) : ((s.rmwTags dst r vs).map Prod.fst).Nodup := by
  cases dst with
  | none => exact List.nodup_nil
  | some d => exact nodup_regTags ..

theorem laneReady_resident {s : State} {vs gs : List Nat} {ops : List Opnd} (h : s.laneReady vs gs ops = true) : s.resident = true := by
  simp only [State.laneReady, Bool.and_eq_true] at h
  exact resident_of_onPath h.1.1.1

/-- What a memory instruction does that passes its checks: it takes an entry and leaves its destinations pending, or waits while the table is full. -/
def State.Runs (s : State) (o : Out) (kind : TxnKind) (parts : List Part) (faults : List (FaultCode × Nat)) (vs : List (Nat × Tag)) (us : List Nat) : Prop :=
  (s.entryFree = true → ∃ t, o = .next t ∧ s.tookEntry t kind parts faults ∧ s.pendsV t vs ∧ s.pendsU t us) ∧ (s.entryFree = false → o = .next s)

section
variable {s : State} {m : Bool} {kind : TxnKind} {parts : List Part} {faults : List (FaultCode × Nat)} {pre : State → State} {own : List (Option Exc)}
  {vs : List (Nat × Tag)} {us : List Nat}

theorem openTxn_Runs {o : Out} (ho : o = .next (s.openTxn m 8 kind parts faults pre)) (hr : s.resident = true) (hpre : s.Prepares (pre s) vs us) (hn : (vs.map Prod.fst).Nodup) :
    s.Runs o kind parts faults vs us :=
  ⟨fun hfree => ⟨_, ho, State.openTxn_runs m kind parts faults hfree hpre hr hn⟩, fun hfull => by rw [ho, State.openTxn_full m kind parts faults hfull]⟩

theorem issue_Runs {checks : List (Option Exc)} (hr : s.resident = true) (hc : firstExc checks = none) (hpre : s.Prepares (pre s) vs us) (hn : (vs.map Prod.fst).Nodup) :
    s.Runs (issue s checks (fun t => t.openTxn m 8 kind parts faults pre)) kind parts faults vs us := openTxn_Runs (issue_next hr hc) hr hpre hn

theorem lanMem_Runs {v g : List Nat} {ops : List Opnd} (h : s.laneReady v g ops = true) (ho : firstExc own = none) (hpre : s.Prepares (pre s) vs us) (hn : (vs.map Prod.fst).Nodup) :
    s.Runs (lanMem s v g ops own (fun t => t.openTxn m 8 kind parts faults pre)) kind parts faults vs us :=
  openTxn_Runs (lanMem_next h ho) (laneReady_resident h) hpre hn

theorem uniJump_Runs {names reads : List Nat} (h : s.uniReady .any false names reads = true) (ho : firstExc own = none) (hpre : s.Prepares (pre s) [] us) :
    s.Runs (uniJump s .any false names reads own (fun t => t.openTxn m 8 kind parts faults pre)) kind parts faults [] us :=
  openTxn_Runs (uniJump_next h ho) (resident_of_uniReady h) hpre List.nodup_nil

end

end Sys2Proof.Machine

open Sys2Proof Sys2Proof.Machine in
/-- Settles O22: each instruction passes its checks and opens an entry; what it does before that marks its destinations and touches no memory. -/
theorem laneMemoryIssue : Obligations.LaneMemoryIssue := by
  intro s m data vo vs va vb ge gc off sync hint base size tag imm dst rmw scope p lanes addr objs scr dregs datas values pair inScr atomAt atomScr atomObjs
    atomRegs atomDest atomTags loadTags one runs
  have haddr : s.lmScr base.toNat off imm = addr := funext fun l => (Int.add_assoc ..).symm
  have hload : ∀ u : State, u.Prepares (u.pendV data.toNat size.regs tag) loadTags [] := fun u => by
    rw [u.pendV_eq]
    exact u.prepares_pends _ _
  have hrmw : s.Prepares (s.pendRmw dst rmw vs.toNat) atomTags [] := by
    rw [s.pendRmw_eq]
    exact s.prepares_pends _ _
  refine ⟨fun ⟨h, hu⟩ => ?ld, fun ⟨h, hu⟩ => ?st, fun ⟨h, ha⟩ => ?lds, fun ⟨h, ha⟩ => ?sts, fun ⟨h, ha, hu⟩ => ?atom, fun ⟨h, ha⟩ => ?atoms, fun ⟨h, ha, hb⟩ => ?ballot, fun ⟨h, hr⟩ => ?trx⟩
  case ld => exact lanMem_Runs h (firstExc_one_none (State.unreachExc_none hu)) (hload s) (nodup_regTags ..)
  case st => exact lanMem_Runs h (firstExc_one_none (State.unreachExc_none hu)) (s.prepares_self.dropFor _ _) List.nodup_nil
  case lds =>
    change s.Runs (execLds m data off sync base size tag imm s) _ _ _ _ _
    unfold execLds
    rw [haddr]
    exact lanMem_Runs h (State.scrExcs_none ha) (hload s) (nodup_regTags ..)
  case sts =>
    change s.Runs (execSts m data off sync base size imm s) _ _ _ _ _
    unfold execSts
    rw [haddr]
    exact lanMem_Runs h (State.scrExcs_none ha) s.prepares_self List.nodup_nil
  case atom =>
    change s.Runs (execAtom m dst vo vs rmw scope base imm s) _ _ _ _ _
    unfold execAtom
    rw [s.lmOff_unscaled]
    exact lanMem_Runs h (firstExc_two_none (State.rmwAlign_none ha) (State.unreachExc_none hu)) (hrmw.dropFor _ _) (s.nodup_rmwTags ..)
  case atoms =>
    change s.Runs (execAtoms m dst vo vs rmw scope base imm s) _ _ _ _ _
    have haddr : s.lmScr base.toNat (.scaled vo 0) imm = atomScr := by
      funext l
      rw [State.lmScr, s.lmOff_unscaled]
    unfold execAtoms
    rw [haddr]
    exact lanMem_Runs h (State.scrExcs_none ha) hrmw (s.nodup_rmwTags ..)
  case ballot =>
    change s.Runs (execBallotScratchpad m ge va s) _ _ _ _ _
    simp only [execBallotScratchpad, scrPieces_single]
    refine lanMem_Runs h (State.scrExcs_none fun l _ => ?_) s.prepares_self List.nodup_nil
    omega
  case trx =>
    intro table items
    simp only [State.laneReady, Bool.and_eq_true] at h
    obtain ⟨⟨⟨hp, hv⟩, hg⟩, hs⟩ := h
    have hpre : s.Prepares ((s.pendV data.toNat 3 .i32).pendU ge.toNat 1) ((regs data.toNat 3).map (fun j => (j, .i32))) [ge.toNat] := by
      rw [s.pendV_eq, s.pendU_pends]
      exact s.prepares_pends _ _
    change s.Runs (execTrx m data va vb gc ge s) _ _ _ _ _
    refine issue_Runs (resident_of_onPath hp) ?_ hpre (nodup_regTags data.toNat 3 (fun _ => .i32))
    rw [firstExc_append_none, sourceExcs_none hs]
    rw [nameExc_none hv hg, s.rowExc_onPath hp, State.closedExc, excIf_false (by rw [hr]; rfl)]
    rfl

open Sys2Proof Sys2Proof.Machine in
/-- Settles O23: the same of a whole issuer, whose destinations are g or e registers. -/
theorem uniformMemoryIssue : Obligations.UniformMemoryIssue := by
  intro s m gd ga gb gc disp sync hint size rmw scope p off addr objs atoms scr dregs value three inScr operands runs
  have hruns : ∀ {i kind parts faults us}, s.Runs (exec i s) kind parts faults [] us → runs i kind parts faults us := fun h =>
    ⟨fun hfree => let ⟨t, ht, he, _, hu⟩ := h.1 hfree; ⟨t, ht, he, hu⟩, h.2⟩
  have hload : ∀ n, s.Prepares (s.pendU gd.toNat n) [] (regs gd.toNat n) := fun n => by
    rw [s.pendU_eq]
    exact s.prepares_pends _ _
  refine ⟨fun ⟨h, hu⟩ => hruns ?gld, fun ⟨h, hu⟩ => hruns ?gst, fun ⟨h, ha⟩ => hruns ?glds, fun ⟨h, ha⟩ => hruns ?gsts, fun ⟨h, ha, hu⟩ => hruns ?gatom⟩
  case gld => exact uniJump_Runs h (firstExc_one_none (State.unreachExc_none hu)) (hload _)
  case gst => exact uniJump_Runs h (firstExc_one_none (State.unreachExc_none hu)) (s.prepares_self.dropFor _ _)
  case glds =>
    change s.Runs (execGlds m gd ga gb disp size sync s) _ _ _ _ _
    simp only [execGlds, scrPieces_single]
    exact uniJump_Runs h (State.scrExcs_none fun _ _ => ha) (hload _)
  case gsts =>
    change s.Runs (execGsts m gd ga gb disp size sync s) _ _ _ _ _
    simp only [execGsts, scrPieces_single]
    exact uniJump_Runs h (State.scrExcs_none fun _ _ => ha) s.prepares_self
  case gatom => exact uniJump_Runs h (firstExc_two_none (State.rmwAlign_none fun _ _ => ha) (State.unreachExc_none hu)) ((hload _).dropFor _ _)

/-! PROOFS, 06 R181 to R187: the instructions of forwarding regions. -/

namespace Sys2Proof.Machine

/-! ### Checks that pass -/

section
variable {s : State} {k : GKey} {lanes : Mask} {pc : Word} {g : Group} (hp : s.pathIs k lanes pc g)
include hp

/-- A path that holds every live lane of its group is the whole of it. -/
theorem State.pathIs.notWhole (h : g.live &&& ~~~lanes = 0) : s.notWhole = false := by
  simp [State.notWhole, hp.curGroup, hp.curLanes, h]

theorem State.pathIs.inRegion_some {n : Nat} (h : g.region = some n) : s.inRegion = true := by
  simp [State.inRegion, hp.1, hp.2, h]

/-- A word of LAND in this chip's code is a good target, and has come (05 R134). -/
theorem State.pathIs.goodTarget {a : Nat} {target : Word} (ha : s.codeAt k.blk target = some a) (hw : s.codeWord a = 0x8A000000) :
    s.targetFault target = none ∧ s.targetWaits target = false := by
  rw [State.targetFault, State.targetWaits, State.codeRead, hp.curBlk, ha]
  exact ⟨if_pos hw, rfl⟩

end

/-! ### The instructions -/

/-- The region that RGBEGIN opens. -/
def Region.opened (k : GKey) (target : Word) (reason : Nat) : Region :=
  { owner := k, ended := false, target := target, reason := reason, reads := [], writes := [], preds := [], direct := [] }

/-- What RGBEGIN does to the group of its path, once the drain has settled it. -/
def Group.begins (lanes : Mask) (m : Bool) (gd n : Nat) (g : Group) : Group := ({ g with region := some n, abort := none }.gwrite gd 0).finish lanes m 8

theorem State.begins_path {u : State} {k : GKey} {lanes : Mask} {pc : Word} (hc : u.cur = .path k lanes pc) {m : Bool} {gd n : Nat} :
    ((u.onGroup k (fun g => { g with region := some n, abort := none })).writeU gd 0).finish m 8 = u.onGroup k (Group.begins lanes m gd n) := by
  simp only [State.writeU, State.onGroup_cur, hc, State.onGroup_onGroup]
  exact (State.finish_path (s := u.onGroup k _) hc m 8).trans (State.onGroup_onGroup ..)

/-- Registers count as written with 0, and the path has gone on. -/
theorem Group.begins_spec (lanes : Mask) (m : Bool) (gd n : Nat) (g : Group) :
    (g.begins lanes m gd n).region = some n ∧ (g.begins lanes m gd n).abort = none ∧ (g.begins lanes m gd n).g.getD gd 0 = 0 ∧
      ∀ l, l < g.lanes.length → lanes.getLsbD l = true → ((g.begins lanes m gd n).lane l).pc = (g.lane l).pc + 8 := by
  have hfin := Group.finish_rest ({ g with region := some n, abort := none }.gwrite gd 0) lanes m 8
  refine ⟨congrArg Group.region hfin, congrArg Group.abort hfin, ?_, fun l hl hon => ?_⟩
  · rw [show (g.begins lanes m gd n).g = g.g.set gd 0 from congrArg Group.g hfin, List.getD_eq_getElem?_getD, List.getElem?_set_self']
    cases g.g[gd]? <;> rfl
  · refine (congrArg Lane.pc (Group.finish_lane ({ g with region := some n, abort := none }.gwrite gd 0) lanes m 8 l hl)).trans ?_
    rw [if_pos hon]
    rfl

theorem State.waitAt_path {u : State} {k : GKey} {lanes : Mask} {pc : Word} (hc : u.cur = .path k lanes pc) (w : Wait) : u.waitAt w = u.onGroup k (fun g => { g with wait := w }) := by
  simp only [State.waitAt, hc]

section
variable {s : State} {m : Bool} {gd ga : BitVec 9} {k : GKey} {lanes : Mask} {pc : Word} {g : Group} (hp : s.pathIs k lanes pc g)
include hp

section
variable (h : s.uniReady .region false [gd.toNat, ga.toNat] [ga.toNat] = true) (hr : g.region = none) (hw : g.live &&& ~~~lanes = 0) (hd : s.drained = true)
  {a : Nat} (ha : s.codeAt k.blk (s.readU 0 ga.toNat) = some a) (hland : s.codeWord a = 0x8A000000)
include h hr hw hd ha hland

theorem exec_rgbegin_slot {n : Nat} (hn : s.freeSlot = some n) : exec (.rgbegin m gd ga) s =
    .next (({ s.settleCur with regions := put s.regions n (Region.opened k (s.readU 0 ga.toNat) gd.toNat) } : State).onGroup k (Group.begins lanes m gd.toNat n)) := by
  obtain ⟨hfault, hcome⟩ := hp.goodTarget ha hland
  change execRgbegin m gd ga s = _
  unfold execRgbegin
  rw [uniJump_next h (by rw [hp.inRegion hr, hp.notWhole hw, hfault]; rfl), hcome, if_neg Bool.false_ne_true, if_pos hd, hn, hp.1]
  exact congrArg Host.Outcome.next (State.begins_path (u := { s.settleCur with regions := put s.regions n (Region.opened k (s.readU 0 ga.toNat) gd.toNat) }) hp.settleCur_pathIs.1)

theorem exec_rgbegin_waits (hn : s.freeSlot = none) : exec (.rgbegin m gd ga) s = .next (s.settleCur.waitAt .rgSlot) := by
  obtain ⟨hfault, hcome⟩ := hp.goodTarget ha hland
  change execRgbegin m gd ga s = _
  unfold execRgbegin
  rw [uniJump_next h (by rw [hp.inRegion hr, hp.notWhole hw, hfault]; rfl), hcome, if_neg Bool.false_ne_true, if_pos hd, hn, hp.1]

end

theorem exec_rgend {n : Nat} (h : s.uniReady .region false [] [] = true) (hr : g.region = some n) (hw : g.live &&& ~~~lanes = 0) (hd : s.drained = true) :
    exec (.rgend m) s = .next (({ s.settleCur with regions := upd s.regions n (fun r => { r with ended := true }) } : State).onGroup k (fun g => { g with wait := .rgCommit lanes (pc + 8) m })) := by
  change execRgend m s = _
  unfold execRgend
  rw [uniJump_next h (by rw [hp.inRegion_some hr, hp.notWhole hw]; rfl), if_pos hd, hp.curGroup, ← hp.curLanes, ← hp.curPc]
  simp only [hr]
  exact congrArg Host.Outcome.next (State.waitAt_path (u := { s.settleCur with regions := upd s.regions n (fun r => { r with ended := true }) }) hp.settleCur_pathIs.1 _)

theorem exec_rgabort {n : Nat} (h : s.uniReady .region false [ga.toNat] [ga.toNat] = true) (hr : g.region = some n) :
    exec (.rgabort m ga) s = .next ((s.abortRegion n ((s.readU 0 ga.toNat).toNat % 256 * 256 + 1)).mark m) := by
  change execRgabort m ga s = _
  unfold execRgabort
  rw [uniJump_next h (by rw [hp.inRegion_some hr]; rfl), hp.curGroup]
  simp only [hr, Option.elim_some]

theorem exec_rgstat (h : s.uniReady .region false [gd.toNat] [] = true) :
    exec (.rgstat m gd) s = .next ((s.writeU gd.toNat (g.region.elim 0 s.regionStatus)).finish m 8) := by
  change execRgstat m gd s = _
  unfold execRgstat
  rw [uni_run h, hp.curGroup, Option.elim_some]

end

end Sys2Proof.Machine

open Sys2Proof Sys2Proof.Machine in
/-- Settles O33: the checks of each instruction pass, and its effect is on the group of the path and on the region table. -/
theorem regionInstructions : Obligations.RegionInstructions := by
  intro s m gd ga k lanes pc g hp whole target
  refine ⟨fun h hr hw hd hlen ⟨a, ha, hland⟩ => ⟨fun n hn => ?slot, exec_rgbegin_waits hp h hr hw hd ha hland⟩, fun n r h hr hlook hw hd => ?rgend, fun n h hr => exec_rgabort hp h hr, exec_rgstat hp⟩
  case slot =>
    obtain ⟨hregion, habort, hreason, hpc⟩ := Group.begins_spec lanes m gd.toNat n { g.parkEnd s.freeCtr s.clock with wait := g.wait }
    refine ⟨_, _, Region.opened k target gd.toNat, exec_rgbegin_slot hp h hr hw hd ha hland hn, upd_some _ hp.settleCur_pathIs.2, look_put _ _ _, hregion, habort, hreason,
      rfl, rfl, rfl, rfl, rfl, rfl, rfl, fun l hl hon => ?_⟩
    have hlanes : ({ g.parkEnd s.freeCtr s.clock with wait := g.wait } : Group).lanes = g.lanes := g.parkEnd_lanes _ _
    rw [hpc l (by rw [hlanes]; exact hl) hon, Group.lane_congr hlanes]
  case rgend => exact ⟨_, _, _, exec_rgend hp h hr hw hd, upd_some _ hp.settleCur_pathIs.2, rfl, upd_some _ hlook, rfl⟩

/-! PROOFS, 05 R143, 09 R255, R280: bytes that take effect on committed values. -/

namespace Sys2Proof.Machine

/-! ### Cells written in order -/

theorem Memory.cells_append (m : Memory) (cs ds : List (Nat × Byte)) : m.cells (cs ++ ds) = (m.cells cs).cells ds := by
  induction cs generalizing m with
  | nil => rfl
  | cons c cs ih => exact ih _

/-- A byte reads as the last cell that names it left it. -/
theorem Memory.read_cells {m : Memory} (h : m.wf = true) (a : Nat) (cs : List (Nat × Byte)) :
    (m.cells cs).read a = ((cs.filter (fun c => decide (c.1 = a))).getLast?).elim (m.read a) Prod.snd := by
  induction cs generalizing m with
  | nil => rfl
  | cons c cs ih =>
    rw [Memory.cells, ih (Memory.wf_write h c.1 c.2), Memory.read_write h, List.filter_cons]
    by_cases hc : c.1 = a
    · simp only [hc, decide_true, ↓reduceIte, List.getLast?_cons, Option.elim_some]
      cases (cs.filter (fun c => decide (c.1 = a))).getLast? <;> rfl
    · rw [if_neg (Ne.symm hc), if_neg (by simpa using hc)]

/-- Where all cells of an address agree, it reads as they say. -/
theorem Memory.read_cells_agree {m : Memory} (h : m.wf = true) {cs : List (Nat × Byte)} {c : Nat × Byte} (hc : c ∈ cs) (hall : ∀ e ∈ cs, e.1 = c.1 → e.2 = c.2) :
    (m.cells cs).read c.1 = c.2 := by
  rw [Memory.read_cells h]
  cases hl : (cs.filter (fun e => decide (e.1 = c.1))).getLast? with
  | none => exact absurd (List.getLast?_eq_none_iff.1 hl) (List.ne_nil_of_mem (List.mem_filter.2 ⟨hc, decide_eq_true rfl⟩))
  | some e =>
    obtain ⟨he, heq⟩ := List.mem_filter.1 (List.mem_of_getLast? hl)
    exact hall e he (of_decide_eq_true heq)

/-! ### What bytes that take effect leave -/

/-- From s to t cells have been written to memory in order; the segments, the regions and their versions stand, and of a group no more than a wait on a word has changed. -/
structure State.Lands (cells : List (Nat × Byte)) (s t : State) : Prop where
  mem : t.mem = s.mem.cells cells
  segs : t.segs = s.segs
  regions : t.regions = s.regions
  versions : t.versions = s.versions
  group : ∀ k g, look s.groups k = some g → ∃ w, look t.groups k = some { g with wait := w } ∧ ((∀ x, g.wait ≠ .waitc x) → w = g.wait)

/-- A state with the same memory, segments, regions, versions and groups. -/
theorem State.Lands.of_eq {s t : State} (hm : t.mem = s.mem) (hs : t.segs = s.segs) (hr : t.regions = s.regions) (hv : t.versions = s.versions) (hg : t.groups = s.groups) : State.Lands [] s t :=
  ⟨hm, hs, hr, hv, fun _ g h => ⟨g.wait, by rw [hg]; exact h, fun _ => rfl⟩⟩

section
variable {s t u : State} {cells ds : List (Nat × Byte)}

theorem State.Lands.refl (s : State) : State.Lands [] s s := .of_eq rfl rfl rfl rfl rfl

theorem State.Lands.trans (hst : State.Lands cells s t) (htu : State.Lands ds t u) : State.Lands (cells ++ ds) s u where
  mem := by rw [htu.mem, hst.mem, Memory.cells_append]
  segs := htu.segs.trans hst.segs
  regions := htu.regions.trans hst.regions
  versions := htu.versions.trans hst.versions
  group k g hg := by
    obtain ⟨w, hw, hkeep⟩ := hst.group k g hg
    obtain ⟨w', hw', hkeep'⟩ := htu.group k _ hw
    exact ⟨w', hw', fun h => (hkeep' (by rw [show ({ g with wait := w } : Group).wait = w from rfl, hkeep h]; exact h)).trans (hkeep h)⟩

/-- What follows the write changes no more. -/
theorem State.Lands.then (hst : State.Lands cells s t) (htu : State.Lands [] t u) : State.Lands cells s u := List.append_nil cells ▸ hst.trans htu

theorem State.Lands.foldl {α : Type} {f : State → α → State} {g : α → List (Nat × Byte)} (hf : ∀ t x, State.Lands (g x) t (f t x)) (l : List α) (s : State) :
    State.Lands (l.flatMap g) s (l.foldl f s) := by
  induction l generalizing s with
  | nil => exact .refl s
  | cons x l ih => exact (hf s x).trans (ih (f s x))

theorem State.Lands.foldl_nil {α : Type} {f : State → α → State} (hf : ∀ t x, State.Lands [] t (f t x)) (l : List α) (s : State) : State.Lands [] s (l.foldl f s) := by
  have h := State.Lands.foldl (g := fun _ => []) hf l s
  rwa [List.flatMap_eq_nil_iff.2 (fun _ _ => rfl)] at h

end

section
variable (s : State) (cells : List (Nat × Byte))

theorem State.write_lands : State.Lands cells s { s with mem := s.mem.cells cells } := ⟨rfl, rfl, rfl, rfl, fun _ g h => ⟨g.wait, h, fun _ => rfl⟩⟩

theorem State.unblur_lands : State.Lands [] s (s.unblur cells) := by
  unfold State.unblur
  split
  · exact .refl s
  · exact .of_eq rfl rfl rfl rfl rfl

theorem State.dirty_lands : State.Lands [] s (s.dirty cells) :=
  .foldl_nil (f := fun t f =>
    let id := f / 2 ^ 18
    let n := f % 2 ^ 18
    { t with objs := upd t.objs id (fun d => { d with mig := d.mig.map (fun m => if m.queue.contains n || m.stage == .reserving then m else { m with dirty := addTo m.dirty n }) }) })
    (fun _ _ => .of_eq rfl rfl rfl rfl rfl) _ s

/-- A wait on anything but a word is not the monitors' business. -/
theorem State.seen_of_not_waitc {w : Wait} (h : ∀ x, w ≠ .waitc x) : s.seen cells w = w := by
  unfold State.seen
  split
  · next x => exact absurd rfl (h x)
  · rfl

theorem State.notifyOwn_lands : State.Lands [] s (s.notifyOwn cells) where
  mem := rfl
  segs := rfl
  regions := rfl
  versions := rfl
  group k g hg := by
    have hlook := look_map s.groups (fun x => { x with wait := s.seen cells x.wait }) k
    rw [hg] at hlook
    exact ⟨s.seen cells g.wait, hlook, s.seen_of_not_waitc cells⟩

theorem State.unpoison_lands : State.Lands [] s (s.unpoison cells) := .of_eq rfl rfl rfl rfl rfl

theorem State.markStale_lands : State.Lands [] s (s.markStale cells) := .of_eq rfl rfl rfl rfl rfl

theorem State.enqueue_lands (p : Packet) : State.Lands [] s (s.enqueue p) := by
  unfold State.enqueue
  split <;> exact .of_eq rfl rfl rfl rfl rfl

theorem State.respond_lands (p : Packet) (status id epoch : Nat) (values : List Word) (data : List Byte) : State.Lands [] s (s.respond p status id epoch values data) :=
  s.enqueue_lands _

theorem State.notifyRemote_lands : State.Lands [] s (s.notifyRemote cells) := by
  unfold State.notifyRemote
  exact .foldl_nil (fun t p => (State.Lands.of_eq (s := t) (t := { t with fab := { t.fab with monitors := t.fab.monitors.erase p } }) rfl rfl rfl rfl rfl).then (State.respond_lands _ ..)) _ s

/-- Bytes of committed memory take effect, and monitors see them. -/
theorem State.landCells_lands : State.Lands cells s (s.landCells cells) := by
  have hunblur := (s.write_lands cells).then (State.unblur_lands _ cells)
  have hstale := (hunblur.then (State.unpoison_lands _ cells)).then (State.markStale_lands _ cells)
  have hown := (hstale.then (State.dirty_lands _ cells)).then (State.notifyOwn_lands _ cells)
  exact hown.then (State.notifyRemote_lands _ cells)

end

end Sys2Proof.Machine

/-! PROOFS, 06 R181 to R185, 09 R280, R281: the commit of a region, and its abort taken. -/

namespace Sys2Proof.Machine

/-! ### Commit -/

/-- Cells that the commit of a version writes. -/
def Version.cells (v : Version) : List (Nat × Byte) := v.bytes.map (fun b => (v.line * 128 + b.1, b.2))

/-- The group of a region that has committed goes on after RGEND. -/
def Group.committed (path : Mask) (resume : Word) (marked : Bool) (g : Group) : Group :=
  let g1 := { g.mapLanes path (fun _ x => { x with pc := resume }) with wait := .none, region := none, abort := none }
  if marked then g1.mark path else g1

/-- What a commit does to the group of its region. -/
def Group.afterCommit (g : Group) : Group :=
  match g.wait with
  | .rgCommit path resume marked => g.committed path resume marked
  | _ => { g with region := none, abort := none }

theorem Group.afterCommit_of_wait {g : Group} {path : Mask} {resume : Word} {marked : Bool} (h : g.wait = .rgCommit path resume marked) :
    g.afterCommit = g.committed path resume marked := by
  simp only [Group.afterCommit, h]

/-- The versions of a region, written to memory in their order. -/
def State.landVersions (s : State) (n : Nat) : State := (s.versions.filter (fun v => v.slot == n)).foldl (fun t v => t.landCells v.cells) s

theorem State.landVersions_lands (s : State) (n : Nat) : State.Lands ((s.versions.filter (fun v => v.slot == n)).flatMap Version.cells) s (s.landVersions n) :=
  .foldl (fun t v => t.landCells_lands v.cells) _ s

/-- Versions of one region stand at different lines, and one of them names a byte once: memory reads as they say, and elsewhere as before. -/
theorem read_versionCells {m : Memory} (hm : m.wf = true) {vs : List Version} (hlines : (vs.map (fun v => v.line)).Nodup)
    (hbytes : ∀ v ∈ vs, (v.bytes.map Prod.fst).Nodup ∧ ∀ b ∈ v.bytes, b.1 < 128) :
    (∀ v ∈ vs, ∀ b ∈ v.bytes, (m.cells (vs.flatMap Version.cells)).read (v.line * 128 + b.1) = b.2) ∧
      ∀ a, (∀ v ∈ vs, ∀ b ∈ v.bytes, v.line * 128 + b.1 ≠ a) → (m.cells (vs.flatMap Version.cells)).read a = m.read a := by
  have hmem : ∀ c, c ∈ vs.flatMap Version.cells ↔ ∃ v ∈ vs, ∃ b ∈ v.bytes, (v.line * 128 + b.1, b.2) = c := fun c => by simp [Version.cells]
  refine ⟨fun v hv b hb => Memory.read_cells_agree (c := (v.line * 128 + b.1, b.2)) hm ((hmem _).2 ⟨v, hv, b, hb, rfl⟩) fun e he heq => ?_, fun a ha => ?_⟩
  · obtain ⟨v', hv', b', hb', rfl⟩ := (hmem e).1 he
    have hlt := (hbytes v hv).2 b hb
    have hlt' := (hbytes v' hv').2 b' hb'
    have hline : v'.line = v.line := by simp only at heq; omega
    obtain rfl := List.inj_on_of_nodup_map hlines hv' hv hline
    have hbyte : b'.1 = b.1 := by simp only at heq; omega
    rw [List.inj_on_of_nodup_map (hbytes v' hv').1 hb' hb hbyte]
  · refine Memory.read_cells_other hm a _ fun e he => ?_
    obtain ⟨v, hv, b, hb, rfl⟩ := (hmem e).1 he
    exact ha v hv b hb

theorem Group.committed_spec (path : Mask) (resume : Word) (marked : Bool) (g : Group) :
    (g.committed path resume marked).region = none ∧ (g.committed path resume marked).abort = none ∧ (marked = false → (g.committed path resume marked).wait = .none) ∧
      ∀ l, l < g.lanes.length → path.getLsbD l = true → ((g.committed path resume marked).lane l).pc = resume := by
  have hpc : ∀ l, l < g.lanes.length → path.getLsbD l = true → (((g.mapLanes path (fun _ x => { x with pc := resume }))).lane l).pc = resume := fun l hl hon => by
    rw [lane_map g path _ l hl, if_pos hon]
  unfold Group.committed
  cases marked with
  | false => exact ⟨rfl, rfl, fun _ => rfl, hpc⟩
  | true =>
    have hmark := Group.mark_rest { g.mapLanes path (fun _ x => { x with pc := resume }) with wait := .none, region := none, abort := none } path
    refine ⟨congrArg Group.region hmark, congrArg Group.abort hmark, fun h => absurd h (by decide), fun l hl hon => ?_⟩
    exact (congrArg Lane.pc (Group.mark_lane { g.mapLanes path (fun _ x => { x with pc := resume }) with wait := .none, region := none, abort := none } path l)).trans (hpc l hl hon)

/-- The region table without a slot, on which nothing depends any more. -/
def withoutRegion (rs : List (Nat × Region)) (n : Nat) : List (Nat × Region) :=
  (del rs n).map (fun (e : Nat × Region) => (e.1, { e.2 with preds := without e.2.preds n, direct := without e.2.direct n }))

theorem look_withoutRegion (rs : List (Nat × Region)) (n : Nat) : look (withoutRegion rs n) n = none := by
  have hlook := look_map (del rs n) (fun r => { r with preds := without r.preds n, direct := without r.direct n }) n
  rwa [look_del] at hlook

theorem not_mem_preds_withoutRegion {rs : List (Nat × Region)} {n : Nat} {e : Nat × Region} (h : e ∈ withoutRegion rs n) : n ∉ e.2.preds := by
  obtain ⟨x, -, rfl⟩ := List.mem_map.1 h
  simp [without]

section
variable {s : State} {n : Nat} {r : Region} (harg : s.arg = .num n) (hr : look s.regions n = some r)
include harg hr

theorem exec_regionCommit {g : Group} (hended : r.ended = true) (hpreds : r.preds = []) (hg : look s.groups r.owner = some g) (habort : g.abort = none) :
    ∃ (l1 : List L1Sector) (x : Nat), exec .regionCommit s = .next (State.mergeGwct (State.onGroup
      { s.landVersions n with versions := (s.landVersions n).versions.filter (fun v => !(v.slot == n)), l1 := l1, regions := withoutRegion (s.landVersions n).regions n }
      r.owner Group.afterCommit) (.grp r.owner) x) := by
  refine ⟨?l1, ?x, ?run⟩
  case run =>
    change execRegionCommit s = _
    unfold execRegionCommit
    rw [harg]
    simp only [hr]
    rw [if_pos ⟨hended, hpreds, by rw [hg, Option.elim_some, habort]; rfl⟩]
    rfl

/-- A region that commits: what its versions wrote stands in memory, and its group goes on. -/
theorem State.regionCommit_spec {g : Group} {path : Mask} {resume : Word} {marked : Bool} (hended : r.ended = true) (hpreds : r.preds = [])
    (hg : look s.groups r.owner = some g) (habort : g.abort = none) (hw : g.wait = .rgCommit path resume marked) :
    ∃ t w, exec .regionCommit s = .next t ∧ look t.regions n = none ∧ (∀ e ∈ t.regions, n ∉ e.2.preds) ∧ (∀ v ∈ t.versions, v.slot ≠ n) ∧
      t.mem = s.mem.cells ((s.versions.filter (fun v => v.slot == n)).flatMap Version.cells) ∧
      look t.groups r.owner = some { g.committed path resume marked with gwct := w } := by
  obtain ⟨l1, x, hrun⟩ := exec_regionCommit harg hr hended hpreds hg habort
  have hlands := s.landVersions_lands n
  obtain ⟨w, hg', hkeep⟩ := hlands.group _ g hg
  obtain rfl := hkeep (fun x h => by simp [hw] at h)
  refine ⟨_, max (g.committed path resume marked).gwct x, hrun, look_withoutRegion _ n, fun e he => not_mem_preds_withoutRegion he, fun v hv => ?_, hlands.mem, ?_⟩
  · simpa using (List.mem_filter.1 hv).2
  · refine (upd_some _ (upd_some _ hg')).trans ?_
    rw [Group.afterCommit_of_wait hw]

theorem exec_regionCommit_waits (h : r.ended = false ∨ r.preds ≠ [] ∨ ∃ g, look s.groups r.owner = some g ∧ g.abort ≠ none) : exec .regionCommit s = .next s := by
  change execRegionCommit s = _
  unfold execRegionCommit
  rw [harg]
  simp only [hr]
  rw [if_neg]
  rintro ⟨hended, hpreds, habort⟩
  obtain h | h | ⟨g, hg, hne⟩ := h
  · exact absurd hended (by simp [h])
  · exact h hpreds
  · exact hne (by simpa [hg] using habort)

end

end Sys2Proof.Machine

namespace Sys2Proof.Machine

/-! ### An abort taken -/

/-- A group that takes its abort: its live lanes go to the target, the reason register gets the word (06 R185). -/
def Group.abortTaken (g : Group) (target : Word) (reason w : Nat) : Group :=
  { (g.mapLanes g.live (fun _ x => { x with pc := target, wait := .none, marked := false })).gwrite reason (BitVec.ofNat 32 w) with
    region := none, abort := none, wait := .none, deferred := [], owedTrap := g.owedTrap.map (fun t => { t with resume := target }) }

theorem State.takeAbort_eq {s : State} {k : GKey} {g : Group} {n w : Nat} {r : Region} (hg : look s.groups k = some g) (hreg : g.region = some n) (habort : g.abort = some w)
    (hr : look s.regions n = some r) (hown : r.owner = k) :
    s.takeAbort k = { s with regions := del s.regions n, groups := put s.groups k (g.abortTaken r.target r.reason w) } := by
  unfold State.takeAbort
  simp only [hg, hreg, habort, hr]
  rw [if_pos hown]
  rfl

theorem Group.abortTaken_reason (g : Group) (target : Word) {reason : Nat} (w : Nat) (h : reason < g.g.length) :
    (g.abortTaken target reason w).g.getD reason 0 = BitVec.ofNat 32 w := by
  simp [Group.abortTaken, Group.gwrite, Group.mapLanes, List.getD_eq_getElem?_getD, h]

theorem Group.live_lane {g : Group} {l : Nat} (hl : l < 32) (h : (g.lane l).st = .live) : g.live.getLsbD l = true := by
  rw [Group.live, Group.getLsbD_lanesWhere _ _ hl, h]
  rfl

theorem Group.abortTaken_lane (g : Group) (target : Word) (reason w : Nat) {l : Nat} (hl : l < g.lanes.length) (hlt : l < 32) (hst : (g.lane l).st = .live) :
    ((g.abortTaken target reason w).lane l).pc = target := by
  have hlane := lane_map g g.live (fun _ x => { x with pc := target, wait := .none, marked := false }) l hl
  rw [if_pos (Group.live_lane hlt hst)] at hlane
  exact congrArg Lane.pc hlane

theorem length_undefineG (stamp : Nat) (clob : List Nat) (g : List Word) : (undefineG stamp clob g).length = g.length := by
  unfold undefineG
  induction clob generalizing g with
  | nil => rfl
  | cons r clob ih => exact (ih _).trans List.length_set

theorem Group.parkEnd_abort (g : Group) (stamp now : Nat) : (g.parkEnd stamp now).abort = g.abort := by
  unfold Group.parkEnd Group.payAcquire
  split <;> rfl

/-- The group of an abort about to be taken: what its drain settles, without the faults that the wait deferred. -/
def Group.abortSettled (g : Group) (stamp now : Nat) : Group := { (g.settle stamp).payAcquire now with deferred := [] }

section
variable (g : Group) (stamp now : Nat)

theorem Group.abortSettled_region : (g.abortSettled stamp now).region = g.region :=
  (congrArg Group.region (g.settle_payAcquire stamp now)).trans (g.parkEnd_region stamp now)

theorem Group.abortSettled_abort : (g.abortSettled stamp now).abort = g.abort :=
  (congrArg Group.abort (g.settle_payAcquire stamp now)).trans (g.parkEnd_abort stamp now)

theorem Group.abortSettled_lanes : (g.abortSettled stamp now).lanes = g.lanes :=
  (congrArg Group.lanes (g.settle_payAcquire stamp now)).trans (g.parkEnd_lanes stamp now)

theorem Group.abortSettled_length : (g.abortSettled stamp now).g.length = g.g.length :=
  (congrArg (fun x : Group => x.g.length) (g.settle_payAcquire stamp now)).trans ((congrArg List.length (g.parkEnd_g stamp now)).trans (length_undefineG _ _ _))

end

theorem exec_regionAbortTake {s : State} {k : GKey} {g : Group} {n w : Nat} {r : Region} (harg : s.arg = .agent (.grp k)) (hg : look s.groups k = some g)
    (hreg : g.region = some n) (habort : g.abort = some w) (hout : g.outs = 0) (hr : look s.regions n = some r) (hown : r.owner = k) (htrap : g.trapping = false) :
    exec .regionAbortTake s = .next { s.setGroup k (g.abortSettled s.freeCtr s.clock) with
      regions := del s.regions n
      groups := put (s.setGroup k (g.abortSettled s.freeCtr s.clock)).groups k ((g.abortSettled s.freeCtr s.clock).abortTaken r.target r.reason w) } := by
  change execRegionAbortTake s = _
  unfold execRegionAbortTake
  rw [harg]
  simp only [hg]
  rw [if_pos ⟨by rw [habort]; rfl, by rw [hreg]; rfl, hout, by rw [htrap]; rfl⟩]
  exact congrArg Host.Outcome.next (State.takeAbort_eq (s := s.setGroup k (g.abortSettled s.freeCtr s.clock)) (look_put s.groups k _)
    ((g.abortSettled_region _ _).trans hreg) ((g.abortSettled_abort _ _).trans habort) hr hown)

end Sys2Proof.Machine

/-! PROOFS, 02 R52, R53, 06 R166 to R168, 09 R255, R256: what the parts of an access leave beside bytes and destinations. -/

namespace Sys2Proof.Machine

/-! ### What changes no byte and no register -/

/-- From s to t no byte of memory or of a scratchpad and no v or g register has changed. -/
structure State.Still (s t : State) : Prop where
  mem : t.mem = s.mem
  segs : t.segs = s.segs
  group : ∀ k g, look s.groups k = some g → ∃ g', look t.groups k = some g' ∧ g'.v = g.v ∧ g'.g = g.g

section
variable {s t u : State}

theorem State.Still.of_eq (hm : t.mem = s.mem) (hs : t.segs = s.segs) (hg : t.groups = s.groups) : s.Still t :=
  ⟨hm, hs, fun _ g h => ⟨g, by rw [hg]; exact h, rfl, rfl⟩⟩

theorem State.Still.refl (s : State) : s.Still s := .of_eq rfl rfl rfl

theorem State.Still.trans (hst : s.Still t) (htu : t.Still u) : s.Still u where
  mem := htu.mem.trans hst.mem
  segs := htu.segs.trans hst.segs
  group k g hg := by
    obtain ⟨g', hg', hv, hr⟩ := hst.group k g hg
    obtain ⟨g'', hg'', hv', hr'⟩ := htu.group k g' hg'
    exact ⟨g'', hg'', hv'.trans hv, hr'.trans hr⟩

theorem State.AbortsOnly.still (h : s.AbortsOnly t) : s.Still t where
  mem := h.mem
  segs := by rw [h.rest]
  group k g hg := by
    obtain ⟨a, ha⟩ := h.group k g hg
    exact ⟨_, ha, rfl, rfl⟩

end

section
variable (s : State)

theorem State.onGroup_still (k : GKey) {f : Group → Group} (hv : ∀ g, (f g).v = g.v) (hg : ∀ g, (f g).g = g.g) : s.Still (s.onGroup k f) where
  mem := rfl
  segs := rfl
  group j g hj := by
    by_cases hk : j = k
    · subst hk
      exact ⟨f g, upd_some f hj, hv g, hg g⟩
    · exact ⟨g, (look_upd_ne _ f hk).trans hj, rfl, rfl⟩

theorem State.onSeq_still (q : QKey) (f : Sequencer → Sequencer) : s.Still (s.onSeq q f) := .of_eq rfl rfl rfl

theorem State.onTxn_still (id : Nat) (f : Txn → Txn) : s.Still (s.onTxn id f) := .of_eq rfl rfl rfl

theorem State.defer_still (w : Agent) (d : Deferred) : s.Still (s.defer w d) := by
  cases w with
  | grp k => exact s.onGroup_still k (fun _ => rfl) (fun _ => rfl)
  | sqr q => exact s.onSeq_still q _

theorem State.mergeGwct_still (w : Agent) (x : Nat) : s.Still (s.mergeGwct w x) := by
  cases w with
  | grp k => exact s.onGroup_still k (fun _ => rfl) (fun _ => rfl)
  | sqr q => exact s.onSeq_still q _

theorem State.acquire_still (w : Agent) (sc : Scope) : s.Still (s.acquire w sc) := by
  cases w with
  | grp k =>
    unfold State.acquire
    dsimp only
    split
    · exact s.onGroup_still k (fun _ => rfl) (fun _ => rfl)
    · exact .refl s
  | sqr q => exact .refl s

theorem State.acquireOf_still (w : Agent) (y : Sync) : s.Still (s.acquireOf w y) := by
  unfold State.acquireOf
  split
  · exact s.acquire_still w _
  · exact .refl s

/-- OUTS of an agent falls by one. -/
def State.lessOuts (s : State) (w : Agent) : State :=
  match w with
  | .grp k => s.onGroup k (fun g => { g with outs := g.outs - 1 })
  | .sqr q => s.onSeq q (fun e => { e with outs := e.outs - 1 })

theorem State.lessOuts_still (w : Agent) : s.Still (s.lessOuts w) := by
  cases w with
  | grp k => exact s.onGroup_still k (fun _ => rfl) (fun _ => rfl)
  | sqr q => exact s.onSeq_still q _

/-- The response of a last part frees the entry, lowers OUTS and defers the faults noted. -/
theorem State.closeTxn_still (id : Nat) : s.Still (s.closeTxn id) := by
  unfold State.closeTxn
  split
  · exact .refl s
  · next t _ =>
    have houts : s.Still (State.lessOuts { s with txns := s.txns.filter (fun x => !(x.id == id)) } t.who) :=
      .trans (t := { s with txns := s.txns.filter (fun x => !(x.id == id)) }) (.of_eq rfl rfl rfl) (State.lessOuts_still _ _)
    split
    · dsimp only
      split
      · exact houts
      · exact houts.trans (State.defer_still _ _ _)
    · exact .refl s

theorem State.partDone_still (id n : Nat) : s.Still (s.partDone id n) := (s.onTxn_still id _).trans (State.closeTxn_still _ id)

theorem State.countLocal_still (id : Nat) : s.Still (s.countLocal id) := .of_eq rfl rfl rfl

theorem State.dropCopies_still (core : Nat) (sectors : List Nat) : s.Still (s.dropCopies core sectors) := .of_eq rfl rfl rfl

theorem State.rankL1_still (core : Nat) (lines : List Nat) (h : Hint) : s.Still (s.rankL1 core lines h) := .of_eq rfl rfl rfl

theorem State.refreshL1_still (core sec : Nat) : s.Still (s.refreshL1 core sec) := by
  unfold State.refreshL1
  dsimp only
  split <;> exact .of_eq rfl rfl rfl

theorem State.installL1_still (x : L1Sector) : s.Still (s.installL1 x) := .of_eq rfl rfl rfl

theorem State.l1After_still (t : Txn) (p : Part) (a : Nat) (d : Desc) (sync : Sync) (hint : Hint) : s.Still (s.l1After t p a d sync hint) := by
  unfold State.l1After
  split
  · exact s.refreshL1_still _ _
  · dsimp only
    split
    · refine .trans ?_ (State.rankL1_still _ _ _ _)
      refine .trans (t := { s with lx := put s.lx (a / 128) (max (s.lxOf (a / 128)) (s.ptime + t.lease)) }) (.of_eq rfl rfl rfl) ?_
      split
      · exact State.installL1_still _ _
      · exact State.refreshL1_still _ _ _
    · exact (s.refreshL1_still _ _).trans (State.rankL1_still _ _ _ _)

theorem State.strike_still (lines : List Nat) : s.Still (s.strike lines) := (s.abortAll_abortsOnly _).still

/-- Bytes take effect on committed memory outside any region: they stand there, and no register changes. -/
theorem State.commitCells_still (cells : List (Nat × Byte)) : State.Still { s with mem := s.mem.cells cells } (s.commitCells cells) where
  mem := (State.landCells_lands _ cells).mem.trans (congrArg (fun m => Memory.cells m cells) (s.strike_still (cellLines cells)).mem)
  segs := (State.landCells_lands _ cells).segs.trans (s.strike_still (cellLines cells)).segs
  group k g hg := by
    obtain ⟨g', hg', hv, hr⟩ := (s.strike_still (cellLines cells)).group k g hg
    obtain ⟨w, hw, -⟩ := (State.landCells_lands _ cells).group k g' hg'
    exact ⟨_, hw, hv, hr⟩

end

end Sys2Proof.Machine

/-! PROOFS, 02 R53, 06 R166, R167, R175: what returns to a destination. -/

namespace Sys2Proof.Machine

/-! ### Bytes of a word -/

/-- Byte m of a word, the lowest first. -/
def byteOf (w : Word) (m : Nat) : Byte := (w >>> (8 * m)).setWidth 8

theorem getLsbD_byteOf (w : Word) (m : Nat) {i : Nat} (h : i < 8) : (byteOf w m).getLsbD i = w.getLsbD (8 * m + i) := by
  simp [byteOf, h, BitVec.getLsbD_ushiftRight]

/-- One byte of a word replaced. -/
def putByte (w : Word) (k : Nat) (b : Byte) : Word := (w &&& ~~~(0xFF#32 <<< (8 * k))) ||| (b.setWidth 32 <<< (8 * k))

theorem byteOf_putByte (w : Word) {k m : Nat} (hk : k < 4) (hm : m < 4) (b : Byte) : byteOf (putByte w k b) m = if m = k then b else byteOf w m := by
  apply BitVec.eq_of_getLsbD_eq
  intro i hi
  have hff : ∀ j, (0xFF#32).getLsbD j = decide (j < 8) := fun j => by
    rw [show (0xFF#32) = (BitVec.allOnes 8).setWidth 32 from rfl, BitVec.getLsbD_setWidth, BitVec.getLsbD_allOnes]
    by_cases h : j < 8 <;> simp [h]
    omega
  rw [getLsbD_byteOf _ _ hi, putByte]
  simp only [BitVec.getLsbD_or, BitVec.getLsbD_and, BitVec.getLsbD_not, BitVec.getLsbD_shiftLeft, BitVec.getLsbD_setWidth, hff]
  by_cases hmk : m = k
  · subst hmk
    simp [show 8 * m + i < 32 by omega, show ¬ 8 * m + i < 8 * m by omega, hi]
    omega
  · rw [if_neg hmk, getLsbD_byteOf _ _ hi]
    rcases Nat.lt_or_gt_of_ne hmk with h | h
    · simp [show 8 * m + i < 32 by omega, show 8 * m + i < 8 * k by omega]
    · have hpast : b.getLsbD (8 * m + i - 8 * k) = false := BitVec.getLsbD_of_ge b _ (by omega)
      simp [hpast, show 8 * m + i < 32 by omega, show ¬ 8 * m + i < 8 * k by omega, show ¬ 8 * m + i - 8 * k < 8 by omega]

theorem putBytes_cons {w : Word} {k : Nat} (hk : k < 4) (b : Byte) (bs : List Byte) : putBytes w k (b :: bs) = putBytes (putByte w k b) (k + 1) bs := by
  rw [putBytes, if_pos hk]
  rfl

/-- Bytes put into a word from a position stand there, the others as before. -/
theorem byteOf_putBytes (w : Word) {k m : Nat} (bs : List Byte) (hk : k + bs.length ≤ 4) (hm : m < 4) :
    byteOf (putBytes w k bs) m = if k ≤ m ∧ m < k + bs.length then bs.getD (m - k) 0 else byteOf w m := by
  induction bs generalizing w k with
  | nil => rw [putBytes, if_neg (by simp)]
  | cons b bs ih =>
    rw [List.length_cons] at hk
    rw [putBytes_cons (by omega), ih _ (by omega), byteOf_putByte w (by omega) hm, List.length_cons]
    rcases Nat.lt_trichotomy m k with h | h | h
    · rw [if_neg (by omega), if_neg (by omega), if_neg (by omega)]
    · subst h
      rw [if_neg (by omega), if_pos rfl, if_pos (by omega), Nat.sub_self]
      rfl
    · rw [if_neg (show m ≠ k by omega), show m - k = (m - (k + 1)) + 1 by omega, List.getD_cons_succ]
      exact if_congr (by omega) rfl rfl

/-- Extension leaves the bytes of the size. -/
theorem byteOf_sizeExtend (z : Size) (w : Word) {m : Nat} (h : m < z.bytes) (hm : m < 4) : byteOf (sizeExtend z w) m = byteOf w m := by
  apply BitVec.eq_of_getLsbD_eq
  intro i hi
  rw [getLsbD_byteOf _ _ hi, getLsbD_byteOf _ _ hi]
  cases z <;> simp only [Size.bytes] at h <;> simp only [sizeExtend]
  case i8 => simp [BitVec.getElem_signExtend, show 8 * m + i < 8 by omega, show 8 * m + i < 32 by omega]
  case n8 => simp [show 8 * m + i < 8 by omega, show 8 * m + i < 32 by omega]
  case i16 => simp [BitVec.getElem_signExtend, show 8 * m + i < 16 by omega, show 8 * m + i < 32 by omega]
  case n16 => simp [show 8 * m + i < 16 by omega, show 8 * m + i < 32 by omega]

/-- A word of a value of fewer than 32 bits is extended as its size says. -/
def extendedBy (z : Size) (w : Word) : Prop :=
  (z = .i8 → w = (w.setWidth 8).signExtend 32) ∧ (z = .n8 → w = (w.setWidth 8).setWidth 32) ∧
    (z = .i16 → w = (w.setWidth 16).signExtend 32) ∧ (z = .n16 → w = (w.setWidth 16).setWidth 32)

theorem setWidth_signExtend {n m : Nat} (x : BitVec n) (h : n ≤ m) : (x.signExtend m).setWidth n = x := by
  apply BitVec.eq_of_getLsbD_eq
  intro i hi
  simp [BitVec.getElem_signExtend, hi, show i < m by omega]

theorem sizeExtend_extends (z : Size) (w : Word) : extendedBy z (sizeExtend z w) := by
  cases z <;> simp [extendedBy, sizeExtend, setWidth_signExtend]

/-! ### Words of a destination -/

section
variable (g : Group) (d : Dest)

/-- One word of a destination changes as its data returns. -/
def Group.destMod (k l : Nat) (f : Word → Word) : Group :=
  match d with
  | .none => g
  | .v r => g.vreturn (r + k) l (f ((g.v.getD (r + k) VReg.zero).lanes.getD l 0))
  | .g r => g.greturn (r + k) (f (g.g.getD (r + k) 0))

variable {g d}

theorem Group.vreturn_reg {r : Nat} (hr : r < g.v.length) (l : Nat) (w : Word) (j : Nat) :
    (g.vreturn r l w).v.getD j VReg.zero = if j = r then { g.v.getD j VReg.zero with lanes := (g.v.getD j VReg.zero).lanes.set l w } else g.v.getD j VReg.zero := by
  simp only [Group.vreturn, List.getD_eq_getElem?_getD, List.getElem?_modify]
  by_cases h : j = r
  · subst h
    simp [hr]
  · simp [h, Ne.symm h]

theorem Group.greturn_reg {r : Nat} (hr : r < g.g.length) (w : Word) (j : Nat) : (g.greturn r w).g.getD j 0 = if j = r then w else g.g.getD j 0 := by
  simp only [Group.greturn, List.getD_eq_getElem?_getD]
  by_cases h : j = r
  · subst h
    simp [hr]
  · rw [List.getElem?_set_ne (Ne.symm h), if_neg h]

variable {n l k : Nat} (hd : g.destHas d n l) (hk : k < n) (f : Word → Word)
include hd hk

theorem Group.destMod_has {m l' : Nat} (h : g.destHas d m l') : (g.destMod d k l f).destHas d m l' := by
  cases d with
  | none => trivial
  | g r => exact h.trans_eq List.length_set.symm
  | v r =>
    obtain ⟨hlen, -⟩ := hd
    refine ⟨h.1.trans_eq (List.length_modify ..).symm, fun j hj => ?_⟩
    rw [Group.destMod, Group.vreturn_reg (by omega)]
    split
    · exact (h.2 j hj).trans_eq List.length_set.symm
    · exact h.2 j hj

/-- The word named changes. -/
theorem Group.destMod_word (hne : d ≠ .none) : (g.destMod d k l f).destWord d k l = f (g.destWord d k l) := by
  cases d with
  | none => exact absurd rfl hne
  | g r =>
    have hlen : r + n ≤ g.g.length := hd
    rw [Group.destMod, Group.destWord, Group.greturn_reg (by omega), if_pos rfl]
    rfl
  | v r =>
    obtain ⟨hlen, hlane⟩ := hd
    rw [Group.destMod, Group.destWord, Group.vreturn_reg (by omega), if_pos rfl, List.getD_eq_getElem?_getD, List.getElem?_set_self (hlane k hk)]
    rfl

/-- The other words stand. -/
theorem Group.destMod_word_ne {j : Nat} (hj : j ≠ k) (l' : Nat) : (g.destMod d k l f).destWord d j l' = g.destWord d j l' := by
  cases d with
  | none => rfl
  | g r =>
    have hlen : r + n ≤ g.g.length := hd
    rw [Group.destMod, Group.destWord, Group.greturn_reg (by omega), if_neg (by omega)]
    rfl
  | v r =>
    obtain ⟨hlen, -⟩ := hd
    rw [Group.destMod, Group.destWord, Group.vreturn_reg (by omega), if_neg (by omega)]
    rfl

theorem Group.destMod_only : g.onlyDest (g.destMod d k l f) d n [l] := by
  cases d with
  | none => exact ⟨fun _ => rfl, fun _ _ _ => rfl, fun _ _ => rfl⟩
  | g r =>
    have hlen : r + n ≤ g.g.length := hd
    refine ⟨fun _ => rfl, fun _ _ _ => rfl, fun j hj => ?_⟩
    have hout := hj r rfl
    rw [Group.destMod, Group.greturn_reg (by omega), if_neg (by omega)]
  | v r =>
    obtain ⟨hlen, hlane⟩ := hd
    refine ⟨fun j => ?_, fun j l' hj => ?_, fun _ _ => rfl⟩
    · rw [Group.destMod, Group.vreturn_reg (by omega)]
      split <;> rfl
    · have hout := hj r rfl
      rw [Group.destMod, Group.vreturn_reg (by omega)]
      split
      · next h =>
        have hne : l ≠ l' := fun h' => hout ⟨by simp [h'], by omega, by omega⟩
        simp only [List.getD_eq_getElem?_getD, List.getElem?_set_ne hne]
      · rfl

end

/-! ### Several words -/

theorem Group.onlyDest.refl (g : Group) (d : Dest) (n : Nat) (lanes : List Nat) : g.onlyDest g d n lanes := ⟨fun _ => rfl, fun _ _ _ => rfl, fun _ _ => rfl⟩

theorem Group.onlyDest.trans {g g' g'' : Group} {d : Dest} {n : Nat} {lanes lanes' : List Nat} (h : g.onlyDest g' d n lanes) (h' : g'.onlyDest g'' d n lanes') :
    g.onlyDest g'' d n (lanes ++ lanes') := by
  obtain ⟨htag, hv, hg⟩ := h
  obtain ⟨htag', hv', hg'⟩ := h'
  refine ⟨fun j => (htag' j).trans (htag j), fun j l hj => ?_, fun j hj => (hg' j hj).trans (hg j hj)⟩
  exact (hv' j l (fun r hr hin => hj r hr ⟨List.mem_append_right _ hin.1, hin.2⟩)).trans (hv j l (fun r hr hin => hj r hr ⟨List.mem_append_left _ hin.1, hin.2⟩))

theorem Group.onlyDest.mono {g g' : Group} {d : Dest} {n : Nat} {lanes lanes' : List Nat} (h : g.onlyDest g' d n lanes) (hsub : lanes ⊆ lanes') : g.onlyDest g' d n lanes' := by
  obtain ⟨htag, hv, hg⟩ := h
  exact ⟨htag, fun j l hj => hv j l (fun r hr hin => hj r hr ⟨hsub hin.1, hin.2⟩), hg⟩

/-- Words of lanes that the data is not for stand. -/
theorem Group.onlyDest.word {g g' : Group} {d : Dest} {n : Nat} {lanes : List Nat} (h : g.onlyDest g' d n lanes) (hd : ∀ r, d ≠ .g r) {l : Nat} (hl : l ∉ lanes) (j : Nat) :
    g'.destWord d j l = g.destWord d j l := by
  obtain ⟨-, hv, -⟩ := h
  cases d with
  | none => rfl
  | g r => exact absurd rfl (hd r)
  | v r => exact hv (r + j) l (fun _ _ hin => hl hin.1)

section
variable {d : Dest} {n l : Nat} (S : Group → Nat → Group) (F : Nat → Word → Word) (hS : ∀ g k, (S g k = g ∧ ∀ w, F k w = w) ∨ S g k = g.destMod d k l (F k))
include hS

/-- Words of a destination change one after another: each as its function says, and nothing else. -/
theorem Group.foldl_destMod {m : Nat} (hm : m ≤ n) {g : Group} (hd : g.destHas d n l) :
    (∀ n' l', g.destHas d n' l' → ((List.range m).foldl S g).destHas d n' l') ∧ g.onlyDest ((List.range m).foldl S g) d n [l] ∧
      (d ≠ .none → ∀ j, ((List.range m).foldl S g).destWord d j l = if j < m then F j (g.destWord d j l) else g.destWord d j l) := by
  induction m with
  | zero => exact ⟨fun _ _ h => h, .refl g d n [l], fun _ j => (if_neg (Nat.not_lt_zero j)).symm⟩
  | succ m ih =>
    obtain ⟨hhas, honly, hword⟩ := ih (by omega)
    rw [List.range_succ, List.foldl_append, List.foldl_cons, List.foldl_nil]
    have hd' := hhas n l hd
    obtain ⟨hsame, hid⟩ | hmod := hS ((List.range m).foldl S g) m
    · rw [hsame]
      refine ⟨hhas, honly, fun hne j => ?_⟩
      rw [hword hne]
      by_cases hj : j = m
      · subst hj
        rw [if_neg (Nat.lt_irrefl j), if_pos (Nat.lt_succ_self j), hid]
      · exact if_congr (by omega) rfl rfl
    · rw [hmod]
      refine ⟨fun n' l' h => Group.destMod_has hd' (by omega) _ (hhas n' l' h), (honly.trans (Group.destMod_only hd' (by omega) _)).mono (by simp), fun hne j => ?_⟩
      by_cases hj : j = m
      · subst hj
        rw [Group.destMod_word hd' (by omega) _ hne, if_pos (Nat.lt_succ_self j), hword hne, if_neg (Nat.lt_irrefl j)]
      · rw [Group.destMod_word_ne hd' (by omega) _ hj, hword hne]
        exact if_congr (by omega) rfl rfl

end

/-! ### The old value of an atomic -/

/-- The old value of an atomic returns to its destination. -/
def Group.returnOld (g : Group) (d : Dest) (r : Rmw) (lane old : Nat) : Group :=
  (List.range r.words).foldl (fun u k => u.destMod d k lane (fun _ => BitVec.ofNat 32 (old / 2 ^ (32 * k)))) g

theorem State.destMod_eq (s : State) (k : GKey) (d : Dest) (j l : Nat) (f : Word → Word) : s.destMod (.grp k) d j l f = s.onGroup k (fun g => g.destMod d j l f) := by
  cases d with
  | none => exact (s.onGroup_id k).symm
  | v r => rfl
  | g r => rfl

theorem State.returnOld_eq (s : State) (k : GKey) (d : Dest) (r : Rmw) (lane old : Nat) : s.returnOld (.grp k) d r lane old = s.onGroup k (fun g => g.returnOld d r lane old) :=
  foldl_onGroup _ _ k _ s (fun _ _ _ => State.destMod_eq ..)

theorem Group.returnOld_spec {g : Group} {d : Dest} {r : Rmw} {lane : Nat} (hd : g.destHas d r.words lane) (old : Nat) :
    g.onlyDest (g.returnOld d r lane old) d r.words [lane] ∧
      (d ≠ .none → ∀ j, j < r.words → (g.returnOld d r lane old).destWord d j lane = BitVec.ofNat 32 (old / 2 ^ (32 * j))) := by
  obtain ⟨-, honly, hword⟩ := Group.foldl_destMod (fun (u : Group) k => u.destMod d k lane (fun _ => BitVec.ofNat 32 (old / 2 ^ (32 * k))))
    (fun k _ => BitVec.ofNat 32 (old / 2 ^ (32 * k))) (fun _ _ => .inr rfl) (Nat.le_refl r.words) hd
  exact ⟨honly, fun hne j hj => (hword hne j).trans (if_pos hj)⟩

/-! ### The data of a piece -/

/-- Of the bytes of a piece, those that belong to register k. -/
def Piece.wordBytes (p : Piece) (n k : Nat) : List Nat := (List.range n).filter (fun i => decide (4 * k ≤ p.idx + i) && decide (p.idx + i < 4 * k + 4))

/-- What the data of a piece makes of register k. -/
def Piece.intoWord (p : Piece) (z : Size) (bs : List Byte) (k : Nat) (w : Word) : Word :=
  match p.wordBytes bs.length k with
  | [] => w
  | i :: r => sizeExtend z (putBytes w (p.idx + i - 4 * k) ((i :: r).map (fun j => bs.getD j 0)))

/-- One register takes its bytes of a piece. -/
def Group.takeWord (d : Dest) (z : Size) (p : Piece) (bs : List Byte) (g : Group) (k : Nat) : Group :=
  match p.wordBytes bs.length k with
  | [] => g
  | _ :: _ => g.destMod d k p.lane (p.intoWord z bs k)

/-- The data of one piece returns to a group. -/
def Group.destBytes (g : Group) (d : Dest) (z : Size) (p : Piece) (bs : List Byte) : Group := (List.range z.regs).foldl (Group.takeWord d z p bs) g

theorem State.destBytes_eq (s : State) (k : GKey) (d : Dest) (z : Size) (p : Piece) (bs : List Byte) :
    s.destBytes (.grp k) d z p bs = s.onGroup k (fun g => g.destBytes d z p bs) := by
  refine foldl_onGroup _ (fun j g => g.takeWord d z p bs j) k _ s (fun u j _ => ?_)
  unfold Group.takeWord Piece.intoWord Piece.wordBytes
  split
  · next h =>
    rw [h]
    exact (u.onGroup_id k).symm
  · next i r h =>
    rw [h]
    exact u.destMod_eq ..

theorem Piece.wordBytes_eq (p : Piece) (n k : Nat) : p.wordBytes n k = List.Ico (4 * k - p.idx) (min n (4 * k + 4 - p.idx)) := by
  have hsplit : p.wordBytes n k = ((List.range n).filter (fun i => decide (i < 4 * k + 4 - p.idx))).filter (fun i => decide (4 * k - p.idx ≤ i)) := by
    rw [List.filter_filter]
    refine List.filter_congr fun i _ => ?_
    rw [← Bool.decide_and, ← Bool.decide_and]
    exact decide_eq_decide.2 (by omega)
  rw [hsplit, ← List.Ico.zero_bot, List.Ico.filter_lt, List.Ico.filter_le, Nat.max_eq_right (Nat.zero_le _)]

section
variable (p : Piece) (z : Size) {bs : List Byte}

/-- A byte of a piece stands at its place in its register. -/
theorem Piece.intoWord_byte (h : p.idx + bs.length ≤ z.bytes) {i : Nat} (hi : i < bs.length) (w : Word) :
    byteOf (p.intoWord z bs ((p.idx + i) / 4) w) ((p.idx + i) % 4) = bs.getD i 0 := by
  have hmine := p.wordBytes_eq bs.length ((p.idx + i) / 4)
  generalize hk : (p.idx + i) / 4 = k at *
  have hlt : 4 * k - p.idx < min bs.length (4 * k + 4 - p.idx) := by omega
  rw [List.Ico.eq_cons hlt] at hmine
  rw [Piece.intoWord, hmine]
  dsimp only
  rw [← List.Ico.eq_cons hlt]
  have hlen : ((List.Ico (4 * k - p.idx) (min bs.length (4 * k + 4 - p.idx))).map (fun j => bs.getD j 0)).length = min bs.length (4 * k + 4 - p.idx) - (4 * k - p.idx) := by simp
  rw [byteOf_sizeExtend z _ (by omega) (by omega), byteOf_putBytes _ _ (by omega) (by omega), if_pos (by omega), List.getD_eq_getElem _ _ (by omega), List.getElem_map]
  simp only [List.Ico, List.getElem_range']
  congr 1
  omega

/-- A value of fewer than 32 bits is extended. -/
theorem Piece.intoWord_extended (h : p.idx + bs.length ≤ z.bytes) (hne : bs ≠ []) (w : Word) : extendedBy z (p.intoWord z bs 0 w) := by
  have hlen : 0 < bs.length := List.length_pos_iff.2 hne
  by_cases hz : z.bytes < 4
  · have hmine := p.wordBytes_eq bs.length 0
    rw [List.Ico.eq_cons (by omega)] at hmine
    rw [Piece.intoWord, hmine]
    exact sizeExtend_extends z _
  · cases z <;> simp [Size.bytes, extendedBy] at hz ⊢

end

theorem Size.bytes_le_regs (z : Size) : z.bytes ≤ 4 * z.regs := by cases z <;> decide

section
variable {g : Group} {d : Dest} {z : Size} {p : Piece} {bs : List Byte} (hd : g.destHas d z.regs p.lane)
include hd

theorem Group.destBytes_words : (∀ n' l', g.destHas d n' l' → (g.destBytes d z p bs).destHas d n' l') ∧ g.onlyDest (g.destBytes d z p bs) d z.regs [p.lane] ∧
    (d ≠ .none → ∀ j, j < z.regs → (g.destBytes d z p bs).destWord d j p.lane = p.intoWord z bs j (g.destWord d j p.lane)) := by
  have hstep : ∀ (g : Group) k, (g.takeWord d z p bs k = g ∧ ∀ w, p.intoWord z bs k w = w) ∨ g.takeWord d z p bs k = g.destMod d k p.lane (p.intoWord z bs k) := fun g k => by
    unfold Group.takeWord
    split
    · next h => exact .inl ⟨rfl, fun w => by rw [Piece.intoWord, h]⟩
    · exact .inr rfl
  obtain ⟨hhas, honly, hword⟩ := Group.foldl_destMod (Group.takeWord d z p bs) (p.intoWord z bs) hstep (Nat.le_refl z.regs) hd
  exact ⟨hhas, honly, fun hne j hj => (hword hne j).trans (if_pos hj)⟩

/-- The data of a piece stands in its destination. -/
theorem Group.destBytes_loaded (hne : d ≠ .none) (hlen : bs.length = p.len) (hpos : 0 < p.len) (hin : p.idx + p.len ≤ z.bytes) :
    (g.destBytes d z p bs).loaded d z p (fun i => bs.getD i 0) := by
  obtain ⟨-, -, hword⟩ := Group.destBytes_words (bs := bs) hd
  have hregs := Size.bytes_le_regs z
  refine ⟨fun i hi => ?_, ?_⟩
  · rw [hword hne _ (by omega)]
    exact p.intoWord_byte z (by omega) (by omega) _
  · rw [hword hne 0 (by omega)]
    exact p.intoWord_extended z (by omega) (fun h => by simp [h] at hlen; omega) _

end

/-- What a destination holds of a piece is in the words of the piece's lane. -/
theorem Group.loaded_congr {g g' : Group} {d : Dest} {z : Size} {p : Piece} {b b' : Nat → Byte} (hw : ∀ j, g'.destWord d j p.lane = g.destWord d j p.lane)
    (hb : ∀ i, i < p.len → b' i = b i) (h : g.loaded d z p b) : g'.loaded d z p b' := by
  obtain ⟨hbytes, hext⟩ := h
  exact ⟨fun i hi => by rw [hw, hb i hi]; exact hbytes i hi, by rw [hw]; exact hext⟩

/-! ### The data of a part -/

/-- The data of pieces returns to a group, by the bytes at their addresses. -/
def Group.deliver (g : Group) (d : Dest) (z : Size) (ps : List Piece) (f : Nat → Byte) : Group := ps.foldl (fun u p => u.destBytes d z p ((regs p.addr p.len).map f)) g

theorem State.deliver_eq (s : State) (t : Txn) {k : GKey} (hwho : t.who = .grp k) (d : Dest) (z : Size) (ps : List Piece) (f : Nat → Byte) :
    s.deliver t d z ps f = s.onGroup k (fun g => g.deliver d z ps f) := by
  rw [State.deliver, hwho]
  exact foldl_onGroup _ (fun (p : Piece) g => g.destBytes d z p ((regs p.addr p.len).map f)) k ps s (fun _ _ _ => State.destBytes_eq ..)

/-- Pieces of distinct lanes, or one for a g register, do not meet in their destination. -/
theorem Group.deliver_spec {d : Dest} {z : Size} (f : Nat → Byte) (hne : d ≠ .none) {ps : List Piece} {g : Group} (hlanes : (ps.map (fun x => x.lane)).Pairwise (· < ·))
    (hone : ∀ r, d = .g r → ps.length ≤ 1) (hps : ∀ x ∈ ps, 0 < x.len ∧ x.idx + x.len ≤ z.bytes ∧ g.destHas d z.regs x.lane) :
    g.onlyDest (g.deliver d z ps f) d z.regs (ps.map (fun x => x.lane)) ∧ ∀ x ∈ ps, (g.deliver d z ps f).loaded d z x (fun i => f (x.addr + i)) := by
  induction ps generalizing g with
  | nil => exact ⟨.refl g d _ _, fun _ h => absurd h List.not_mem_nil⟩
  | cons p ps ih =>
    obtain ⟨hpos, hin, hd⟩ := hps p List.mem_cons_self
    obtain ⟨hhas, honly, -⟩ := Group.destBytes_words (bs := (regs p.addr p.len).map f) hd
    rw [List.map_cons, List.pairwise_cons] at hlanes
    obtain ⟨honly', hloaded⟩ := ih hlanes.2 (fun r hr => by have := hone r hr; rw [List.length_cons] at this; omega)
      (fun x hx => let ⟨h1, h2, h3⟩ := hps x (List.mem_cons_of_mem _ hx); ⟨h1, h2, hhas _ _ h3⟩)
    refine ⟨honly.trans honly', fun x hx => ?_⟩
    rcases List.mem_cons.1 hx with rfl | hx
    · refine Group.loaded_congr (fun j => ?_) (fun i hi => ?_) (Group.destBytes_loaded (bs := (regs x.addr x.len).map f) hd hne (by simp [regs]) hpos hin)
      · by_cases hg : ∃ r, d = .g r
        · obtain ⟨r, hr⟩ := hg
          have hnil : ps = [] := List.eq_nil_of_length_eq_zero (by have := hone r hr; rw [List.length_cons] at this; omega)
          rw [hnil]
          rfl
        · exact honly'.word (fun r hr => hg ⟨r, hr⟩) (fun h => absurd (hlanes.1 _ h) (Nat.lt_irrefl _)) j
      · simp [regs, hi]
    · exact hloaded x hx

end Sys2Proof.Machine

/-! PROOFS, 06 R168, R173: the bytes a store writes, the last of its lanes first in force. -/

namespace Sys2Proof.Machine

/-! ### Canonical memories -/

theorem State.mem_wf_of_memOk {s : State} (h : s.memOk = true) : s.mem.wf = true := by
  simp only [State.memOk, Bool.and_eq_true] at h
  exact h.1.1

theorem State.scratch_wf_of_memOk {s : State} (h : s.memOk = true) {q : SKey} {g : Segment} (hg : look s.segs q = some g) : g.scratch.wf = true := by
  simp only [State.memOk, Bool.and_eq_true] at h
  exact List.all_eq_true.1 h.1.2 _ (look_mem hg)

/-! ### Little-endian bytes -/

theorem length_bytesLE (n x : Nat) : (bytesLE n x).length = n := by
  induction n generalizing x with
  | zero => rfl
  | succ n ih => exact congrArg (· + 1) (ih _)

theorem bytesLE_getD {n i : Nat} (h : i < n) (x : Nat) : (bytesLE n x).getD i 0 = BitVec.ofNat 8 (x / 2 ^ (8 * i)) := by
  induction n generalizing i x with
  | zero => omega
  | succ n ih =>
    cases i with
    | zero => simp [bytesLE]
    | succ i =>
      rw [bytesLE, List.getD_cons_succ, ih (by omega), Nat.div_div_eq_div_mul, show 256 * 2 ^ (8 * i) = 2 ^ (8 * (i + 1)) by rw [Nat.mul_succ, Nat.pow_add, Nat.mul_comm]]

theorem length_pieceBytes (data : List (Nat × Nat)) {p : Piece} (h : p.idx + p.len ≤ 16) : (pieceBytes data p).length = p.len := by
  simp only [pieceBytes, List.length_take, List.length_drop, length_bytesLE]
  omega

theorem pieceBytes_getD (data : List (Nat × Nat)) {p : Piece} (h : p.idx + p.len ≤ 16) {i : Nat} (hi : i < p.len) :
    (pieceBytes data p).getD i 0 = BitVec.ofNat 8 ((look data p.lane).getD 0 / 2 ^ (8 * (p.idx + i))) := by
  rw [← bytesLE_getD (show p.idx + i < 16 by omega), pieceBytes]
  simp only [List.getD_eq_getElem?_getD, List.getElem?_take, List.getElem?_drop, if_pos hi]

/-! ### Cells -/

theorem Memory.put_eq_cells (m : Memory) (a : Nat) (bs : List Byte) : m.put a bs = m.cells ((regs a bs.length).zip bs) := by
  induction bs generalizing m a with
  | nil => rfl
  | cons b bs ih =>
    rw [Memory.put, ih, List.length_cons, show regs a (bs.length + 1) = a :: regs (a + 1) bs.length by rw [Nat.add_comm, regs_add]; rfl]
    rfl

/-- The cells of a run of bytes at one address. -/
theorem filter_zip_regs (a b : Nat) (bs : List Byte) :
    ((regs a bs.length).zip bs).filter (fun c => decide (c.1 = b)) = if a ≤ b ∧ b < a + bs.length then [(b, bs.getD (b - a) 0)] else [] := by
  induction bs generalizing a with
  | nil => rw [if_neg (by simp)]; rfl
  | cons x bs ih =>
    rw [List.length_cons, show regs a (bs.length + 1) = a :: regs (a + 1) bs.length by rw [Nat.add_comm, regs_add]; rfl, List.zip_cons_cons, List.filter_cons, ih]
    rcases Nat.lt_trichotomy a b with h | h | h
    · rw [if_neg (by simpa using Nat.ne_of_lt h), show b - a = (b - (a + 1)) + 1 by omega, List.getD_cons_succ]
      exact if_congr (by omega) rfl rfl
    · subst h
      rw [if_pos (by simp), if_neg (by omega), if_pos (by omega), Nat.sub_self]
      rfl
    · rw [if_neg (by simpa using Nat.ne_of_gt h), if_neg (by omega), if_neg (by omega)]

/-- What the cells of a store's pieces leave at an address (06 R168). -/
theorem Memory.read_pieceCells {m : Memory} (hm : m.wf = true) (data : List (Nat × Nat)) (ps : List (Piece × Nat)) (h : ∀ e ∈ ps, e.1.idx + e.1.len ≤ 16) (a : Nat) :
    (m.cells ((ps.map (fun e => pieceCells data e.1 e.2)).flatten)).read a = storedByte ps data m.read a := by
  have hcells : ((ps.map (fun e => pieceCells data e.1 e.2)).flatten).filter (fun c => decide (c.1 = a)) =
      (ps.filter (fun e => decide (e.2 ≤ a) && decide (a < e.2 + e.1.len))).map (fun e => (a, (pieceBytes data e.1).getD (a - e.2) 0)) := by
    induction ps with
    | nil => rfl
    | cons e ps ih =>
      have hlen := length_pieceBytes data (h e List.mem_cons_self)
      have hhead : (pieceCells data e.1 e.2).filter (fun c => decide (c.1 = a)) = if e.2 ≤ a ∧ a < e.2 + e.1.len then [(a, (pieceBytes data e.1).getD (a - e.2) 0)] else [] := by
        have hzip := filter_zip_regs e.2 a (pieceBytes data e.1)
        rwa [hlen] at hzip
      rw [List.map_cons, List.flatten_cons, List.filter_append, hhead, ih (fun x hx => h x (List.mem_cons_of_mem _ hx)), List.filter_cons]
      by_cases hin : e.2 ≤ a ∧ a < e.2 + e.1.len
      · rw [if_pos hin, if_pos (by simpa using hin)]
        rfl
      · rw [if_neg hin, if_neg (by simpa using hin)]
        rfl
  rw [Memory.read_cells hm, hcells, List.getLast?_map, storedByte]
  cases hlast : (ps.filter (fun e => decide (e.2 ≤ a) && decide (a < e.2 + e.1.len))).getLast? with
  | none => rfl
  | some e =>
    obtain ⟨he, hin⟩ := List.mem_filter.1 (List.mem_of_getLast? hlast)
    obtain ⟨hle, hlt⟩ := (Bool.and_eq_true ..).mp hin
    exact pieceBytes_getD data (h e he) (by have := of_decide_eq_true hle; have := of_decide_eq_true hlt; omega)

/-! ### The last writer of each address -/

theorem keys_put_nodup {κ α : Type} [DecidableEq κ] {l : List (κ × α)} (h : (l.map Prod.fst).Nodup) (x : κ) (a : α) : ((put l x a).map Prod.fst).Nodup := by
  have hkeys : ∀ (l : List (κ × α)) (y : κ), y ∈ (put l x a).map Prod.fst → y = x ∨ y ∈ l.map Prod.fst := fun l y => by
    induction l with
    | nil => exact fun hy => .inl (by simpa [put] using hy)
    | cons e l ih =>
      unfold put
      split
      · exact fun hy => .inr hy
      · intro hy
        rcases List.mem_cons.1 hy with hy | hy
        · exact .inr (List.mem_cons.2 (.inl hy))
        · exact (ih hy).imp_right (List.mem_cons_of_mem _)
  induction l with
  | nil => simp [put]
  | cons e l ih =>
    rw [List.map_cons, List.nodup_cons] at h
    unfold put
    split
    · exact List.nodup_cons.2 h
    · next hne => exact List.nodup_cons.2 ⟨fun hin => (hkeys l _ hin).elim hne h.1, ih h.2⟩

/-- Where no address comes twice, a byte reads as its cell says. -/
theorem Memory.read_cells_look {m : Memory} (hm : m.wf = true) {cs : List (Nat × Byte)} (h : (cs.map Prod.fst).Nodup) (a : Nat) : (m.cells cs).read a = (look cs a).getD (m.read a) := by
  induction cs generalizing m with
  | nil => rfl
  | cons c cs ih =>
    rw [List.map_cons, List.nodup_cons] at h
    rw [Memory.cells, ih (Memory.wf_write hm _ _) h.2, Memory.read_write hm, look]
    by_cases hc : c.1 = a
    · rw [if_pos hc, if_pos hc.symm]
      cases hl : look cs a with
      | none => rfl
      | some b => exact absurd (hc ▸ List.mem_map.2 ⟨_, look_mem hl, rfl⟩) h.1
    · rw [if_neg hc, if_neg (Ne.symm hc)]

/-- A table filled in order holds the last entry of each key, and no key twice. -/
theorem look_foldl_put {κ α : Type} [DecidableEq κ] (cs l : List (κ × α)) (hl : (l.map Prod.fst).Nodup) (a : κ) :
    ((cs.foldl (fun m c => put m c.1 c.2) l).map Prod.fst).Nodup ∧
      look (cs.foldl (fun m c => put m c.1 c.2) l) a = ((cs.filter (fun c => decide (c.1 = a))).getLast?).elim (look l a) (fun c => some c.2) := by
  induction cs generalizing l with
  | nil => exact ⟨hl, rfl⟩
  | cons c cs ih =>
    obtain ⟨hnd, hlook⟩ := ih (put l c.1 c.2) (keys_put_nodup hl _ _)
    refine ⟨hnd, hlook.trans ?_⟩
    rw [List.filter_cons]
    by_cases hc : c.1 = a
    · subst hc
      rw [look_put, if_pos (decide_eq_true rfl), List.getLast?_cons, Option.elim_some]
      cases (cs.filter (fun e => decide (e.1 = c.1))).getLast? <;> rfl
    · rw [look_put_ne _ _ (Ne.symm hc), if_neg (by simpa using hc)]

/-- Of cells written in order, the last of each address counts. -/
theorem Memory.read_lastCells {m : Memory} (hm : m.wf = true) (cs : List (Nat × Byte)) (a : Nat) : (m.cells (lastCells cs)).read a = (m.cells cs).read a := by
  obtain ⟨hnd, hlook⟩ := look_foldl_put cs [] List.nodup_nil a
  rw [lastCells, Memory.read_cells_look hm hnd, Memory.read_cells hm, hlook]
  cases (cs.filter (fun c => decide (c.1 = a))).getLast? <;> rfl

end Sys2Proof.Machine

/-! PROOFS, 06 R161, R166 to R168, R173 to R175, 09 R255, R256: one part of an access to an object of this chip performs. -/

namespace Sys2Proof.Machine

/-! ### Registers of a group after an access -/

section
variable {g g' g'' : Group} (hv : g''.v = g'.v) (hg : g''.g = g'.g)
include hv hg

theorem Group.destWord_of_regs (d : Dest) (j l : Nat) : g''.destWord d j l = g'.destWord d j l := by
  cases d with
  | none => rfl
  | v r => rw [Group.destWord, hv]; rfl
  | g r => rw [Group.destWord, hg]; rfl

theorem Group.onlyDest.of_regs {d : Dest} {n : Nat} {lanes : List Nat} (h : g.onlyDest g' d n lanes) : g.onlyDest g'' d n lanes := by
  unfold Group.onlyDest at h ⊢
  rwa [hv, hg]

theorem Group.onlyDest.from_regs {d : Dest} {n : Nat} {lanes : List Nat} (h : g''.onlyDest g d n lanes) : g'.onlyDest g d n lanes := by
  unfold Group.onlyDest at h ⊢
  rwa [hv, hg] at h

theorem Group.destHas.of_regs {d : Dest} {n l : Nat} (h : g'.destHas d n l) : g''.destHas d n l := by
  cases d with
  | none => trivial
  | v r => rw [Group.destHas, hv]; exact h
  | g r => rw [Group.destHas, hg]; exact h

end

theorem State.Still.onGroup {u v : State} {k : GKey} {F : Group → Group} (h : (u.onGroup k F).Still v) {g : Group} (hg : look u.groups k = some g) :
    ∃ g', look v.groups k = some g' ∧ g'.v = (F g).v ∧ g'.g = (F g).g := h.group k (F g) (upd_some F hg)

/-- The data of pieces has returned to their destination, and nothing else that an instruction reads has changed. -/
theorem State.Still.deliver {u v : State} {k : GKey} {d : Dest} {z : Size} {ps : List Piece} {f : Nat → Byte} (h : (u.onGroup k (fun g => g.deliver d z ps f)).Still v) {g : Group}
    (hg : look u.groups k = some g) (hne : d ≠ .none) (hlanes : (ps.map (fun x => x.lane)).Pairwise (· < ·)) (hone : ∀ r, d = .g r → ps.length = 1)
    (hps : ∀ x ∈ ps, 0 < x.len ∧ x.idx + x.len ≤ z.bytes ∧ g.destHas d z.regs x.lane) :
    ∃ g', look v.groups k = some g' ∧ g.onlyDest g' d z.regs (ps.map (fun x => x.lane)) ∧ ∀ x ∈ ps, g'.loaded d z x (fun i => f (x.addr + i)) := by
  obtain ⟨g', hg', hv, hr⟩ := h.onGroup hg
  obtain ⟨honly, hloaded⟩ := Group.deliver_spec f hne hlanes (fun r hr => (hone r hr).le) hps
  exact ⟨g', hg', honly.of_regs hv hr, fun x hx => Group.loaded_congr (fun j => Group.destWord_of_regs hv hr d j x.lane) (fun _ _ => rfl) (hloaded x hx)⟩

/-- The old value of an atomic has returned to its destination, if it has one. -/
theorem State.Still.returnOld {u v : State} {k : GKey} {d : Dest} {r : Rmw} {lane old : Nat} (h : (u.onGroup k (fun g => g.returnOld d r lane old)).Still v) {g gu : Group}
    (hgu : look u.groups k = some gu) (hv : gu.v = g.v) (hr : gu.g = g.g) (hd : g.destHas d r.words lane) :
    ∃ g', look v.groups k = some g' ∧ g.onlyDest g' d r.words [lane] ∧ (d ≠ .none → ∀ j, j < r.words → g'.destWord d j lane = BitVec.ofNat 32 (old / 2 ^ (32 * j))) := by
  obtain ⟨g', hg', hv', hr'⟩ := h.onGroup hgu
  obtain ⟨honly, hold⟩ := Group.returnOld_spec (hd.of_regs hv hr) old
  exact ⟨g', hg', (honly.from_regs hv hr).of_regs hv' hr', fun hne j hj => (Group.destWord_of_regs hv' hr' d j lane).trans (hold hne j hj)⟩

/-! ### A part that performs -/

/-- Loads, stores and atomics, whose parts are sectors. -/
def Txn.sectorwise (t : Txn) : Bool :=
  match t.kind with
  | .load .. | .store .. | .rmw .. => true
  | _ => false

section
variable {s : State} {id n : Nat} {t : Txn}

theorem exec_responseReturn (harg : s.arg = .pair id n) (ht : s.txn? id = some t) (hk : t.sectorwise = true) (hready : s.partReady t n = true) {p : Part}
    (hp : t.parts[n]? = some p) (hrow : s.channelRow t p = none) : exec .responseReturn s = .next (s.performPart t n) := by
  change execResponseReturn s = _
  unfold execResponseReturn
  rw [harg]
  simp only [ht]
  split
  · next h => simp [Txn.sectorwise, h] at hk
  · rw [if_pos (by rw [hready, List.getD_eq_getElem?_getD, hp, Option.getD_some, hrow]; rfl)]

theorem State.performPart_eq (hk : t.sectorwise = true) {p : Part} (hp : t.parts[n]? = some p) :
    s.performPart t n = if t.scratch then s.scrPart t n p else s.objPart t n p := by
  unfold State.performPart
  simp only [hp]
  split
  · next h => simp [Txn.sectorwise, h] at hk
  · next h => simp [Txn.sectorwise, h] at hk
  · rfl

theorem State.txn?_id (ht : s.txn? id = some t) : t.id = id := by simpa using List.find?_some ht

end

/-! ### A part whose lanes may all perform here -/

/-- Stores and atomics are not served by L1. -/
theorem State.not_served (s : State) {t : Txn} (p : Part) (hk : ∀ b dst z y hint, t.kind ≠ .load b dst z y hint) : s.served? t p = none := by
  unfold State.served?
  split
  · next hload _ => exact absurd hload (hk _ _ _ _ _)
  · rfl

/-- Part p of the transaction t of group k, outside any region, may perform here: none of its lanes faults, nothing of it is to be asked, and piece x stands at h x of an object that is not closed, or that was reached before. -/
structure State.Performs (s : State) (t : Txn) (k : GKey) (g : Group) (p : Part) (h : Piece → Nat) (d : Desc) : Prop where
  txn : s.txn? t.id = some t
  who : t.who = .grp k
  faults : t.faults = []
  group : look s.groups k = some g
  region : g.region = none
  probe : p.probe = false
  asked : s.unasked t p = []
  closed : p.st = .todo → d.closed = false
  passes : ∀ x ∈ p.pieces, s.accessFault t.need t.seen (t.laneAccess x.lane) = none
  here : ∀ x ∈ p.pieces, s.hereAddr x.addr = some (h x, d)

/-- A byte that stands here has that place. -/
theorem State.place_of_here {s : State} {a b : Nat} {d : Desc} (h : s.hereAddr a = some (b, d)) : s.place a = b := by
  unfold State.hereAddr at h
  unfold State.place
  split at h
  · next hr =>
    rw [hr]
    exact (Prod.mk.inj (Option.some.inj h)).1
  · cases h

/-- What a part does at this chip, by the kind of its access. -/
def State.performHere (s : State) (t : Txn) (n : Nat) (p : Part) (ps : List Piece) (x : Piece) (a : Nat) (d : Desc) : State :=
  match t.kind with
  | .load _ dst z y h => s.loadHere t n p ps a d dst z y h
  | .store _ _ _ data => s.storeHere t n ps a d data
  | .rmw _ dst op sc data => s.atomHere t n x a d dst op sc ((look data x.lane).getD [])
  | _ => s.partDone t.id n

section
variable {s : State} {t : Txn} {k : GKey} {g : Group} {p : Part} {h : Piece → Nat} {d : Desc} (hp : s.Performs t k g p h d)
include hp

theorem State.Performs.regionOf : s.regionOf t.who = none := by
  rw [hp.who]
  simp only [State.regionOf, hp.group, Option.elim_some, hp.region]

/-- The lanes are checked, and none faults. -/
theorem State.Performs.checkPart : s.checkPart t p = s := by
  unfold State.checkPart
  split
  · rfl
  · refine List.foldlRecOn _ _ (motive := fun u => u = s) rfl fun u hu l hl => ?_
    obtain ⟨x, hx, rfl⟩ := List.mem_map.1 (List.mem_eraseDups.1 hl)
    subst hu
    simp only [hp.txn, Option.elim_some, hp.faults, hp.passes x hx, List.any_nil]
    rfl

theorem State.Performs.goodPieces : s.goodPieces t p = p.pieces := by
  simp [State.goodPieces, hp.txn, hp.faults]

theorem State.Performs.regionAccess (ps : List Piece) (rd wr : Bool) : s.regionAccess t.who ps rd wr = (s, .outside) := by
  simp only [State.regionAccess, hp.regionOf]

/-- The first piece is served here. -/
theorem State.Performs.target {x : Piece} (hx : x ∈ p.pieces) :
    ∃ i off, flat i off = h x ∧ (if p.st = .todo then s.sendTo x.addr else s.route splitFuel (x.addr / 2 ^ 34) (x.addr % 2 ^ 34)) = .here i off d := by
  have hhere := hp.here x hx
  unfold State.hereAddr at hhere
  unfold State.sendTo
  generalize s.route splitFuel (x.addr / 2 ^ 34) (x.addr % 2 ^ 34) = w at hhere ⊢
  cases w with
  | away c g i off => cases hhere
  | gone => cases hhere
  | here i off e =>
    obtain ⟨hflat, rfl⟩ := Prod.mk.inj (Option.some.inj hhere)
    refine ⟨i, off, hflat, ?_⟩
    split
    · next hst => simp [hp.closed hst]
    · rfl

section
variable {x : Piece} {r : List Piece} (hx : p.pieces = x :: r) (n : Nat)
include hx

theorem State.Performs.objPart_served {l : L1Sector} {b : Bool} {dst : Dest} {z : Size} {y : Sync} {hint : Hint} (hk : t.kind = .load b dst z y hint) (hl : s.served? t p = some l) :
    s.objPart t n p = s.loadServed t n p.pieces l dst z hint := by
  unfold State.objPart
  rw [hp.probe, if_neg Bool.false_ne_true, if_neg (not_not.2 hp.asked)]
  dsimp only
  rw [hp.checkPart, hp.goodPieces, hx]
  simp only [hl, hk]

theorem State.Performs.objPart_here (hl : s.served? t p = none) : s.objPart t n p = s.performHere t n p p.pieces x (h x) d := by
  obtain ⟨i, off, hflat, hto⟩ := hp.target (x := x) (by simp [hx])
  unfold State.objPart
  rw [hp.probe, if_neg Bool.false_ne_true, if_neg (not_not.2 hp.asked)]
  dsimp only
  rw [hp.checkPart, hp.goodPieces, hx]
  simp only [hl, hto, hflat]
  rfl

end

/-! ### Store, load and atomic at this chip -/

/-- A store's bytes take effect on committed memory; nothing else that an instruction reads changes. -/
theorem State.Performs.storeHere_still {a : Nat} (hheld : s.lineHeld (a / 128) = false) (n : Nat) (data : List (Nat × Nat)) :
    State.Still { s with mem := s.mem.cells (lastCells ((p.pieces.map (fun x => pieceCells data x (h x))).flatten)) } (s.storeHere t n p.pieces a d data) := by
  have hcells : p.pieces.map (fun x => pieceCells data x ((s.hereAddr x.addr).elim 0 Prod.fst)) = p.pieces.map (fun x => pieceCells data x (h x)) :=
    List.map_congr_left fun x hx => by rw [hp.here x hx]; rfl
  unfold State.storeHere
  dsimp only
  rw [hp.regionAccess, hcells]
  dsimp only
  rw [hheld, if_neg Bool.false_ne_true]
  exact ((((s.commitCells_still _).trans (State.mergeGwct_still _ _ _)).trans (State.dropCopies_still _ _ _)).trans (State.countLocal_still _ _)).trans (State.partDone_still _ _ _)

/-- A load's bytes return to its destination. -/
theorem State.Performs.loadHere_still {a : Nat} (hclean : s.poisonedAt a = false) (n : Nat) (dst : Dest) (z : Size) (y : Sync) (hint : Hint) :
    (s.onGroup k (fun g => g.deliver dst z p.pieces (fun b => s.byteAt (s.place b)))).Still (s.loadHere t n p p.pieces a d dst z y hint) := by
  unfold State.loadHere
  rw [hp.regionAccess]
  dsimp only
  rw [State.homeLoad, hclean, if_neg Bool.false_ne_true, State.deliver_eq s t hp.who]
  exact (((State.acquireOf_still _ _ _).trans (State.l1After_still _ _ _ _ _ _ _)).trans (State.countLocal_still _ _)).trans (State.partDone_still _ _ _)

theorem State.Performs.loadServed_still (n : Nat) (l : L1Sector) (dst : Dest) (z : Size) (hint : Hint) :
    (s.onGroup k (fun g => g.deliver dst z p.pieces (fun b => l.data.getD (s.place b % 64) 0))).Still (s.loadServed t n p.pieces l dst z hint) := by
  unfold State.loadServed
  rw [State.deliver_eq s t hp.who]
  exact (State.rankL1_still _ _ _ _).trans (State.partDone_still _ _ _)

/-- An atomic's new value takes effect, and its old one returns. -/
theorem State.Performs.atomHere_still {x : Piece} {a : Nat} (hclean : s.poisonedAt a = false) (hheld : s.lineHeld (a / 128) = false) (n : Nat) (dst : Dest) (op : Rmw) (sc : Scope) (ops : List Word) :
    ∃ u, State.Still { s with mem := s.mem.put a (bytesLE x.len (rmwNew op (natLE (s.bytesAt a x.len)) ops)) } u ∧
      (u.onGroup k (fun g => g.returnOld dst op x.lane (natLE (s.bytesAt a x.len)))).Still (s.atomHere t n x a d dst op sc ops) := by
  refine ⟨s.commitCells ((regs a x.len).zip (bytesLE x.len (rmwNew op (natLE (s.bytesAt a x.len)) ops))), ?_, ?_⟩
  · rw [Memory.put_eq_cells, length_bytesLE]
    exact s.commitCells_still _
  · unfold State.atomHere
    rw [hp.regionAccess]
    dsimp only
    rw [hclean, if_neg Bool.false_ne_true, hheld, if_neg Bool.false_ne_true, hp.who, State.returnOld_eq]
    exact ((((State.mergeGwct_still _ _ _).trans (State.acquire_still _ _ _)).trans (State.dropCopies_still _ _ _)).trans (State.countLocal_still _ _)).trans (State.partDone_still _ _ _)

end

end Sys2Proof.Machine

open Sys2Proof Sys2Proof.Machine in
/-- Settles O25: the part's lanes pass their checks and its object is here, so the access performs by its kind; `State.Still` says what follows it leaves. -/
theorem objectAccessPerforms : Obligations.ObjectAccessPerforms := by
  intro s id n t k g ps fill h d part hm harg ht hwho hfaults hg hregion hpart hready hrow hasked hclosed hne hlanes hps
  have hmem := State.mem_wf_of_memOk hm
  have hid := State.txn?_id ht
  have hp : s.Performs t k g part h d :=
    { txn := by rw [hid]; exact ht
      who := hwho, faults := hfaults, group := hg, region := hregion, probe := rfl, asked := hasked, closed := fun _ => hclosed
      passes := fun x hx => (hps x hx).2.2.1
      here := fun x hx => (hps x hx).2.2.2 0 (hps x hx).1 }
  have hplace : ∀ x ∈ ps, ∀ i, i < x.len → s.place (x.addr + i) = h x + i := fun x hx i hi => State.place_of_here ((hps x hx).2.2.2 i hi)
  have hrun : ∀ hk : t.sectorwise = true, t.scratch = false → exec .responseReturn s = .next (s.objPart t n part) := fun hk hscr => by
    rw [exec_responseReturn harg ht hk hready hpart hrow, State.performPart_eq hk hpart, hscr, if_neg Bool.false_ne_true]
  obtain ⟨x, r, rfl⟩ := List.exists_cons_of_ne_nil hne
  refine ⟨fun size sync data hk hheld => ?store, fun x' dst op sc data hps' hk hheld hclean hlen hhas => ?atomic, fun dst size sync hint hk hload hone hdst => ?load⟩
  case store =>
    have hnot := s.not_served part (fun b dst z y hint => by rw [hk]; exact TxnKind.noConfusion)
    refine ⟨_, (hrun (by rw [Txn.sectorwise, hk]) (by rw [Txn.scratch, hk])).trans (by rw [hp.objPart_here rfl n hnot, State.performHere, hk]), fun a => ?_⟩
    have hstill := hp.storeHere_still (hheld x List.mem_cons_self) n data
    rw [hstill.mem, Memory.read_lastCells hmem, show part.pieces.map (fun x => pieceCells data x (h x)) = ((x :: r).map (fun x => (x, h x))).map (fun e => pieceCells data e.1 e.2) by
      rw [List.map_map]; rfl]
    exact Memory.read_pieceCells hmem data _ (fun e he => by obtain ⟨y, hy, rfl⟩ := List.mem_map.1 he; exact (hps y hy).2.1) a
  case atomic =>
    obtain ⟨rfl, rfl⟩ := List.cons.inj hps'
    have hnot := s.not_served part (fun b dst z y hint => by rw [hk]; exact TxnKind.noConfusion)
    obtain ⟨u, hput, hstill⟩ := hp.atomHere_still (x := x) hclean hheld n dst op sc ((look data x.lane).getD [])
    obtain ⟨gu, hgu, hvu, hru⟩ := hput.group k g hg
    obtain ⟨g', hg', honly, hold⟩ := hstill.returnOld hgu hvu hru hhas
    have hbytes := length_bytesLE x.len (rmwNew op (natLE (s.bytesAt (h x) x.len)) ((look data x.lane).getD []))
    refine ⟨_, g', (hrun (by rw [Txn.sectorwise, hk]) (by rw [Txn.scratch, hk])).trans (by rw [hp.objPart_here rfl n hnot, State.performHere, hk]), hg', honly, hold,
      fun i hi => ?_, fun a ha => ?_⟩
    · rw [hstill.mem, State.onGroup_mem, hput.mem, Memory.read_put hmem _ _ _ (by omega), bytesLE_getD hi]
    · rw [hstill.mem, State.onGroup_mem, hput.mem, Memory.read_put_other hmem _ _ _ (by omega)]
  case load =>
    have hstart := hrun (by rw [Txn.sectorwise, hk]) (by rw [Txn.scratch, hk])
    have hdest : ∀ y ∈ x :: r, 0 < y.len ∧ y.idx + y.len ≤ size.bytes ∧ g.destHas dst size.regs y.lane := fun y hy => ⟨(hps y hy).1, (hload y hy).1, (hload y hy).2.1⟩
    cases hserved : s.served? t part with
    | some l =>
      rw [hp.objPart_served rfl n hk hserved] at hstart
      have hstill := hp.loadServed_still n l dst size hint
      obtain ⟨g', hg', honly, hloaded⟩ := hstill.deliver hg hdst hlanes hone hdest
      refine ⟨_, g', hstart, hg', hstill.mem, honly, fun y hy => Group.loaded_congr (fun _ => rfl) (fun i hi => ?_) (hloaded y hy)⟩
      rw [hplace y hy i hi]
      rfl
    | none =>
      rw [hp.objPart_here rfl n hserved, State.performHere, hk] at hstart
      have hstill := hp.loadHere_still ((hload x List.mem_cons_self).2.2 hserved) n dst size sync hint
      obtain ⟨g', hg', honly, hloaded⟩ := hstill.deliver hg hdst hlanes hone hdest
      refine ⟨_, g', hstart, hg', hstill.mem, honly, fun y hy => Group.loaded_congr (fun _ => rfl) (fun i hi => ?_) (hloaded y hy)⟩
      rw [hplace y hy i hi]
      rfl

/-! PROOFS, 06 R162, R166 to R168, R173, R176, 03 R90: one part of an access to a scratchpad performs. -/

namespace Sys2Proof.Machine

/-! ### Scratchpad bytes -/

theorem Segment.tileHas_mono {g : Segment} {a n : Nat} {sts sts' : List TileState} (hsub : sts' ⊆ sts) (h : g.tileHas a n sts = false) : g.tileHas a n sts' = false := by
  unfold Segment.tileHas at h ⊢
  rw [List.any_eq_false] at h ⊢
  intro e he hin
  simp only [Bool.and_eq_true] at hin
  refine h e he ?_
  simp only [Bool.and_eq_true]
  exact ⟨⟨List.contains_iff_mem.2 (hsub (List.contains_iff_mem.1 hin.1.1)), hin.1.2⟩, hin.2⟩

theorem Memory.bytes_eq_map (m : Memory) (a n : Nat) : m.bytes a n = (regs a n).map m.read := by
  induction n generalizing a with
  | zero => rfl
  | succ n ih => rw [Memory.bytes, ih, Nat.add_comm n 1, regs_add]; rfl

/-- What a write to a scratchpad does to its segment, where no tile is being filled or drained. -/
def Segment.store (g : Segment) (a : Nat) (bs : List Byte) : Segment := { g with scratch := g.scratch.put a bs }

section
variable {s : State} {q : SKey} {g : Segment} (hg : look s.segs q = some g)
include hg

theorem State.scrWrite_eq {a : Nat} {bs : List Byte} (lane : Nat) (h : g.tileHas a bs.length [.filling, .draining] = false) :
    s.scrWrite q a bs lane = { s with segs := put s.segs q (g.store a bs) } := by
  simp only [State.scrWrite, State.onSeg, upd, hg]
  rw [h, if_neg Bool.false_ne_true]
  rfl

theorem State.scrPoison_eq (a : Nat) : s.scrPoison q a = g.poison.contains (a / 64) := by
  rw [State.scrPoison, hg, Option.elim_some]

/-- Bytes that no fill and no uncovered matrix command writes are as they stand. -/
theorem State.scrLook_eq {a n : Nat} (w : Agent) (lane : Nat) (htile : g.tileHas a n [.filling] = false) (hunseen : g.unseenAt a n = false) :
    s.scrLook w q a n lane = g.scratch.bytes a n := by
  have hread : s.scrRead q a n lane = g.scratch.bytes a n := by
    simp only [State.scrRead, hg]
    rw [htile, if_neg Bool.false_ne_true]
  cases w with
  | sqr _ => exact hread
  | grp _ => simp only [State.scrLook, hg, Option.elim_some, hunseen, Bool.false_eq_true, if_false, hread]

/-- The lanes' bytes of a store stand in the scratchpad, and nowhere else. -/
theorem State.foldl_scrWrite (data : List (Nat × Nat)) {ps : List Piece} (hps : ∀ x ∈ ps, x.idx + x.len ≤ 16 ∧ g.tileHas x.addr x.len [.filling, .draining] = false) :
    ps.foldl (fun u x => u.scrWrite q x.addr (pieceBytes data x) x.lane) s =
      { s with segs := put s.segs q { g with scratch := g.scratch.cells ((ps.map (fun x => pieceCells data x x.addr)).flatten) } } := by
  induction ps generalizing s g with
  | nil => exact congrArg (fun m => { s with segs := m }) (put_of_look hg).symm
  | cons x ps ih =>
    obtain ⟨hidx, htile⟩ := hps x List.mem_cons_self
    have hlen := length_pieceBytes data hidx
    have hput : ({ g with scratch := (g.store x.addr (pieceBytes data x)).scratch.cells ((ps.map (fun x => pieceCells data x x.addr)).flatten) } : Segment) =
        { g with scratch := g.scratch.cells (((x :: ps).map (fun x => pieceCells data x x.addr)).flatten) } := by
      rw [Segment.store, Memory.put_eq_cells, hlen, List.map_cons, List.flatten_cons, Memory.cells_append]
      rfl
    rw [List.foldl_cons, State.scrWrite_eq hg x.lane (by rw [hlen]; exact htile),
      ih (s := { s with segs := put s.segs q (g.store x.addr (pieceBytes data x)) }) (look_put _ _ _) (fun y hy => hps y (List.mem_cons_of_mem _ hy)), ← hput]
    exact congrArg (fun m => { s with segs := m }) (put_put ..)

/-- The bytes of a load return to its destination. -/
theorem State.foldl_scrLoad {t : Txn} {k : GKey} (hwho : t.who = .grp k) (d : Dest) (z : Size) {ps : List Piece}
    (hps : ∀ x ∈ ps, g.poison.contains (x.addr / 64) = false ∧ g.unseenAt x.addr x.len = false ∧ g.tileHas x.addr x.len [.filling] = false) :
    ps.foldl (fun u x => if u.scrPoison q x.addr then u.destPoison t d z.regs else u.destBytes t.who d z x (u.scrLook t.who q x.addr x.len x.lane)) s =
      s.onGroup k (fun x => x.deliver d z ps g.scratch.read) := by
  induction ps generalizing s with
  | nil => exact (s.onGroup_id k).symm
  | cons x ps ih =>
    obtain ⟨hclean, hunseen, htile⟩ := hps x List.mem_cons_self
    rw [List.foldl_cons, State.scrPoison_eq hg, hclean, if_neg Bool.false_ne_true, State.scrLook_eq hg _ _ htile hunseen, hwho, State.destBytes_eq, ← hwho,
      ih (s := s.onGroup k _) hg (fun y hy => hps y (List.mem_cons_of_mem _ hy)), State.onGroup_onGroup, Memory.bytes_eq_map]
    rfl

end

end Sys2Proof.Machine

namespace Sys2Proof.Machine

theorem State.segOf_grp {s : State} {k : GKey} {g : Group} (hg : look s.groups k = some g) : s.segOf (.grp k) = ⟨k.blk, g.seg⟩ := by
  rw [State.segOf, hg, Option.elim_some]

theorem upd_put {κ α : Type} [DecidableEq κ] (l : List (κ × α)) (x : κ) (a : α) (f : α → α) : upd (put l x a) x f = put l x (f a) := by
  simp only [upd, look_put, put_put]

/-! ### A part in the scratchpad of a group's segment -/

section
variable {s : State} {t : Txn} {q : SKey} {sg : Segment} {p : Part} (hseg : s.segOf t.who = q) (hsg : look s.segs q = some sg) (n : Nat)
include hseg hsg

/-- A store's bytes stand in the scratchpad. -/
theorem State.scrPart_store {b : Bool} {size : Nat} {y : Sync} {data : List (Nat × Nat)} (hk : t.kind = .store b size y data)
    (hps : ∀ x ∈ p.pieces, x.idx + x.len ≤ 16 ∧ sg.tileHas x.addr x.len [.filling, .draining] = false) :
    ∃ l, State.Still { s with segs := put s.segs q { sg with scratch := sg.scratch.cells ((p.pieces.map (fun x => pieceCells data x x.addr)).flatten), poison := l } } (s.scrPart t n p) := by
  simp only [State.scrPart, hk, hseg]
  rw [State.foldl_scrWrite hsg data hps, State.scrClean, State.onSeg, upd_put]
  exact ⟨_, State.partDone_still _ _ _⟩

variable {k : GKey} (hwho : t.who = .grp k)
include hwho

/-- A load's bytes return to its destination. -/
theorem State.scrPart_load {b : Bool} {dst : Dest} {z : Size} {y : Sync} {hint : Hint} (hk : t.kind = .load b dst z y hint)
    (hps : ∀ x ∈ p.pieces, sg.poison.contains (x.addr / 64) = false ∧ sg.unseenAt x.addr x.len = false ∧ sg.tileHas x.addr x.len [.filling] = false) :
    (s.onGroup k (fun g => g.deliver dst z p.pieces sg.scratch.read)).Still (s.scrPart t n p) := by
  simp only [State.scrPart, hk, hseg]
  rw [State.foldl_scrLoad hsg hwho dst z hps]
  exact (State.acquireOf_still _ _ _).trans (State.partDone_still _ _ _)

/-- An atomic's new value stands in the scratchpad, and its old one returns. -/
theorem State.scrPart_rmw {b : Bool} {dst : Dest} {op : Rmw} {sc : Scope} {data : List (Nat × List Word)} (hk : t.kind = .rmw b dst op sc data) {x : Piece} (hx : p.pieces = [x])
    (hclean : sg.poison.contains (x.addr / 64) = false) (hunseen : sg.unseenAt x.addr x.len = false) (htile : sg.tileHas x.addr x.len [.filling, .draining] = false) :
    (State.onGroup { s with segs := put s.segs q (sg.store x.addr (bytesLE x.len (rmwNew op (natLE (sg.scratch.bytes x.addr x.len)) ((look data x.lane).getD [])))) } k
      (fun g => g.returnOld dst op x.lane (natLE (sg.scratch.bytes x.addr x.len)))).Still (s.scrPart t n p) := by
  simp only [State.scrPart, hk, hseg, hx, List.foldl_cons, List.foldl_nil]
  rw [State.scrPoison_eq hsg, hclean, if_neg Bool.false_ne_true, State.scrLook_eq hsg _ _ (Segment.tileHas_mono (by simp) htile) hunseen,
    State.scrWrite_eq hsg x.lane (by rw [length_bytesLE]; exact htile), hwho, State.returnOld_eq]
  exact (State.acquire_still _ _ _).trans (State.partDone_still _ _ _)

end

end Sys2Proof.Machine

open Sys2Proof Sys2Proof.Machine in
/-- Settles O26: the part performs in the scratchpad of the group's segment by the kind of its access; `State.Still` says what follows it leaves. -/
theorem scratchpadAccessPerforms : Obligations.ScratchpadAccessPerforms := by
  intro s id n t k g sg ps fill hm harg ht hwho hg hsg hpart hready hlanes hps seen
  have hwf := State.scratch_wf_of_memOk hm hsg
  have hseg : s.segOf t.who = ⟨k.blk, g.seg⟩ := by rw [hwho, State.segOf_grp hg]
  have hrun : t.sectorwise = true → t.scratch = true → exec .responseReturn s = .next (s.scrPart t n { st := .todo, pieces := ps, fill := fill }) := fun hk hscr => by
    rw [exec_responseReturn harg ht hk hready hpart (by simp [State.channelRow, hscr]), State.performPart_eq hk hpart, hscr, if_pos rfl]
  have hother : ∀ (sg' : Segment) (q : SKey), q ≠ ⟨k.blk, g.seg⟩ → look (put s.segs ⟨k.blk, g.seg⟩ sg') q = look s.segs q := fun sg' q hq => look_put_ne _ _ hq
  refine ⟨fun size sync data hk => ?store, fun x dst op sc data hx hk hseen hlen hhas => ?atomic, fun dst size sync hint hk hseen hload hone hdst => ?load⟩
  case store =>
    obtain ⟨l, hstill⟩ := State.scrPart_store hseg hsg n hk (p := { st := .todo, pieces := ps, fill := fill }) (fun x hx => (hps x hx).2)
    refine ⟨_, _, hrun (by rw [Txn.sectorwise, hk]) (by rw [Txn.scratch, hk]), by rw [hstill.segs]; exact look_put _ _ _, hstill.mem, fun a => ?_, fun q hq => by rw [hstill.segs]; exact hother _ q hq⟩
    dsimp only
    rw [show ps.map (fun x => pieceCells data x x.addr) = (ps.map (fun x => (x, x.addr))).map (fun e => pieceCells data e.1 e.2) by rw [List.map_map]; rfl]
    exact Memory.read_pieceCells hwf data _ (fun e he => by obtain ⟨y, hy, rfl⟩ := List.mem_map.1 he; exact (hps y hy).2.1) a
  case atomic =>
    subst hx
    obtain ⟨hpos, hidx, htile⟩ := hps x List.mem_cons_self
    obtain ⟨hclean, hunseen⟩ := hseen x List.mem_cons_self
    have hstill := State.scrPart_rmw hseg hsg n hwho hk (p := { st := .todo, pieces := [x], fill := fill }) rfl hclean hunseen htile
    obtain ⟨g', hg', honly, hold⟩ := hstill.returnOld hg rfl rfl hhas
    have hbytes := length_bytesLE x.len (rmwNew op (natLE (sg.scratch.bytes x.addr x.len)) ((look data x.lane).getD []))
    refine ⟨_, g', _, hrun (by rw [Txn.sectorwise, hk]) (by rw [Txn.scratch, hk]), hg', by rw [hstill.segs]; exact look_put _ _ _, hstill.mem, honly, hold, fun i hi => ?_, fun a ha => ?_,
      fun q hq => by rw [hstill.segs]; exact hother _ q hq⟩
    · exact (Memory.read_put hwf _ _ _ (by omega)).trans (bytesLE_getD hi _)
    · exact Memory.read_put_other hwf _ _ _ (by omega)
  case load =>
    have hstill := State.scrPart_load hseg hsg n hwho hk (p := { st := .todo, pieces := ps, fill := fill })
      (fun x hx => ⟨(hseen x hx).1, (hseen x hx).2, Segment.tileHas_mono (by simp) (hps x hx).2.2⟩)
    obtain ⟨g', hg', honly, hloaded⟩ := hstill.deliver hg hdst hlanes hone (fun x hx => ⟨(hps x hx).1, hload x hx⟩)
    exact ⟨_, g', hrun (by rw [Txn.sectorwise, hk]) (by rw [Txn.scratch, hk]), hg', hstill.mem, hstill.segs, honly, hloaded⟩

/-! PROOFS, 06 R181 to R185, 09 R256, R280, R281: the steps of regions, and writes that were held for them. -/

namespace Sys2Proof.Machine

/-! ### Routing looks at no held write -/

section
variable (s : State) (l : List HeldWrite)

theorem State.route_held (fuel id off : Nat) : ({ s with held := l } : State).route fuel id off = s.route fuel id off := by
  induction fuel generalizing id off with
  | zero => rfl
  | succ fuel ih =>
    unfold State.route
    simp only [ih]

theorem State.hereAddr_held (a : Nat) : ({ s with held := l } : State).hereAddr a = s.hereAddr a := by
  rw [State.hereAddr, State.hereAddr, State.route_held]

theorem State.standing_held (seen : List ((Nat × Nat) × Option (Nat × Word))) (p : Piece) : ({ s with held := l } : State).standing seen p = s.standing seen p := by
  unfold State.standing
  rw [State.route_held]
  rfl

theorem State.accessFault_held (need : Need) (seen : List ((Nat × Nat) × Option (Nat × Word))) (ps : List Piece) :
    ({ s with held := l } : State).accessFault need seen ps = s.accessFault need seen ps := by
  unfold State.accessFault
  simp only [State.standing_held]

end

/-! ### A held write -/

section
variable {s : State} {i : Nat} {h : HeldWrite} (harg : s.arg = .num i) (hi : s.held[i]? = some h)
include harg hi

theorem exec_heldWriteApply (hready : s.heldReady i h = true) : exec .heldWriteApply s =
    .next { ({ s with held := (s.held.eraseIdx i).filter (fun x => x.line != h.line) } : State).applyHeld h.what with
      held := (({ s with held := (s.held.eraseIdx i).filter (fun x => x.line != h.line) } : State).applyHeld h.what).held ++ (s.held.eraseIdx i).filter (fun x => x.line == h.line) } := by
  change execHeldWriteApply s = _
  unfold execHeldWriteApply
  rw [harg]
  simp only [hi]
  rw [if_pos hready]

theorem exec_heldWriteApply_waits (hready : s.heldReady i h = false) : exec .heldWriteApply s = .next s := by
  change execHeldWriteApply s = _
  unfold execHeldWriteApply
  rw [harg]
  simp only [hi]
  rw [if_neg (by rw [hready]; exact Bool.false_ne_true)]

end

/-- Where a held write is ready and those of its line stand aside, nothing holds its line. -/
theorem State.lineHeld_of_heldReady {s : State} {i : Nat} {h : HeldWrite} (hready : s.heldReady i h = true) :
    ({ s with held := (s.held.eraseIdx i).filter (fun x => x.line != h.line) } : State).lineHeld h.line = false := by
  simp only [State.heldReady, Bool.and_eq_true, Bool.not_eq_true'] at hready
  rw [State.lineHeld, hready.1, Bool.or_false, List.any_eq_false]
  intro x hx
  simpa using (List.mem_filter.1 hx).2

theorem State.applyHeld_part {s : State} {id : Nat} {t : Txn} (ht : s.txn? id = some t) (n : Nat) : s.applyHeld (.part id n) = s.performPart t n := by
  rw [State.applyHeld, ht, Option.elim_some]

/-- A held store of one lane, tried again with the writes of its line aside, takes effect at its home. -/
theorem State.performPart_held_store {s : State} {n : Nat} {t : Txn} {k : GKey} {g : Group} {x : Piece} {fill : Bool} {a size : Nat} {sync : Sync} {data : List (Nat × Nat)} {d : Desc}
    (ht : s.txn? t.id = some t) (hwho : t.who = .grp k) (hk : t.kind = .store false size sync data) (hfaults : t.faults = []) (hg : look s.groups k = some g) (hregion : g.region = none)
    (hpart : t.parts[n]? = some { st := .held, pieces := [x], fill := fill }) (hhere : s.hereAddr x.addr = some (a, d)) (hheld : s.lineHeld (a / 128) = false)
    (hpass : s.accessFault t.need t.seen (t.laneAccess x.lane) = none) :
    (s.performPart t n).mem = s.mem.cells (lastCells (pieceCells data x a)) := by
  have hp : s.Performs t k g { st := .held, pieces := [x], fill := fill } (fun _ => a) d :=
    { txn := ht, who := hwho, faults := hfaults, group := hg, region := hregion, probe := rfl
      asked := by rw [State.unasked, if_neg (fun h => PartState.noConfusion h.1)]
      closed := fun h => PartState.noConfusion h
      passes := fun y hy => by rw [List.mem_singleton.1 hy]; exact hpass
      here := fun y hy => by rw [List.mem_singleton.1 hy]; exact hhere }
  have hnot := s.not_served { st := .held, pieces := [x], fill := fill } (fun b dst z y hint => by rw [hk]; exact TxnKind.noConfusion)
  have hstill := hp.storeHere_still hheld n data
  rw [State.performPart_eq (by rw [Txn.sectorwise, hk]) hpart, Txn.scratch, hk, if_neg Bool.false_ne_true, hp.objPart_here rfl n hnot, State.performHere, hk]
  exact hstill.mem.trans (by simp)

/-- What one piece of a store leaves at each byte. -/
theorem Memory.read_pieceCells_one {m : Memory} (hm : m.wf = true) (data : List (Nat × Nat)) {x : Piece} (h : x.idx + x.len ≤ 16) (a : Nat) :
    (∀ j, j < x.len → (m.cells (lastCells (pieceCells data x a))).read (a + j) = BitVec.ofNat 8 ((look data x.lane).getD 0 / 2 ^ (8 * (x.idx + j)))) ∧
      ∀ y, y < a ∨ a + x.len ≤ y → (m.cells (lastCells (pieceCells data x a))).read y = m.read y := by
  have hput : m.cells (pieceCells data x a) = m.put a (pieceBytes data x) := by rw [Memory.put_eq_cells, length_pieceBytes data h]; rfl
  have hlen := length_pieceBytes data h
  refine ⟨fun j hj => ?_, fun y hy => ?_⟩
  · rw [Memory.read_lastCells hm, hput, Memory.read_put hm _ _ _ (by omega), pieceBytes_getD data h hj]
  · rw [Memory.read_lastCells hm, hput, Memory.read_put_other hm _ _ _ (by omega)]

/-! ### The steps of slots and leases -/

theorem exec_regionSlotFreeResume {s : State} {w : Agent} (harg : s.arg = .agent w) (hw : s.agentWait w = .rgSlot) (hfree : s.freeSlot ≠ none) :
    exec .regionSlotFreeResume s = .next (s.clearWait w) := by
  change execRegionSlotFreeResume s = _
  unfold execRegionSlotFreeResume
  rw [harg]
  dsimp only
  rw [if_pos ⟨hw, Option.isSome_iff_ne_none.2 hfree⟩]

theorem exec_leaseExpiry {s : State} {core sector : Nat} (harg : s.arg = .pair core sector) :
    exec .leaseExpiry s = .next { s with l1 := s.l1.filter (fun x => !(x.core == core && x.sector == sector && decide (x.expiry < s.ptime))) } := by
  change execLeaseExpiry s = _
  unfold execLeaseExpiry
  rw [harg]

end Sys2Proof.Machine

open Sys2Proof Sys2Proof.Machine in
/-- Settles O34: what a commit, an abort taken and a held write leave is said by `State.regionCommit_spec`, `exec_regionAbortTake` and `State.performPart_held_store`. -/
theorem regionSteps : Obligations.RegionSteps := by
  refine ⟨?commit, fun s n r harg hr h => exec_regionCommit_waits harg hr h, fun s w harg hw hfree => exec_regionSlotFreeResume harg hw hfree, ?abort, ?held,
    fun s core sector harg => exec_leaseExpiry harg⟩
  case commit =>
    intro s n r g path resume marked hm harg hr hended hpreds hg habort hw vs hlines hbytes
    obtain ⟨t, w, hrun, hslot, hpred, hvers, hmem, hg'⟩ := State.regionCommit_spec harg hr hended hpreds hg habort hw
    obtain ⟨hread, hother⟩ := read_versionCells (State.mem_wf_of_memOk hm) hlines hbytes
    obtain ⟨hregion, habort', hwait, hpc⟩ := g.committed_spec path resume marked
    exact ⟨t, _, hrun, hslot, hpred, hvers, by rw [hmem]; exact hread, by rw [hmem]; exact hother, hg', hregion, habort', hwait, hpc⟩
  case abort =>
    intro s k g n w r harg hg hreg habort hout hr hown htrap hlen
    refine ⟨_, _, exec_regionAbortTake harg hg hreg habort hout hr hown htrap, look_put _ _ _, rfl, rfl, rfl,
      Group.abortTaken_reason _ _ _ (by rw [g.abortSettled_length]; exact hlen), rfl, look_del _ _, fun l hl hlt hst => ?_⟩
    have hlanes := g.abortSettled_lanes s.freeCtr s.clock
    exact Group.abortTaken_lane _ _ _ _ (by rw [hlanes]; exact hl) hlt (by rw [Group.lane_congr hlanes]; exact hst)
  case held =>
    intro s i h harg hi rest u
    refine ⟨exec_heldWriteApply harg hi, exec_heldWriteApply_waits harg hi, fun id n t0 k g x fill a size sync data d hready hwhat hm ht hwho hk hfaults hg hregion hpart hidx hroute hline hpass => ?_⟩
    have hid := State.txn?_id ht
    subst hid
    have hhere : s.hereAddr x.addr = some (a, d) := by
      rw [State.hereAddr, hroute]
      exact congrArg (fun b => some (b, d)) (by rw [flat, Nat.mul_comm]; exact Nat.div_add_mod a (2 ^ 34))
    have hmem := State.performPart_held_store (s := { s with held := rest.filter (fun x => x.line != h.line) }) (t := t0) ht hwho hk hfaults hg hregion hpart
      ((s.hereAddr_held _ _).trans hhere) (by rw [hline]; exact State.lineHeld_of_heldReady hready) ((s.accessFault_held _ _ _ _).trans hpass)
    have happly : u = ({ s with held := rest.filter (fun x => x.line != h.line) } : State).performPart t0 n := by
      simp only [u, hwhat]
      exact State.applyHeld_part (s := { s with held := rest.filter (fun x => x.line != h.line) }) ht n
    have hu : u.mem = s.mem.cells (lastCells (pieceCells data x a)) := (congrArg State.mem happly).trans hmem
    obtain ⟨hin, hout⟩ := Memory.read_pieceCells_one (State.mem_wf_of_memOk hm) data hidx a
    exact ⟨_, exec_heldWriteApply harg hi hready, fun j hj => (congrArg (fun m => Memory.read m (a + j)) hu).trans (hin j hj),
      fun y hy => (congrArg (fun m => Memory.read m y) hu).trans (hout y hy)⟩

/-! PROOFS, 07 R190 to R197: what an issuer's own writes leave, and the tile commands. -/

namespace Sys2Proof.Machine

/-! ### Updates of the issuer alone -/

/-- From s to t nothing but groups and sequencers changed. -/
structure State.AtIssuer (s t : State) : Prop where
  rest : t = { s with groups := t.groups, seqs := t.seqs }

section
variable {s t u : State}

theorem State.AtIssuer.refl (s : State) : s.AtIssuer s := ⟨rfl⟩

theorem State.AtIssuer.trans (hst : s.AtIssuer t) (htu : t.AtIssuer u) : s.AtIssuer u := ⟨by rw [htu.rest, hst.rest]⟩

theorem State.AtIssuer.mem (h : s.AtIssuer t) : t.mem = s.mem := by rw [h.rest]
theorem State.AtIssuer.segs (h : s.AtIssuer t) : t.segs = s.segs := by rw [h.rest]
theorem State.AtIssuer.ops (h : s.AtIssuer t) : t.ops = s.ops := by rw [h.rest]
theorem State.AtIssuer.txns (h : s.AtIssuer t) : t.txns = s.txns := by rw [h.rest]
theorem State.AtIssuer.blocks (h : s.AtIssuer t) : t.blocks = s.blocks := by rw [h.rest]
theorem State.AtIssuer.cur (h : s.AtIssuer t) : t.cur = s.cur := by rw [h.rest]

theorem State.advance_atIssuer (s : State) (len : Nat) : s.AtIssuer (s.advance len) := by
  unfold State.advance
  split <;> exact ⟨rfl⟩

theorem State.mark_atIssuer (s : State) (m : Bool) : s.AtIssuer (s.mark m) := by
  unfold State.mark
  split
  · split <;> exact ⟨rfl⟩
  · exact ⟨rfl⟩

theorem State.finish_atIssuer (s : State) (m : Bool) (len : Nat) : s.AtIssuer (s.finish m len) := (s.advance_atIssuer len).trans (State.mark_atIssuer _ m)

theorem State.waitAt_atIssuer (s : State) (w : Wait) : s.AtIssuer (s.waitAt w) := by
  unfold State.waitAt
  split <;> exact ⟨rfl⟩

theorem State.writeU_atIssuer (s : State) (r : Nat) (w : Word) : s.AtIssuer (s.writeU r w) := by
  unfold State.writeU
  split <;> exact ⟨rfl⟩

theorem State.writeH_atIssuer (s : State) (k : Nat) (h : Handle) : s.AtIssuer (s.writeH k h) := by
  unfold State.writeH
  split <;> exact ⟨rfl⟩

theorem State.acquire_atIssuer (s : State) (w : Agent) (sc : Scope) : s.AtIssuer (s.acquire w sc) := by
  unfold State.acquire
  split
  · split <;> exact ⟨rfl⟩
  · exact ⟨rfl⟩

theorem State.acquire_seqs (s : State) (w : Agent) (sc : Scope) : (s.acquire w sc).seqs = s.seqs := by
  unfold State.acquire
  split
  · split <;> rfl
  · rfl

end

/-! ### Tiles -/

/-- An issuer that is ready for a tile command whose literal fields name tiles that exist, and whose own checks pass, runs its effect. -/
theorem uniTile_next {s : State} {row : Row} {ill : Bool} {names reads : List Nat} {own : List (Option Exc)} {eff : State → State}
    (h : s.uniReady row true names reads = true) (hill : ill = false) (ho : firstExc own = none) : uniTile s row ill names reads own eff = .next (eff s) := by
  have hchecks := uniChecks_none h ho
  simp only [State.uniReady, Bool.and_eq_true] at h
  obtain ⟨⟨⟨⟨hr, hm⟩, hc⟩, hn⟩, hs⟩ := h
  refine issue_next hr ?_
  rw [excIf_false hill]
  rw [nameExc_none (s := s) (vs := []) rfl hn] at hchecks ⊢
  exact hchecks

theorem State.nameTile_tile? (s : State) (sg : SKey) (n : Nat) (sg' : SKey) (m : Nat) : (s.nameTile sg n).tile? sg' m = s.tile? sg' m := by
  unfold State.nameTile
  split
  · rw [State.tile?, (State.acquire_atIssuer _ _ _).segs, State.onSeg_segs]
    by_cases h : sg' = sg
    · subst h
      cases hl : look s.segs sg' with
      | none => simp [upd, hl, State.tile?]
      | some g => simp [upd_some _ hl, State.tile?, hl]
    · rw [look_upd_ne _ _ h, State.tile?]
  · rfl

variable {s : State}

theorem State.tileIll_tile {n : BitVec 8} {x : Tile} (h : s.tile? s.curSeg n.toNat = some x) : s.tileIll [.tile n] = false := by
  simp [State.tileIll, State.namedTile, h]

/-- A specifier that TSTAT reports names a tile that exists. -/
theorem State.tileIll_statTile {spec : TileSpec} {n : Nat} {x : Tile} (h : s.statTile s.curSeg spec = .use n) (hx : s.tile? s.curSeg n = some x) : s.tileIll [spec] = false := by
  cases spec with
  | tile k =>
    simp only [State.statTile] at h
    split at h
    · obtain rfl := TileUse.use.inj h
      exact State.tileIll_tile hx
    · exact nomatch h
  | stream k =>
    simp only [State.statTile] at h
    split at h
    · exact nomatch h
    next j hj =>
      split at h
      · obtain rfl := TileUse.use.inj h
        simp [State.tileIll, State.namedTile, hj, hx]
      · exact nomatch h

/-- The entry that TDEF makes. -/
def Tile.defined (tag : Tag) (off len : Nat) : Tile :=
  { st := .empty, origin := none, err := false, errCode := 0, tag := tag, off := off, len := len, taken := false, drain := none }

theorem exec_tdef {m : Bool} {tile : BitVec 8} {ga gc : BitVec 9} {tag : Tag} {g : Segment} (hg : look s.segs s.curSeg = some g)
    (h : s.uniReady .any true [ga.toNat, gc.toNat] [ga.toNat, gc.toNat] = true) (htag : tag.tileTag = true) {off len : Nat} (hoff : (s.readU 0 ga.toNat).toNat = off)
    (hlen : (s.readU 2 gc.toNat).toNat = len) (ho : off % 256 = 0) (hl : len % 256 = 0) (hpos : 0 < len) (hsize : off + len ≤ s.scrSize s.curBlk)
    (hfree : ∀ e ∈ g.tiles, e.2.st ≠ .empty → e.1 ≠ tile.toNat ∧ (e.2.off + e.2.len ≤ off ∨ off + len ≤ e.2.off)) :
    exec (.tdef m tile ga gc tag) s = .next ((s.onSeg s.curSeg (fun x => { x with tiles := put x.tiles tile.toNat (.defined tag off len) })).finish m 8) := by
  change execTdef m tile ga gc tag s = _
  unfold execTdef
  subst hoff hlen
  refine uni_next h (firstExc_none ?_)
  simp only [List.mem_cons, List.not_mem_nil, or_false]
  rintro x (rfl | rfl | rfl) <;> apply excIf_false
  · simp [htag, ho, hl, Nat.pos_iff_ne_zero.1 hpos]
  · simp only [decide_eq_false_iff_not]; omega
  · rw [hg, Option.elim_some, List.any_eq_false]
    intro e he
    by_cases hst : e.2.st = .empty
    · simp [hst]
    · obtain ⟨hne, hapart⟩ := hfree e he hst
      simp [hne]
      omega

theorem exec_trel {m : Bool} {tile : BitVec 8} {x : Tile} (h : s.uniReady .any true [] [] = true) (hx : s.tile? s.curSeg tile.toNat = some x) (hst : x.st = .ready) :
    exec (.trel m tile) s = .next (if s.readersOf s.curSeg s.curAgent tile.toNat then s.waitAt (.readers tile.toNat) else
      match x.drain with
      | none => ((s.nameTile s.curSeg tile.toNat).onTile s.curSeg tile.toNat (fun y => { y with st := .empty, err := false, taken := false })).finish m 8
      | some o => (((s.nameTile s.curSeg tile.toNat).onTile s.curSeg tile.toNat (fun y => { y with st := .draining, taken := false })).onOp o (fun y => { y with armed := false })).finish m 8) := by
  change execTrel m tile s = _
  unfold execTrel
  refine (uniTile_next h (State.tileIll_tile hx) (firstExc_one_none (excIf_false (by simp [hx, hst])))).trans ?_
  simp only [State.nameTile_tile?, hx]
  rfl

theorem exec_tstat {m : Bool} {gd : BitVec 9} {spec : TileSpec} {n : Nat} {x : Tile} (h : s.uniReady .any true [gd.toNat, gd.toNat + 1] [] = true)
    (hn : s.statTile s.curSeg spec = .use n) (hx : s.tile? s.curSeg n = some x) :
    exec (.tstat m gd spec) s = .next (((s.popTile s.curSeg spec).writePair gd.toNat (tstatWords n x)).finish m 8) := by
  change execTstat m gd spec s = _
  unfold execTstat
  rw [uniTile_next h (State.tileIll_statTile hn hx) rfl, hn]
  have hwords : (s.tile? s.curSeg n).elim 0 (tstatWords n) = tstatWords n x := by rw [hx, Option.elim_some]
  exact congrArg (fun w => Host.Outcome.next (((s.popTile s.curSeg spec).writePair gd.toNat w).finish m 8)) hwords

theorem exec_sbind {m : Bool} {k : BitVec 3} {first : BitVec 8} {count : BitVec 9} (h : s.uniReady .any true [] [] = true)
    (hempty : ∀ n ∈ (s.stream s.curSeg k.toNat).ring ++ regs first.toNat count.toNat, ∃ x, s.tile? s.curSeg n = some x ∧ x.st = .empty)
    (hothers : ∀ j, j < 8 → j ≠ k.toNat → ∀ n ∈ regs first.toNat count.toNat, n ∉ (s.stream s.curSeg j).ring) :
    exec (.sbind m k first count) s =
      .next ((s.onSeg s.curSeg (fun g => { g with streams := g.streams.set k.toNat { ring := regs first.toNat count.toNat, pos := 0 } })).finish m 8) := by
  change execSbind m k first count s = _
  unfold execSbind
  refine uniTile_next h ?_ (firstExc_one_none (excIf_false ?_))
  · rw [List.any_eq_false]
    intro n hn
    obtain ⟨x, hx, -⟩ := hempty n (List.mem_append_right _ hn)
    simp [hx]
  · rw [Bool.or_eq_false_iff, List.any_eq_false, List.any_eq_false]
    refine ⟨fun n hn => ?_, fun n hn => ?_⟩
    · obtain ⟨x, hx, hst⟩ := hempty n hn
      simp [hx, hst]
    · simp only [List.any_eq_true, List.mem_map, List.mem_filter, List.mem_range, bne_iff_ne, not_exists, not_and]
      rintro _ ⟨j, ⟨hj, hne⟩, rfl⟩
      simpa using hothers j hj hne n hn

theorem exec_tileWaitEnd {w : Agent} {sg : SKey} {n : Nat} {want : TileState} {x : Tile} (harg : s.arg = .agent w) (hw : s.agentWait w = .tile sg n want)
    (hx : s.tile? sg n = some x) : exec .tileWaitEnd s = .next (if x.st = want ∨ (x.st = .ready ∧ x.err = true) then s.clearWait w else s) := by
  change execTileWaitEnd s = _
  unfold execTileWaitEnd
  rw [harg]
  simp only [hw, State.tileWaitOver, hx, Option.elim_some, Bool.or_eq_true, decide_eq_true_eq, Bool.and_eq_true]

end Sys2Proof.Machine

open Sys2Proof Sys2Proof.Machine in
/-- Settles O35: each command is its `exec_` equation; what TDEF leaves is read off the segment's table. -/
theorem tiles : Obligations.Tiles := by
  refine ⟨?tdef, fun s m tile x h hx hst => ⟨fun hr => ?waits, fun hr hd => ?empties, fun o hr hd => ?drains⟩, fun s m gd spec n x h hn hx => exec_tstat h hn hx,
    ?sbind, fun s m n ga h => ?layout, fun s w sg n want x harg hw hx => ⟨fun hst => ?ends, fun hst herr => ?still⟩⟩
  case tdef =>
    intro s m tile ga gc tag g hg off len h htag ho hl hpos hsize hfree
    have hfin := (s.onSeg s.curSeg (fun x => { x with tiles := put x.tiles tile.toNat (.defined tag off len) })).finish_atIssuer m 8
    exact ⟨_, { g with tiles := put g.tiles tile.toNat (.defined tag off len) }, _, exec_tdef hg h htag rfl rfl ho hl hpos hsize hfree,
      by rw [hfin.segs]; exact upd_some _ hg, look_put _ _ _, rfl, rfl, rfl, rfl, rfl, rfl, hfin.mem⟩
  case waits => rw [exec_trel h hx hst, if_pos hr]
  case empties => rw [exec_trel h hx hst, if_neg (by simp [hr]), hd]
  case drains => rw [exec_trel h hx hst, if_neg (by simp [hr]), hd]
  case sbind =>
    intro s m k first count h ring hempty hothers
    exact exec_sbind h hempty hothers
  case layout =>
    change execLayout m n ga s = _
    exact uni_run h
  case ends => rw [exec_tileWaitEnd harg hw hx, if_pos (.inl hst)]
  case still => rw [exec_tileWaitEnd harg hw hx, if_neg (by simp [hst, herr])]

/-! PROOFS, 07 R189 to R191, R215 to R220: what future commands start, and the memory-side commands. -/

namespace Sys2Proof.Machine

/-! ### Checks at issue -/

/-- A block none of whose words offends. -/
theorem blockExc_none {bad : List (Nat × Bool)} (h : ∀ e ∈ bad, e.2 = false) : blockExc bad = none := by
  have hnil : bad.filter Prod.snd = [] := by simpa [List.filter_eq_nil_iff] using h
  rw [blockExc, hnil]

theorem zeros_false {b : List Word} {l : List Nat} (h : ∀ i ∈ l, pw b i = 0) : ∀ e ∈ zeros b l, e.2 = false := by
  simp only [zeros, List.mem_map]
  rintro _ ⟨i, hi, rfl⟩
  simp [h i hi]

/-- Uses of tiles that are all ready let the effect run. -/
theorem withTiles_use {t : State} {us : List TileUse} {eff : State → State} (h : ∀ u ∈ us, ∃ n, u = TileUse.use n) : withTiles t us eff = eff t := by
  induction us with
  | nil => rfl
  | cons u us ih =>
    obtain ⟨n, rfl⟩ := h u (List.mem_cons_self ..)
    exact ih (fun x hx => h x (List.mem_cons_of_mem _ hx))

/-! ### Commands that start an operation -/

/-- The operation a future command starts, with its handle written. -/
def State.started (s : State) (k : Nat) (kind : OpKind) : State := (s.newOp kind false).1.writeH k (.names (s.nextOp % 4294967296))

section
variable {s : State} {m : Bool} {k : BitVec 4}

theorem future_starts {row : Row} {names : List Nat} {own : List (Option Exc)} {kind : State → OpKind} (h : s.uniReady row true names names = true)
    (ho : ∀ x ∈ own, x = none) (hk : s.busyHandle k.toNat = none) :
    future s m row k names own kind (fun t _ => t) = .next ((s.started k.toNat (kind s)).finish m 8) := by
  rw [future, uniJump_next h (firstExc_none ho), hk]
  rfl

variable {ga : BitVec 9} {bad : List (Nat × Bool)} {c : Scan} {need : Nat}

section
variable (h : s.uniReady .any true (regs ga.toNat 16) (regs ga.toNat 16) = true) (hk : s.busyHandle k.toNat = none) (hbad : ∀ e ∈ bad, e.2 = false)
  (halign : c.src % 17179869184 % scanBytes c.fmt = 0) (hsrc : s.unreachable (ptrId c.src) = false)
include h hk hbad halign hsrc

/-- A scan into object space starts. -/
theorem scanIssue_starts (htile : c.tile = none) (hdest : s.unreachable (ptrId c.dest) = false) :
    scanIssue s m k ga bad c need = .next ((s.started k.toNat (.scan c)).finish m 8) := by
  have hown : ∀ x ∈ [blockExc bad, excIf (c.src % 2 ^ 34 % scanBytes c.fmt != 0) (.of .align),
      excIf (s.unreachable (ptrId c.src) || (c.tile.isNone && s.unreachable (ptrId c.dest))) (.of .unreachable)], x = none := by
    simp [blockExc_none hbad, halign, hsrc, hdest, excIf]
  rw [scanIssue, uniJump_next h (firstExc_none hown), htile, withTiles_use (by simp)]
  simp only [unlessExc, Option.elim_none, excIf, firstExc, Bool.false_eq_true, if_false, hk]
  rfl

/-- A scan into a tile starts and fills it. -/
theorem scanIssue_fills {n : Nat} (htile : c.tile = some n) (huse : s.destTile c.sg n = .use n) (hlen : need ≤ s.tileLen c.sg n) :
    scanIssue s m k ga bad c need = .next (((s.started k.toNat (.scan c)).fillTile c.sg n (some (s.origin c.src))).finish m 8) := by
  have hown : ∀ x ∈ [blockExc bad, excIf (c.src % 2 ^ 34 % scanBytes c.fmt != 0) (.of .align),
      excIf (s.unreachable (ptrId c.src) || (c.tile.isNone && s.unreachable (ptrId c.dest))) (.of .unreachable)], x = none := by
    simp [blockExc_none hbad, halign, hsrc, htile, excIf]
  rw [scanIssue, uniJump_next h (firstExc_none hown), htile, withTiles_use (by simp [huse])]
  have hshort : decide (s.tileLen c.sg n < need) = false := decide_eq_false (Nat.not_lt.2 hlen)
  simp only [unlessExc, Option.elim_some, hshort, excIf, firstExc, Bool.false_eq_true, if_false, hk]
  rfl

end

/-- A tile that a command may fill is defined. -/
theorem State.destTile_isNone {sg : SKey} {n : Nat} (h : s.destTile sg n = .use n) : (s.tile? sg n).isNone = false := by
  unfold State.destTile at h
  cases hx : s.tile? sg n with
  | none => rw [hx] at h; exact nomatch h
  | some x => rfl

theorem State.resultTileBad_false {n : Nat} (hn : n ≤ 255) (h : s.destTile s.curSeg n = .use n) : s.resultTileBad n = false := by
  rw [State.resultTileBad, State.destTile_isNone h, Bool.or_false]
  exact decide_eq_false (Nat.not_lt.2 hn)

/-- Words 9 to 11 of a scan's block, with the bit that chooses object space, and whether each offends. -/
def State.scanDestWords (s : State) (P : List Word) (b : Nat) : List (Nat × Bool) :=
  [(9, if b = 1 then pw P 9 != 0 else s.resultTileBad (pw P 9)), (10, !(b == 1) && pw P 10 != 0), (11, !(b == 1) && pw P 11 != 0)]

theorem State.scanDestWords_false {P : List Word} {b : Nat} {tile : Option Nat} (htile : tile = if b = 1 then none else some (pw P 9)) (hnone : tile = none → pw P 9 = 0)
    (hsome : ∀ n, tile = some n → (∀ i ∈ [10, 11], pw P i = 0) ∧ s.resultTileBad n = false) : ∀ e ∈ s.scanDestWords P b, e.2 = false := by
  unfold State.scanDestWords
  by_cases hb : b = 1
  · simp_all
  · obtain ⟨hz, hbad⟩ := hsome (pw P 9) (by rw [htile, if_neg hb])
    simp_all

/-- The other words of a WNSCAN's block that may offend. -/
def wnscanWords (P : List Word) : List (Nat × Bool) :=
  [(3, pf P 3 19 0 != 0 || decide (7 < pf P 3 31 28)), (6, !(pf P 3 21 21 == 1) && pw P 6 != 0), (7, !(pf P 3 21 21 == 1) && pw P 7 != 0)]

/-- Those of a WNTOPK's. -/
def wntopkWords (P : List Word) : List (Nat × Bool) :=
  [(2, pw P 2 == 0), (3, pf P 3 17 0 != 0 || decide (7 < pf P 3 31 28) || pf P 3 27 19 == 0 || decide (256 < pf P 3 27 19)), (4, pw P 4 == 0 || decide (4096 < pw P 4))]

/-- The scan that a WNSCAN's block describes. -/
def State.wnscanOf (s : State) (P : List Word) (two tile : Option Nat) : Scan :=
  { sg := s.curSeg, topk := false, src := pd P 0, count := pw P 2, fmt := pf P 3 31 28, op1 := pf P 3 27 25, op2 := two, a1 := P.getD 4 0, b1 := P.getD 5 0, a2 := P.getD 6 0, b2 := P.getD 7 0
    cap := pw P 8, k := 0, segs := 1, tile := tile, dest := pd P 10, rows := none, away := [], bufs := [], cands := [], nans := 0, written := 0 }

/-- The scan that a WNTOPK's block describes. -/
def State.wntopkOf (s : State) (P : List Word) (tile : Option Nat) : Scan :=
  { sg := s.curSeg, topk := true, src := pd P 0, count := pw P 2 * pw P 4, fmt := pf P 3 31 28, op1 := 0, op2 := none, a1 := 0, b1 := 0, a2 := 0, b2 := 0
    cap := 0, k := pf P 3 27 19, segs := pw P 4, tile := tile, dest := pd P 10, rows := none, away := [], bufs := [], cands := [], nans := 0, written := 0 }

theorem wnscanWords_false {P : List Word} (h3 : pf P 3 19 0 = 0) (hfmt : pf P 3 31 28 ≤ 7) (h2 : pf P 3 21 21 ≠ 1 → ∀ i ∈ [6, 7], pw P i = 0) : ∀ e ∈ wnscanWords P, e.2 = false := by
  by_cases htwo : pf P 3 21 21 = 1
  · simp [wnscanWords, h3, hfmt, htwo]
  · simp [wnscanWords, h3, hfmt, h2 htwo 6, h2 htwo 7]

theorem wntopkWords_false {P : List Word} (h2 : pw P 2 ≠ 0) (h3 : pf P 3 17 0 = 0) (hfmt : pf P 3 31 28 ≤ 7) (hk : pf P 3 27 19 ≠ 0) (hk256 : pf P 3 27 19 ≤ 256) (h4 : pw P 4 ≠ 0)
    (h4096 : pw P 4 ≤ 4096) : ∀ e ∈ wntopkWords P, e.2 = false := by
  simp [wntopkWords, h2, h3, hfmt, hk, hk256, h4, h4096]

/-- Every micro-op of a block stands in its list. -/
theorem microOk_getD {P : List Word} (h : ∀ x ∈ microOps P, microOk x = true) {i : Nat} (hi : i < 16) : microOk ((microOps P).getD i 0) = true := by
  have hlen : i < (microOps P).length := by simpa [microOps] using hi
  rw [List.getD_eq_getElem _ _ hlen]
  exact h _ (List.getElem_mem hlen)

/-- The words of an NBX's block that may offend. -/
def nbxWords (P : List Word) : List (Nat × Bool) :=
  (2, pw P 2 == 0 || decide (32 < pw P 2) || decide (32 < pd P 0 % 65536 / 2048 + pw P 2)) ::
    ((List.range 16).map (fun i => (4 + i / 2, !microOk ((microOps P).getD i 0))) ++ [(11, !(microOps P).any (fun x => bits x.toNat 15 12 == 9))])

theorem nbxWords_false {P : List Word} (h1 : 1 ≤ pw P 2) (h32 : pw P 2 ≤ 32) (hrows : pd P 0 % 65536 / 2048 + pw P 2 ≤ 32) (hops : ∀ x ∈ microOps P, microOk x = true)
    (hend : ∃ x ∈ microOps P, bits x.toNat 15 12 = 9) : ∀ e ∈ nbxWords P, e.2 = false := by
  simp only [nbxWords, List.forall_mem_cons, List.forall_mem_append, List.forall_mem_map]
  refine ⟨?_, fun i hi => ?_, ?_, List.forall_mem_nil _⟩
  · simp [h32, hrows, Nat.one_le_iff_ne_zero.1 h1]
  · rw [microOk_getD hops (List.mem_range.1 hi), Bool.not_true]
  · simpa using hend

section
variable {P : List Word} (hP : s.block ga.toNat = P)
include hP

theorem exec_wnscan_eq {two tile : Option Nat} (htwo : two = if pf P 3 21 21 = 1 then some (pf P 3 24 22) else none) (htile : tile = if pf P 3 20 20 = 1 then none else some (pw P 9)) :
    exec (.wnscan m k ga) s =
      scanIssue s m k ga (wnscanWords P ++ s.scanDestWords P (pf P 3 20 20) ++ zeros P [12, 13, 14, 15]) (s.wnscanOf P two tile) (16 + 8 * pw P 8) := by
  change execWnscan m k ga s = _
  simp only [execWnscan, beq_iff_eq, hP, htwo, htile]
  rfl

theorem exec_wntopk_eq {tile : Option Nat} (htile : tile = if pf P 3 18 18 = 1 then none else some (pw P 9)) : exec (.wntopk m k ga) s =
    scanIssue s m k ga (wntopkWords P ++ zeros P [5, 6, 7, 8] ++ s.scanDestWords P (pf P 3 18 18) ++ zeros P [12, 13, 14, 15])
      (s.wntopkOf P tile) (16 + 8 * pf P 3 27 19 * pw P 4) := by
  change execWntopk m k ga s = _
  simp only [execWntopk, beq_iff_eq, hP, htile]
  rfl

theorem exec_nbx_eq : exec (.nbx m k ga) s = future s m .any k (regs ga.toNat 16)
    [blockExc (nbxWords P), excIf (pd P 0 % 2048 != 0) (.of .align), excIf (s.unreachable (ptrId (pd P 0))) (.of .unreachable)]
    (fun _ => .nbx (Nbx.start (pd P 0) (pw P 2) (microOps P) (P.getD 3 0) (P.drop 12))) (fun t _ => t) := by
  subst hP
  rfl

section
variable (h : s.uniReady .any true (regs ga.toNat 16) (regs ga.toNat 16) = true) (hk : s.busyHandle k.toNat = none)
include h hk

theorem exec_nbx (h1 : 1 ≤ pw P 2) (h32 : pw P 2 ≤ 32) (hrows : pd P 0 % 65536 / 2048 + pw P 2 ≤ 32) (hops : ∀ x ∈ microOps P, microOk x = true)
    (hend : ∃ x ∈ microOps P, bits x.toNat 15 12 = 9) (halign : pd P 0 % 2048 = 0) (hbase : s.unreachable (ptrId (pd P 0)) = false) :
    exec (.nbx m k ga) s = .next ((s.started k.toNat (.nbx (Nbx.start (pd P 0) (pw P 2) (microOps P) (P.getD 3 0) (P.drop 12)))).finish m 8) := by
  rw [exec_nbx_eq hP]
  refine future_starts h ?_ hk
  simp [blockExc_none (nbxWords_false h1 h32 hrows hops hend), halign, hbase, excIf]

theorem exec_kvseal (he : 1 ≤ pw P 2) (hmax : pw P 2 ≤ 65536) (hh : 1 ≤ pw P 3) (hdiv : pw P 2 % pw P 3 = 0) (hv : 1 ≤ pw P 10) (hv64 : pw P 10 ≤ 64) (hzero : ∀ i ∈ [11, 12, 13, 14, 15], pw P i = 0)
    (hreach : ∀ p ∈ [pd P 0, pd P 4, pd P 6, pd P 8], s.unreachable (ptrId p) = false) : exec (.kvseal m k ga) s =
      .next ((s.started k.toNat (.kvseal { src := pd P 0, elems := pw P 2, heads := pw P 3, dst := pd P 4, scales := pd P 6, absmax := pd P 8, valid := pw P 10 })).finish m 8) := by
  change execKvseal m k ga s = _
  simp only [execKvseal, hP]
  refine future_starts h (List.forall_mem_cons.2 ⟨blockExc_none (List.forall_mem_append.2 ⟨?_, zeros_false hzero⟩), ?_⟩) hk
  · simp [hmax, hdiv, hv64, Nat.one_le_iff_ne_zero.1 he, Nat.one_le_iff_ne_zero.1 hh, Nat.one_le_iff_ne_zero.1 hv]
  · have hany : [pd P 0, pd P 4, pd P 6, pd P 8].any (fun p => s.unreachable (ptrId p)) = false := List.any_eq_false.2 fun p hp => by simp [hreach p hp]
    simp [hany, excIf]

theorem exec_red {op : AtomOp} {ty : AtomType} {scr : Bool} {src : Nat} (hop : redOp (pf P 2 25 22) = some op) (h30 : pf P 2 30 26 = 0) (h18 : pf P 2 18 0 = 0)
    (hzero : ∀ i ∈ [6, 7, 8, 9, 10, 11, 12, 13, 14, 15], pw P i = 0) (hty : AtomType.ofCode (BitVec.ofNat 3 (pf P 2 21 19)) = ty) (hscr : (pf P 2 31 31 == 1) = scr)
    (hsrc : (if scr then pw P 0 else pd P 0) = src) (hok : (Rmw.op op ty).ok = true) (halign : src % (Rmw.op op ty).bytes = 0) (hdalign : pd P 4 % (Rmw.op op ty).bytes = 0)
    (hpad : scr = true → pw P 1 = 0 ∧ src + pw P 3 * (Rmw.op op ty).bytes ≤ s.scrSize s.curBlk) (hobj : scr = false → s.unreachable (ptrId src) = false)
    (hdst : s.unreachable (ptrId (pd P 4)) = false) : exec (.red m k ga) s =
      .next ((s.started k.toNat (.red { sg := s.curSeg, scratch := scr, src := src, op := op, ty := ty, count := pw P 3, dst := pd P 4, next := 0 })).finish m 8) := by
  change execRed m k ga s = _
  simp only [execRed, hP, hop, hty, hscr, hsrc, Option.getD_some]
  refine future_starts h (List.forall_mem_cons.2 ⟨blockExc_none (List.forall_mem_append.2 ⟨?_, zeros_false hzero⟩), ?_⟩) hk
  · cases scr with
    | true => simp [h30, h18, hok, (hpad rfl).1]
    | false => simp [h30, h18, hok]
  · cases scr with
    | true => simp [halign, hdalign, hdst, (hpad rfl).2, excIf]
    | false => simp [halign, hdalign, hdst, hobj rfl, excIf]

end

end

/-- What a scan with its block checked comes to: it starts, and fills the tile that it names. -/
theorem scanIssue_runs {i : Instr} {words : List (Nat × Bool)} {P : List Word} {b : Nat} (h : s.uniReady .any true (regs ga.toNat 16) (regs ga.toNat 16) = true) (hk : s.busyHandle k.toNat = none)
    (hexec : exec i s = scanIssue s m k ga (words ++ s.scanDestWords P b ++ zeros P [12, 13, 14, 15]) c need) (hwords : ∀ e ∈ words, e.2 = false) (hzero : ∀ i ∈ [12, 13, 14, 15], pw P i = 0)
    (hsg : c.sg = s.curSeg) (htile : c.tile = if b = 1 then none else some (pw P 9)) (hobj : c.tile = none → pw P 9 = 0 ∧ s.unreachable (ptrId c.dest) = false)
    (hin : ∀ n, c.tile = some n → (∀ i ∈ [10, 11], pw P i = 0) ∧ n ≤ 255) (halign : c.src % 17179869184 % scanBytes c.fmt = 0) (hsrc : s.unreachable (ptrId c.src) = false) :
    (c.tile = none → exec i s = .next ((s.started k.toNat (.scan c)).finish m 8)) ∧
    (∀ n, c.tile = some n → s.destTile s.curSeg n = .use n → need ≤ s.tileLen s.curSeg n →
      exec i s = .next (((s.started k.toNat (.scan c)).fillTile s.curSeg n (some (s.origin c.src))).finish m 8)) := by
  have hbad (hn : ∀ n, c.tile = some n → s.resultTileBad n = false) : ∀ e ∈ words ++ s.scanDestWords P b ++ zeros P [12, 13, 14, 15], e.2 = false :=
    List.forall_mem_append.2 ⟨List.forall_mem_append.2 ⟨hwords, State.scanDestWords_false htile (fun ht => (hobj ht).1) (fun n ht => ⟨(hin n ht).1, hn n ht⟩)⟩, zeros_false hzero⟩
  rw [hexec, ← hsg]
  refine ⟨fun ht => scanIssue_starts h hk (hbad fun n hn => nomatch ht.symm.trans hn) halign hsrc ht (hobj ht).2, fun n ht huse hlen => ?_⟩
  refine scanIssue_fills h hk (hbad fun j hj => ?_) halign hsrc ht huse hlen
  obtain rfl := Option.some.inj (ht.symm.trans hj)
  exact State.resultTileBad_false (hin n ht).2 (hsg ▸ huse)

end

end Sys2Proof.Machine

open Sys2Proof Sys2Proof.Machine in
/-- Settles O40: the checks of each block pass, and `future_starts` or `scanIssue_runs` gives the effect. -/
theorem memorySideIssue : Obligations.MemorySideIssue := by
  intro s m k ga P h hk zero reach starts fills
  refine ⟨?wnscan, ?wntopk, ?nbx, ?kvseal, ?red⟩
  case wnscan =>
    intro two tile h3 hfmt htwo htwo0 hzero htile hobj hin halign hsrc
    exact scanIssue_runs (c := s.wnscanOf P two tile) h hk (exec_wnscan_eq rfl htwo htile) (wnscanWords_false h3 hfmt fun h2 => htwo0 (htwo.trans (if_neg h2))) hzero rfl htile
      (fun ht => ⟨(hobj ht).1 9 (List.mem_singleton_self 9), (hobj ht).2⟩) hin halign hsrc
  case wntopk =>
    intro tile h2 h3 hfmt hk0 hk256 h40 h4096 hzero htile hobj hin halign hsrc
    obtain ⟨hlow, hhigh⟩ := List.forall_mem_append.1 (show ∀ i ∈ [5, 6, 7, 8] ++ [12, 13, 14, 15], pw P i = 0 from hzero)
    exact scanIssue_runs (c := s.wntopkOf P tile) h hk (exec_wntopk_eq rfl htile) (List.forall_mem_append.2 ⟨wntopkWords_false h2 h3 hfmt hk0 hk256 h40 h4096, zeros_false hlow⟩) hhigh rfl htile
      (fun ht => ⟨(hobj ht).1 9 (List.mem_singleton_self 9), (hobj ht).2⟩) hin halign hsrc
  case nbx =>
    intro h1 h32 hrows hops hend halign hbase
    exact exec_nbx rfl h hk h1 h32 hrows hops hend halign hbase
  case kvseal =>
    intro he hmax hh hdiv hv hv64 hzero hreach
    exact exec_kvseal rfl h hk he hmax hh hdiv hv hv64 hzero hreach
  case red =>
    intro op hop h30 h18 hzero ty z scr src hok hsrc hdst hscr hobj hreach
    exact exec_red rfl h hk hop h30 h18 hzero rfl rfl rfl hok hsrc hdst hscr hobj hreach

/-! PROOFS, 07 R194, R205 to R214: source tiles of a sequencer and the issue of matrix commands. -/

namespace Sys2Proof.Machine

/-! ### Naming and popping -/

/-- What any entry reads as after an update of one. -/
theorem look_upd {κ α : Type} [DecidableEq κ] (l : List (κ × α)) (x y : κ) (f : α → α) : look (upd l x f) y = if y = x then (look l y).map f else look l y := by
  by_cases hy : y = x
  · subst hy
    cases hl : look l y with
    | none => simp [upd, hl]
    | some a => simp [upd_some f hl]
  · rw [look_upd_ne _ _ hy, if_neg hy]

section
variable {s : State}

theorem State.onSeg_stream (sg sg' : SKey) (j : Nat) {f : Segment → Segment} (hf : ∀ g : Segment, (f g).streams = g.streams) : (s.onSeg sg f).stream sg' j = s.stream sg' j := by
  simp only [State.stream, State.onSeg_segs, look_upd]
  by_cases h : sg' = sg
  · rw [if_pos h]
    cases look s.segs sg' <;> simp [hf]
  · rw [if_neg h]

theorem State.onSeg_tile? (sg sg' : SKey) (n : Nat) {f : Segment → Segment} (hf : ∀ g : Segment, (f g).tiles = g.tiles) : (s.onSeg sg f).tile? sg' n = s.tile? sg' n := by
  simp only [State.tile?, State.onSeg_segs, look_upd]
  by_cases h : sg' = sg
  · rw [if_pos h]
    cases look s.segs sg' <;> simp [hf]
  · rw [if_neg h]

theorem State.onTile_tile?_isNone (sg sg' : SKey) (n j : Nat) (f : Tile → Tile) : ((s.onTile sg n f).tile? sg' j).isNone = (s.tile? sg' j).isNone := by
  simp only [State.onTile, State.tile?, State.onSeg_segs, look_upd]
  by_cases h : sg' = sg
  · rw [if_pos h]
    cases look s.segs sg' with
    | none => rfl
    | some g =>
      simp only [Option.map_some, Option.elim_some, look_upd]
      by_cases hj : j = n
      · simp [hj]
      · simp [hj]
  · rw [if_neg h]

theorem State.nameTile_stream (sg : SKey) (n : Nat) (sg' : SKey) (j : Nat) : (s.nameTile sg n).stream sg' j = s.stream sg' j := by
  unfold State.nameTile
  split
  · rw [State.stream, (State.acquire_atIssuer _ _ _).segs]
    exact State.onSeg_stream _ _ _ (fun _ => rfl)
  · rfl

/-- A pop defines and removes no tile. -/
theorem State.popTile_tile?_isNone (sg : SKey) (spec : TileSpec) (sg' : SKey) (j : Nat) : ((s.popTile sg spec).tile? sg' j).isNone = (s.tile? sg' j).isNone := by
  cases spec with
  | tile n => exact congrArg Option.isNone (s.nameTile_tile? _ _ _ _)
  | stream k =>
    refine (State.onTile_tile?_isNone _ _ _ _ _).trans (congrArg Option.isNone ?_)
    exact (State.onSeg_tile? _ _ _ (by intro _; rfl)).trans (s.nameTile_tile? _ _ _ _)

/-- A pop moves the stream that it names alone. -/
theorem State.popTile_stream (sg sg' : SKey) (spec : TileSpec) (j : BitVec 3) (h : spec ≠ .stream j) : (s.popTile sg spec).stream sg' j.toNat = s.stream sg' j.toNat := by
  cases spec with
  | tile n => exact State.nameTile_stream _ _ _ _
  | stream k =>
    refine (State.onSeg_stream _ _ _ (by intro _; rfl)).trans (Eq.trans ?_ (State.nameTile_stream sg ((s.streamNow sg k.toNat).ring.getD (s.streamNow sg k.toNat).pos 0) sg' j.toNat))
    have hk : k.toNat ≠ j.toNat := fun e => h (congrArg TileSpec.stream (BitVec.eq_of_toNat_eq e))
    simp only [State.stream, State.onSeg_segs, look_upd]
    split
    · cases look (s.nameTile sg ((s.streamNow sg k.toNat).ring.getD (s.streamNow sg k.toNat).pos 0)).segs sg' with
      | none => rfl
      | some g => simp only [Option.map_some, Option.elim_some, List.getD_eq_getElem?_getD, List.getElem?_modify, if_neg hk, id_map']
    · rfl

/-- A tile named as source exists, and is the one that its specifier names. -/
theorem State.srcTile_named {sg : SKey} {spec : TileSpec} {n : Nat} (h : s.srcTile sg spec = .use n) : s.namedTile sg spec = some n ∧ (s.tile? sg n).isNone = false := by
  cases spec with
  | tile j =>
    simp only [State.srcTile] at h
    split at h
    · exact nomatch h
    next x hx =>
      split at h
      · exact nomatch h
      · split at h
        · obtain rfl := TileUse.use.inj h
          exact ⟨rfl, by rw [hx]; rfl⟩
        · exact nomatch h
  | stream k =>
    simp only [State.srcTile] at h
    split at h
    · exact nomatch h
    next j hj =>
      split at h
      · exact nomatch h
      next x hx =>
        split at h
        · split at h
          · exact nomatch h
          · obtain rfl := TileUse.use.inj h
            exact ⟨hj, by rw [hx]; rfl⟩
        · exact nomatch h

theorem State.streamNow_of_curGroup (h : s.curGroup = none) (sg : SKey) (k : Nat) : s.streamNow sg k = s.stream sg k := by
  rw [State.streamNow, h, Option.elim_none]

theorem State.popTile_cur (sg : SKey) (spec : TileSpec) : (s.popTile sg spec).cur = s.cur := by
  have hname (n : Nat) : (s.nameTile sg n).cur = s.cur := by
    unfold State.nameTile
    split
    · exact (State.acquire_atIssuer _ _ _).cur
    · rfl
  cases spec with
  | tile n => exact hname _
  | stream k => exact hname _

/-! ### Matrix commands -/

/-- Only a sequencer is ready for a matrix command. -/
theorem gmxReady_cur {names reads : List Nat} (h : s.uniReady .gmx true names reads = true) : ∃ q, s.cur = .seq q := by
  simp only [State.uniReady, Bool.and_eq_true] at h
  obtain ⟨⟨⟨⟨hr, hm⟩, -⟩, -⟩, -⟩ := h
  unfold State.resident at hr
  unfold State.mayIssue at hm
  cases hc : s.cur <;> simp_all

theorem State.curGroup_seq {q : QKey} (h : s.cur = .seq q) : s.curGroup = none := by simp [State.curGroup, h]

/-- Two sources of a sequencer that are ready name tiles that exist. -/
theorem State.tileIll_twoTiles {q : QKey} {a b : TileSpec} {x y : Nat} (hc : s.cur = .seq q) (hx : (s.twoTiles s.curSeg a b).1 = .use x) (hy : (s.twoTiles s.curSeg a b).2.1 = .use y) :
    s.tileIll [a, b] = false := by
  obtain ⟨hna, hta⟩ := State.srcTile_named (spec := a) hx
  obtain ⟨hnb, htb⟩ := State.srcTile_named (s := s.popTile s.curSeg a) (spec := b) hy
  rw [State.popTile_tile?_isNone] at htb
  have hpop : (s.popTile s.curSeg a).curGroup = none := State.curGroup_seq ((State.popTile_cur _ _).trans hc)
  have hb : (s.namedTile s.curSeg b).elim false (fun n => (s.tile? s.curSeg n).isNone) = false := by
    by_cases hab : a = b
    · rw [← hab, hna]
      exact hta
    · have hsame : s.namedTile s.curSeg b = some y := by
        rw [← hnb]
        cases b with
        | tile n => rfl
        | stream j => simp only [State.namedTile, State.streamNow_of_curGroup hpop, State.streamNow_of_curGroup (State.curGroup_seq hc), State.popTile_stream _ _ _ _ hab]
      rw [hsame]
      exact htb
  simp [State.tileIll, hna, hta, hb]

theorem unlessExc_none {l : List (Option Exc)} {t : State} (h : ∀ x ∈ l, x = none) : unlessExc s l t = t := by
  rw [unlessExc, firstExc_none h, Option.elim_none]

theorem tagChecks_none {l : List (Nat × Tag × Bool)} (h : ∀ e ∈ l, e.2.1 ≠ .poison ∧ e.2.2 = true) : ∀ x ∈ tagChecks l, x = none := by
  simp only [tagChecks, List.forall_mem_append, List.forall_mem_map]
  exact ⟨fun e he => excIf_false (by simpa using (h e he).1), fun e he => excIf_false (by simp [(h e he).2])⟩

theorem State.accCheck_passes {sg : SKey} {t : Nat} (h : (s.treg sg t).tag = .f32p) : (s.accCheck sg t).2.1 ≠ .poison ∧ (s.accCheck sg t).2.2 = true := by
  simp [State.accCheck, h]

theorem tagChecks_acc {sg : SKey} {t : Nat} (h : (s.treg sg t).tag = .f32p) : ∀ x ∈ tagChecks [s.accCheck sg t], x = none :=
  tagChecks_none (List.forall_mem_singleton.2 (State.accCheck_passes h))

/-- The operands of a product: A and B are ready, their tags a pair that exists, the accumulator's F32P. -/
structure State.Operands (s : State) (a b : TileSpec) (t x y : Nat) : Prop where
  first : (s.twoTiles s.curSeg a b).1 = .use x
  second : (s.twoTiles s.curSeg a b).2.1 = .use y
  pureA : s.tileTag s.curSeg x ≠ .poison
  pureB : s.tileTag s.curSeg y ≠ .poison
  depth : matK (s.tileTag s.curSeg x) ≠ 0
  pair : matPair (s.tileTag s.curSeg x) (s.tileTag s.curSeg y) = true
  acc : (s.treg s.curSeg t).tag = .f32p

section
variable {m : Bool} {t : BitVec 2} {ga : BitVec 9} {a b : TileSpec} {extra : List Nat} {mk : Nat → Nat → Option (Nat × Nat) → Gmx} {x y : Nat}

/-- The checks of the tags of A, B and the accumulator. -/
def State.operandChecks (s : State) (t x y : Nat) : List (Nat × Tag × Bool) :=
  [(5, s.tileTag s.curSeg x, matK (s.tileTag s.curSeg x) != 0), (6, s.tileTag s.curSeg y, matPair (s.tileTag s.curSeg x) (s.tileTag s.curSeg y)), s.accCheck s.curSeg t]

theorem State.Operands.checks (hop : s.Operands a b t.toNat x y) : ∀ e ∈ s.operandChecks t.toNat x y, e.2.1 ≠ .poison ∧ e.2.2 = true := by
  simp only [State.operandChecks, List.forall_mem_cons]
  exact ⟨⟨hop.pureA, by simpa using hop.depth⟩, ⟨hop.pureB, hop.pair⟩, State.accCheck_passes hop.acc, List.forall_mem_nil _⟩

variable (h : s.uniReady .gmx true (ga.toNat :: extra) extra = true) (hop : s.Operands a b t.toNat x y)
include h hop

theorem mmaIssue_ready (hscale : s.scaleField a ga = false) : mmaIssue s m t ga a b extra mk = .next (
    let r := s.twoTiles s.curSeg a b
    if s.tileTag s.curSeg x = .e2m1x8 then
      match specOf ((s.readU 0 ga.toNat).toNat % 512), specOf ((s.readU 0 ga.toNat).toNat / 65536 % 512) with
      | some sx, some sy =>
        let q := r.2.2.twoTiles s.curSeg sx sy
        withTiles s [q.1, q.2.1] (fun u =>
          let sc := fun (n : Nat) => (8, u.tileTag s.curSeg n, u.tileTag s.curSeg n == .e8m0x4)
          unlessExc u (u.struckExc [ga.toNat] :: tagChecks (s.operandChecks t.toNat x y ++ [sc q.1.num, sc q.2.1.num]))
            ((q.2.2.queueGmx s.curSeg (mk x y (some (q.1.num, q.2.1.num)))).finish m 8))
      | _, _ => s.raise (.of .illegal)
    else unlessExc s (tagChecks (s.operandChecks t.toNat x y)) ((r.2.2.queueGmx s.curSeg (mk x y none)).finish m 8)) := by
  obtain ⟨q, hc⟩ := gmxReady_cur h
  unfold mmaIssue
  rw [uniTile_next h (by rw [State.tileIll_twoTiles hc hop.first hop.second, hscale]; rfl) rfl]
  dsimp only
  rw [hop.first, hop.second, withTiles_use (by simp)]
  rfl

/-- A product of any format but E2M1 joins the queue. -/
theorem mmaIssue_plain (htag : s.tileTag s.curSeg x ≠ .e2m1x8) (hga : ga = 0) :
    mmaIssue s m t ga a b extra mk = .next (((s.twoTiles s.curSeg a b).2.2.queueGmx s.curSeg (mk x y none)).finish m 8) := by
  rw [mmaIssue_ready h hop (by simp [State.scaleField, hga])]
  simp only [if_neg htag]
  rw [unlessExc_none (tagChecks_none hop.checks)]

/-- One of E2M1 takes its scales from the two tiles that ga names. -/
theorem mmaIssue_scaled {sx sy : TileSpec} {x' y' : Nat} (hstruck : s.struckU ga.toNat = false) (htag : s.tileTag s.curSeg x = .e2m1x8)
    (hsx : specOf ((s.readU 0 ga.toNat).toNat % 512) = some sx) (hsy : specOf ((s.readU 0 ga.toNat).toNat / 65536 % 512) = some sy)
    (hx' : ((s.twoTiles s.curSeg a b).2.2.twoTiles s.curSeg sx sy).1 = .use x') (hy' : ((s.twoTiles s.curSeg a b).2.2.twoTiles s.curSeg sx sy).2.1 = .use y')
    (hbx : s.tileTag s.curSeg x' = .e8m0x4) (hby : s.tileTag s.curSeg y' = .e8m0x4) :
    mmaIssue s m t ga a b extra mk = .next ((((s.twoTiles s.curSeg a b).2.2.twoTiles s.curSeg sx sy).2.2.queueGmx s.curSeg (mk x y (some (x', y')))).finish m 8) := by
  have hname : s.namedTile s.curSeg a = some x := (State.srcTile_named (spec := a) hop.first).1
  rw [mmaIssue_ready h hop (by simp [State.scaleField, hname, htag])]
  simp only [if_pos htag, hsx, hsy, hx', hy']
  rw [withTiles_use (by simp)]
  refine congrArg Host.Outcome.next (unlessExc_none (List.forall_mem_cons.2 ⟨struckExc_none (by simp [hstruck]), tagChecks_none (List.forall_mem_append.2 ⟨hop.checks, ?_⟩)⟩))
  simp [TileUse.num, hbx, hby]

end

section
variable {m : Bool} {t : BitVec 2} {gd ga : BitVec 9} {a b : TileSpec} {o : BitVec 8}

theorem exec_mma_eq : exec (.mma m t ga a b) s = mmaIssue s m t ga a b [] (fun x y sc => .mma t.toNat x y sc) := rfl
theorem exec_mmag_eq : exec (.mmag m t gd ga a b) s = mmaIssue s m t ga a b [gd.toNat] (fun x y sc => .mmag t.toNat x y sc (s.readU 1 gd.toNat).toNat) := rfl
theorem exec_mmasp_eq : exec (.mmasp m t ga a b) s = mmaIssue s m t ga a b [] (fun x y sc => .mmasp t.toNat x y sc) := rfl

theorem State.tileIll_dest {n : BitVec 8} (h : s.destTile s.curSeg n.toNat = .use n.toNat) : s.tileIll [.tile n] = false := by
  simp [State.tileIll, State.namedTile, State.destTile_isNone h]

theorem exec_mzero (h : s.uniReady .gmx true [] [] = true) : exec (.mzero m t) s = .next (((s.tregTag s.curSeg t.toNat .f32p).queueGmx s.curSeg (.mzero t.toNat)).finish m 8) := by
  change execMzero m t s = _
  exact uni_run h

theorem exec_mscale {stride : BitVec 4} (h : s.uniReady .gmx true [ga.toNat] [ga.toNat] = true) (hacc : (s.treg s.curSeg t.toNat).tag = .f32p) :
    exec (.mscale m t ga stride) s = .next ((s.queueGmx s.curSeg (.mscale t.toNat (s.readU 0 ga.toNat).toNat stride.toNat)).finish m 8) := by
  change execMscale m t ga stride s = _
  exact uni_next h (firstExc_none (tagChecks_acc hacc))

theorem exec_mcmerge {cores : BitVec 4} (h : s.uniReady .gmx true [ga.toNat] [ga.toNat] = true) (hacc : (s.treg s.curSeg t.toNat).tag = .f32p) :
    exec (.mcmerge m t ga cores) s = .next ((s.queueGmx s.curSeg (.mcmerge t.toNat (s.readU 0 ga.toNat).toNat cores.toNat)).finish m 8) := by
  change execMcmerge m t ga cores s = _
  exact uni_next h (firstExc_none (tagChecks_acc hacc))

theorem exec_msoft (h : s.uniReady .gmx true [gd.toNat, ga.toNat] [gd.toNat, ga.toNat] = true) (hacc : (s.treg s.curSeg t.toNat).tag = .f32p) (ho : s.destTile s.curSeg o.toNat = .use o.toNat) :
    exec (.msoft m t gd ga o) s =
      .next (((s.fillTile s.curSeg o.toNat none).queueGmx s.curSeg (.msoft t.toNat o.toNat (s.readU 0 gd.toNat) (s.readU 1 ga.toNat).toNat)).finish m 8) := by
  change execMsoft m t gd ga o s = _
  rw [execMsoft, uniTile_next h (State.tileIll_dest ho) (firstExc_none (tagChecks_acc hacc)), ho, withTiles_use (by simp)]

theorem exec_mdrain {sat : Bool} {tag : Tag} (h : s.uniReady .gmx true [gd.toNat, ga.toNat, ga.toNat + 1] [gd.toNat, ga.toNat, ga.toNat + 1] = true)
    (hacc : (s.treg s.curSeg t.toNat).tag = .f32p) (hptr : s.unreachable (ptrId (s.readPair 1 ga.toNat)) = false) (ho : s.destTile s.curSeg o.toNat = .use o.toNat) :
    exec (.mdrain m t sat gd ga o tag) s =
      .next (((s.fillTile s.curSeg o.toNat none).queueGmx s.curSeg (.mdrain t.toNat sat (s.readU 0 gd.toNat) (s.readPair 1 ga.toNat) o.toNat tag s.nextTxn)).finish m 8) := by
  change execMdrain m t sat gd ga o tag s = _
  rw [execMdrain, uniTile_next h (State.tileIll_dest ho) (firstExc_none (List.forall_mem_append.2 ⟨tagChecks_acc hacc, List.forall_mem_singleton.2 (excIf_false hptr)⟩)), ho, withTiles_use (by simp)]

theorem exec_mldt {x : Nat} (h : s.uniReady .gmx true [] [] = true) (hx : s.srcTile s.curSeg a = .use x)
    (htag : s.tileTag s.curSeg x = .f32 ∨ s.tileTag s.curSeg x = .f16x2 ∨ s.tileTag s.curSeg x = .bf16x2) :
    exec (.mldt m t a) s = .next ((((s.popTile s.curSeg a).tregTag s.curSeg t.toNat .f32p).queueGmx s.curSeg (.mldt t.toNat x)).finish m 8) := by
  change execMldt m t a s = _
  obtain ⟨hname, hdef⟩ := State.srcTile_named hx
  have hchecks : ∀ e ∈ [(5, s.tileTag s.curSeg x, ldtTag (s.tileTag s.curSeg x))], e.2.1 ≠ .poison ∧ e.2.2 = true := by
    rcases htag with e | e | e <;> simp [e, ldtTag]
  rw [execMldt, uniTile_next h (by simp [State.tileIll, hname, hdef]) rfl]
  dsimp only
  rw [hx, withTiles_use (by simp)]
  exact congrArg Host.Outcome.next (unlessExc_none (tagChecks_none hchecks))

/-- What MWAIT waits for is over exactly when no command that it names is left. -/
theorem State.gmxIdle_iff {g : Segment} {sg : SKey} (hg : look s.segs sg = some g) (one : Bool) (t : Nat) :
    s.gmxIdle sg (if one then some t else none) = true ↔ ¬∃ c ∈ g.gmx, one = true → gmxWrites c.2 = some t := by
  rw [State.gmxIdle, hg, Option.elim_some]
  cases one with
  | false => simp [List.eq_nil_iff_forall_not_mem]
  | true => simp

theorem exec_mwait {one : Bool} (h : s.uniReady .gmx true [] [] = true) : exec (.mwait m one t) s =
    .next (if s.gmxIdle s.curSeg (if one then some t.toNat else none) then (s.noteMwait s.curSeg (if one then some t.toNat else none)).finish m 8
      else s.waitAt (.gmx (if one then some t.toNat else none))) := by
  change execMwait m one t s = _
  rw [execMwait, uniJump_next h rfl]

end

end

end Sys2Proof.Machine

open Sys2Proof Sys2Proof.Machine in
/-- Settles O38: the three products are `mmaIssue_plain` and `mmaIssue_scaled`, the other commands their own `exec_` equations. -/
theorem matrixIssue : Obligations.MatrixIssue := by
  intro s m one sat t gd ga a b o stride cores tag sg acc queue r w tagOf reads pairOk product
  have hproduct (extra : List Nat) (i : Instr) (mk : Nat → Nat → Option (Nat × Nat) → Gmx) (hi : exec i s = mmaIssue s m t ga a b extra mk) : product extra i mk := by
    refine ⟨fun x y h ⟨h1, h2, h3, h4, h5, h6, h7⟩ htag hga => hi.trans (mmaIssue_plain h ⟨h1, h2, h3, h4, h5, h6, h7⟩ htag hga), ?_⟩
    intro x y sx sy x' y' h hstruck ⟨h1, h2, h3, h4, h5, h6, h7⟩ htag hsx hsy hx' hy' hbx hby
    exact hi.trans (mmaIssue_scaled h ⟨h1, h2, h3, h4, h5, h6, h7⟩ hstruck htag hsx hsy hx' hy' hbx hby)
  refine ⟨exec_mzero, hproduct _ _ _ exec_mma_eq, hproduct _ _ _ exec_mmag_eq, hproduct _ _ _ exec_mmasp_eq,
    fun h hacc ho => exec_msoft h hacc ho, fun h hacc => exec_mscale h hacc, fun h hacc hptr ho => exec_mdrain h hacc hptr ho,
    fun x h hx htag => exec_mldt h hx htag, fun h hacc => exec_mcmerge h hacc, fun g h hg => ⟨fun hidle => ?_, fun hbusy => ?_⟩⟩
  · rw [exec_mwait h, if_pos ((State.gmxIdle_iff hg one t.toNat).2 hidle)]
  · rw [exec_mwait h, if_neg fun hidle => (State.gmxIdle_iff hg one t.toNat).1 hidle hbusy]

/-! PROOFS, 07 R205, R207, R211; 01 R31: the runs of MZERO and MMA at the matrix engine. -/

namespace Sys2Proof.Machine

/-! ### Tile registers -/

/-- What a list of the elements that are not (0, 0) reads as. -/
theorem look_filterMap_getD (f : Nat → Word × Word) (n : Nat) (l : List Nat) :
    (look (l.filterMap (fun i => if f i = (0, 0) then none else some (i, f i))) n).getD (0, 0) = if n ∈ l then f n else (0, 0) := by
  induction l with
  | nil => rfl
  | cons a r ih =>
    by_cases h0 : f a = (0, 0)
    · rw [List.filterMap_cons_none (by rw [if_pos h0]), ih]
      by_cases hn : n = a
      · subst hn; simp [h0]
      · simp [hn]
    · rw [List.filterMap_cons_some (by rw [if_neg h0])]
      by_cases hn : n = a
      · simp [look, hn]
      · rw [look, if_neg (Ne.symm hn), ih]
        simp [hn]

section
variable {s : State} {sg : SKey} {g : Segment}

theorem State.treg_of_look (hg : look s.segs sg = some g) (t : Nat) : s.treg sg t = g.tregs.getD t { tag := .f32p, elems := [] } := by
  rw [State.treg, hg, Option.elim_some]

/-- A tile register with a tag and the elements that a function gives. -/
def TileReg.filled (x : Tag) (f : Nat → Word × Word) (r : TileReg) : TileReg :=
  { r with tag := x, elems := (List.range tregSize).filterMap (fun n => if f n = (0, 0) then none else some (n, f n)) }

theorem TileReg.filled_at (x : Tag) (f : Nat → Word × Word) (r : TileReg) {n : Nat} (hn : n < 16384) : (r.filled x f).at_ n = f n := by
  have hmem : n ∈ List.range tregSize := List.mem_range.2 hn
  rw [TileReg.at_, TileReg.filled, look_filterMap_getD, if_pos hmem]

/-- The segment once its oldest command has left a tile register so. -/
def Segment.ran (t : Nat) (x : Tag) (f : Nat → Word × Word) (g : Segment) : Segment :=
  { g with tregs := g.tregs.modify t (TileReg.filled x f), gmx := g.gmx.drop 1 }

theorem State.gmxDone_setTreg_look (hg : look s.segs sg = some g) (t : Nat) (x : Tag) (f : Nat → Word × Word) : look ((s.setTreg sg t x f).gmxDone sg).segs sg = some (g.ran t x f) := by
  refine (upd_some (l := (s.setTreg sg t x f).segs) _ (upd_some _ hg)).trans ?_
  rfl

/-- What a run that writes a register and is done leaves. -/
theorem State.gmxDone_setTreg_spec {t : Nat} (hg : look s.segs sg = some g) (ht : t < g.tregs.length) {pc : Word} {c : Gmx} {rest : List (Word × Gmx)} (hq : g.gmx = (pc, c) :: rest)
    (x : Tag) (f : Nat → Word × Word) :
    ∃ u g', (s.setTreg sg t x f).gmxDone sg = u ∧ look u.segs sg = some g' ∧ g'.gmx = rest ∧ u.mem = s.mem ∧
      (∀ n, n < 16384 → (u.treg sg t).at_ n = f n) ∧ ∀ j, j ≠ t → u.treg sg j = s.treg sg j := by
  have hlook := State.gmxDone_setTreg_look hg t x f
  refine ⟨_, _, rfl, hlook, by rw [Segment.ran, hq]; rfl, rfl, fun n hn => ?_, fun j hj => ?_⟩
  · have hreg : ((s.setTreg sg t x f).gmxDone sg).treg sg t = (g.tregs[t]).filled x f := by
      rw [State.treg_of_look hlook, Segment.ran, List.getD_eq_getElem?_getD, List.getElem?_modify, List.getElem?_eq_getElem ht]
      simp
    rw [hreg, TileReg.filled_at _ _ _ hn]
  · rw [State.treg_of_look hlook, State.treg_of_look hg, Segment.ran, List.getD_eq_getElem?_getD, List.getElem?_modify, List.getD_eq_getElem?_getD]
    simp [Ne.symm hj]

theorem exec_matrixCommandComplete (harg : s.arg = .seg sg) (hg : look s.segs sg = some g) {pc : Word} {c : Gmx} {rest : List (Word × Gmx)} (hq : g.gmx = (pc, c) :: rest) :
    exec .matrixCommandComplete s = .next (s.runGmx sg c) := by
  change execMatrixCommandComplete s = _
  unfold execMatrixCommandComplete
  rw [harg]
  simp only [hg, Option.elim_some, hq]

/-! ### MMA -/

/-- The sum of an element with no pruned position is the tree over the products. -/
theorem dotTree_map_some (a b : List Val) : dotTree (a.map some) b = treeSum 7 ((a.zip b).map (fun x => Fmt.fp32.rn (x.1.mul x.2))) := by
  rw [dotTree, List.zip_map_left, List.map_map]
  rfl

/-- Row i of an operand tile that takes no scales. -/
def State.operandRow (s : State) (sg : SKey) (tile i : Nat) : List Val := rowVals (s.tileTag sg tile) (row64 (s.tileArea sg tile 8192) i) (row4 [] i)

theorem State.operandRows_eq (sg : SKey) (tile : Nat) : s.operandRows sg tile none (List.range 128) 8192 = (List.range 128).map (s.operandRow sg tile) := rfl

theorem getD_map_range {α : Type} (f : Nat → α) {n i : Nat} (h : i < n) (d : α) : ((List.range n).map f).getD i d = f i := by
  rw [List.getD_eq_getElem?_getD, List.getElem?_map, List.getElem?_range h]
  rfl

/-- The pair that an MMA without scales leaves in an element. -/
def State.mmaPair (s : State) (sg : SKey) (t a b n : Nat) : Word × Word :=
  let e := (s.treg sg t).at_ n
  let p := foldPair e.1.toNat e.2.toNat (treeSum 7 (((s.operandRow sg a (n / 128)).zip (s.operandRow sg b (n % 128))).map (fun x => Fmt.fp32.rn (x.1.mul x.2))))
  (BitVec.ofNat 32 p.1, BitVec.ofNat 32 p.2)

theorem State.mmaElems_eq (sg : SKey) (t a b : Nat) {n : Nat} (hn : n < 16384) :
    mmaElems (s.treg sg t) ((s.operandRows sg a none (List.range 128) 8192).map (fun r => r.map some)) (s.operandRows sg b none (List.range 128) 8192) n = s.mmaPair sg t a b n := by
  have hrow : n / 128 < 128 := Nat.div_lt_of_lt_mul hn
  have hcol : n % 128 < 128 := Nat.mod_lt _ (by decide)
  have hA : ((s.operandRows sg a none (List.range 128) 8192).map (fun r => r.map some)).getD (n / 128) [] = (s.operandRow sg a (n / 128)).map some := by
    rw [State.operandRows_eq, List.map_map, getD_map_range _ hrow, Function.comp_apply]
  have hB : (s.operandRows sg b none (List.range 128) 8192).getD (n % 128) [] = s.operandRow sg b (n % 128) := by
    rw [State.operandRows_eq, getD_map_range _ hcol]
  rw [mmaElems, hA, hB, dotTree_map_some]
  rfl

/-- An MMA whose tiles are long enough writes its register, with some tag. -/
theorem State.runGmx_mma {t a b : Nat} (ha : 8192 ≤ s.tileLen sg a) (hb : 8192 ≤ s.tileLen sg b) : ∃ x, s.runGmx sg (.mma t a b none) = (s.setTreg sg t x
    (mmaElems (s.treg sg t) ((s.operandRows sg a none (List.range 128) 8192).map (fun r => r.map some)) (s.operandRows sg b none (List.range 128) 8192))).gmxDone sg := by
  have hfault : firstCode [(decide (s.tileLen sg a < 8192) || decide (s.tileLen sg b < 8192) || s.scalesShort sg none, FaultCode.tileState)] = none := by
    simp [firstCode, ha, hb, State.scalesShort]
  refine ⟨markTag (s.tregBad sg t || (s.tilePoison sg a 8192 || Option.elim none false (fun x : Nat × Nat => s.tilePoison sg x.1 512)) || s.tilePoison sg b 8192
    || Option.elim none false (fun x : Nat × Nat => s.tilePoison sg x.2 512)), ?_⟩
  rw [State.runGmx, hfault]
  rfl

theorem State.runGmx_mma_short {t a b : Nat} (ha : s.tileLen sg a < 8192) : s.runGmx sg (.mma t a b none) = s.gmxFault sg .tileState := by
  have hfault : firstCode [(decide (s.tileLen sg a < 8192) || decide (s.tileLen sg b < 8192) || s.scalesShort sg none, FaultCode.tileState)] = some .tileState := by
    simp [firstCode, ha]
  rw [State.runGmx, hfault]
  rfl

/-- A fault at the engine halts the matrix sequencer at the command. -/
theorem State.gmxFault_halts (hg : look s.segs sg = some g) {pc : Word} {c : Gmx} {rest : List (Word × Gmx)} (hq : g.gmx = (pc, c) :: rest) {q : Sequencer} (hseq : look s.seqs (msqOf sg) = some q)
    (hrun : q.halted = false) (code : FaultCode) (keep : Bool) : look (s.gmxFault sg code keep).seqs (msqOf sg) = some (q.halt (seqRec (msqOf sg) code 0 pc false)) := by
  have htiles (l : List Nat) (u : State) : (l.foldl (fun t n => t.tileDone sg n code.code) u).seqs = u.seqs := by
    induction l generalizing u with
    | nil => rfl
    | cons n l ih => exact ih _
  unfold State.gmxFault
  simp only [hg, hq]
  refine (congrArg (fun l => look l (msqOf sg)) (State.onSeq_seqs _ _ _)).trans ((upd_some _ (Eq.trans ?_ hseq)).trans (by rw [hrun]; rfl))
  refine congrArg (fun l => look l (msqOf sg)) (Eq.trans ?_ (htiles ((pc, c) :: rest |>.filterMap (fun e => gmxFills e.2)) (s.onSeg sg (fun g => { g with gmx := [] }))))
  cases (if keep = true then none else gmxWrites c) <;> rfl

end

end Sys2Proof.Machine

open Sys2Proof Sys2Proof.Machine in
/-- Settles O39: `State.gmxDone_setTreg_spec` says what a run that ends leaves, `State.gmxFault_halts` what a short tile does. -/
theorem matrixRuns : Obligations.MatrixRuns := by
  intro s sg g pc rest t harg hg ht runs
  refine ⟨fun hq => ?mzero, ?mma, fun a b q hq ha hseq hrun => ?short⟩
  case mzero =>
    obtain ⟨u, g', hu, hspec⟩ := State.gmxDone_setTreg_spec hg ht hq .f32p (fun _ => (0, 0))
    exact ⟨u, g', (exec_matrixCommandComplete harg hg hq).trans (congrArg Host.Outcome.next hu), hspec⟩
  case mma =>
    intro a b hq ha hb row
    obtain ⟨x, hx⟩ := State.runGmx_mma (s := s) (t := t) ha hb
    obtain ⟨u, g', hu, hlook, hgmx, hmem, hval, hother⟩ := State.gmxDone_setTreg_spec hg ht hq x _
    exact ⟨u, g', (exec_matrixCommandComplete harg hg hq).trans (congrArg Host.Outcome.next (hx.trans hu)), hlook, hgmx, hmem, fun n hn => (hval n hn).trans (State.mmaElems_eq sg t a b hn), hother⟩
  case short =>
    refine ⟨_, q.halt (seqRec (msqOf sg) .tileState 0 pc false), seqRec (msqOf sg) .tileState 0 pc false, exec_matrixCommandComplete harg hg hq, ?_, rfl, rfl, rfl, rfl⟩
    rw [State.runGmx_mma_short ha]
    exact State.gmxFault_halts hg hq hseq hrun _ _

/-! PROOFS, 07 R190, R191, R198: what naming tiles changes, and the issue of copies. -/

namespace Sys2Proof.Machine

/-! ### What naming tiles changes -/

/-- From s to t segments changed, and of groups no more than floors. -/
structure State.Tiled (s t : State) : Prop where
  rest : t = { s with groups := t.groups, segs := t.segs }
  group : ∀ k g, look s.groups k = some g → ∃ n, look t.groups k = some { g with floor := n }

section
variable {s t u : State}

theorem State.Tiled.refl (s : State) : s.Tiled s := ⟨rfl, fun _ g hg => ⟨g.floor, hg⟩⟩

theorem State.Tiled.trans (hst : s.Tiled t) (htu : t.Tiled u) : s.Tiled u where
  rest := by rw [htu.rest, hst.rest]
  group k g hg := by
    obtain ⟨n, hn⟩ := hst.group k g hg
    obtain ⟨j, hj⟩ := htu.group k _ hn
    exact ⟨j, hj⟩

theorem State.Tiled.foldl {α : Type} {f : State → α → State} (hf : ∀ (t : State) (x : α), t.Tiled (f t x)) (l : List α) (s : State) : s.Tiled (l.foldl f s) := by
  induction l generalizing s with
  | nil => exact .refl s
  | cons x r ih => exact (hf s x).trans (ih _)

theorem State.onSeg_tiled (s : State) (sg : SKey) (f : Segment → Segment) : s.Tiled (s.onSeg sg f) := ⟨rfl, fun _ g hg => ⟨g.floor, hg⟩⟩

theorem State.acquire_tiled (s : State) (w : Agent) (sc : Scope) : s.Tiled (s.acquire w sc) where
  rest := by
    have h := (s.acquire_atIssuer w sc).rest
    rw [State.acquire_seqs] at h
    rw [h]
  group _ _ hg := State.look_acquire hg w sc

theorem State.nameTile_tiled (s : State) (sg : SKey) (n : Nat) : s.Tiled (s.nameTile sg n) := by
  unfold State.nameTile
  split
  · exact (s.onSeg_tiled _ _).trans (State.acquire_tiled _ _ _)
  · exact .refl s

theorem State.popTile_tiled (s : State) (sg : SKey) (spec : TileSpec) : s.Tiled (s.popTile sg spec) := by
  cases spec with
  | tile n => exact s.nameTile_tiled _ _
  | stream k => exact ((s.nameTile_tiled _ _).trans (State.onSeg_tiled _ _ _)).trans (State.onSeg_tiled _ _ _)

theorem State.copyTiles_tiled (s : State) (c : Copy) (spec : TileSpec) (o : Nat) : s.Tiled (s.copyTiles c spec o) := by
  have hfill : s.Tiled (if c.dkind = 2 then c.targets.foldl (fun t k => t.fillTile k c.dst (if c.skind = 0 then some (s.origin c.src) else none)) s else s) := by
    split
    · exact State.Tiled.foldl (fun t k => t.onSeg_tiled _ _) _ _
    · exact .refl s
  by_cases hdrain : c.skind = 2
  · rw [State.copyTiles, if_pos hdrain]
    exact (hfill.trans (State.popTile_tiled _ _ _)).trans (State.onSeg_tiled _ _ _)
  · rw [State.copyTiles, if_neg hdrain]
    exact hfill

theorem State.Tiled.curSeg (h : s.Tiled t) (hr : s.resident = true) : t.curSeg = s.curSeg := by
  have hc : t.cur = s.cur := by rw [h.rest]
  unfold State.resident at hr
  unfold State.curSeg
  rw [hc]
  cases hcur : s.cur with
  | idle => rfl
  | seq q => rfl
  | path k lanes pc =>
    rw [hcur] at hr
    obtain ⟨g, hg⟩ := Option.isSome_iff_exists.1 hr
    obtain ⟨n, hn⟩ := h.group k g hg
    simp [hg, hn]

/-- Whether an entry is free stands. -/
theorem State.Tiled.entryFree (h : s.Tiled t) (hr : s.resident = true) : t.entryFree = s.entryFree := by
  have htxns : t.txns = s.txns := by rw [h.rest]
  have hagent : t.curAgent = s.curAgent := by rw [h.rest]; rfl
  have hcore : t.coreOf t.curSeg = s.coreOf s.curSeg := by
    rw [h.curSeg hr, h.rest]
    rfl
  rw [State.entryFree, State.entryFree, hagent, hcore, State.agentTxns, State.agentTxns, State.coreTxns, State.coreTxns, htxns]

end

/-! ### The operation that a copy starts -/

/-- The operation that an issuer's command starts. -/
def State.opOf (s : State) (kind : OpKind) (armed : Bool) : Op :=
  { who := s.curAgent, task := s.taskOf s.curBlk, kind := kind, st := .pending, armed := armed, cancel := false, gwct := 0, got := [], asked := [], acks := 0, outcome := none, stage := 0, codes := [],
    buf := [], plain := false, asker := none, entered := [] }

section
variable {s : State}

theorem State.newOp_look (kind : OpKind) (armed : Bool) : look (s.newOp kind armed).1.ops (s.nextOp % 4294967296) = some (s.opOf kind armed) := look_put _ _ _

/-- A future copy's issue: its operation, its handle and its tiles. -/
def State.copyStarted (s : State) (k : Nat) (c : Copy) (spec : TileSpec) : State :=
  let o := s.nextOp % 4294967296
  ((s.newOp (.copy c) (c.skind == 2)).1.writeH k (.names o)).copyTiles c spec o

/-- A counted copy's: its operation and its tiles. -/
def State.copyCounted (s : State) (c : Copy) (spec : TileSpec) : State :=
  (s.newOp (.copy c) (c.skind == 2)).1.copyTiles c spec (s.nextOp % 4294967296)

section
variable {m mcast : Bool} {k : BitVec 4} {gd ga gb : BitVec 9}

theorem exec_copy_eq : exec (if mcast then .mcast m k ga gb else .cpy m k ga gb) s = copyFuture s m k ga gb mcast := by
  cases mcast <;> rfl

theorem copyFuture_starts (h : s.uniReady .copy true (regs ga.toNat 16 ++ regs gb.toNat 16) (regs ga.toNat 16 ++ regs gb.toNat 16) = true)
    (hexc : ∀ e ∈ (s.copyPlan ga.toNat gb.toNat mcast false).2.1, e = none) (htiles : ∀ u ∈ (s.copyPlan ga.toNat gb.toNat mcast false).2.2.1, ∃ n, u = TileUse.use n) (hk : s.busyHandle k.toNat = none) :
    copyFuture s m k ga gb mcast = .next ((s.copyStarted k.toNat (s.copyPlan ga.toNat gb.toNat mcast false).1 (s.copyPlan ga.toNat gb.toNat mcast false).2.2.2).finish m 8) := by
  rw [copyFuture, uniJump_next h (firstExc_none hexc), withTiles_use htiles, hk]
  rfl

theorem exec_cpyc (h : s.uniReady .copy true (gd.toNat :: (regs ga.toNat 16 ++ regs gb.toNat 16)) (regs ga.toNat 16 ++ regs gb.toNat 16) = true)
    (hexc : ∀ e ∈ (s.copyPlan ga.toNat gb.toNat false true).2.1, e = none) (htiles : ∀ u ∈ (s.copyPlan ga.toNat gb.toNat false true).2.2.1, ∃ n, u = TileUse.use n) (hfree : s.entryFree = true) :
    exec (.cpyc m gd ga gb) s = .next ((s.copyCounted (s.copyPlan ga.toNat gb.toNat false true).1 (s.copyPlan ga.toNat gb.toNat false true).2.2.2).openTxn m 8
      (.command gd.toNat (.copy (s.nextOp % 4294967296))) [] [] (fun u => u.pendU gd.toNat 1)) := by
  change execCpyc m gd ga gb s = _
  rw [execCpyc, uniJump_next h (firstExc_none hexc), withTiles_use htiles, hfree]
  rfl

end

/-- From s to t an operation of a copy has been made, and nothing moved. -/
structure State.CopyBegun (s t : State) (c : Copy) : Prop where
  op : look t.ops (s.nextOp % 4294967296) = some (s.opOf (.copy c) (c.skind == 2))
  mem : t.mem = s.mem

variable {c : Copy} {spec : TileSpec}

theorem State.copyStarted_begun (k : Nat) (m : Bool) : s.CopyBegun ((s.copyStarted k c spec).finish m 8) c := by
  have htiled := ((s.newOp (.copy c) (c.skind == 2)).1.writeH k (.names (s.nextOp % 4294967296))).copyTiles_tiled c spec (s.nextOp % 4294967296)
  have hwrite := (s.newOp (.copy c) (c.skind == 2)).1.writeH_atIssuer k (.names (s.nextOp % 4294967296))
  have hfin := (s.copyStarted k c spec).finish_atIssuer m 8
  refine ⟨?_, ?_⟩
  · rw [hfin.ops, State.copyStarted, htiled.rest]
    exact (congrArg (look · _) hwrite.ops).trans (State.newOp_look _ _)
  · rw [hfin.mem, State.copyStarted, htiled.rest]
    exact hwrite.mem

/-- The path's group has the handle, or OUTS one more; nothing else of it that counts here changed. -/
theorem State.pathIs.copyStarted {key : GKey} {lanes : Mask} {pc : Word} {g : Group} (hp : s.pathIs key lanes pc g) (k : Nat) (hk : k < g.h.length) (m : Bool) :
    ∃ g', look ((s.copyStarted k c spec).finish m 8).groups key = some g' ∧ g'.h.getD k .empty = .names (s.nextOp % 4294967296) ∧ g'.outs = g.outs := by
  have hcur := hp.1
  let o := s.nextOp % 4294967296
  let u := (s.newOp (.copy c) (c.skind == 2)).1.writeH k (.names o)
  have hu : look u.groups key = some { g with h := g.h.set k (.names o) } := by
    simp only [u, State.writeH, show (s.newOp (.copy c) (c.skind == 2)).1.cur = .path key lanes pc from hcur]
    exact upd_some _ hp.2
  obtain ⟨n, hn⟩ := (u.copyTiles_tiled c spec o).group key _ hu
  have hc : (s.copyStarted k c spec).cur = .path key lanes pc := by
    have h1 : (s.copyStarted k c spec).cur = u.cur := by rw [State.copyStarted, (u.copyTiles_tiled c spec o).rest]
    exact h1.trans (((s.newOp (.copy c) (c.skind == 2)).1.writeH_atIssuer _ _).cur.trans hcur)
  refine ⟨_, by rw [State.finish_path hc]; exact upd_some _ hn, ?_, ?_⟩
  · rw [Group.finish_rest]
    simp [hk, o]
  · rw [Group.finish_rest]

/-- The same of the copy sequencer, which has gone on. -/
theorem State.copyStarted_seq {q : QKey} {e : Sequencer} (hcur : s.cur = .seq q) (he : look s.seqs q = some e) (k : Nat) (hk : k < e.h.length) (m : Bool) :
    ∃ e', look ((s.copyStarted k c spec).finish m 8).seqs q = some e' ∧ e'.h.getD k .empty = .names (s.nextOp % 4294967296) ∧ e'.outs = e.outs ∧ e'.pc = e.pc + 8 := by
  let o := s.nextOp % 4294967296
  let u := (s.newOp (.copy c) (c.skind == 2)).1.writeH k (.names o)
  have htiled := u.copyTiles_tiled c spec o
  have hu : look (s.copyStarted k c spec).seqs q = some { e with h := e.h.set k (.names o) } := by
    have h1 : (s.copyStarted k c spec).seqs = u.seqs := by rw [State.copyStarted, htiled.rest]
    rw [h1]
    simp only [u, State.writeH, show (s.newOp (.copy c) (c.skind == 2)).1.cur = .seq q from hcur]
    exact upd_some _ he
  have hc : (s.copyStarted k c spec).cur = .seq q := by
    have h1 : (s.copyStarted k c spec).cur = u.cur := by rw [State.copyStarted, htiled.rest]
    exact h1.trans (((s.newOp (.copy c) (c.skind == 2)).1.writeH_atIssuer _ _).cur.trans hcur)
  refine ⟨({ e with h := e.h.set k (.names o) } : Sequencer).finish m 8, by rw [State.finish_seq hc]; exact upd_some _ hu, ?_, rfl, rfl⟩
  simp [Sequencer.finish, hk, o]

theorem State.copyCounted_tiled : (s.newOp (.copy c) (c.skind == 2)).1.Tiled (s.copyCounted c spec) := State.copyTiles_tiled _ _ _ _

theorem State.copyCounted_entryFree (hr : s.resident = true) (hfree : s.entryFree = true) : (s.copyCounted c spec).entryFree = true :=
  (State.copyCounted_tiled.entryFree hr).trans hfree

section
variable (m : Bool) (gd : Nat) (hfree : s.entryFree = true)
include hfree

/-- The transaction that a counted copy opens changes the issuer and the transaction table alone. -/
theorem State.pathIs.copyCounted {key : GKey} {lanes : Mask} {pc : Word} {g : Group} (hp : s.pathIs key lanes pc g) (kind : TxnKind) :
    ∃ g', look ((s.copyCounted c spec).openTxn m 8 kind [] [] (fun u => u.pendU gd 1)).groups key = some g' ∧ g'.outs = g.outs + 1 ∧
      s.CopyBegun ((s.copyCounted c spec).openTxn m 8 kind [] [] (fun u => u.pendU gd 1)) c := by
  have htiled : (s.newOp (.copy c) (c.skind == 2)).1.Tiled (s.copyCounted c spec) := State.copyCounted_tiled
  have hr : s.resident = true := by rw [State.resident, hp.1]; exact Option.isSome_iff_exists.2 ⟨g, hp.2⟩
  have hc : (s.copyCounted c spec).cur = .path key lanes pc := by rw [htiled.rest]; exact hp.1
  obtain ⟨n, hn⟩ := htiled.group key g hp.2
  have hpre : (s.copyCounted c spec).Prepares ((s.copyCounted c spec).pendU gd 1) [] (regs gd 1) := by
    rw [State.pendU_eq]
    exact State.prepares_pends _ _ _
  rw [State.openTxn_path m kind [] [] (State.copyCounted_entryFree hr hfree) hpre hc]
  refine ⟨_, upd_some _ hn, (Group.opens_opened _ _ _ _ _ _).outs, ?_, ?_⟩
  · refine (congrArg (look · _) (show (s.copyCounted c spec).ops = _ from ?_)).trans (State.newOp_look _ _)
    rw [htiled.rest]
  · exact (congrArg State.mem htiled.rest : _)

theorem State.copyCounted_seq {q : QKey} {e : Sequencer} (hcur : s.cur = .seq q) (he : look s.seqs q = some e) (kind : TxnKind) :
    ∃ e', look ((s.copyCounted c spec).openTxn m 8 kind [] [] (fun u => u.pendU gd 1)).seqs q = some e' ∧ e'.outs = e.outs + 1 ∧ e'.pc = e.pc + 8 ∧
      s.CopyBegun ((s.copyCounted c spec).openTxn m 8 kind [] [] (fun u => u.pendU gd 1)) c := by
  have htiled : (s.newOp (.copy c) (c.skind == 2)).1.Tiled (s.copyCounted c spec) := State.copyCounted_tiled
  have hr : s.resident = true := by rw [State.resident, hcur]; exact Option.isSome_iff_exists.2 ⟨e, he⟩
  have hc : (s.copyCounted c spec).cur = .seq q := by rw [htiled.rest]; exact hcur
  have hseq : look (s.copyCounted c spec).seqs q = some e := by rw [htiled.rest]; exact he
  have hpre : (s.copyCounted c spec).Prepares ((s.copyCounted c spec).pendU gd 1) [] (regs gd 1) := by
    rw [State.pendU_eq]
    exact State.prepares_pends _ _ _
  have ho := e.opens_opened m (regs gd 1) ((s.copyCounted c spec).newTxn kind [] [])
  rw [State.openTxn_seq m kind [] [] (State.copyCounted_entryFree hr hfree) hpre hc]
  refine ⟨_, upd_some _ hseq, ho.outs, ho.pc, ?_, ?_⟩
  · refine (congrArg (look · _) (show (s.copyCounted c spec).ops = _ from ?_)).trans (State.newOp_look _ _)
    rw [htiled.rest]
  · exact (congrArg State.mem htiled.rest : _)

end

end

end Sys2Proof.Machine

open Sys2Proof Sys2Proof.Machine in
/-- Settles O36: the checks pass, the operation is `State.opOf`, and the issuer is told by `State.pathIs.copyStarted`, `State.copyStarted_seq` and their counted forms. -/
theorem copyIssue : Obligations.CopyIssue := by
  refine ⟨?path, ?seq⟩
  case path =>
    intro s m mcast k gd ga gb key lanes pc g hp blocks passes plan counted o
    refine ⟨fun h ⟨hexc, htiles⟩ hk hlen => ?_, fun h ⟨hexc, htiles⟩ hfree => ?_⟩
    · obtain ⟨hop, hmem⟩ := State.copyStarted_begun (s := s) (c := plan.1) (spec := plan.2.2.2) k.toNat m
      obtain ⟨g', hg', hhandle, houts⟩ := hp.copyStarted (c := plan.1) (spec := plan.2.2.2) k.toNat hlen m
      exact ⟨_, g', _, exec_copy_eq.trans (copyFuture_starts h hexc htiles hk), hg', hhandle, houts, hop, rfl, rfl, rfl, hmem⟩
    · obtain ⟨g', hg', houts, hop, hmem⟩ := hp.copyCounted (c := counted.1) (spec := counted.2.2.2) m gd.toNat hfree (.command gd.toNat (.copy o))
      exact ⟨_, g', _, exec_cpyc h hexc htiles hfree, hg', houts, hop, rfl, rfl, rfl, hmem⟩
  case seq =>
    intro s m mcast k gd ga gb q e hcur he blocks passes plan counted o
    refine ⟨fun h ⟨hexc, htiles⟩ hk hlen => ?_, fun h ⟨hexc, htiles⟩ hfree => ?_⟩
    · obtain ⟨hop, hmem⟩ := State.copyStarted_begun (s := s) (c := plan.1) (spec := plan.2.2.2) k.toNat m
      obtain ⟨e', he', hhandle, houts, hpc⟩ := State.copyStarted_seq (c := plan.1) (spec := plan.2.2.2) hcur he k.toNat hlen m
      exact ⟨_, e', _, exec_copy_eq.trans (copyFuture_starts h hexc htiles hk), he', hhandle, houts, hpc, hop, rfl, rfl, rfl, hmem⟩
    · obtain ⟨e', he', houts, hpc, hop, hmem⟩ := State.copyCounted_seq (c := counted.1) (spec := counted.2.2.2) m gd.toNat hfree hcur he (.command gd.toNat (.copy o))
      exact ⟨_, e', _, exec_cpyc h hexc htiles hfree, he', houts, hpc, hop, rfl, rfl, rfl, hmem⟩

/-! PROOFS, 07 R190, R193, R221, R223 to R225; 14 R324: the issue of counted commands. -/

namespace Sys2Proof.Machine

section
variable {s : State}

/-! ### Result registers -/

theorem State.pends_pends (a b : List Nat) : (s.pends [] a).pends [] b = s.pends [] (a ++ b) := by
  unfold State.pends
  cases hc : s.cur with
  | idle => simp only [hc]
  | path k lanes pc =>
    simp only [State.onGroup_cur, hc, State.onGroup_onGroup]
    exact congrArg (s.onGroup k) (funext fun g => (List.foldl_append ..).symm)
  | seq q =>
    simp only [State.onSeq_cur, hc, State.onSeq_onSeq]
    exact congrArg (s.onSeq q) (funext fun e => (List.foldl_append ..).symm)

/-- The result registers of a command become destinations one by one. -/
theorem State.foldl_pendU_eq (d : Nat) (l us : List Nat) : l.foldl (fun v r => v.pendU (d + r) 1) (s.pends [] us) = s.pends [] (us ++ l.map (d + ·)) := by
  induction l generalizing us with
  | nil => rw [List.map_nil, List.append_nil]; rfl
  | cons r l ih =>
    rw [List.foldl_cons, State.pendU_eq, State.pends_pends, ih, List.append_assoc]
    rfl

theorem State.prepares_results (d : Nat) (l : List Nat) : s.Prepares (l.foldl (fun v r => v.pendU (d + r) 1) s) [] (l.map (d + ·)) := by
  have h := s.foldl_pendU_eq d l []
  rw [State.pends_nil, List.nil_append] at h
  rw [h]
  exact State.prepares_pends _ _ _

/-! ### Counted commands -/

/-- What the issue of a counted command with its result registers comes to. -/
def State.Counts (s : State) (o : Out) (d : Nat) (dests : List Nat) (c : Counted) : Prop :=
  (s.entryFree = true → ∃ t, o = .next t ∧ s.tookEntry t (.command d c) [] [] ∧ s.pendsU t (dests.map (d + ·))) ∧ (s.entryFree = false → o = .next s)

variable {m : Bool} {row : Row} {d : Nat} {reads : List Nat} {own : List (Option Exc)} {c : Counted} {names : List Nat}

/-- The effect of one that takes its entry as it is. -/
theorem counts_of_openTxn {o : Out} (hr : s.resident = true)
    (ho : o = .next (s.openTxn m 8 (.command d c) [] [] (fun u => (resultRegs c).foldl (fun v r => v.pendU (d + r) 1) u))) : s.Counts o d (resultRegs c) c := by
  obtain ⟨hfree, hfull⟩ := openTxn_Runs (us := (resultRegs c).map (d + ·)) ho hr (State.prepares_results d (resultRegs c)) List.nodup_nil
  refine ⟨fun h => ?_, hfull⟩
  obtain ⟨t, ht, htook, -, hpend⟩ := hfree h
  exact ⟨t, ht, htook, hpend⟩

theorem counted_counts (h : s.uniReady row true ((resultRegs c).map (d + ·) ++ reads) reads = true) (ho : ∀ x ∈ own, x = none) : s.Counts (counted s m row d reads own c) d (resultRegs c) c :=
  counts_of_openTxn (resident_of_uniReady h) (uniJump_next h (firstExc_none ho))

/-- A command of the fabric controller takes its place there besides. -/
theorem openControl_counts {o : Out} (hr : s.resident = true) (ho : o = .next (s.openControl m d c)) : s.Counts o d (resultRegs c) c := by
  obtain ⟨htakes, -⟩ := counts_of_openTxn (m := m) (d := d) (c := c) hr rfl
  refine ⟨fun hfree => ?_, fun hfull => by rw [ho, State.openControl, hfull]; rfl⟩
  obtain ⟨t, ht, htook, hpend⟩ := htakes hfree
  obtain rfl := Host.Outcome.next.inj ht
  exact ⟨_, ho.trans (congrArg Host.Outcome.next (if_pos hfree)), htook, hpend⟩

/-! ### Launches -/

theorem State.grantExc_none (h : ∃ t, look s.tasks (s.taskOf s.curBlk) = some t ∧ (t.p.getD 6 0).getLsbD 3 = true) : s.grantExc = none := by
  obtain ⟨t, ht, hbit⟩ := h
  exact excIf_false (by rw [ht, Option.elim_some, hbit]; rfl)

variable {P : List Word} {r : Except HtsStop (Option Task)}

theorem attrExc_none {w : Word} (h : w.toNat < 128) (hlm : ¬(attrL w = true ∧ attrM w = true)) : attrExc w = none := by
  refine excIf_false ?_
  rw [Bool.or_eq_false_iff, decide_eq_false_iff_not, Nat.not_le]
  exact ⟨by simpa using hlm, h⟩

/-- The checks of a launch whose block passes and whose read has met no fault. -/
theorem State.launchExcs_none (hbad : ∀ e ∈ recordBad P, e.2 = false) (hgrant : pf P 6 3 3 = 1 → ∃ t, look s.tasks (s.taskOf s.curBlk) = some t ∧ (t.p.getD 6 0).getLsbD 3 = true)
    (hr : ∀ e, r ≠ .error (.fault e)) : ∀ x ∈ s.launchExcs P r, x = none := by
  simp only [State.launchExcs, List.forall_mem_cons]
  refine ⟨blockExc_none hbad, ?_, ?_, List.forall_mem_nil _⟩
  · split
    · next h => exact State.grantExc_none (hgrant h)
    · rfl
  · rcases r with (e | ⟨a, n⟩) | t
    · exact absurd rfl (hr e)
    · trivial
    · trivial

/-- What an issuer's reads at other chips are forgotten leaves of its readiness and of a transaction: all. -/
theorem State.farForget_counts {w : FarBy} {o : Out} {dests : List Nat} (h : (s.farForget w).Counts o d dests c) :
    (s.entryFree = true → ∃ t, o = .next t ∧ s.tookEntry t (.command d c) [] [] ∧ s.pendsU t (dests.map (d + ·))) ∧ (s.entryFree = false → o = .next (s.farForget w)) := h

theorem launch_ok {t : Option Task} (h : s.uniReady .group true ([0, 1].map (d + ·) ++ names) names = true) (hexc : ∀ x ∈ s.launchExcs P (.ok t), x = none) :
    (s.farForget (.launch s.curAgent)).Counts (launch s m d names P (.ok t)) d [0, 1] (.launch t) :=
  counted_counts (s := s.farForget (.launch s.curAgent)) (c := .launch t) h hexc

theorem launch_away {a n : Nat} (h : s.uniReady .group true ([0, 1].map (d + ·) ++ names) names = true) (hexc : ∀ x ∈ s.launchExcs P (.error (.away a n)), x = none) :
    launch s m d names P (.error (.away a n)) = .next ((s.farWant (.launch s.curAgent) a n).waitAt .hts) :=
  uniJump_next h (firstExc_none hexc)

/-! ### The fabric controller's -/

theorem exec_fbstat {gd : BitVec 9} (h : s.uniReady .any true ([0, 1, 2, 3].map (gd.toNat + ·)) [] = true) : s.Counts (exec (.fbstat m gd) s) gd.toNat [0, 1, 2, 3] .fbstat := by
  refine openControl_counts (m := m) (c := .fbstat) (resident_of_uniReady h) ?_
  change execFbstat m gd s = _
  exact uniJump_next h rfl

theorem exec_fbplan {gd ga : BitVec 9} (hP : s.block ga.toNat = P) (hgrant : ∃ t, look s.tasks (s.taskOf s.curBlk) = some t ∧ (t.p.getD 6 0).getLsbD 3 = true) (h0 : pw P 0 < 65536)
    (hzero : ∀ i ∈ 1 :: regs 4 12, pw P i = 0) (hptr : s.unreachable (ptrId (pd P 2)) = false) (h : s.uniReady .any true ([0].map (gd.toNat + ·) ++ regs ga.toNat 16) (regs ga.toNat 16) = true) :
    s.Counts (exec (.fbplan m gd ga) s) gd.toNat [0] (.fbplan (P.getD 0 0) (pd P 2) (s.nextOp % 4294967296)) := by
  obtain ⟨h1, hrest⟩ := List.forall_mem_cons.1 hzero
  have hblock : blockExc ([(0, decide (65536 ≤ pw P 0)), (1, pw P 1 != 0)] ++ zeros P (regs 4 12)) = none :=
    blockExc_none (List.forall_mem_append.2 ⟨by simp [h0, h1], zeros_false hrest⟩)
  have hexec : exec (.fbplan m gd ga) s = .next (if s.entryFree then (s.newOp .fabric false).1.openControl m gd.toNat (.fbplan (P.getD 0 0) (pd P 2) (s.nextOp % 4294967296)) else s) := by
    change execFbplan m gd ga s = _
    unfold execFbplan
    rw [hP]
    exact uniJump_next h (firstExc_none (List.forall_mem_cons.2 ⟨State.grantExc_none hgrant, List.forall_mem_cons.2 ⟨hblock, List.forall_mem_singleton.2 (excIf_false hptr)⟩⟩))
  have hr : (s.newOp .fabric false).1.resident = true := resident_of_uniReady (s := s) h
  obtain ⟨htakes, -⟩ := openControl_counts (s := (s.newOp .fabric false).1) (m := m) (d := gd.toNat) (c := .fbplan (P.getD 0 0) (pd P 2) (s.nextOp % 4294967296)) hr rfl
  refine ⟨fun hfree => ?_, fun hfull => by rw [hexec, hfull]; rfl⟩
  rw [hexec, if_pos hfree]
  exact htakes hfree

end

end Sys2Proof.Machine

open Sys2Proof Sys2Proof.Machine in
/-- Settles O43: `counted_counts` for the plain commands, `openControl_counts` for the fabric controller's, `launch_ok` and `launch_away` for launches. -/
theorem countedCommandIssue : Obligations.CountedCommandIssue := by
  intro s m gd ga gb slot p q a b P d pair reach attrOk granted record runs launches
  have hlaunches (i : Instr) (names : List Nat) (r : Except HtsStop (Option Task)) (hi : exec i s = launch s m d names P r) (hrec : record) : launches i names r := by
    intro h
    obtain ⟨hbad, hgrant⟩ := hrec
    refine ⟨fun t hr => ?_, fun x n hr => ?_⟩
    · subst hr
      rw [hi]
      exact State.farForget_counts (launch_ok h (State.launchExcs_none hbad hgrant nofun))
    · subst hr
      rw [hi]
      exact launch_away h (State.launchExcs_none hbad hgrant nofun)
  have hattr (hok : attrOk) : attrExc b = none := attrExc_none hok.1 hok.2
  have hptr (x : Nat) (h : reach x) : s.ptrExc x = none := excIf_false h
  have one {e : Option Exc} (he : e = none) : ∀ x ∈ [e], x = none := List.forall_mem_singleton.2 he
  have two {e f : Option Exc} (he : e = none) (hf : f = none) : ∀ x ∈ [e, f], x = none := List.forall_mem_cons.2 ⟨he, one hf⟩
  have zero : ∀ x ∈ ([] : List (Option Exc)), x = none := List.forall_mem_nil _
  refine ⟨fun hok h => counted_counts (c := .oalloc p b) h (one (hattr hok)), fun hp h => counted_counts (c := .ofree p) h (one (hptr p hp)),
    fun hp h => counted_counts (c := .opin p) h (one (hptr p hp)), fun hp h => counted_counts (c := .ounpin p) h (one (hptr p hp)),
    fun hp hq h => counted_counts (c := .ogroup p q) h (two (hptr p hp) (hptr q hq)), fun hv h => counted_counts (c := .oloc p) h (one (excIf_false (by rw [hv]; rfl))),
    fun hp h => counted_counts (c := .osplit p b) h (one (hptr p hp)), fun hok hp h => counted_counts (c := .oattr p b) h (two (hattr hok) (hptr p hp)),
    hlaunches _ _ _ rfl, hlaunches _ _ _ rfl, fun h => counted_counts (c := .patch slot.toNat a b) h zero, fun h => counted_counts (c := .tdec a b) h zero,
    fun h => counted_counts (c := .tkill a) h zero, ?fbstat, ?fbplan⟩
  case fbstat => exact fun h => exec_fbstat h
  case fbplan => exact fun hgrant h0 hzero hp h => exec_fbplan rfl hgrant h0 hzero hp h

/-! PROOFS, 10 R292, R295 to R300, R303; 07 R219, R220: what packets leave, and the steps of memory-side operations. -/

namespace Sys2Proof.Machine

/-! ### What a packet that leaves changes -/

/-- From s to t nothing but the fabric's tables, the agenda, stubs, locator and channels changed. -/
structure State.AtFabric (s t : State) : Prop where
  rest : t = { s with agenda := t.agenda, fab := t.fab, stubs := t.stubs, locator := t.locator, channels := t.channels }

section
variable {s t u : State}

theorem State.AtFabric.refl (s : State) : s.AtFabric s := ⟨rfl⟩

theorem State.AtFabric.trans (hst : s.AtFabric t) (htu : t.AtFabric u) : s.AtFabric u := ⟨by rw [htu.rest, hst.rest]⟩

theorem State.AtFabric.foldl {α : Type} {f : State → α → State} (hf : ∀ (t : State) (x : α), t.AtFabric (f t x)) (l : List α) (s : State) : s.AtFabric (l.foldl f s) := by
  induction l generalizing s with
  | nil => exact .refl s
  | cons x r ih => exact (hf s x).trans (ih _)

theorem State.AtFabric.ops (h : s.AtFabric t) : t.ops = s.ops := by rw [h.rest]
theorem State.AtFabric.mem (h : s.AtFabric t) : t.mem = s.mem := by rw [h.rest]
theorem State.AtFabric.segs (h : s.AtFabric t) : t.segs = s.segs := by rw [h.rest]
theorem State.AtFabric.txns (h : s.AtFabric t) : t.txns = s.txns := by rw [h.rest]

theorem State.enqueue_atFabric (s : State) (p : Packet) : s.AtFabric (s.enqueue p) := by
  unfold State.enqueue
  split <;> exact ⟨rfl⟩

theorem State.sendFirst_atFabric (s : State) (p : Packet) : s.AtFabric (s.sendFirst p) := by
  unfold State.sendFirst
  split
  · exact s.enqueue_atFabric p
  · next id x _ => exact .trans (t := { s with stubs := put s.stubs id { x with used := s.ptime, confirming := false } }) ⟨rfl⟩ (State.enqueue_atFabric _ _)

theorem State.useLocator_atFabric (s : State) (p : Packet) : s.AtFabric (s.useLocator p) := by
  unfold State.useLocator
  split <;> exact ⟨rfl⟩

theorem State.request_atFabric (s : State) (p : Packet) (r : Reply) : s.AtFabric (s.request p r) :=
  ((s.sendFirst_atFabric p).trans (State.useLocator_atFabric _ p)).trans ⟨rfl⟩

theorem State.arriveRow_atFabric (s : State) (a : Activity) : s.AtFabric (s.arriveRow a) := by
  unfold State.arriveRow
  cases a.row? with
  | none => exact .refl s
  | some r => exact ⟨rfl⟩

theorem State.visitRows_atFabric (s : State) (o : Nat) (rows : List (Nat × Nat)) (chs : List Nat) : s.AtFabric (s.visitRows o rows chs) := by
  refine State.AtFabric.foldl (fun t ch => ?_) chs s
  cases nextOn rows ch with
  | none => exact .refl t
  | some r => exact t.arriveRow_atFabric (.winnow o r)

/-! ### Operations and the frames elsewhere that they run on -/

/-- From s to t memory stands, and of an operation no more changed than the frames it has entered and the acknowledgements it awaits, of which there are no fewer. -/
structure State.OpStands (s t : State) (o : Nat) : Prop where
  mem : t.mem = s.mem
  op : ∀ x, look s.ops o = some x → ∃ y, look t.ops o = some y ∧ y = { x with acks := y.acks, entered := y.entered } ∧ x.acks ≤ y.acks

theorem State.OpStands.refl (s : State) (o : Nat) : s.OpStands s o := ⟨rfl, fun x hx => ⟨x, hx, rfl, Nat.le_refl _⟩⟩

theorem State.OpStands.trans {o : Nat} (hst : s.OpStands t o) (htu : t.OpStands u o) : s.OpStands u o where
  mem := htu.mem.trans hst.mem
  op x hx := by
    obtain ⟨y, hy, hxy, hle⟩ := hst.op x hx
    obtain ⟨z, hz, hyz, hle'⟩ := htu.op y hy
    exact ⟨z, hz, by rw [hyz, hxy], hle.trans hle'⟩

theorem State.OpStands.foldl {α : Type} {o : Nat} {f : State → α → State} (hf : ∀ (t : State) (x : α), t.OpStands (f t x) o) (l : List α) (s : State) : s.OpStands (l.foldl f s) o := by
  induction l generalizing s with
  | nil => exact .refl s o
  | cons x r ih => exact (hf s x).trans (ih _)

theorem State.AtFabric.opStands (h : s.AtFabric t) (o : Nat) : s.OpStands t o := ⟨h.mem, fun x hx => ⟨x, by rw [h.ops]; exact hx, rfl, Nat.le_refl _⟩⟩

/-- Telling other chips of an operation's frames leaves the operation as it was but for its acknowledgements. -/
theorem State.enterFrames_opStands (s : State) (o : Nat) (l : List (Nat × Nat)) : s.OpStands (s.enterFrames o l) o := by
  refine State.OpStands.foldl (fun t r => ?_) l s
  split
  · refine ((t.request_atFabric _ _).opStands o).trans ⟨rfl, fun x hx => ⟨_, upd_some _ hx, rfl, Nat.le_succ _⟩⟩
  · exact .refl t o

/-- An operation that runs no longer has told the chips of its frames. -/
theorem State.departFrames_eq (s : State) (o : Nat) : ∃ u, s.AtFabric u ∧ s.departFrames o = u.onOp o (fun x => { x with entered := [] }) := by
  refine ⟨_, State.AtFabric.foldl (fun t a => ?_) ((look s.ops o).elim [] (fun x => x.entered)) s, rfl⟩
  split
  · split
    · exact t.request_atFabric _ _
    · exact .refl t
  · exact .refl t

theorem State.departFrames_look (s : State) {o : Nat} {op : Op} (h : look s.ops o = some op) : look (s.departFrames o).ops o = some { op with entered := [] } ∧ (s.departFrames o).mem = s.mem := by
  obtain ⟨u, hsend, hu⟩ := s.departFrames_eq o
  rw [hu, State.onOp_ops, hsend.ops]
  exact ⟨upd_some _ h, hsend.mem⟩

/-- An operation with nothing to wait for takes its outcome. -/
theorem State.resolve_look {o : Nat} {op : Op} (h : look s.ops o = some op) (hst : op.st = .pending) (hacks : op.acks = 0) (st : OpState) :
    look (s.resolve o st).ops o = some { op with st := st, outcome := none } :=
  (upd_some _ h).trans (by rw [if_pos hst, if_pos hacks])

theorem State.departed_look {o : Nat} {op : Op} (h : look s.ops o = some op) (hst : op.st = .pending) (hacks : op.acks = 0) (st : OpState) :
    look ((s.departFrames o).resolve o st).ops o = some { op with entered := [], st := st, outcome := none } ∧ ((s.departFrames o).resolve o st).mem = s.mem := by
  obtain ⟨hlook, hmem⟩ := s.departFrames_look h
  exact ⟨State.resolve_look hlook hst hacks st, hmem⟩

end

/-! ### Scans -/

section
variable {s : State} {o : Nat} {op : Op} (harg : s.arg = .num o) (hop : look s.ops o = some op)
include harg hop

theorem exec_thresherResult {c : Scan} (hk : op.kind = .scan c) (hmay : s.scanMay o op c = true) :
    exec .thresherResult s = .next (match c.rows, op.outcome with
      | _, some st => s.endScan o c st
      | none, none => s.startScan o op c
      | some r, none => s.thresh o op c r) := by
  change execThresherResult s = _
  unfold execThresherResult
  rw [harg]
  simp only [hop, hk, hmay, if_true] <;> rfl

theorem exec_nbxContextStart {n : Nbx} {r : Nat} (hk : op.kind = .nbx n) (hmay : s.nbxMay o op n = true) (hfault : s.rangeFault ⟨true, true⟩ n.base (2048 * n.rows) = 0)
    (hrow : s.visitRow n.base = some r) :
    exec .nbxContextStart s = .next ((s.onOp o (fun p => { p with kind := .nbx { n with placed := true, ch := chanOf r } })).arriveRow (.program o r)) := by
  change execNbxContextStart s = _
  unfold execNbxContextStart
  rw [harg]
  unfold State.visitRow at hrow
  split at hrow
  · next id off d hsend =>
    obtain rfl := Option.some.inj hrow
    simp only [hop, hk, hmay, if_true, hfault, hsend]
  · exact nomatch hrow

theorem exec_kvsealComplete {c : Kvseal} {xs : List (List Byte)} (hk : op.kind = .kvseal c) (hmay : s.kvsealMay op c = true) (hout : op.outcome = none) (hread : s.readAll op c.reads = some (xs, 0)) :
    exec .kvsealComplete s = .next (
      let u := s.eCount c.reads
      let a := u.checkedCells c.dst (c.out xs).1
      let b := (u.eWrite o a.1).checkedCells c.scales (c.out xs).2
      ((u.eWrite o a.1).eWrite o b.1).resolve o (endOf (worst [a.2, b.2]))) := by
  change execKvsealComplete s = _
  unfold execKvsealComplete
  rw [harg]
  simp only [hop, hk, hmay, if_true, hout, hread]
  rfl

/-- A RED with no element left ends. -/
theorem exec_redComplete_end {c : Red} (hk : op.kind = .red c) (hst : op.st = .pending) (hacks : op.acks = 0) (hwaits : s.opWaits o = false) (hout : op.outcome = none) (hdone : c.count ≤ c.next) :
    exec .redComplete s = .next (s.endRed o .done) := by
  have hmay : s.redMay o op c = true := by simp [State.redMay, hst, hacks, hwaits, hdone]
  change execRedComplete s = _
  unfold execRedComplete
  rw [harg]
  simp only [hop, hk, hmay, if_true, hout, hdone]

end

/-- A scan that may step is pending. -/
theorem State.scanMay_pending {s : State} {o : Nat} {op : Op} {c : Scan} (h : s.scanMay o op c = true) : op.st = .pending := by
  simp only [State.scanMay, Bool.and_eq_true, beq_iff_eq] at h
  exact h.1.1.1

/-- A scan with rows on this chip alone, or whose other frames have been entered, is given to the winnowers. -/
theorem State.startScan_eq {s : State} {o : Nat} {op : Op} {c : Scan} {rows : List (Nat × Nat)} {away : List Nat} (hrows : s.scanRows c = .ok (rows, away)) :
    s.startScan o op c = if s.newFrames op away ≠ [] then s.enterFrames o ((s.newFrames op away).map (fun f => (max f c.src, min (f + 65536) (c.src + c.count * scanBytes c.fmt) - max f c.src)))
      else (s.onOp o (fun p => { p with kind := .scan { c with rows := some rows, away := away } })).visitRows o rows ((rows.map (fun r => chanOf r.1)).eraseDups) := by
  unfold State.startScan
  rw [hrows]

/-- The thresher takes what the buffers hold. -/
theorem State.thresh_takes {s : State} {o : Nat} {op : Op} {c : Scan} {rows : List (Nat × Nat)} (hbufs : c.bufs ≠ []) :
    s.thresh o op c rows = s.onOp o (fun p => { p with kind := .scan { c with cands := c.cands ++ c.bufs.map Prod.snd, bufs := [] } }) := by
  rw [State.thresh, if_pos hbufs]

/-- What the thresher does next for a scan whose buffers are empty, whose winnowers go on and which has nothing left elsewhere. -/
theorem State.thresh_eq {s : State} {o : Nat} {op : Op} {c : Scan} {rows : List (Nat × Nat)} (hbufs : c.bufs = []) (hstalled : s.stalled o rows = []) (haway : c.away = []) :
    s.thresh o op c rows = if c.fresh ≠ [] then s.writePairs o c else if rows = [] then s.writeScan o c else s := by
  unfold State.thresh
  rw [if_neg (fun h => h hbufs), hstalled, haway]
  cases hf : c.fresh with
  | nil => rfl
  | cons x l => rfl

end Sys2Proof.Machine

open Sys2Proof Sys2Proof.Machine in
/-- Settles O41: each step is the branch of its `exec_` equation that its state selects; the first tells the chips elsewhere by `State.enterFrames_opStands`. -/
theorem memorySideSteps : Obligations.MemorySideSteps := by
  intro s o op harg hop
  refine ⟨fun c hk hmay => ?scan, fun n r hk hmay hfault hrow => exec_nbxContextStart harg hop hk hmay hfault hrow, fun c xs hk hmay hout hread => exec_kvsealComplete harg hop hk hmay hout hread,
    fun c hk hst hacks hwaits hout hdone => ?red⟩
  case red =>
    obtain ⟨hlook, hmem⟩ := State.departed_look hop hst hacks .done
    exact ⟨_, _, exec_redComplete_end harg hop hk hst hacks hwaits hout hdone, hlook, rfl, hmem⟩
  case scan =>
    have hexec := exec_thresherResult harg hop hk hmay
    have hpend := State.scanMay_pending hmay
    refine ⟨?tells, ?starts, ?takes, ?pairs, ?header, ?ends⟩
    case tells =>
      intro hrows hout rows away hok hnew
      rw [hrows, hout] at hexec
      obtain ⟨op', hlook, hsame, hacks⟩ := (s.enterFrames_opStands o ((s.newFrames op away).map (fun f => (max f c.src, min (f + 65536) (c.src + c.count * scanBytes c.fmt) - max f c.src)))).op op hop
      refine ⟨_, op', hexec, ?_, by rw [hsame]; exact hpend, by rw [hsame]; exact hk, hacks, ?_⟩
      · rw [State.startScan_eq hok, if_pos hnew]
        exact hlook
      · rw [State.startScan_eq hok, if_pos hnew]
        exact (s.enterFrames_opStands o _).mem
    case starts =>
      intro hrows hout rows away hok hnew
      rw [hrows, hout] at hexec
      have hvisit := (s.onOp o (fun p => { p with kind := .scan { c with rows := some rows, away := away } })).visitRows_atFabric o rows ((rows.map (fun r => chanOf r.1)).eraseDups)
      refine ⟨_, { op with kind := .scan { c with rows := some rows, away := away } }, hexec, ?_, hpend, rfl, ?_⟩
      · rw [State.startScan_eq hok, if_neg (fun h => h hnew), hvisit.ops]
        exact upd_some _ hop
      · rw [State.startScan_eq hok, if_neg (fun h => h hnew)]
        exact hvisit.mem
    case takes =>
      intro rows hrows hout hbufs
      rw [hexec, hout, show c.rows = some rows from hrows]
      exact congrArg Host.Outcome.next ((State.thresh_takes hbufs).trans (by rw [hrows]))
    case pairs =>
      intro rows hrows hout hbufs hstalled haway hfresh
      rw [hexec, hrows, hout]
      exact congrArg Host.Outcome.next ((State.thresh_eq hbufs hstalled haway).trans (if_pos hfresh))
    case header =>
      intro hrows hout hbufs haway hfresh
      rw [hexec, hrows, hout]
      exact congrArg Host.Outcome.next (((State.thresh_eq hbufs rfl haway).trans (if_neg fun h => h hfresh)).trans (if_pos rfl))
    case ends =>
      intro st hout
      rw [hexec, hout]

/-! PROOFS, 07 R192, R199 to R202: the steps of a copy. -/

namespace Sys2Proof.Machine

/-! ### What the end of a counted command changes -/

/-- From s to t nothing but the transaction table, groups and sequencers changed. -/
structure State.AtTable (s t : State) : Prop where
  rest : t = { s with txns := t.txns, groups := t.groups, seqs := t.seqs }

section
variable {s t u : State}

theorem State.AtTable.refl (s : State) : s.AtTable s := ⟨rfl⟩

theorem State.AtTable.trans (hst : s.AtTable t) (htu : t.AtTable u) : s.AtTable u := ⟨by rw [htu.rest, hst.rest]⟩

theorem State.AtTable.ops (h : s.AtTable t) : t.ops = s.ops := by rw [h.rest]
theorem State.AtTable.mem (h : s.AtTable t) : t.mem = s.mem := by rw [h.rest]
theorem State.AtTable.segs (h : s.AtTable t) : t.segs = s.segs := by rw [h.rest]

theorem State.AtIssuer.atTable (h : s.AtIssuer t) : s.AtTable t := ⟨by rw [h.rest]⟩

theorem State.destMod_atTable (s : State) (w : Agent) (d : Dest) (k l : Nat) (f : Word → Word) : s.AtTable (s.destMod w d k l f) := by
  unfold State.destMod
  split <;> exact ⟨rfl⟩

theorem State.mergeGwct_atTable (s : State) (w : Agent) (x : Nat) : s.AtTable (s.mergeGwct w x) := by
  unfold State.mergeGwct
  split <;> exact ⟨rfl⟩

theorem State.oweGwct_atTable (s : State) (w : Agent) (x : Nat) : s.AtTable (s.oweGwct w x) := by
  unfold State.oweGwct
  split
  · exact ⟨rfl⟩
  · exact s.mergeGwct_atTable _ _

theorem State.defer_atTable (s : State) (w : Agent) (d : Deferred) : s.AtTable (s.defer w d) := by
  unfold State.defer
  split <;> exact ⟨rfl⟩

theorem State.closeTxn_atTable (s : State) (id : Nat) : s.AtTable (s.closeTxn id) := by
  unfold State.closeTxn
  split
  · exact .refl s
  · next t _ =>
    split
    · have hout : s.AtTable (match t.who with
          | .grp k => ({ s with txns := s.txns.filter (fun x => !(x.id == id)) } : State).onGroup k (fun g => { g with outs := g.outs - 1 })
          | .sqr q => ({ s with txns := s.txns.filter (fun x => !(x.id == id)) } : State).onSeq q (fun e => { e with outs := e.outs - 1 })) := by
        cases t.who <;> exact ⟨rfl⟩
      cases lowestCode (t.faults.map Prod.fst) with
      | none => exact hout
      | some c => exact hout.trans (State.defer_atTable _ _ _)
    · exact .refl s

theorem State.partDone_atTable (s : State) (id n : Nat) : s.AtTable (s.partDone id n) :=
  .trans (t := s.setPart id n .done) ⟨rfl⟩ (State.closeTxn_atTable _ id)

/-! ### The end of a copy -/

/-- From s to t operations, objects and memory stand, as does the scratchpad of a copy between scratchpads or to object space. -/
structure State.CopyStands (s t : State) (c : Copy) : Prop where
  ops : t.ops = s.ops
  objs : t.objs = s.objs
  mem : t.mem = s.mem
  segs : c.dkind ≠ 2 → c.skind ≠ 2 → t.segs = s.segs

theorem State.CopyStands.refl (s : State) (c : Copy) : s.CopyStands s c := ⟨rfl, rfl, rfl, fun _ _ => rfl⟩

theorem State.CopyStands.trans {c : Copy} (hst : s.CopyStands t c) (htu : t.CopyStands u c) : s.CopyStands u c :=
  ⟨htu.ops.trans hst.ops, htu.objs.trans hst.objs, htu.mem.trans hst.mem, fun hd hs => (htu.segs hd hs).trans (hst.segs hd hs)⟩

/-- Tiles that end are those of a copy from a tile or into one. -/
theorem State.onTile_copyStands (s : State) {c : Copy} (h : c.dkind = 2 ∨ c.skind = 2) (sg : SKey) (n : Nat) (f : Tile → Tile) : s.CopyStands (s.onTile sg n f) c :=
  ⟨rfl, rfl, rfl, fun hd hs => absurd h (by simp [hd, hs])⟩

theorem State.CopyStands.foldl {α : Type} {c : Copy} {f : State → α → State} (hf : ∀ (t : State) (x : α), t.CopyStands (f t x) c) (l : List α) (s : State) : s.CopyStands (l.foldl f s) c := by
  induction l generalizing s with
  | nil => exact .refl s c
  | cons x r ih => exact (hf s x).trans (ih _)

theorem State.tilesEnd_copyStands (s : State) {c : Copy} (h : c.dkind = 2) (ks : List SKey) (codes : List Nat) (code : Nat) : s.CopyStands (s.tilesEnd c ks codes code) c := by
  refine State.CopyStands.foldl (fun t k => ?_) ks s
  refine State.CopyStands.trans ?_ (State.onTile_copyStands _ (.inl h) _ _ _)
  split
  · exact t.onTile_copyStands (.inl h) _ _ _
  · exact .refl t c

/-- TDEC changes the task table alone. -/
theorem State.decTask_copyStands (s : State) (i n : Nat) (c : Copy) : s.CopyStands (s.decTask i n).1 c := by
  unfold State.decTask
  split
  · exact .refl s c
  · split
    · exact .refl s c
    · split
      · exact .refl s c
      · exact ⟨rfl, rfl, rfl, fun _ _ => rfl⟩

/-- What a copy that ends leaves of its operation: the outcome. -/
def Op.copyEnded (st : OpState) (x : Op) : Op := if x.st = .pending then { x with st := st, outcome := none } else x

/-- The transaction of a counted copy completes beside its operation. -/
theorem State.copyCounted_atTable (t : State) (x : Txn) (gd gwct : Nat) (code : FaultCode) (st : OpState) (w : Word) :
    t.AtTable ((if st = .done then (t.destMod x.who (.g gd) 0 0 (fun _ => w)).oweGwct x.who gwct
      else ((t.destMod x.who (.g gd) 0 0 (fun _ => w)).oweGwct x.who gwct).onTxn x.id (fun y => { y with faults := [(code, uniLane)] })).partDone x.id 0) := by
  refine .trans ?_ (State.partDone_atTable _ _ _)
  have h := (t.destMod_atTable x.who (.g gd) 0 0 (fun _ => w)).trans (State.oweGwct_atTable _ x.who gwct)
  split
  · exact h
  · exact h.trans ⟨rfl⟩

/-- A copy that ends gives its operation the outcome; of its tiles, its dependence counter and its transaction memory knows nothing. -/
theorem State.copyEnd_eq (s : State) (o : Nat) (c : Copy) (st : OpState) : ∃ t, s.CopyStands t c ∧ (t.onOp o (Op.copyEnded st)).AtTable (s.copyEnd o c st) := by
  generalize hr : s.copyEnd o c st = r
  unfold State.copyEnd at hr
  extract_lets op code cancelled left filled drained told ended at hr
  have hfilled : s.CopyStands filled c := by
    dsimp only [filled]
    split
    · exact .refl s c
    · next hd =>
      have hd : c.dkind = 2 := Decidable.not_not.1 hd
      split
      · exact State.CopyStands.foldl (fun t k => t.onTile_copyStands (.inl hd) _ _ _) _ _
      · exact s.tilesEnd_copyStands hd _ _ _
  have hdrained : s.CopyStands drained c := by
    dsimp only [drained]
    split
    · next hs => exact hfilled.trans (State.onTile_copyStands _ (.inr hs) _ _ _)
    · exact hfilled
  have htold : s.CopyStands told c := by
    dsimp only [told]
    split
    · cases c.notify with
      | none => exact hdrained
      | some i => exact hdrained.trans (State.decTask_copyStands _ _ _ _)
    · exact hdrained
  refine ⟨told, htold, ?_⟩
  rw [← hr]
  split
  · exact .refl _
  · split
    · exact State.copyCounted_atTable _ _ _ _ _ _ _
    · exact .refl _

end

end Sys2Proof.Machine

namespace Sys2Proof.Machine

/-! ### Plain copies -/

/-- A plain copy of n bytes inside one scratchpad. -/
structure Copy.Plain (c : Copy) (n : Nat) : Prop where
  skind : c.skind = 1
  dkind : c.dkind = 1
  mcast : c.mcast = false
  stag : c.stag = .raw
  dtag : c.dtag = .raw
  esz : c.esz = 0
  dsz : c.dsz = 1
  layout : c.layout = none
  start : c.start = [0]
  box : c.box = [n]
  extent : c.extent = [n]
  stride : c.stride = [1]
  targets : c.targets = [c.sg]

/-- Bytes of a plain copy that go to a destination sector. -/
def Copy.bytesOf (c : Copy) (n w : Nat) : List Nat := (List.range n).filter (fun i => (c.dst + i) / 64 == w)

/-- What those bytes leave at their destination. -/
def Copy.cellsOf (c : Copy) (n w : Nat) (g : Segment) : List (Nat × Byte) := (c.bytesOf n w).map (fun i => (c.dst + i, g.scratch.read (c.src + i)))

/-- What it takes for them from its source. -/
def Copy.readsOf (c : Copy) (n w : Nat) (g : Segment) : List (Nat × Nat × List Byte) := (c.bytesOf n w).map (fun i => (i, 0, [g.scratch.read (c.src + i)]))

theorem Copy.codes_readsOf (c : Copy) (n w : Nat) (g : Segment) : ∀ x ∈ (c.readsOf n w g).map (fun e => e.2.1), x = 0 := by simp [Copy.readsOf]

theorem Copy.mem_bytesOf (c : Copy) (n w i : Nat) : i ∈ c.bytesOf n w ↔ i < n ∧ (c.dst + i) / 64 = w := by simp [Copy.bytesOf]

/-- A map over options of which none is missing. -/
theorem mapM_eq_map {α β : Type} {f : α → Option β} {g : α → β} {l : List α} (h : ∀ x ∈ l, f x = some (g x)) : l.mapM f = some (l.map g) := by
  induction l with
  | nil => rfl
  | cons x r ih =>
    rw [List.mapM_cons, h x (by simp), ih (fun y hy => h y (by simp [hy]))]
    rfl

section
variable {c : Copy} {n : Nat} (hp : c.Plain n)
include hp

theorem Copy.Plain.places_eq : c.places = some ((List.range n).map (fun i => (i, some i))) := by
  simp [Copy.places, hp.layout, Copy.count, prod, hp.box, hp.dtag, hp.esz, elemBytes]

theorem Copy.Plain.off_eq {i : Nat} (hi : i < n) : c.off? i = some (i : Int) := by
  simp [Copy.off?, Copy.coords, hp.start, hp.box, hp.extent, hp.stride, unrank, isum, Nat.mod_eq_of_lt hi, hi]

theorem Copy.Plain.copySrc_eq (s : State) {i : Nat} (hi : i < n) : s.copySrc c i = some (c.src + i) := by
  simp only [State.copySrc, hp.off_eq hi, Option.map_some, hp.skind, State.copyBase, one_ne_zero, if_false]
  rfl

theorem Copy.Plain.stagePlaces_eq {i w : Nat} (hw : c.sectors[i]? = some w) : c.stagePlaces i = (c.bytesOf n w).map (fun j => (j, some j)) := by
  rw [Copy.stagePlaces, hp.mcast, if_neg Bool.false_ne_true, hp.places_eq, hw, Option.getD_some, List.filter_map, Copy.bytesOf]
  congr 1
  refine List.filter_congr fun j _ => ?_
  simp [Copy.sectorOf, hp.dkind, eq_comm]

theorem Copy.Plain.placeRanges_eq (s : State) (l : List (Nat × Option Nat)) : s.placeRanges c l = [] := by
  rw [State.placeRanges, hp.skind, if_neg one_ne_zero]

/-- A source byte that no tile is filling. -/
theorem Copy.Plain.copyElem_eq {s : State} {g : Segment} (hg : look s.segs c.sg = some g) (hpoison : g.poison = []) (op : Op) {i : Nat} (hi : i < n)
    (ht : g.tileHas (c.src + i) 1 [.filling] = false) : s.copyElem op c i = some (0, [g.scratch.read (c.src + i)]) := by
  have hclean (a : Nat) : s.scrPoison c.sg a = false := by rw [State.scrPoison_eq hg, hpoison]; rfl
  have hread : s.scrRead c.sg (c.src + i) 1 0 = [g.scratch.read (c.src + i)] := by
    simp only [State.scrRead, hg]
    rw [ht, if_neg Bool.false_ne_true]
    rfl
  simp only [State.copyElem, hp.copySrc_eq s hi, hp.skind, hp.stag, hp.esz, elemBytes, pow_zero, hclean, hread, one_ne_zero, Bool.or_self, Bool.false_eq_true, if_false, Option.map_some,
    hp.dtag, or_true, if_true]
  rfl

/-- What a stage of a plain copy reads. -/
theorem Copy.Plain.copyOut_eq {s : State} {g : Segment} (hg : look s.segs c.sg = some g) (hpoison : g.poison = []) (op : Op) (w : Nat)
    (ht : ∀ i, i < n → g.tileHas (c.src + i) 1 [.filling] = false) :
    s.copyOut op c ((c.bytesOf n w).map (fun j => (j, some j))) = some (c.readsOf n w g) := by
  rw [State.copyOut, mapM_eq_map (g := fun p => (p.1, 0, [g.scratch.read (c.src + p.1)])), List.map_map]
  · rfl
  · intro p hpm
    obtain ⟨i, hi, rfl⟩ := List.mem_map.1 hpm
    have hi := ((c.mem_bytesOf n w i).1 hi).1
    simp only [hp.copyElem_eq hg hpoison op hi (ht i hi), Option.map_some, hp.dkind]
    rfl

end

/-! ### Cells written to a scratchpad -/

/-- Cells that no tile being filled or drained holds stand in the scratchpad, and nothing else changes. -/
theorem State.foldl_scrCell {s : State} {q : SKey} {g : Segment} (hg : look s.segs q = some g) {cells : List (Nat × Byte)} (h : ∀ e ∈ cells, g.tileHas e.1 1 [.filling, .draining] = false) :
    cells.foldl (fun t e => t.scrWrite q e.1 [e.2] (e.1 % 64)) s = { s with segs := put s.segs q { g with scratch := g.scratch.cells cells } } := by
  induction cells generalizing s g with
  | nil => exact congrArg (fun m => { s with segs := m }) (put_of_look hg).symm
  | cons e r ih =>
    obtain ⟨he, hr⟩ := List.forall_mem_cons.1 h
    rw [List.foldl_cons, State.scrWrite_eq hg (e.1 % 64) he, ih (s := { s with segs := put s.segs q (g.store e.1 [e.2]) }) (look_put _ _ _) hr]
    exact congrArg (fun m => { s with segs := m }) (put_put ..)

/-- As before, of a scratchpad without poison. -/
theorem State.scrCells_eq {s : State} {q : SKey} {g : Segment} (hg : look s.segs q = some g) (hpoison : g.poison = []) {cells : List (Nat × Byte)}
    (h : ∀ e ∈ cells, g.tileHas e.1 1 [.filling, .draining] = false) :
    look (s.scrCells q cells false).segs q = some { g with scratch := g.scratch.cells cells } ∧ (s.scrCells q cells false).ops = s.ops ∧ (s.scrCells q cells false).mem = s.mem := by
  unfold State.scrCells
  rw [if_neg Bool.false_ne_true, State.foldl_scrCell hg h]
  refine ⟨?_, rfl, rfl⟩
  refine (upd_some _ (look_put _ _ _)).trans (congrArg some ?_)
  have hclean (p : Nat → Bool) : g.poison.filter p = g.poison := by rw [hpoison]; rfl
  exact congrArg (fun l => ({ g with scratch := g.scratch.cells cells, poison := l } : Segment)) (hclean _)

section
variable {s : State} {c : Copy} {n : Nat} {g : Segment} (hp : c.Plain n) (hg : look s.segs c.sg = some g) (hpoison : g.poison = [])
include hp hg hpoison

/-- What a stage of a plain copy writes. -/
theorem Copy.Plain.copyWrite_eq (o i w : Nat) (ht : ∀ i, i < n → g.tileHas (c.dst + i) 1 [.filling, .draining] = false) :
    ∃ t, s.copyWrite o i c (goodElems (c.readsOf n w g)) = t ∧ look t.segs c.sg = some { g with scratch := g.scratch.cells (c.cellsOf n w g) } ∧
      t.ops = s.ops ∧ t.mem = s.mem := by
  have helems : (goodElems (c.readsOf n w g)).flatten.map (fun x => (c.dst + x.1, x.2)) = c.cellsOf n w g := by
    rw [Copy.cellsOf, Copy.readsOf]
    induction c.bytesOf n w with
    | nil => rfl
    | cons j r ih => exact congrArg _ ih
  have hcells : ∀ e ∈ c.cellsOf n w g, g.tileHas e.1 1 [.filling, .draining] = false := by
    intro e he
    obtain ⟨j, hj, rfl⟩ := List.mem_map.1 he
    exact ht j ((c.mem_bytesOf n w j).1 hj).1
  refine ⟨_, rfl, ?_⟩
  have hto : s.targetsAt c i = [c.sg] := by rw [State.targetsAt, hp.mcast, if_neg Bool.false_ne_true, hp.targets]
  simp only [State.copyWrite, hp.dkind, hto, helems, List.foldl_cons, List.foldl_nil]
  exact State.scrCells_eq hg hpoison hcells

end

/-! ### A stage of a plain copy -/

theorem worst_of_zero {l : List Nat} (h : ∀ x ∈ l, x = 0) : worst l = 0 := by
  rw [worst, List.filter_eq_nil_iff.2 (fun x hx => by simp [h x hx])]
  rfl

theorem State.eCount_nil (s : State) : s.eCount [] = s := rfl

/-- No range of object space blocks a plain copy. -/
theorem Copy.Plain.copyMay_eq {s : State} {c : Copy} {n : Nat} (hp : c.Plain n) {o : Nat} {op : Op} (hst : op.st = .pending) (harmed : op.armed = false) (hcancel : op.cancel = false)
    (hout : op.outcome = none) : s.copyMay o op c = true := by
  have hnone : c.writesAt op.stage = [] := by rw [Copy.writesAt, hp.dkind, if_neg one_ne_zero]
  simp only [State.copyMay, hst, harmed, hcancel, hout, hp.skind, State.copyBlocked, hnone, hp.placeRanges_eq]
  rfl

/-- A plain copy reads nothing of object space. -/
theorem Copy.Plain.freshRanges_eq (s : State) {c : Copy} {n : Nat} (hp : c.Plain n) (i : Nat) : s.freshRanges c i = [] := by
  simp only [State.freshRanges, hp.placeRanges_eq]
  rfl

section
variable {s : State} {c : Copy} {n o w : Nat} {op : Op} {g : Segment} (hp : c.Plain n) (hop : look s.ops o = some op) (hacks : op.acks = 0)
  (hcodes : op.codes = [] ∨ op.codes = [0]) (hg : look s.segs c.sg = some g) (hpoison : g.poison = [])
include hp hop hacks hcodes hg hpoison

/-- A stage of a plain copy writes its sector; after the last one the copy ends. -/
theorem Copy.Plain.copyMove_eq (ht : ∀ i, i < n → g.tileHas (c.dst + i) 1 [.filling, .draining] = false) :
    ∃ t codes, look t.segs c.sg = some { g with scratch := g.scratch.cells (c.cellsOf n w g) } ∧ look t.ops o = some { op with stage := op.stage + 1, codes := codes, buf := [] } ∧ t.mem = s.mem ∧
      s.copyMove o op c (c.readsOf n w g) = if op.stage + 1 < c.sectors.length then t else t.copyEnd o c .done := by
  obtain ⟨u, hu, hseg, hops, hmem⟩ := hp.copyWrite_eq hg hpoison o op.stage w ht
  have hzero : ∀ x ∈ (op.codes ++ (c.readsOf n w g).map (fun e => e.2.1)).eraseDups, x = 0 := by
    intro x hx
    rcases List.mem_append.1 (List.mem_eraseDups.1 hx) with hx | hx
    · rcases hcodes with h | h <;> simp_all
    · exact c.codes_readsOf n w g x hx
  generalize hcs : (op.codes ++ (c.readsOf n w g).map (fun e => e.2.1)).eraseDups = codes at hzero
  have hlook : look (u.onOp o (fun x => { x with stage := op.stage + 1, codes := (codes ++ x.codes).eraseDups, buf := [] })).ops o =
      some { op with stage := op.stage + 1, codes := (codes ++ op.codes).eraseDups, buf := [] } := upd_some _ (by rw [hops]; exact hop)
  refine ⟨u.onOp o (fun x => { x with stage := op.stage + 1, codes := (codes ++ x.codes).eraseDups, buf := [] }), _, hseg, hlook, hmem, ?_⟩
  simp only [State.copyMove, hp.mcast, Bool.false_and, Bool.false_eq_true, false_and, if_false, hp.freshRanges_eq, State.eCount_nil, hu, hcs, State.copyStages, hlook, Option.elim_some, hacks,
    worst_of_zero hzero]
  rfl

end

/-! ### COPY_COMPLETE and CANCEL_BOUNDARY -/

theorem exec_copyComplete_moves {s : State} {o : Nat} {op : Op} {c : Copy} {out : List (Nat × Nat × List Byte)} (harg : s.arg = .num o) (hop : look s.ops o = some op) (hk : op.kind = .copy c)
    (hmay : s.copyMay o op c = true) (hnone : op.outcome = none) (hm : c.mcast = false) (hout : s.copyOut op c (c.stagePlaces op.stage) = some out) :
    exec .copyComplete s = .next (s.copyMove o op c out) := by
  change execCopyComplete s = _
  simp only [execCopyComplete, harg, hop, hk, hmay, hnone, hm, Bool.false_eq_true, false_and, if_false, if_true, hout]

theorem exec_copyComplete_ends {s : State} {o : Nat} {op : Op} {c : Copy} {st : OpState} (harg : s.arg = .num o) (hop : look s.ops o = some op) (hk : op.kind = .copy c)
    (hmay : s.copyMay o op c = true) (hout : op.outcome = some st) : exec .copyComplete s = .next (s.copyEnd o c (op.copyOutcome st)) := by
  change execCopyComplete s = _
  simp only [execCopyComplete, harg, hop, hk, hmay, hout, if_true]

/-- A copy that ends leaves its outcome, memory as it was and, between scratchpads, the scratchpads too. -/
theorem State.copyEnd_look {s : State} {o : Nat} {op : Op} {c : Copy} (hop : look s.ops o = some op) (hst : op.st = .pending) (st : OpState) :
    look (s.copyEnd o c st).ops o = some { op with st := st, outcome := none } ∧ (s.copyEnd o c st).mem = s.mem ∧ (c.dkind ≠ 2 → c.skind ≠ 2 → (s.copyEnd o c st).segs = s.segs) := by
  obtain ⟨t, hstands, htable⟩ := s.copyEnd_eq o c st
  refine ⟨?_, htable.mem.trans hstands.mem, fun hd hs => htable.segs.trans (hstands.segs hd hs)⟩
  rw [htable.ops]
  refine (upd_some _ (by rw [hstands.ops]; exact hop)).trans (congrArg some ?_)
  rw [Op.copyEnded, if_pos hst]

section
variable {s : State} {o : Nat} {op : Op} (harg : s.arg = .num o) (hop : look s.ops o = some op)
include harg hop

theorem exec_cancelBoundary_copy {c : Copy} (hb : op.atBoundary = true) (hk : op.kind = .copy c) :
    exec .cancelBoundary s = .next (if op.acks = 0 then s.copyEnd o c (.failed 0 true) else s.onOp o (fun x => { x with outcome := some (.failed 0 true) })) := by
  change execCancelBoundary s = _
  simp only [execCancelBoundary, harg, hop, hb, hk, if_true]

theorem exec_cancelBoundary_red {c : Red} (hb : op.atBoundary = true) (hk : op.kind = .red c) : exec .cancelBoundary s = .next ((s.departFrames o).resolve o (.failed 0 true)) := by
  change execCancelBoundary s = _
  simp only [execCancelBoundary, harg, hop, hb, hk, if_true]

end

end Sys2Proof.Machine

open Sys2Proof Sys2Proof.Machine in
/-- Settles O37: a stage of a plain copy writes the cells of its sector, and a copy that ends changes its own operation's state alone. -/
theorem copySteps : Obligations.CopySteps := by
  unfold Obligations.CopySteps
  refine ⟨?moves, ?ends, ?stops⟩
  case moves =>
    intro s o n w op c g hm harg hop hk hst harmed hcancel hout hacks hcodes hg hskind hdkind hmcast hstag hdtag hesz hdsz hlay hnotify hstart hbox hext hstride htargets hpoison htiles hw
    have hp : c.Plain n := ⟨hskind, hdkind, hmcast, hstag, hdtag, hesz, hdsz, hlay, hstart, hbox, hext, hstride, htargets⟩
    have hread : s.copyOut op c (c.stagePlaces op.stage) = _ := (congrArg _ (hp.stagePlaces_eq hw)).trans (hp.copyOut_eq hg hpoison op w (fun i hi => (htiles i hi).1))
    obtain ⟨t, codes, hseg, hlook, hmem, hmove⟩ := hp.copyMove_eq (w := w) hop hacks hcodes hg hpoison (fun i hi => (htiles i hi).2)
    have hexec := (exec_copyComplete_moves harg hop hk (hp.copyMay_eq hst harmed hcancel hout) hout hmcast hread).trans (congrArg Host.Outcome.next hmove)
    have hwf := State.scratch_wf_of_memOk hm hg
    have hbytes : ∀ i, i < n → (c.dst + i) / 64 = w → (g.scratch.cells (c.cellsOf n w g)).read (c.dst + i) = g.scratch.read (c.src + i) := by
      intro i hi hiw
      refine Memory.read_cells_agree hwf (c := (c.dst + i, g.scratch.read (c.src + i))) (List.mem_map.2 ⟨i, (c.mem_bytesOf n w i).2 ⟨hi, hiw⟩, rfl⟩) ?_
      intro e he hadr
      obtain ⟨j, _, rfl⟩ := List.mem_map.1 he
      rw [Nat.add_left_cancel hadr]
    have hrest : ∀ a, (a / 64 ≠ w ∨ a < c.dst ∨ c.dst + n ≤ a) → (g.scratch.cells (c.cellsOf n w g)).read a = g.scratch.read a := by
      intro a ha
      refine Memory.read_cells_other hwf a _ ?_
      intro e he hadr
      obtain ⟨j, hj, rfl⟩ := List.mem_map.1 he
      obtain ⟨hjn, hjw⟩ := (c.mem_bytesOf n w j).1 hj
      subst hadr
      dsimp only at ha
      omega
    by_cases hlast : op.stage + 1 < c.sectors.length
    · rw [if_pos hlast] at hexec
      exact ⟨t, _, _, hexec, hseg, hlook, hmem, hbytes, hrest, fun _ => ⟨hst, rfl⟩, fun h => absurd h (Nat.ne_of_lt hlast)⟩
    · rw [if_neg hlast] at hexec
      obtain ⟨hend, hendmem, hendsegs⟩ := State.copyEnd_look (c := c) hlook hst .done
      exact ⟨_, _, _, hexec, (congrArg (look · c.sg) (hendsegs (by simp [hdkind]) (by simp [hskind]))).trans hseg, hend, hendmem.trans hmem, hbytes, hrest, fun h => absurd h hlast, fun _ => rfl⟩
  case ends =>
    intro s o op c st harg hop hk hmay hout
    exact exec_copyComplete_ends harg hop hk hmay hout
  case stops =>
    intro s o op harg hop hcancel hst harmed hout
    have hstands : ∀ {b : Bool}, (op.cancel && decide (op.st = .pending) && !op.armed && op.outcome.isNone && b) = b := by simp [hcancel, hst, harmed, hout]
    refine ⟨fun c hk => ⟨fun hacks => ?_, fun hacks => ?_⟩, fun c hk hacks => ?_⟩
    · have hb : op.atBoundary = true := by rw [Op.atBoundary, hstands, hk]
      obtain ⟨hend, hmem, -⟩ := State.copyEnd_look (c := c) hop hst (.failed 0 true)
      exact ⟨_, _, (exec_cancelBoundary_copy harg hop hb hk).trans (by rw [if_pos hacks]), hend, rfl, hmem⟩
    · have hb : op.atBoundary = true := by rw [Op.atBoundary, hstands, hk]
      exact (exec_cancelBoundary_copy harg hop hb hk).trans (by rw [if_neg hacks])
    · have hb : op.atBoundary = true := by rw [Op.atBoundary, hstands, hk]
      obtain ⟨hlook, hmem⟩ := State.departed_look hop hst hacks (.failed 0 true)
      exact ⟨_, _, exec_cancelBoundary_red harg hop hb hk, hlook, rfl, hmem⟩

/-! PROOFS, 07 R223, 15 R353 to R365: moves, invalidations, affinity and the gleaner. -/

namespace Sys2Proof.Machine

/-! ### What leaves the descriptors alone -/

/-- From s to t the descriptors of objects and the committed bytes stand. -/
structure State.ObjsStand (s t : State) : Prop where
  objs : t.objs = s.objs
  mem : t.mem = s.mem

section
variable {s t u : State}

theorem State.ObjsStand.refl (s : State) : s.ObjsStand s := ⟨rfl, rfl⟩

theorem State.ObjsStand.trans (hst : s.ObjsStand t) (htu : t.ObjsStand u) : s.ObjsStand u := ⟨htu.objs.trans hst.objs, htu.mem.trans hst.mem⟩

theorem State.ObjsStand.foldl {α : Type} {f : State → α → State} (hf : ∀ (t : State) (x : α), t.ObjsStand (f t x)) (l : List α) (s : State) : s.ObjsStand (l.foldl f s) := by
  induction l generalizing s with
  | nil => exact .refl s
  | cons x r ih => exact (hf s x).trans (ih _)

theorem State.AtFabric.objsStand (h : s.AtFabric t) : s.ObjsStand t := ⟨by rw [h.rest], h.mem⟩
theorem State.AtTable.objsStand (h : s.AtTable t) : s.ObjsStand t := ⟨by rw [h.rest], h.mem⟩
theorem State.AtIssuer.objsStand (h : s.AtIssuer t) : s.ObjsStand t := h.atTable.objsStand
theorem State.AbortsOnly.objsStand (h : s.AbortsOnly t) : s.ObjsStand t := ⟨by rw [h.rest], by rw [h.rest]⟩

theorem State.respond_atFabric (s : State) (p : Packet) (status id epoch : Nat) (vals : List Word) (data : List Byte) : s.AtFabric (s.respond p status id epoch vals data) :=
  s.enqueue_atFabric _

theorem State.askChip_atFabric (s : State) (chip id : Nat) (cmd : ObjCmd) (r : Reply) : s.AtFabric (s.askChip chip id cmd r) := s.request_atFabric _ _

theorem State.resolve_objsStand (s : State) (o : Nat) (st : OpState) : s.ObjsStand (s.resolve o st) := ⟨rfl, rfl⟩

theorem State.nbxEnd_objsStand (s : State) (o : Nat) (st : OpState) : s.ObjsStand (s.nbxEnd o st) := by
  unfold State.nbxEnd
  split
  · exact s.resolve_objsStand o st
  · exact .trans (t := { s with ops := del s.ops o }) ⟨rfl, rfl⟩ (State.respond_atFabric _ _ _ _ _ _ _).objsStand

theorem State.endCommand_objsStand (s : State) (n status : Nat) (vals : List Word) : s.ObjsStand (s.endCommand n status vals) := by
  unfold State.endCommand
  split
  · exact .refl s
  · split
    · exact (State.ObjsStand.foldl (fun u e => (u.destMod_atTable _ _ _ _ _).objsStand) _ s).trans (State.partDone_atTable _ _ _).objsStand
    · exact .refl s

/-- The answer to an object command goes to a transaction, an operation or a packet. -/
theorem State.answerObj_objsStand (s : State) (a : Asker) (id status : Nat) (vals : List Word) : s.ObjsStand (s.answerObj a id status vals) := by
  cases a with
  | txn n => exact s.endCommand_objsStand n status vals
  | op o => exact s.nbxEnd_objsStand o _
  | packet p => exact (s.respond_atFabric _ _ _ _ _ _).objsStand

theorem State.asking_objsStand (s : State) (a : Asker) : s.ObjsStand (s.asking a) := by
  cases a <;> exact ⟨rfl, rfl⟩

theorem State.endScan_objsStand (s : State) (o : Nat) (c : Scan) (st : OpState) : s.ObjsStand (s.endScan o c st) := by
  unfold State.endScan
  extract_lets close
  have hclose : s.ObjsStand (c.tile.elim s close) := by
    cases c.tile with
    | none => exact .refl s
    | some n =>
      dsimp only [Option.elim_some, close]
      split <;> exact ⟨rfl, rfl⟩
  obtain ⟨v, hv, hdepart⟩ := (c.tile.elim s close).departFrames_eq o
  refine hclose.trans (.trans (t := (c.tile.elim s close).departFrames o) ?_ ⟨rfl, rfl⟩)
  rw [hdepart]
  exact hv.objsStand.trans ⟨rfl, rfl⟩

theorem State.copyEnd_objsStand (s : State) (o : Nat) (c : Copy) (st : OpState) : s.ObjsStand (s.copyEnd o c st) := by
  obtain ⟨t, hstands, htable⟩ := s.copyEnd_eq o c st
  exact .trans (t := t.onOp o (Op.copyEnded st)) ⟨hstands.objs, hstands.mem⟩ htable.objsStand

theorem State.revokeFills_objsStand (s : State) (id : Nat) : s.ObjsStand (s.revokeFills id) := by
  refine State.ObjsStand.foldl (fun t e => ?_) _ s
  split
  · split
    · split
      · exact t.copyEnd_objsStand _ _ _
      · exact .refl t
    · split
      · exact t.endScan_objsStand _ _ _
      · exact .refl t
    · exact .refl t
  · exact .refl t

theorem State.nextMigRow_atFabric (s : State) (id : Nat) : s.AtFabric (s.nextMigRow id) := by
  unfold State.nextMigRow
  split
  · exact .refl s
  · next d _ =>
    cases d.mig.elim none (fun m => m.rows.head?) with
    | none => exact .refl s
    | some r => exact s.arriveRow_atFabric (.migrate id (r / 32) (d.frame0 * 32 + r))

end

/-! ### Properties of descriptors through a fold -/

/-- A step for each of a list of objects, which gives the object's descriptor a property that the step keeps. -/
theorem State.foldl_objs {P Q : Desc → Prop} {f : State → Nat → State} (hPQ : ∀ d, P d → Q d)
    (hself : ∀ t x d, look t.objs x = some d → Q d → ∃ e, look (f t x).objs x = some e ∧ P e) (hother : ∀ t x y, y ≠ x → look (f t x).objs y = look t.objs y) (l : List Nat) (s : State) (y : Nat)
    (h : ∃ d, look s.objs y = some d ∧ Q d ∧ (y ∈ l ∨ P d)) : ∃ d, look (l.foldl f s).objs y = some d ∧ P d := by
  induction l generalizing s with
  | nil =>
    obtain ⟨d, hd, -, hP⟩ := h
    exact ⟨d, hd, hP.resolve_left List.not_mem_nil⟩
  | cons x r ih =>
    obtain ⟨d, hd, hQ, hP⟩ := h
    refine ih (f s x) ?_
    by_cases hy : y = x
    · subst hy
      obtain ⟨e, he, hPe⟩ := hself s y d hd hQ
      exact ⟨e, he, hPQ e hPe, .inr hPe⟩
    · refine ⟨d, (hother s x y hy).trans hd, hQ, ?_⟩
      rcases hP with hmem | hP
      · exact .inl ((List.mem_cons.1 hmem).resolve_left hy)
      · exact .inr hP

theorem State.foldl_mem {α : Type} {f : State → α → State} (hf : ∀ t x, (f t x).mem = t.mem) (l : List α) (s : State) : (l.foldl f s).mem = s.mem := by
  induction l generalizing s with
  | nil => rfl
  | cons x r ih => exact (ih _).trans (hf s x)

section
variable {s : State}

theorem State.onMig_look {x : Nat} {d : Desc} (f : Migration → Migration) (h : look s.objs x = some d) : look (s.onMig x f).objs x = some { d with mig := d.mig.map f } := upd_some _ h

theorem State.onMig_look_ne {x y : Nat} (f : Migration → Migration) (h : y ≠ x) : look (s.onMig x f).objs y = look s.objs y := look_upd_ne _ _ h

theorem State.sendRow_look_ne {x y : Nat} (dest row : Nat) (h : y ≠ x) : look (s.sendRow x dest row).objs y = look s.objs y := by
  unfold State.sendRow
  rw [((State.request_atFabric _ _ _).objsStand).objs, State.onMig_look_ne _ h]

theorem State.sendRow_mem (x dest row : Nat) : (s.sendRow x dest row).mem = s.mem := by
  unfold State.sendRow
  rw [(State.request_atFabric _ _ _).mem]
  rfl

theorem State.sendRow_look {x : Nat} {d : Desc} (dest row : Nat) (h : look s.objs x = some d) :
    look (s.sendRow x dest row).objs x = some { d with mig := d.mig.map (fun m => { m with sent := m.sent + 1 }) } := by
  unfold State.sendRow
  rw [((State.request_atFabric _ _ _).objsStand).objs]
  exact State.onMig_look _ h

/-! ### The members of a migration -/

theorem State.leads_look {lead : Nat} {m : Migration} (h : s.leads lead = some m) : ∃ d, look s.objs lead = some d ∧ d.mig = some m ∧ m.lead = lead := by
  unfold State.leads at h
  cases hd : look s.objs lead with
  | none => simp [hd] at h
  | some d =>
    cases hm : d.mig with
    | none => simp [hd, hm] at h
    | some x =>
      simp only [hd, Option.elim_some, hm] at h
      split at h
      · next hl =>
        cases h
        exact ⟨d, rfl, hm, hl⟩
      · exact absurd h (by simp)

theorem State.leads_moving {lead : Nat} {m : Migration} (h : s.leads lead = some m) : lead ∈ s.moving lead := by
  obtain ⟨d, hd, hm, hl⟩ := State.leads_look h
  refine List.mem_map.2 ⟨(lead, d), List.mem_filter.2 ⟨look_mem hd, ?_⟩, rfl⟩
  simp [hm, hl]

/-- In a pass that is over every member is in bulk copy. -/
theorem State.passOver_bulk {lead : Nat} (h : s.passOver lead = true) : ∀ x ∈ s.moving lead, ∃ d, look s.objs x = some d ∧ ∃ m, d.mig = some m ∧ m.stage = .bulk := by
  intro x hx
  have hall := List.all_eq_true.1 (Bool.and_eq_true_iff.1 h).2 x hx
  cases hd : look s.objs x with
  | none => simp [hd] at hall
  | some d =>
    cases hm : d.mig with
    | none => simp [hd, hm] at hall
    | some m =>
      simp only [hd, hm, Option.elim_some, Bool.and_eq_true, beq_iff_eq] at hall
      exact ⟨d, rfl, m, hm, hall.1⟩

/-! ### Abandoned migrations and final copies -/

theorem State.releaseHold_objsStand (s : State) (id : Nat) : s.ObjsStand (s.releaseHold id) := ⟨rfl, rfl⟩

/-- A granary that hears of a migration changes its entry alone. -/
theorem State.tellGranary_objsStand (s : State) (id : Nat) (on : Bool) : s.ObjsStand (s.atGranary id (.migrating on) .ignore (fun u _ _ => u)) := by
  unfold State.atGranary
  split
  · exact ⟨rfl, rfl⟩
  · exact (s.askChip_atFabric _ _ _ _).objsStand

/-- An abandoned migration leaves its members without one, and memory as it was. -/
theorem State.abandon_spec (lead status : Nat) : (s.abandon lead status).mem = s.mem ∧
    ((∀ x ∈ s.moving lead, ∃ d, look s.objs x = some d) → ∀ x ∈ s.moving lead, ∃ d, look (s.abandon lead status).objs x = some d ∧ d.mig = none) := by
  unfold State.abandon
  extract_lets all a t
  have hend : t.ObjsStand (a.elim t (fun a => t.answerObj a lead status [])) := by
    cases a with
    | none => exact .refl t
    | some a => exact t.answerObj_objsStand a lead status []
  rw [hend.mem, hend.objs]
  refine ⟨State.foldl_mem (fun t x => ?_) _ s, fun hall x hx => ?_⟩
  · split
    · rfl
    · exact ((State.askChip_atFabric _ _ _ _ _).objsStand.trans ((State.tellGranary_objsStand _ _ _).trans (State.releaseHold_objsStand _ _))).mem
  · obtain ⟨d, hd⟩ := hall x hx
    refine State.foldl_objs (Q := fun _ => True) (fun _ _ => trivial) (fun t x d hd _ => ?_) (fun t x y hy => ?_) _ s x ⟨d, hd, trivial, .inl hx⟩
    · split
      · next hnone => exact ⟨d, hd, by simpa [hd] using hnone⟩
      · next m _ =>
        rw [((State.askChip_atFabric _ _ _ _ _).objsStand.trans ((State.tellGranary_objsStand _ _ _).trans (State.releaseHold_objsStand _ _))).objs]
        exact ⟨_, upd_some _ hd, rfl⟩
    · split
      · rfl
      · rw [((State.askChip_atFabric _ _ _ _ _).objsStand.trans ((State.tellGranary_objsStand _ _ _).trans (State.releaseHold_objsStand _ _))).objs]
        exact look_upd_ne _ _ hy

/-- The rows that a member sends leave its migration, which counts them, and the other members. -/
theorem State.sendRows_spec (x dest : Nat) (rows : List Nat) : (rows.foldl (fun u r => u.sendRow x dest r) s).mem = s.mem ∧
    (∀ d, look s.objs x = some d → ∃ e, look (rows.foldl (fun u r => u.sendRow x dest r) s).objs x = some e ∧ e.mig.isSome = d.mig.isSome) ∧
    (∀ y, y ≠ x → look (rows.foldl (fun u r => u.sendRow x dest r) s).objs y = look s.objs y) := by
  induction rows generalizing s with
  | nil => exact ⟨rfl, fun d hd => ⟨d, hd, rfl⟩, fun _ _ => rfl⟩
  | cons r rows ih =>
    obtain ⟨hmem, hself, hother⟩ := ih (s := s.sendRow x dest r)
    refine ⟨hmem.trans (s.sendRow_mem x dest r), fun d hd => ?_, fun y hy => (hother y hy).trans (State.sendRow_look_ne dest r hy)⟩
    obtain ⟨e, he, hsome⟩ := hself _ (State.sendRow_look dest r hd)
    exact ⟨e, he, hsome.trans (by simp)⟩

/-- The final copy of a cut-over. -/
theorem State.finalCopy_spec (lead : Nat) : (s.finalCopy lead).mem = s.mem ∧
    ∀ x ∈ s.moving lead, (∃ d, look s.objs x = some d ∧ d.mig.isSome = true) → ∃ d, look (s.finalCopy lead).objs x = some d ∧ ∃ y, d.mig = some y ∧ y.stage = .finalCopy ∧ y.dirty = [] := by
  have habort : s.ObjsStand (s.abortObjects (s.moving lead)) := (s.abortAll_abortsOnly _).objsStand
  unfold State.finalCopy
  refine ⟨(State.foldl_mem (fun t x => ?_) _ _).trans habort.mem, fun x hx hsome => ?_⟩
  · split
    · rfl
    · split
      · rfl
      · next m _ => exact (State.sendRows_spec x m.dest _).1
  · rw [← habort.objs] at hsome
    obtain ⟨d, hd, hmig⟩ := hsome
    refine State.foldl_objs (P := fun d => ∃ y, d.mig = some y ∧ y.stage = .finalCopy ∧ y.dirty = []) (Q := fun d => d.mig.isSome = true) ?keeps ?self ?other _ _ x ⟨d, hd, hmig, .inl hx⟩
    case keeps =>
      rintro d ⟨y, hy, -⟩
      rw [hy]
      rfl
    case self =>
      intro t x d hd hmig
      obtain ⟨m, hm⟩ := Option.isSome_iff_exists.1 hmig
      simp only [hd, hm]
      obtain ⟨-, hself, -⟩ := State.sendRows_spec (s := t) x m.dest (rowsOfFrames d.len m.dirty)
      obtain ⟨e, he, hsome⟩ := hself d hd
      rw [hmig] at hsome
      obtain ⟨n, hn⟩ := Option.isSome_iff_exists.1 hsome
      exact ⟨_, State.onMig_look _ he, { n with stage := .finalCopy, dirty := [] }, by rw [hn]; rfl, rfl, rfl⟩
    case other =>
      intro t x y hy
      split
      · rfl
      · split
        · rfl
        · next m _ => exact (State.onMig_look_ne _ hy).trans ((State.sendRows_spec x m.dest _).2.2 y hy)

end

end Sys2Proof.Machine

namespace Sys2Proof.Machine

/-! ### Affinity -/

/-- From s to t the affinity counts of every object stand, as do the instant of their halving and memory. -/
structure State.CountsStand (s t : State) : Prop where
  halvedAt : t.halvedAt = s.halvedAt
  mem : t.mem = s.mem
  counts : ∀ id d, look s.objs id = some d → ∃ e, look t.objs id = some e ∧ e.localCount = d.localCount ∧ e.slots = d.slots

section
variable {s t u : State}

theorem State.CountsStand.refl (s : State) : s.CountsStand s := ⟨rfl, rfl, fun _ d hd => ⟨d, hd, rfl, rfl⟩⟩

theorem State.CountsStand.trans (hst : s.CountsStand t) (htu : t.CountsStand u) : s.CountsStand u where
  halvedAt := htu.halvedAt.trans hst.halvedAt
  mem := htu.mem.trans hst.mem
  counts := fun id d hd => by
    obtain ⟨e, he, hlocal, hslots⟩ := hst.counts id d hd
    obtain ⟨f, hf, hlocal', hslots'⟩ := htu.counts id e he
    exact ⟨f, hf, hlocal'.trans hlocal, hslots'.trans hslots⟩

theorem State.CountsStand.foldl {α : Type} {f : State → α → State} (hf : ∀ (t : State) (x : α), t.CountsStand (f t x)) (l : List α) (s : State) : s.CountsStand (l.foldl f s) := by
  induction l generalizing s with
  | nil => exact .refl s
  | cons x r ih => exact (hf s x).trans (ih _)

theorem State.AtFabric.countsStand (h : s.AtFabric t) : s.CountsStand t := by
  rw [h.rest]
  exact ⟨rfl, rfl, fun _ d hd => ⟨d, hd, rfl, rfl⟩⟩

/-- A descriptor that keeps its counts is put in place of an object's own. -/
theorem State.putObj_countsStand {x : Nat} {d e : Desc} (hd : look s.objs x = some d) (hlocal : e.localCount = d.localCount) (hslots : e.slots = d.slots) :
    s.CountsStand { s with objs := put s.objs x e } := by
  refine ⟨rfl, rfl, fun id c hc => ?_⟩
  by_cases hx : id = x
  · subst hx
    obtain rfl : c = d := Option.some.inj (hc.symm.trans hd)
    exact ⟨e, look_put _ _ _, hlocal, hslots⟩
  · exact ⟨c, (look_put_ne _ _ hx).trans hc, rfl, rfl⟩

theorem State.startMigration_countsStand (s : State) (id dest : Nat) (a : Option Asker) : s.CountsStand (s.startMigration id dest a) := by
  unfold State.startMigration
  refine State.CountsStand.foldl (fun t x => ?_) _ s
  split
  · exact .refl t
  · next d hd =>
    extract_lets fs m
    exact (State.putObj_countsStand (e := { d with mig := some m }) hd rfl rfl).trans (State.askChip_atFabric _ _ _ _ _).countsStand

/-- A request for a migration changes no count. -/
theorem State.affinityAsk_countsStand (s : State) (lead : Nat) : s.CountsStand (s.affinityAsk lead) := by
  unfold State.affinityAsk
  split
  · exact .refl s
  · next d hd =>
    split
    · exact .refl s
    · split
      · exact .refl s
      · split
        · exact .refl s
        · extract_lets t
          have hput : s.CountsStand t := State.putObj_countsStand hd rfl rfl
          split
          · exact hput
          · exact hput.trans (t.startMigration_countsStand _ _ _)

end

/-! ### Object commands of an operation -/

/-- From s to t an operation has started: the issuer, the operations and the number of the next one. -/
structure State.Begins (s t : State) : Prop where
  rest : t = { s with groups := t.groups, seqs := t.seqs, ops := t.ops, nextOp := t.nextOp }

section
variable {s t : State}

theorem State.Begins.issuer {u : State} (hst : s.Begins t) (htu : t.AtIssuer u) : s.Begins u := ⟨by rw [htu.rest, hst.rest]⟩

theorem State.started_begins (k : Nat) (kind : OpKind) : s.Begins (s.started k kind) := .issuer (t := (s.newOp kind false).1) ⟨rfl⟩ (State.writeH_atIssuer _ _ _)

theorem State.started_nextOp (k : Nat) (kind : OpKind) : (s.started k kind).nextOp = s.nextOp + 1 := by
  have h := (s.newOp kind false).1.writeH_atIssuer k (.names (s.nextOp % 4294967296))
  exact (congrArg State.nextOp h.rest)

theorem State.started_look (k : Nat) (kind : OpKind) : look (s.started k kind).ops (s.nextOp % 4294967296) = some (s.opOf kind false) := by
  have h := (s.newOp kind false).1.writeH_atIssuer k (.names (s.nextOp % 4294967296))
  exact (congrArg (look · _) h.ops).trans (State.newOp_look kind false)

theorem State.Begins.objsStand (h : s.Begins t) : s.ObjsStand t := ⟨by rw [h.rest], by rw [h.rest]⟩

theorem State.Begins.route (h : s.Begins t) (fuel id off : Nat) : t.route fuel id off = s.route fuel id off := by
  rw [h.rest]
  induction fuel generalizing id off with
  | zero => rfl
  | succ fuel ih =>
    unfold State.route
    simp only [ih]

theorem State.Begins.objWaits (h : s.Begins t) (id : Nat) (cmd : ObjCmd) : t.objWaits id cmd = s.objWaits id cmd := by
  rw [h.rest]
  rfl

theorem State.Begins.moveRefused (h : s.Begins t) (id : Nat) : t.moveRefused id = s.moveRefused id := by
  rw [h.rest]
  rfl

end

/-- The identifier of a pointer in a pair of registers is all above its offset. -/
theorem ptrId_pair (lo hi : Word) : ptrId (pairVal lo hi) = pairVal lo hi / 2 ^ 34 := by
  have hlo := lo.isLt
  have hhi := hi.isLt
  unfold ptrId pairVal
  omega

section
variable {s : State} {p n off : Nat} {d : Desc} (hid : ptrId p = p / 2 ^ 34) (hr : s.route splitFuel (ptrId p) (ptrOff p) = .here n off d)
include hr

theorem State.origin_here : s.origin p = n := by rw [State.origin, hr]

include hid

theorem State.sendTo_here (hclosed : d.closed = false) : s.sendTo p = .here n off d := by
  have hroute : s.route splitFuel (p / 2 ^ 34) (p % 2 ^ 34) = .here n off d := by
    rw [← hid]
    exact hr
  rw [State.sendTo, hroute]
  exact if_neg (by simp [hclosed])

theorem State.objGo_here (hclosed : d.closed = false) (a : Asker) (cmd : ObjCmd) (hw : s.objWaits n cmd = false) : s.objGo a p cmd = s.objHere a n cmd := by
  rw [State.objGo, State.sendTo_here hid hr hclosed]
  exact if_neg (by simp [hw])

theorem State.objIsHere_here (hclosed : d.closed = false) : s.objIsHere p = true := by rw [State.objIsHere, State.sendTo_here hid hr hclosed]

end

section
variable {s : State}

theorem State.objHere_move {n : Nat} {d : Desc} (h : look s.objs n = some d) (a : Asker) (c : Word) : s.objHere a n (.move c) = s.moveObject a n d c := by
  rw [State.objHere, h]

theorem State.objHere_inval {n : Nat} {d : Desc} (h : look s.objs n = some d) (hp : 0 < d.pins) (a : Asker) : s.objHere a n .inval = s.beginInval a n d false := by
  rw [State.objHere, h]
  exact if_pos hp

theorem State.nbxEnd_own {o : Nat} {op : Op} (h : look s.ops o = some op) (hask : op.asker = none) (st : OpState) : s.nbxEnd o st = s.resolve o st := by
  unfold State.nbxEnd
  simp only [h, Option.elim_some, hask]

/-- An operation's answer ends it. -/
theorem State.answerObj_op {o : Nat} {op : Op} (h : look s.ops o = some op) (hst : op.st = .pending) (hacks : op.acks = 0) (hask : op.asker = none) (id status : Nat) (vals : List Word)
    (hne : status ≠ stoppedStatus) : look (s.answerObj (.op o) id status vals).ops o = some { op with st := endOf (statusCode status), outcome := none } := by
  rw [State.answerObj, if_neg hne, State.nbxEnd_own h hask]
  exact State.resolve_look h hst hacks (endOf (statusCode status))

theorem State.moveObject_refused {n : Nat} (h : s.moveRefused n = true) (a : Asker) (d : Desc) (c : Word) : s.moveObject a n d c = s.answerObj a n 3 [] := if_pos h

/-- A move to where the object stands already. -/
theorem State.moveObject_home {n : Nat} (h : s.moveRefused n = false) (a : Asker) (d : Desc) {c : Word} (hc : c.toNat = s.chipId) (hmax : c.toNat ≤ 4095) : s.moveObject a n d c = s.answerObj a n 0 [] := by
  have hne : c ≠ 0xFFFFFFFF := by
    rintro rfl
    exact absurd hmax (by decide)
  unfold State.moveObject
  simp only [h, Bool.false_eq_true, if_false, if_neg hne, if_pos hmax, if_pos hc]

end

end Sys2Proof.Machine

namespace Sys2Proof.Machine

/-! ### OMOVE and OINV -/

/-- A command that becomes an operation, with what it does as it issues. -/
theorem future_runs {s : State} {m : Bool} {k : BitVec 4} {row : Row} {names : List Nat} {own : List (Option Exc)} {kind : State → OpKind} {eff : State → Nat → State}
    (h : s.uniReady row true names names = true) (ho : ∀ x ∈ own, x = none) (hk : s.busyHandle k.toNat = none) :
    future s m row k names own kind eff = .next ((eff (s.started k.toNat (kind s)) (s.nextOp % 4294967296)).finish m 8) := by
  rw [future, uniJump_next h (firstExc_none ho), hk]
  rfl

section
variable {s : State} {m : Bool} {k : BitVec 4} {ga gb : BitVec 9} {p : Nat} (hp : s.readPair 0 ga.toNat = p) (hk : s.busyHandle k.toNat = none) (hreach : s.unreachable (ptrId p) = false)
include hp hk hreach

theorem exec_omove {c : Word} (hc : s.readU 1 gb.toNat = c) (h : s.uniReady .group true [ga.toNat, ga.toNat + 1, gb.toNat] [ga.toNat, ga.toNat + 1, gb.toNat] = true)
    (hchip : c.toNat ≤ 4095 → s.validChip c.toNat = true) :
    exec (.omove m k ga gb) s = .next (((s.started k.toNat (.omove (ptrId p) c)).objGo (.op (s.nextOp % 4294967296)) p (.move c)).finish m 8) := by
  change execOmove m k ga gb s = _
  unfold execOmove
  rw [hp, hc]
  refine future_runs h (List.forall_mem_cons.2 ⟨by simp [State.ptrExc, hreach, excIf], List.forall_mem_singleton.2 ?_⟩) hk
  by_cases hmax : c.toNat ≤ 4095 <;> simp [hmax, hchip, excIf]

theorem exec_oinv (h : s.uniReady .group true [ga.toNat, ga.toNat + 1] [ga.toNat, ga.toNat + 1] = true) :
    exec (.oinv m k ga) s = .next (((fun (t : State) (o : Nat) => if t.objIsHere p ∧ (look t.objs (t.origin p)).elim true (fun d => d.pins == 0) then t else t.objGo (.op o) p .inval)
      (s.started k.toNat (.oinv (s.origin p))) (s.nextOp % 4294967296)).finish m 8) := by
  change execOinv m k ga s = _
  unfold execOinv
  rw [hp]
  exact future_runs h (List.forall_mem_singleton.2 (by simp [State.ptrExc, hreach, excIf])) hk

end

section
variable {s : State} {p n off o : Nat} {d : Desc} (hid : ptrId p = p / 2 ^ 34) (hr : s.route splitFuel (ptrId p) (ptrOff p) = .here n off d) (hd : look s.objs n = some d) (hclosed : d.closed = false)
include hid hr hd hclosed

/-- A move that is refused. -/
theorem State.objGo_refused (href : s.moveRefused n = true) (a : Asker) (c : Word) : s.objGo a p (.move c) = s.answerObj a n 3 [] := by
  have hw : s.objWaits n (.move c) = false := by
    have hleft : ¬0 < d.left := by simpa using (Bool.or_eq_false_iff.1 hclosed).2
    simp [State.objWaits, hd, href, hleft]
  rw [State.objGo_here hid hr hclosed a _ hw, State.objHere_move hd, State.moveObject_refused href]

/-- A move that goes nowhere. -/
theorem State.objGo_home (href : s.moveRefused n = false) (hwait : s.moveWaits n = false) (a : Asker) {c : Word} (hc : c.toNat = s.chipId) (hmax : c.toNat ≤ 4095) :
    s.objGo a p (.move c) = s.answerObj a n 0 [] := by
  have hw : s.objWaits n (.move c) = false := by
    have hleft : ¬0 < d.left := by simpa using (Bool.or_eq_false_iff.1 hclosed).2
    simp [State.objWaits, hd, href, hwait, hleft]
  rw [State.objGo_here hid hr hclosed a _ hw, State.objHere_move hd, State.moveObject_home href a d hc hmax]

end

/-- The invalidation of a pinned object begins: its descriptor holds it, and its asker waits. -/
theorem State.beginInval_look {s : State} {o n : Nat} {op : Op} (h : look s.ops o = some op) (d : Desc) (free : Bool) :
    look (s.beginInval (.op o) n d free).objs n =
        some { d with inv := some { deadline := s.ptime + s.pinGrace.toNat * 1000, asker := .op o, free := free, before := s.nextOp, asked := s.otherChips.length } } ∧
      look (s.beginInval (.op o) n d free).ops o = some { op with asked := [0] } := by
  unfold State.beginInval
  extract_lets others last
  have htold (t : State) : t.AtFabric (others.foldl (fun t c => t.askChip c n (.revoke last) (.revoked n)) t) := State.AtFabric.foldl (fun t c => t.askChip_atFabric _ _ _ _) _ t
  rw [(htold _).objsStand.objs, (htold _).ops]
  exact ⟨look_put _ _ _, upd_some _ h⟩

/-! ### The end of an invalidation -/

section
variable {s : State} {n o : Nat} {d : Desc} {i : Inval} {op : Op}

/-- An invalidation that ends takes the pins. -/
theorem State.endInval_spec (hd : look s.objs n = some d) (hfree : i.free = false) :
    look (s.endInval n i).objs n = some { d with pins := 0, inv := none } ∧ (s.endInval n i).mem = s.mem := by
  unfold State.endInval
  extract_lets u t
  have hu : s.AtFabric u := State.AtFabric.foldl (fun t c => t.askChip_atFabric _ _ _ _) _ s
  have hanswer := t.answerObj_objsStand i.asker n 0 []
  rw [if_neg (by simp [hfree]), hanswer.objs, hanswer.mem]
  exact ⟨upd_some _ (by rw [hu.objsStand.objs]; exact hd), hu.mem⟩

theorem State.endInval_op (hfree : i.free = false) (hask : i.asker = .op o) (hop : look s.ops o = some op) (hst : op.st = .pending) (hacks : op.acks = 0) (hasker : op.asker = none) :
    look (s.endInval n i).ops o = some { op with st := .done, outcome := none } := by
  unfold State.endInval
  extract_lets u t
  have hu : s.AtFabric u := State.AtFabric.foldl (fun t c => t.askChip_atFabric _ _ _ _) _ s
  rw [if_neg (by simp [hfree]), hask]
  exact State.answerObj_op (op := op) (by rw [← hop, ← hu.ops]) hst hacks hasker n 0 [] (by decide)

variable (harg : s.arg = .num n) (hd : look s.objs n = some d) (hi : d.inv = some i)
include harg hd hi

theorem exec_oinvComplete : exec .oinvComplete s = .next (if !s.inUse n ∧ s.quiet n ∧ i.asked = 0 then s.endInval n i else s) := by
  change execOinvComplete s = _
  simp only [execOinvComplete, harg, hd, Option.elim_some, hi]

theorem exec_pinGraceExpiry : exec .pinGraceExpiry s = .next (if i.deadline ≤ s.ptime then (s.revokeFills n).endInval n i else s) := by
  change execPinGraceExpiry s = _
  simp only [execPinGraceExpiry, harg, hd, Option.elim_some, hi]

end

/-! ### The passes of a migration -/

/-- A member that begins to cut over. -/
def Migration.cuts (m : Migration) : Migration := { m with stage := .draining, cutting := true }

/-- A member's next pass, over its dirty frames. -/
def Migration.passes (len : Nat) (m : Migration) : Migration :=
  let fs := (List.range (framesOf len)).filter (fun f => m.dirty.contains f)
  { m with pass := m.pass + 1, rows := rowsOfFrames len fs, queue := fs, dirty := [] }

/-- A member's part of another pass. -/
def State.nextPass (t : State) (x : Nat) : State := (t.onMig x (Migration.passes ((look t.objs x).elim 0 (fun d => d.len)))).nextMigRow x

section
variable {s : State} {lead : Nat} {m : Migration} (harg : s.arg = .num lead) (hl : s.leads lead = some m)
include harg hl

theorem exec_migrationPassEnd_eq : exec .migrationPassEnd s = .next (if s.passOver lead then
      if s.dirtyCount lead ≤ 16 then (if (s.moving lead).any s.running then s else (s.moving lead).foldl (fun t x => State.onMig t x Migration.cuts) s)
      else if 8 ≤ m.pass then s.abandon lead 3
      else (s.moving lead).foldl State.nextPass s
    else s) := by
  change execMigrationPassEnd s = _
  simp only [execMigrationPassEnd, harg, hl]
  rfl

theorem exec_cutOverDrained_not (h : s.cutMay lead = false) : exec .cutOverDrained s = .next s := by
  change execCutOverDrained s = _
  simp only [execCutOverDrained, harg, hl, h, Bool.false_eq_true, if_false]

theorem exec_cutOverDrained_copies (hst : m.stage = .draining) (h : s.cutMay lead = true) : exec .cutOverDrained s = .next (s.finalCopy lead) := by
  change execCutOverDrained s = _
  simp only [execCutOverDrained, harg, hl, h, if_true, hst]

end

/-- A step on a member's migration gives it what the step says. -/
theorem State.foldl_onMig {P Q : Migration → Prop} {f : State → Nat → State} {g : State → Nat → Migration → Migration} (hf : ∀ (t : State) x, (t.onMig x (g t x)).ObjsStand (f t x)) (hPQ : ∀ y, P y → Q y)
    (hg : ∀ t x y, Q y → P (g t x y)) {s : State} (l : List Nat) (h : ∀ x ∈ l, ∃ d, look s.objs x = some d ∧ ∃ y, d.mig = some y ∧ Q y) :
    ∀ x ∈ l, ∃ d y, look (l.foldl f s).objs x = some d ∧ d.mig = some y ∧ P y := by
  intro x hx
  obtain ⟨d, hd, y, hy, hQ⟩ := h x hx
  have hfold := State.foldl_objs (P := fun d => ∃ y, d.mig = some y ∧ P y) (Q := fun d => ∃ y, d.mig = some y ∧ Q y) (f := f) (fun d ⟨y, hy, hP⟩ => ⟨y, hy, hPQ y hP⟩) ?self ?other l s x
    ⟨d, hd, ⟨y, hy, hQ⟩, .inl hx⟩
  · obtain ⟨e, he, z, hz, hP⟩ := hfold
    exact ⟨e, z, he, hz, hP⟩
  case self =>
    rintro t x d hd ⟨y, hy, hQ⟩
    rw [(hf t x).objs]
    exact ⟨_, State.onMig_look _ hd, g t x y, by rw [hy]; rfl, hg t x y hQ⟩
  case other =>
    intro t x y hy
    rw [(hf t x).objs]
    exact State.onMig_look_ne _ hy

/-! ### Halving and the gleaner -/

/-- Half of an object's counts. -/
def Desc.halved (d : Desc) : Desc := { d with localCount := d.localCount / 2, slots := d.slots.map (fun (x : Nat × Nat) => (x.1, x.2 / 2)), asked := false }

/-- The halving of every object's counts, before anything is asked. -/
def State.halved (s : State) : State :=
  { s with
    halvedAt := s.halvedAt + 16777216
    objs := s.objs.map (fun e => (e.1, e.2.halved)) }

theorem exec_affinityHalving (s : State) : exec .affinityHalving s = .next (if s.halvedAt + 16777216 ≤ s.ptime then (s.halved.objs.map Prod.fst).foldl State.affinityAsk s.halved else s) := rfl

section
variable {s : State} {id : Nat} {x : Stub} (harg : s.arg = .num id) (hx : look s.stubs id = some x)
include harg hx

theorem exec_gleanerVisit_early (h : s.ptime < x.used + s.stubIdle.toNat * 1000) : exec .gleanerVisit s = .next s := by
  change execGleanerVisit s = _
  simp only [execGleanerVisit, harg, hx, decide_eq_false (Nat.not_le.2 h), Bool.not_false, Bool.or_true, if_true]

/-- This chip's granary confirms the stub at once. -/
theorem exec_gleanerVisit_frees (h : x.used + s.stubIdle.toNat * 1000 ≤ s.ptime) (hc : x.confirming = false) (hb : birthOf id = s.chipId) {e : Granary} (he : look s.granary id = some e)
    (hepoch : x.epoch ≤ e.epoch) : exec .gleanerVisit s = .next { s with stubs := del (put s.stubs id { x with confirming := true }) id } := by
  change execGleanerVisit s = _
  simp only [execGleanerVisit, harg, hx, hc, decide_eq_true h, Bool.not_true, Bool.or_self, Bool.false_eq_true, if_false, State.atGranary, if_pos hb, State.granAsk, he, Option.elim_some,
    decide_eq_true hepoch, Bool.true_or, if_true]

end

end Sys2Proof.Machine

open Sys2Proof Sys2Proof.Machine in
/-- Settles O53: commands find their object here by `objGo_here`, and each step over a migration's members is a fold of `foldl_objs`. -/
theorem objectMoves : Obligations.ObjectMoves := by
  unfold Obligations.ObjectMoves
  refine ⟨?issue, ?inval, ?passes, ?halving, ?gleaner⟩
  case issue =>
    intro s m k ga gb p c o started hk hreach
    have hid : ptrId p = p / 2 ^ 34 := ptrId_pair _ _
    refine ⟨fun h hchip => ?omove, fun h n off d hr hd hclosed => ?oinv⟩
    case omove =>
      have hexec := exec_omove (m := m) rfl hk hreach rfl h hchip
      refine ⟨hexec, fun n off d hr hd hclosed => ?_⟩
      have hbeg := s.started_begins k.toNat (.omove (ptrId p) c)
      have hlook := s.started_look k.toNat (.omove (ptrId p) c)
      have hr' := (hbeg.route splitFuel (ptrId p) (ptrOff p)).trans hr
      have hd' : look (s.started k.toNat (.omove (ptrId p) c)).objs n = some d := by rw [hbeg.objsStand.objs]; exact hd
      have hans (status : Nat) := hbeg.objsStand.trans (((s.started k.toNat (.omove (ptrId p) c)).answerObj_objsStand (.op o) n status []).trans (State.finish_atIssuer _ m 8).objsStand)
      refine ⟨fun href => ?_, fun href hwait hc hmax => ?_⟩
      · have hgo := State.objGo_refused hid hr' hd' hclosed ((hbeg.moveRefused n).trans href) (.op o) c
        have hop := State.answerObj_op hlook rfl rfl rfl n 3 [] (by decide)
        exact ⟨_, _, hexec.trans (congrArg (fun t => Host.Outcome.next (State.finish t m 8)) hgo), by rw [(State.finish_atIssuer _ m 8).ops]; exact hop, rfl, (hans 3).objs, (hans 3).mem⟩
      · have hwaits : (s.started k.toNat (.omove (ptrId p) c)).moveWaits n = false := by
          rw [hbeg.rest]
          exact hwait
        have hgo := State.objGo_home hid hr' hd' hclosed ((hbeg.moveRefused n).trans href) hwaits (.op o) (hc.trans (by rw [hbeg.rest])) hmax
        have hop := State.answerObj_op hlook rfl rfl rfl n 0 [] (by decide)
        exact ⟨_, _, hexec.trans (congrArg (fun t => Host.Outcome.next (State.finish t m 8)) hgo), by rw [(State.finish_atIssuer _ m 8).ops]; exact hop, rfl, (hans 0).objs, (hans 0).mem⟩
    case oinv =>
      have hexec := exec_oinv (m := m) rfl hk hreach h
      have horigin : s.origin p = n := State.origin_here hr
      rw [horigin] at hexec
      have hbeg := s.started_begins k.toNat (.oinv n)
      have hr' := (hbeg.route splitFuel (ptrId p) (ptrOff p)).trans hr
      have hd' : look (s.started k.toNat (.oinv n)).objs n = some d := by rw [hbeg.objsStand.objs]; exact hd
      have hhere := State.objIsHere_here hid hr' hclosed
      have horigin' : (s.started k.toNat (.oinv n)).origin p = n := State.origin_here hr'
      refine ⟨fun hpins => hexec.trans ?_, fun hpins hwaits => ?_⟩
      · dsimp only
        rw [if_pos ⟨hhere, by rw [horigin', hd']; simp [hpins]⟩]
        rfl
      · have hgo : ¬((s.started k.toNat (.oinv n)).objIsHere p = true ∧ (look (s.started k.toNat (.oinv n)).objs ((s.started k.toNat (.oinv n)).origin p)).elim true (fun d => d.pins == 0) = true) := by
          rw [horigin', hd']
          simp [Nat.ne_of_gt hpins]
        dsimp only at hexec
        rw [if_neg hgo, State.objGo_here hid hr' hclosed _ _ ((hbeg.objWaits n .inval).trans hwaits), State.objHere_inval hd' hpins] at hexec
        obtain ⟨hobj, hop⟩ := State.beginInval_look (n := n) (s.started_look k.toNat (.oinv n)) d false
        have hfin := State.finish_atIssuer ((s.started k.toNat (.oinv n)).beginInval (.op (s.nextOp % 4294967296)) n d false) m 8
        refine ⟨_, _, _, hexec, (congrArg (look · n) hfin.objsStand.objs).trans hobj, rfl, ?_, (congrArg (look · o) hfin.ops).trans hop, rfl⟩
        dsimp only
        rw [State.started_nextOp, hbeg.rest]
        rfl
  case inval =>
    intro s n d i o op harg hd hi hfree hask hop hst hacks hasker
    have hgrace := exec_pinGraceExpiry harg hd hi
    have hdone := exec_oinvComplete harg hd hi
    refine ⟨fun huse hquiet hasked => ?_, fun hstill => ?_, fun hdead => ?_, fun hdead => ?_⟩
    · rw [if_pos (by simp [huse, hquiet, hasked])] at hdone
      obtain ⟨hobj, hmem⟩ := State.endInval_spec hd hfree
      exact ⟨_, _, _, hdone, hobj, rfl, rfl, State.endInval_op hfree hask hop hst hacks hasker, rfl, hmem⟩
    · rw [if_neg ?_] at hdone
      · exact hdone
      · rintro ⟨huse, hquiet, hasked⟩
        rcases hstill with h | h | h
        · simp [h] at huse
        · simp [h] at hquiet
        · exact h hasked
    · rw [if_pos hdead] at hgrace
      obtain ⟨hobj, -⟩ := State.endInval_spec (s := s.revokeFills n) (by rw [(s.revokeFills_objsStand n).objs]; exact hd) hfree
      exact ⟨_, _, hgrace, hobj, rfl, rfl⟩
    · rw [if_neg (Nat.not_le.2 hdead)] at hgrace
      exact hgrace
  case passes =>
    intro s lead m harg hl now
    have hpass {t : State} (h : _ = t) := (exec_migrationPassEnd_eq harg hl).trans (congrArg Host.Outcome.next h)
    refine ⟨fun hp => ?early, fun hp hdirty hrun => ?runs, fun hp hdirty hrun => ?cuts, fun hp hdirty h8 => ?again, fun hp hdirty h8 => ?abandons, fun h => exec_cutOverDrained_not harg hl h, fun hst h => ?copies⟩
    case early => exact hpass (if_neg (by simp [hp]))
    case runs =>
      obtain ⟨x, hx, hrun⟩ := hrun
      exact hpass ((if_pos hp).trans ((if_pos hdirty).trans (if_pos (List.any_eq_true.2 ⟨x, hx, hrun⟩))))
    case cuts =>
      have hany : ¬(s.moving lead).any s.running = true := by simpa using hrun
      refine ⟨_, hpass ((if_pos hp).trans ((if_pos hdirty).trans (if_neg hany))), State.foldl_mem (f := fun t x => State.onMig t x Migration.cuts) (fun _ _ => rfl) _ s, ?_⟩
      exact State.foldl_onMig (P := fun y => y.stage = .draining ∧ y.cutting = true) (Q := fun _ => True) (g := fun _ _ => Migration.cuts) (fun _ _ => .refl _) (fun _ _ => trivial) (fun _ _ _ _ => ⟨rfl, rfl⟩) _
        (fun x hx => by
          obtain ⟨d, hd, y, hy, -⟩ := State.passOver_bulk hp x hx
          exact ⟨d, hd, y, hy, trivial⟩)
    case again =>
      refine ⟨_, hpass ((if_pos hp).trans ((if_neg (Nat.not_le.2 hdirty)).trans (if_neg (Nat.not_le.2 h8)))), State.foldl_mem (f := State.nextPass) (fun _ _ => (State.nextMigRow_atFabric _ _).mem) _ s, ?_⟩
      exact State.foldl_onMig (P := fun y => y.stage = .bulk ∧ y.dirty = []) (Q := fun y => y.stage = .bulk) (g := fun t x => Migration.passes ((look t.objs x).elim 0 (fun d => d.len))) (fun _ _ => (State.nextMigRow_atFabric _ _).objsStand) (fun _ h => h.1) (fun _ _ _ h => ⟨h, rfl⟩) _
        (State.passOver_bulk hp)
    case abandons =>
      obtain ⟨hmem, hnone⟩ := s.abandon_spec lead 3
      refine ⟨_, hpass ((if_pos hp).trans ((if_neg (Nat.not_le.2 hdirty)).trans (if_pos h8))), hmem, hnone fun x hx => ?_⟩
      obtain ⟨d, hd, -⟩ := State.passOver_bulk hp x hx
      exact ⟨d, hd⟩
    case copies =>
      obtain ⟨hmem, hmig⟩ := s.finalCopy_spec lead
      obtain ⟨d, hd, hm, -⟩ := State.leads_look hl
      obtain ⟨e, he, y, hy, hstage, hdirty⟩ := hmig lead (State.leads_moving hl) ⟨d, hd, by rw [hm]; rfl⟩
      exact ⟨_, exec_cutOverDrained_copies harg hl hst h, hmem, e, y, he, hy, hstage, hdirty⟩
  case halving =>
    intro s
    have hexec := exec_affinityHalving s
    refine ⟨fun h => ?_, fun h => ?_⟩
    · rw [if_pos h] at hexec
      have hstand := State.CountsStand.foldl (fun t x => t.affinityAsk_countsStand x) (s.halved.objs.map Prod.fst) s.halved
      refine ⟨_, hexec, hstand.halvedAt, hstand.mem, fun id d hd => ?_⟩
      obtain ⟨e, he, hlocal, hslots⟩ := hstand.counts id d.halved ((look_map s.objs Desc.halved id).trans (congrArg _ hd))
      exact ⟨e, he, hlocal, hslots⟩
    · rw [if_neg (Nat.not_le.2 h)] at hexec
      exact hexec
  case gleaner =>
    intro s id x harg hx
    refine ⟨exec_gleanerVisit_early harg hx, fun h hc hb e he hepoch => ?_⟩
    exact ⟨_, exec_gleanerVisit_frees harg hx h hc hb he hepoch, look_del _ _, rfl, rfl⟩

/-! PROOFS, 07 R222, 16 R380 to R393, 17 R401: transfers as they issue, control packets and links. -/

namespace Sys2Proof.Machine

/-! ### RSEND and RFETCH -/

/-- Words of RSEND's block that its issue checks, but for those that are always zero. -/
def rsendWords (P : List Word) : List (Nat × Bool) :=
  [(0, decide (1 < pf P 0 31 30) || pf P 0 25 0 != 0), (1, pw P 1 != 0), (3, pf P 0 31 30 == 1 && pw P 3 != 0), (4, pw P 4 == 0 || decide (2 ^ 24 < pw P 4)),
    (5, decide (4096 ≤ pw P 5)), (6, decide (4096 ≤ pw P 6)), (9, decide (4 ≤ pw P 9))]

section
variable {s : State} {m : Bool} {k : BitVec 4} {ga : BitVec 9} {P : List Word} (hP : s.block ga.toNat = P) (h : s.uniReady .any true (regs ga.toNat 16) (regs ga.toNat 16) = true)
  (hk : s.busyHandle k.toNat = none)
include hP h hk

theorem exec_rsend {scr : Bool} {src : Nat} (hscr : (pf P 0 31 30 == 1) = scr) (hsrc : (if scr then pw P 2 else pd P 2) = src) (hwords : ∀ e ∈ rsendWords P, e.2 = false)
    (hzero : ∀ i ∈ regs 10 6, pw P i = 0) (hsize : scr = true → src + pw P 4 ≤ s.scrSize s.curBlk) (hreach : scr = false → s.unreachable (ptrId src) = false) (hchip : s.validChip (pw P 5) = true) :
    exec (.rsend m k ga) s = .next ((s.started k.toNat (.transfer { fetch := false, sg := s.curSeg, scratch := scr, addr := src, bytes := pw P 4, chip := pw P 5, task := pw P 6, block := pw P 7
                                                                    seg := pw P 9, ac := pf P 0 29 26, offset := pw P 8, sentTo := 0, waiting := 0 })).finish m 8) := by
  subst hP hscr hsrc
  change execRsend m k ga s = _
  unfold execRsend
  refine future_starts h (List.forall_mem_cons.2 ⟨blockExc_none (List.forall_mem_append.2 ⟨hwords, zeros_false hzero⟩), List.forall_mem_cons.2 ⟨?_, List.forall_mem_singleton.2 ?_⟩⟩) hk
  · cases hb : pf (s.block ga.toNat) 0 31 30 == 1 with
    | false => rfl
    | true =>
      rw [hb] at hsize
      exact if_neg (by simpa using hsize rfl)
  · cases hb : pf (s.block ga.toNat) 0 31 30 == 1 with
    | false =>
      rw [hb] at hreach
      exact if_neg (by simpa [hchip] using hreach rfl)
    | true => exact if_neg (by simp [hchip])

theorem exec_rfetch (hform : pf P 0 31 30 = 1) (hpad : pf P 0 25 0 = 0) (h1 : 1 ≤ pw P 4) (hmax : pw P 4 ≤ 16777216) (hzero : ∀ i ∈ [1, 2, 3, 5, 12, 13, 14, 15], pw P i = 0) (h6 : pf P 6 31 12 = 0)
    (h9 : pf P 9 31 2 = 0) (hreach : s.unreachable (ptrId (pd P 10)) = false) :
    exec (.rfetch m k ga) s = .next ((s.started k.toNat (.transfer { fetch := true, sg := s.curSeg, scratch := true, addr := pd P 10, bytes := pw P 4, chip := 0, task := s.taskOf s.curBlk, block := s.curBid
                                                                     seg := s.curSeg.seg, ac := pf P 0 29 26, offset := pw P 8, sentTo := 0, waiting := 0 })).finish m 8) := by
  subst hP
  change execRfetch m k ga s = _
  unfold execRfetch
  have hsub {l : List Nat} (hl : l ⊆ [1, 2, 3, 5, 12, 13, 14, 15]) : ∀ e ∈ zeros (s.block ga.toNat) l, e.2 = false := zeros_false fun i hi => hzero i (hl hi)
  refine future_starts h (List.forall_mem_cons.2 ⟨blockExc_none ?_, List.forall_mem_singleton.2 (by simp [State.ptrExc, hreach, excIf])⟩) hk
  simp only [List.forall_mem_append]
  refine ⟨⟨⟨⟨⟨?_, hsub (by decide)⟩, ?_⟩, hsub (by decide)⟩, ?_⟩, hsub (by decide)⟩
  · simp [hform, hpad]
  · simp [Nat.one_le_iff_ne_zero.1 h1, hmax]
  · simp [h6, h9]

end

/-- A field above a bound of its word is zero. -/
theorem pf_eq_zero {P : List Word} {i l : Nat} (h : pw P i < 2 ^ l) : pf P i 31 l = 0 := by
  rw [pf, bits, Nat.div_eq_of_lt h, Nat.zero_mod]

/-! ### Control packets -/

/-- A packet has come with the number that its port sends next. -/
def State.linked (s : State) (port : BitVec 6) (p : Packet) : State :=
  s.onFab (fun f => { f with linkIn := put f.linkIn port.toNat (p.link + 1), asks := without f.asks port.toNat })

/-- A control packet of a plan that this chip knows takes effect in its turn. -/
theorem State.packetIn_control {s : State} {port : BitVec 6} {p : Packet} (harg : s.arg = .packet port p) (hok : s.fab.planOk p = true) (hlink : p.link = (look s.fab.linkIn port.toNat).getD 0)
    (hvc : vcOf p.type = 0) (hsync : p.type ≠ .sync) (run : State → BitVec 6 → Packet → State) : s.packetIn p.type run = run (s.linked port p) port p := by
  have hok' : (s.linked port p).fab.planOk p = true := hok
  simp only [State.packetIn, harg, if_true, State.inLink, if_neg hsync, ← hlink]
  change (s.linked port p).packetCame p.type port p run = _
  rw [State.packetCame, if_neg (by simp [hok']), if_pos hvc]

section
variable {s : State} {port : BitVec 6} {p : Packet} (harg : s.arg = .packet port p) (hok : s.fab.planOk p = true) (hlink : p.link = (look s.fab.linkIn port.toNat).getD 0)
include harg hok hlink

theorem exec_marker_home (ht : p.type = .marker) (hb : p.body = .marker true) :
    exec .marker s = .next ((s.linked port p).onFab (fun f => { f with markers := without f.markers port.toNat })) := by
  have hin := State.packetIn_control harg hok hlink (by rw [ht]; rfl) (by rw [ht]; decide)
  change execMarker s = _
  rw [execMarker, ← ht, hin, hb]

theorem exec_marker_back (ht : p.type = .marker) (hb : p.body = .marker false) :
    exec .marker s = .next ((s.linked port p).enqueue ((s.linked port p).onPort .marker port.toNat (.marker true))) := by
  have hin := State.packetIn_control harg hok hlink (by rw [ht]; rfl) (by rw [ht]; decide)
  change execMarker s = _
  rw [execMarker, ← ht, hin, hb]

/-- Flit credits come; those of a packet confirm it. -/
theorem exec_credit {vc lane n : Nat} {confirms : Bool} (ht : p.type = .credit) (hb : p.body = .credit vc lane n confirms) :
    exec .credit s = .next ((s.linked port p).onFab (fun f => { f with
      credits := bump f.credits (port.toNat, vc, lane) n
      replay := if confirms then confirmed port.toNat vc f.replay else f.replay
      fails := if confirms then del f.fails port.toNat else f.fails })) := by
  have hin := State.packetIn_control harg hok hlink (by rw [ht]; rfl) (by rw [ht]; decide)
  change execCredit s = _
  rw [execCredit, ← ht, hin, hb]
  cases confirms <;> rfl

end

theorem look_bump {κ : Type} [DecidableEq κ] (l : List (κ × Nat)) (k : κ) (n : Nat) : (look (bump l k n) k).getD 0 = (look l k).getD 0 + n := by
  rw [bump, look_put, Option.getD_some]
  omega

/-! ### Replays and circuits -/

/-- An event that is posted changes the queue of events alone. -/
theorem State.postEvent_rest (s : State) (e : EventRec) : s.postEvent e = { s with events := (s.postEvent e).events, nextSeq := (s.postEvent e).nextSeq, pendingEvents := (s.postEvent e).pendingEvents } := by
  unfold State.postEvent
  split <;> rfl

theorem State.fabricEvent_rest (s : State) : s.fabricEvent = { s with events := s.fabricEvent.events, nextSeq := s.fabricEvent.nextSeq, pendingEvents := s.fabricEvent.pendingEvents } := s.postEvent_rest _

/-- A replay that is asked for again. -/
def State.replayed (s : State) (port : Nat) : State :=
  (s.onLog (1056 + port) (fun e => { e with replay := satInc e.replay })).onFab (fun f => { f with
    fails := put f.fails port ((look s.fab.fails port).getD 0 + 1), sent := f.sent ++ s.fab.replay.filter (fun e => e.1 == port) })

/-- A port that failed once too often leaves the locked set. -/
def State.unlocked (s : State) (port : Nat) : State :=
  (s.onLog (1056 + port) (fun e => { e with replay := satInc e.replay })).onFab (fun f => { f with
    fails := del f.fails port
    credits := f.credits.filter (fun e => !(e.1.1 == port))
    locked := f.locked &&& ~~~(1#64 <<< port)
    replay := f.replay.filter (fun e => !(e.1 == port))
    queue := ((s.fab.replay.filter (fun e => e.1 == port)).filter (fun e => vcOf e.2.type != 0)).map (fun e => (e.2.dst.toNat, { e.2 with resent := true })) ++ f.queue })

theorem exec_replayRequest {s : State} {port : Nat} (harg : s.arg = .num port) :
    exec .replayRequest s = .next (if (look s.fab.fails port).getD 0 + 1 ≤ 8 then s.replayed port else (s.unlocked port).fabricEvent) := by
  change execReplayRequest s = _
  simp only [execReplayRequest, harg]
  rfl

theorem exec_circuitSwitchChange {s : State} {port : BitVec 6} {peer : Option (BitVec 12 × BitVec 16)} (harg : s.arg = .circuit port peer) : exec .circuitSwitchChange s = .next (s.onFab (fun f => { f with
        locked := f.locked &&& ~~~(1#64 <<< port.toNat)
        credits := f.credits.filter (fun e => !(e.1.1 == port.toNat))
        linkOut := del f.linkOut port.toNat
        linkIn := del f.linkIn port.toNat
        asks := without f.asks port.toNat
        sent := f.sent.filter (fun e => !(e.1 == port.toNat))
        replay := f.replay.filter (fun e => !(e.1 == port.toNat)) })) := by
  change execCircuitSwitchChange s = _
  simp only [execCircuitSwitchChange, harg]

/-- No entry of a port is left among those of the others. -/
theorem ne_of_mem_others {α : Type} {f : α → Nat} {port : Nat} {l : List α} : ∀ e ∈ l.filter (fun e => !(f e == port)), f e ≠ port := by
  intro e he
  simpa using (List.mem_filter.1 he).2

end Sys2Proof.Machine

open Sys2Proof Sys2Proof.Machine in
/-- Settles O55: each packet or request is one equation of its step, of which the clauses are read off. -/
theorem transfersAndLinks : Obligations.TransfersAndLinks := by
  unfold Obligations.TransfersAndLinks
  refine ⟨?issue, ?packets, ?replays, ?circuits⟩
  case issue =>
    intro s m k ga P scr src zero starts h hk hpad h1 hmax
    refine ⟨fun hform hzero hpair hreach h5 h6 h9 hchip => ?rsend, fun hform hzero h6 h9 hreach => ?rfetch⟩
    case rsend =>
      refine exec_rsend rfl h hk rfl rfl ?_ (fun i hi => hzero i (List.mem_cons_of_mem 1 hi)) (fun hs => (hpair hs).2) hreach hchip
      have hp1 : pw P 1 = 0 := hzero 1 List.mem_cons_self
      have hp3 : (pf P 0 31 30 == 1 && pw P 3 != 0) = false := by
        cases hs : pf P 0 31 30 == 1 with
        | false => rfl
        | true => simp [(hpair hs).1]
      change ∀ e ∈ rsendWords P, e.2 = false
      simp [rsendWords, hp1, hp3, hform, hpad, Nat.one_le_iff_ne_zero.1 h1, hmax, h5, h6, h9]
    case rfetch => exact exec_rfetch rfl h hk hform hpad h1 hmax hzero (pf_eq_zero h6) (pf_eq_zero h9) hreach
  case packets =>
    intro s port p harg hok hlink s1
    refine ⟨exec_marker_home harg hok hlink, exec_marker_back harg hok hlink, fun vc lane n confirms ht hb => ?_⟩
    refine ⟨_, exec_credit harg hok hlink ht hb, look_bump _ _ _, rfl, ?_, ?_⟩
    · rintro rfl
      exact look_del _ _
    · rintro rfl
      exact ⟨rfl, rfl⟩
  case replays =>
    intro s port harg n mine
    have hexec := exec_replayRequest harg
    by_cases hn : n ≤ 8
    · rw [if_pos hn] at hexec
      exact ⟨_, _, hexec, look_put _ _ _, rfl, rfl, fun _ => ⟨rfl, look_put _ _ _, rfl⟩, fun h => absurd hn (Nat.not_le.2 h)⟩
    · rw [if_neg hn, State.fabricEvent_rest] at hexec
      exact ⟨_, _, hexec, look_put _ _ _, rfl, rfl, fun h => absurd h hn, fun _ => ⟨rfl, look_del _ _, rfl⟩⟩
  case circuits =>
    intro s port peer harg
    refine ⟨_, exec_circuitSwitchChange harg, ?_, ne_of_mem_others (f := Prod.fst), ne_of_mem_others (f := Prod.fst), ne_of_mem_others (f := fun (e : (Nat × Nat × Nat) × Nat) => e.1.1), rfl⟩
    have := port.isLt
    simp [BitVec.getLsbD_and, BitVec.getLsbD_not, BitVec.getLsbD_shiftLeft]

/-! PROOFS, 07 R221, 16 R388 to R395: the fabric controller. -/

namespace Sys2Proof.Machine

/-! ### What leaves the controller alone -/

/-- From s to t the controller's state, its tables and what it has under way stand, as do memory, pod time and the chip's number. -/
structure State.ControlStands (s t : State) : Prop where
  st : t.fab.st = s.fab.st
  live : t.fab.live = s.fab.live
  staged : t.fab.staged = s.fab.staged
  locked : t.fab.locked = s.fab.locked
  relock : t.fab.relock = s.fab.relock
  markers : t.fab.markers = s.fab.markers
  ops : t.fab.ops = s.fab.ops
  mem : t.mem = s.mem
  ptime : t.ptime = s.ptime
  chipId : t.chipId = s.chipId

section
variable {s t u : State}

/-- What leaves the whole fabric alone. -/
theorem State.ControlStands.of_fab (hf : t.fab = s.fab) (hm : t.mem = s.mem) (hp : t.ptime = s.ptime) (hc : t.chipId = s.chipId) : s.ControlStands t where
  st := congrArg Fabric.st hf
  live := congrArg Fabric.live hf
  staged := congrArg Fabric.staged hf
  locked := congrArg Fabric.locked hf
  relock := congrArg Fabric.relock hf
  markers := congrArg Fabric.markers hf
  ops := congrArg Fabric.ops hf
  mem := hm
  ptime := hp
  chipId := hc

theorem State.ControlStands.refl (s : State) : s.ControlStands s := .of_fab rfl rfl rfl rfl

theorem State.ControlStands.trans (hst : s.ControlStands t) (htu : t.ControlStands u) : s.ControlStands u where
  st := htu.st.trans hst.st
  live := htu.live.trans hst.live
  staged := htu.staged.trans hst.staged
  locked := htu.locked.trans hst.locked
  relock := htu.relock.trans hst.relock
  markers := htu.markers.trans hst.markers
  ops := htu.ops.trans hst.ops
  mem := htu.mem.trans hst.mem
  ptime := htu.ptime.trans hst.ptime
  chipId := htu.chipId.trans hst.chipId

/-- As `trans`, for a state between whose form the later step gives. -/
theorem State.ControlStands.after (htu : t.ControlStands u) (hst : s.ControlStands t) : s.ControlStands u := hst.trans htu

theorem State.ControlStands.foldl {α : Type} {f : State → α → State} (hf : ∀ (t : State) (x : α), t.ControlStands (f t x)) (l : List α) (s : State) : s.ControlStands (l.foldl f s) := by
  induction l generalizing s with
  | nil => exact .refl s
  | cons x r ih => exact (hf s x).trans (ih _)

theorem State.AtTable.controlStands (h : s.AtTable t) : s.ControlStands t := by
  rw [h.rest]
  exact .of_fab rfl rfl rfl rfl

theorem State.AtIssuer.controlStands (h : s.AtIssuer t) : s.ControlStands t := h.atTable.controlStands

theorem State.AbortsOnly.controlStands (h : s.AbortsOnly t) : s.ControlStands t := by
  rw [h.rest]
  exact .of_fab rfl rfl rfl rfl

theorem State.Begins.controlStands (h : s.Begins t) : s.ControlStands t := by
  rw [h.rest]
  exact .of_fab rfl rfl rfl rfl

theorem State.AtIssuer.fab (h : s.AtIssuer t) : t.fab = s.fab := by rw [h.rest]
theorem State.Begins.fab (h : s.Begins t) : t.fab = s.fab := by rw [h.rest]

theorem State.fabricEvent_controlStands (s : State) : s.ControlStands s.fabricEvent := by
  rw [s.fabricEvent_rest]
  exact .of_fab rfl rfl rfl rfl

theorem State.onOp_controlStands (s : State) (o : Nat) (f : Op → Op) : s.ControlStands (s.onOp o f) := .of_fab rfl rfl rfl rfl

theorem State.resolve_controlStands (s : State) (o : Nat) (st : OpState) : s.ControlStands (s.resolve o st) := s.onOp_controlStands o _

/-! ### Packets -/

theorem State.enqueue_controlStands (s : State) (p : Packet) : s.ControlStands (s.enqueue p) := by
  unfold State.enqueue
  split
  · exact .of_fab rfl rfl rfl rfl
  · constructor <;> rfl

theorem State.request_controlStands (s : State) (p : Packet) (r : Reply) : s.ControlStands (s.request p r) := by
  have hfirst : s.ControlStands (s.sendFirst p) := by
    unfold State.sendFirst
    split
    · exact s.enqueue_controlStands p
    · exact .after (State.enqueue_controlStands _ _) (.of_fab rfl rfl rfl rfl)
  have huse : (s.sendFirst p).ControlStands ((s.sendFirst p).useLocator p) := by
    unfold State.useLocator
    split <;> exact .of_fab rfl rfl rfl rfl
  exact hfirst.trans (huse.trans (by constructor <;> rfl))

theorem State.respond_controlStands (s : State) (p : Packet) (status id epoch : Nat) (vals : List Word) (data : List Byte) : s.ControlStands (s.respond p status id epoch vals data) :=
  s.enqueue_controlStands _

theorem State.askChip_controlStands (s : State) (chip id : Nat) (cmd : ObjCmd) (r : Reply) : s.ControlStands (s.askChip chip id cmd r) := s.request_controlStands _ _

/-! ### Answers to commands and transfers -/

theorem State.nbxEnd_controlStands (s : State) (o : Nat) (st : OpState) : s.ControlStands (s.nbxEnd o st) := by
  unfold State.nbxEnd
  split
  · exact s.resolve_controlStands o st
  · dsimp only
    exact .after (State.respond_controlStands _ _ _ _ _ _ _) (.of_fab rfl rfl rfl rfl)

theorem State.endCommand_controlStands (s : State) (n status : Nat) (vals : List Word) : s.ControlStands (s.endCommand n status vals) := by
  unfold State.endCommand
  split
  · exact .refl s
  · split
    · exact (State.ControlStands.foldl (fun u e => (u.destMod_atTable _ _ _ _ _).controlStands) _ s).trans (State.partDone_atTable _ _ _).controlStands
    · exact .refl s

theorem State.answerObj_controlStands (s : State) (a : Asker) (id status : Nat) (vals : List Word) : s.ControlStands (s.answerObj a id status vals) := by
  cases a with
  | txn n => exact s.endCommand_controlStands n status vals
  | op o => exact s.nbxEnd_controlStands o _
  | packet p => exact s.respond_controlStands _ _ _ _ _ _

theorem State.tellGranary_controlStands (s : State) (id : Nat) (on : Bool) : s.ControlStands (s.atGranary id (.migrating on) .ignore (fun u _ _ => u)) := by
  unfold State.atGranary
  split
  · exact .of_fab rfl rfl rfl rfl
  · exact s.askChip_controlStands _ _ _ _

theorem State.releaseHold_controlStands (s : State) (id : Nat) : s.ControlStands (s.releaseHold id) := .of_fab rfl rfl rfl rfl

theorem State.abandon_controlStands (s : State) (lead status : Nat) : s.ControlStands (s.abandon lead status) := by
  unfold State.abandon
  extract_lets all a t
  have hall : s.ControlStands t := by
    refine State.ControlStands.foldl (fun t x => ?_) _ s
    split
    · exact .refl t
    · extract_lets mine t
      exact .after ((State.askChip_controlStands t _ _ _ _).trans ((State.tellGranary_controlStands _ _ _).trans (State.releaseHold_controlStands _ _))) (.of_fab rfl rfl rfl rfl)
  cases a with
  | none => exact hall
  | some a => exact hall.trans (t.answerObj_controlStands a _ _ _)

theorem State.drainMigrations_controlStands (s : State) : s.ControlStands s.drainMigrations := by
  unfold State.drainMigrations
  exact .foldl (fun t e => t.abandon_controlStands _ _) _ s

theorem State.endTransfer_controlStands (s : State) (o : Nat) : s.ControlStands (s.endTransfer o) := by
  unfold State.endTransfer
  split
  · exact .refl s
  · split
    · split
      · exact s.resolve_controlStands o _
      · exact .refl s
    · exact .refl s

theorem State.transferAck_controlStands (s : State) (o status : Nat) : s.ControlStands (s.transferAck o status) := by
  unfold State.transferAck
  dsimp only
  split
  · exact (s.onOp_controlStands o _).trans (State.endTransfer_controlStands _ o)
  · exact (s.onOp_controlStands o _).trans ((State.onOp_controlStands _ o _).trans (State.endTransfer_controlStands _ o))

/-! ### Traps and waits -/

theorem State.endTask_controlStands (s : State) (i : Nat) (killer : Option (Nat × Nat × Nat)) (fault : Option (Nat × Nat × List Word)) : s.ControlStands (s.endTask i killer fault) := by
  cases hx : look s.tasks i with
  | none =>
    simp only [State.endTask, hx]
    exact .refl s
  | some x =>
    by_cases hst : x.st = .ending
    · simp only [State.endTask, hx, hst, beq_self_eq_true, if_true]
      exact .refl s
    · exact .after (State.endTask_abortsOnly hx hst killer fault).controlStands (.of_fab rfl rfl rfl rfl)

theorem State.takeAbort_controlStands (s : State) (k : GKey) : s.ControlStands (s.takeAbort k) := by
  unfold State.takeAbort
  split
  · exact .refl s
  · split
    · split
      · exact .refl s
      · split <;> exact .of_fab rfl rfl rfl rfl
    · exact .refl s

theorem State.trapRegion_controlStands (s : State) (k : GKey) (r : TrapRec) : s.ControlStands (s.trapRegion k r).1 := by
  unfold State.trapRegion
  split
  · exact .refl s
  · split
    · exact .refl s
    · split
      · exact .refl s
      · split
        · exact (State.abortAll_abortsOnly s _).controlStands.trans (State.takeAbort_controlStands _ k)
        · exact .refl s

theorem State.enterTrap_controlStands (s : State) (k : GKey) (r : TrapRec) : s.ControlStands (s.enterTrap k r) := by
  unfold State.enterTrap
  refine (s.trapRegion_controlStands k r).trans ?_
  dsimp only
  split
  · split
    · exact .after (State.endTask_controlStands _ _ _ _) (.of_fab rfl rfl rfl rfl)
    · exact .of_fab rfl rfl rfl rfl
  · exact .refl _

theorem State.noteWatch_controlStands (s : State) (k : GKey) (c : FaultCode) : s.ControlStands (s.noteWatch k c) := by
  unfold State.noteWatch
  split <;> exact .of_fab rfl rfl rfl rfl

theorem State.setGroup_controlStands (s : State) (k : GKey) (g : Group) : s.ControlStands (s.setGroup k g) := .of_fab rfl rfl rfl rfl

theorem State.unpark_controlStands (s : State) (k : GKey) : s.ControlStands (s.unpark k) := by
  unfold State.unpark
  split
  · exact .refl s
  · split
    · dsimp only
      split
      · split
        · exact (s.setGroup_controlStands k _).trans (State.takeAbort_controlStands _ k)
        · split
          · exact s.setGroup_controlStands k _
          · exact (s.setGroup_controlStands k _).trans (State.enterTrap_controlStands _ k _)
      · split <;> exact (s.setGroup_controlStands k _).trans ((State.noteWatch_controlStands _ k _).trans (State.enterTrap_controlStands _ k _))
      · exact .refl s
    · exact .refl s

theorem State.forgetWaits_controlStands (s : State) (w : Agent) : s.ControlStands (s.forgetWaits w) := by
  constructor <;> rfl

theorem State.endWaitc_controlStands (s : State) (w : Agent) (x : Waitc) (result : Word) : s.ControlStands (s.endWaitc w x result) := by
  unfold State.endWaitc
  refine (s.forgetWaits_controlStands w).trans ?_
  cases w with
  | grp k =>
    dsimp only
    exact .after (State.acquire_atIssuer _ _ _).controlStands (.of_fab rfl rfl rfl rfl)
  | sqr q => exact .of_fab rfl rfl rfl rfl

theorem State.failWaitc_controlStands (s : State) (w : Agent) (x : Waitc) (c : FaultCode) : s.ControlStands (s.failWaitc w x c) := by
  unfold State.failWaitc
  refine (s.forgetWaits_controlStands w).trans ?_
  cases w with
  | grp k => exact .after (State.unpark_controlStands _ k) (.of_fab rfl rfl rfl rfl)
  | sqr q => exact .of_fab rfl rfl rfl rfl

theorem State.waitReply_controlStands (s : State) (w : Agent) (status : Nat) (vals : List Word) (data : List Byte) : s.ControlStands (s.waitReply w status vals data) := by
  unfold State.waitReply
  split
  · split
    · split <;> exact .of_fab rfl rfl rfl rfl
    · split
      · exact s.failWaitc_controlStands w _ _
      · split
        · split
          · exact s.endWaitc_controlStands w _ _
          · cases w <;> exact .of_fab rfl rfl rfl rfl
        · split
          · exact s.endWaitc_controlStands w _ _
          · exact .refl s
  · exact .refl s

/-! ### Answers that never come -/

theorem State.destLose_atTable (s : State) (w : Agent) (d : Dest) (n l : Nat) : s.AtTable (s.destLose w d n l) := by
  unfold State.destLose
  split <;> exact ⟨rfl⟩

theorem State.AtTable.foldl {α : Type} {f : State → α → State} (hf : ∀ (t : State) (x : α), t.AtTable (f t x)) (l : List α) (s : State) : s.AtTable (l.foldl f s) := by
  induction l generalizing s with
  | nil => exact .refl s
  | cons x r ih => exact (hf s x).trans (ih _)

theorem State.onTxn_atTable (s : State) (id : Nat) (f : Txn → Txn) : s.AtTable (s.onTxn id f) := ⟨rfl⟩

theorem State.lanesFail_atTable (s : State) (t : Txn) (c : FaultCode) (ps : List Piece) : s.AtTable (s.lanesFail t c ps) :=
  .foldl (fun u _ => (u.onTxn_atTable _ _).trans (State.destLose_atTable _ _ _ _ _)) _ s

theorem State.probeNote_atTable (s : State) (t : Txn) (n : Nat) (x : Piece) (found : Option (Nat × Word)) : s.AtTable (s.probeNote t n x found) := by
  unfold State.probeNote
  dsimp only
  split
  · exact (s.onTxn_atTable _ _).trans ((State.destLose_atTable _ _ _ _ _).trans (State.partDone_atTable _ _ _))
  · exact (s.onTxn_atTable _ _).trans (State.partDone_atTable _ _ _)

theorem State.trxFinish_atTable (s : State) (t : Txn) (vd ge tb : Nat) (items : List (Nat × Word × Word)) (cells : List (Nat × Option Byte)) : s.AtTable (s.trxFinish t vd ge tb items cells) := by
  unfold State.trxFinish
  exact .trans (.foldl (fun u _ => (u.destMod_atTable _ _ _ _ _).trans ((State.destMod_atTable _ _ _ _ _ _).trans (State.destMod_atTable _ _ _ _ _ _))) _ s) (State.destMod_atTable _ _ _ _ _ _)

theorem State.trxNext_atTable (s : State) (id n : Nat) : s.AtTable (s.trxNext id n) := by
  unfold State.trxNext
  refine .trans (t := s.setPart id n .done) ⟨rfl⟩ ?_
  dsimp only
  split
  · exact .refl _
  · split
    · split
      · split
        · exact (State.trxFinish_atTable _ _ _ _ _ _ _).trans (State.closeTxn_atTable _ _)
        · exact ⟨rfl⟩
      · exact .refl _
    · exact .refl _

/-- A part that is answered without its object having been found. -/
theorem State.partReply_atTable (s : State) (id n lo : Nat) {status : Nat} (hst : foundStatus status = false) (vals : List Word) (data : List Byte) : s.AtTable (s.partReply id n lo status vals data) := by
  have hne : ∀ x, foundStatus x = true → status ≠ x := by
    rintro x hx rfl
    rw [hst] at hx
    exact absurd hx (by decide)
  unfold State.partReply
  split
  · exact .refl s
  · next t _ =>
    split
    · exact .refl s
    · next p _ =>
      dsimp only
      have hall (c : FaultCode) (l : List Piece) : s.AtTable ((s.lanesFail t c l).partDone id n) := (s.lanesFail_atTable t c l).trans (State.partDone_atTable _ _ _)
      split
      · cases p.pieces.head? with
        | none => exact s.partDone_atTable id n
        | some x => exact s.probeNote_atTable t n x _
      · split
        · rw [if_neg (by simp [hst])]
          exact hall _ _
        · rw [if_neg (fun h => hne 0x08 rfl h.1), if_pos (hne 0 rfl)]
          exact hall _ _
        · rw [if_neg (hne 0x15 rfl), if_pos (hne 0 rfl)]
          exact hall _ _
        · exact .trans (t := s.trxNote id _) (s.onTxn_atTable id _) (State.trxNext_atTable _ _ _)
        · exact s.partDone_atTable id n

theorem State.granaryMoved_controlStands (s : State) (id : Nat) : s.ControlStands (s.granaryMoved id) := by
  have hmig (t : State) (x : Nat) (f : Migration → Migration) : t.ControlStands (t.onMig x f) := .of_fab rfl rfl rfl rfl
  unfold State.granaryMoved
  split
  · exact .refl s
  · dsimp only
    split
    · split
      · exact hmig _ _ _
      · exact (hmig _ _ _).trans ((hmig _ _ _).trans (State.answerObj_controlStands _ _ _ _ _))
    · exact hmig _ _ _

/-- The answer about an object to what asked for it, of a status that is not OK. -/
theorem State.objReply_controlStands (s : State) (r : Reply) (id : Nat) {status : Nat} (hst : status ≠ 0) (vals : List Word) : s.ControlStands (s.objReply r id status vals) := by
  unfold State.objReply
  split
  · exact s.answerObj_controlStands _ _ _ _
  · exact s.answerObj_controlStands _ _ _ _
  · unfold State.onReserved
    split
    · exact .refl s
    · split
      · exact .refl s
      · exact s.abandon_controlStands _ _
  · rw [State.onSerial, if_pos hst]
    exact .after (State.answerObj_controlStands _ _ _ _ _) (.of_fab rfl rfl rfl rfl)
  · exact s.answerObj_controlStands _ _ _ _
  · exact s.answerObj_controlStands _ _ _ _
  · exact .of_fab rfl rfl rfl rfl
  · exact s.granaryMoved_controlStands _
  · unfold State.onConfirmed
    split
    · exact .refl s
    · split
      · exact .refl s
      · exact .of_fab rfl rfl rfl rfl
  · unfold State.onRowAck
    split
    · exact .refl s
    · split
      · exact s.abandon_controlStands _ _
      · exact .refl s
  · exact .refl s

theorem State.finishReply_controlStands (s : State) (r : Reply) {status : Nat} (hst : foundStatus status = false) (id : Nat) (coded : Bool) (vals : List Word) (data : List Byte) :
    s.ControlStands (s.finishReply r status id coded vals data) := by
  have hne : status ≠ 0 := by
    rintro rfl
    exact absurd hst (by decide)
  unfold State.finishReply
  split
  · exact (s.partReply_atTable _ _ _ hst _ _).controlStands
  · exact s.transferAck_controlStands _ _
  · exact s.waitReply_controlStands _ _ _ _
  · exact s.onOp_controlStands _ _
  · exact s.onOp_controlStands _ _
  · exact s.onOp_controlStands _ _
  · exact .of_fab rfl rfl rfl rfl
  · exact .of_fab rfl rfl rfl rfl
  · exact s.objReply_controlStands _ _ hne _

theorem goneStatus_notFound (b : PBody) : foundStatus (goneStatus b) = false := by
  unfold goneStatus
  split <;> rfl

end

end Sys2Proof.Machine

namespace Sys2Proof.Machine

section
variable {s : State}

/-! ### The controller's own steps -/

theorem State.setFab_fab (s : State) (st : FabState) : (s.setFab st).fab = { s.fab with st := st } := by
  rw [State.setFab, State.fabricEvent_rest]
  rfl

theorem State.setFab_mem (s : State) (st : FabState) : (s.setFab st).mem = s.mem := (State.fabricEvent_controlStands _).mem

theorem State.setFab_ptime (s : State) (st : FabState) : (s.setFab st).ptime = s.ptime := (State.fabricEvent_controlStands _).ptime

theorem State.setFab_ops (s : State) (st : FabState) : (s.setFab st).ops = s.ops := by
  rw [State.setFab, State.fabricEvent_rest]
  rfl

/-- The end of the operations that wait for the controller. -/
theorem State.endControl_rest (s : State) (st : OpState) : s.endControl st = { s with ops := (s.endControl st).ops, fab := { s.fab with ops := [] } } := by
  have hfold (l : List Nat) (s : State) : l.foldl (fun t o => t.resolve o st) s = { s with ops := (l.foldl (fun t o => t.resolve o st) s).ops } := by
    induction l generalizing s with
    | nil => rfl
    | cons o r ih =>
      rw [List.foldl_cons, ih]
      rfl
  unfold State.endControl
  rw [hfold]
  rfl

theorem exec_fbdrainDone (s : State) : exec .fbdrainDone s = .next (if s.drainOver then (s.setFab .drained).endControl .done else s) := rfl

theorem exec_relockComplete {r : Relock} (hst : s.fab.st = .locking) (hr : s.fab.relock = some r) : exec .relockComplete s =
    .next (if s.fab.agreed r then ((s.onFab (fun f => { f with relock := none, failPorts := 0 })).setFab .locked).endControl .done else s) := by
  change execRelockComplete s = _
  simp only [execRelockComplete, hr, hst, true_and]

theorem exec_lockTimeout {r : Relock} (hst : s.fab.st = .locking) (hr : s.fab.relock = some r) : exec .lockTimeout s =
    .next (if r.done ≠ r.mask ∧ r.deadline ≤ s.ptime then s.lockFail (portList (r.mask &&& ~~~r.done)).length else s) := by
  change execLockTimeout s = _
  simp only [execLockTimeout, hr, hst, true_and]

/-- A lock that fails. -/
theorem State.lockFail_spec (s : State) (n : Nat) : (s.lockFail n).fab = { s.fab with relock := none, failPorts := n, st := .lockfail, ops := [] } ∧ (s.lockFail n).mem = s.mem := by
  unfold State.lockFail
  rw [State.endControl_rest, State.setFab_fab]
  exact ⟨rfl, State.setFab_mem _ _⟩

/-! ### SYNC flits -/

theorem State.sendSync_controlStands (s : State) (mask : BitVec 64) (plan : BitVec 16) (time : Nat) (known moved : BitVec 4096) : s.ControlStands (s.sendSync mask plan time known moved) :=
  .foldl (fun t _ => t.enqueue_controlStands _) _ s

theorem State.firstCredits_controlStands (s : State) (port : Nat) : s.ControlStands (s.firstCredits port) := .foldl (fun t _ => t.enqueue_controlStands _) _ s

theorem State.forward_ptime (s : State) (n : Nat) : (s.forward n).ptime = s.ptime + n := Nat.add_right_comm _ _ _

/-- This chip may step to the largest pod time of the group. -/
def State.maySteps (s : State) (r : Relock) : Prop :=
  r.done = r.mask ∧ covers r.known (groupOf s.fab.staged) = true ∧ (0 < r.lead ∨ covers r.moved (chipSet [s.chipId]) = false)

/-- What this chip knows once it has stepped. -/
def Relock.stepped (r : Relock) (self : BitVec 4096) : Relock := { r with lead := 0, moved := r.moved ||| self }

theorem State.tryStep_waits {r : Relock} (hr : s.fab.relock = some r) (h : ¬s.maySteps r) : s.tryStep = s := by
  unfold State.tryStep
  simp only [hr]
  refine if_neg fun hc => h ⟨hc.1, hc.2.1, ?_⟩
  simpa using hc.2.2

theorem State.tryStep_steps {r : Relock} (hr : s.fab.relock = some r) (h : s.maySteps r) :
    ((s.forward r.lead).onFab (fun f => { f with relock := some (r.stepped (chipSet [s.chipId])) })).ControlStands s.tryStep := by
  obtain ⟨hdone, hknown, hlead⟩ := h
  unfold State.tryStep
  simp only [hr]
  rw [if_pos ⟨hdone, hknown, by simpa using hlead⟩]
  exact State.sendSync_controlStands _ _ _ _ _ _

/-- Whether it steps or not, the controller's state, its operations and its locked ports stand. -/
theorem State.tryStep_stands (s : State) : s.tryStep.fab.st = s.fab.st ∧ s.tryStep.fab.ops = s.fab.ops ∧ s.tryStep.fab.locked = s.fab.locked ∧ s.tryStep.mem = s.mem := by
  cases hr : s.fab.relock with
  | none =>
    have hnone : s.tryStep = s := by
      unfold State.tryStep
      rw [hr]
    rw [hnone]
    exact ⟨rfl, rfl, rfl, rfl⟩
  | some r =>
    by_cases h : s.maySteps r
    · have hstep := State.tryStep_steps hr h
      exact ⟨hstep.st, hstep.ops, hstep.locked, hstep.mem⟩
    · rw [State.tryStep_waits hr h]
      exact ⟨rfl, rfl, rfl, rfl⟩

/-- An FBRELOCK after a SYNC flit. -/
def Relock.heard (r : Relock) (s : State) (port time : Nat) (known moved : BitVec 4096) : Relock :=
  { r with done := r.done ||| 1#64 <<< port, lead := max r.lead (time - s.ptime), known := r.known ||| known, moved := r.moved ||| moved }

/-- What a SYNC flit of the right plan changes before this chip may step. -/
theorem State.relockSync_eq (s : State) (r : Relock) (port time : Nat) (fresh : Bool) (known moved : BitVec 4096) :
    ∃ t, (s.onFab (fun f => { f with locked := f.locked ||| 1#64 <<< port, relock := some (r.heard s port time known moved) })).ControlStands t ∧
      s.relockSync r port time fresh known moved = t.tryStep := by
  unfold State.relockSync
  extract_lets bit new r' t u rose
  refine ⟨_, ?_, rfl⟩
  have hu : t.ControlStands u := by
    dsimp only [u]
    split
    · exact t.firstCredits_controlStands port
    · exact .refl t
  refine hu.trans ?_
  split
  · exact u.sendSync_controlStands _ _ _ _ _
  · split
    · exact u.sendSync_controlStands _ _ _ _ _
    · exact .refl u

/-- SYNC flits have no number, and any plan id. -/
theorem State.packetIn_sync {port : BitVec 6} {p : Packet} (harg : s.arg = .packet port p) (ht : p.type = .sync) (run : State → BitVec 6 → Packet → State) :
    s.packetIn .sync run = run s port p := by
  simp only [State.packetIn, harg, if_pos ht, State.inLink, if_true, State.packetCame]
  rfl

theorem exec_syncFlit {port : BitVec 6} {p : Packet} {plan : BitVec 16} {time : Dword} {fresh : Bool} {known moved : BitVec 4096} {r : Relock} (harg : s.arg = .packet port p) (ht : p.type = .sync)
    (hb : p.body = .sync plan time fresh known moved) (hr : s.fab.relock = some r) (hst : s.fab.st = .locking) (hport : r.mask.getLsbD port.toNat = true) :
    exec .syncFlit s = .next (if plan ≠ r.plan then s.lockFail 1 else s.relockSync r port.toNat time.toNat fresh known moved) := by
  change execSyncFlit s = _
  rw [execSyncFlit, State.packetIn_sync harg ht]
  simp only [hb, hr, hst, hport]
  exact congrArg Host.Outcome.next (if_neg (by simp))

end

end Sys2Proof.Machine

namespace Sys2Proof.Machine

section
variable {s : State}

/-! ### FBOPEN -/

theorem State.dropMonitor_controlStands (s : State) (e : Nat × Nat × Reply) : s.ControlStands (s.dropMonitor e) := by
  unfold State.dropMonitor
  split
  · split
    · exact .after (by constructor <;> rfl) (s.endWaitc_controlStands _ _ _)
    · exact .refl s
  · exact .refl s

theorem State.dropHeld_controlStands (s : State) (e : Nat × Packet) : s.ControlStands (s.dropHeld e) := by
  have hleft : s.ControlStands (s.onFab (fun f => { f with queue := f.queue.erase e })) := by constructor <;> rfl
  have hgone (t : State) (r : Nat × Nat × Reply) : t.ControlStands (t.onFab (fun f => { f with replies := f.replies.erase r })) := by constructor <;> rfl
  unfold State.dropHeld
  refine hleft.trans ?_
  dsimp only
  split
  · exact .refl _
  · next r _ =>
    refine (hgone _ r).trans ?_
    split
    · exact State.transferAck_controlStands _ _ _
    · exact State.finishReply_controlStands _ _ (goneStatus_notFound _) _ _ _ _

/-- The staged table is live, and none is staged. -/
theorem State.openFabric_spec (s : State) : s.openFabric.fab.st = .opened ∧ s.openFabric.fab.live = s.fab.staged ∧ s.openFabric.fab.staged = none ∧ s.openFabric.mem = s.mem := by
  unfold State.openFabric
  extract_lets valid t u v w
  have hv : u.ControlStands v := .foldl State.dropMonitor_controlStands _ u
  have hw : v.ControlStands w := .foldl State.dropHeld_controlStands _ v
  have huw := hv.trans hw
  rw [State.setFab_fab, State.setFab_mem]
  exact ⟨rfl, huw.live, huw.staged, huw.mem⟩

/-! ### Commands -/

theorem toNat_pd (P : List Word) (i : Nat) : (BitVec.ofNat 64 (pd P i)).toNat = pd P i := by
  have hlo := (P.getD i 0).isLt
  have hhi := (P.getD (i + 1) 0).isLt
  rw [BitVec.toNat_ofNat, Nat.mod_eq_of_lt]
  unfold pd pw
  omega

/-- With none before it a command is applied as it comes. -/
theorem State.toControl_eq (h : s.fab.cmds = []) {c : FabCmd} (hc : ∀ n, c ≠ .counted n) : s.toControl c = s.applyCmd c := by
  have hself : s.onFab (fun f => { f with cmds := [] }) = s := congrArg (fun l => { s with fab := { s.fab with cmds := l } }) h.symm
  have hrun (t : State) (ht : t.fab.cmds = [c]) : State.runControl 1 t = (t.onFab (fun f => { f with cmds := [] })).applyCmd c := by
    cases c with
    | counted n => exact absurd rfl (hc n)
    | _ => simp only [State.runControl, ht]
  have hone : s.fab.cmds ++ [c] = [c] := by rw [h, List.nil_append]
  rw [State.toControl, h]
  exact (hrun _ hone).trans (congrArg (State.applyCmd · c) hself)

/-- From the issue of a command on, what the controller does with it. -/
theorem control_runs {m : Bool} {k : BitVec 4} {names : List Nat} {own : List (Option Exc)} {c : Nat → FabCmd} (h : s.uniReady .any true names names = true) (hgrant : s.grantExc = none)
    (ho : ∀ x ∈ own, x = none) (hk : s.busyHandle k.toNat = none) (hcmds : s.fab.cmds = []) (hc : ∀ o n, c o ≠ .counted n) :
    control s m k names own c = .next (((s.started k.toNat .fabric).applyCmd (c (s.nextOp % 4294967296))).finish m 8) := by
  have hfab : (s.started k.toNat .fabric).fab.cmds = [] := by rw [(s.started_begins k.toNat .fabric).rest]; exact hcmds
  rw [control, future_runs h (List.forall_mem_cons.2 ⟨hgrant, ho⟩) hk, State.toControl_eq hfab (hc _)]

theorem control_raises {m : Bool} {k : BitVec 4} {names : List Nat} {own : List (Option Exc)} {c : Nat → FabCmd} (h : s.uniReady .any true names names = true) (hgrant : s.grantExc ≠ none) :
    control s m k names own c = .next (s.raise (.of .priv)) := by
  have hpriv : s.grantExc = some (.of .priv) := by
    cases hg : s.grantExc with
    | none => exact absurd hg hgrant
    | some e =>
      unfold State.grantExc excIf at hg
      split at hg
      · exact hg.symm
      · exact absurd hg (by simp)
  have hfirst : firstExc (s.grantExc :: own) = some (.of .priv) := by
    rw [hpriv]
    rfl
  unfold control future
  exact uniJump_raise h hfirst

section
variable (s) (m : Bool) (k : BitVec 4) (ga : BitVec 9)

theorem exec_fbdrain_eq : exec (.fbdrain m k) s = control s m k [] [] .drain := rfl

theorem exec_fbopen_eq : exec (.fbopen m k) s = control s m k [] [] .opening := rfl

theorem exec_fbdark_eq : exec (.fbdark m k ga) s =
    control s m k (regs ga.toNat 16) [blockExc (zeros (s.block ga.toNat) (regs 2 14))] (fun o => .dark o (BitVec.ofNat 64 (pd (s.block ga.toNat) 0))) := rfl

theorem exec_fbrelock_eq : exec (.fbrelock m k ga) s =
    control s m k (regs ga.toNat 16) [blockExc ((2, decide (65536 ≤ pw (s.block ga.toNat) 2)) :: zeros (s.block ga.toNat) (regs 3 13))]
      (fun o => .relock o (BitVec.ofNat 64 (pd (s.block ga.toNat) 0)) (BitVec.ofNat 16 (pw (s.block ga.toNat) 2))) := rfl

end

/-- A command that the controller's state does not allow ends its operation, and nothing else. -/
theorem State.refused_spec (k : Nat) (m : Bool) : ∃ op, look (((s.started k .fabric).refuseControl (s.nextOp % 4294967296)).finish m 8).ops (s.nextOp % 4294967296) = some op ∧ op.st = .failed 0x14 false ∧
    (((s.started k .fabric).refuseControl (s.nextOp % 4294967296)).finish m 8).fab = s.fab ∧ (((s.started k .fabric).refuseControl (s.nextOp % 4294967296)).finish m 8).mem = s.mem := by
  have hfin := State.finish_atIssuer ((s.started k .fabric).refuseControl (s.nextOp % 4294967296)) m 8
  have hbeg := s.started_begins k .fabric
  refine ⟨_, (congrArg (look · _) hfin.ops).trans (State.resolve_look (s.started_look k .fabric) rfl rfl (.failed 0x14 false)), rfl, hfin.fab.trans hbeg.fab, hfin.mem.trans hbeg.objsStand.mem⟩

theorem State.beginDrain_spec (s : State) (o : Nat) : (s.beginDrain o).fab.st = .draining ∧ (s.beginDrain o).fab.markers = portList s.fab.locked ∧ (s.beginDrain o).fab.ops = [o] ∧ (s.beginDrain o).mem = s.mem := by
  unfold State.beginDrain
  extract_lets ports u
  have hu : u.fab = { s.fab with markers := ports, ops := [o], st := .draining } := State.setFab_fab _ _
  have hsent := (State.ControlStands.foldl (fun v port => v.enqueue_controlStands (v.onPort .marker port (.marker false))) ports u).trans (State.drainMigrations_controlStands _)
  rw [hsent.st, hsent.markers, hsent.ops, hsent.mem, hu]
  exact ⟨rfl, rfl, rfl, State.setFab_mem _ _⟩

theorem State.goDark_spec (s : State) (o : Nat) (keep : BitVec 64) : (s.goDark o keep).fab.st = .dark ∧ (s.goDark o keep).fab.keep = keep ∧ (∀ e ∈ (s.goDark o keep).fab.credits, keep.getLsbD e.1.1 = true) ∧
    (s.goDark o keep).mem = s.mem := by
  unfold State.goDark
  refine ⟨congrArg Fabric.st (State.setFab_fab _ _), congrArg Fabric.keep (State.setFab_fab _ _), fun e he => ?_, State.setFab_mem _ _⟩
  rw [show (State.resolve _ o .done).fab.credits = _ from congrArg Fabric.credits (State.setFab_fab _ _)] at he
  exact (List.mem_filter.1 he).2

/-- What an FBRELOCK starts with. -/
def State.relockOf (s : State) (mask : BitVec 64) (plan : BitVec 16) : Relock :=
  { mask := mask, done := 0, plan := plan, deadline := s.ptime + 1000000, lead := 0, known := chipSet [s.chipId], moved := 0 }

theorem State.beginRelock_spec (s : State) (o : Nat) (mask : BitVec 64) (plan : BitVec 16) : (s.beginRelock o mask plan).fab.st = .locking ∧ (s.beginRelock o mask plan).fab.ops = [o] ∧
    (mask ≠ 0 → (s.beginRelock o mask plan).fab.relock = some (s.relockOf mask plan)) ∧ (∀ port, mask.getLsbD port = true → (s.beginRelock o mask plan).fab.locked.getLsbD port = false) ∧
    (s.beginRelock o mask plan).mem = s.mem := by
  unfold State.beginRelock
  extract_lets anew r t
  have hfab : t.fab = _ := State.setFab_fab _ _
  have hmem : t.mem = s.mem := State.setFab_mem _ _
  have htold : t.ControlStands (t.tellSync r mask) := t.sendSync_controlStands _ _ _ _ _
  obtain ⟨hst, hops, hlocked, hm⟩ := State.tryStep_stands (t.tellSync r mask)
  refine ⟨?_, ?_, fun hmask => ?_, fun port hport => ?_, hm.trans (htold.mem.trans hmem)⟩
  · rw [hst, htold.st, hfab]
  · rw [hops, htold.ops, hfab]
    rfl
  · have hrelock : (t.tellSync r mask).fab.relock = some r := by
      rw [htold.relock, hfab]
      rfl
    rw [State.tryStep_waits hrelock (fun h => hmask h.1.symm)]
    exact hrelock
  · rw [hlocked, htold.locked, hfab]
    simp [State.onFab, hport]

end

end Sys2Proof.Machine

open Sys2Proof Sys2Proof.Machine in
/-- Settles O54: `control_runs` applies a command as it issues, and what follows leaves the controller alone (`ControlStands`). -/
theorem fabricController : Obligations.FabricController := by
  unfold Obligations.FabricController
  refine ⟨?commands, ?steps⟩
  case commands =>
    intro s m k ga P o none_ block fails goes staged
    refine ⟨fun h hgrant => ?_, fun h hgrant => ?_, fun hgrant hk hcmds => ⟨fun h => ?drain, fun h => ?opening, fun h hzero => ?dark, fun h hzero hplan => ?relock⟩⟩
    · exact List.forall_mem_cons.2 ⟨(exec_fbdrain_eq s m k).trans (control_raises h hgrant), List.forall_mem_singleton.2 ((exec_fbopen_eq s m k).trans (control_raises h hgrant))⟩
    · exact List.forall_mem_cons.2 ⟨(exec_fbdark_eq s m k ga).trans (control_raises h hgrant), List.forall_mem_singleton.2 ((exec_fbrelock_eq s m k ga).trans (control_raises h hgrant))⟩
    all_goals
      have hbeg := s.started_begins k.toNat .fabric
      have hfab := hbeg.fab
      have hfin (t : State) := t.finish_atIssuer m 8
      have hmem {t : State} (h : t.mem = (s.started k.toNat .fabric).mem) := (hfin t).mem.trans (h.trans hbeg.objsStand.mem)
      have hrefused := s.refused_spec k.toNat m
    case drain =>
      have hexec := (exec_fbdrain_eq s m k).trans <| control_runs h hgrant (by simp) hk hcmds (by simp)
      refine ⟨fun hst => ?_, fun hst => ?_⟩
      · rw [State.applyCmd, if_pos (by rw [hfab]; exact hst)] at hexec
        obtain ⟨h1, h2, h3, h4⟩ := (s.started k.toNat .fabric).beginDrain_spec o
        rw [hfab] at h2
        exact ⟨_, hexec, by rw [(hfin _).fab]; exact ⟨h1, h2, h3⟩, hmem h4⟩
      · rw [State.applyCmd, if_neg (by rw [hfab]; exact hst)] at hexec
        exact ⟨_, hrefused.choose, hexec, hrefused.choose_spec⟩
    case opening =>
      have hexec := (exec_fbopen_eq s m k).trans <| control_runs h hgrant (by simp) hk hcmds (by simp)
      refine ⟨fun hst => ?_, fun hst => ?_⟩
      · rw [State.applyCmd, if_pos (by rw [hfab]; exact hst)] at hexec
        obtain ⟨h1, h2, h3, h4⟩ := (s.started k.toNat .fabric).openFabric_spec
        rw [hfab] at h2
        exact ⟨_, hexec, by rw [(hfin _).fab]; exact ⟨h1, h2, h3⟩, hmem h4⟩
      · rw [State.applyCmd, if_neg (by rw [hfab]; exact hst)] at hexec
        exact ⟨_, hrefused.choose, hexec, hrefused.choose_spec⟩
    case dark =>
      have hexec := (exec_fbdark_eq s m k ga).trans <| control_runs h hgrant (List.forall_mem_singleton.2 (blockExc_none (zeros_false hzero))) hk hcmds (by simp)
      refine ⟨fun hst => ?_, fun hst => ?_⟩
      · rw [State.applyCmd, if_pos (by rw [hfab]; exact hst)] at hexec
        obtain ⟨h1, h2, h3, h4⟩ := (s.started k.toNat .fabric).goDark_spec o (BitVec.ofNat 64 (pd P 0))
        exact ⟨_, hexec, by rw [(hfin _).fab]; exact ⟨h1, (congrArg BitVec.toNat h2).trans (toNat_pd P 0), fun e he => (congrArg (BitVec.getLsbD · e.1.1) h2).trans (h3 e he)⟩, hmem h4⟩
      · rw [State.applyCmd, if_neg (by rw [hfab]; exact hst)] at hexec
        exact ⟨_, hrefused.choose, hexec, hrefused.choose_spec⟩
    case relock =>
      have hexec := (exec_fbrelock_eq s m k ga).trans <| control_runs h hgrant (List.forall_mem_singleton.2 (blockExc_none (List.forall_mem_cons.2 ⟨by simpa using hplan, zeros_false hzero⟩))) hk hcmds (by simp)
      have hstaged : s.fab.staged.elim false (fun x => x.plan == BitVec.ofNat 16 (pw P 2)) = true ↔ staged := by
        have hof : (BitVec.ofNat 16 (pw P 2)).toNat = pw P 2 := by rw [BitVec.toNat_ofNat, Nat.mod_eq_of_lt hplan]
        dsimp only [staged]
        cases s.fab.staged with
        | none => simp
        | some x => exact beq_iff_eq.trans ⟨fun h => (congrArg BitVec.toNat h).trans hof, fun h => BitVec.eq_of_toNat_eq (h.trans hof.symm)⟩
      refine ⟨fun hst hs => ?_, fun hst => ?_⟩
      · rw [State.applyCmd, if_pos (by rw [hfab]; exact ⟨hst, hstaged.2 hs⟩)] at hexec
        obtain ⟨h1, h2, h3, h4, h5⟩ := (s.started k.toNat .fabric).beginRelock_spec o (BitVec.ofNat 64 (pd P 0)) (BitVec.ofNat 16 (pw P 2))
        have hof : (s.started k.toNat .fabric).relockOf (BitVec.ofNat 64 (pd P 0)) (BitVec.ofNat 16 (pw P 2)) = s.relockOf (BitVec.ofNat 64 (pd P 0)) (BitVec.ofNat 16 (pw P 2)) := by
          rw [State.relockOf, hbeg.controlStands.ptime, hbeg.controlStands.chipId]
          rfl
        rw [hof] at h3
        exact ⟨_, hexec, by rw [(hfin _).fab]; exact ⟨h1, h2, h3, h4⟩, hmem h5⟩
      · rw [State.applyCmd, if_neg ?_] at hexec
        · exact ⟨_, hrefused.choose, hexec, hrefused.choose_spec⟩
        · rw [hfab]
          rintro ⟨hst', hs⟩
          rcases hst with ⟨hdark, hfail⟩ | hno
          · exact hst'.elim hdark hfail
          · exact hno (hstaged.1 hs)
  case steps =>
    intro s
    refine ⟨fun h => ?_, fun h => ?_, fun r hst hr => ⟨fun h => ?_, fun h => ?_, fun hne hdead => ?_, fun h => ?_, ?sync⟩⟩
    · have hrest := (s.setFab .drained).endControl_rest .done
      refine ⟨_, (exec_fbdrainDone s).trans (by rw [if_pos h]), ?_, ?_, ?_⟩
      · rw [hrest, State.setFab_fab]
      · rw [hrest]
      · rw [hrest]
        exact State.setFab_mem _ _
    · exact (exec_fbdrainDone s).trans (by rw [if_neg (by simp [h])])
    · have hrest := ((s.onFab (fun f => { f with relock := none, failPorts := 0 })).setFab .locked).endControl_rest .done
      refine ⟨_, (exec_relockComplete hst hr).trans (by rw [if_pos h]), ?_, ?_, ?_, ?_⟩
      · rw [hrest, State.setFab_fab]
      · rw [hrest, State.setFab_fab]
        rfl
      · rw [hrest]
        exact State.setFab_ptime _ _
      · rw [hrest]
        exact State.setFab_mem _ _
    · exact (exec_relockComplete hst hr).trans (by rw [if_neg (by simp [h])])
    · obtain ⟨hfab, hmem⟩ := s.lockFail_spec (portList (r.mask &&& ~~~r.done)).length
      exact ⟨_, (exec_lockTimeout hst hr).trans (by rw [if_pos ⟨hne, hdead⟩]), by rw [hfab], by rw [hfab], by rw [hfab], hmem⟩
    · have hnot : ¬(r.done ≠ r.mask ∧ r.deadline ≤ s.ptime) := by
        rintro ⟨hne, hdead⟩
        rcases h with h | h
        · exact hne h
        · exact Nat.not_le.2 h hdead
      exact (exec_lockTimeout hst hr).trans (by rw [if_neg hnot])
    case sync =>
      intro port p plan time fresh known moved harg ht hb hport r1 self steps
      have hexec := exec_syncFlit harg ht hb hr hst hport
      refine ⟨fun hplan => ?_, fun hplan => ?_⟩
      · rw [if_neg (by simp [hplan])] at hexec
        obtain ⟨t, hstands, heq⟩ := s.relockSync_eq r port.toNat time.toNat fresh known moved
        rw [heq] at hexec
        obtain ⟨hst', -, hlocked, hmem⟩ := t.tryStep_stands
        have hsteps : t.maySteps r1 ↔ steps := by
          unfold State.maySteps
          rw [hstands.staged, hstands.chipId]
          exact Iff.rfl
        refine ⟨_, hexec, ?_, ?_, hmem.trans hstands.mem, fun hno => ?_, fun hyes => ?_⟩
        · rw [hst', hstands.st]
          exact hst
        · rw [hlocked, hstands.locked]
          simp only [State.onFab, BitVec.getLsbD_or, BitVec.getLsbD_shiftLeft]
          simp [show port.toNat < 64 from port.isLt]
        · rw [State.tryStep_waits hstands.relock (fun h => hno (hsteps.1 h))]
          exact ⟨hstands.relock, hstands.ptime⟩
        · have hstep := State.tryStep_steps hstands.relock (hsteps.2 hyes)
          refine ⟨hstep.relock.trans ?_, hstep.ptime.trans ?_⟩
          · rw [hstands.chipId]
            rfl
          · exact (t.forward_ptime r1.lead).trans (congrArg (· + r1.lead) hstands.ptime)
      · rw [if_pos hplan] at hexec
        obtain ⟨hfab, hmem⟩ := s.lockFail_spec 1
        exact ⟨_, hexec, by rw [hfab], by rw [hfab], hmem⟩

/-! PROOFS, 07 R224, R226, R227; 08 R234 to R245: threads, sheaves and the issue slots. -/

namespace Sys2Proof.Machine

/-! ### FORK -/

/-- What a path's instruction ends with touches no sequencer. -/
theorem State.finish_seqs {s : State} {k : GKey} {lanes : Mask} {pc : Word} (hc : s.cur = .path k lanes pc) (m : Bool) (len : Nat) : (s.finish m len).seqs = s.seqs := by
  cases m <;> simp only [State.finish, State.advance, State.mark, hc, State.onGroup_cur, if_true] <;> rfl

/-- FORK at a sequencer: the block's program for its kind, where there is one, starts at its first instruction. -/
def Block.entryOf (b : Block) (kind : SeqKind) : Option Word := match kind with | .msq => b.msq | .cst => b.cst

theorem State.forkBlock_cur (s : State) (blk : Nat) (words : List Word) : (s.forkBlock blk words).cur = s.cur := by
  unfold State.forkBlock
  split <;> rfl

theorem State.mem_forkBlock_seqs {s : State} {blk : Nat} {b : Block} (hb : look s.blocks blk = some b) (words : List Word) {q : QKey} {e : Sequencer} (he : (q, e) ∈ s.seqs) (hq : q.sg.blk = blk) :
    (q, e.forkWith words q.sg.seg (b.entryOf q.kind)) ∈ (s.forkBlock blk words).seqs := by
  simp only [State.forkBlock, hb, List.mem_map]
  exact ⟨(q, e), he, by rw [if_pos hq]; rfl⟩

theorem Block.entryOf_eq (b : Block) (kind : SeqKind) : b.entryOf kind = if kind = .msq then b.msq else b.cst := by
  cases kind <;> rfl

/-! ### Ordered lists -/

section
variable {α : Type} (lt : α → α → Bool)

theorem insertBefore_perm (x : α) (l : List α) : (insertBefore lt x l).Perm (x :: l) := by
  induction l with
  | nil => exact .refl _
  | cons y r ih =>
    unfold insertBefore
    split
    · exact .refl _
    · exact (ih.cons y).trans (.swap x y r)

theorem sortStable_perm (l : List α) : (sortStable lt l).Perm l := by
  have hfold : ∀ r : List α, (l.foldl (fun r x => insertBefore lt x r) r).Perm (l ++ r) := by
    induction l with
    | nil => exact fun r => .refl _
    | cons x l ih => exact fun r => (ih _).trans (((insertBefore_perm lt x r).append_left l).trans List.perm_middle)
  exact (hfold []).trans (by rw [List.append_nil])

variable {lt} {f : α → Nat} (hle : ∀ x y, lt x y = true → f x ≤ f y) (hge : ∀ x y, lt x y = false → f y ≤ f x)
include hle hge

theorem insertBefore_pairwise (x : α) {l : List α} (h : l.Pairwise (fun a b => f a ≤ f b)) : (insertBefore lt x l).Pairwise (fun a b => f a ≤ f b) := by
  induction l with
  | nil => exact List.pairwise_singleton _ x
  | cons y r ih =>
    obtain ⟨hy, hr⟩ := List.pairwise_cons.1 h
    unfold insertBefore
    split
    · next hlt =>
      refine List.pairwise_cons.2 ⟨fun z hz => ?_, h⟩
      obtain rfl | hz := List.mem_cons.1 hz
      · exact hle _ _ hlt
      · exact (hle _ _ hlt).trans (hy z hz)
    · next hlt =>
      refine List.pairwise_cons.2 ⟨fun z hz => ?_, ih hr⟩
      obtain rfl | hz := List.mem_cons.1 ((insertBefore_perm lt x r).subset hz)
      · exact hge _ _ (by simpa using hlt)
      · exact hy z hz

/-- A sort by an order that follows a number puts that number in ascending order. -/
theorem sortStable_pairwise (l : List α) : (sortStable lt l).Pairwise (fun a b => f a ≤ f b) := by
  have hfold : ∀ r : List α, r.Pairwise (fun a b => f a ≤ f b) → (l.foldl (fun r x => insertBefore lt x r) r).Pairwise (fun a b => f a ≤ f b) := by
    induction l with
    | nil => exact fun r h => h
    | cons x l ih => exact fun r h => ih _ (insertBefore_pairwise hle hge x h)
  exact hfold [] .nil

end

/-! ### Threads on the move -/

/-- The order of the threads of a move: by key, then by thread index (08 R244). -/
def Mover.before (x y : Mover) : Bool := decide (x.key < y.key) || (x.key == y.key && decide (x.thread < y.thread))

theorem Mover.key_le_of_before {x y : Mover} (h : x.before y = true) : x.key ≤ y.key := by
  simp only [Mover.before, Bool.or_eq_true, Bool.and_eq_true, decide_eq_true_eq, beq_iff_eq] at h
  omega

theorem Mover.key_le_of_not_before {x y : Mover} (h : x.before y = false) : y.key ≤ x.key := by
  simp only [Mover.before, Bool.or_eq_false_iff, decide_eq_false_iff_not] at h
  omega

/-- The word of a register's lane. -/
def Group.wordAt (g : Group) (j l : Nat) : Word := (g.v.getD j VReg.zero).lanes.getD l 0

theorem look_map_self {α : Type} (f : Nat → α) {l : List Nat} {j : Nat} (h : j ∈ l) : look (l.map (fun i => (i, f i))) j = some (f j) := by
  induction l with
  | nil => simp at h
  | cons i r ih =>
    by_cases hij : i = j
    · simp [look, hij]
    · have hr : j ∈ r := (List.mem_cons.1 h).resolve_left (Ne.symm hij)
      simpa [look, hij] using ih hr

section
variable {mask key : Nat} (hkey : key < 64) (hmask : mask / 2 ^ key % 2 = 1)
include hkey hmask

theorem mem_movedRegs : key ∈ movedRegs mask := by
  simp [movedRegs, hkey, hmask]

/-- The threads that leave a group carry the words of their key. -/
theorem moversOf_words (g : Group) : (moversOf mask key g).map (fun x => x.word key) = (lanesOf g.live).map (g.wordAt key) := by
  simp only [moversOf, List.map_map, List.map_inj_left, Function.comp_apply]
  intro l _
  rw [Mover.word, look_map_self _ (mem_movedRegs hkey hmask)]
  rfl

theorem moversOf_key {g : Group} {x : Mover} (hx : x ∈ moversOf mask key g) : x.key = (x.word key).toNat := by
  obtain ⟨l, -, rfl⟩ := List.mem_map.1 hx
  rw [Mover.word, look_map_self _ (mem_movedRegs hkey hmask)]
  rfl

/-- Register `key` of a group that receives threads holds their words. -/
theorem Group.receive_word (g : Group) (stamp gid : Nat) (pc : Word) {ts : List Mover} (hg : key < g.v.length) (hts : ts.length ≤ 32) {l : Nat} (hl : l < ts.length) :
    (g.receive stamp gid mask pc ts).wordAt key l = (ts[l]).word key := by
  have hreg : (movedRegs mask).contains key = true := List.contains_iff_mem.2 (mem_movedRegs hkey hmask)
  have hlen : key < (g.receive stamp gid mask pc ts).v.length := by simpa [Group.receive] using hg
  rw [Group.wordAt, List.getD_eq_getElem _ VReg.zero hlen]
  simp only [Group.receive, List.getElem_mapIdx]
  rw [getD_map_range _ (hl.trans_le hts)]
  simp only [List.getElem?_eq_getElem hl, hreg, if_true]

end

theorem Group.receive_lane (g : Group) (stamp gid mask : Nat) (pc : Word) {ts : List Mover} (hts : ts.length ≤ 32) (l : Nat) :
    (g.receive stamp gid mask pc ts).lane l = (ts[l]?).elim Lane.gone (fun x => laneStart (pc + 8) x.ras) := by
  by_cases hl : l < 32
  · exact getD_map_range (fun l => (ts[l]?).elim Lane.gone (fun x => laneStart (pc + 8) x.ras)) hl _
  · rw [List.getElem?_eq_none (by omega)]
    exact List.getD_eq_default _ _ (by simp [Group.receive]; omega)

/-! ### A group that meets no other of its block at REGROUP -/

/-- The groups of a block after a change of one that does not end it. -/
theorem State.aliveGroups_onGroup (s : State) (k : GKey) {f : Group → Group} (hf : ∀ g, (f g).ended = g.ended) (blk : Nat) :
    (s.onGroup k f).aliveGroups blk = (s.aliveGroups blk).map (fun e => (e.1, if e.1 = k then f e.2 else e.2)) := by
  simp only [State.aliveGroups, State.onGroup, List.map_flatten, List.map_map]
  refine congrArg List.flatten (List.map_congr_left fun n _ => ?_)
  rw [Function.comp_apply, look_upd]
  cases look s.groups ⟨blk, n⟩ with
  | none => split <;> rfl
  | some g =>
    by_cases hend : g.ended = true <;> by_cases hk : (⟨blk, n⟩ : GKey) = k <;> simp [hk, hend, hf]

theorem State.aliveGroups_onGroup_alone {s : State} {k : GKey} {g : Group} (ha : s.aliveGroups k.blk = [(k, g)]) {f : Group → Group} (hf : ∀ g, (f g).ended = g.ended) :
    (s.onGroup k f).aliveGroups k.blk = [(k, f g)] := by
  rw [s.aliveGroups_onGroup k hf, ha, List.map_singleton, if_pos rfl]

/-- No sheaf starts without a free GROUPID or without threads that wait. -/
theorem State.sheafStep_none {s : State} {sg : SKey} {all : Bool} (h : s.freeGid sg = none ∨ s.nextSheaf sg all = []) : s.sheafStep sg all = s := by
  unfold State.sheafStep
  split
  · next hn hr =>
    rcases h with h | h
    · exact nomatch h.symm.trans hn
    · exact nomatch h.symm.trans hr
  · rfl

section
variable {s : State} {blk : Nat} (hspawn : ∀ e ∈ s.segs, e.1.blk = blk → e.2.spawn = [])
include hspawn

theorem State.nextSheaf_nil {sg : SKey} (hsg : sg.blk = blk) (all : Bool) : s.nextSheaf sg all = [] := by
  have hl : (look s.segs sg).elim [] (fun g => g.spawn) = [] := by
    cases hg : look s.segs sg with
    | none => rfl
    | some g => exact hspawn _ (look_mem hg) hsg
  simp only [State.nextSheaf, hl, List.find?_nil]

theorem State.startAll_eq {sg : SKey} (hsg : sg.blk = blk) (n : Nat) : s.startAll sg n = s := by
  induction n with
  | zero => rfl
  | succ n ih =>
    rw [State.startAll, State.sheafStep_none (.inr (s.nextSheaf_nil hspawn hsg true)), ih]

theorem State.startAlls_eq : (s.segKeys blk).foldl (fun x sg => x.startAll sg 64) s = s := by
  have hkeys : ∀ sg ∈ s.segKeys blk, sg.blk = blk := by
    simp only [State.segKeys, List.mem_map, List.mem_filter, beq_iff_eq]
    rintro _ ⟨e, ⟨-, he⟩, rfl⟩
    exact he
  generalize s.segKeys blk = l at hkeys
  induction l with
  | nil => rfl
  | cons sg r ih => rw [List.foldl_cons, s.startAll_eq hspawn (hkeys sg (List.mem_cons_self ..)), ih fun x hx => hkeys x (List.mem_cons_of_mem _ hx)]

theorem State.noSpawn : ((s.segs.filter (fun e => e.1.blk == blk)).any (fun e => !e.2.spawn.isEmpty)) = false := by
  simp only [List.any_eq_false, List.mem_filter, beq_iff_eq]
  rintro e ⟨he, hblk⟩
  simp [hspawn e he hblk]

theorem State.spawnStuck_false : s.spawnStuck blk = false := by
  simp only [State.spawnStuck, List.any_eq_false, List.mem_filter, beq_iff_eq]
  rintro e ⟨he, hblk⟩
  simp [hspawn e he hblk]

end

theorem moveTagBad_alone (g : Group) (mask key : Nat) : moveTagBad [g] mask key false = false := by
  simp [moveTagBad]

/-- The threads of a lone group after the move, in order. -/
def Group.movesTo (g : Group) (mask key : Nat) : List Mover := sortStable Mover.before (moversOf mask key g)

theorem State.regroupMove_alone {s : State} {k : GKey} {g : Group} {path : Mask} {p : Word} {m n gd : Nat} {b : Bool} (hw : g.wait = .regroup path p m n false gd b) (pc : Word) (mask key : Nat) :
    s.regroupMove [(k, g)] pc mask key false = s.setGroup k (g.receive s.freeCtr k.gid mask pc ((g.movesTo mask key).take 32)) := by
  simp only [State.regroupMove, List.map_singleton, List.flatten_singleton, List.zipIdx_singleton, List.foldl_cons, List.foldl_nil, hw, Bool.false_eq_true, if_false, Nat.mul_zero, List.drop_zero]
  rfl

/-- A group that has arrived at a wait. -/
def Group.arrivesAt (w : Wait) (g : Group) : Group := { g with wait := w }

/-- A group that is alone in its block, on whose segments no thread waits, moves at once. -/
theorem State.arriveRegroup_alone {s : State} {k : GKey} {g : Group} (ha : s.aliveGroups k.blk = [(k, g)]) (hw : g.wait = .none)
    (hspawn : ∀ e ∈ s.segs, e.1.blk = k.blk → e.2.spawn = []) {w : Wait} {path : Mask} {pc : Word} {mask key gd : Nat} {m : Bool} (hreg : w = .regroup path pc mask key false gd m) :
    s.arriveRegroup k w pc mask key = (s.onGroup k (Group.arrivesAt w)).setGroup k ((g.arrivesAt w).receive s.freeCtr k.gid mask pc ((g.movesTo mask key).take 32)) := by
  have hnone : s.arrived k.blk = [] := by simp [State.arrived, ha, hw]
  have hwait : (g.arrivesAt w).wait = .regroup path pc mask key false gd m := hreg
  have halone : (s.onGroup k (Group.arrivesAt w)).aliveGroups k.blk = [(k, g.arrivesAt w)] := State.aliveGroups_onGroup_alone ha fun _ => rfl
  have hhere : (s.onGroup k (Group.arrivesAt w)).arrived k.blk = [(k, g.arrivesAt w)] := by
    rw [State.arrived, halone, List.filter_cons_of_pos (by simp only [hwait]), List.filter_nil]
  have hstay : ∀ e ∈ (s.onGroup k (Group.arrivesAt w)).segs, e.1.blk = k.blk → e.2.spawn = [] := hspawn
  have hgo : s.arriveRegroup k w pc mask key = (s.onGroup k (Group.arrivesAt w)).tryRegroup k.blk := by
    rw [State.arriveRegroup, hnone, if_neg (by simp [regroupDiffers])]
    simp only [List.isEmpty_nil, if_true, s.startAlls_eq hspawn, State.spawnStuck_false hspawn, Bool.false_eq_true, if_false]
    rfl
  rw [hgo, State.tryRegroup, hhere, halone]
  simp only [List.length_singleton, Nat.lt_irrefl, if_false, State.spawnStuck_false hstay, State.noSpawn hstay, Bool.false_eq_true, List.map_singleton, hwait, moveTagBad_alone]
  rw [State.regroupMove_alone hwait pc mask key]
  rfl

/-! ### REGROUP -/

section
variable {s : State} {k : GKey} {lanes : Mask} {pc : Word} {g : Group} (hp : s.pathIs k lanes pc g)
include hp

/-- REGROUP whose checks pass: the path drains, then arrives. -/
theorem State.pathIs.exec_regroup {m dsp : Bool} {gd ga : BitVec 9} {key : BitVec 8}
    (hready : s.uniReady .group true ((if dsp then [gd.toNat] else []) ++ [ga.toNat, ga.toNat + 1]) [ga.toNat, ga.toNat + 1] = true) (hkn : key.toNat < s.vLimit)
    (hmask : s.readPair 0 ga.toNat / 2 ^ s.vLimit = 0)
    (hkeys : ∀ j ∈ if dsp then regs key.toNat 3 else [key.toNat], (dsp = true → s.readPair 0 ga.toNat / 2 ^ j % 2 = 1) ∧ s.tagOf j ≠ .poison) (hwhole : g.live &&& ~~~lanes = 0) :
    exec (.regroup m dsp gd ga key) s = .next (if s.drained then s.settleCur.arriveRegroup k (.regroup lanes pc (s.readPair 0 ga.toNat) key.toNat dsp gd.toNat m) pc (s.readPair 0 ga.toNat) key.toNat
      else s.drain) := by
  change execRegroup m dsp gd ga key s = _
  have hr := resident_of_uniReady hready
  simp only [State.uniReady, Bool.and_eq_true, Bool.not_eq_true'] at hready
  obtain ⟨⟨⟨⟨-, hrow⟩, hclosed⟩, hnames⟩, hstruck⟩ := hready
  have hlegal : (decide (s.readPair 0 ga.toNat / 2 ^ s.vLimit ≠ 0) || (dsp && (if dsp then regs key.toNat 3 else [key.toNat]).any (fun j => s.readPair 0 ga.toNat / 2 ^ j % 2 == 0))) = false := by
    rw [hmask, Bool.or_eq_false_iff, Bool.and_eq_false_imp]
    refine ⟨rfl, fun hd => List.any_eq_false.2 fun j hj => ?_⟩
    rw [(hkeys j hj).1 hd]
    exact Bool.false_ne_true
  have hpoison : firstExc ((if dsp then regs key.toNat 3 else [key.toNat]).map (fun j => s.poisonExc (.v 1 j (fun _ => true)))) = none :=
    firstExc_none fun x hx => by
      obtain ⟨j, hj, rfl⟩ := List.mem_map.1 hx
      exact excIf_false (by simpa using (hkeys j hj).2)
  have hwhole' : s.curGroup.elim false (fun g => (g.live &&& ~~~s.curLanes) != 0) = false := by
    rw [hp.curGroup, hp.curLanes, Option.elim_some, hwhole, bne_self_eq_false]
  unfold execRegroup
  rw [issue_next hr]
  · simp only [hp.1]
  · rw [List.append_assoc, firstExc_append_none, firstExc_append_none hpoison]
    · exact firstExc_one_none (excIf_false hwhole')
    · refine firstExc_none fun x hx => ?_
      simp only [List.mem_cons, List.not_mem_nil, or_false] at hx
      rcases hx with rfl | rfl | rfl | rfl | rfl
      · exact nameExc_none (by simpa using hkn) hnames
      · exact excIf_false hlegal
      · exact rowExc_none hrow
      · exact excIf_false hclosed
      · exact struckExc_none hstruck

end

/-- What a lone group holds after its move: the words of its key in ascending order, in its lowest lanes. -/
theorem Group.receive_moved {g : Group} {mask key : Nat} (hkey : key < 64) (hmask : mask / 2 ^ key % 2 = 1) (hlen : key < g.v.length) (stamp gid : Nat) (pc : Word) :
    let n := (lanesOf g.live).length
    let g' := g.receive stamp gid mask pc ((g.movesTo mask key).take 32)
    ((List.range n).map (g'.wordAt key)).Perm ((lanesOf g.live).map (g.wordAt key)) ∧ ((List.range n).map (fun l => (g'.wordAt key l).toNat)).Pairwise (· ≤ ·) ∧
      (∀ l, l < n → (g'.lane l).st = .live ∧ (g'.lane l).pc = pc + 8) ∧ ∀ l, n ≤ l → (g'.lane l).st = .exited := by
  intro n g'
  have hperm : (g.movesTo mask key).Perm (moversOf mask key g) := sortStable_perm _ _
  have hlength : (g.movesTo mask key).length = n := by rw [hperm.length_eq, moversOf, List.length_map]
  have hn : n ≤ 32 := (List.length_filter_le _ _).trans (by rw [List.length_range])
  have hwords : (List.range n).map (g'.wordAt key) = (g.movesTo mask key).map (fun x => x.word key) := by
    refine List.ext_getElem (by simp [hlength]) fun l hl _ => ?_
    have hl' : l < (g.movesTo mask key).length := by simpa [hlength] using hl
    have htake : (g.movesTo mask key).take 32 = g.movesTo mask key := List.take_of_length_le (by omega)
    simp only [List.getElem_map, List.getElem_range, g', htake]
    exact g.receive_word hkey hmask stamp gid pc hlen (by omega) hl'
  have hsorted : (g.movesTo mask key).Pairwise (fun x y => (x.word key).toNat ≤ (y.word key).toNat) :=
    (sortStable_pairwise (f := Mover.key) (fun _ _ => Mover.key_le_of_before) (fun _ _ => Mover.key_le_of_not_before) (moversOf mask key g)).imp_of_mem fun hx hy hxy => by
      rwa [moversOf_key hkey hmask (hperm.subset hx), moversOf_key hkey hmask (hperm.subset hy)] at hxy
  refine ⟨?_, ?_, fun l hl => ?_, fun l hl => ?_⟩
  · rw [hwords, ← moversOf_words hkey hmask]
    exact hperm.map _
  · have hnat : (List.range n).map (fun l => (g'.wordAt key l).toNat) = (g.movesTo mask key).map (fun x => (x.word key).toNat) := by
      have hmap := congrArg (List.map BitVec.toNat) hwords
      rw [List.map_map, List.map_map] at hmap
      exact hmap
    rw [hnat, List.pairwise_map]
    exact hsorted
  · have hget : ((g.movesTo mask key).take 32)[l]? = some ((g.movesTo mask key)[l]) := by
      rw [List.getElem?_take_of_lt (by omega), List.getElem?_eq_getElem]
    rw [g.receive_lane stamp gid mask pc (List.length_take_le _ _), hget]
    exact ⟨rfl, rfl⟩
  · rw [g.receive_lane stamp gid mask pc (List.length_take_le _ _), List.getElem?_eq_none (by rw [List.length_take]; omega)]
    rfl

/-- REGROUP of a lone group that has drained. -/
theorem State.pathIs.regroup_alone {s : State} {k : GKey} {lanes : Mask} {pc : Word} {g : Group} (hp : s.pathIs k lanes pc g) (ha : s.aliveGroups k.blk = [(k, g)]) (hw : g.wait = .none) (hclob : g.clobV = [])
    (hspawn : ∀ e ∈ s.segs, e.1.blk = k.blk → e.2.spawn = []) {mask key : Nat} (hkey : key < 64) (hmask : mask / 2 ^ key % 2 = 1) (hlen : key < g.v.length) (gd : Nat) (m : Bool) :
    let t := s.settleCur.arriveRegroup k (.regroup lanes pc mask key false gd m) pc mask key
    let n := (lanesOf g.live).length
    ∃ g', look t.groups k = some g' ∧ g'.wait = .moving ∧ t.mem = s.mem ∧ ((List.range n).map (g'.wordAt key)).Perm ((lanesOf g.live).map (g.wordAt key)) ∧
      ((List.range n).map (fun l => (g'.wordAt key l).toNat)).Pairwise (· ≤ ·) ∧ (∀ l, l < n → (g'.lane l).st = .live ∧ (g'.lane l).pc = pc + 8) ∧ ∀ l, n ≤ l → (g'.lane l).st = .exited := by
  intro t n
  have halone : s.settleCur.aliveGroups k.blk = [(k, g.settled s.freeCtr s.clock)] := by
    rw [hp.settleCur, State.aliveGroups_onGroup_alone ha (fun g => by rw [g.settle_payAcquire]; unfold Group.parkEnd Group.payAcquire; split <;> rfl), g.settle_payAcquire]
    rfl
  have hstay : ∀ e ∈ s.settleCur.segs, e.1.blk = k.blk → e.2.spawn = [] := by
    rw [hp.settleCur]
    exact hspawn
  have ht : t = _ := State.arriveRegroup_alone halone hw hstay (rfl : Wait.regroup lanes pc mask key false gd m = _)
  have hv : (g.settled s.freeCtr s.clock).v = g.v := (g.parkEnd_v _ _).trans (by rw [hclob]; rfl)
  have hlive : (g.settled s.freeCtr s.clock).live = g.live := Group.live_congr (g.settled_lanes _ _)
  have hword : (g.settled s.freeCtr s.clock).wordAt key = g.wordAt key := by
    unfold Group.wordAt
    rw [hv]
  have hmoved := ((g.settled s.freeCtr s.clock).arrivesAt (.regroup lanes pc mask key false gd m)).receive_moved hkey hmask (hlen.trans_eq (congrArg List.length hv.symm)) s.settleCur.freeCtr k.gid pc
  rw [show ((g.settled s.freeCtr s.clock).arrivesAt (.regroup lanes pc mask key false gd m)).live = g.live from hlive,
    show ((g.settled s.freeCtr s.clock).arrivesAt (.regroup lanes pc mask key false gd m)).wordAt key = g.wordAt key from hword] at hmoved
  refine ⟨_, ?_, rfl, ?_, hmoved⟩
  · rw [ht]
    exact look_put _ _ _
  · rw [ht]
    exact hp.settleCur_mem

/-! ### The end of a move -/

/-- A group whose move is complete. -/
def Group.moveEnds (now w : Nat) (g : Group) : Group := { g with floor := now, gwct := w, wait := .none }

theorem State.checkEnd_look_ne (s : State) {j k : GKey} (h : k ≠ j) : look (s.checkEnd j).groups k = look s.groups k := by
  unfold State.checkEnd
  split
  · rfl
  · split
    · exact look_upd_ne _ _ h
    · rfl

theorem State.checkEnd_of_live {s : State} {k : GKey} {g : Group} (hg : look s.groups k = some g) (hlive : g.live ≠ 0) : s.checkEnd k = s := by
  simp only [State.checkEnd, hg]
  rw [if_neg fun h => hlive h.1]

section
variable {k : GKey} (now w : Nat)

theorem State.moveEnds_look {s : State} {g : Group} (hg : look s.groups k = some g) (hlive : g.live ≠ 0) (j : GKey) :
    look ((s.onGroup j (Group.moveEnds now w)).checkEnd j).groups k = some (if k = j then g.moveEnds now w else g) := by
  by_cases hj : k = j
  · subst hj
    have hend : look (s.onGroup k (Group.moveEnds now w)).groups k = some (g.moveEnds now w) := upd_some _ hg
    rw [State.checkEnd_of_live hend hlive, hend, if_pos rfl]
  · rw [State.checkEnd_look_ne _ hj, if_neg hj]
    exact (look_upd_ne _ _ hj).trans hg

/-- Of a move of some groups, one that holds a live thread goes on. -/
theorem State.foldl_moveEnds_look {l : List GKey} {s : State} {g : Group} (hg : look s.groups k = some g) (hlive : g.live ≠ 0) :
    look (l.foldl (fun (x : State) j => (x.onGroup j (Group.moveEnds now w)).checkEnd j) s).groups k = some (if k ∈ l then g.moveEnds now w else g) := by
  induction l generalizing s g with
  | nil => exact hg
  | cons j r ih =>
    have hstep := State.moveEnds_look now w hg hlive j
    by_cases hj : k = j
    · rw [if_pos hj] at hstep
      rw [List.foldl_cons, ih hstep hlive, if_pos (List.mem_cons.2 (.inl hj))]
      split <;> rfl
    · rw [if_neg hj] at hstep
      rw [List.foldl_cons, ih hstep hlive]
      simp only [List.mem_cons, hj, false_or]

end

theorem State.endMove_mem (s : State) (blk : Nat) : (s.endMove blk).mem = s.mem :=
  State.foldl_mem (fun t x => (t.onGroup x _).checkEnd_mem x) _ s

theorem State.endMove_look {s : State} {k : GKey} {g : Group} (hg : look s.groups k = some g) (hgid : k.gid < 64) (hend : g.ended = false) (hwait : g.wait = .moving) (hlive : g.live ≠ 0) :
    look (s.endMove k.blk).groups k = some (g.moveEnds s.clock (maxOf (((s.aliveGroups k.blk).filter (fun e => e.2.wait == .moving)).map (fun e => e.2.gwct)))) := by
  have hmem : k ∈ ((s.aliveGroups k.blk).filter (fun e => e.2.wait == .moving)).map Prod.fst :=
    List.mem_map.2 ⟨(k, g), List.mem_filter.2 ⟨State.mem_aliveGroups.2 ⟨rfl, hgid, hg, hend⟩, by rw [hwait]; rfl⟩, rfl⟩
  have hfold := State.foldl_moveEnds_look s.clock (maxOf (((s.aliveGroups k.blk).filter (fun e => e.2.wait == .moving)).map (fun e => e.2.gwct)))
    (l := ((s.aliveGroups k.blk).filter (fun e => e.2.wait == .moving)).map Prod.fst) hg hlive
  rw [if_pos hmem] at hfold
  exact hfold

/-! ### A sheaf that starts -/

/-- A task that ends for its poison changes no more of a group than its noted abort. -/
theorem State.endPoisoned_group (s : State) (i : Nat) {k : GKey} {g : Group} (hg : look s.groups k = some g) : ∃ a, look (s.endPoisoned i).groups k = some { g with abort := a } := by
  unfold State.endPoisoned
  cases hx : look s.tasks i with
  | none => exact ⟨g.abort, by simpa only [State.endTask, hx] using hg⟩
  | some x =>
    by_cases hst : x.st = .ending
    · exact ⟨g.abort, by simpa only [State.endTask, hx, hst, beq_self_eq_true, if_true] using hg⟩
    · exact (State.endTask_abortsOnly hx hst _ _).group k g hg

/-- What a sheaf starts with in a register and in its lanes. -/
def State.sheafGroup (s : State) (sg : SKey) (b : Block) (gid : Nat) (rs : List Spawn) : Group :=
  groupStart ((List.range b.vregs).map (s.sheafReg gid rs)) b.startG ((List.range 32).map (fun l => (rs[l]?).elim Lane.gone (fun r => laneStart r.xpc r.ras))) sg.seg s.clock (maxOf (rs.map (fun r => r.gwct)))

theorem State.bindGroup_group {s : State} {k : GKey} {g : Group} (hg : look s.groups k = some g) (core : Nat) :
    ∃ n, look (s.bindGroup k core).groups k = some { g with slot := n, entered := s.clock, readySince := s.clock } :=
  ⟨_, upd_some _ hg⟩

/-- The group of a sheaf that has started, bound to an issue slot. -/
theorem State.startSheaf_group (s : State) (sg : SKey) (b : Block) (gid : Nat) (rs : List Spawn) :
    (s.startSheaf sg b gid rs).mem = s.mem ∧ ∃ n now a, look (s.startSheaf sg b gid rs).groups ⟨sg.blk, gid⟩ = some { s.sheafGroup sg b gid rs with slot := n, entered := now, readySince := now, abort := a } := by
  unfold State.startSheaf
  extract_lets lanes g t u
  have hput : look ({ t with groups := put t.groups ⟨sg.blk, gid⟩ g } : State).groups ⟨sg.blk, gid⟩ = some (s.sheafGroup sg b gid rs) := look_put _ _ _
  obtain ⟨n, hbound⟩ := State.bindGroup_group hput (b.cores.getD sg.seg 0)
  split
  · obtain ⟨a, hg⟩ := u.endPoisoned_group b.task hbound
    exact ⟨(u.endTask_controlStands _ _ _).mem, n, t.clock, a, hg⟩
  · exact ⟨rfl, n, t.clock, none, hbound⟩

section
variable (s : State) (sg : SKey) {b : Block} (gid : Nat) {rs : List Spawn} {i : Nat} {x : Spawn} (hi : i < 32) (hx : rs[i]? = some x)
include hi hx

theorem State.sheafGroup_lane (b : Block) : (s.sheafGroup sg b gid rs).lane i = laneStart x.xpc x.ras :=
  (getD_map_range (fun l => (rs[l]?).elim Lane.gone (fun r => laneStart r.xpc r.ras)) hi _).trans (by rw [hx]; rfl)

theorem State.sheafGroup_thread (hb : 0 < b.vregs) : (s.sheafGroup sg b gid rs).wordAt 0 i = x.thread := by
  have hreg : (s.sheafGroup sg b gid rs).v.getD 0 VReg.zero = s.sheafReg gid rs 0 := getD_map_range (s.sheafReg gid rs) hb _
  rw [Group.wordAt, hreg, State.sheafReg, getD_map_range _ hi, hx]
  rfl

end

/-! ### The exchanges of an issue slot -/

section
variable {s : State} {n : Nat} {x : Slot} (harg : s.arg = .num n) (hx : look s.slots n = some x)
include harg hx

theorem exec_groupExchange_eq : exec .groupExchange s = .next (if x.active.length < 8 ∧ x.pending ≠ [] then s.fillSlot n else
    (x.active.find? s.groupParked).elim s (fun a => (s.readyPending x).elim s (fun p => s.exchange n a p))) := by
  change execGroupExchange s = _
  simp only [execGroupExchange, harg, hx]
  refine congrArg Host.Outcome.next ?_
  by_cases h : x.active.length < 8 ∧ x.pending ≠ []
  · rw [if_pos h, if_pos ⟨h.1, by simpa using h.2⟩]
  · rw [if_neg h, if_neg fun hx => h ⟨hx.1, by simpa using hx.2⟩]
    cases x.active.find? s.groupParked <;> cases s.readyPending x <;> rfl

theorem exec_pendingPromotion_eq : exec .pendingPromotion s = .next ((x.active.zip (x.pending.filter s.longReady)).foldl (fun t e => t.exchange n e.1 e.2) s) := by
  change execPendingPromotion s = _
  simp only [execPendingPromotion, harg, hx]

end

end Sys2Proof.Machine

open Sys2Proof Sys2Proof.Machine in
/-- Settles O57: FORK maps the sequencers; a lone group that meets REGROUP moves in the order of a stable sort by key; the end of a move, a sheaf and the exchanges of a slot by what they do to one group. -/
theorem threadsAndSlots : Obligations.ThreadsAndSlots := by
  unfold Obligations.ThreadsAndSlots
  refine ⟨fun s m dsp gd ga key k lanes pc g hp => ⟨fun b hb h hj => ?fork, fun h => ?spawnq, ?regroup⟩, fun s k g harg hg hgid hend hwait hlive => ?moved,
    fun s sg b harg hruns hb => ?sheaf, fun s n x harg hx => ?slots⟩
  case fork =>
    have hexec : exec (.fork m ga) s = .next ((s.forkBlock s.curBlk (s.block ga.toNat)).finish m 8) := by
      change execFork m ga s = _
      exact uni_next h (firstExc_one_none (excIf_false hj))
    refine ⟨by rw [hexec, hp.curBlk], fun q e he hq => ?_⟩
    rw [State.finish_seqs ((s.forkBlock_cur _ _).trans hp.1)]
    refine ⟨_, State.mem_forkBlock_seqs hb _ he hq, rfl, fun pc' hpc => ?_⟩
    rw [← b.entryOf_eq] at hpc
    rw [hpc]
    exact ⟨rfl, rfl, rfl⟩
  case spawnq =>
    rw [← hp.curBlk]
    change execSpawnq m gd s = _
    exact uni_next h rfl
  case regroup =>
    intro mask kn names keys hready hkn hmask hkeys hwhole
    have hexec := hp.exec_regroup (m := m) hready hkn hmask hkeys hwhole
    refine ⟨fun hd => ?_, fun hd => ?_, fun hd hdsp ha hw hclob hspawn hm hlen hkey => ?_⟩
    · rw [hexec, if_neg (by simp [hd])]
    · rw [hexec, if_pos hd]
    · subst hdsp
      obtain ⟨g', hg', hmoving, hmem, hrest⟩ := hp.regroup_alone ha hw hclob hspawn hkey hm hlen gd.toNat m
      exact ⟨_, g', by rw [hexec, if_pos hd], hg', hmoving, hmem, hrest⟩
  case moved =>
    have hexec : exec .regroupMoveComplete s = .next (s.endMove k.blk) := by
      change execRegroupMoveComplete s = _
      simp only [execRegroupMoveComplete, harg]
    exact ⟨_, _, hexec, State.endMove_look hg hgid hend hwait hlive, rfl, rfl, rfl, s.endMove_mem _, rfl⟩
  case sheaf =>
    have hexec : exec .sheafStart s = .next (s.sheafStep sg false) := by
      change execSheafStart s = _
      simp only [execSheafStart, harg, hruns, if_true]
    refine ⟨fun h => by rw [hexec, State.sheafStep_none h], fun n r rs hn hr hv => ?_⟩
    obtain ⟨hmem, slot, now, a, hg⟩ := s.startSheaf_group sg b n (r :: rs)
    refine ⟨s.startSheaf sg b n (r :: rs), _, by simp only [hexec, State.sheafStep, hb, hn, hr], hg, rfl, rfl, rfl, rfl, hmem, fun i x hi hx => ?_⟩
    have hlane := s.sheafGroup_lane sg n hi hx b
    exact ⟨congrArg Lane.st hlane, congrArg Lane.pc hlane, congrArg Lane.ras hlane, s.sheafGroup_thread sg n hi hx hv⟩
  case slots =>
    have hexchange := exec_groupExchange_eq harg hx
    have hpromote := exec_pendingPromotion_eq harg hx
    refine ⟨fun hlt hne => ?_, fun hge a p hpark hready => ?_, fun hge hpark => ?_, fun a r p hact hlong => ?_, fun hlong => ?_⟩
    · rw [hexchange, if_pos ⟨hlt, hne⟩]
    · rw [hexchange, if_neg fun h => Nat.not_lt.2 hge h.1, hpark, hready]
      rfl
    · rw [hexchange, if_neg fun h => Nat.not_lt.2 hge h.1, hpark]
      rfl
    · rw [hpromote, hact, hlong, List.zip_cons_cons, List.zip_nil_right]
      rfl
    · rw [hpromote, hlong, List.zip_nil_right]
      rfl
